-- ==== Sys2Proof/Word.lean ====
section
/-! DEFINITION. The word types of the machine (00 R3: a word is 32 bits, a halfword 16, a doubleword 64) and
the 32-bit thread mask (00 R5). -/

namespace Sys2Proof

abbrev Byte := BitVec 8
abbrev Half := BitVec 16
abbrev Word := BitVec 32
abbrev DWord := BitVec 64
/-- Bit t stands for the thread whose tn is t (R5). -/
abbrev Mask := BitVec 32

end Sys2Proof
end

