-- ==== Sys2Proof/Config.lean ====
section
/-! DEFINITION. What the spec leaves open and an implementation fixes: constants with no body, of which nothing can be
proved (log entry 6). -/

namespace Sys2Proof

/-- FRCP (0) and FRSQ (1) of an operand: does the part give the upper or the lower of the two FP32 values that bracket
the exact value (05 R119)? -/
opaque Config.bracketUp (fn : Nat) (a : Word) : Bool

/-- FEXP2 (3), FLOG2 (4), FSIN (5) and FCOS (6) of an operand: the value the part gives, used where it lies within the
bound of R119. -/
opaque Config.transValue (fn : Nat) (a : Word) : Word

/-- A byte the spec states no value for, by number. -/
opaque Config.freeByte (n : Nat) : Byte

/-- A word the spec states no value for, by number. -/
opaque Config.freeWord (n : Nat) : Word

/-- Does an `.NT` load that finds every sector it needs valid in the L1 read them there, as 11 R242 has it, or only dirty
sectors, as 12 R269 has it? -/
opaque Config.ntHits : Bool

/-- The signature and digest bytes of an attestation answer (22 R465), by number. -/
opaque Config.freeAttest (n : Nat) : Nat

end Sys2Proof
end

