-- ==== Sys2Proof/Machine/Bits.lean ====
section
/-! DEFINITION. Bit fields, byte order and thread masks (00 R3, R5, R6). -/

namespace Sys2Proof.Machine

/-- `len` bits of `x` from bit `lo` (R3: bit 0 is least significant). -/
def fld (x lo len : Nat) : Nat := x / 2 ^ lo % 2 ^ len

/-- Bit `i` of `x`. -/
def bit (x i : Nat) : Bool := x / 2 ^ i % 2 = 1

/-- 1 for true, 0 for false. -/
def b2n (b : Bool) : Nat := if b then 1 else 0

/-- The signed value of the low `w` bits of `x` (two's complement, R31). -/
def sval (w x : Nat) : Int :=
  let y := x % 2 ^ w
  if 2 ^ (w - 1) ≤ y then (y : Int) - (2 : Int) ^ w else y

/-- `x` wrapped to `w` bits (R3, R33). -/
def wrapI (w : Nat) (x : Int) : Nat := (x % (2 : Int) ^ w).toNat

/-- The `n` bytes of `v`, lowest address first (R3: little-endian). -/
def leBytes : Nat → Nat → List Byte
  | 0, _ => []
  | n + 1, v => BitVec.ofNat 8 v :: leBytes n (v / 256)

/-- The number whose bytes, lowest address first, are `bs`. -/
def leNat : List Byte → Nat
  | [] => 0
  | b :: bs => b.toNat + 256 * leNat bs

/-- Is thread `t` in the mask (R5)? -/
def has (m : Mask) (t : Nat) : Bool := m.getLsbD t

/-- The threads of a mask in ascending tn. -/
def threads (m : Mask) : List Nat := (List.range 32).filter (has m)

/-- The mask of a list of threads. -/
def maskOf (ts : List Nat) : Mask := ts.foldl (fun m t => m ||| ((1 : Mask) <<< t)) 0

/-- The mask of the threads that satisfy `p`. -/
def maskWhere (p : Nat → Bool) : Mask := maskOf ((List.range 32).filter p)

/-- The mask of all 32 threads. -/
def fullMask : Mask := 0xFFFFFFFF

/-- The number of threads in a mask. -/
def popcount (m : Mask) : Nat := (threads m).length

/-- The lowest thread of a mask. -/
def lowest (m : Mask) : Option Nat := (threads m).head?

/-- Element `i` of a list of words, 0 beyond its end. -/
def nth (l : List Word) (i : Nat) : Word := l.getD i 0

/-- The value a keyed list holds for `k`. -/
def look {β : Type} (k : Nat) : List (Nat × β) → Option β
  | [] => none
  | (a, b) :: r => if a = k then some b else look k r

/-- The keyed list with `k` holding `v`; keys stay in rising order. -/
def put {β : Type} (k : Nat) (v : β) : List (Nat × β) → List (Nat × β)
  | [] => [(k, v)]
  | (a, b) :: r => if k < a then (k, v) :: (a, b) :: r else if a = k then (k, v) :: r else (a, b) :: put k v r

/-- The keyed list without `k`. -/
def del {β : Type} (k : Nat) (l : List (Nat × β)) : List (Nat × β) := l.filter fun p => p.1 ≠ k

/-- Element `i` of a list replaced. -/
def setAt {β : Type} (l : List β) (i : Nat) (v : β) : List β := l.set i v

/-- The first element that satisfies `p`, and the list without it. -/
def takeFirst {β : Type} (p : β → Bool) : List β → Option (β × List β)
  | [] => none
  | x :: r => if p x then some (x, r) else
      match takeFirst p r with
      | some (y, q) => some (y, x :: q)
      | none => none

/-- The first `some` that `f` gives. -/
def firstSome {α β : Type} (f : α → Option β) : List α → Option β
  | [] => none
  | x :: r => match f x with
    | some y => some y
    | none => firstSome f r

end Sys2Proof.Machine
end

