-- ==== Sys2Proof/Syntax.lean ====
section
/-! DEFINITION. Syntax of the GZ9's steps: the Ulidor instruction forms (03 R60 to R74) and the machine's other
indivisible steps that the opcode table lists beside them. One constructor per row of the table. -/

namespace Sys2Proof

/-- Kind-00 extension word (R65): guard, rounding mode, `.SAT`, `.FTZ`, third source, scope. -/
structure E0 where
  gp : BitVec 7
  gn : Bool
  rm : BitVec 2
  sat : Bool
  ftz : Bool
  ts : BitVec 7
  scope : BitVec 3
  deriving DecidableEq, Repr

/-- Kind-10 extension word (R67): last-read marks. Its reserved bits [2:0] are zero in every well-formed word. -/
structure E2 where
  la : Bool
  lb : Bool
  lt : Bool
  xe1 : Bool
  xr1 : BitVec 7
  xe2 : Bool
  xr2 : BitVec 7
  deriving DecidableEq, Repr

/-- What stands round an issuing word: C and W (R60) and its extension words (R65). -/
structure Hdr where
  c : Bool
  w : Bool
  e0 : Option E0
  e1 : Option (BitVec 22)
  e2 : Option E2
  deriving DecidableEq, Repr

/-- No extension word, C = 0, W = 0. -/
def Hdr.plain : Hdr := { c := false, w := false, e0 := none, e1 := none, e2 := none }

/-- The steps of the machine. An instruction form carries the fields of its words (R61): `h` its C, W and
extension words, `d a b` the fields D, A, B (PD, PA, PB in format P), `imm` the 10-bit immediate, `disp` the
24-bit displacement. A step of another agent carries numbers that say where it happens. -/
inductive Instr where
  /-- IADD_S32 (R88). -/
  | iaddS32 (h : Hdr) (d a b : BitVec 7)
  /-- IADD_N32 (R88). -/
  | iaddN32 (h : Hdr) (d a b : BitVec 7)
  /-- ISUB_S32 (R88). -/
  | isubS32 (h : Hdr) (d a b : BitVec 7)
  /-- ISUB_N32 (R88). -/
  | isubN32 (h : Hdr) (d a b : BitVec 7)
  /-- IADDC (R88). -/
  | iaddc (h : Hdr) (d a b : BitVec 7)
  /-- IABS (R88). -/
  | iabs (h : Hdr) (d a b : BitVec 7)
  /-- IMIN_S32 (R88). -/
  | iminS32 (h : Hdr) (d a b : BitVec 7)
  /-- IMIN_N32 (R88). -/
  | iminN32 (h : Hdr) (d a b : BitVec 7)
  /-- IMAX_S32 (R88). -/
  | imaxS32 (h : Hdr) (d a b : BitVec 7)
  /-- IMAX_N32 (R88). -/
  | imaxN32 (h : Hdr) (d a b : BitVec 7)
  /-- IMUL (R88). -/
  | imul (h : Hdr) (d a b : BitVec 7)
  /-- IMULHI_S32 (R88). -/
  | imulhiS32 (h : Hdr) (d a b : BitVec 7)
  /-- IMULHI_N32 (R88). -/
  | imulhiN32 (h : Hdr) (d a b : BitVec 7)
  /-- IMAD (R88). -/
  | imad (h : Hdr) (d a b : BitVec 7)
  /-- IMADW_S32 (R88). -/
  | imadwS32 (h : Hdr) (d a b : BitVec 7)
  /-- IMADW_N32 (R88). -/
  | imadwN32 (h : Hdr) (d a b : BitVec 7)
  /-- AND (R90). -/
  | and (h : Hdr) (d a b : BitVec 7)
  /-- OR (R90). -/
  | or (h : Hdr) (d a b : BitVec 7)
  /-- XOR (R90). -/
  | xor (h : Hdr) (d a b : BitVec 7)
  /-- LOP3 (R90). -/
  | lop3 (h : Hdr) (d a b : BitVec 7)
  /-- SHL (R90). -/
  | shl (h : Hdr) (d a b : BitVec 7)
  /-- SHR (R90). -/
  | shr (h : Hdr) (d a b : BitVec 7)
  /-- SAR (R90). -/
  | sar (h : Hdr) (d a b : BitVec 7)
  /-- SHF (R90). -/
  | shf (h : Hdr) (d a b : BitVec 7)
  /-- BFX_S32 (R90). -/
  | bfxS32 (h : Hdr) (d a b : BitVec 7)
  /-- BFX_N32 (R90). -/
  | bfxN32 (h : Hdr) (d a b : BitVec 7)
  /-- BFI (R90). -/
  | bfi (h : Hdr) (d a b : BitVec 7)
  /-- POPC (R90). -/
  | popc (h : Hdr) (d a b : BitVec 7)
  /-- CLZ (R90). -/
  | clz (h : Hdr) (d a b : BitVec 7)
  /-- BREV (R90). -/
  | brev (h : Hdr) (d a b : BitVec 7)
  /-- PRMT (R90). -/
  | prmt (h : Hdr) (d a b : BitVec 7)
  /-- SEL (R92). -/
  | sel (h : Hdr) (d a b : BitVec 7)
  /-- MOV (R92). -/
  | mov (h : Hdr) (d a b : BitVec 7)
  /-- LEA (R92). -/
  | lea (h : Hdr) (d a b : BitVec 7)
  /-- ADD64 (R92). -/
  | add64 (h : Hdr) (d a b : BitVec 7)
  /-- MOVI (R92). -/
  | movi (h : Hdr) (d a : BitVec 7) (imm : BitVec 10)
  /-- IADD_IMM (R88). -/
  | iaddImm (h : Hdr) (d a : BitVec 7) (imm : BitVec 10)
  /-- IMUL_IMM (R88). -/
  | imulImm (h : Hdr) (d a : BitVec 7) (imm : BitVec 10)
  /-- AND_IMM (R90). -/
  | andImm (h : Hdr) (d a : BitVec 7) (imm : BitVec 10)
  /-- OR_IMM (R90). -/
  | orImm (h : Hdr) (d a : BitVec 7) (imm : BitVec 10)
  /-- XOR_IMM (R90). -/
  | xorImm (h : Hdr) (d a : BitVec 7) (imm : BitVec 10)
  /-- SHL_IMM (R90). -/
  | shlImm (h : Hdr) (d a : BitVec 7) (imm : BitVec 10)
  /-- SHR_IMM (R90). -/
  | shrImm (h : Hdr) (d a : BitVec 7) (imm : BitVec 10)
  /-- SAR_IMM (R90). -/
  | sarImm (h : Hdr) (d a : BitVec 7) (imm : BitVec 10)
  /-- FADD (R114). -/
  | fadd (h : Hdr) (d a b : BitVec 7)
  /-- FMUL (R114). -/
  | fmul (h : Hdr) (d a b : BitVec 7)
  /-- FFMA (R114). -/
  | ffma (h : Hdr) (d a b : BitVec 7)
  /-- FMIN (R115). -/
  | fmin (h : Hdr) (d a b : BitVec 7)
  /-- FMAX (R115). -/
  | fmax (h : Hdr) (d a b : BitVec 7)
  /-- FRND (R116). -/
  | frnd (h : Hdr) (d a b : BitVec 7)
  /-- FCLASS (R117). -/
  | fclass (h : Hdr) (d a b : BitVec 7)
  /-- FRCP (R119). -/
  | frcp (h : Hdr) (d a b : BitVec 7)
  /-- FRSQ (R119). -/
  | frsq (h : Hdr) (d a b : BitVec 7)
  /-- FSQRT (R119). -/
  | fsqrt (h : Hdr) (d a b : BitVec 7)
  /-- FEXP2 (R119). -/
  | fexp2 (h : Hdr) (d a b : BitVec 7)
  /-- FLOG2 (R119). -/
  | flog2 (h : Hdr) (d a b : BitVec 7)
  /-- FSIN (R119). -/
  | fsin (h : Hdr) (d a b : BitVec 7)
  /-- FCOS (R119). -/
  | fcos (h : Hdr) (d a b : BitVec 7)
  /-- DADD (R114). -/
  | dadd (h : Hdr) (d a b : BitVec 7)
  /-- DMUL (R114). -/
  | dmul (h : Hdr) (d a b : BitVec 7)
  /-- DFMA (R114). -/
  | dfma (h : Hdr) (d a b : BitVec 7)
  /-- HADD2 (R121). -/
  | hadd2 (h : Hdr) (d a b : BitVec 7)
  /-- HMUL2 (R121). -/
  | hmul2 (h : Hdr) (d a b : BitVec 7)
  /-- HFMA2 (R121). -/
  | hfma2 (h : Hdr) (d a b : BitVec 7)
  /-- BFMA2 (R121). -/
  | bfma2 (h : Hdr) (d a b : BitVec 7)
  /-- CVT (R122). -/
  | cvt (h : Hdr) (d a : BitVec 7) (imm : BitVec 10)
  /-- PACK (R127). -/
  | pack (h : Hdr) (d a : BitVec 7) (imm : BitVec 10)
  /-- UNPK (R128). -/
  | unpk (h : Hdr) (d a : BitVec 7) (imm : BitVec 10)
  /-- DP4_E4M3 (R124). -/
  | dp4E4m3 (h : Hdr) (d a b : BitVec 7)
  /-- DP4_E5M2 (R124). -/
  | dp4E5m2 (h : Hdr) (d a b : BitVec 7)
  /-- DP4_E3M2 (R124). -/
  | dp4E3m2 (h : Hdr) (d a b : BitVec 7)
  /-- DP4_E2M3 (R124). -/
  | dp4E2m3 (h : Hdr) (d a b : BitVec 7)
  /-- DP4_S8 (R124). -/
  | dp4S8 (h : Hdr) (d a b : BitVec 7)
  /-- DP4_N8 (R124). -/
  | dp4N8 (h : Hdr) (d a b : BitVec 7)
  /-- DP4_S8N8 (R124). -/
  | dp4S8n8 (h : Hdr) (d a b : BitVec 7)
  /-- DP8_E2M1 (R124). -/
  | dp8E2m1 (h : Hdr) (d a b : BitVec 7)
  /-- DP8_S4 (R124). -/
  | dp8S4 (h : Hdr) (d a b : BitVec 7)
  /-- DP8_N4 (R124). -/
  | dp8N4 (h : Hdr) (d a b : BitVec 7)
  /-- DP8_S4N4 (R124). -/
  | dp8S4n4 (h : Hdr) (d a b : BitVec 7)
  /-- FSCL_F32 (R114). -/
  | fsclF32 (h : Hdr) (d a b : BitVec 7)
  /-- FSCL_F64 (R114). -/
  | fsclF64 (h : Hdr) (d a b : BitVec 7)
  /-- ICMP_EQ (R94). -/
  | icmpEq (h : Hdr) (d a b : BitVec 7)
  /-- ICMP_NE (R94). -/
  | icmpNe (h : Hdr) (d a b : BitVec 7)
  /-- ICMP_LT_S32 (R94). -/
  | icmpLtS32 (h : Hdr) (d a b : BitVec 7)
  /-- ICMP_LE_S32 (R94). -/
  | icmpLeS32 (h : Hdr) (d a b : BitVec 7)
  /-- ICMP_LT_N32 (R94). -/
  | icmpLtN32 (h : Hdr) (d a b : BitVec 7)
  /-- ICMP_LE_N32 (R94). -/
  | icmpLeN32 (h : Hdr) (d a b : BitVec 7)
  /-- FCMP_EQ (R118). -/
  | fcmpEq (h : Hdr) (d a b : BitVec 7)
  /-- FCMP_NE (R118). -/
  | fcmpNe (h : Hdr) (d a b : BitVec 7)
  /-- FCMP_LT (R118). -/
  | fcmpLt (h : Hdr) (d a b : BitVec 7)
  /-- FCMP_LE (R118). -/
  | fcmpLe (h : Hdr) (d a b : BitVec 7)
  /-- FCMP_UN (R118). -/
  | fcmpUn (h : Hdr) (d a b : BitVec 7)
  /-- FCMP_NEU (R118). -/
  | fcmpNeu (h : Hdr) (d a b : BitVec 7)
  /-- FCMP_LTU (R118). -/
  | fcmpLtu (h : Hdr) (d a b : BitVec 7)
  /-- FCMP_LEU (R118). -/
  | fcmpLeu (h : Hdr) (d a b : BitVec 7)
  /-- FCMP_EQ_F64 (R118). -/
  | fcmpEqF64 (h : Hdr) (d a b : BitVec 7)
  /-- FCMP_NE_F64 (R118). -/
  | fcmpNeF64 (h : Hdr) (d a b : BitVec 7)
  /-- FCMP_LT_F64 (R118). -/
  | fcmpLtF64 (h : Hdr) (d a b : BitVec 7)
  /-- FCMP_LE_F64 (R118). -/
  | fcmpLeF64 (h : Hdr) (d a b : BitVec 7)
  /-- FCMP_UN_F64 (R118). -/
  | fcmpUnF64 (h : Hdr) (d a b : BitVec 7)
  /-- FCMP_NEU_F64 (R118). -/
  | fcmpNeuF64 (h : Hdr) (d a b : BitVec 7)
  /-- FCMP_LTU_F64 (R118). -/
  | fcmpLtuF64 (h : Hdr) (d a b : BitVec 7)
  /-- FCMP_LEU_F64 (R118). -/
  | fcmpLeuF64 (h : Hdr) (d a b : BitVec 7)
  /-- PLOP (R94). -/
  | plop (h : Hdr) (d a b : BitVec 7)
  /-- PMOV (R94). -/
  | pmov (h : Hdr) (d a b : BitVec 7)
  /-- BRA (R105). -/
  | bra (h : Hdr) (disp : BitVec 24)
  /-- CALL (R106). -/
  | call (h : Hdr) (disp : BitVec 24)
  /-- BRX (R105). -/
  | brx (h : Hdr) (d a b : BitVec 7)
  /-- CALLX (R106). -/
  | callx (h : Hdr) (d a b : BitVec 7)
  /-- RET (R105). -/
  | ret (h : Hdr) (d a b : BitVec 7)
  /-- EXIT (R107). -/
  | exit (h : Hdr) (d a b : BitVec 7)
  /-- NOP (R108). -/
  | nop (h : Hdr) (d a b : BitVec 7)
  /-- RJENR (R174). -/
  | rjenr (h : Hdr) (d a b : BitVec 7)
  /-- RJPARK (R174). -/
  | rjpark (h : Hdr) (d a b : BitVec 7)
  /-- RJSTRK (R174). -/
  | rjstrk (h : Hdr) (d a b : BitVec 7)
  /-- RJRD (R174). -/
  | rjrd (h : Hdr) (d a b : BitVec 7)
  /-- WMASK (R175). -/
  | wmask (h : Hdr) (d a b : BitVec 7)
  /-- SHFL_PICK (R176). -/
  | shflPick (h : Hdr) (d a b : BitVec 7)
  /-- SHFL_LAG (R176). -/
  | shflLag (h : Hdr) (d a b : BitVec 7)
  /-- SHFL_LEAD (R176). -/
  | shflLead (h : Hdr) (d a b : BitVec 7)
  /-- SHFL_MIRR (R176). -/
  | shflMirr (h : Hdr) (d a b : BitVec 7)
  /-- VOTE_EVERY (R178). -/
  | voteEvery (h : Hdr) (d a b : BitVec 7)
  /-- VOTE_SOME (R178). -/
  | voteSome (h : Hdr) (d a b : BitVec 7)
  /-- VOTE_SAME (R178). -/
  | voteSame (h : Hdr) (d a b : BitVec 7)
  /-- BALLOT (R178). -/
  | ballot (h : Hdr) (d a b : BitVec 7)
  /-- REDUX_SUM (R179). -/
  | reduxSum (h : Hdr) (d a b : BitVec 7)
  /-- REDUX_LEAST_S32 (R179). -/
  | reduxLeastS32 (h : Hdr) (d a b : BitVec 7)
  /-- REDUX_LEAST_N32 (R179). -/
  | reduxLeastN32 (h : Hdr) (d a b : BitVec 7)
  /-- REDUX_MOST_S32 (R179). -/
  | reduxMostS32 (h : Hdr) (d a b : BitVec 7)
  /-- REDUX_MOST_N32 (R179). -/
  | reduxMostN32 (h : Hdr) (d a b : BitVec 7)
  /-- REDUX_BAND (R179). -/
  | reduxBand (h : Hdr) (d a b : BitVec 7)
  /-- REDUX_BOR (R179). -/
  | reduxBor (h : Hdr) (d a b : BitVec 7)
  /-- REDUX_BXOR (R179). -/
  | reduxBxor (h : Hdr) (d a b : BitVec 7)
  /-- MATCH_PEERS (R180). -/
  | matchPeers (h : Hdr) (d a b : BitVec 7)
  /-- MATCH_UNIF (R180). -/
  | matchUnif (h : Hdr) (d a b : BitVec 7)
  /-- XSW (R182). -/
  | xsw (h : Hdr) (d a b : BitVec 7)
  /-- BAR (R185). -/
  | bar (h : Hdr) (d a b : BitVec 7)
  /-- BARA (R185). -/
  | bara (h : Hdr) (d a b : BitVec 7)
  /-- BARW (R185). -/
  | barw (h : Hdr) (d a b : BitVec 7)
  /-- YIELD (R187). -/
  | yield (h : Hdr) (d a b : BitVec 7)
  /-- LNCH (R188). -/
  | lnch (h : Hdr) (d a b : BitVec 7)
  /-- RDSR (R189). -/
  | rdsr (h : Hdr) (d a : BitVec 7) (imm : BitVec 10)
  /-- WRSR (R189). -/
  | wrsr (h : Hdr) (d a : BitVec 7) (imm : BitVec 10)
  /-- LD_N8 (R97). -/
  | ldN8 (h : Hdr) (d a b : BitVec 7)
  /-- LD_S8 (R97). -/
  | ldS8 (h : Hdr) (d a b : BitVec 7)
  /-- LD_N16 (R97). -/
  | ldN16 (h : Hdr) (d a b : BitVec 7)
  /-- LD_S16 (R97). -/
  | ldS16 (h : Hdr) (d a b : BitVec 7)
  /-- LD_B32 (R97). -/
  | ldB32 (h : Hdr) (d a b : BitVec 7)
  /-- LD_B64 (R97). -/
  | ldB64 (h : Hdr) (d a b : BitVec 7)
  /-- LD_B128 (R97). -/
  | ldB128 (h : Hdr) (d a b : BitVec 7)
  /-- ST_B8 (R99). -/
  | stB8 (h : Hdr) (d a b : BitVec 7)
  /-- ST_B16 (R99). -/
  | stB16 (h : Hdr) (d a b : BitVec 7)
  /-- ST_B32 (R99). -/
  | stB32 (h : Hdr) (d a b : BitVec 7)
  /-- ST_B64 (R99). -/
  | stB64 (h : Hdr) (d a b : BitVec 7)
  /-- ST_B128 (R99). -/
  | stB128 (h : Hdr) (d a b : BitVec 7)
  /-- ATOM_ADD_B32 (R100). -/
  | atomAddB32 (h : Hdr) (d a b : BitVec 7)
  /-- ATOM_MIN_S32 (R100). -/
  | atomMinS32 (h : Hdr) (d a b : BitVec 7)
  /-- ATOM_MIN_N32 (R100). -/
  | atomMinN32 (h : Hdr) (d a b : BitVec 7)
  /-- ATOM_MAX_S32 (R100). -/
  | atomMaxS32 (h : Hdr) (d a b : BitVec 7)
  /-- ATOM_MAX_N32 (R100). -/
  | atomMaxN32 (h : Hdr) (d a b : BitVec 7)
  /-- ATOM_AND_B32 (R100). -/
  | atomAndB32 (h : Hdr) (d a b : BitVec 7)
  /-- ATOM_OR_B32 (R100). -/
  | atomOrB32 (h : Hdr) (d a b : BitVec 7)
  /-- ATOM_XOR_B32 (R100). -/
  | atomXorB32 (h : Hdr) (d a b : BitVec 7)
  /-- ATOM_EXCH_B32 (R100). -/
  | atomExchB32 (h : Hdr) (d a b : BitVec 7)
  /-- ATOM_CAS_B32 (R100). -/
  | atomCasB32 (h : Hdr) (d a b : BitVec 7)
  /-- ATOM_ADD_F32 (R100). -/
  | atomAddF32 (h : Hdr) (d a b : BitVec 7)
  /-- ATOM_EXCH_B64 (R100). -/
  | atomExchB64 (h : Hdr) (d a b : BitVec 7)
  /-- ATOM_CAS_B64 (R100). -/
  | atomCasB64 (h : Hdr) (d a b : BitVec 7)
  /-- ATOM_ADD_B64 (R100). -/
  | atomAddB64 (h : Hdr) (d a b : BitVec 7)
  /-- ATOM_CAS_B128 (R100). -/
  | atomCasB128 (h : Hdr) (d a b : BitVec 7)
  /-- ATOM_ADD_F64 (R100). -/
  | atomAddF64 (h : Hdr) (d a b : BitVec 7)
  /-- RED_ADD_B32 (R101). -/
  | redAddB32 (h : Hdr) (d a b : BitVec 7)
  /-- RED_MIN_S32 (R101). -/
  | redMinS32 (h : Hdr) (d a b : BitVec 7)
  /-- RED_MIN_N32 (R101). -/
  | redMinN32 (h : Hdr) (d a b : BitVec 7)
  /-- RED_MAX_S32 (R101). -/
  | redMaxS32 (h : Hdr) (d a b : BitVec 7)
  /-- RED_MAX_N32 (R101). -/
  | redMaxN32 (h : Hdr) (d a b : BitVec 7)
  /-- RED_ADD_F32 (R101). -/
  | redAddF32 (h : Hdr) (d a b : BitVec 7)
  /-- RED_ADD_B64 (R101). -/
  | redAddB64 (h : Hdr) (d a b : BitVec 7)
  /-- RED_ADD_F64 (R101). -/
  | redAddF64 (h : Hdr) (d a b : BitVec 7)
  /-- RED_AND_B32 (R101). -/
  | redAndB32 (h : Hdr) (d a b : BitVec 7)
  /-- RED_OR_B32 (R101). -/
  | redOrB32 (h : Hdr) (d a b : BitVec 7)
  /-- RED_XOR_B32 (R101). -/
  | redXorB32 (h : Hdr) (d a b : BitVec 7)
  /-- FENCE (R256). -/
  | fence (h : Hdr) (d a b : BitVec 7)
  /-- CINV (R261). -/
  | cinv (h : Hdr) (d a b : BitVec 7)
  /-- CWB (R261). -/
  | cwb (h : Hdr) (d a b : BitVec 7)
  /-- PREF (R263). -/
  | pref (h : Hdr) (d a b : BitVec 7)
  /-- PROBE (R265). -/
  | probe (h : Hdr) (d a b : BitVec 7)
  /-- UNPIN (R266). -/
  | unpin (h : Hdr) (d a b : BitVec 7)
  /-- CPY (R291). -/
  | cpy (h : Hdr) (d a b : BitVec 7)
  /-- FENCE_XP (R303). -/
  | fenceXp (h : Hdr) (d a b : BitVec 7)
  /-- LD_DIR (R250). -/
  | ldDir (h : Hdr) (d a b : BitVec 7)
  /-- ST_DIR (R250). -/
  | stDir (h : Hdr) (d a b : BitVec 7)
  /-- MXACQ (R325). -/
  | mxacq (h : Hdr) (d a b : BitVec 7)
  /-- MXREL (R325). -/
  | mxrel (h : Hdr) (d a b : BitVec 7)
  /-- MXOWN (R328). -/
  | mxown (h : Hdr) (d a b : BitVec 7)
  /-- MXQ (R315). -/
  | mxq (h : Hdr) (d a b : BitVec 7)
  /-- MXWAIT (R322). -/
  | mxwait (h : Hdr) (d a b : BitVec 7)
  /-- MXRD (R325). -/
  | mxrd (h : Hdr) (d a b : BitVec 7)
  /-- MXWR (R325). -/
  | mxwr (h : Hdr) (d a b : BitVec 7)
  /-- MXZERO (R325). -/
  | mxzero (h : Hdr) (d a b : BitVec 7)
  /-- MXSTAT (R323). -/
  | mxstat (h : Hdr) (d a b : BitVec 7)
  /-- QDOPEN (R341). -/
  | qdopen (h : Hdr) (d a b : BitVec 7)
  /-- QDNEXT (R342). -/
  | qdnext (h : Hdr) (d a b : BitVec 7)
  /-- QDSPLIT (R345). -/
  | qdsplit (h : Hdr) (d a b : BitVec 7)
  /-- QDSAVE (R341). -/
  | qdsave (h : Hdr) (d a b : BitVec 7)
  /-- QDLOAD (R341). -/
  | qdload (h : Hdr) (d a b : BitVec 7)
  /-- QDCLOSE (R341). -/
  | qdclose (h : Hdr) (d a b : BitVec 7)
  /-- QDSTAT (R343). -/
  | qdstat (h : Hdr) (d a b : BitVec 7)
  /-- QDPROBE (R341). -/
  | qdprobe (h : Hdr) (d a b : BitVec 7)
  /-- QYINIT (R371). -/
  | qyinit (h : Hdr) (d a b : BitVec 7)
  /-- QYPUSH (R372). -/
  | qypush (h : Hdr) (d a b : BitVec 7)
  /-- QYPOP (R373). -/
  | qypop (h : Hdr) (d a b : BitVec 7)
  /-- QYDONE (R374). -/
  | qydone (h : Hdr) (d a b : BitVec 7)
  /-- QYFLOOR (R375). -/
  | qyfloor (h : Hdr) (d a b : BitVec 7)
  /-- QYQUIET (R375). -/
  | qyquiet (h : Hdr) (d a b : BitVec 7)
  /-- QYYIELD (R374). -/
  | qyyield (h : Hdr) (d a b : BitVec 7)
  /-- QYSTAT (R376). -/
  | qystat (h : Hdr) (d a b : BitVec 7)
  /-- TRAP (R396). -/
  | trap (h : Hdr) (d a b : BitVec 7)
  /-- RETT (R396). -/
  | rett (h : Hdr) (d a b : BitVec 7)
  /-- REGION (R397). -/
  | region (h : Hdr) (d a b : BitVec 7)
  /-- BRK (R396). -/
  | brk (h : Hdr) (d a b : BitVec 7)
  /-- RDTR (R398). -/
  | rdtr (h : Hdr) (d a b : BitVec 7)
  /-- VRDX (R399). -/
  | vrdx (h : Hdr) (d a b : BitVec 7)
  /-- VWRX (R399). -/
  | vwrx (h : Hdr) (d a b : BitVec 7)
  /-- PATCH (R74). -/
  | patch (h : Hdr) (n : BitVec 2) (tool : BitVec 22)
  /-- TRMP (R418). -/
  | trmp (h : Hdr) (disp : BitVec 24)
  /-- MEMORY_REPLY (R22). -/
  | memoryReply (w id : Nat)
  /-- SWITCH_MARKER_RELEASE (R165). -/
  | switchMarkerRelease (w : Nat)
  /-- GRANT_COUNT_ROTATION (R166). -/
  | grantCountRotation (w : Nat)
  /-- ALLOCATION_RELEASE (R158). -/
  | allocationRelease (lane : Nat)
  /-- LANE_SPILL (R159). -/
  | laneSpill (lane : Nat)
  /-- SPILL_RESTORE (R159). -/
  | spillRestore (w : Nat)
  /-- WARP_END (R142). -/
  | warpEnd (w : Nat)
  /-- BARRIER_PHASE_COMPLETE (R185). -/
  | barrierPhaseComplete (w scope id : Nat)
  /-- XSW_PAIR_COMPLETE (R182). -/
  | xswPairComplete (w w2 : Nat)
  /-- LNCH_RECORD_READ (R188). -/
  | lnchRecordRead (w : Nat)
  /-- TIMER_TRAP (R400). -/
  | timerTrap (w slot : Nat)
  /-- TRAP_ENTRY (R390). -/
  | trapEntry (w slot : Nat)
  /-- TRANSLATION_WALK (R229). -/
  | translationWalk (w id : Nat)
  /-- WALK_FAULT (R388). -/
  | walkFault (w slot : Nat)
  /-- FAULT_RECORD_WRITE (R231). -/
  | faultRecordWrite
  /-- REGION_BOUNDARY (R387). -/
  | regionBoundary (w slot : Nat)
  /-- STORE_ENTRY_PERFORM (R270). -/
  | storeEntryPerform (w : Nat)
  /-- COALESCE_REQUEST_SEND (R218). -/
  | coalesceRequestSend (lane : Nat)
  /-- L1_FILL (R221). -/
  | l1Fill (core : Nat)
  /-- HOME_SLICE_SERVE (R272). -/
  | homeSliceServe (slice idx : Nat)
  /-- L2_MEMORY_REPLY (R235). -/
  | l2MemoryReply (slice : Nat)
  /-- BASE_DIE_SERVICE (R239). -/
  | baseDieService (stack : Nat)
  /-- DIRECT_PACKET_SEND (R251). -/
  | directPacketSend (w : Nat)
  /-- DIRECT_REPLY (R252). -/
  | directReply (w : Nat)
  /-- FENCE_COMPLETE (R256). -/
  | fenceComplete (w : Nat)
  /-- CACHE_MAINT_COMPLETE (R261). -/
  | cacheMaintComplete (w : Nat)
  /-- FENCE_XP_COMPLETE (R303). -/
  | fenceXpComplete (w : Nat)
  /-- COPY_LINE_OPERATION (R292). -/
  | copyLineOperation (core ent : Nat)
  /-- COPY_TRANSLATION_FAULT (R300). -/
  | copyTranslationFault (core ent : Nat)
  /-- COPY_RETIRE (R294). -/
  | copyRetire (core ent : Nat)
  /-- MX_PASS_SELECT (R317). -/
  | mxPassSelect (cl : Nat)
  /-- MX_STEP (R315). -/
  | mxStep (cl : Nat)
  /-- MX_PASS_COMPLETE (R319). -/
  | mxPassComplete (cl : Nat)
  /-- MXZERO_RUN (R325). -/
  | mxzeroRun (cl : Nat)
  /-- MXACQ_BIND (R325). -/
  | mxacqBind (w slot : Nat)
  /-- MXREL_RETURN (R325). -/
  | mxrelReturn (w slot : Nat)
  /-- MXOWN_FLIP (R328). -/
  | mxownFlip (w slot : Nat)
  /-- MXWAIT_REPORT (R322). -/
  | mxwaitReport (w slot : Nat)
  /-- MX_ROW_ACCESS (R327). -/
  | mxRowAccess (w slot : Nat)
  /-- TOKEN_ARRIVE (R318). -/
  | tokenArrive (die tok : Nat)
  /-- TOKEN_IDLE_MOVE (R318). -/
  | tokenIdleMove (die tok : Nat)
  /-- BURST_END (R318). -/
  | burstEnd (cl : Nat)
  /-- QD_COMMAND_SERVE (R340). -/
  | qdCommandServe (cl idx : Nat)
  /-- QD_STREAM_FAULT (R348). -/
  | qdStreamFault (cl idx : Nat)
  /-- PUSH_COMPLETE (R360). -/
  | pushComplete (w : Nat)
  /-- SPOIL_REFILL (R362). -/
  | spoilRefill (cl : Nat)
  /-- POP_SERVE (R364). -/
  | popServe (w id : Nat)
  /-- STEAL (R364). -/
  | steal (w id victim : Nat)
  /-- FLOOR_WAVE (R358). -/
  | floorWave (ctx n : Nat)
  /-- TERMINATION_PASS (R366). -/
  | terminationPass (ctx n : Nat)
  /-- QUIET_WAIT_RELEASE (R375). -/
  | quietWaitRelease (w slot : Nat)
  /-- HEAD_RECORD_READ (R201). -/
  | headRecordRead (q : Nat)
  /-- WAIT_SIGNAL_READ (R206). -/
  | waitSignalRead (q : Nat)
  /-- PLACEMENT_DECISION (R208). -/
  | placementDecision
  /-- LAUNCH_COMPLETE (R213). -/
  | launchComplete (lnch : Nat)
  /-- QUEUE_TAIL_WRITE (R201). -/
  | queueTailWrite (q v : Nat)
  /-- QUEUE_ENABLE (R200). -/
  | queueEnable (q : Nat)
  /-- QUEUE_DISABLE (R200). -/
  | queueDisable (q : Nat)
  /-- QUEUE_ERROR_CLEAR (R203). -/
  | queueErrorClear (q bits : Nat)
  /-- STOP (R404). -/
  | stop (ch : Nat)
  /-- DRAIN (R404). -/
  | drain (ch : Nat)
  /-- RESUME (R404). -/
  | resume (ch : Nat)
  /-- FRESET_CLEAR (R403). -/
  | fresetClear (ch : Nat)
  /-- GRACE_EXPIRY (R406). -/
  | graceExpiry (ch : Nat)
  /-- DEADLINE_EXPIRY (R407). -/
  | deadlineExpiry (ch : Nat)
  /-- STOP_COPY_ENGINE (R301). -/
  | stopCopyEngine (ch gang : Nat)
  /-- STOP_COORDINATE_ENGINE (R352). -/
  | stopCoordinateEngine (ch gang : Nat)
  /-- STOP_WARPS (R410). -/
  | stopWarps (ch gang : Nat)
  /-- STOP_MATRIX_ENGINE (R330). -/
  | stopMatrixEngine (ch gang : Nat)
  /-- STOP_FLUSH_SAVE (R408). -/
  | stopFlushSave (ch gang : Nat)
  /-- GANG_RESTORE (R415). -/
  | gangRestore (ch : Nat)
  /-- FAULT_ANSWER_RESUME (R442). -/
  | faultAnswerResume (seq : Nat)
  /-- FAULT_ANSWER_FATAL (R442). -/
  | faultAnswerFatal (seq : Nat)
  /-- FAULT_RING_ENABLE (R442). -/
  | faultRingEnable
  /-- FAULT_RING_DISABLE (R442). -/
  | faultRingDisable
  /-- FAULT_RING_ERROR_CLEAR (R442). -/
  | faultRingErrorClear (bits : Nat)
  /-- INVALIDATE_GO (R443). -/
  | invalidateGo
  /-- INVALIDATE_DONE (R230). -/
  | invalidateDone
  /-- INVALIDATE_ERROR_CLEAR (R443). -/
  | invalidateErrorClear
  /-- BAR2_READ (R439). -/
  | bar2Read (off n : Nat)
  /-- BAR2_WRITE (R439). -/
  | bar2Write (off : Nat) (bytes : List Byte)
  /-- WINERR_CLEAR (R440). -/
  | winerrClear
  /-- REGISTER_WRITE (R8). -/
  | registerWrite (off size v : Nat)
  /-- HELD_WRITE_TAKE (R452). -/
  | heldWriteTake
  /-- FLIT_ROUTE (R425). -/
  | flitRoute (idx : Nat)
  /-- LINK_POWER_DOWN (R428). -/
  | linkPowerDown (l : Nat)
  /-- LINK_OFF (R428). -/
  | linkOff (l : Nat)
  /-- LINK_WAKE (R428). -/
  | linkWake (l : Nat)
  /-- LINK_ACTIVE (R428). -/
  | linkActive (l : Nat)
  /-- VIRVIS_PORT_UP_CHANGE (R444). -/
  | virvisPortUpChange (k : Nat) (up : Bool) (far : Nat)
  /-- PDUP_CLEAR (R444). -/
  | pdupClear (k : Nat)
  /-- PEER_REQUEST (R432). -/
  | peerRequest (src op addr : Nat) (bytes : List Byte)
  /-- PCIE_COMPLETION (R434). -/
  | pcieCompletion (tag status : Nat)
  /-- PCIE_COMPLETION_TIMEOUT (R434). -/
  | pcieCompletionTimeout (tag : Nat)
  /-- DEVICE_RESET (R450). -/
  | deviceReset (cause : Nat)
  /-- BOOT_VERIFY (R464). -/
  | bootVerify
  /-- SELF_TEST_PASS (R450). -/
  | selfTestPass (fn : Nat)
  /-- SELF_TEST_FAIL (R450). -/
  | selfTestFail (fn : Nat)
  /-- FIRMWARE_VERIFY (R464). -/
  | firmwareVerify
  /-- FIRMWARE_VERIFY_DONE (R464). -/
  | firmwareVerifyDone
  /-- GET_VERSION (R465). -/
  | getVersion
  /-- GET_CAPABILITIES (R465). -/
  | getCapabilities
  /-- NEGOTIATE_ALGORITHMS (R465). -/
  | negotiateAlgorithms
  /-- GET_MEASUREMENTS (R465). -/
  | getMeasurements (idx : Nat)
  /-- SPDM_UNSUPPORTED (R465). -/
  | spdmUnsupported (code : Nat)
  /-- ECC_CORRECTED (R456). -/
  | eccCorrected (hbm : Bool) (unit addr : Nat)
  /-- ECC_UNCORRECTABLE (R240). -/
  | eccUncorrectable (hbm : Bool) (unit addr : Nat) (ctx : Option Nat)
  /-- HBM_SCRUB (R456). -/
  | hbmScrub (stack : Nat)
  /-- ECC_COUNTER_WRITE (R456). -/
  | eccCounterWrite (hbm : Bool) (unit which v : Nat)
  /-- POWER_LIMIT_WRITE (R462). -/
  | powerLimitWrite (v : Nat)
  /-- THROTTLE_SET (R463). -/
  | throttleSet (die temp : Nat)
  /-- THROTTLE_CLEAR (R463). -/
  | throttleClear (die temp : Nat)
  /-- THERMAL_SHUTDOWN (R463). -/
  | thermalShutdown (die temp : Nat)
  /-- D3HOT_ENTER (R461). -/
  | d3hotEnter
  /-- D3HOT_EXIT (R461). -/
  | d3hotExit
  /-- POWER_REMOVAL (R461). -/
  | powerRemoval
  /-- ILLEGAL_INSTRUCTION (R70). -/
  | illegalInstruction (fpc : BitVec 64) (word : Word)
  /-- MSIX_VECTOR_UNMASK (R446). -/
  | msixVectorUnmask (v : Nat)
  /-- LINKED_CONTEXT_END (R436). -/
  | linkedContextEnd (lgid : Nat)
  deriving DecidableEq, Repr

end Sys2Proof
end

