-- ==== Sys2Proof/Machine/Forms.lean ====
section
/-! DEFINITION. The form table: for every instruction form, where it stands in the opcode map and how it uses its
fields (R71, R87 to R95, R97 to R101, R104, R109, R122, R125, R169, R248, R255, R260, R264, R288, R302, R312,
R322 to R324, R339, R369, R395, R418). -/

namespace Sys2Proof.Machine

/-- The five formats of R61 that issue. -/
inductive Fmt where
  | t | k | j | p
  deriving DecidableEq, Repr

/-- The pipe of a form (R20, R71); `ax` is "A or X" (R110). -/
inductive Pipe where
  | a | x | m | ax
  deriving DecidableEq, Repr

/-- The space a register field may lie in (R62). -/
inductive Sp where
  | any | v | s
  deriving DecidableEq, Repr

/-- How a form uses an operand field. -/
inductive Opd where
  /-- Must be zero (R72). -/
  | zero
  /-- A source of `n` registers. -/
  | src (n : Nat) (sp : Sp)
  /-- A destination of `n` registers. -/
  | dst (n : Nat) (sp : Sp)
  /-- A code, 0 to `m`. -/
  | num (m : Nat)
  /-- A predicate source, a predicate destination (R62). -/
  | psrc | pdst
  /-- CVT's destination and source: as wide as their formats (R122). -/
  | cvtD | cvtS
  /-- RDSR's destination, WRSR's source: as wide as the system register (R189, R190). -/
  | srD | srS
  /-- The base of an address (R96), the memory code (R95). -/
  | addr | mem
  /-- The line address of CINV, CWB, PREF and their level code (R260). -/
  | line | lvl
  /-- CPY's destination and source addresses (R288). -/
  | cpyA | cpyB
  /-- LD.DIR's destination, ST.DIR's data, the direct code (R248). -/
  | dirD | dirS | dirB
  /-- MXRD's destination, MXWR's data, their tile and size code (R324). -/
  | mxD | mxS | mxB
  /-- QDNEXT's destination (R339), QYPOP's destination (R369). -/
  | tri | triE
  /-- RETT's B: a register for `.AT`, else zero (R395). -/
  | rett
  /-- Bits free to tools (R74). -/
  | free
  deriving DecidableEq, Repr

/-- What a kind-01 extension word means for a form (R64, R67). -/
inductive Ih where
  /-- It may not stand there. -/
  | no
  /-- It extends a K immediate or a J displacement. -/
  | kimm | jdisp
  /-- LOP3, PLOP: a table, required (R89, R93). -/
  | lop3
  /-- LEA's shift (R91). -/
  | lea
  /-- A predicate destination (R170, R339, R369). -/
  | pq
  /-- A byte offset (R96, R260). -/
  | off | lineOff
  /-- CPY's size and direction, required (R288). -/
  | cpy
  /-- The status register of a direct form, required (R248). -/
  | dir
  /-- MXQ's row register (R312). -/
  | row
  /-- TRMP's index, required (R418). -/
  | trmp
  deriving DecidableEq, Repr

/-- Is the form an implicit region boundary (R387)? `self`: it opens a region at itself; `after`: at the next
instruction; `split`: where it splits its slot; `st`: as a store whose marks R386 gives. -/
inductive Bnd where
  | no | self | after | split | st
  deriving DecidableEq, Repr

/-- The engine port a form holds (R164). -/
inductive Port where
  | no | copy | matrix | coord | shard
  deriving DecidableEq, Repr

/-- The checks of a form beyond its field kinds. -/
inductive Xk where
  | plain | atom | ld | st | line | pref | mxrw | cvt | pack | unpk | lnch | rdsr | wrsr | cpy | ldDir | stDir
  | mxown | mxq | tri | triE | rett | patch | trmp | noMarks | zeroMarks
  deriving DecidableEq, Repr

/-- One form: major and minor opcode, format, pipe, field kinds of D, A, B and TS, the fields of a kind-00 word it
takes, its use of a kind-01 word, whether its guard must be `pt`, whether it is subject to R63, whether it is a
control transfer (R71), whether C must be 0 (1) and a chain may not reach it (2), and its region, access and port
kinds. -/
structure Form where
  major : Nat
  f : Nat
  fmt : Fmt
  pipe : Pipe
  d : Opd
  a : Opd
  b : Opd
  ts : Opd
  rm : Bool
  sat : Bool
  ftz : Bool
  sc : Bool
  ih : Ih
  pt : Bool
  ws : Bool
  ct : Bool
  noC : Nat
  bnd : Bnd
  port : Port
  xk : Xk
  deriving DecidableEq, Repr

/-- The fields D, A, B, F, IMM of R61. -/
def fD (x : BitVec 24) : BitVec 7 := x.extractLsb' 17 7
def fA (x : BitVec 24) : BitVec 7 := x.extractLsb' 10 7
def fB (x : BitVec 24) : BitVec 7 := x.extractLsb' 3 7
def fF (x : BitVec 24) : BitVec 3 := x.extractLsb' 0 3
def fImm (x : BitVec 24) : BitVec 10 := x.extractLsb' 0 10

/-- Bits [23:0] of a word of format T or P, of format K (R61). -/
def wT (d a b : BitVec 7) (f : BitVec 3) : BitVec 24 := d ++ a ++ b ++ f
def wK (d a : BitVec 7) (imm : BitVec 10) : BitVec 24 := d ++ a ++ imm
/-- PATCH's bits (R74). -/
def wPatch (n : BitVec 2) (tool : BitVec 22) : BitVec 24 := n ++ tool

/-- A row: a form, and the instruction that its words stand for. -/
structure Row where
  form : Form
  build : Hdr → BitVec 24 → Instr

/-- An instruction's words in pieces: major opcode, minor opcode, what stands round it, bits [23:0]. -/
structure Raw where
  major : Nat
  f : Nat
  h : Hdr
  x : BitVec 24
  deriving DecidableEq, Repr

def formIaddS32 : Form := ⟨1, 0, .t, .a, (.dst 1 .any), (.src 1 .any), (.src 1 .any), .zero, false, true, false, false, .no, false, true, false, 0, .no, .no, .plain⟩
def formIaddN32 : Form := ⟨1, 1, .t, .a, (.dst 1 .any), (.src 1 .any), (.src 1 .any), .zero, false, true, false, false, .no, false, true, false, 0, .no, .no, .plain⟩
def formIsubS32 : Form := ⟨1, 2, .t, .a, (.dst 1 .any), (.src 1 .any), (.src 1 .any), .zero, false, true, false, false, .no, false, true, false, 0, .no, .no, .plain⟩
def formIsubN32 : Form := ⟨1, 3, .t, .a, (.dst 1 .any), (.src 1 .any), (.src 1 .any), .zero, false, true, false, false, .no, false, true, false, 0, .no, .no, .plain⟩
def formIaddc : Form := ⟨1, 4, .t, .a, (.dst 2 .any), (.src 1 .any), (.src 1 .any), (.src 1 .any), false, false, false, false, .no, false, true, false, 0, .no, .no, .plain⟩
def formIabs : Form := ⟨1, 5, .t, .a, (.dst 1 .any), (.src 1 .any), .zero, .zero, false, true, false, false, .no, false, true, false, 0, .no, .no, .plain⟩
def formIminS32 : Form := ⟨1, 6, .t, .a, (.dst 1 .any), (.src 1 .any), (.src 1 .any), .zero, false, false, false, false, .no, false, true, false, 0, .no, .no, .plain⟩
def formIminN32 : Form := ⟨1, 7, .t, .a, (.dst 1 .any), (.src 1 .any), (.src 1 .any), .zero, false, false, false, false, .no, false, true, false, 0, .no, .no, .plain⟩
def formImaxS32 : Form := ⟨2, 0, .t, .a, (.dst 1 .any), (.src 1 .any), (.src 1 .any), .zero, false, false, false, false, .no, false, true, false, 0, .no, .no, .plain⟩
def formImaxN32 : Form := ⟨2, 1, .t, .a, (.dst 1 .any), (.src 1 .any), (.src 1 .any), .zero, false, false, false, false, .no, false, true, false, 0, .no, .no, .plain⟩
def formImul : Form := ⟨2, 2, .t, .a, (.dst 1 .any), (.src 1 .any), (.src 1 .any), .zero, false, false, false, false, .no, false, true, false, 0, .no, .no, .plain⟩
def formImulhiS32 : Form := ⟨2, 3, .t, .a, (.dst 1 .any), (.src 1 .any), (.src 1 .any), .zero, false, false, false, false, .no, false, true, false, 0, .no, .no, .plain⟩
def formImulhiN32 : Form := ⟨2, 4, .t, .a, (.dst 1 .any), (.src 1 .any), (.src 1 .any), .zero, false, false, false, false, .no, false, true, false, 0, .no, .no, .plain⟩
def formImad : Form := ⟨2, 5, .t, .a, (.dst 1 .any), (.src 1 .any), (.src 1 .any), (.src 1 .any), false, false, false, false, .no, false, true, false, 0, .no, .no, .plain⟩
def formImadwS32 : Form := ⟨2, 6, .t, .a, (.dst 2 .any), (.src 1 .any), (.src 1 .any), (.src 1 .any), false, false, false, false, .no, false, true, false, 0, .no, .no, .plain⟩
def formImadwN32 : Form := ⟨2, 7, .t, .a, (.dst 2 .any), (.src 1 .any), (.src 1 .any), (.src 1 .any), false, false, false, false, .no, false, true, false, 0, .no, .no, .plain⟩
def formAnd : Form := ⟨3, 0, .t, .a, (.dst 1 .any), (.src 1 .any), (.src 1 .any), .zero, false, false, false, false, .no, false, true, false, 0, .no, .no, .plain⟩
def formOr : Form := ⟨3, 1, .t, .a, (.dst 1 .any), (.src 1 .any), (.src 1 .any), .zero, false, false, false, false, .no, false, true, false, 0, .no, .no, .plain⟩
def formXor : Form := ⟨3, 2, .t, .a, (.dst 1 .any), (.src 1 .any), (.src 1 .any), .zero, false, false, false, false, .no, false, true, false, 0, .no, .no, .plain⟩
def formLop3 : Form := ⟨3, 3, .t, .a, (.dst 1 .any), (.src 1 .any), (.src 1 .any), (.src 1 .any), false, false, false, false, .lop3, false, true, false, 0, .no, .no, .plain⟩
def formShl : Form := ⟨3, 4, .t, .a, (.dst 1 .any), (.src 1 .any), (.src 1 .any), .zero, false, false, false, false, .no, false, true, false, 0, .no, .no, .plain⟩
def formShr : Form := ⟨3, 5, .t, .a, (.dst 1 .any), (.src 1 .any), (.src 1 .any), .zero, false, false, false, false, .no, false, true, false, 0, .no, .no, .plain⟩
def formSar : Form := ⟨3, 6, .t, .a, (.dst 1 .any), (.src 1 .any), (.src 1 .any), .zero, false, false, false, false, .no, false, true, false, 0, .no, .no, .plain⟩
def formShf : Form := ⟨3, 7, .t, .a, (.dst 1 .any), (.src 1 .any), (.src 1 .any), (.src 1 .any), false, false, false, false, .no, false, true, false, 0, .no, .no, .plain⟩
def formBfxS32 : Form := ⟨4, 0, .t, .a, (.dst 1 .any), (.src 1 .any), (.src 1 .any), .zero, false, false, false, false, .no, false, true, false, 0, .no, .no, .plain⟩
def formBfxN32 : Form := ⟨4, 1, .t, .a, (.dst 1 .any), (.src 1 .any), (.src 1 .any), .zero, false, false, false, false, .no, false, true, false, 0, .no, .no, .plain⟩
def formBfi : Form := ⟨4, 2, .t, .a, (.dst 1 .any), (.src 1 .any), (.src 1 .any), (.src 1 .any), false, false, false, false, .no, false, true, false, 0, .no, .no, .plain⟩
def formPopc : Form := ⟨4, 3, .t, .a, (.dst 1 .any), (.src 1 .any), .zero, .zero, false, false, false, false, .no, false, true, false, 0, .no, .no, .plain⟩
def formClz : Form := ⟨4, 4, .t, .a, (.dst 1 .any), (.src 1 .any), .zero, .zero, false, false, false, false, .no, false, true, false, 0, .no, .no, .plain⟩
def formBrev : Form := ⟨4, 5, .t, .a, (.dst 1 .any), (.src 1 .any), .zero, .zero, false, false, false, false, .no, false, true, false, 0, .no, .no, .plain⟩
def formPrmt : Form := ⟨4, 6, .t, .a, (.dst 1 .any), (.src 1 .any), (.src 1 .any), (.src 1 .any), false, false, false, false, .no, false, true, false, 0, .no, .no, .plain⟩
def formSel : Form := ⟨4, 7, .t, .a, (.dst 1 .any), (.src 1 .any), (.src 1 .any), .psrc, false, false, false, false, .no, false, true, false, 0, .no, .no, .plain⟩
def formMov : Form := ⟨5, 0, .t, .a, (.dst 1 .any), (.src 1 .any), .zero, .zero, false, false, false, false, .no, false, true, false, 0, .no, .no, .plain⟩
def formLea : Form := ⟨5, 1, .t, .m, (.dst 2 .any), (.src 2 .any), (.src 1 .any), .zero, false, false, false, false, .lea, false, true, false, 0, .no, .no, .plain⟩
def formAdd64 : Form := ⟨5, 2, .t, .m, (.dst 2 .any), (.src 2 .any), (.src 2 .any), .zero, false, false, false, false, .no, false, true, false, 0, .no, .no, .plain⟩
def formMovi : Form := ⟨6, 0, .k, .a, (.dst 1 .any), .zero, .zero, .zero, false, false, false, false, .kimm, false, true, false, 0, .no, .no, .plain⟩
def formIaddImm : Form := ⟨7, 0, .k, .a, (.dst 1 .any), (.src 1 .any), .zero, .zero, false, true, false, false, .kimm, false, true, false, 0, .no, .no, .plain⟩
def formImulImm : Form := ⟨8, 0, .k, .a, (.dst 1 .any), (.src 1 .any), .zero, .zero, false, false, false, false, .kimm, false, true, false, 0, .no, .no, .plain⟩
def formAndImm : Form := ⟨9, 0, .k, .a, (.dst 1 .any), (.src 1 .any), .zero, .zero, false, false, false, false, .kimm, false, true, false, 0, .no, .no, .plain⟩
def formOrImm : Form := ⟨10, 0, .k, .a, (.dst 1 .any), (.src 1 .any), .zero, .zero, false, false, false, false, .kimm, false, true, false, 0, .no, .no, .plain⟩
def formXorImm : Form := ⟨11, 0, .k, .a, (.dst 1 .any), (.src 1 .any), .zero, .zero, false, false, false, false, .kimm, false, true, false, 0, .no, .no, .plain⟩
def formShlImm : Form := ⟨12, 0, .k, .a, (.dst 1 .any), (.src 1 .any), .zero, .zero, false, false, false, false, .kimm, false, true, false, 0, .no, .no, .plain⟩
def formShrImm : Form := ⟨13, 0, .k, .a, (.dst 1 .any), (.src 1 .any), .zero, .zero, false, false, false, false, .kimm, false, true, false, 0, .no, .no, .plain⟩
def formSarImm : Form := ⟨14, 0, .k, .a, (.dst 1 .any), (.src 1 .any), .zero, .zero, false, false, false, false, .kimm, false, true, false, 0, .no, .no, .plain⟩
def formFadd : Form := ⟨16, 0, .t, .a, (.dst 1 .any), (.src 1 .any), (.src 1 .any), .zero, true, true, true, false, .no, false, true, false, 0, .no, .no, .plain⟩
def formFmul : Form := ⟨16, 1, .t, .a, (.dst 1 .any), (.src 1 .any), (.src 1 .any), .zero, true, true, true, false, .no, false, true, false, 0, .no, .no, .plain⟩
def formFfma : Form := ⟨16, 2, .t, .ax, (.dst 1 .any), (.src 1 .any), (.src 1 .any), (.src 1 .any), true, true, true, false, .no, false, true, false, 0, .no, .no, .plain⟩
def formFmin : Form := ⟨16, 3, .t, .a, (.dst 1 .any), (.src 1 .any), (.src 1 .any), .zero, false, false, true, false, .no, false, true, false, 0, .no, .no, .plain⟩
def formFmax : Form := ⟨16, 4, .t, .a, (.dst 1 .any), (.src 1 .any), (.src 1 .any), .zero, false, false, true, false, .no, false, true, false, 0, .no, .no, .plain⟩
def formFrnd : Form := ⟨16, 5, .t, .a, (.dst 1 .any), (.src 1 .any), .zero, .zero, true, false, true, false, .no, false, true, false, 0, .no, .no, .plain⟩
def formFclass : Form := ⟨16, 6, .t, .a, (.dst 1 .any), (.src 1 .any), .zero, .zero, false, false, false, false, .no, false, true, false, 0, .no, .no, .plain⟩
def formFrcp : Form := ⟨17, 0, .t, .x, (.dst 1 .any), (.src 1 .any), .zero, .zero, false, false, true, false, .no, false, true, false, 0, .no, .no, .plain⟩
def formFrsq : Form := ⟨17, 1, .t, .x, (.dst 1 .any), (.src 1 .any), .zero, .zero, false, false, true, false, .no, false, true, false, 0, .no, .no, .plain⟩
def formFsqrt : Form := ⟨17, 2, .t, .x, (.dst 1 .any), (.src 1 .any), .zero, .zero, true, false, true, false, .no, false, true, false, 0, .no, .no, .plain⟩
def formFexp2 : Form := ⟨17, 3, .t, .x, (.dst 1 .any), (.src 1 .any), .zero, .zero, false, false, true, false, .no, false, true, false, 0, .no, .no, .plain⟩
def formFlog2 : Form := ⟨17, 4, .t, .x, (.dst 1 .any), (.src 1 .any), .zero, .zero, false, false, true, false, .no, false, true, false, 0, .no, .no, .plain⟩
def formFsin : Form := ⟨17, 5, .t, .x, (.dst 1 .any), (.src 1 .any), .zero, .zero, false, false, true, false, .no, false, true, false, 0, .no, .no, .plain⟩
def formFcos : Form := ⟨17, 6, .t, .x, (.dst 1 .any), (.src 1 .any), .zero, .zero, false, false, true, false, .no, false, true, false, 0, .no, .no, .plain⟩
def formDadd : Form := ⟨18, 0, .t, .ax, (.dst 2 .any), (.src 2 .any), (.src 2 .any), .zero, true, true, true, false, .no, false, true, false, 0, .no, .no, .plain⟩
def formDmul : Form := ⟨18, 1, .t, .ax, (.dst 2 .any), (.src 2 .any), (.src 2 .any), .zero, true, true, true, false, .no, false, true, false, 0, .no, .no, .plain⟩
def formDfma : Form := ⟨18, 2, .t, .ax, (.dst 2 .any), (.src 2 .any), (.src 2 .any), (.src 2 .any), true, true, true, false, .no, false, true, false, 0, .no, .no, .plain⟩
def formHadd2 : Form := ⟨19, 0, .t, .a, (.dst 1 .any), (.src 1 .any), (.src 1 .any), .zero, true, true, true, false, .no, false, true, false, 0, .no, .no, .plain⟩
def formHmul2 : Form := ⟨19, 1, .t, .a, (.dst 1 .any), (.src 1 .any), (.src 1 .any), .zero, true, true, true, false, .no, false, true, false, 0, .no, .no, .plain⟩
def formHfma2 : Form := ⟨19, 2, .t, .ax, (.dst 1 .any), (.src 1 .any), (.src 1 .any), (.src 1 .any), true, true, true, false, .no, false, true, false, 0, .no, .no, .plain⟩
def formBfma2 : Form := ⟨19, 3, .t, .ax, (.dst 1 .any), (.src 1 .any), (.src 1 .any), (.src 1 .any), true, true, true, false, .no, false, true, false, 0, .no, .no, .plain⟩
def formCvt : Form := ⟨20, 0, .k, .x, .cvtD, .cvtS, .zero, .zero, true, true, true, false, .no, false, true, false, 0, .no, .no, .cvt⟩
def formPack : Form := ⟨21, 0, .k, .x, (.dst 2 .v), (.src 1 .any), .zero, .zero, true, false, false, false, .no, false, false, false, 0, .no, .no, .pack⟩
def formUnpk : Form := ⟨22, 0, .k, .x, (.dst 1 .v), (.src 1 .any), .zero, (.src 1 .any), true, true, true, false, .no, false, false, false, 0, .no, .no, .unpk⟩
def formDp4E4m3 : Form := ⟨23, 0, .t, .x, (.dst 1 .any), (.src 1 .any), (.src 1 .any), (.src 1 .any), true, false, false, false, .no, false, true, false, 0, .no, .no, .plain⟩
def formDp4E5m2 : Form := ⟨23, 1, .t, .x, (.dst 1 .any), (.src 1 .any), (.src 1 .any), (.src 1 .any), true, false, false, false, .no, false, true, false, 0, .no, .no, .plain⟩
def formDp4E3m2 : Form := ⟨23, 2, .t, .x, (.dst 1 .any), (.src 1 .any), (.src 1 .any), (.src 1 .any), true, false, false, false, .no, false, true, false, 0, .no, .no, .plain⟩
def formDp4E2m3 : Form := ⟨23, 3, .t, .x, (.dst 1 .any), (.src 1 .any), (.src 1 .any), (.src 1 .any), true, false, false, false, .no, false, true, false, 0, .no, .no, .plain⟩
def formDp4S8 : Form := ⟨23, 4, .t, .x, (.dst 1 .any), (.src 1 .any), (.src 1 .any), (.src 1 .any), false, false, false, false, .no, false, true, false, 0, .no, .no, .plain⟩
def formDp4N8 : Form := ⟨23, 5, .t, .x, (.dst 1 .any), (.src 1 .any), (.src 1 .any), (.src 1 .any), false, false, false, false, .no, false, true, false, 0, .no, .no, .plain⟩
def formDp4S8n8 : Form := ⟨23, 6, .t, .x, (.dst 1 .any), (.src 1 .any), (.src 1 .any), (.src 1 .any), false, false, false, false, .no, false, true, false, 0, .no, .no, .plain⟩
def formDp8E2m1 : Form := ⟨24, 0, .t, .x, (.dst 1 .any), (.src 1 .any), (.src 1 .any), (.src 1 .any), true, false, false, false, .no, false, true, false, 0, .no, .no, .plain⟩
def formDp8S4 : Form := ⟨24, 1, .t, .x, (.dst 1 .any), (.src 1 .any), (.src 1 .any), (.src 1 .any), false, false, false, false, .no, false, true, false, 0, .no, .no, .plain⟩
def formDp8N4 : Form := ⟨24, 2, .t, .x, (.dst 1 .any), (.src 1 .any), (.src 1 .any), (.src 1 .any), false, false, false, false, .no, false, true, false, 0, .no, .no, .plain⟩
def formDp8S4n4 : Form := ⟨24, 3, .t, .x, (.dst 1 .any), (.src 1 .any), (.src 1 .any), (.src 1 .any), false, false, false, false, .no, false, true, false, 0, .no, .no, .plain⟩
def formFsclF32 : Form := ⟨25, 0, .t, .a, (.dst 1 .any), (.src 1 .any), (.src 1 .any), .zero, true, true, true, false, .no, false, true, false, 0, .no, .no, .plain⟩
def formFsclF64 : Form := ⟨25, 1, .t, .a, (.dst 2 .any), (.src 2 .any), (.src 1 .any), .zero, true, true, true, false, .no, false, true, false, 0, .no, .no, .plain⟩
def formIcmpEq : Form := ⟨28, 0, .t, .a, .pdst, (.src 1 .any), (.src 1 .any), .psrc, false, false, false, false, .no, false, false, false, 0, .no, .no, .plain⟩
def formIcmpNe : Form := ⟨28, 1, .t, .a, .pdst, (.src 1 .any), (.src 1 .any), .psrc, false, false, false, false, .no, false, false, false, 0, .no, .no, .plain⟩
def formIcmpLtS32 : Form := ⟨28, 2, .t, .a, .pdst, (.src 1 .any), (.src 1 .any), .psrc, false, false, false, false, .no, false, false, false, 0, .no, .no, .plain⟩
def formIcmpLeS32 : Form := ⟨28, 3, .t, .a, .pdst, (.src 1 .any), (.src 1 .any), .psrc, false, false, false, false, .no, false, false, false, 0, .no, .no, .plain⟩
def formIcmpLtN32 : Form := ⟨28, 4, .t, .a, .pdst, (.src 1 .any), (.src 1 .any), .psrc, false, false, false, false, .no, false, false, false, 0, .no, .no, .plain⟩
def formIcmpLeN32 : Form := ⟨28, 5, .t, .a, .pdst, (.src 1 .any), (.src 1 .any), .psrc, false, false, false, false, .no, false, false, false, 0, .no, .no, .plain⟩
def formFcmpEq : Form := ⟨29, 0, .t, .a, .pdst, (.src 1 .any), (.src 1 .any), .psrc, false, false, true, false, .no, false, false, false, 0, .no, .no, .plain⟩
def formFcmpNe : Form := ⟨29, 1, .t, .a, .pdst, (.src 1 .any), (.src 1 .any), .psrc, false, false, true, false, .no, false, false, false, 0, .no, .no, .plain⟩
def formFcmpLt : Form := ⟨29, 2, .t, .a, .pdst, (.src 1 .any), (.src 1 .any), .psrc, false, false, true, false, .no, false, false, false, 0, .no, .no, .plain⟩
def formFcmpLe : Form := ⟨29, 3, .t, .a, .pdst, (.src 1 .any), (.src 1 .any), .psrc, false, false, true, false, .no, false, false, false, 0, .no, .no, .plain⟩
def formFcmpUn : Form := ⟨29, 4, .t, .a, .pdst, (.src 1 .any), (.src 1 .any), .psrc, false, false, true, false, .no, false, false, false, 0, .no, .no, .plain⟩
def formFcmpNeu : Form := ⟨29, 5, .t, .a, .pdst, (.src 1 .any), (.src 1 .any), .psrc, false, false, true, false, .no, false, false, false, 0, .no, .no, .plain⟩
def formFcmpLtu : Form := ⟨29, 6, .t, .a, .pdst, (.src 1 .any), (.src 1 .any), .psrc, false, false, true, false, .no, false, false, false, 0, .no, .no, .plain⟩
def formFcmpLeu : Form := ⟨29, 7, .t, .a, .pdst, (.src 1 .any), (.src 1 .any), .psrc, false, false, true, false, .no, false, false, false, 0, .no, .no, .plain⟩
def formFcmpEqF64 : Form := ⟨30, 0, .t, .a, .pdst, (.src 2 .any), (.src 2 .any), .psrc, false, false, true, false, .no, false, false, false, 0, .no, .no, .plain⟩
def formFcmpNeF64 : Form := ⟨30, 1, .t, .a, .pdst, (.src 2 .any), (.src 2 .any), .psrc, false, false, true, false, .no, false, false, false, 0, .no, .no, .plain⟩
def formFcmpLtF64 : Form := ⟨30, 2, .t, .a, .pdst, (.src 2 .any), (.src 2 .any), .psrc, false, false, true, false, .no, false, false, false, 0, .no, .no, .plain⟩
def formFcmpLeF64 : Form := ⟨30, 3, .t, .a, .pdst, (.src 2 .any), (.src 2 .any), .psrc, false, false, true, false, .no, false, false, false, 0, .no, .no, .plain⟩
def formFcmpUnF64 : Form := ⟨30, 4, .t, .a, .pdst, (.src 2 .any), (.src 2 .any), .psrc, false, false, true, false, .no, false, false, false, 0, .no, .no, .plain⟩
def formFcmpNeuF64 : Form := ⟨30, 5, .t, .a, .pdst, (.src 2 .any), (.src 2 .any), .psrc, false, false, true, false, .no, false, false, false, 0, .no, .no, .plain⟩
def formFcmpLtuF64 : Form := ⟨30, 6, .t, .a, .pdst, (.src 2 .any), (.src 2 .any), .psrc, false, false, true, false, .no, false, false, false, 0, .no, .no, .plain⟩
def formFcmpLeuF64 : Form := ⟨30, 7, .t, .a, .pdst, (.src 2 .any), (.src 2 .any), .psrc, false, false, true, false, .no, false, false, false, 0, .no, .no, .plain⟩
def formPlop : Form := ⟨31, 0, .p, .a, .pdst, .psrc, .psrc, .psrc, false, false, false, false, .lop3, false, false, false, 0, .no, .no, .plain⟩
def formPmov : Form := ⟨31, 1, .p, .a, .pdst, .psrc, .zero, .zero, false, false, false, false, .no, false, false, false, 0, .no, .no, .plain⟩
def formBra : Form := ⟨32, 0, .j, .x, .zero, .zero, .zero, .zero, false, false, false, false, .jdisp, false, false, true, 0, .split, .no, .plain⟩
def formCall : Form := ⟨33, 0, .j, .x, .zero, .zero, .zero, .zero, false, false, false, false, .jdisp, false, false, true, 0, .split, .no, .plain⟩
def formBrx : Form := ⟨34, 0, .t, .x, .zero, (.src 1 .any), .zero, .zero, false, false, false, false, .no, false, false, true, 0, .split, .no, .plain⟩
def formCallx : Form := ⟨34, 1, .t, .x, .zero, (.src 1 .any), .zero, .zero, false, false, false, false, .no, false, false, true, 0, .split, .no, .plain⟩
def formRet : Form := ⟨34, 2, .t, .x, .zero, (.src 1 .any), .zero, .zero, false, false, false, false, .no, false, false, true, 0, .split, .no, .plain⟩
def formExit : Form := ⟨34, 3, .t, .x, .zero, .zero, .zero, .zero, false, false, false, false, .no, false, false, true, 0, .split, .no, .plain⟩
def formNop : Form := ⟨34, 4, .t, .a, .zero, .zero, .zero, .zero, false, false, false, false, .no, false, false, false, 0, .no, .no, .plain⟩
def formRjenr : Form := ⟨35, 0, .t, .x, .zero, (.num 7), .zero, .zero, false, false, false, false, .no, false, false, false, 0, .after, .no, .plain⟩
def formRjpark : Form := ⟨35, 1, .t, .x, .zero, (.num 7), .zero, .zero, false, false, false, false, .no, false, false, false, 1, .after, .no, .plain⟩
def formRjstrk : Form := ⟨35, 2, .t, .x, .zero, (.num 7), .zero, .zero, false, false, false, false, .no, false, false, false, 0, .after, .no, .plain⟩
def formRjrd : Form := ⟨35, 3, .t, .x, (.dst 1 .any), (.num 7), .zero, .zero, false, false, false, false, .no, false, false, false, 0, .no, .no, .plain⟩
def formWmask : Form := ⟨35, 4, .t, .x, (.dst 1 .any), (.num 3), .zero, .zero, false, false, false, false, .no, false, false, false, 0, .no, .no, .plain⟩
def formShflPick : Form := ⟨40, 0, .t, .x, (.dst 1 .v), (.src 1 .any), (.src 1 .any), .zero, false, false, false, false, .pq, false, false, false, 0, .no, .no, .plain⟩
def formShflLag : Form := ⟨40, 1, .t, .x, (.dst 1 .v), (.src 1 .any), (.src 1 .any), .zero, false, false, false, false, .pq, false, false, false, 0, .no, .no, .plain⟩
def formShflLead : Form := ⟨40, 2, .t, .x, (.dst 1 .v), (.src 1 .any), (.src 1 .any), .zero, false, false, false, false, .pq, false, false, false, 0, .no, .no, .plain⟩
def formShflMirr : Form := ⟨40, 3, .t, .x, (.dst 1 .v), (.src 1 .any), (.src 1 .any), .zero, false, false, false, false, .pq, false, false, false, 0, .no, .no, .plain⟩
def formVoteEvery : Form := ⟨40, 4, .t, .x, .pdst, .psrc, .zero, .zero, false, false, false, false, .no, false, false, false, 0, .no, .no, .plain⟩
def formVoteSome : Form := ⟨40, 5, .t, .x, .pdst, .psrc, .zero, .zero, false, false, false, false, .no, false, false, false, 0, .no, .no, .plain⟩
def formVoteSame : Form := ⟨40, 6, .t, .x, .pdst, .psrc, .zero, .zero, false, false, false, false, .no, false, false, false, 0, .no, .no, .plain⟩
def formBallot : Form := ⟨40, 7, .t, .x, (.dst 1 .any), .psrc, .zero, .zero, false, false, false, false, .no, false, false, false, 0, .no, .no, .plain⟩
def formReduxSum : Form := ⟨41, 0, .t, .x, (.dst 1 .any), (.src 1 .any), .zero, .zero, false, false, false, false, .no, false, false, false, 0, .no, .no, .plain⟩
def formReduxLeastS32 : Form := ⟨41, 1, .t, .x, (.dst 1 .any), (.src 1 .any), .zero, .zero, false, false, false, false, .no, false, false, false, 0, .no, .no, .plain⟩
def formReduxLeastN32 : Form := ⟨41, 2, .t, .x, (.dst 1 .any), (.src 1 .any), .zero, .zero, false, false, false, false, .no, false, false, false, 0, .no, .no, .plain⟩
def formReduxMostS32 : Form := ⟨41, 3, .t, .x, (.dst 1 .any), (.src 1 .any), .zero, .zero, false, false, false, false, .no, false, false, false, 0, .no, .no, .plain⟩
def formReduxMostN32 : Form := ⟨41, 4, .t, .x, (.dst 1 .any), (.src 1 .any), .zero, .zero, false, false, false, false, .no, false, false, false, 0, .no, .no, .plain⟩
def formReduxBand : Form := ⟨41, 5, .t, .x, (.dst 1 .any), (.src 1 .any), .zero, .zero, false, false, false, false, .no, false, false, false, 0, .no, .no, .plain⟩
def formReduxBor : Form := ⟨41, 6, .t, .x, (.dst 1 .any), (.src 1 .any), .zero, .zero, false, false, false, false, .no, false, false, false, 0, .no, .no, .plain⟩
def formReduxBxor : Form := ⟨41, 7, .t, .x, (.dst 1 .any), (.src 1 .any), .zero, .zero, false, false, false, false, .no, false, false, false, 0, .no, .no, .plain⟩
def formMatchPeers : Form := ⟨42, 0, .t, .x, (.dst 1 .v), (.src 1 .any), .zero, .zero, false, false, false, false, .no, false, false, false, 0, .no, .no, .plain⟩
def formMatchUnif : Form := ⟨42, 1, .t, .x, (.dst 1 .any), (.src 1 .any), .zero, .zero, false, false, false, false, .no, false, false, false, 0, .no, .no, .plain⟩
def formXsw : Form := ⟨42, 2, .t, .x, (.dst 1 .v), (.src 1 .any), (.src 1 .s), .zero, false, false, false, false, .pq, false, false, false, 0, .self, .no, .plain⟩
def formBar : Form := ⟨42, 3, .t, .x, .zero, (.num 15), (.num 2), .zero, false, false, false, false, .no, true, false, false, 1, .self, .no, .plain⟩
def formBara : Form := ⟨42, 4, .t, .x, .zero, (.num 15), (.num 2), .zero, false, false, false, false, .no, true, false, false, 0, .self, .no, .plain⟩
def formBarw : Form := ⟨42, 5, .t, .x, .zero, (.num 15), (.num 2), .zero, false, false, false, false, .no, true, false, false, 1, .no, .no, .plain⟩
def formYield : Form := ⟨42, 6, .t, .x, .zero, .zero, .zero, .zero, false, false, false, false, .no, false, false, false, 1, .no, .no, .plain⟩
def formLnch : Form := ⟨42, 7, .t, .m, (.dst 1 .any), (.src 2 .any), (.src 1 .any), .zero, false, false, false, false, .no, false, false, false, 0, .self, .no, .lnch⟩
def formRdsr : Form := ⟨43, 0, .k, .a, .srD, .zero, .zero, .zero, false, false, false, false, .no, false, false, false, 0, .no, .no, .rdsr⟩
def formWrsr : Form := ⟨43, 1, .k, .a, .zero, .srS, .zero, .zero, false, false, false, false, .no, false, false, false, 0, .no, .no, .wrsr⟩
def formLdN8 : Form := ⟨44, 0, .t, .m, (.dst 1 .any), .addr, .mem, .zero, false, false, false, false, .off, false, false, false, 0, .no, .no, .ld⟩
def formLdS8 : Form := ⟨44, 1, .t, .m, (.dst 1 .any), .addr, .mem, .zero, false, false, false, false, .off, false, false, false, 0, .no, .no, .ld⟩
def formLdN16 : Form := ⟨44, 2, .t, .m, (.dst 1 .any), .addr, .mem, .zero, false, false, false, false, .off, false, false, false, 0, .no, .no, .ld⟩
def formLdS16 : Form := ⟨44, 3, .t, .m, (.dst 1 .any), .addr, .mem, .zero, false, false, false, false, .off, false, false, false, 0, .no, .no, .ld⟩
def formLdB32 : Form := ⟨44, 4, .t, .m, (.dst 1 .any), .addr, .mem, .zero, false, false, false, false, .off, false, false, false, 0, .no, .no, .ld⟩
def formLdB64 : Form := ⟨44, 5, .t, .m, (.dst 2 .any), .addr, .mem, .zero, false, false, false, false, .off, false, false, false, 0, .no, .no, .ld⟩
def formLdB128 : Form := ⟨44, 6, .t, .m, (.dst 4 .any), .addr, .mem, .zero, false, false, false, false, .off, false, false, false, 0, .no, .no, .ld⟩
def formStB8 : Form := ⟨45, 0, .t, .m, (.src 1 .any), .addr, .mem, .zero, false, false, false, false, .off, false, false, false, 0, .st, .no, .st⟩
def formStB16 : Form := ⟨45, 1, .t, .m, (.src 1 .any), .addr, .mem, .zero, false, false, false, false, .off, false, false, false, 0, .st, .no, .st⟩
def formStB32 : Form := ⟨45, 2, .t, .m, (.src 1 .any), .addr, .mem, .zero, false, false, false, false, .off, false, false, false, 0, .st, .no, .st⟩
def formStB64 : Form := ⟨45, 3, .t, .m, (.src 2 .any), .addr, .mem, .zero, false, false, false, false, .off, false, false, false, 0, .st, .no, .st⟩
def formStB128 : Form := ⟨45, 4, .t, .m, (.src 4 .any), .addr, .mem, .zero, false, false, false, false, .off, false, false, false, 0, .st, .no, .st⟩
def formAtomAddB32 : Form := ⟨46, 0, .t, .m, (.dst 1 .v), .addr, .mem, (.src 1 .any), false, false, false, true, .off, false, false, false, 0, .self, .no, .atom⟩
def formAtomMinS32 : Form := ⟨46, 1, .t, .m, (.dst 1 .v), .addr, .mem, (.src 1 .any), false, false, false, true, .off, false, false, false, 0, .self, .no, .atom⟩
def formAtomMinN32 : Form := ⟨46, 2, .t, .m, (.dst 1 .v), .addr, .mem, (.src 1 .any), false, false, false, true, .off, false, false, false, 0, .self, .no, .atom⟩
def formAtomMaxS32 : Form := ⟨46, 3, .t, .m, (.dst 1 .v), .addr, .mem, (.src 1 .any), false, false, false, true, .off, false, false, false, 0, .self, .no, .atom⟩
def formAtomMaxN32 : Form := ⟨46, 4, .t, .m, (.dst 1 .v), .addr, .mem, (.src 1 .any), false, false, false, true, .off, false, false, false, 0, .self, .no, .atom⟩
def formAtomAndB32 : Form := ⟨46, 5, .t, .m, (.dst 1 .v), .addr, .mem, (.src 1 .any), false, false, false, true, .off, false, false, false, 0, .self, .no, .atom⟩
def formAtomOrB32 : Form := ⟨46, 6, .t, .m, (.dst 1 .v), .addr, .mem, (.src 1 .any), false, false, false, true, .off, false, false, false, 0, .self, .no, .atom⟩
def formAtomXorB32 : Form := ⟨46, 7, .t, .m, (.dst 1 .v), .addr, .mem, (.src 1 .any), false, false, false, true, .off, false, false, false, 0, .self, .no, .atom⟩
def formAtomExchB32 : Form := ⟨47, 0, .t, .m, (.dst 1 .v), .addr, .mem, (.src 1 .any), false, false, false, true, .off, false, false, false, 0, .self, .no, .atom⟩
def formAtomCasB32 : Form := ⟨47, 1, .t, .m, (.dst 1 .v), .addr, .mem, (.src 2 .any), false, false, false, true, .off, false, false, false, 0, .self, .no, .atom⟩
def formAtomAddF32 : Form := ⟨47, 2, .t, .m, (.dst 1 .v), .addr, .mem, (.src 1 .any), false, false, false, true, .off, false, false, false, 0, .self, .no, .atom⟩
def formAtomExchB64 : Form := ⟨47, 3, .t, .m, (.dst 2 .v), .addr, .mem, (.src 2 .any), false, false, false, true, .off, false, false, false, 0, .self, .no, .atom⟩
def formAtomCasB64 : Form := ⟨47, 4, .t, .m, (.dst 2 .v), .addr, .mem, (.src 4 .any), false, false, false, true, .off, false, false, false, 0, .self, .no, .atom⟩
def formAtomAddB64 : Form := ⟨47, 5, .t, .m, (.dst 2 .v), .addr, .mem, (.src 2 .any), false, false, false, true, .off, false, false, false, 0, .self, .no, .atom⟩
def formAtomCasB128 : Form := ⟨47, 6, .t, .m, (.dst 4 .v), .addr, .mem, (.src 8 .any), false, false, false, true, .off, false, false, false, 0, .self, .no, .atom⟩
def formAtomAddF64 : Form := ⟨47, 7, .t, .m, (.dst 2 .v), .addr, .mem, (.src 2 .any), false, false, false, true, .off, false, false, false, 0, .self, .no, .atom⟩
def formRedAddB32 : Form := ⟨48, 0, .t, .m, (.src 1 .any), .addr, .mem, .zero, false, false, false, true, .off, false, false, false, 0, .self, .no, .atom⟩
def formRedMinS32 : Form := ⟨48, 1, .t, .m, (.src 1 .any), .addr, .mem, .zero, false, false, false, true, .off, false, false, false, 0, .self, .no, .atom⟩
def formRedMinN32 : Form := ⟨48, 2, .t, .m, (.src 1 .any), .addr, .mem, .zero, false, false, false, true, .off, false, false, false, 0, .self, .no, .atom⟩
def formRedMaxS32 : Form := ⟨48, 3, .t, .m, (.src 1 .any), .addr, .mem, .zero, false, false, false, true, .off, false, false, false, 0, .self, .no, .atom⟩
def formRedMaxN32 : Form := ⟨48, 4, .t, .m, (.src 1 .any), .addr, .mem, .zero, false, false, false, true, .off, false, false, false, 0, .self, .no, .atom⟩
def formRedAddF32 : Form := ⟨48, 5, .t, .m, (.src 1 .any), .addr, .mem, .zero, false, false, false, true, .off, false, false, false, 0, .self, .no, .atom⟩
def formRedAddB64 : Form := ⟨48, 6, .t, .m, (.src 2 .any), .addr, .mem, .zero, false, false, false, true, .off, false, false, false, 0, .self, .no, .atom⟩
def formRedAddF64 : Form := ⟨48, 7, .t, .m, (.src 2 .any), .addr, .mem, .zero, false, false, false, true, .off, false, false, false, 0, .self, .no, .atom⟩
def formRedAndB32 : Form := ⟨51, 2, .t, .m, (.src 1 .any), .addr, .mem, .zero, false, false, false, true, .off, false, false, false, 0, .self, .no, .atom⟩
def formRedOrB32 : Form := ⟨51, 3, .t, .m, (.src 1 .any), .addr, .mem, .zero, false, false, false, true, .off, false, false, false, 0, .self, .no, .atom⟩
def formRedXorB32 : Form := ⟨51, 4, .t, .m, (.src 1 .any), .addr, .mem, .zero, false, false, false, true, .off, false, false, false, 0, .self, .no, .atom⟩
def formFence : Form := ⟨49, 0, .t, .m, .zero, (.num 3), .zero, .zero, false, false, false, true, .no, true, false, false, 0, .after, .no, .plain⟩
def formCinv : Form := ⟨49, 1, .t, .m, .zero, .line, .lvl, .zero, false, false, false, false, .lineOff, false, false, false, 0, .after, .no, .line⟩
def formCwb : Form := ⟨49, 2, .t, .m, .zero, .line, .lvl, .zero, false, false, false, false, .lineOff, false, false, false, 0, .after, .no, .line⟩
def formPref : Form := ⟨49, 3, .t, .m, .zero, .line, .lvl, .zero, false, false, false, false, .lineOff, false, false, false, 0, .no, .no, .pref⟩
def formProbe : Form := ⟨49, 4, .t, .m, (.dst 1 .s), (.src 2 .s), (.src 1 .s), .zero, false, false, false, false, .no, true, false, false, 0, .self, .no, .zeroMarks⟩
def formUnpin : Form := ⟨49, 5, .t, .m, .zero, (.src 2 .s), (.src 1 .s), .zero, false, false, false, false, .no, true, false, false, 0, .self, .no, .zeroMarks⟩
def formCpy : Form := ⟨50, 0, .t, .m, (.dst 1 .v), .cpyA, .cpyB, .zero, false, false, false, false, .cpy, false, false, false, 0, .self, .copy, .cpy⟩
def formFenceXp : Form := ⟨50, 1, .t, .m, .zero, .zero, .zero, .zero, false, false, false, false, .no, true, false, false, 0, .after, .no, .noMarks⟩
def formLdDir : Form := ⟨51, 0, .t, .m, .dirD, (.src 2 .any), .dirB, .zero, false, false, false, false, .dir, false, false, false, 0, .self, .no, .ldDir⟩
def formStDir : Form := ⟨51, 1, .t, .m, .dirS, (.src 2 .any), .dirB, .zero, false, false, false, false, .dir, false, false, false, 0, .self, .no, .stDir⟩
def formMxacq : Form := ⟨52, 0, .t, .m, .zero, (.num 31), .zero, .zero, false, false, false, false, .no, true, false, false, 0, .self, .matrix, .plain⟩
def formMxrel : Form := ⟨52, 1, .t, .m, .zero, (.num 31), .zero, .zero, false, false, false, false, .no, true, false, false, 0, .self, .matrix, .plain⟩
def formMxown : Form := ⟨52, 2, .t, .m, (.num 1), (.src 1 .s), (.num 64), .zero, false, false, false, false, .no, true, false, false, 0, .self, .matrix, .mxown⟩
def formMxq : Form := ⟨52, 3, .t, .m, (.num 31), (.src 1 .s), (.src 1 .s), (.src 1 .s), false, false, false, false, .row, false, false, false, 0, .self, .matrix, .mxq⟩
/-- Its guard is pt (log entry 45). -/
def formMxwait : Form := ⟨52, 4, .t, .m, (.dst 1 .s), (.num 31), .zero, .zero, false, false, false, false, .no, true, false, false, 0, .self, .matrix, .plain⟩
def formMxrd : Form := ⟨52, 5, .t, .m, .mxD, (.src 1 .any), .mxB, .zero, false, false, false, false, .no, false, false, false, 0, .no, .matrix, .mxrw⟩
def formMxwr : Form := ⟨52, 6, .t, .m, .mxS, (.src 1 .any), .mxB, .zero, false, false, false, false, .no, false, false, false, 0, .self, .matrix, .mxrw⟩
def formMxzero : Form := ⟨52, 7, .t, .m, .zero, (.num 31), .zero, .zero, false, false, false, false, .no, true, false, false, 0, .self, .matrix, .plain⟩
/-- Its guard is pt (log entry 45). -/
def formMxstat : Form := ⟨53, 0, .t, .m, (.dst 1 .s), (.num 31), .zero, .zero, false, false, false, false, .no, true, false, false, 0, .no, .matrix, .plain⟩
def formQdopen : Form := ⟨56, 0, .t, .m, (.num 15), (.src 2 .s), (.num 1), .zero, false, false, false, false, .no, true, false, false, 0, .self, .coord, .plain⟩
def formQdnext : Form := ⟨56, 1, .t, .m, .tri, (.num 15), (.dst 1 .s), .zero, false, false, false, false, .pq, false, false, false, 0, .self, .coord, .tri⟩
def formQdsplit : Form := ⟨56, 2, .t, .m, (.num 15), (.src 2 .any), (.num 1), .zero, false, false, false, false, .no, false, false, false, 0, .self, .coord, .plain⟩
def formQdsave : Form := ⟨56, 3, .t, .m, (.num 15), (.src 2 .s), .zero, .zero, false, false, false, false, .no, true, false, false, 0, .self, .coord, .plain⟩
def formQdload : Form := ⟨56, 4, .t, .m, (.num 15), (.src 2 .s), .zero, .zero, false, false, false, false, .no, true, false, false, 0, .self, .coord, .plain⟩
def formQdclose : Form := ⟨56, 5, .t, .m, (.num 15), .zero, .zero, .zero, false, false, false, false, .no, true, false, false, 0, .self, .coord, .plain⟩
def formQdstat : Form := ⟨56, 6, .t, .m, (.dst 2 .s), (.num 15), .zero, .zero, false, false, false, false, .no, true, false, false, 0, .no, .coord, .plain⟩
def formQdprobe : Form := ⟨56, 7, .t, .m, (.dst 1 .s), (.num 15), .zero, .zero, false, false, false, false, .no, true, false, false, 0, .self, .coord, .plain⟩
def formQyinit : Form := ⟨58, 0, .t, .m, (.dst 1 .s), (.src 2 .s), (.num 3), .zero, false, false, false, false, .no, true, false, false, 0, .self, .shard, .plain⟩
def formQypush : Form := ⟨58, 1, .t, .m, (.num 3), (.src 2 .any), (.src 1 .any), .zero, false, false, false, false, .no, false, false, false, 0, .self, .shard, .plain⟩
def formQypop : Form := ⟨58, 2, .t, .m, .triE, (.num 3), (.dst 1 .s), .zero, false, false, false, false, .pq, false, false, false, 0, .self, .shard, .triE⟩
def formQydone : Form := ⟨58, 3, .t, .m, .zero, (.num 3), .zero, .zero, false, false, false, false, .no, false, false, false, 0, .self, .shard, .plain⟩
def formQyfloor : Form := ⟨58, 4, .t, .m, (.dst 2 .s), (.num 3), .zero, .zero, false, false, false, false, .no, true, false, false, 0, .no, .shard, .plain⟩
def formQyquiet : Form := ⟨58, 5, .t, .m, (.dst 1 .s), (.num 3), (.num 1), .zero, false, false, false, false, .no, true, false, false, 0, .self, .shard, .plain⟩
def formQyyield : Form := ⟨58, 6, .t, .m, .zero, (.num 3), .zero, .zero, false, false, false, false, .no, false, false, false, 0, .self, .shard, .plain⟩
def formQystat : Form := ⟨58, 7, .t, .m, (.dst 2 .s), (.num 3), .zero, .zero, false, false, false, false, .no, true, false, false, 0, .no, .shard, .plain⟩
def formTrap : Form := ⟨60, 0, .t, .x, .zero, (.num 127), .zero, .zero, false, false, false, false, .no, false, false, true, 0, .self, .no, .noMarks⟩
def formRett : Form := ⟨60, 1, .t, .x, .zero, (.num 2), .rett, .zero, false, false, false, false, .no, true, false, true, 0, .self, .no, .rett⟩
def formRegion : Form := ⟨60, 2, .t, .m, .zero, .zero, .zero, .zero, false, false, false, false, .no, true, false, false, 2, .after, .no, .noMarks⟩
def formBrk : Form := ⟨60, 3, .t, .x, .zero, (.num 127), .zero, .zero, false, false, false, false, .no, false, false, true, 0, .self, .no, .noMarks⟩
def formRdtr : Form := ⟨60, 4, .t, .a, (.dst 2 .s), (.num 15), .zero, .zero, false, false, false, false, .no, true, false, false, 0, .no, .no, .plain⟩
def formVrdx : Form := ⟨60, 5, .t, .a, (.dst 1 .v), (.src 1 .any), .zero, .zero, false, false, false, false, .no, false, false, false, 0, .no, .no, .plain⟩
def formVwrx : Form := ⟨60, 6, .t, .a, .zero, (.src 1 .any), (.src 1 .any), .zero, false, false, false, false, .no, false, false, false, 0, .no, .no, .plain⟩
def formPatch : Form := ⟨61, 0, .j, .a, .free, .zero, .zero, .zero, false, false, false, false, .no, false, false, false, 2, .no, .no, .patch⟩
def formTrmp : Form := ⟨61, 1, .j, .x, .zero, .zero, .zero, .zero, false, false, false, false, .trmp, false, false, true, 0, .split, .no, .trmp⟩

/-- Rows of the opcode map, part 0. -/
def rows0 : List Row := [
  ⟨formIaddS32, fun h x => .iaddS32 h (fD x) (fA x) (fB x)⟩,
  ⟨formIaddN32, fun h x => .iaddN32 h (fD x) (fA x) (fB x)⟩,
  ⟨formIsubS32, fun h x => .isubS32 h (fD x) (fA x) (fB x)⟩,
  ⟨formIsubN32, fun h x => .isubN32 h (fD x) (fA x) (fB x)⟩,
  ⟨formIaddc, fun h x => .iaddc h (fD x) (fA x) (fB x)⟩,
  ⟨formIabs, fun h x => .iabs h (fD x) (fA x) (fB x)⟩,
  ⟨formIminS32, fun h x => .iminS32 h (fD x) (fA x) (fB x)⟩,
  ⟨formIminN32, fun h x => .iminN32 h (fD x) (fA x) (fB x)⟩,
  ⟨formImaxS32, fun h x => .imaxS32 h (fD x) (fA x) (fB x)⟩,
  ⟨formImaxN32, fun h x => .imaxN32 h (fD x) (fA x) (fB x)⟩,
  ⟨formImul, fun h x => .imul h (fD x) (fA x) (fB x)⟩,
  ⟨formImulhiS32, fun h x => .imulhiS32 h (fD x) (fA x) (fB x)⟩,
  ⟨formImulhiN32, fun h x => .imulhiN32 h (fD x) (fA x) (fB x)⟩,
  ⟨formImad, fun h x => .imad h (fD x) (fA x) (fB x)⟩,
  ⟨formImadwS32, fun h x => .imadwS32 h (fD x) (fA x) (fB x)⟩,
  ⟨formImadwN32, fun h x => .imadwN32 h (fD x) (fA x) (fB x)⟩,
  ⟨formAnd, fun h x => .and h (fD x) (fA x) (fB x)⟩,
  ⟨formOr, fun h x => .or h (fD x) (fA x) (fB x)⟩,
  ⟨formXor, fun h x => .xor h (fD x) (fA x) (fB x)⟩,
  ⟨formLop3, fun h x => .lop3 h (fD x) (fA x) (fB x)⟩,
  ⟨formShl, fun h x => .shl h (fD x) (fA x) (fB x)⟩,
  ⟨formShr, fun h x => .shr h (fD x) (fA x) (fB x)⟩,
  ⟨formSar, fun h x => .sar h (fD x) (fA x) (fB x)⟩,
  ⟨formShf, fun h x => .shf h (fD x) (fA x) (fB x)⟩]

/-- Rows of the opcode map, part 1. -/
def rows1 : List Row := [
  ⟨formBfxS32, fun h x => .bfxS32 h (fD x) (fA x) (fB x)⟩,
  ⟨formBfxN32, fun h x => .bfxN32 h (fD x) (fA x) (fB x)⟩,
  ⟨formBfi, fun h x => .bfi h (fD x) (fA x) (fB x)⟩,
  ⟨formPopc, fun h x => .popc h (fD x) (fA x) (fB x)⟩,
  ⟨formClz, fun h x => .clz h (fD x) (fA x) (fB x)⟩,
  ⟨formBrev, fun h x => .brev h (fD x) (fA x) (fB x)⟩,
  ⟨formPrmt, fun h x => .prmt h (fD x) (fA x) (fB x)⟩,
  ⟨formSel, fun h x => .sel h (fD x) (fA x) (fB x)⟩,
  ⟨formMov, fun h x => .mov h (fD x) (fA x) (fB x)⟩,
  ⟨formLea, fun h x => .lea h (fD x) (fA x) (fB x)⟩,
  ⟨formAdd64, fun h x => .add64 h (fD x) (fA x) (fB x)⟩,
  ⟨formMovi, fun h x => .movi h (fD x) (fA x) (fImm x)⟩,
  ⟨formIaddImm, fun h x => .iaddImm h (fD x) (fA x) (fImm x)⟩,
  ⟨formImulImm, fun h x => .imulImm h (fD x) (fA x) (fImm x)⟩,
  ⟨formAndImm, fun h x => .andImm h (fD x) (fA x) (fImm x)⟩,
  ⟨formOrImm, fun h x => .orImm h (fD x) (fA x) (fImm x)⟩,
  ⟨formXorImm, fun h x => .xorImm h (fD x) (fA x) (fImm x)⟩,
  ⟨formShlImm, fun h x => .shlImm h (fD x) (fA x) (fImm x)⟩,
  ⟨formShrImm, fun h x => .shrImm h (fD x) (fA x) (fImm x)⟩,
  ⟨formSarImm, fun h x => .sarImm h (fD x) (fA x) (fImm x)⟩,
  ⟨formFadd, fun h x => .fadd h (fD x) (fA x) (fB x)⟩,
  ⟨formFmul, fun h x => .fmul h (fD x) (fA x) (fB x)⟩,
  ⟨formFfma, fun h x => .ffma h (fD x) (fA x) (fB x)⟩,
  ⟨formFmin, fun h x => .fmin h (fD x) (fA x) (fB x)⟩]

/-- Rows of the opcode map, part 2. -/
def rows2 : List Row := [
  ⟨formFmax, fun h x => .fmax h (fD x) (fA x) (fB x)⟩,
  ⟨formFrnd, fun h x => .frnd h (fD x) (fA x) (fB x)⟩,
  ⟨formFclass, fun h x => .fclass h (fD x) (fA x) (fB x)⟩,
  ⟨formFrcp, fun h x => .frcp h (fD x) (fA x) (fB x)⟩,
  ⟨formFrsq, fun h x => .frsq h (fD x) (fA x) (fB x)⟩,
  ⟨formFsqrt, fun h x => .fsqrt h (fD x) (fA x) (fB x)⟩,
  ⟨formFexp2, fun h x => .fexp2 h (fD x) (fA x) (fB x)⟩,
  ⟨formFlog2, fun h x => .flog2 h (fD x) (fA x) (fB x)⟩,
  ⟨formFsin, fun h x => .fsin h (fD x) (fA x) (fB x)⟩,
  ⟨formFcos, fun h x => .fcos h (fD x) (fA x) (fB x)⟩,
  ⟨formDadd, fun h x => .dadd h (fD x) (fA x) (fB x)⟩,
  ⟨formDmul, fun h x => .dmul h (fD x) (fA x) (fB x)⟩,
  ⟨formDfma, fun h x => .dfma h (fD x) (fA x) (fB x)⟩,
  ⟨formHadd2, fun h x => .hadd2 h (fD x) (fA x) (fB x)⟩,
  ⟨formHmul2, fun h x => .hmul2 h (fD x) (fA x) (fB x)⟩,
  ⟨formHfma2, fun h x => .hfma2 h (fD x) (fA x) (fB x)⟩,
  ⟨formBfma2, fun h x => .bfma2 h (fD x) (fA x) (fB x)⟩,
  ⟨formCvt, fun h x => .cvt h (fD x) (fA x) (fImm x)⟩,
  ⟨formPack, fun h x => .pack h (fD x) (fA x) (fImm x)⟩,
  ⟨formUnpk, fun h x => .unpk h (fD x) (fA x) (fImm x)⟩,
  ⟨formDp4E4m3, fun h x => .dp4E4m3 h (fD x) (fA x) (fB x)⟩,
  ⟨formDp4E5m2, fun h x => .dp4E5m2 h (fD x) (fA x) (fB x)⟩,
  ⟨formDp4E3m2, fun h x => .dp4E3m2 h (fD x) (fA x) (fB x)⟩,
  ⟨formDp4E2m3, fun h x => .dp4E2m3 h (fD x) (fA x) (fB x)⟩]

/-- Rows of the opcode map, part 3. -/
def rows3 : List Row := [
  ⟨formDp4S8, fun h x => .dp4S8 h (fD x) (fA x) (fB x)⟩,
  ⟨formDp4N8, fun h x => .dp4N8 h (fD x) (fA x) (fB x)⟩,
  ⟨formDp4S8n8, fun h x => .dp4S8n8 h (fD x) (fA x) (fB x)⟩,
  ⟨formDp8E2m1, fun h x => .dp8E2m1 h (fD x) (fA x) (fB x)⟩,
  ⟨formDp8S4, fun h x => .dp8S4 h (fD x) (fA x) (fB x)⟩,
  ⟨formDp8N4, fun h x => .dp8N4 h (fD x) (fA x) (fB x)⟩,
  ⟨formDp8S4n4, fun h x => .dp8S4n4 h (fD x) (fA x) (fB x)⟩,
  ⟨formFsclF32, fun h x => .fsclF32 h (fD x) (fA x) (fB x)⟩,
  ⟨formFsclF64, fun h x => .fsclF64 h (fD x) (fA x) (fB x)⟩,
  ⟨formIcmpEq, fun h x => .icmpEq h (fD x) (fA x) (fB x)⟩,
  ⟨formIcmpNe, fun h x => .icmpNe h (fD x) (fA x) (fB x)⟩,
  ⟨formIcmpLtS32, fun h x => .icmpLtS32 h (fD x) (fA x) (fB x)⟩,
  ⟨formIcmpLeS32, fun h x => .icmpLeS32 h (fD x) (fA x) (fB x)⟩,
  ⟨formIcmpLtN32, fun h x => .icmpLtN32 h (fD x) (fA x) (fB x)⟩,
  ⟨formIcmpLeN32, fun h x => .icmpLeN32 h (fD x) (fA x) (fB x)⟩,
  ⟨formFcmpEq, fun h x => .fcmpEq h (fD x) (fA x) (fB x)⟩,
  ⟨formFcmpNe, fun h x => .fcmpNe h (fD x) (fA x) (fB x)⟩,
  ⟨formFcmpLt, fun h x => .fcmpLt h (fD x) (fA x) (fB x)⟩,
  ⟨formFcmpLe, fun h x => .fcmpLe h (fD x) (fA x) (fB x)⟩,
  ⟨formFcmpUn, fun h x => .fcmpUn h (fD x) (fA x) (fB x)⟩,
  ⟨formFcmpNeu, fun h x => .fcmpNeu h (fD x) (fA x) (fB x)⟩,
  ⟨formFcmpLtu, fun h x => .fcmpLtu h (fD x) (fA x) (fB x)⟩,
  ⟨formFcmpLeu, fun h x => .fcmpLeu h (fD x) (fA x) (fB x)⟩,
  ⟨formFcmpEqF64, fun h x => .fcmpEqF64 h (fD x) (fA x) (fB x)⟩]

/-- Rows of the opcode map, part 4. -/
def rows4 : List Row := [
  ⟨formFcmpNeF64, fun h x => .fcmpNeF64 h (fD x) (fA x) (fB x)⟩,
  ⟨formFcmpLtF64, fun h x => .fcmpLtF64 h (fD x) (fA x) (fB x)⟩,
  ⟨formFcmpLeF64, fun h x => .fcmpLeF64 h (fD x) (fA x) (fB x)⟩,
  ⟨formFcmpUnF64, fun h x => .fcmpUnF64 h (fD x) (fA x) (fB x)⟩,
  ⟨formFcmpNeuF64, fun h x => .fcmpNeuF64 h (fD x) (fA x) (fB x)⟩,
  ⟨formFcmpLtuF64, fun h x => .fcmpLtuF64 h (fD x) (fA x) (fB x)⟩,
  ⟨formFcmpLeuF64, fun h x => .fcmpLeuF64 h (fD x) (fA x) (fB x)⟩,
  ⟨formPlop, fun h x => .plop h (fD x) (fA x) (fB x)⟩,
  ⟨formPmov, fun h x => .pmov h (fD x) (fA x) (fB x)⟩,
  ⟨formBra, fun h x => .bra h x⟩,
  ⟨formCall, fun h x => .call h x⟩,
  ⟨formBrx, fun h x => .brx h (fD x) (fA x) (fB x)⟩,
  ⟨formCallx, fun h x => .callx h (fD x) (fA x) (fB x)⟩,
  ⟨formRet, fun h x => .ret h (fD x) (fA x) (fB x)⟩,
  ⟨formExit, fun h x => .exit h (fD x) (fA x) (fB x)⟩,
  ⟨formNop, fun h x => .nop h (fD x) (fA x) (fB x)⟩,
  ⟨formRjenr, fun h x => .rjenr h (fD x) (fA x) (fB x)⟩,
  ⟨formRjpark, fun h x => .rjpark h (fD x) (fA x) (fB x)⟩,
  ⟨formRjstrk, fun h x => .rjstrk h (fD x) (fA x) (fB x)⟩,
  ⟨formRjrd, fun h x => .rjrd h (fD x) (fA x) (fB x)⟩,
  ⟨formWmask, fun h x => .wmask h (fD x) (fA x) (fB x)⟩,
  ⟨formShflPick, fun h x => .shflPick h (fD x) (fA x) (fB x)⟩,
  ⟨formShflLag, fun h x => .shflLag h (fD x) (fA x) (fB x)⟩,
  ⟨formShflLead, fun h x => .shflLead h (fD x) (fA x) (fB x)⟩]

/-- Rows of the opcode map, part 5. -/
def rows5 : List Row := [
  ⟨formShflMirr, fun h x => .shflMirr h (fD x) (fA x) (fB x)⟩,
  ⟨formVoteEvery, fun h x => .voteEvery h (fD x) (fA x) (fB x)⟩,
  ⟨formVoteSome, fun h x => .voteSome h (fD x) (fA x) (fB x)⟩,
  ⟨formVoteSame, fun h x => .voteSame h (fD x) (fA x) (fB x)⟩,
  ⟨formBallot, fun h x => .ballot h (fD x) (fA x) (fB x)⟩,
  ⟨formReduxSum, fun h x => .reduxSum h (fD x) (fA x) (fB x)⟩,
  ⟨formReduxLeastS32, fun h x => .reduxLeastS32 h (fD x) (fA x) (fB x)⟩,
  ⟨formReduxLeastN32, fun h x => .reduxLeastN32 h (fD x) (fA x) (fB x)⟩,
  ⟨formReduxMostS32, fun h x => .reduxMostS32 h (fD x) (fA x) (fB x)⟩,
  ⟨formReduxMostN32, fun h x => .reduxMostN32 h (fD x) (fA x) (fB x)⟩,
  ⟨formReduxBand, fun h x => .reduxBand h (fD x) (fA x) (fB x)⟩,
  ⟨formReduxBor, fun h x => .reduxBor h (fD x) (fA x) (fB x)⟩,
  ⟨formReduxBxor, fun h x => .reduxBxor h (fD x) (fA x) (fB x)⟩,
  ⟨formMatchPeers, fun h x => .matchPeers h (fD x) (fA x) (fB x)⟩,
  ⟨formMatchUnif, fun h x => .matchUnif h (fD x) (fA x) (fB x)⟩,
  ⟨formXsw, fun h x => .xsw h (fD x) (fA x) (fB x)⟩,
  ⟨formBar, fun h x => .bar h (fD x) (fA x) (fB x)⟩,
  ⟨formBara, fun h x => .bara h (fD x) (fA x) (fB x)⟩,
  ⟨formBarw, fun h x => .barw h (fD x) (fA x) (fB x)⟩,
  ⟨formYield, fun h x => .yield h (fD x) (fA x) (fB x)⟩,
  ⟨formLnch, fun h x => .lnch h (fD x) (fA x) (fB x)⟩,
  ⟨formRdsr, fun h x => .rdsr h (fD x) (fA x) (fImm x)⟩,
  ⟨formWrsr, fun h x => .wrsr h (fD x) (fA x) (fImm x)⟩,
  ⟨formLdN8, fun h x => .ldN8 h (fD x) (fA x) (fB x)⟩]

/-- Rows of the opcode map, part 6. -/
def rows6 : List Row := [
  ⟨formLdS8, fun h x => .ldS8 h (fD x) (fA x) (fB x)⟩,
  ⟨formLdN16, fun h x => .ldN16 h (fD x) (fA x) (fB x)⟩,
  ⟨formLdS16, fun h x => .ldS16 h (fD x) (fA x) (fB x)⟩,
  ⟨formLdB32, fun h x => .ldB32 h (fD x) (fA x) (fB x)⟩,
  ⟨formLdB64, fun h x => .ldB64 h (fD x) (fA x) (fB x)⟩,
  ⟨formLdB128, fun h x => .ldB128 h (fD x) (fA x) (fB x)⟩,
  ⟨formStB8, fun h x => .stB8 h (fD x) (fA x) (fB x)⟩,
  ⟨formStB16, fun h x => .stB16 h (fD x) (fA x) (fB x)⟩,
  ⟨formStB32, fun h x => .stB32 h (fD x) (fA x) (fB x)⟩,
  ⟨formStB64, fun h x => .stB64 h (fD x) (fA x) (fB x)⟩,
  ⟨formStB128, fun h x => .stB128 h (fD x) (fA x) (fB x)⟩,
  ⟨formAtomAddB32, fun h x => .atomAddB32 h (fD x) (fA x) (fB x)⟩,
  ⟨formAtomMinS32, fun h x => .atomMinS32 h (fD x) (fA x) (fB x)⟩,
  ⟨formAtomMinN32, fun h x => .atomMinN32 h (fD x) (fA x) (fB x)⟩,
  ⟨formAtomMaxS32, fun h x => .atomMaxS32 h (fD x) (fA x) (fB x)⟩,
  ⟨formAtomMaxN32, fun h x => .atomMaxN32 h (fD x) (fA x) (fB x)⟩,
  ⟨formAtomAndB32, fun h x => .atomAndB32 h (fD x) (fA x) (fB x)⟩,
  ⟨formAtomOrB32, fun h x => .atomOrB32 h (fD x) (fA x) (fB x)⟩,
  ⟨formAtomXorB32, fun h x => .atomXorB32 h (fD x) (fA x) (fB x)⟩,
  ⟨formAtomExchB32, fun h x => .atomExchB32 h (fD x) (fA x) (fB x)⟩,
  ⟨formAtomCasB32, fun h x => .atomCasB32 h (fD x) (fA x) (fB x)⟩,
  ⟨formAtomAddF32, fun h x => .atomAddF32 h (fD x) (fA x) (fB x)⟩,
  ⟨formAtomExchB64, fun h x => .atomExchB64 h (fD x) (fA x) (fB x)⟩,
  ⟨formAtomCasB64, fun h x => .atomCasB64 h (fD x) (fA x) (fB x)⟩]

/-- Rows of the opcode map, part 7. -/
def rows7 : List Row := [
  ⟨formAtomAddB64, fun h x => .atomAddB64 h (fD x) (fA x) (fB x)⟩,
  ⟨formAtomCasB128, fun h x => .atomCasB128 h (fD x) (fA x) (fB x)⟩,
  ⟨formAtomAddF64, fun h x => .atomAddF64 h (fD x) (fA x) (fB x)⟩,
  ⟨formRedAddB32, fun h x => .redAddB32 h (fD x) (fA x) (fB x)⟩,
  ⟨formRedMinS32, fun h x => .redMinS32 h (fD x) (fA x) (fB x)⟩,
  ⟨formRedMinN32, fun h x => .redMinN32 h (fD x) (fA x) (fB x)⟩,
  ⟨formRedMaxS32, fun h x => .redMaxS32 h (fD x) (fA x) (fB x)⟩,
  ⟨formRedMaxN32, fun h x => .redMaxN32 h (fD x) (fA x) (fB x)⟩,
  ⟨formRedAddF32, fun h x => .redAddF32 h (fD x) (fA x) (fB x)⟩,
  ⟨formRedAddB64, fun h x => .redAddB64 h (fD x) (fA x) (fB x)⟩,
  ⟨formRedAddF64, fun h x => .redAddF64 h (fD x) (fA x) (fB x)⟩,
  ⟨formRedAndB32, fun h x => .redAndB32 h (fD x) (fA x) (fB x)⟩,
  ⟨formRedOrB32, fun h x => .redOrB32 h (fD x) (fA x) (fB x)⟩,
  ⟨formRedXorB32, fun h x => .redXorB32 h (fD x) (fA x) (fB x)⟩,
  ⟨formFence, fun h x => .fence h (fD x) (fA x) (fB x)⟩,
  ⟨formCinv, fun h x => .cinv h (fD x) (fA x) (fB x)⟩,
  ⟨formCwb, fun h x => .cwb h (fD x) (fA x) (fB x)⟩,
  ⟨formPref, fun h x => .pref h (fD x) (fA x) (fB x)⟩,
  ⟨formProbe, fun h x => .probe h (fD x) (fA x) (fB x)⟩,
  ⟨formUnpin, fun h x => .unpin h (fD x) (fA x) (fB x)⟩,
  ⟨formCpy, fun h x => .cpy h (fD x) (fA x) (fB x)⟩,
  ⟨formFenceXp, fun h x => .fenceXp h (fD x) (fA x) (fB x)⟩,
  ⟨formLdDir, fun h x => .ldDir h (fD x) (fA x) (fB x)⟩,
  ⟨formStDir, fun h x => .stDir h (fD x) (fA x) (fB x)⟩]

/-- Rows of the opcode map, part 8. -/
def rows8 : List Row := [
  ⟨formMxacq, fun h x => .mxacq h (fD x) (fA x) (fB x)⟩,
  ⟨formMxrel, fun h x => .mxrel h (fD x) (fA x) (fB x)⟩,
  ⟨formMxown, fun h x => .mxown h (fD x) (fA x) (fB x)⟩,
  ⟨formMxq, fun h x => .mxq h (fD x) (fA x) (fB x)⟩,
  ⟨formMxwait, fun h x => .mxwait h (fD x) (fA x) (fB x)⟩,
  ⟨formMxrd, fun h x => .mxrd h (fD x) (fA x) (fB x)⟩,
  ⟨formMxwr, fun h x => .mxwr h (fD x) (fA x) (fB x)⟩,
  ⟨formMxzero, fun h x => .mxzero h (fD x) (fA x) (fB x)⟩,
  ⟨formMxstat, fun h x => .mxstat h (fD x) (fA x) (fB x)⟩,
  ⟨formQdopen, fun h x => .qdopen h (fD x) (fA x) (fB x)⟩,
  ⟨formQdnext, fun h x => .qdnext h (fD x) (fA x) (fB x)⟩,
  ⟨formQdsplit, fun h x => .qdsplit h (fD x) (fA x) (fB x)⟩,
  ⟨formQdsave, fun h x => .qdsave h (fD x) (fA x) (fB x)⟩,
  ⟨formQdload, fun h x => .qdload h (fD x) (fA x) (fB x)⟩,
  ⟨formQdclose, fun h x => .qdclose h (fD x) (fA x) (fB x)⟩,
  ⟨formQdstat, fun h x => .qdstat h (fD x) (fA x) (fB x)⟩,
  ⟨formQdprobe, fun h x => .qdprobe h (fD x) (fA x) (fB x)⟩,
  ⟨formQyinit, fun h x => .qyinit h (fD x) (fA x) (fB x)⟩,
  ⟨formQypush, fun h x => .qypush h (fD x) (fA x) (fB x)⟩,
  ⟨formQypop, fun h x => .qypop h (fD x) (fA x) (fB x)⟩,
  ⟨formQydone, fun h x => .qydone h (fD x) (fA x) (fB x)⟩,
  ⟨formQyfloor, fun h x => .qyfloor h (fD x) (fA x) (fB x)⟩,
  ⟨formQyquiet, fun h x => .qyquiet h (fD x) (fA x) (fB x)⟩,
  ⟨formQyyield, fun h x => .qyyield h (fD x) (fA x) (fB x)⟩]

/-- Rows of the opcode map, part 9. -/
def rows9 : List Row := [
  ⟨formQystat, fun h x => .qystat h (fD x) (fA x) (fB x)⟩,
  ⟨formTrap, fun h x => .trap h (fD x) (fA x) (fB x)⟩,
  ⟨formRett, fun h x => .rett h (fD x) (fA x) (fB x)⟩,
  ⟨formRegion, fun h x => .region h (fD x) (fA x) (fB x)⟩,
  ⟨formBrk, fun h x => .brk h (fD x) (fA x) (fB x)⟩,
  ⟨formRdtr, fun h x => .rdtr h (fD x) (fA x) (fB x)⟩,
  ⟨formVrdx, fun h x => .vrdx h (fD x) (fA x) (fB x)⟩,
  ⟨formVwrx, fun h x => .vwrx h (fD x) (fA x) (fB x)⟩,
  ⟨formPatch, fun h x => .patch h (x.extractLsb' 22 2) (x.extractLsb' 0 22)⟩,
  ⟨formTrmp, fun h x => .trmp h x⟩]

/-- The opcode map (R71): every allocated form. -/
def rows : List Row := rows0 ++ rows1 ++ rows2 ++ rows3 ++ rows4 ++ rows5 ++ rows6 ++ rows7 ++ rows8 ++ rows9

/-- The words of an instruction form in pieces; a step of another agent has no words. -/
def Raw.of : Instr → Option Raw
  | .iaddS32 h d a b => some ⟨1, 0, h, (wT d a b 0)⟩
  | .iaddN32 h d a b => some ⟨1, 1, h, (wT d a b 1)⟩
  | .isubS32 h d a b => some ⟨1, 2, h, (wT d a b 2)⟩
  | .isubN32 h d a b => some ⟨1, 3, h, (wT d a b 3)⟩
  | .iaddc h d a b => some ⟨1, 4, h, (wT d a b 4)⟩
  | .iabs h d a b => some ⟨1, 5, h, (wT d a b 5)⟩
  | .iminS32 h d a b => some ⟨1, 6, h, (wT d a b 6)⟩
  | .iminN32 h d a b => some ⟨1, 7, h, (wT d a b 7)⟩
  | .imaxS32 h d a b => some ⟨2, 0, h, (wT d a b 0)⟩
  | .imaxN32 h d a b => some ⟨2, 1, h, (wT d a b 1)⟩
  | .imul h d a b => some ⟨2, 2, h, (wT d a b 2)⟩
  | .imulhiS32 h d a b => some ⟨2, 3, h, (wT d a b 3)⟩
  | .imulhiN32 h d a b => some ⟨2, 4, h, (wT d a b 4)⟩
  | .imad h d a b => some ⟨2, 5, h, (wT d a b 5)⟩
  | .imadwS32 h d a b => some ⟨2, 6, h, (wT d a b 6)⟩
  | .imadwN32 h d a b => some ⟨2, 7, h, (wT d a b 7)⟩
  | .and h d a b => some ⟨3, 0, h, (wT d a b 0)⟩
  | .or h d a b => some ⟨3, 1, h, (wT d a b 1)⟩
  | .xor h d a b => some ⟨3, 2, h, (wT d a b 2)⟩
  | .lop3 h d a b => some ⟨3, 3, h, (wT d a b 3)⟩
  | .shl h d a b => some ⟨3, 4, h, (wT d a b 4)⟩
  | .shr h d a b => some ⟨3, 5, h, (wT d a b 5)⟩
  | .sar h d a b => some ⟨3, 6, h, (wT d a b 6)⟩
  | .shf h d a b => some ⟨3, 7, h, (wT d a b 7)⟩
  | .bfxS32 h d a b => some ⟨4, 0, h, (wT d a b 0)⟩
  | .bfxN32 h d a b => some ⟨4, 1, h, (wT d a b 1)⟩
  | .bfi h d a b => some ⟨4, 2, h, (wT d a b 2)⟩
  | .popc h d a b => some ⟨4, 3, h, (wT d a b 3)⟩
  | .clz h d a b => some ⟨4, 4, h, (wT d a b 4)⟩
  | .brev h d a b => some ⟨4, 5, h, (wT d a b 5)⟩
  | .prmt h d a b => some ⟨4, 6, h, (wT d a b 6)⟩
  | .sel h d a b => some ⟨4, 7, h, (wT d a b 7)⟩
  | .mov h d a b => some ⟨5, 0, h, (wT d a b 0)⟩
  | .lea h d a b => some ⟨5, 1, h, (wT d a b 1)⟩
  | .add64 h d a b => some ⟨5, 2, h, (wT d a b 2)⟩
  | .movi h d a imm => some ⟨6, 0, h, (wK d a imm)⟩
  | .iaddImm h d a imm => some ⟨7, 0, h, (wK d a imm)⟩
  | .imulImm h d a imm => some ⟨8, 0, h, (wK d a imm)⟩
  | .andImm h d a imm => some ⟨9, 0, h, (wK d a imm)⟩
  | .orImm h d a imm => some ⟨10, 0, h, (wK d a imm)⟩
  | .xorImm h d a imm => some ⟨11, 0, h, (wK d a imm)⟩
  | .shlImm h d a imm => some ⟨12, 0, h, (wK d a imm)⟩
  | .shrImm h d a imm => some ⟨13, 0, h, (wK d a imm)⟩
  | .sarImm h d a imm => some ⟨14, 0, h, (wK d a imm)⟩
  | .fadd h d a b => some ⟨16, 0, h, (wT d a b 0)⟩
  | .fmul h d a b => some ⟨16, 1, h, (wT d a b 1)⟩
  | .ffma h d a b => some ⟨16, 2, h, (wT d a b 2)⟩
  | .fmin h d a b => some ⟨16, 3, h, (wT d a b 3)⟩
  | .fmax h d a b => some ⟨16, 4, h, (wT d a b 4)⟩
  | .frnd h d a b => some ⟨16, 5, h, (wT d a b 5)⟩
  | .fclass h d a b => some ⟨16, 6, h, (wT d a b 6)⟩
  | .frcp h d a b => some ⟨17, 0, h, (wT d a b 0)⟩
  | .frsq h d a b => some ⟨17, 1, h, (wT d a b 1)⟩
  | .fsqrt h d a b => some ⟨17, 2, h, (wT d a b 2)⟩
  | .fexp2 h d a b => some ⟨17, 3, h, (wT d a b 3)⟩
  | .flog2 h d a b => some ⟨17, 4, h, (wT d a b 4)⟩
  | .fsin h d a b => some ⟨17, 5, h, (wT d a b 5)⟩
  | .fcos h d a b => some ⟨17, 6, h, (wT d a b 6)⟩
  | .dadd h d a b => some ⟨18, 0, h, (wT d a b 0)⟩
  | .dmul h d a b => some ⟨18, 1, h, (wT d a b 1)⟩
  | .dfma h d a b => some ⟨18, 2, h, (wT d a b 2)⟩
  | .hadd2 h d a b => some ⟨19, 0, h, (wT d a b 0)⟩
  | .hmul2 h d a b => some ⟨19, 1, h, (wT d a b 1)⟩
  | .hfma2 h d a b => some ⟨19, 2, h, (wT d a b 2)⟩
  | .bfma2 h d a b => some ⟨19, 3, h, (wT d a b 3)⟩
  | .cvt h d a imm => some ⟨20, 0, h, (wK d a imm)⟩
  | .pack h d a imm => some ⟨21, 0, h, (wK d a imm)⟩
  | .unpk h d a imm => some ⟨22, 0, h, (wK d a imm)⟩
  | .dp4E4m3 h d a b => some ⟨23, 0, h, (wT d a b 0)⟩
  | .dp4E5m2 h d a b => some ⟨23, 1, h, (wT d a b 1)⟩
  | .dp4E3m2 h d a b => some ⟨23, 2, h, (wT d a b 2)⟩
  | .dp4E2m3 h d a b => some ⟨23, 3, h, (wT d a b 3)⟩
  | .dp4S8 h d a b => some ⟨23, 4, h, (wT d a b 4)⟩
  | .dp4N8 h d a b => some ⟨23, 5, h, (wT d a b 5)⟩
  | .dp4S8n8 h d a b => some ⟨23, 6, h, (wT d a b 6)⟩
  | .dp8E2m1 h d a b => some ⟨24, 0, h, (wT d a b 0)⟩
  | .dp8S4 h d a b => some ⟨24, 1, h, (wT d a b 1)⟩
  | .dp8N4 h d a b => some ⟨24, 2, h, (wT d a b 2)⟩
  | .dp8S4n4 h d a b => some ⟨24, 3, h, (wT d a b 3)⟩
  | .fsclF32 h d a b => some ⟨25, 0, h, (wT d a b 0)⟩
  | .fsclF64 h d a b => some ⟨25, 1, h, (wT d a b 1)⟩
  | .icmpEq h d a b => some ⟨28, 0, h, (wT d a b 0)⟩
  | .icmpNe h d a b => some ⟨28, 1, h, (wT d a b 1)⟩
  | .icmpLtS32 h d a b => some ⟨28, 2, h, (wT d a b 2)⟩
  | .icmpLeS32 h d a b => some ⟨28, 3, h, (wT d a b 3)⟩
  | .icmpLtN32 h d a b => some ⟨28, 4, h, (wT d a b 4)⟩
  | .icmpLeN32 h d a b => some ⟨28, 5, h, (wT d a b 5)⟩
  | .fcmpEq h d a b => some ⟨29, 0, h, (wT d a b 0)⟩
  | .fcmpNe h d a b => some ⟨29, 1, h, (wT d a b 1)⟩
  | .fcmpLt h d a b => some ⟨29, 2, h, (wT d a b 2)⟩
  | .fcmpLe h d a b => some ⟨29, 3, h, (wT d a b 3)⟩
  | .fcmpUn h d a b => some ⟨29, 4, h, (wT d a b 4)⟩
  | .fcmpNeu h d a b => some ⟨29, 5, h, (wT d a b 5)⟩
  | .fcmpLtu h d a b => some ⟨29, 6, h, (wT d a b 6)⟩
  | .fcmpLeu h d a b => some ⟨29, 7, h, (wT d a b 7)⟩
  | .fcmpEqF64 h d a b => some ⟨30, 0, h, (wT d a b 0)⟩
  | .fcmpNeF64 h d a b => some ⟨30, 1, h, (wT d a b 1)⟩
  | .fcmpLtF64 h d a b => some ⟨30, 2, h, (wT d a b 2)⟩
  | .fcmpLeF64 h d a b => some ⟨30, 3, h, (wT d a b 3)⟩
  | .fcmpUnF64 h d a b => some ⟨30, 4, h, (wT d a b 4)⟩
  | .fcmpNeuF64 h d a b => some ⟨30, 5, h, (wT d a b 5)⟩
  | .fcmpLtuF64 h d a b => some ⟨30, 6, h, (wT d a b 6)⟩
  | .fcmpLeuF64 h d a b => some ⟨30, 7, h, (wT d a b 7)⟩
  | .plop h d a b => some ⟨31, 0, h, (wT d a b 0)⟩
  | .pmov h d a b => some ⟨31, 1, h, (wT d a b 1)⟩
  | .bra h disp => some ⟨32, 0, h, disp⟩
  | .call h disp => some ⟨33, 0, h, disp⟩
  | .brx h d a b => some ⟨34, 0, h, (wT d a b 0)⟩
  | .callx h d a b => some ⟨34, 1, h, (wT d a b 1)⟩
  | .ret h d a b => some ⟨34, 2, h, (wT d a b 2)⟩
  | .exit h d a b => some ⟨34, 3, h, (wT d a b 3)⟩
  | .nop h d a b => some ⟨34, 4, h, (wT d a b 4)⟩
  | .rjenr h d a b => some ⟨35, 0, h, (wT d a b 0)⟩
  | .rjpark h d a b => some ⟨35, 1, h, (wT d a b 1)⟩
  | .rjstrk h d a b => some ⟨35, 2, h, (wT d a b 2)⟩
  | .rjrd h d a b => some ⟨35, 3, h, (wT d a b 3)⟩
  | .wmask h d a b => some ⟨35, 4, h, (wT d a b 4)⟩
  | .shflPick h d a b => some ⟨40, 0, h, (wT d a b 0)⟩
  | .shflLag h d a b => some ⟨40, 1, h, (wT d a b 1)⟩
  | .shflLead h d a b => some ⟨40, 2, h, (wT d a b 2)⟩
  | .shflMirr h d a b => some ⟨40, 3, h, (wT d a b 3)⟩
  | .voteEvery h d a b => some ⟨40, 4, h, (wT d a b 4)⟩
  | .voteSome h d a b => some ⟨40, 5, h, (wT d a b 5)⟩
  | .voteSame h d a b => some ⟨40, 6, h, (wT d a b 6)⟩
  | .ballot h d a b => some ⟨40, 7, h, (wT d a b 7)⟩
  | .reduxSum h d a b => some ⟨41, 0, h, (wT d a b 0)⟩
  | .reduxLeastS32 h d a b => some ⟨41, 1, h, (wT d a b 1)⟩
  | .reduxLeastN32 h d a b => some ⟨41, 2, h, (wT d a b 2)⟩
  | .reduxMostS32 h d a b => some ⟨41, 3, h, (wT d a b 3)⟩
  | .reduxMostN32 h d a b => some ⟨41, 4, h, (wT d a b 4)⟩
  | .reduxBand h d a b => some ⟨41, 5, h, (wT d a b 5)⟩
  | .reduxBor h d a b => some ⟨41, 6, h, (wT d a b 6)⟩
  | .reduxBxor h d a b => some ⟨41, 7, h, (wT d a b 7)⟩
  | .matchPeers h d a b => some ⟨42, 0, h, (wT d a b 0)⟩
  | .matchUnif h d a b => some ⟨42, 1, h, (wT d a b 1)⟩
  | .xsw h d a b => some ⟨42, 2, h, (wT d a b 2)⟩
  | .bar h d a b => some ⟨42, 3, h, (wT d a b 3)⟩
  | .bara h d a b => some ⟨42, 4, h, (wT d a b 4)⟩
  | .barw h d a b => some ⟨42, 5, h, (wT d a b 5)⟩
  | .yield h d a b => some ⟨42, 6, h, (wT d a b 6)⟩
  | .lnch h d a b => some ⟨42, 7, h, (wT d a b 7)⟩
  | .rdsr h d a imm => some ⟨43, 0, h, (wK d a imm)⟩
  | .wrsr h d a imm => some ⟨43, 1, h, (wK d a imm)⟩
  | .ldN8 h d a b => some ⟨44, 0, h, (wT d a b 0)⟩
  | .ldS8 h d a b => some ⟨44, 1, h, (wT d a b 1)⟩
  | .ldN16 h d a b => some ⟨44, 2, h, (wT d a b 2)⟩
  | .ldS16 h d a b => some ⟨44, 3, h, (wT d a b 3)⟩
  | .ldB32 h d a b => some ⟨44, 4, h, (wT d a b 4)⟩
  | .ldB64 h d a b => some ⟨44, 5, h, (wT d a b 5)⟩
  | .ldB128 h d a b => some ⟨44, 6, h, (wT d a b 6)⟩
  | .stB8 h d a b => some ⟨45, 0, h, (wT d a b 0)⟩
  | .stB16 h d a b => some ⟨45, 1, h, (wT d a b 1)⟩
  | .stB32 h d a b => some ⟨45, 2, h, (wT d a b 2)⟩
  | .stB64 h d a b => some ⟨45, 3, h, (wT d a b 3)⟩
  | .stB128 h d a b => some ⟨45, 4, h, (wT d a b 4)⟩
  | .atomAddB32 h d a b => some ⟨46, 0, h, (wT d a b 0)⟩
  | .atomMinS32 h d a b => some ⟨46, 1, h, (wT d a b 1)⟩
  | .atomMinN32 h d a b => some ⟨46, 2, h, (wT d a b 2)⟩
  | .atomMaxS32 h d a b => some ⟨46, 3, h, (wT d a b 3)⟩
  | .atomMaxN32 h d a b => some ⟨46, 4, h, (wT d a b 4)⟩
  | .atomAndB32 h d a b => some ⟨46, 5, h, (wT d a b 5)⟩
  | .atomOrB32 h d a b => some ⟨46, 6, h, (wT d a b 6)⟩
  | .atomXorB32 h d a b => some ⟨46, 7, h, (wT d a b 7)⟩
  | .atomExchB32 h d a b => some ⟨47, 0, h, (wT d a b 0)⟩
  | .atomCasB32 h d a b => some ⟨47, 1, h, (wT d a b 1)⟩
  | .atomAddF32 h d a b => some ⟨47, 2, h, (wT d a b 2)⟩
  | .atomExchB64 h d a b => some ⟨47, 3, h, (wT d a b 3)⟩
  | .atomCasB64 h d a b => some ⟨47, 4, h, (wT d a b 4)⟩
  | .atomAddB64 h d a b => some ⟨47, 5, h, (wT d a b 5)⟩
  | .atomCasB128 h d a b => some ⟨47, 6, h, (wT d a b 6)⟩
  | .atomAddF64 h d a b => some ⟨47, 7, h, (wT d a b 7)⟩
  | .redAddB32 h d a b => some ⟨48, 0, h, (wT d a b 0)⟩
  | .redMinS32 h d a b => some ⟨48, 1, h, (wT d a b 1)⟩
  | .redMinN32 h d a b => some ⟨48, 2, h, (wT d a b 2)⟩
  | .redMaxS32 h d a b => some ⟨48, 3, h, (wT d a b 3)⟩
  | .redMaxN32 h d a b => some ⟨48, 4, h, (wT d a b 4)⟩
  | .redAddF32 h d a b => some ⟨48, 5, h, (wT d a b 5)⟩
  | .redAddB64 h d a b => some ⟨48, 6, h, (wT d a b 6)⟩
  | .redAddF64 h d a b => some ⟨48, 7, h, (wT d a b 7)⟩
  | .redAndB32 h d a b => some ⟨51, 2, h, (wT d a b 2)⟩
  | .redOrB32 h d a b => some ⟨51, 3, h, (wT d a b 3)⟩
  | .redXorB32 h d a b => some ⟨51, 4, h, (wT d a b 4)⟩
  | .fence h d a b => some ⟨49, 0, h, (wT d a b 0)⟩
  | .cinv h d a b => some ⟨49, 1, h, (wT d a b 1)⟩
  | .cwb h d a b => some ⟨49, 2, h, (wT d a b 2)⟩
  | .pref h d a b => some ⟨49, 3, h, (wT d a b 3)⟩
  | .probe h d a b => some ⟨49, 4, h, (wT d a b 4)⟩
  | .unpin h d a b => some ⟨49, 5, h, (wT d a b 5)⟩
  | .cpy h d a b => some ⟨50, 0, h, (wT d a b 0)⟩
  | .fenceXp h d a b => some ⟨50, 1, h, (wT d a b 1)⟩
  | .ldDir h d a b => some ⟨51, 0, h, (wT d a b 0)⟩
  | .stDir h d a b => some ⟨51, 1, h, (wT d a b 1)⟩
  | .mxacq h d a b => some ⟨52, 0, h, (wT d a b 0)⟩
  | .mxrel h d a b => some ⟨52, 1, h, (wT d a b 1)⟩
  | .mxown h d a b => some ⟨52, 2, h, (wT d a b 2)⟩
  | .mxq h d a b => some ⟨52, 3, h, (wT d a b 3)⟩
  | .mxwait h d a b => some ⟨52, 4, h, (wT d a b 4)⟩
  | .mxrd h d a b => some ⟨52, 5, h, (wT d a b 5)⟩
  | .mxwr h d a b => some ⟨52, 6, h, (wT d a b 6)⟩
  | .mxzero h d a b => some ⟨52, 7, h, (wT d a b 7)⟩
  | .mxstat h d a b => some ⟨53, 0, h, (wT d a b 0)⟩
  | .qdopen h d a b => some ⟨56, 0, h, (wT d a b 0)⟩
  | .qdnext h d a b => some ⟨56, 1, h, (wT d a b 1)⟩
  | .qdsplit h d a b => some ⟨56, 2, h, (wT d a b 2)⟩
  | .qdsave h d a b => some ⟨56, 3, h, (wT d a b 3)⟩
  | .qdload h d a b => some ⟨56, 4, h, (wT d a b 4)⟩
  | .qdclose h d a b => some ⟨56, 5, h, (wT d a b 5)⟩
  | .qdstat h d a b => some ⟨56, 6, h, (wT d a b 6)⟩
  | .qdprobe h d a b => some ⟨56, 7, h, (wT d a b 7)⟩
  | .qyinit h d a b => some ⟨58, 0, h, (wT d a b 0)⟩
  | .qypush h d a b => some ⟨58, 1, h, (wT d a b 1)⟩
  | .qypop h d a b => some ⟨58, 2, h, (wT d a b 2)⟩
  | .qydone h d a b => some ⟨58, 3, h, (wT d a b 3)⟩
  | .qyfloor h d a b => some ⟨58, 4, h, (wT d a b 4)⟩
  | .qyquiet h d a b => some ⟨58, 5, h, (wT d a b 5)⟩
  | .qyyield h d a b => some ⟨58, 6, h, (wT d a b 6)⟩
  | .qystat h d a b => some ⟨58, 7, h, (wT d a b 7)⟩
  | .trap h d a b => some ⟨60, 0, h, (wT d a b 0)⟩
  | .rett h d a b => some ⟨60, 1, h, (wT d a b 1)⟩
  | .region h d a b => some ⟨60, 2, h, (wT d a b 2)⟩
  | .brk h d a b => some ⟨60, 3, h, (wT d a b 3)⟩
  | .rdtr h d a b => some ⟨60, 4, h, (wT d a b 4)⟩
  | .vrdx h d a b => some ⟨60, 5, h, (wT d a b 5)⟩
  | .vwrx h d a b => some ⟨60, 6, h, (wT d a b 6)⟩
  | .patch h n tool => some ⟨61, 0, h, (wPatch n tool)⟩
  | .trmp h disp => some ⟨61, 1, h, disp⟩
  | .memoryReply _ _ => none
  | .switchMarkerRelease _ => none
  | .grantCountRotation _ => none
  | .allocationRelease _ => none
  | .laneSpill _ => none
  | .spillRestore _ => none
  | .warpEnd _ => none
  | .barrierPhaseComplete _ _ _ => none
  | .xswPairComplete _ _ => none
  | .lnchRecordRead _ => none
  | .timerTrap _ _ => none
  | .trapEntry _ _ => none
  | .translationWalk _ _ => none
  | .walkFault _ _ => none
  | .faultRecordWrite => none
  | .regionBoundary _ _ => none
  | .storeEntryPerform _ => none
  | .coalesceRequestSend _ => none
  | .l1Fill _ => none
  | .homeSliceServe _ _ => none
  | .l2MemoryReply _ => none
  | .baseDieService _ => none
  | .directPacketSend _ => none
  | .directReply _ => none
  | .fenceComplete _ => none
  | .cacheMaintComplete _ => none
  | .fenceXpComplete _ => none
  | .copyLineOperation _ _ => none
  | .copyTranslationFault _ _ => none
  | .copyRetire _ _ => none
  | .mxPassSelect _ => none
  | .mxStep _ => none
  | .mxPassComplete _ => none
  | .mxzeroRun _ => none
  | .mxacqBind _ _ => none
  | .mxrelReturn _ _ => none
  | .mxownFlip _ _ => none
  | .mxwaitReport _ _ => none
  | .mxRowAccess _ _ => none
  | .tokenArrive _ _ => none
  | .tokenIdleMove _ _ => none
  | .burstEnd _ => none
  | .qdCommandServe _ _ => none
  | .qdStreamFault _ _ => none
  | .pushComplete _ => none
  | .spoilRefill _ => none
  | .popServe _ _ => none
  | .steal _ _ _ => none
  | .floorWave _ _ => none
  | .terminationPass _ _ => none
  | .quietWaitRelease _ _ => none
  | .headRecordRead _ => none
  | .waitSignalRead _ => none
  | .placementDecision => none
  | .launchComplete _ => none
  | .queueTailWrite _ _ => none
  | .queueEnable _ => none
  | .queueDisable _ => none
  | .queueErrorClear _ _ => none
  | .stop _ => none
  | .drain _ => none
  | .resume _ => none
  | .fresetClear _ => none
  | .graceExpiry _ => none
  | .deadlineExpiry _ => none
  | .stopCopyEngine _ _ => none
  | .stopCoordinateEngine _ _ => none
  | .stopWarps _ _ => none
  | .stopMatrixEngine _ _ => none
  | .stopFlushSave _ _ => none
  | .gangRestore _ => none
  | .faultAnswerResume _ => none
  | .faultAnswerFatal _ => none
  | .faultRingEnable => none
  | .faultRingDisable => none
  | .faultRingErrorClear _ => none
  | .invalidateGo => none
  | .invalidateDone => none
  | .invalidateErrorClear => none
  | .bar2Read _ _ => none
  | .bar2Write _ _ => none
  | .winerrClear => none
  | .registerWrite _ _ _ => none
  | .heldWriteTake => none
  | .flitRoute _ => none
  | .linkPowerDown _ => none
  | .linkOff _ => none
  | .linkWake _ => none
  | .linkActive _ => none
  | .virvisPortUpChange _ _ _ => none
  | .pdupClear _ => none
  | .peerRequest _ _ _ _ => none
  | .pcieCompletion _ _ => none
  | .pcieCompletionTimeout _ => none
  | .deviceReset _ => none
  | .bootVerify => none
  | .selfTestPass _ => none
  | .selfTestFail _ => none
  | .firmwareVerify => none
  | .firmwareVerifyDone => none
  | .getVersion => none
  | .getCapabilities => none
  | .negotiateAlgorithms => none
  | .getMeasurements _ => none
  | .spdmUnsupported _ => none
  | .eccCorrected _ _ _ => none
  | .eccUncorrectable _ _ _ _ => none
  | .hbmScrub _ => none
  | .eccCounterWrite _ _ _ _ => none
  | .powerLimitWrite _ => none
  | .throttleSet _ _ => none
  | .throttleClear _ _ => none
  | .thermalShutdown _ _ => none
  | .d3hotEnter => none
  | .d3hotExit => none
  | .powerRemoval => none
  | .illegalInstruction _ _ => none
  | .msixVectorUnmask _ => none
  | .linkedContextEnd _ => none

/-- The row of major opcode `major` and minor `f` (R71). -/
def rowOf (major f : Nat) : Option Row := rows.find? fun r => r.form.major == major && r.form.f == f

/-- The form of an instruction. -/
def formOf (i : Instr) : Option Form :=
  match Raw.of i with
  | none => none
  | some r => (rowOf r.major r.f).map Row.form

end Sys2Proof.Machine
end

