-- ==== Sys2Proof/Machine/Num.lean ====
section
/-! DEFINITION. Number formats and arithmetic rules (02 R30 to R59): format codes, decoding, the one rounding
function, conversions, blocks and exact sums. Values are exact: a finite number is a sign, a natural and a power of
two. -/

namespace Sys2Proof.Machine

/-- The floating-point formats of R33. -/
inductive Fp where
  | fp64 | fp32 | fp16 | bf16 | e4m3 | e5m2 | e3m2 | e2m3 | e2m1
  deriving DecidableEq, Repr

/-- A format of R30. -/
inductive NumFmt where
  | fp (f : Fp)
  | int (signed : Bool) (width : Nat)
  deriving DecidableEq, Repr

/-- R30: the format a 5-bit code names; a reserved code names none. -/
def numFmt (c : Nat) : Option NumFmt :=
  match c with
  | 0 => some (.fp .fp64) | 1 => some (.fp .fp32) | 2 => some (.fp .fp16) | 3 => some (.fp .bf16)
  | 4 => some (.fp .e4m3) | 5 => some (.fp .e5m2) | 6 => some (.fp .e3m2) | 7 => some (.fp .e2m3)
  | 8 => some (.fp .e2m1)
  | 16 => some (.int true 8) | 17 => some (.int false 8) | 18 => some (.int true 4) | 19 => some (.int false 4)
  | 20 => some (.int true 16) | 21 => some (.int false 16) | 22 => some (.int true 32)
  | 23 => some (.int false 32) | 24 => some (.int true 64) | 25 => some (.int false 64)
  | _ => none

/-- Exponent bits, fraction bits and bias (R33). -/
def Fp.e : Fp → Nat
  | .fp64 => 11 | .fp32 => 8 | .fp16 => 5 | .bf16 => 8 | .e4m3 => 4 | .e5m2 => 5 | .e3m2 => 3 | .e2m3 => 2
  | .e2m1 => 2
def Fp.f : Fp → Nat
  | .fp64 => 52 | .fp32 => 23 | .fp16 => 10 | .bf16 => 7 | .e4m3 => 3 | .e5m2 => 2 | .e3m2 => 2 | .e2m3 => 3
  | .e2m1 => 1
def Fp.bias : Fp → Nat
  | .fp64 => 1023 | .fp32 => 127 | .fp16 => 15 | .bf16 => 127 | .e4m3 => 7 | .e5m2 => 15 | .e3m2 => 3
  | .e2m3 => 1 | .e2m1 => 1

/-- Bits of a code (R30). -/
def Fp.width (f : Fp) : Nat := 1 + f.e + f.f

/-- Has the format infinities (R33)? -/
def Fp.infs : Fp → Bool
  | .fp64 | .fp32 | .fp16 | .bf16 | .e5m2 => true
  | .e4m3 | .e3m2 | .e2m3 | .e2m1 => false

/-- Has the format NaNs (R33)? -/
def Fp.nans (f : Fp) : Bool := f.infs || f == .e4m3

/-- The code of the largest finite value, sign 0 (R33). -/
def Fp.largest : Fp → Nat
  | .fp64 => 0x7FEFFFFFFFFFFFFF | .fp32 => 0x7F7FFFFF | .fp16 => 0x7BFF | .bf16 => 0x7F7F | .e4m3 => 0x7E
  | .e5m2 => 0x7B | .e3m2 => 0x1F | .e2m3 => 0x1F | .e2m1 => 0x7

/-- The canonical NaN (R33, R36); a format without NaNs gives +0. -/
def Fp.cnan : Fp → Nat
  | .fp64 => 0x7FF8000000000000 | .fp32 => 0x7FC00000 | .fp16 => 0x7E00 | .bf16 => 0x7FC0 | .e4m3 => 0x7F
  | .e5m2 => 0x7E | .e3m2 => 0 | .e2m3 => 0 | .e2m1 => 0

/-- A code with a sign. -/
def Fp.signed (f : Fp) (neg : Bool) (c : Nat) : Nat := b2n neg * 2 ^ (f.e + f.f) + c

/-- The infinity of a format that has one. -/
def Fp.inf (f : Fp) (neg : Bool) : Nat := f.signed neg ((2 ^ f.e - 1) * 2 ^ f.f)

/-- A decoded value (R34): a NaN, an infinity, or (-1)^neg × m × 2^x. -/
inductive Fv where
  | nan (signalling : Bool)
  | inf (neg : Bool)
  | fin (neg : Bool) (m : Nat) (x : Int)
  deriving DecidableEq, Repr

/-- R33 to R35, R37, R39: the value of a code; bits above the width are ignored. E2M1's 0x8 decodes as -0 here; the
escape is dealt with by the block rules and by conversion. -/
def Fp.decode (f : Fp) (c : Nat) : Fv :=
  let c := c % 2 ^ f.width
  let neg := bit c (f.e + f.f)
  let E := fld c f.f f.e
  let T := c % 2 ^ f.f
  if f.infs && E == 2 ^ f.e - 1 then
    if T = 0 then .inf neg else .nan (T < 2 ^ (f.f - 1))
  else if f == .e4m3 && E == 15 && T == 7 then .nan false
  else if E = 0 then .fin neg T (1 - (f.bias : Int) - f.f)
  else .fin neg (2 ^ f.f + T) ((E : Int) - f.bias - f.f)

/-- The fsr flags of R15. -/
def fIV : Nat := 1
def fDZ : Nat := 2
def fOF : Nat := 4
def fUF : Nat := 8
def fIX : Nat := 16

/-- Rounding modes (R40). -/
inductive Rm where
  | rn | rz | ru | rd
  deriving DecidableEq, Repr
def Rm.of (c : Nat) : Rm := match c with | 0 => .rn | 1 => .rz | 2 => .ru | _ => .rd

/-- Does a quotient `q` with remainder `r` of `2^sh` round away from zero (R40)? -/
def roundUp (mode : Rm) (neg : Bool) (q r sh : Nat) : Bool :=
  match mode with
  | .rn => 2 * r > 2 ^ sh || (2 * r == 2 ^ sh && q % 2 == 1)
  | .rz => false
  | .ru => r != 0 && !neg
  | .rd => r != 0 && neg

/-- What R43 gives on overflow. -/
def overflowCode (f : Fp) (mode : Rm) (sat neg : Bool) : Nat :=
  let big := f.signed neg f.largest
  let away := if f == .e4m3 then f.cnan else f.inf neg
  if sat || !f.nans then big
  else match mode with
    | .rn => away
    | .rz => big
    | .ru => if neg then big else away
    | .rd => if neg then away else big

/-- An exact result before rounding. `num neg m x sticky` lies strictly between m × 2^x and (m + 1) × 2^x when
`sticky`, else is m × 2^x; it is not zero. -/
inductive Ex where
  | nan
  | inf (neg : Bool)
  | zero (neg : Bool)
  | num (neg : Bool) (m : Nat) (x : Int) (sticky : Bool)
  deriving DecidableEq, Repr

/-- R41, R43, R44 on a nonzero magnitude m × 2^x: the code and the flags. -/
def roundMag (f : Fp) (mode : Rm) (sat ftz neg : Bool) (m : Nat) (x : Int) : Nat × Nat :=
  let emin : Int := 1 - (f.bias : Int)
  let top : Int := x + (Nat.log2 m : Int)
  let g : Int := (if top < emin then emin else top) - f.f
  let sh := (g - x).toNat
  let q := if x ≥ g then m * 2 ^ (x - g).toNat else m / 2 ^ sh
  let r := if x ≥ g then 0 else m % 2 ^ sh
  let q' := q + b2n (roundUp mode neg q r sh)
  let ix := r != 0
  if q' < 2 ^ f.f then
    if ftz then (if f == .e2m1 then 0 else f.signed neg 0, fUF ||| fIX)
    else (if q' = 0 && f == .e2m1 then 0 else f.signed neg q', if ix then fUF ||| fIX else 0)
  else
    let c := (q', g)
    let c := if c.1 ≥ 2 ^ (f.f + 1) then (c.1 / 2, c.2 + 1) else c
    let code := ((c.2 + f.f + f.bias).toNat) * 2 ^ f.f + (c.1 - 2 ^ f.f)
    if code > f.largest then (overflowCode f mode sat neg, fOF ||| fIX)
    else (f.signed neg code, if ix then fIX else 0)

/-- `round(x, mode, F)` of R41 with `.SAT` and `.FTZ`: the code and the flags. -/
def roundTo (f : Fp) (mode : Rm) (sat ftz : Bool) (r : Ex) : Nat × Nat :=
  match r with
  | .nan => (f.cnan, if f.nans then 0 else fIV)
  | .inf neg => if sat || !f.infs then (f.signed neg f.largest, 0) else (f.inf neg, 0)
  | .zero neg => (if f == .e2m1 then 0 else f.signed neg 0, 0)
  | .num neg m x st =>
    if m = 0 && !st then (if f == .e2m1 then 0 else f.signed neg 0, 0)
    else roundMag f mode sat ftz neg (if st then (2 * m + 1) * 2 else m) (if st then x - 2 else x)

/-- R44: a subnormal operand of `.FTZ` reads as a zero of its sign. -/
def ftzIn (f : Fp) (ftz : Bool) (v : Fv) : Fv :=
  match v with
  | .fin neg m x =>
    if ftz && (f == .fp64 || f == .fp32 || f == .fp16 || f == .bf16) && m < 2 ^ f.f then .fin neg 0 x
    else .fin neg m x
  | v => v

/-- The operand of a conversion (R46, R122): one between equal formats reads a subnormal as zero under `.FTZ` in every
format. -/
def convIn (src dst : Fp) (ftz : Bool) (v : Fv) : Fv :=
  match v with
  | .fin neg m x => if ftz && src == dst && m < 2 ^ src.f then .fin neg 0 x else ftzIn src ftz (.fin neg m x)
  | v => v

/-- Is the value a signalling NaN (R35)? -/
def Fv.snan : Fv → Bool
  | .nan s => s
  | _ => false
def Fv.isNan : Fv → Bool
  | .nan _ => true
  | _ => false
def Fv.isZero : Fv → Bool
  | .fin _ m _ => m == 0
  | _ => false
def Fv.isInf : Fv → Bool
  | .inf _ => true
  | _ => false
def Fv.neg : Fv → Bool
  | .nan _ => false
  | .inf n => n
  | .fin n _ _ => n

/-- A finite value as an exact result. -/
def Fv.ex : Fv → Ex
  | .nan _ => .nan
  | .inf n => .inf n
  | .fin n m x => if m = 0 then .zero n else .num n m x false

/-- The exact product of two values that are not NaN; an infinity times zero is `none`. -/
def mulFv (a b : Fv) : Option Fv :=
  let n := a.neg != b.neg
  match a, b with
  | .fin _ m x, .fin _ m' x' => some (.fin n (m * m') (x + x'))
  | _, _ => if a.isZero || b.isZero then none else some (.inf n)

/-- An integer times a power of two, at a smaller power. -/
def scaleTo (m : Nat) (x lo : Int) : Nat := m * 2 ^ (x - lo).toNat

/-- The exact sum of finite terms, at the least exponent among them. -/
def sumFin (ts : List (Bool × Nat × Int)) : Int × Int :=
  let lo := ts.foldl (fun a t => if t.2.2 < a then t.2.2 else a) (match ts with | [] => 0 | t :: _ => t.2.2)
  (ts.foldl (fun a t => let v := (scaleTo t.2.1 t.2.2 lo : Int); if t.1 then a - v else a + v) 0, lo)

/-- The finite terms of a list. -/
def finTerms (ts : List Fv) : List (Bool × Nat × Int) :=
  ts.filterMap fun v => match v with | .fin n m x => some (n, m, x) | _ => none

/-- The exact sum of terms none of which is a NaN, with R42's zero; opposite infinities give `nan`. -/
def sumEx (mode : Rm) (ts : List Fv) : Ex :=
  if ts.any (fun v => v == .inf true) then
    if ts.any (fun v => v == .inf false) then .nan else .inf true
  else if ts.any (fun v => v == .inf false) then .inf false
  else
    let f := finTerms ts
    let (s, lo) := sumFin f
    if s = 0 then
      if f.all (fun t => t.1 && t.2.1 == 0) then .zero true
      else if f.all (fun t => !t.1 && t.2.1 == 0) then .zero false
      else .zero (mode == .rd)
    else .num (s < 0) s.natAbs lo false

/-- FADD's rule (R41 to R45): code and flags. -/
def fpAdd (f : Fp) (mode : Rm) (sat ftz : Bool) (a b : Nat) : Nat × Nat :=
  let a := ftzIn f ftz (f.decode a)
  let b := ftzIn f ftz (f.decode b)
  if a.isNan || b.isNan then (f.cnan, if a.snan || b.snan then fIV else 0)
  else match sumEx mode [a, b] with
    | .nan => (f.cnan, fIV)
    | r => roundTo f mode sat ftz r

/-- FMUL's rule. -/
def fpMul (f : Fp) (mode : Rm) (sat ftz : Bool) (a b : Nat) : Nat × Nat :=
  let a := ftzIn f ftz (f.decode a)
  let b := ftzIn f ftz (f.decode b)
  if a.isNan || b.isNan then (f.cnan, if a.snan || b.snan then fIV else 0)
  else match mulFv a b with
    | none => (f.cnan, fIV)
    | some p => roundTo f mode sat ftz p.ex

/-- FFMA's rule: one rounding of a × b + c. -/
def fpFma (f : Fp) (mode : Rm) (sat ftz : Bool) (a b c : Nat) : Nat × Nat :=
  let a := ftzIn f ftz (f.decode a)
  let b := ftzIn f ftz (f.decode b)
  let c := ftzIn f ftz (f.decode c)
  let sig := a.snan || b.snan || c.snan
  if a.isNan || b.isNan then (f.cnan, if sig then fIV else 0)
  else match mulFv a b with
    | none => (f.cnan, fIV)
    | some p =>
      if c.isNan then (f.cnan, if sig then fIV else 0)
      else match sumEx mode [p, c] with
        | .nan => (f.cnan, fIV)
        | r => roundTo f mode sat ftz r

/-- Strictly less, for values that are not NaN; zeros are equal. -/
def fvLt (a b : Fv) : Bool :=
  match a, b with
  | .inf n, .inf n' => n && !n'
  | .inf n, _ => n
  | _, .inf n => !n
  | .fin n m x, .fin n' m' x' => (sumFin [(n, m, x), (!n', m', x')]).1 < 0
  | _, _ => false

/-- Equal, for values that are not NaN. -/
def fvEq (a b : Fv) : Bool := !fvLt a b && !fvLt b a

/-- The magnitude of a value. -/
def Fv.abs : Fv → Fv
  | .inf _ => .inf false
  | .fin _ m x => .fin false m x
  | v => v

/-- m × 2^x rounded to an integer (R40, R48): the integer and whether it changed. -/
def roundInt (mode : Rm) (neg : Bool) (m : Nat) (x : Int) : Int × Bool :=
  if x ≥ 0 then
    let v : Int := m * 2 ^ x.toNat
    (if neg then -v else v, false)
  else
    let sh := (-x).toNat
    let q := m / 2 ^ sh
    let r := m % 2 ^ sh
    let v : Int := q + b2n (roundUp mode neg q r sh)
    (if neg then -v else v, r != 0)

/-- The least and greatest values of an integer format (R31). -/
def intMin (sg : Bool) (w : Nat) : Int := if sg then -(2 : Int) ^ (w - 1) else 0
def intMax (sg : Bool) (w : Nat) : Int := if sg then (2 : Int) ^ (w - 1) - 1 else (2 : Int) ^ w - 1

/-- `sat(x, F)` (R32). -/
def satI (sg : Bool) (w : Nat) (x : Int) : Int :=
  if x < intMin sg w then intMin sg w else if x > intMax sg w then intMax sg w else x

/-- The value of an integer code (R31, R39). -/
def intVal (sg : Bool) (w c : Nat) : Int := if sg then sval w c else ((c % 2 ^ w : Nat) : Int)

/-- The bits of a result in its register or pair (R39): N and floating codes zero-extended, S sign-extended. -/
def intBits (w : Nat) (v : Int) : Nat := wrapI (if w = 64 then 64 else 32) v

/-- R46, R47, R49, R48: conversion between formats (`CVT`, R122): the bits of R39 and the flags. -/
def convert (dst src : NumFmt) (mode : Rm) (sat ftz : Bool) (c : Nat) : Nat × Nat :=
  match src, dst with
  | .fp s, .fp d =>
    if s == .e2m1 && c % 16 == 8 then (d.cnan, fIV)
    else match convIn s d ftz (s.decode c) with
      | .nan sig => (d.cnan, if sig || !d.nans then fIV else 0)
      | .inf n =>
        if sat then (d.signed n d.largest, 0)
        else if d.infs then (d.inf n, 0)
        else if d == .e4m3 then (d.cnan, fIV)
        else (d.signed n d.largest, fIV)
      | .fin n m x => roundTo d mode sat ftz (Fv.fin n m x).ex
  | .fp s, .int sg w =>
    if s == .e2m1 && c % 16 == 8 then (0, fIV)
    else match ftzIn s ftz (s.decode c) with
      | .nan _ => (0, fIV)
      | .inf n => (intBits w (if n then intMin sg w else intMax sg w), fIV)
      | .fin n m x =>
        let (v, ix) := roundInt mode n m x
        if v < intMin sg w then (intBits w (intMin sg w), fIV)
        else if v > intMax sg w then (intBits w (intMax sg w), fIV)
        else (intBits w v, if ix then fIX else 0)
  | .int sg w, .fp d =>
    let v := intVal sg w c
    roundTo d mode sat ftz (if v = 0 then .zero false else .num (v < 0) v.natAbs 0 false)
  | .int sg w, .int sg' w' =>
    let v := intVal sg w c
    let y := if sat then satI sg' w' v else (if sg' then sval w' (wrapI w' v) else (wrapI w' v : Nat))
    (intBits w' y, 0)

/-- R52: scalevalue of an S9 code as m × 2^x. -/
def scaleVal (c : Nat) : Nat × Int := (2 + c % 2, (c / 2 : Int) - 128)

/-- One block in decoded form. -/
structure BlockHdr where
  scale : Nat
  ocnt : Nat
  rsv : Nat
  deriving DecidableEq, Repr
def blockHdr (h : Nat) : BlockHdr := ⟨h % 512, fld h 9 3, fld h 12 4⟩

/-- R55. -/
def illFormed (f : Fp) (h : Nat) (codes : List Nat) : Bool :=
  let b := blockHdr h
  b.rsv != 0 || (f != .e2m1 && b.ocnt != 0) ||
    (f == .e2m1 && (codes.filter (fun c => c % 16 == 8)).length != b.ocnt)

/-- A finite value times a scale. -/
def timesScale (v : Fv) (sc : Nat) : Fv :=
  match v with
  | .fin n m x => let (k, y) := scaleVal sc; .fin n (m * k) (x + y)
  | v => v

/-- R54: the values of the elements of a well-formed block; `outs` are the halfwords of its slot and `j` counts the
escapes met so far. -/
def blockValsFrom (f : Fp) (scale : Nat) (outs : List Nat) (j : Nat) : List Nat → List Fv
  | [] => []
  | c :: cs =>
    let esc := f == .e2m1 && c % 16 == 8
    let v :=
      if scale = 0x1FF then Fv.nan false
      else if esc then Fp.bf16.decode (outs.getD j 0)
      else if scale = 0 then Fv.fin false 0 0
      else timesScale (f.decode c) scale
    v :: blockValsFrom f scale outs (if esc then j + 1 else j) cs
def blockVals (f : Fp) (h : Nat) (outs codes : List Nat) : List Fv := blockValsFrom f (h % 512) outs 0 codes

/-- R57 on one group: acc := round(acc + exact, mode, accumulator format), and the flags. Beside a quiet NaN, infinities of both
signs raise IV still (log entry 43). -/
def dotRound (f : Fp) (mode : Rm) (acc : Fv) (prs : List (Fv × Fv)) : Nat × Nat :=
  let sig := prs.any fun p => p.1.snan || p.2.snan
  let nanOp := acc.isNan || prs.any fun p => p.1.isNan || p.2.isNan
  let fine := prs.filter fun p => !p.1.isNan && !p.2.isNan
  let prods := fine.map fun p => mulFv p.1 p.2
  let bad := prods.any (· == none)
  let terms := prods.filterMap id ++ (if acc.isNan then [] else [acc])
  let r := sumEx mode terms
  let iv := sig || bad || r == .nan
  if nanOp || bad || r == .nan then (f.cnan, if iv then fIV else 0)
  else roundTo f mode false false r

/-- Comparison of magnitudes of values that are not NaN. -/
def magLt (a b : Fv) : Bool := fvLt a.abs b.abs

/-- The indexes of the `k` elements of largest magnitude, ties to the lower index (R56). -/
def chooseOut (xs : List Fv) : Nat → List Nat → List Nat
  | 0, acc => acc
  | k + 1, acc =>
    let best := (List.range xs.length).foldl (fun (b : Option Nat) i =>
      if acc.contains i then b else match b with
        | none => some i
        | some j => if magLt (xs.getD j (.fin false 0 0)) (xs.getD i (.fin false 0 0)) then some i else b) none
    match best with
    | none => acc
    | some i => chooseOut xs k (acc ++ [i])

/-- amax ÷ scalevalue(c) ≤ largest(F) (R56). -/
def scaleFits (f : Fp) (amax : Fv) (c : Nat) : Bool := !fvLt (timesScale (f.decode f.largest) c) amax

/-- x ÷ scalevalue(c), exactly. -/
def divScale (v : Fv) (c : Nat) : Ex :=
  match v with
  | .fin n m x =>
    let (k, y) := scaleVal c
    if m = 0 then .zero n
    else
      let q := m * 2 ^ 80
      .num n (q / k) (x - y - 80) (q % k != 0)
  | .inf n => .inf n
  | .nan _ => .nan

/-- The block that R56 builds. -/
structure BlockEnc where
  hdr : Nat
  codes : List Nat
  /-- The outliers, in ascending order of element. -/
  outs : List Nat
  flags : Nat
  deriving DecidableEq, Repr

/-- R56. -/
def encodeBlock (f : Fp) (lim : Nat) (mode : Rm) (xs : List Fv) : BlockEnc :=
  if xs.any Fv.isNan then ⟨0x1FF, xs.map fun _ => 0, [], fIV⟩
  else
    let k := min lim (xs.filter fun x => !x.isZero).length
    let chosen := chooseOut xs k []
    let idx := List.range xs.length
    let at' := fun i => xs.getD i (.fin false 0 0)
    let outs := (idx.filter fun i => chosen.contains i).map fun i => roundTo .bf16 mode false false (at' i).ex
    let rest := idx.filter fun i => !chosen.contains i
    let amax := rest.foldl (fun m i => if magLt m (at' i) then (at' i).abs else m) (Fv.fin false 0 0)
    let oflags := outs.foldl (fun a o => a ||| o.2) 0
    if amax.isZero then
      ⟨k * 512, idx.map fun i => if chosen.contains i then 8 else 0, outs.map (·.1), oflags⟩
    else
      let sc := (((List.range 510).map (· + 1)).find? (scaleFits f amax)).getD 0x1FE
      let cs := idx.map fun i =>
        if chosen.contains i then (8, 0) else roundTo f mode true false (divScale (at' i) sc)
      ⟨k * 512 + sc, cs.map (·.1), outs.map (·.1), cs.foldl (fun a o => a ||| o.2) oflags⟩

end Sys2Proof.Machine
end

