-- ==== Sys2Proof/Machine/Check.lean ====
section
/-! DEFINITION. The checks of an instruction's encoding that are made at issue (R14, R63 to R67, R72, R84, R95, R98,
R104, R109, R122, R125, R169 to R171, R189, R190, R248, R255, R260, R264, R288, R302, R312, R322 to R324, R339, R369,
R395, R418). -/

namespace Sys2Proof

/-- The kind-00 word of an instruction, or the one that changes nothing (R65). -/
def Hdr.ext (h : Hdr) : E0 :=
  match h.e0 with
  | some e => e
  | none => ⟨0, false, 0, false, false, 0, 0⟩

/-- IH, or 0 (R83). -/
def Hdr.ih (h : Hdr) : Nat :=
  match h.e1 with
  | some v => v.toNat
  | none => 0

end Sys2Proof

namespace Sys2Proof.Machine

/-- Which word an encoding failure names (R70): the first word of the instruction, or its issuing word. -/
inductive Why where
  | first | word
  deriving DecidableEq, Repr

/-- System registers (R192): is the code listed, is it 64 bits wide, has it the form uniform, may WRSR write it? -/
def srListed (c : Nat) : Bool := c ≤ 0x19
def srWide (c : Nat) : Bool := c == 0x10 || c == 0x11 || (0x13 ≤ c && c ≤ 0x16)
def srUniform (c : Nat) : Bool := c != 0 && c != 0x19
def srWritable (c : Nat) : Bool := c == 0x15 || c == 0x17 || c == 0x18 || c == 0x19

/-- The memory code of R95. -/
structure MemCode where
  sp : Nat
  co : Nat
  pe : Bool
  ci : Nat
  deriving DecidableEq, Repr
def memCode (b : BitVec 7) : MemCode := ⟨fld b.toNat 5 2, fld b.toNat 3 2, bit b.toNat 2, b.toNat % 4⟩

/-- Registers of a number format's operand (R39, R122). -/
def numRegs (c : Nat) : Nat :=
  match numFmt c with
  | some (.fp .fp64) => 2
  | some (.int _ 64) => 2
  | _ => 1

/-- Registers of a direct access (R248), of a matrix access (R324). -/
def dirRegs (b : BitVec 7) : Nat := 2 ^ (b.toNat % 4)
def mxRegs (b : BitVec 7) : Nat := if fld b.toNat 5 2 = 1 then 4 else 1

/-- How many registers field `o` reads as a source, given the instruction; 0 where it is no register source. -/
def srcRegs (o : Opd) (ih : Nat) (x : BitVec 24) : Nat :=
  match o with
  | .src n _ => n
  | .cvtS => numRegs (fld x.toNat 5 5)
  | .srS => if srWide (x.toNat % 512) then 2 else 1
  | .addr => if (memCode (fB x)).sp = 0 then 2 else 1
  | .line => if bit (fB x).toNat 1 then 0 else 2
  | .cpyA => if fld ih 2 2 = 0 then 1 else 2
  | .cpyB => if fld ih 2 2 = 1 then 1 else 2
  | .dirS => dirRegs (fB x)
  | .mxS => mxRegs (fB x)
  | .rett => if (fA x).toNat = 2 then 2 else 0
  | _ => 0

/-- How many registers field `o` writes. -/
def dstRegs (o : Opd) (x : BitVec 24) : Nat :=
  match o with
  | .dst n _ => n
  | .cvtD => numRegs (x.toNat % 32)
  | .srD => if srWide (x.toNat % 512) then 2 else 1
  | .dirD => dirRegs (fB x)
  | .mxD => mxRegs (fB x)
  | .tri => 3
  | .triE => 3
  | _ => 0

/-- Is register code `c` in space `sp` and aligned for `n` registers (R14, R62)? A quad that may be of any space may lie in
s-space (log entry 44). -/
def regOk (n : Nat) (sp : Sp) (c : Nat) : Bool :=
  (match sp with | .any => true | .v => c < 64 | .s => 64 ≤ c) && c % n == 0

/-- The space a field must lie in. -/
def opdSpace (o : Opd) : Sp :=
  match o with
  | .src _ sp => sp
  | .dst _ sp => sp
  | .dirD | .dirS | .mxD | .mxS | .tri | .triE => .v
  | .rett => .s
  | _ => .any

/-- Is the value of a field allowed (R72)? -/
def fieldOk (fm : Form) (o : Opd) (ih : Nat) (x : BitVec 24) (c : Nat) : Bool :=
  match o with
  | .num m => c ≤ m
  | .tri => c ≤ 60
  | .triE => c ≤ 60 && c % 2 == 0
  | .mem =>
    let m := memCode (BitVec.ofNat 7 c)
    m.co != 3 && (m.co == 0 || ((m.sp == 0 || m.sp == 2) && fm.xk != .atom)) && (m.sp == 1 || (!m.pe && m.ci == 0))
      && (m.pe || m.ci == 0)
  | .mxB => fld c 5 2 ≤ 1
  | .line => bit (fB x).toNat 1 || regOk 2 .any c
  | .zero | .psrc | .pdst | .lvl | .dirB | .free => true
  | o =>
    let n := srcRegs o ih x + dstRegs o x
    n == 0 || regOk n (opdSpace o) c

/-- Are the bits a field does not use zero (R72)? -/
def fieldClear (o : Opd) (x : BitVec 24) (c : Nat) : Bool :=
  match o with
  | .zero => c == 0
  | .lvl | .dirB => c < 4
  | .line => !bit (fB x).toNat 1 || c == 0
  | .rett => (fA x).toNat == 2 || c == 0
  | _ => true

/-- The registers, as codes of R62, that an instruction reads. -/
def regSpan (c n : Nat) : List Nat := (List.range n).map (· + c)
def readCodes (fm : Form) (h : Hdr) (x : BitVec 24) : List Nat :=
  let r := fun (o : Opd) (c : BitVec 7) => regSpan c.toNat (srcRegs o h.ih x)
  let row := if fm.ih == .row && bit h.ih 7 then [h.ih % 128] else []
  r fm.d (fD x) ++ r fm.a (fA x) ++ (if fm.fmt == .k then [] else r fm.b (fB x)) ++
    (match h.e0 with | some e => r fm.ts e.ts | none => []) ++ row

/-- The registers an instruction writes. -/
def writeCodes (fm : Form) (h : Hdr) (x : BitVec 24) : List Nat :=
  regSpan (fD x).toNat (dstRegs fm.d x) ++ (if fm.fmt == .k then [] else regSpan (fB x).toNat (dstRegs fm.b x)) ++
    (if fm.ih == .dir then [h.ih % 128] else [])

/-- R67: every mark stands on a register source, and XR1 and XR2 name registers that are read. -/
def marksOk (fm : Form) (h : Hdr) (x : BitVec 24) : Bool :=
  match h.e2 with
  | none => true
  | some m =>
    (!m.la || srcRegs fm.a h.ih x != 0) &&
    (!m.lb || (fm.fmt != .k && srcRegs fm.b h.ih x != 0)) &&
    (!m.lt || (h.e0.isSome && srcRegs fm.ts h.ih x != 0)) &&
    (!m.xe1 || (readCodes fm h x).contains m.xr1.toNat) && (!m.xe2 || (readCodes fm h x).contains m.xr2.toNat) &&
    fm.xk != .noMarks && fm.xk != .rett && fm.xk != .trmp

/-- R63: a warp-scalar form reads only s-space and carries no guard. -/
def scalarOk (fm : Form) (h : Hdr) (x : BitVec 24) : Bool :=
  !(fm.ws && 64 ≤ (fD x).toNat) ||
    ((srcRegs fm.a h.ih x == 0 || 64 ≤ (fA x).toNat) &&
     (fm.fmt == .k || srcRegs fm.b h.ih x == 0 || 64 ≤ (fB x).toNat) &&
     fm.ts != .psrc && (h.e0.isNone || srcRegs fm.ts h.ih x == 0 || 64 ≤ h.ext.ts.toNat) &&
     h.ext.gp == 0 && !h.ext.gn)

/-- Bits of IH that the form does not use are zero (R89, R91, R93, R170, R248, R288, R312). -/
def ihClear (fm : Form) (ih : Nat) : Bool :=
  match fm.ih with
  | .lop3 | .pq | .row => ih < 256
  | .lea | .cpy => ih < 16
  | .dir => ih < 128
  | _ => true

/-- A kind-01 word stands where the form needs one, and only where it may (R64, R73). -/
def ihPresent (fm : Form) (h : Hdr) (x : BitVec 24) : Bool :=
  match fm.ih with
  | .no => h.e1.isNone
  | .lineOff => !bit (fB x).toNat 1 || h.e1.isNone
  | _ => true
def ihNeeded (fm : Form) (h : Hdr) : Bool :=
  match fm.ih with
  | .lop3 | .cpy | .dir | .trmp => h.e1.isSome
  | _ => true

/-- Is a CVT from integer to integer (R122)? -/
def cvtInts (x : BitVec 24) : Bool := bit x.toNat 4 && bit x.toNat 9

/-- The zero bits a form's own description asks for. -/
def ownClear (fm : Form) (h : Hdr) (x : BitVec 24) : Bool :=
  match fm.xk with
  | .cvt => !cvtInts x || (h.ext.rm == 0 && !h.ext.ftz)
  | .pack => !bit x.toNat 9
  | .unpk => fld x.toNat 6 4 == 0
  | .noMarks | .rett | .trmp => h.e2.isNone
  | .zeroMarks => match h.e2 with
    | some m => m == ⟨false, false, false, false, 0, false, 0⟩
    | none => true
  | _ => true

/-- The conditions a form's own description asks for. -/
def ownOk (fm : Form) (h : Hdr) (x : BitVec 24) : Bool :=
  let d := (fD x).toNat
  let a := (fA x).toNat
  let b := (fB x).toNat
  let guard := h.ext.gp != 0 || h.ext.gn
  match fm.xk with
  | .cvt => (numFmt (x.toNat % 32)).isSome && (numFmt (fld x.toNat 5 5)).isSome
  | .pack => 4 ≤ x.toNat % 32 && x.toNat % 32 ≤ 8 && (x.toNat % 32 == 8 || fld x.toNat 6 3 == 0)
  | .unpk => 4 ≤ x.toNat % 32 && x.toNat % 32 ≤ 8
  | .ld => d < 64 || (64 ≤ a && !guard && (memCode (fB x)).sp != 2)
  | .pref => !bit b 1
  | .line => !(bit b 1 && bit b 0)
  | .lnch => d < 64 || (64 ≤ a && 64 ≤ b)
  | .rdsr => srListed (x.toNat % 512) && (d < 64 || (srUniform (x.toNat % 512) && !srWide (x.toNat % 512)))
  | .wrsr => srWritable (x.toNat % 512) && (x.toNat % 512 == 0x19 || (64 ≤ a && !guard))
  | .cpy => h.ih % 4 != 3 && fld h.ih 2 2 != 3 && d != 63
  | .ldDir => h.ih % 128 < 64 && !(regSpan d (dirRegs (fB x))).contains (h.ih % 128)
  | .stDir => h.ih % 128 < 64
  | .mxown => 1 ≤ b
  | .mxq => h.e0.isSome
  | .patch => d / 32 ≤ 2
  | _ => true

/-- Fields of a kind-00 word that the form does not take are zero (R65). -/
def extClear (fm : Form) (h : Hdr) : Bool :=
  let e := h.ext
  (fm.rm || e.rm == 0) && (fm.sat || !e.sat) && (fm.ftz || !e.ftz) && (fm.sc || e.scope == 0) &&
    (fm.ts != .zero || e.ts == 0)

/-- All the checks on one instruction; `none` when it passes. -/
def checkForm (fm : Form) (h : Hdr) (x : BitVec 24) : Option Why :=
  let ih := h.ih
  if !(extClear fm h && ihPresent fm h x && ihClear fm ih && ownClear fm h x &&
      (fm.fmt == .j || (fieldClear fm.d x (fD x).toNat && fieldClear fm.a x (fA x).toNat &&
        (fm.fmt == .k || fieldClear fm.b x (fB x).toNat)))) then some .first
  else if !(h.ext.scope.toNat < 6 && (!fm.pt || (h.ext.gp == 0 && !h.ext.gn)) && ihNeeded fm h &&
      (fm.fmt == .j || (fieldOk fm fm.d ih x (fD x).toNat && fieldOk fm fm.a ih x (fA x).toNat &&
        (fm.fmt == .k || fieldOk fm fm.b ih x (fB x).toNat))) &&
      (h.e0.isNone || fieldOk fm fm.ts ih x h.ext.ts.toNat) &&
      scalarOk fm h x && ownOk fm h x && marksOk fm h x && !(fm.noC != 0 && h.c) && !(fm.ct && h.c)) then some .word
  else none

/-- Is the instruction's encoding one that issues? A step of another agent has no encoding. -/
def instrOk (i : Instr) : Bool :=
  match Raw.of i with
  | none => false
  | some r =>
    match rowOf r.major r.f with
    | none => false
    | some w => checkForm w.form r.h r.x == none

end Sys2Proof.Machine
end

