-- ==== Sys2Proof/WellFormed.lean ====
section
/-! DEFINITION. Well-formed instructions: those whose encoding issues (R18 step 2). -/

namespace Sys2Proof

/-- The checks of R14, R63 to R67 and R72 on one instruction. -/
def wellFormed (i : Instr) : Bool := Machine.instrOk i

end Sys2Proof
end

