-- ==== Sys2Proof/Decode.lean ====
section
/-! DEFINITION. From words to instructions and back (03 R60 to R74): one instruction with its extension words, a
chain of a packet, and the words of an instruction. -/

namespace Sys2Proof

open Machine

/-- An encoding failure (R70): the packet slot of the word it is found at, and that word. -/
structure Reject where
  slot : Nat
  word : Word
  deriving DecidableEq, Repr

/-- One decoded instruction of a packet: the slot of its first word and of its issuing word, the issuing word, its
form and the instruction. -/
structure Piece where
  first : Nat
  slot : Nat
  word : Word
  form : Form
  instr : Instr
  deriving DecidableEq, Repr

/-- What issues together (R19): one instruction or a chain, and the slot after it. -/
structure Group where
  pieces : List Piece
  next : Nat
  deriving DecidableEq, Repr

/-- Bits [29:24] of a word (R60). -/
def opOf (w : Word) : Nat := (w.extractLsb' 24 6).toNat
/-- Bits [31], [30] (R60). -/
def cOf (w : Word) : Bool := w.getLsbD 31
def wOf (w : Word) : Bool := w.getLsbD 30

/-- A kind-00 word (R65). -/
def e0Of (w : Word) : E0 :=
  { gp := w.extractLsb' 15 7, gn := w.getLsbD 14, rm := w.extractLsb' 12 2, sat := w.getLsbD 11,
    ftz := w.getLsbD 10, ts := w.extractLsb' 3 7, scope := w.extractLsb' 0 3 }

/-- A kind-10 word (R67). -/
def e2Of (w : Word) : E2 :=
  { la := w.getLsbD 21, lb := w.getLsbD 20, lt := w.getLsbD 19, xe1 := w.getLsbD 18, xr1 := w.extractLsb' 11 7,
    xe2 := w.getLsbD 10, xr2 := w.extractLsb' 3 7 }

/-- What the extension words before an issuing word have given so far: the first of them, the kind of the last,
whether reserved bits are clear, and their contents. -/
structure Exts where
  first : Option (Nat × Word)
  last : Nat
  clear : Bool
  h : Hdr
  deriving DecidableEq, Repr

/-- No extension words. -/
def Exts.none : Exts := ⟨.none, 0, true, Hdr.plain⟩

/-- One extension word taken up (R65, R67, R70): `none` for a kind out of order, twice, or 11. -/
def Exts.add (e : Exts) (slot : Nat) (w : Word) : Option Exts :=
  let k := (w.extractLsb' 22 2).toNat
  let first := match e.first with | .none => some (slot, w) | some p => some p
  if k + 1 ≤ e.last || k = 3 then .none
  else if k = 0 then some ⟨first, 1, e.clear, { e.h with e0 := some (e0Of w) }⟩
  else if k = 1 then some ⟨first, 2, e.clear, { e.h with e1 := some (w.extractLsb' 0 22) }⟩
  else some ⟨first, 3, e.clear && w.extractLsb' 0 3 == 0, { e.h with e2 := some (e2Of w) }⟩

/-- The minor opcode by which a word's form is found (R71, R73): F in formats T and P, bit [9] for major 0x2B, whether
a kind-01 word stands for major 0x3D, 0 otherwise. -/
def minorOf (major : Nat) (w : Word) (e : Exts) : Nat :=
  if major = 0x2B then b2n (w.getLsbD 9)
  else if major = 0x3D then b2n e.h.e1.isSome
  else if (6 ≤ major && major ≤ 0xE) || (0x14 ≤ major && major ≤ 0x16) || major = 0x20 || major = 0x21 then 0
  else (w.extractLsb' 0 3).toNat

/-- How many following words a PATCH covers (R74). -/
def covered (i : Instr) : Nat :=
  match i with
  | .patch _ n _ => n.toNat
  | _ => 0

/-- One instruction from the words of a packet from slot `slot` on: where two failures of R70 meet, an E word's is named first
(log entry 46); `chained` when a chain reaches it and `start` is
then the first word of the chain. Answers the piece and the slot after it. -/
def decodeOne (chained : Bool) (start : Option (Nat × Word)) (slot : Nat) (e : Exts) :
    List Word → Except Reject (Piece × Nat)
  | [] => .error ((start.map fun p => ⟨p.1, p.2⟩).getD ⟨slot, 0⟩)
  | w :: ws =>
    if opOf w = 0x3F then
      if ws.isEmpty || cOf w || wOf w then .error ⟨slot, w⟩
      else
        match e.add slot w with
        | .none =>
          let p := e.first.getD (slot, w)
          .error ⟨p.1, p.2⟩
        | some e' => decodeOne chained start (slot + 1) e' ws
    else
      let p := e.first.getD (slot, w)
      match rowOf (opOf w) (minorOf (opOf w) w e) with
      | .none => .error ⟨slot, w⟩
      | some row =>
        let h := { e.h with c := cOf w, w := wOf w }
        let x := w.extractLsb' 0 24
        let i := row.build h x
        let at0 := start.getD p
        if !e.clear then .error ⟨p.1, p.2⟩
        else if row.form.ct && cOf w then .error ⟨at0.1, at0.2⟩
        else
          match checkForm row.form h x with
          | some .first => .error ⟨p.1, p.2⟩
          | some .word => .error ⟨slot, w⟩
          | .none =>
            if (chained && row.form.noC == 2) || 3 < slot + 1 + covered i then .error ⟨slot, w⟩
            else .ok (⟨p.1, slot, w, row.form, i⟩, slot + 1 + covered i)

/-- R69: is there an assignment of pipes that gives every word of a chain its own? -/
def pipesOk (ps : List Pipe) : Bool :=
  let n := fun p => (ps.filter (· == p)).length
  n .a ≤ 1 && n .x ≤ 1 && n .m ≤ 1 && n .a + n .x + n .ax ≤ 2

/-- The C bit of an instruction. -/
def chains (i : Instr) : Bool :=
  match Raw.of i with
  | some r => r.h.c
  | none => false

/-- The instruction or chain that begins at slot `slot`; `fuel` is the number of words left. -/
def decodeChain : Nat → List Piece → Nat → List Word → Except Reject Group
  | 0, ps, slot, _ =>
    match ps with
    | [] => .error ⟨slot, 0⟩
    | p :: _ => .error ⟨p.first, p.word⟩
  | fuel + 1, ps, slot, ws =>
    let start := ps.head?.map fun p => (p.first, p.word)
    match decodeOne (!ps.isEmpty) start slot Exts.none ws with
    | .error r => .error r
    | .ok (p, nx) =>
      let ps' := ps ++ [p]
      if chains p.instr then decodeChain fuel ps' nx (ws.drop (nx - slot))
      else if pipesOk (ps'.map fun q => q.form.pipe) then .ok ⟨ps', nx⟩
      else .error ((ps'.head?.map fun q => ⟨q.first, q.word⟩).getD ⟨slot, 0⟩)

/-- The first word of a chain's first instruction stands in the packet, not in the piece: an encoding failure that
R70 lays at the first word of a chain shows that word. -/
def fixReject (words : List Word) (r : Reject) : Reject := ⟨r.slot, words.getD r.slot r.word⟩

/-- What issues from slot `slot` of a packet of three words (R16, R18, R69, R70). -/
def decode (words : List Word) (slot : Nat) : Except Reject Group :=
  match decodeChain 3 [] slot (words.drop slot) with
  | .ok g => .ok g
  | .error r => .error (fixReject words r)

/-- The words of bytes, in rising address order (R3). -/
def wordsOf (bs : List Byte) : List Word :=
  [BitVec.ofNat 32 (leNat (bs.take 4)), BitVec.ofNat 32 (leNat ((bs.drop 4).take 4)),
    BitVec.ofNat 32 (leNat ((bs.drop 8).take 4))]

/-- The instruction that the packet's bytes hold from slot 0 on, its first when they hold a chain. -/
def decodeTableWord (_nbits w : Nat) : Option Instr :=
  match decode (wordsOf (leBytes 12 w)) 0 with
  | .ok g => g.pieces.head?.map Piece.instr
  | .error _ => none

/-! The encoder, from the layouts of R60, R61, R65 and R67. -/

/-- A bit. -/
def bit1 (b : Bool) : BitVec 1 := BitVec.ofBool b

def e0Word (e : E0) : Word :=
  (0x3F : BitVec 8) ++ (0 : BitVec 2) ++ e.gp ++ bit1 e.gn ++ e.rm ++ bit1 e.sat ++ bit1 e.ftz ++ e.ts ++ e.scope
def e1Word (v : BitVec 22) : Word := (0x3F : BitVec 8) ++ (1 : BitVec 2) ++ v
def e2Word (e : E2) : Word :=
  (0x3F : BitVec 8) ++ (2 : BitVec 2) ++ bit1 e.la ++ bit1 e.lb ++ bit1 e.lt ++ bit1 e.xe1 ++ e.xr1 ++ bit1 e.xe2
    ++ e.xr2 ++ (0 : BitVec 3)

/-- The issuing word. -/
def issueWord (c w : Bool) (major : Nat) (x : BitVec 24) : Word := bit1 c ++ bit1 w ++ BitVec.ofNat 6 major ++ x

/-- The words of an instruction, first at the lowest address; none for a step of another agent. -/
def encode (i : Instr) : List Word :=
  match Raw.of i with
  | none => []
  | some r =>
    (match r.h.e0 with | some e => [e0Word e] | none => []) ++ (match r.h.e1 with | some v => [e1Word v] | none => []) ++
      (match r.h.e2 with | some e => [e2Word e] | none => []) ++ [issueWord r.h.c r.h.w r.major r.x]

end Sys2Proof
end

