-- ==== Sys2Proof/Machine/Types.lean ====
section
/-! DEFINITION. The parts of the state: registers and slots of a warp, its outstanding accesses, caches and
translation, and the records the agents of the part hold. Plain data. -/

namespace Sys2Proof.Machine

/-- The four forms of a v-register (R153). -/
inductive VReg where
  | unalloc
  | uniform (u : Word)
  | affine (b s : Word)
  | general (l : List Word)
  deriving DecidableEq, Repr

/-- A rejoin register (R150): enrolled mask, arrived mask, release PC. -/
structure Rejoin where
  en : Mask
  ar : Mask
  rp : DWord
  deriving DecidableEq, Repr

/-- A trap found but not yet taken, with what its record will hold (R382, R393, R394). -/
structure TrapReq where
  cls : Nat
  mask : Mask
  fpc : DWord
  npc : DWord
  rpc : DWord
  bpc : DWord
  word : Nat
  va : Nat
  info : Nat
  replay : Bool
  /-- The grant number before which every access of the slot must have passed translation (R384). -/
  seq : Nat
  deriving DecidableEq, Repr

/-- A region boundary that has not taken effect yet (R387): the grant number before which every access must have
passed translation, and the new region of each slot that gets one. -/
structure Boundary where
  seq : Nat
  r0 : Option (DWord × Mask)
  r1 : Option (DWord × Mask)
  deriving DecidableEq, Repr

/-- The instruction that retired last in a warp: what a trap attributed to it needs (R149, R152). -/
structure LastIns where
  slot : Nat
  fpc : DWord
  npc : DWord
  wslot : Nat
  word : Word
  parked : Mask
  deriving DecidableEq, Repr

/-- What a slot waits for (R185, R325, R328, R322, R327, R340, R371, R375): its instruction has been granted and is
not complete. -/
inductive Wait where
  | barrier (scope id : Nat)
  | mxacq (n : Nat)
  | mxrel (n id : Nat)
  | mxown (engine : Bool) (core : Nat) (tiles : List Nat) (id : Nat)
  | mxwait (n d id : Nat)
  | mxrw (id : Nat)
  | engine (id : Nat)
  | quiet (q d id : Nat)
  deriving DecidableEq, Repr

/-- A PC slot (R146) with its region (R385). -/
structure Slot where
  pc : DWord
  mask : Mask
  epc : DWord
  emask : Mask
  trap : Option TrapReq
  wait : Option Wait
  /-- The warp's grant count when the slot was last granted (R161). -/
  last : Nat
  /-- Address of the instruction that the slot was granted last: what a stop unwinds to (R411), and the region of a
  command that the slot holds (R348). -/
  prev : DWord
  deriving DecidableEq, Repr

/-- A write that a reply makes: a v-register's new values by thread, an s-register's value, a predicate's new values
for the threads of `cover`. -/
inductive RegWrite where
  | v (code : Nat) (vals : List (Nat × Word))
  | s (code : Nat) (val : Word)
  | p (code : Nat) (cover vals : Mask)
  deriving DecidableEq, Repr

/-- A physical place (R228): TGT of the leaf and the 52-bit physical address. -/
structure Phys where
  tgt : Nat
  pa : Nat
  deriving DecidableEq, Repr

/-- A span of consecutive bytes that one thread accesses: its virtual address (or scratchpad offset), its place in the
thread's value, the physical place once translated, the bytes it stores, and each byte once fixed. -/
structure Span where
  t : Nat
  va : Nat
  at_ : Nat
  len : Nat
  phys : Option Phys
  data : List Byte
  got : List (Option Byte)
  /-- The store-queue entry of the same thread that must perform first (R269). -/
  dep : Option Nat
  deriving DecidableEq, Repr

/-- Where an access goes: global (private and code included, by virtual address), or a core's scratchpad. -/
inductive Space where
  | glob
  | code
  | scr (core : Nat)
  deriving DecidableEq, Repr

/-- The outcome of a walk (R229). -/
inductive WalkRes where
  | ok (p : Phys) (w x : Bool) (base size : Nat)
  | fault (cause : Nat)
  | perm
  deriving DecidableEq, Repr

/-- A walk-class fault of an access (R388): a permission fault, or a translation fault with its CAUSE. -/
structure WFault where
  perm : Bool
  cause : Nat
  va : Nat
  mask : Mask
  deriving DecidableEq, Repr

/-- A Quarry task that a push or a thread holds (R356, R364): the live quarry's own number `q`, the thread that holds it, its payload and key, the home shard and
slot of its segment it keeps. -/
structure Task where
  q : Nat
  thread : Nat
  pay : Nat
  key : Nat
  home : Nat
  slot : Nat
  deriving DecidableEq, Repr

/-- A command to a worklist shard (R364, R373 to R375), of the context's quarry number `q`. A pop has its takers still unserved, what it has
gathered, and, once its own shard has been served, QUIET as it stood then and the place it has reached in the victim
order. -/
inductive ShardCmd where
  | pop (q d sb : Nat) (pq : Option Nat) (takers : List Nat) (got : List Task) (at_ : Option (Bool × Nat))
  | done (q : Nat)
  | giveBack (q id : Nat)
  | quiet (q d : Nat)
  deriving DecidableEq, Repr

/-- What an outstanding access is for. -/
inductive AKind where
  /-- A load of `size` bytes, sign-extended or not, warp-scalar or not (R97, R98). -/
  | load (size : Nat) (sx scalar : Bool) (d : Nat)
  /-- PREF (R263). -/
  | pref (l2 : Bool)
  /-- CINV or CWB of `.L2` lines, `inv` for CINV (R261). -/
  | line (inv l2 all : Bool)
  /-- LNCH (R188): per participant the record's address, the queue. -/
  | lnch (d : Nat) (scalar : Bool) (qs : List (Nat × Nat × Nat))
  /-- PROBE (R265). -/
  | probe (d lo n : Nat)
  /-- LD.DIR of `size` bytes (R252). -/
  | direct (size d st : Nat)
  /-- QYINIT's descriptor (R371). -/
  | qyinit (d n adr : Nat)
  /-- A command to the shard: QYPOP, QYDONE, QYYIELD, QYQUIET (R364, R374, R375). -/
  | shard (c : ShardCmd)
  /-- A result that is ready: the writes it makes. -/
  | result (wr : List RegWrite)
  /-- A command that an engine holds (R322, R327, R340, R291, R182); with `st` its addresses are walked as stores. -/
  | engine (st : Bool)
  deriving DecidableEq, Repr

/-- An access or command whose result is outstanding (R22). -/
structure Access where
  id : Nat
  slot : Nat
  /-- The warp's grant count at grant. -/
  seq : Nat
  kind : AKind
  space : Space
  co : Nat
  /-- Granted at handler privilege (R391). -/
  priv : Bool
  /-- Codes of R62 and predicates that it will write. -/
  dst : List Nat
  pdst : List Nat
  parts : Mask
  spans : List Span
  /-- Its addresses have been translated, or need no translation (R384). -/
  walked : Bool
  fault : Option WFault
  /-- Its address of the instruction, for the trap record (R393). -/
  fpc : DWord
  npc : DWord
  wslot : Nat
  /-- Its line requests have entered the window (R218). -/
  sent : Bool
  /-- Codes of registers, and 128 above them predicates, that a later word of its chain has written, with the threads
  written: those writes stand (R19). -/
  late : List (Nat × Mask) := []
  deriving DecidableEq, Repr

/-- An atomic operation (R100). -/
inductive AtomOp where
  | add | minS | minN | maxS | maxN | and | or | xor | exch | cas | fadd
  deriving DecidableEq, Repr

/-- What a store-queue entry does (R270). -/
inductive SKind where
  | store
  | atom (op : AtomOp) (size : Nat) (scope : Nat) (d : Option Nat)
  | direct (size st : Nat)
  /-- QYPUSH (R372): the quarry and, in ascending thread, the tasks. -/
  | push (q : Nat) (tasks : List Task)
  deriving DecidableEq, Repr

/-- A store-queue entry (R270): held by a region until released (R281, R387). -/
structure SqEntry where
  id : Nat
  slot : Nat
  seq : Nat
  held : Bool
  kind : SKind
  space : Space
  co : Nat
  priv : Bool
  parts : Mask
  spans : List Span
  walked : Bool
  fault : Option WFault
  fpc : DWord
  npc : DWord
  wslot : Nat
  /-- Spans already performed, and whether a request for the next is under way. -/
  next : Nat
  busy : Bool
  /-- As for an access (R19). -/
  late : List (Nat × Mask) := []
  deriving DecidableEq, Repr

/-- A direct packet of a warp: waiting for a tag, or sent with one (R251). -/
structure DirPkt where
  id : Nat
  acc : Nat
  t : Nat
  write : Bool
  phys : Phys
  size : Nat
  data : List Byte
  d : Nat
  st : Nat
  tag : Option Nat
  reply : Option (List Byte × Nat)
  deriving DecidableEq, Repr

/-- A fence, CINV, CWB or FENCE.XP in progress (R256, R261, R303). -/
structure FenceRec where
  id : Nat
  slot : Nat
  seq : Nat
  /-- 0 FENCE, 1 CINV, 2 CWB, 3 FENCE.XP, 4 LNCH's wait (R188). -/
  what : Nat
  order : Nat
  scope : Nat
  fpc : DWord
  acqDone : Bool
  relDone : Bool
  /-- Its write-backs have been listed: those still to be sent, by core, context and line, then those that await
  acknowledgement, by core and tag. -/
  started : Bool
  todo : List (Nat × Nat × Nat)
  wbs : List (Nat × Nat)
  /-- Lines of CINV and CWB, in order (R261), and the access that translates them for `.L2`. -/
  lines : List Nat
  acc : Option Nat
  l2 : Bool
  all : Bool
  /-- The PCIe zero-length read of a release at `.SYS` (R434): 0 not sent, 1 outstanding, 2 complete. -/
  zlr : Nat
  deriving DecidableEq, Repr

/-- A waiting XSW (R182). -/
structure XswRec where
  id : Nat
  slot : Nat
  partner : Nat
  d : Nat
  pq : Option Nat
  parts : Mask
  vals : List Word
  deriving DecidableEq, Repr

/-- Why a warp is parked (R158, R159, R165, R251, R388). -/
structure Parked where
  marker : Bool
  /-- Parked on allocation: the physical registers it needs in all (R158); 0 when not. -/
  alloc : Nat
  restore : Bool
  /-- Sequence numbers of fault records it awaits an answer to. -/
  faults : List Nat
  /-- A direct packet has found no tag, and not every packet of its instruction has one yet (R251). -/
  tag : Bool := false
  deriving DecidableEq, Repr

/-- Handler privilege (R390): the trapping slot and the handler threads. -/
structure Handler where
  slot : Nat
  threads : Mask
  /-- Depth of the divergence stack when the trap was taken: deeper entries are the handler's own. -/
  base : Nat
  deriving DecidableEq, Repr

/-- A warp (R11, R146 to R160, R192). -/
structure Warp where
  uid : Nat
  gang : Nat
  ctx : Nat
  /-- Core index 4 × (32 × die + cluster) + core, lane and warp slot (R192). -/
  core : Nat
  lane : Nat
  wslot : Nat
  wn : Nat
  wgid : Nat
  v : List VReg
  s : List Word
  /-- p1 to p127. -/
  p : List Mask
  fsr : List Word
  slots : List Slot
  rj : List Rejoin
  depth : Nat
  /-- Groups still to be pushed, deepest first, and the instruction they come from (R147, R149). -/
  pend : List (DWord × Mask)
  lastIns : LastIns
  bnds : List Boundary
  exited : Mask
  handler : Option Handler
  trapRegs : List DWord
  cb : DWord
  pvbase : DWord
  psize : Nat
  wtcmp : DWord
  tvec : Word
  tmask : Word
  stop : Bool
  /-- Cycle of placement or restore, none once a stop has begun, and the count before it (R416). -/
  since : Option Nat
  wtime0 : Nat
  barW : List Mask
  barG : List Mask
  barX : List Mask
  sq : List SqEntry
  accs : List Access
  dir : List DirPkt
  fences : List FenceRec
  xsw : Option XswRec
  park : Parked
  grants : Nat
  /-- All grants ever made: the order of R256, R387. -/
  seq : Nat
  lastSlot : Nat
  floor : Nat
  spilled : List Nat
  /-- In-flight Quarry tasks (R367). -/
  tasks : List Task
  deriving DecidableEq, Repr

/-- A TLB entry (R230, R232): context, page base and size, leaf, pins. -/
structure TlbEnt where
  ctx : Nat
  base : Nat
  size : Nat
  phys : Phys
  w : Bool
  x : Bool
  pins : Nat
  deriving DecidableEq, Repr

/-- A walk-cache entry: a pointer entry, by its own physical address (R230). -/
structure WalkEnt where
  adr : Nat
  val : Nat
  deriving DecidableEq, Repr

/-- An L1 line (R220): context, line-aligned virtual address, the leaf that a write-back would use is found anew;
valid and dirty sector masks and 128 bytes; held under R223. -/
structure L1Line where
  ctx : Nat
  va : Nat
  valid : Nat
  dirty : Nat
  held : Bool
  data : List Byte
  deriving DecidableEq, Repr

/-- An L2 line (R233): physical line index, sector masks, bytes. `sysline` is the TGT of its page. -/
structure L2Line where
  tgt : Nat
  line : Nat
  valid : Nat
  dirty : Nat
  data : List Byte
  deriving DecidableEq, Repr

/-- What a request asks of a home slice. -/
inductive HKind where
  /-- Read sectors for a fill or a `.CG` load. -/
  | read
  /-- Write bytes: a `.CG` store or an L1 write-back. -/
  | write (wb : Bool)
  /-- An atomic of one thread: its bytes' places, in runs, and its operand. -/
  | atom (op : AtomOp) (size : Nat) (places : List (Phys × Nat)) (opnd : List Byte)
  /-- CINV.L2, CWB.L2 (R261). -/
  | clean (drop : Bool)
  /-- Its context has ended before it was served: nothing (R401). -/
  | void
  deriving DecidableEq, Repr

/-- A request to a home slice (R272): requester core and tag, physical place of the line, sectors, and bytes to write as
offsets in the line. -/
structure HReq where
  core : Nat
  tag : Nat
  ctx : Nat
  va : Nat
  tgt : Nat
  line : Nat
  kind : HKind
  sectors : Nat
  bytes : List (Nat × Byte)
  nt : Bool
  /-- Numbers of the base-die reads, or of the host request, that it waits for. -/
  pending : List Nat
  /-- A clean request has written its sectors (R261). -/
  phase : Nat
  /-- The codewords of the line that were read for it with a corrected error (R240). -/
  ce : Nat := 0
  deriving DecidableEq, Repr

/-- A reply to a core. -/
structure HReply where
  tag : Nat
  line : Nat
  ok : Bool
  sectors : Nat
  data : List Byte
  ce : Nat := 0
  deriving DecidableEq, Repr

/-- What a miss tag is for (R224). -/
inductive TagUse where
  /-- Fill the sectors of the L1 line at `va` for access or entry `id` of warp `w`; with `keep` false the line has been
  invalidated or written since and the sectors are not kept. -/
  | fill (w id ctx va sectors : Nat) (keep : Bool)
  /-- Bytes for load `acc` of warp `w`, without allocation. -/
  | through (w acc va : Nat)
  /-- A write of store entry `ent` of warp `w`. -/
  | stored (w ent ctx va : Nat)
  /-- An atomic of store entry `ent`. -/
  | atom (w ent : Nat)
  /-- A write-back. -/
  | wback
  /-- A CINV or CWB at the slice, for fence `f` of warp `w`. -/
  | clean (w f : Nat)
  /-- The home slice's part of PREF `acc` of warp `w` (R263). -/
  | pref (w acc : Nat)
  /-- The line at `va` for the code cache, and for code-space load `who`, a warp's access; with `keep` false the code
  cache has been invalidated since (R215, R244). -/
  | code (who : Option (Nat × Nat)) (va : Nat) (keep : Bool)
  /-- What it was for has gone: its reply does nothing. -/
  | dead
  /-- Line operation `idx` of copy entry `ent` of core `core`, a write or a read (R292). -/
  | copy (core ent idx : Nat) (write : Bool)
  deriving DecidableEq, Repr

/-- A taken miss tag: its number and its use. -/
structure MissTag where
  tag : Nat
  use : TagUse
  deriving DecidableEq, Repr

/-- A line request of the coalescing window (R218). -/
structure LineReq where
  w : Nat
  acc : Nat
  va : Nat
  tgt : Nat
  line : Nat
  sectors : Nat
  deriving DecidableEq, Repr

/-- A base-die request (R237): who asks, codeword address range, bytes to write with their mask. -/
inductive DieAsker where
  | slice (n : Nat)
  | direct (w pkt : Nat)
  deriving DecidableEq, Repr
structure DieReq where
  by_ : DieAsker
  /-- Physical address of the first codeword, and how many. -/
  pa : Nat
  n : Nat
  write : Bool
  bmask : Nat
  data : List Byte
  passed : Nat
  /-- RTAG and RID (R237, R250). -/
  rtag : Nat
  rid : Nat := 0
  deriving DecidableEq, Repr
structure DieReply where
  rtag : Nat
  rid : Nat := 0
  pa : Nat
  n : Nat
  write : Bool
  data : List Byte
  status : Nat
  deriving DecidableEq, Repr

/-- A message between dies (R423): what arrives at the far end. -/
inductive Msg where
  | home (slice : Nat) (r : HReq)
  | core (core : Nat) (r : HReply)
  | stack (stack : Nat) (r : DieReq)
  | slice (slice : Nat) (r : DieReply)
  | direct (w pkt : Nat) (r : DieReply)
  deriving DecidableEq, Repr

/-- A packet on the mesh (R424 to R427): source, destination, channel, order key, where it stands, and the dies it has
gone through. -/
structure Flit where
  src : Nat
  dst : Nat
  at_ : Nat
  chan : Nat
  key : Nat
  path : List Nat
  msg : Msg
  deriving DecidableEq, Repr

/-- A base die's queue and open rows (R239). -/
structure Stack where
  queue : List DieReq
  rows : List (Nat × Nat)
  seq : Nat
  hce : Nat
  hue : Nat
  hceth : Nat
  /-- Cycle at which a request came to the empty queue, until a service step follows (R287). -/
  came : Option Nat := none
  deriving DecidableEq, Repr

/-- An L2 slice: lines, most recently used first; requests; base-die replies not yet taken. -/
structure Slice where
  lines : List L2Line
  queue : List HReq
  replies : List DieReply
  /-- The next RTAG (R237). -/
  rtag : Nat := 0
  deriving DecidableEq, Repr

/-- A line operation of a copy (R292): a global line by its virtual address, or a 128-byte block of scratchpad; for each
participant its thread, offset in the line and bytes; 0 to do, 1 under way, 2 performed. -/
structure CopyOp where
  glob : Bool
  base : Nat
  parts : List (Nat × Nat × Nat)
  state : Nat
  deriving DecidableEq, Repr

/-- An entry of a copy queue (R291 to R300). -/
structure CopyEnt where
  num : Nat
  w : Nat
  ctx : Nat
  gang : Nat
  wg : Nat
  seq : Nat
  acc : Nat
  fpc : DWord
  priv : Bool
  sz : Nat
  dir : Nat
  d : Nat
  reads : List CopyOp
  writes : List CopyOp
  data : List (Nat × List Byte)
  ce : Mask
  /-- A translation fault found: cause, address, write. -/
  fault : Option (Nat × Nat × Bool)
  parked : Option Nat
  deriving DecidableEq, Repr

/-- The L1 state of a core: lines most recently used first, TLB, tags, windows, replies, code lines. -/
structure Core where
  scratch : List (Nat × Byte)
  /-- Tiles whose owner bit reads ENGINE (R217); tiles given to workgroups. -/
  engine : List Nat
  given : List Nat
  l1 : List L1Line
  tlb : List TlbEnt
  tags : List MissTag
  nextTag : Nat
  windows : List (Nat × List LineReq)
  inbox : List HReply
  code : List (Nat × List Byte)
  lineCtx : Option Nat
  lastLaunch : Option Nat
  /-- Age order of each lane's warps, oldest first (R161). -/
  lanes : List (Nat × List Nat)
  /-- By lane, the cycle of its last grant and the slots it granted in that cycle, by warp (R161). -/
  granted : List (Nat × Nat × List (Nat × Nat)) := []
  /-- The copy queue, in grant order (R299). -/
  copy : List CopyEnt
  deriving DecidableEq, Repr

end Sys2Proof.Machine
end

