-- ==== Sys2Proof/Machine/EngineTypes.lean ====
section
/-! DEFINITION. The parts of the state that the engines hold: matrix engine (15), coordinate engine (16), worklist
shards and quarries (17). Plain data. -/

namespace Sys2Proof.Machine

/-! Matrix engine. -/

/-- An operand's place (R308): a core, the tiles of an allocation there, and an offset in it. -/
structure MxLoc where
  core : Nat
  tiles : List Nat
  off : Nat
  deriving DecidableEq, Repr

/-- A reservation-table entry (R314 to R317): its number, the accumulator tile or tile pair, the owned rows, operands,
the eight words of its format block, the scratchpad tiles it names by core, the group from which it goes on, and the
passes it has missed. MXZERO is an entry too. -/
structure MxEntry where
  num : Nat
  ctx : Nat
  gang : Nat
  prio : Nat
  tiles : List Nat
  zero : Bool
  rows : List Nat
  a : MxLoc
  b : MxLoc
  blk : List Nat
  used : List (Nat × Nat)
  next : Nat
  missed : Nat
  deriving DecidableEq, Repr

/-- An MXRD or MXWR whose accesses have not been made (R325 to R327): element columns by thread, and the data of an
MXWR. -/
structure MxRw where
  num : Nat
  w : Nat
  slot : Nat
  tile : Nat
  write : Bool
  d : Nat
  items : List (Nat × Nat × Nat)
  n : Nat
  data : List (Nat × List Word)
  /-- Registers that its last-read marks freed, for an unwinding (R411). -/
  freed : List (Nat × VReg)
  deriving DecidableEq, Repr

/-- A physical accumulator tile in use (R306, R320): HELD, the flags IV, OF, UF and IX, FDF with side and step, and the
elements that are not 0, by 64 × row + column. -/
structure MxTile where
  ctx : Nat
  held : Bool
  flags : Nat
  fdf : Option (Bool × Nat)
  elems : List (Nat × Word)
  deriving DecidableEq, Repr

/-- The matrix engine of a cluster: table, the running pass, accesses, tiles, the token held and the steps of its
burst (R316 to R318). -/
structure Matrix where
  entries : List MxEntry
  run : Option (List Nat)
  rws : List MxRw
  tiles : List (Nat × MxTile)
  tok : Option Nat
  burst : Nat
  /-- Contexts whose entries a stop holds (R330). -/
  halted : List Nat
  deriving DecidableEq, Repr

def Matrix.empty : Matrix := { entries := [], run := none, rws := [], tiles := [], tok := none, burst := 0, halted := [] }

/-- A context ends: its entries are discarded and its tiles returned (R330). -/
def Matrix.dropCtx (m : Matrix) (ctx : Nat) (uids : List Nat) : Matrix :=
  let gone := (m.entries.filter fun e => e.ctx == ctx).map (·.num)
  { m with
    entries := m.entries.filter fun e => e.ctx != ctx
    run := match m.run with
      | none => none
      | some ns =>
        match ns.filter fun n => !gone.contains n with
        | [] => none
        | ns => some ns
    rws := m.rws.filter fun r => !uids.contains r.w
    tiles := m.tiles.filter fun t => t.2.ctx != ctx
    halted := m.halted.filter (· != ctx) }

/-! Coordinate engine. -/

/-- A stream of a cursor (R332, R336). -/
structure Stream where
  enc : Nat
  sp : Bool
  df : Nat
  base : Nat
  cnt : Nat
  aux : Nat
  next : Nat
  loc : Nat
  v : Bool
  mr : Bool
  deriving DecidableEq, Repr

/-- A cursor record (R336). -/
structure CurRec where
  mode : Nat
  a : Stream
  b : Stream
  lv : Bool
  last : Nat
  hiv : Bool
  hi : Nat
  deriving DecidableEq, Repr

/-- A bound cursor (R335, R343, R347, R350): the gang and name it is bound to, its fault, what its probe pass pinned,
and its scratchpad tiles by core. -/
structure Cursor where
  ctx : Nat
  gang : Nat
  name : Nat
  cr : CurRec
  oflt : Option (Bool × Nat)
  pins : List Nat
  prb : Bool
  plim : Bool
  exh : Bool
  tiles : List (Nat × Nat)
  /-- Where A and B lie when they are scratchpad streams, as the binding warp's descriptors said (R308). -/
  la : Option MxLoc
  lb : Option MxLoc
  /-- A restored cursor whose probe pass has to run again (R352), or the fault record that it awaits the answer to. -/
  again : Bool
  parked : Option Nat
  deriving DecidableEq, Repr

/-- The Quadrille commands (R339). -/
inductive QdKind where
  | openCur (probe : Bool)
  | load
  | next (d sb : Nat) (pq : Option Nat)
  | split (crd : Bool)
  | save
  | close
  | probe (d : Nat)
  deriving DecidableEq, Repr

/-- A command that has reached the engine (R340): its access in the warp, and a stream line's translation fault (R348)
or the fault record it awaits the answer to. -/
structure QdCmd where
  id : Nat
  w : Nat
  slot : Nat
  core : Nat
  ctx : Nat
  gang : Nat
  name : Nat
  kind : QdKind
  /-- The issuing word (R394). -/
  word : Nat
  fault : Option (Nat × Nat × Nat)
  parked : Option Nat
  deriving DecidableEq, Repr

/-- The coordinate engine of a cluster. -/
structure Coord where
  cursors : List Cursor
  cmds : List QdCmd
  deriving DecidableEq, Repr

def Coord.empty : Coord := { cursors := [], cmds := [] }
/-- A context ends (R352). -/
def Coord.dropCtx (c : Coord) (ctx : Nat) : Coord :=
  { cursors := c.cursors.filter fun x => x.ctx != ctx, cmds := c.cmds.filter fun x => x.ctx != ctx }

/-! Worklist. -/

/-- A queued task on chip (R361, R363). -/
structure QTask where
  q : Nat
  pay : Nat
  key : Nat
  slot : Nat
  stamp : Nat
  deriving DecidableEq, Repr

/-- A queued task in its spoil slot (R355, R362), with the key it was spilled with. -/
structure SpTask where
  q : Nat
  key : Nat
  slot : Nat
  stamp : Nat
  deriving DecidableEq, Repr

/-- The shard of a cluster: on-chip tasks, spilled tasks, VIEW by quarry, 0 when not listed (R358, R361), and the core that
it served last, 0 to 3 (R365). -/
structure Shard where
  chip : List QTask
  spilled : List SpTask
  views : List (Nat × Nat)
  last : Nat := 3
  deriving DecidableEq, Repr

def Shard.empty : Shard := { chip := [], spilled := [], views := [] }
/-- Quarries are retired (R371, R379). -/
def Shard.retire (s : Shard) (qs : List Nat) : Shard :=
  { chip := s.chip.filter fun t => !qs.contains t.q
    spilled := s.spilled.filter fun t => !qs.contains t.q
    views := s.views.filter fun p => !qs.contains p.1
    last := s.last }

/-- What another device holds of a linked quarry, as the links show it (R435, log entry 34): its devid, the link group and
quarry number, its on-chip tasks by cluster, the keys of its other queued tasks and of those in flight there, its highest VIEW,
whether a push is in transit there, and its completed pushes. -/
structure Member where
  dev : Nat
  lgid : Nat
  n : Nat
  chip : List (Nat × QTask)
  rest : List Nat
  view : Nat
  transit : Bool
  pushes : Nat
  deriving DecidableEq, Repr

/-- A live quarry (R353, R354, R366): a number of its own, context and quarry number, descriptor fields, the leaves of
its spoil area as QYINIT found them (virtual base, size, physical base), QUIET, completed pushes, and the push count that
the last termination pass saw with every shard empty. `members` are the devids that its link joins, fixed by QYINIT (R435). -/
structure Quarry where
  id : Nat
  ctx : Nat
  n : Nat
  spbase : Nat
  seg : Nat
  span : Nat
  bw : Nat
  link : Bool
  lgid : Nat
  ldev : Nat
  members : List Nat
  pages : List (Nat × Nat × Nat)
  quiet : Bool
  pushes : Nat
  pass : Option Nat
  deriving DecidableEq, Repr

end Sys2Proof.Machine
end

