-- ==== Sys2Proof/Machine/HostTypes.lean ====
section
/-! DEFINITION. The parts of the state outside the lanes: dispatch, pre-emption, the host interface, links, bring-up
and reliability. Plain data. -/

namespace Sys2Proof.Machine

/-- A gang launch record read from memory (R196), as its 64 bytes. -/
structure LRec where
  cb : Nat
  entry : Nat
  ngang : Nat
  copyq : Nat
  args : Nat
  nwarp : Nat
  nwg : Nat
  floor : Nat
  stiles : Nat
  atiles : Nat
  fuse : Bool
  prio : Nat
  csig : Nat
  psize : Nat
  waits : List Nat
  /-- Are all reserved fields zero? -/
  clear : Bool
  /-- The doubleword at 0x18 (R414). -/
  shape : Nat
  deriving DecidableEq, Repr

/-- A context descriptor as read at placement (R195, R226, R413, R441). -/
structure Ctx where
  sigbase : Nat
  ppool : Nat
  sigcnt : Nat
  pmax : Nat
  uroot : Nat
  kroot : Nat
  svbase : Nat
  ldev : Nat
  lgid : Nat
  clear : Bool
  deriving DecidableEq, Repr

/-- An accepted launch (R205, R213). -/
structure Launch where
  id : Nat
  queue : Nat
  ctx : Nat
  /-- Its count in the queue. -/
  count : Nat
  lrec : LRec
  placed : Nat
  ended : Nat
  /-- Cores that its warps have run on (R213). -/
  cores : List Nat
  abandoned : Bool
  /-- The zero-length read of its release at `.SYS` (R213, R434): 0 not sent, 1 outstanding, 2 complete. -/
  zlr : Nat := 0
  deriving DecidableEq, Repr

/-- A resident gang (R209, R210): its launch, number, cluster index 32 × die + cluster, cores, and the tiles of each
workgroup. -/
structure Gang where
  uid : Nat
  lnch : Nat
  ctx : Nat
  queue : Nat
  gangid : Nat
  lrec : LRec
  cluster : Nat
  cores : List Nat
  tiles : List (List Nat)
  /-- Physical accumulator tiles of its share, and the names bound to them (R307). -/
  share : List Nat
  names : List (Nat × Nat)
  deriving DecidableEq, Repr

/-- A launch queue (R199) and the dispatcher's view of its head (R206, R208). -/
structure Queue where
  rbase : Nat
  rlog2 : Nat
  en : Bool
  src : Bool
  irq : Bool
  pcap : Nat
  ctx : Nat
  tail : Nat
  head : Nat
  ill : Bool
  tbad : Bool
  rflt : Bool
  ctxf : Bool
  sflt : Bool
  cfg : Bool
  /-- The head launch once its record has been read. -/
  cur : Option Nat
  /-- Wait conditions seen met; readiness order; skip count; last placement. -/
  met : List Nat
  ready : Option Nat
  skip : Nat
  served : Option Nat
  /-- lnchids of records accepted and not yet read, in order. -/
  ids : List Nat
  deriving DecidableEq, Repr

/-- A saved warp (R412): what the part keeps beside the block, which are where it stands, its numbers, the base of its
private memory, the in-flight tasks it holds (R379), the depth at which its handler began, the instruction that retired
last, and a trap held in slot 1 beside one in slot 0. -/
structure SavedWarp where
  core : Nat
  lane : Nat
  wslot : Nat
  wn : Nat
  wgid : Nat
  pvbase : DWord
  tasks : List Task
  base : Nat
  lastIns : LastIns
  second : Option TrapReq
  deriving DecidableEq, Repr

/-- A saved gang (R414): its stripe, its record index there, its warps, its cursors by their place in the stripe, and its
reservation-table entries by their place, each with the number of the first byte of its coded copy. -/
structure SavedGang where
  stripe : Nat
  idx : Nat
  gang : Gang
  warps : List SavedWarp
  entries : List (Nat × Nat × MxEntry)
  cursors : List (Nat × Cursor)
  deriving DecidableEq, Repr

/-- A pre-emption channel (R403) with its stop walk (R408). -/
structure Chan where
  ctx : Nat
  cmd : Nat
  irq : Bool
  grace : Nat
  deadline : Nat
  state : Nat
  nsaved : Nat
  /-- Cycle at which STOP or DRAIN was accepted, ELAPSED once it stopped counting. -/
  since : Nat
  elapsed : Nat
  freset : Bool
  /-- Gangs of the walk and the next stage of each (R408); the engine stages begun, with the core or cluster (R409); the
  matrix entries saved in stage 5 whose gang has not left, with cluster, place and coded copy (R414). -/
  walk : List (Nat × Nat)
  begun : List (Nat × Nat) := []
  ents : List (Nat × Nat × Nat × MxEntry) := []
  saved : List SavedGang
  /-- When RESUME was accepted, in the dispatcher's count: a saved gang is an aged candidate from then (R415). -/
  ready : Nat
  deriving DecidableEq, Repr

/-- A translation fault record (R231): written or waiting for room, with whom it parks. -/
inductive Parkee where
  | warp (w slot : Nat)
  | copy (core ent : Nat)
  | coord (cl id : Nat)
  | cursor (cl gang name : Nat)
  | control (w : Nat)
  | save (ch : Nat)
  deriving DecidableEq, Repr
structure FaultRec where
  id : Nat
  ctx : Nat
  who : Parkee
  va : Nat
  cause : Nat
  kind : Nat
  die : Nat
  xid : Nat
  agent : Nat
  /-- SEQ, once written. -/
  seq : Nat
  written : Bool
  answered : Bool
  deriving DecidableEq, Repr

/-- The fault ring (R442). -/
structure FaultRing where
  base : Nat
  log2 : Nat
  en : Bool
  cfgerr : Bool
  wrcnt : Nat
  rdcnt : Nat
  anserr : Bool
  next : Nat
  recs : List FaultRec
  deriving DecidableEq, Repr

/-- The invalidation block (R443), and what used a removed translation and has not performed: accesses and entries by
number, requests by core and tag, and dirty L1 lines by core, context and address (R230). -/
structure Inval where
  iva : Nat
  ictx : Nat
  isize : Nat
  iall : Bool
  busy : Bool
  ierr : Bool
  wait : List Nat
  tags : List (Nat × Nat)
  lines : List (Nat × Nat × Nat) := []
  deriving DecidableEq, Repr

/-- A Virvis port (R444). -/
structure VPort where
  en : Bool
  up : Bool
  pdup : Bool
  far : Nat
  deriving DecidableEq, Repr

/-- An MSI-X vector (R446): address, data, mask, pending. -/
structure MsixVec where
  addr : Nat
  data : Nat
  masked : Bool
  pending : Bool
  deriving DecidableEq, Repr

/-- A die link (R428): 0 ACTIVE, 1 STOPPING, 2 OFF, 3 WAKING, the cycle of entry and of its last flit. -/
structure Link where
  state : Nat
  since : Nat
  used : Nat
  deriving DecidableEq, Repr

/-- A bore-log record (R459). -/
structure BoreRec where
  seq : Nat
  bytes : List Byte
  deriving DecidableEq, Repr

/-- A compute die's registers (R445, R454 to R458) and walk cache (R230). -/
structure Die where
  walk : List WalkEnt
  ith : Nat
  pden : Bool
  clready : Nat
  throt : Bool
  temp : Nat
  sce : Nat
  sue : Nat
  ceth : Nat
  wrseq : Nat
  log : List (Nat × List Byte)
  /-- LCLK (R458) is `now` less this cycle. -/
  lclk0 : Nat
  /-- Promenade tokens (R318): token number and station, and the tokens' target. -/
  ring : List (Nat × Nat)
  target : Nat
  deriving DecidableEq, Repr

/-- The host and package registers (R440 to R453). -/
structure Regs where
  devid : Nat
  ctxtab : Nat
  ctxcnt : Nat
  winbase : Nat
  winerr : Bool
  ring : FaultRing
  inval : Inval
  vlroute : List Nat
  vlacl : List Nat
  vlport : List VPort
  msix : List MsixVec
  /-- Readiness (R453): dies, stacks, links, host, and FAIL. -/
  rdyDie : Nat
  rdyStack : Nat
  rdyLink : Nat
  rdyHost : Bool
  fail : Bool
  partid : Nat
  form : Nat
  step : Nat
  fwver : Nat
  fwsvn : Nat
  minsvn : Nat
  bootst : Nat
  fwst : Nat
  plimit : Nat
  /-- 0 D0, 1 D3hot, 2 D3cold (R461). -/
  power : Nat
  /-- Register writes held during bring-up (R452): offset, size, value; with size 0 the value names the host's write of one
  field of the block there. -/
  heldW : List (Nat × Nat × Nat)
  deviceFatal : Bool
  attest : Nat
  keys : Nat
  staging : List (Nat × Byte)
  /-- Functions whose self-test failed (R450); the size of BAR2 as Resizable BAR has it, by its logarithm (R437); MSI-X Enable
  and Function Mask (R446), which PCIe's configuration space holds. -/
  failed : List Nat := []
  bar2 : Nat := 28
  msixOn : Bool := false
  msixMask : Bool := false
  deriving DecidableEq, Repr

/-- What the outside holds: host memory, peers and what they would answer (the environment; log entry 7). -/
structure PeerDev where
  dev : Nat
  reach : Bool
  /-- The permission this device has there: R, W, A. -/
  acl : Nat
  mem : List (Nat × Byte)
  deriving DecidableEq, Repr
/-- Who waits for a PCIe request: a slice's request, a fence's or a launch's zero-length read, or the part itself, which
reads a line of host memory (R433, R434). -/
inductive HostAsk where
  | slice (n : Nat) (r : HReq)
  | fence (w f : Nat)
  | launch (id : Nat)
  | own (line : Nat)
  deriving DecidableEq, Repr
structure HostReq where
  tag : Nat
  ctx : Nat
  ask : HostAsk
  deriving DecidableEq, Repr
/-- A write to host or peer memory that its home slice has accepted and that has not reached its place (R433): the line,
the bytes at their offsets, and whom it is attributed to, by context, core and address. -/
structure Posted where
  tgt : Nat
  line : Nat
  bytes : List (Nat × Byte)
  ctx : Nat
  core : Nat
  data1 : Nat
  deriving DecidableEq, Repr
structure ImageFacts where
  signed : Bool
  svn : Nat
  ver : Nat
  deriving DecidableEq, Repr
structure Env where
  hostMem : List (Nat × Byte)
  peers : List PeerDev
  hostReqs : List HostReq
  /-- Accepted writes on their way, oldest first. -/
  posted : List Posted := []
  /-- Lines of host memory that have come for the part's own reads, by context. -/
  came : List (Nat × Nat) := []
  nextTag : Nat
  stored : ImageFacts
  staged : ImageFacts
  /-- The accepted image, which runs from the next device reset on (R464). -/
  accepted : Option ImageFacts := none
  /-- Other devices' parts of linked quarries (R435). -/
  members : List Member
  deriving DecidableEq, Repr

/-- What the part has sent outside: MSI-X messages, the last BAR2 read, SPDM answers, and the answers to peers, none where
a request was refused (R432). -/
structure Out where
  msgs : List (Nat × Nat × Nat)
  bar2 : List Byte
  spdm : List (List Nat)
  peer : List (Nat × Option (List Byte))
  deriving DecidableEq, Repr

end Sys2Proof.Machine
end

