-- ==== Sys2Proof/Machine/State.lean ====
section
/-! DEFINITION. The state of the package: everything the spec gives it, as plain data, and its value after reset. -/

namespace Sys2Proof.Machine

/-- Why the machine stops. -/
inductive Fault where
  /-- Raised by the meaning of an instruction form when no warp issues it: the step never runs one so. Safe. -/
  | noIssuingWarp
  /-- Raised by the step when an access has reached a local physical address beyond 0xBF_FFFF_FFFF (R236), where no
  memory stands. Safe: the spec gives such an access no effect. -/
  | outsideMemory (pa : Nat)
  deriving DecidableEq, Repr

/-- Why a step has no meaning. -/
inductive Refusal where
  /-- Raised by an arm of `exec` whose instruction has no meaning yet. Safe. -/
  | notModelled (mnemonic : String)
  deriving DecidableEq, Repr

/-- What the host writes in PCIe's configuration space (R437, R446; log entry 41): the size of BAR2, MSI-X control. -/
inductive CfgWrite where
  | bar2 (log : Nat)
  | msix (on mask : Bool)
  deriving DecidableEq, Repr

/-- What moves next (log entry 2): a step of another agent, an accepted write, or the grant of a warp's slot; `busy` are the slots of the
lane, by warp, whose instructions find a pipe, a bank or a port taken in this cycle (log entry 23). -/
inductive Agendum where
  | run (i : Instr)
  | grant (w slot : Nat) (busy : List (Nat × Nat))
  /-- Accepted write `i` to host or peer memory reaches its place (R433). -/
  | land (i : Nat)
  /-- The host writes PCIe's configuration space. -/
  | config (c : CfgWrite)
  deriving DecidableEq, Repr

/-- What is being issued: the warp and slot, the packet's address, the address after the instruction or its chain, the
packet slot and issuing word, the warp as it stood when the chain was granted, and what the words of a chain have
gathered: flags by thread, and the first trap. -/
structure Issue where
  uid : Nat
  slot : Nat
  pkt : DWord
  npc : DWord
  wslot : Nat
  word : Word
  snap : Option Warp
  flags : List (Nat × Nat)
  trap : Option TrapReq
  /-- Some word of the chain carries W (R24). -/
  marker : Bool
  /-- Some word of the chain is followed by a region boundary (R386). -/
  bound : Bool
  deriving DecidableEq, Repr

/-- A cluster (R207 to R232, R305, R335, R355). -/
structure Cluster where
  tlb : List TlbEnt
  fused : Bool
  mx : Matrix
  qd : Coord
  shard : Shard
  deriving DecidableEq, Repr

/-- The dispatcher (R205 to R213). -/
structure Disp where
  queues : List Queue
  launches : List Launch
  gangs : List Gang
  nextLnch : Nat
  /-- Cluster search index (R210); count of placements and of readiness events. -/
  search : Nat
  clock : Nat
  /-- Accepted launches of contexts held for RESUME (R405) are kept in `launches`. -/
  nextUid : Nat
  deriving DecidableEq, Repr

/-- The state. -/
structure State where
  warps : List Warp
  cores : List (Nat × Core)
  clusters : List (Nat × Cluster)
  dies : List (Nat × Die)
  slices : List (Nat × Slice)
  hbm : List (Nat × Stack)
  mesh : List Flit
  links : List (Nat × Link)
  /-- Local memory (R236): rising addresses, no byte 0 listed (log entry 1). -/
  mem : List Host.Cell
  disp : Disp
  chans : List Chan
  quarries : List Quarry
  ctxs : List (Nat × Ctx)
  regs : Regs
  env : Env
  out : Out
  issue : Option Issue
  /-- Chains of which an engine command holds the slot: the words that are still to issue when it lets go (R19). -/
  paused : List (Issue × List Piece)
  agenda : List Agendum
  pace : List Nat
  now : Nat
  nextId : Nat
  /-- Counter of values the spec leaves open (log entry 6). -/
  free : Nat
  /-- An address outside memory that has been reached. -/
  bad : Option Nat
  /-- The part's own access has found its home slice or stack not ready (R451): the step is not made yet. -/
  unready : Bool := false
  deriving DecidableEq, Repr

/-- An empty core (R216, R217, R220, R224). -/
def Core.empty : Core :=
  { scratch := [], engine := [], given := [], l1 := [], tlb := [], tags := [], nextTag := 0, windows := [], inbox := [],
    code := [], lineCtx := none, lastLaunch := none, lanes := [], copy := [] }

/-- A cluster after reset; its L1s are unfused (log entry 5). -/
def Cluster.empty : Cluster := { tlb := [], fused := false, mx := Matrix.empty, qd := Coord.empty, shard := Shard.empty }

/-- A slice after reset (R233). -/
def Slice.empty : Slice := { lines := [], queue := [], replies := [] }

/-- A base die after reset (R239, R455). -/
def Stack.empty : Stack := { queue := [], rows := [], seq := 0, hce := 0, hue := 0, hceth := 0x1000 }

/-- The Promenade tokens of a die after reset (R318): 20, one on each of the first 20 stations. -/
def ring0 : List (Nat × Nat) := (List.range 20).map fun k => (k, k)

/-- A die after reset (R445, R454). -/
def Die.reset : Die :=
  { walk := [], ith := 2048, pden := true, clready := 0, throt := false, temp := 0, sce := 0, sue := 0,
    ceth := 0x1000, wrseq := 0, log := [], lclk0 := 0, ring := ring0, target := 20 }

/-- A die right after power-on: its bore log holds the record of the reset (R458, R459), of sequence number 0 (log entry
5). -/
def Die.powered (d : Nat) : Die :=
  { Die.reset with wrseq := 1, log := [(0, [0, 0, 0, 0, 1, 0, BitVec.ofNat 8 d, 0, 0, 0, 0, 0, 0, 0, 0xFF, 0xFF] ++
      List.replicate 16 0)] }

/-- A queue block after reset (R199). -/
def Queue.reset : Queue :=
  { rbase := 0, rlog2 := 0, en := false, src := false, irq := false, pcap := 0, ctx := 0, tail := 0, head := 0,
    ill := false, tbad := false, rflt := false, ctxf := false, sflt := false, cfg := false, cur := none, met := [],
    ready := none, skip := 0, served := none, ids := [] }

/-- A pre-emption channel after reset (R403). -/
def Chan.reset : Chan :=
  { ctx := 0, cmd := 0, irq := false, grace := 0, deadline := 2000, state := 0, nsaved := 0, since := 0, elapsed := 0,
    freset := false, walk := [], saved := [], ready := 0 }

/-- The host and package registers after reset (R440 to R449, R453, R462; log entries 5, 30). -/
def Regs.reset : Regs :=
  { devid := 0, ctxtab := 0, ctxcnt := 0, winbase := 0, winerr := false,
    ring := { base := 0, log2 := 0, en := false, cfgerr := false, wrcnt := 0, rdcnt := 0, anserr := false, next := 0,
              recs := [] },
    inval := { iva := 0, ictx := 0, isize := 0, iall := false, busy := false, ierr := false, wait := [], tags := [] },
    vlroute := List.replicate 64 0, vlacl := List.replicate 64 0,
    vlport := List.replicate 16 { en := false, up := false, pdup := false, far := 0 },
    msix := List.replicate 72 { addr := 0, data := 0, masked := true, pending := false },
    rdyDie := 0, rdyStack := 0, rdyLink := 0, rdyHost := false, fail := false, partid := 0x0A29, form := 0, step := 0,
    fwver := 0, fwsvn := 0, minsvn := 0, bootst := 0, fwst := 0, plimit := 2200, power := 0, heldW := [],
    deviceFatal := false, attest := 0, keys := 0, staging := [] }

/-- The package right after reset: nothing resident, nothing cached, memory with nothing listed. -/
def State.reset : State :=
  { warps := [], cores := [], clusters := [], dies := (List.range 9).map fun d => (d, Die.powered d), slices := [],
    hbm := (List.range 12).map fun k => (k, Stack.empty), mesh := [],
    links := (List.range 12).map fun l => (l, { state := 0, since := 0, used := 0 }), mem := [],
    disp := { queues := List.replicate 64 Queue.reset, launches := [], gangs := [], nextLnch := 0, search := 0, clock := 0,
              nextUid := 0 },
    chans := List.replicate 4 Chan.reset, quarries := [], ctxs := [], regs := Regs.reset,
    env := { hostMem := [], peers := [], hostReqs := [], nextTag := 0, stored := ⟨true, 0, 0⟩, staged := ⟨false, 0, 0⟩,
             members := [] },
    out := { msgs := [], bar2 := [], spdm := [], peer := [] },
    issue := none, paused := [], agenda := [], pace := [], now := 0, nextId := 0, free := 0, bad := none }

end Sys2Proof.Machine
end

