-- ==== Sys2Proof/Machine/Memory.lean ====
section
/-! DEFINITION. Bytes: sparse byte memories in canonical form, where a physical line stands (10 R234, R236), base-die
requests (R237), and the L2 slices' lines (R233, R235). -/

namespace Sys2Proof.Machine

/-! A byte memory: addresses strictly rising, no byte 0 listed. -/

/-- The byte at `a`; an unlisted address reads 0 (log entry 1). -/
def cellRead : List Host.Cell → Nat → Byte
  | [], _ => 0
  | (x, b) :: r, a => if a < x then 0 else if a = x then b else cellRead r a

/-- Write one byte, keeping the canonical form. -/
def cellWrite : List Host.Cell → Nat → Byte → List Host.Cell
  | [], a, v => if v = 0 then [] else [(a, v)]
  | (x, b) :: r, a, v =>
    if a < x then (if v = 0 then (x, b) :: r else (a, v) :: (x, b) :: r)
    else if a = x then (if v = 0 then r else (a, v) :: r)
    else (x, b) :: cellWrite r a v

/-- Are all addresses of a memory above `lo`, rising, with no byte 0? -/
def cellsAbove : Option Nat → List Host.Cell → Bool
  | _, [] => true
  | lo, (x, b) :: r => (match lo with | none => true | some l => l < x) && b != 0 && cellsAbove (some x) r

/-- The canonical form. -/
def Memory.wf (m : List Host.Cell) : Bool := cellsAbove none m

/-- `n` bytes from `a`; consecutive bytes written from `a`. -/
def cellsRead (m : List Host.Cell) (a n : Nat) : List Byte := (List.range n).map fun i => cellRead m (a + i)
def cellsWrite (m : List Host.Cell) (a : Nat) : List Byte → List Host.Cell
  | [] => m
  | b :: bs => cellsWrite (cellWrite m a b) (a + 1) bs

/-- R236: one past the last byte of local memory. -/
def memTop : Nat := 0xC000000000

/-! The parts of the package by number. -/

def State.core (s : State) (k : Nat) : Core := (look k s.cores).getD Core.empty
def State.setCore (s : State) (k : Nat) (c : Core) : State := { s with cores := put k c s.cores }
def State.cluster (s : State) (k : Nat) : Cluster := (look k s.clusters).getD Cluster.empty
def State.setCluster (s : State) (k : Nat) (c : Cluster) : State := { s with clusters := put k c s.clusters }
def State.die (s : State) (k : Nat) : Die := (look k s.dies).getD Die.reset
def State.setDie (s : State) (k : Nat) (d : Die) : State := { s with dies := put k d s.dies }
def State.slice (s : State) (k : Nat) : Slice := (look k s.slices).getD Slice.empty
def State.setSlice (s : State) (k : Nat) (d : Slice) : State := { s with slices := put k d s.slices }
def State.stack (s : State) (k : Nat) : Stack := (look k s.hbm).getD Stack.empty
def State.setStack (s : State) (k : Nat) (d : Stack) : State := { s with hbm := put k d s.hbm }

/-- Die and cluster of a core, die of a cluster and of a slice (R192, R233). -/
def coreCluster (core : Nat) : Nat := core / 4
def coreDie (core : Nat) : Nat := core / 128
def clusterDie (cl : Nat) : Nat := cl / 32
def sliceDie (sl : Nat) : Nat := sl / 16

/-- R234: the home slice of a line. -/
def homeOf (line : Nat) : Nat :=
  let j := line / 144
  let b := Nat.xor (Nat.xor (fld j 0 8) (fld j 8 8)) (Nat.xor (fld j 16 8) (fld j 24 8))
  (line + (37 * b) % 144) % 144

/-- R234: the set of a line in its home slice. -/
def l2Set (line : Nat) : Nat := line / 144 % 1024

/-- R236: the stack of a local physical address, its stack-local address, and the die the stack is attached to. -/
def stackOf (pa : Nat) : Nat := [0, 6, 3, 9, 1, 7, 4, 10, 2, 8, 5, 11].getD (pa / 4096 % 12) 0
def stackAddr (pa : Nat) : Nat := pa / 4096 / 12 * 4096 + pa % 4096
def stackDie (st : Nat) : Nat := [0, 1, 2, 2, 5, 8, 8, 7, 6, 6, 3, 0].getD st 0

/-- R239: bank and row of a stack-local address. -/
def bankOf (a : Nat) : Nat := fld a 10 6
def rowOfAddr (a : Nat) : Nat := fld a 16 20

/-! The mesh (R424, R427): a message to the sender's own die is there at once, any other becomes a packet. -/

/-- A direct packet's reply: the replies stand in order of arrival (R287), before the packets that have none. -/
def Warp.arrive (w : Warp) (pkt : Nat) (r : DieReply) : Warp :=
  let mine := (w.dir.filter fun p => p.id == pkt).map fun (p : DirPkt) => { p with reply := some (r.data, r.status) }
  let rest := w.dir.filter fun p => p.id != pkt
  { w with dir := (rest.filter fun p => p.reply.isSome) ++ mine ++ rest.filter fun p => p.reply.isNone }

/-- A message taken in at the die it is for. -/
def State.deliver (s : State) (m : Msg) : State :=
  match m with
  | .home sl r => let c := s.slice sl; s.setSlice sl { c with queue := c.queue ++ [r] }
  | .core k r => let c := s.core k; s.setCore k { c with inbox := c.inbox ++ [r] }
  | .stack st r =>
    let c := s.stack st
    s.setStack st { c with queue := c.queue ++ [r], came := if c.queue.isEmpty then some s.now else c.came }
  | .slice sl r => let c := s.slice sl; s.setSlice sl { c with replies := c.replies ++ [r] }
  | .direct uid pkt r => { s with warps := s.warps.map fun w => if w.uid = uid then w.arrive pkt r else w }

/-- R427: channel (0 REQ, 1 RSP) and key of a message, line indices and stack numbers apart. -/
def Msg.chan : Msg → Nat
  | .home _ _ | .stack _ _ => 0
  | .core _ _ | .slice _ _ | .direct _ _ _ => 1
def Msg.key : Msg → Nat
  | .home _ r => 2 * r.line
  | .core _ r => 2 * r.line
  | .stack st _ => 2 * st + 1
  | .slice _ r => 2 * stackOf r.pa + 1
  | .direct _ _ r => 2 * stackOf r.pa + 1

/-- The flits of a packet (R424): one for every 64 bytes of its data, and at least one (log entry 29). -/
def Msg.flits (m : Msg) : Nat :=
  let n := match m with
    | .home _ r => r.bytes.length
    | .core _ r => r.data.length
    | .stack _ r => r.data.length
    | .slice _ r => r.data.length
    | .direct _ _ r => r.data.length
  max 1 ((n + 63) / 64)

def State.send (s : State) (src dst : Nat) (m : Msg) : State :=
  if src = dst then s.deliver m
  else { s with mesh := s.mesh ++ [{ src, dst, at_ := src, chan := m.chan, key := m.key, path := [src], msg := m }] }

/-! Base dies. -/

/-- The base-die requests for a stack that are not served yet, oldest first (R239). -/
def State.pendingDie (s : State) (st : Nat) : List DieReq :=
  (s.stack st).queue ++ s.mesh.filterMap fun f => match f.msg with
    | .stack k r => if k = st then some r else none
    | _ => none

/-- What a pending write gives for the byte at `pa`. -/
def DieReq.byteAt (r : DieReq) (pa : Nat) : Option Byte :=
  if r.write && r.pa ≤ pa && pa < r.pa + 32 && bit r.bmask (pa - r.pa) then some (r.data.getD (pa - r.pa) 0) else none

/-- The byte of local memory at `pa` once every request already sent has been served. -/
def State.dieByte (s : State) (pa : Nat) : Byte :=
  match firstSome (fun r => DieReq.byteAt r pa) (s.pendingDie (stackOf pa)).reverse with
  | some b => b
  | none => cellRead s.mem pa

/-- Send a base-die request from a die (R237). -/
def State.sendDie (s : State) (src : Nat) (r : DieReq) : State :=
  let st := stackOf r.pa
  s.send src (stackDie st) (.stack st r)

/-- RID of a slice (R237). -/
def sliceRid (sl : Nat) : Nat := 2 ^ 19 * sliceDie sl + sl

/-- A slice's base-die request of one codeword, with the slice's next RTAG, which is answered (R237). -/
def State.sendSlice (s : State) (sl pa : Nat) (write : Bool) (bmask : Nat) (data : List Byte) : Nat × State :=
  let c := s.slice sl
  (c.rtag, (s.setSlice sl { c with rtag := (c.rtag + 1) % 65536 }).sendDie (sliceDie sl)
    { by_ := .slice sl, pa, n := 1, write, bmask, data, passed := 0, rtag := c.rtag, rid := sliceRid sl })

/-! Host and peer memory (R431 to R433). -/

/-- The port of a packet to device `dev` (R431): of the ports that VLROUTE gives, the one that the line number chooses. -/
def State.portFor (s : State) (dev line : Nat) : Option Nat :=
  let e := s.regs.vlroute.getD dev 0
  let ports := (List.range 16).filter fun k => bit e k
  if bit e 16 then ports[line % 2 ^ 33 % ports.length]? else none

/-- Does a packet for a line of a device have a valid route, through a port that is up (R431, R444)? -/
def State.routed (s : State) (dev line : Nat) : Bool :=
  match s.portFor dev line with
  | none => false
  | some k => match s.regs.vlport[k]? with | some p => p.en && p.up | none => false

/-- Does a device allow the package an access to its memory (R432)? `k` is the bit of its VLACL. -/
def State.allowed (s : State) (dev k : Nat) : Bool :=
  match s.env.peers.find? fun x => x.dev == dev with
  | none => false
  | some x => x.reach && bit x.acl k

/-- May the package make an access at a place: a peer's must be reachable and allow it (R431, R432). -/
def State.reaches (s : State) (p : Phys) (k : Nat) : Bool :=
  p.tgt != 2 || (s.routed (fld p.pa 40 6) (p.pa / 128) && s.allowed (fld p.pa 40 6) k)

/-- Bytes put into a line of host or peer memory. -/
def State.outWrite (s : State) (tgt line : Nat) (bytes : List (Nat × Byte)) : State :=
  if tgt = 1 then
    { s with env := { s.env with
        hostMem := bytes.foldl (fun m p => cellWrite m (line * 128 + p.1) p.2) s.env.hostMem } }
  else
    let pa := line * 128
    { s with env := { s.env with
        peers := s.env.peers.map fun q =>
          if q.dev == fld pa 40 6 then
            { q with mem := bytes.foldl (fun m p => cellWrite m (pa % 2 ^ 40 + p.1) p.2) q.mem }
          else q } }

/-- Can an accepted write reach its place? -/
def State.landable (s : State) (x : Posted) : Bool := s.reaches ⟨x.tgt, x.line * 128⟩ 1

/-- Accepted writes that `p` picks reach their places, in order (R433, R434). -/
def State.landAll (s : State) (p : Posted → Bool) : State :=
  let go := s.env.posted.filter fun x => p x && s.landable x
  let s' := go.foldl (fun t x => t.outWrite x.tgt x.line x.bytes) s
  { s' with env := { s'.env with posted := s.env.posted.filter fun x => !(p x && s.landable x) } }

/-- What an accepted write gives for a byte, to those that read at the home slice. -/
def Posted.byteAt (x : Posted) (tgt pa : Nat) : Option Byte :=
  if x.tgt = tgt && x.line = pa / 128 then (x.bytes.reverse.find? fun b => b.1 == pa % 128).map (·.2) else none

/-! L2 slices. -/

/-- The byte of host or peer memory that stands there. -/
def State.outByte (s : State) (tgt pa : Nat) : Byte :=
  if tgt = 1 then cellRead s.env.hostMem pa
  else
    match s.env.peers.find? fun p => p.dev == fld pa 40 6 with
    | some p => cellRead p.mem (pa % 2 ^ 40)
    | none => 0

/-- One byte behind the L2. -/
def State.behindByte (s : State) (tgt pa : Nat) : Byte :=
  if tgt = 0 then s.dieByte pa
  else (firstSome (fun x => Posted.byteAt x tgt pa) s.env.posted.reverse).getD (s.outByte tgt pa)

/-- The bytes of a line as they stand behind the L2. -/
def State.behind (s : State) (tgt line : Nat) : List Byte :=
  (List.range 128).map fun i => s.behindByte tgt (line * 128 + i)

/-- The L2 line of a slice that holds a local line. -/
def Slice.line? (c : Slice) (line : Nat) : Option L2Line := c.lines.find? fun l => l.line == line

/-- Are all the slice's request slots taken (R235)? -/
def Slice.full (c : Slice) : Bool := 2048 ≤ c.queue.length

/-- The byte at a physical address at its home slice (R269 step 3): the L2's where the sector is valid, else what stands
behind it. -/
def State.homeByte (s : State) (p : Phys) : Byte :=
  let line := p.pa / 128
  let o := p.pa % 128
  if p.tgt = 0 then
    match (s.slice (homeOf line)).line? line with
    | some l => if bit l.valid (o / 16) then l.data.getD o 0 else s.behindByte p.tgt p.pa
    | none => s.behindByte p.tgt p.pa
  else s.behindByte p.tgt p.pa

/-- `n` bytes at a physical address at the home slice. -/
def State.homeRead (s : State) (p : Phys) (n : Nat) : List Byte :=
  (List.range n).map fun i => s.homeByte { p with pa := p.pa + i }

/-- Write the sectors `mask` of an L2 line to memory: one base-die write for each codeword they touch (R235). Reads of the line that a
request still waits for are asked again. -/
def State.writeSectors (s : State) (l : L2Line) (mask : Nat) : State :=
  let c := s.slice (homeOf l.line)
  let s := if mask = 0 then s else
    s.setSlice (homeOf l.line) { c with queue := c.queue.map fun r =>
      if r.line == l.line && r.tgt == 0 then { r with pending := [] } else r }
  (List.range 4).foldl (fun s k =>
    let lo := bit mask (2 * k)
    let hi := bit mask (2 * k + 1)
    if lo || hi then
      (s.sendSlice (homeOf l.line) (l.line * 128 + 32 * k) true
        ((if lo then 0xFFFF else 0) + (if hi then 0xFFFF0000 else 0)) ((l.data.drop (32 * k)).take 32)).2
    else s) s

/-- Move a line to the front of its slice, with `way` lines of its set at most: the least recently used beyond 16 is
evicted and its dirty sectors are written back (R233, R235). With `nt` the line goes to the back instead (R242). -/
def State.l2Put (s : State) (l : L2Line) (nt : Bool) : State :=
  let k := homeOf l.line
  let c := s.slice k
  let others := c.lines.filter fun x => x.line != l.line
  let same := others.filter fun x => l2Set x.line == l2Set l.line
  let (keep, gone) :=
    match (if same.length ≥ 16 then same.getLast? else none) with
    | some v => (others.filter fun x => x.line != v.line, some v)
    | none => (others, none)
  let lines := if nt then keep ++ [l] else l :: keep
  let s := s.setSlice k { c with lines := lines }
  match gone with
  | some v => s.writeSectors v v.dirty
  | none => s

/-- Bytes put into a line's data at their offsets. -/
def patch (data : List Byte) (bytes : List (Nat × Byte)) : List Byte :=
  bytes.foldl (fun d p => d.set p.1 p.2) data

/-- The sectors that offsets touch; those that they cover in full. -/
def sectorsOf (bytes : List (Nat × Byte)) : Nat :=
  (List.range 8).foldl (fun m k => if bytes.any fun p => p.1 / 16 == k then m + 2 ^ k else m) 0
def fullSectors (bytes : List (Nat × Byte)) : Nat :=
  (List.range 8).foldl (fun m k =>
    if (List.range 16).all fun i => bytes.any fun p => p.1 == 16 * k + i then m + 2 ^ k else m) 0

/-- Masks of 8 sectors. -/
def smOr (a b : Nat) : Nat := a ||| b
def smDiff (a b : Nat) : Nat := a &&& (255 - b % 256)

/-- The data of a line with the sectors of `mask` taken from `src`. -/
def mergeSectors (data src : List Byte) (mask : Nat) : List Byte :=
  (List.range 128).map fun i => if bit mask (i / 16) then src.getD i 0 else data.getD i 0

/-- May a local byte be accessed: its home slice and its stack are ready (R451)? -/
def State.localReady (s : State) (pa : Nat) : Bool :=
  bit s.regs.rdyDie (sliceDie (homeOf (pa / 128))) && bit s.regs.rdyStack (stackOf pa)

/-- The part's own access to a local byte: a place that is not ready makes it wait (R451). -/
def State.reached (s : State) (pa : Nat) : State := if s.localReady pa then s else { s with unready := true }

/-- The part's own read of a local line: sectors of `mask` that its home slice lacks are filled there (R235; log entry
13). -/
def State.l2Fill (s : State) (line mask : Nat) : State :=
  let l := ((s.slice (homeOf line)).line? line).getD { tgt := 0, line, valid := 0, dirty := 0, data := List.replicate 128 0 }
  let need := smDiff mask l.valid
  if need = 0 then s
  else s.l2Put { l with valid := smOr l.valid need, data := mergeSectors l.data (s.behind 0 line) need } false
def State.fillAt (s : State) (p : Phys) (n : Nat) : State :=
  if p.tgt = 0 then (s.reached p.pa).l2Fill (p.pa / 128) (2 ^ ((p.pa % 128 + n + 15) / 16) - 2 ^ (p.pa % 128 / 16)) else s
def State.touch (s : State) (p : Phys) : State := s.fillAt p 1

/-- Take up bytes written at a local line's home slice (R268, R272): partly covered sectors are filled first. -/
def State.l2Write (s : State) (line : Nat) (bytes : List (Nat × Byte)) (nt : Bool) : State :=
  let c := s.slice (homeOf line)
  let l := (c.line? line).getD { tgt := 0, line := line, valid := 0, dirty := 0, data := List.replicate 128 0 }
  let touched := sectorsOf bytes
  let need := smDiff (smDiff touched (fullSectors bytes)) l.valid
  let data := if need = 0 then l.data else mergeSectors l.data (s.behind 0 line) need
  s.l2Put { l with valid := smOr l.valid touched, dirty := smOr l.dirty touched, data := patch data bytes } nt

/-- A write that performs at once at the place of its line (R268, R433): the home slice's L2 for local memory, the
host or the peer otherwise, after the accepted writes of the same line, and for the host all of them. -/
def State.homeWriteLine (s : State) (tgt line : Nat) (bytes : List (Nat × Byte)) (nt : Bool) : State :=
  if tgt = 0 then (s.reached (line * 128)).l2Write line bytes nt
  else (s.landAll fun x => x.tgt == tgt && (tgt == 1 || x.line == line)).outWrite tgt line bytes

/-- The parts of a byte run by line: line index and offsets. -/
def byLine (pa : Nat) (bs : List Byte) : List (Nat × List (Nat × Byte)) :=
  (bs.zipIdx).foldl (fun acc bi =>
    let a := pa + bi.2
    match look (a / 128) acc with
    | some l => put (a / 128) (l ++ [(a % 128, bi.1)]) acc
    | none => put (a / 128) [(a % 128, bi.1)] acc) []

/-- A run of bytes written at the home slice at once: the part's own writes (R194, R230, R393, R412). -/
def State.homeWrite (s : State) (p : Phys) (bs : List Byte) : State :=
  let s := if p.tgt = 0 && memTop < p.pa + bs.length then { s with bad := some p.pa } else s
  (byLine p.pa bs).foldl (fun s l => s.homeWriteLine p.tgt l.1 l.2 false) s

end Sys2Proof.Machine
end

