-- ==== Sys2Proof/Machine/Translate.lean ====
section
/-! DEFINITION. Translation (10 R226 to R232): table entries, the walk and its order of outcomes, TLBs and walk
caches, and the part's own translated accesses. -/

namespace Sys2Proof.Machine

/-- Kinds of access, coded as KIND of R231. -/
inductive Acc where
  | load | store | atomic | fetch | copyRead | copyWrite | index | probe
  deriving DecidableEq, Repr
def Acc.code : Acc → Nat
  | .load => 0 | .store => 1 | .atomic => 2 | .fetch => 3 | .copyRead => 4 | .copyWrite => 5 | .index => 6
  | .probe => 7

/-- A table entry (R228). -/
structure Pte where
  v : Bool
  leaf : Bool
  w : Bool
  x : Bool
  tgt : Nat
  rsv : Bool
  pfn : Nat
  deriving DecidableEq, Repr
def pteOf (e : Nat) : Pte :=
  { v := bit e 0, leaf := bit e 1, w := bit e 2, x := bit e 3, tgt := fld e 4 2,
    rsv := fld e 6 9 != 0 || fld e 52 7 != 0, pfn := fld e 15 37 * 32768 }

/-- Index of a level (R227), and log2 of what one entry covers. -/
def levelShift (level : Nat) : Nat := if level = 1 then 51 else if level = 2 then 39 else if level = 3 then 27 else 15
def levelIndex (va level : Nat) : Nat := fld va (levelShift level) 12

/-- R229, cases 1 and 2 on an entry: a fault with its cause, or the entry. -/
def checkPte (level : Nat) (e : Pte) : Option Nat :=
  if !e.v then some level
  else if e.rsv || e.tgt == 3 || (!e.leaf && (e.w || e.x || e.tgt != 0)) || (e.leaf && level == 1) ||
      (!e.leaf && level == 4) || (e.leaf && e.pfn % 2 ^ levelShift level != 0) then some 5
  else none

/-- The walk from a table at `base` (R227): reads go through the die's walk cache of pointer entries (R230). Answers
the outcome before the checks of the access, and the pointer entries met. `left` is 4 at level 1. -/
def State.walkFrom (s : State) (die va : Nat) : Nat → Nat → List WalkEnt → WalkRes × List WalkEnt
  | 0, _, seen => (.fault 5, seen)
  | left + 1, base, seen =>
    let level := 4 - left
    let adr := base + 8 * levelIndex va level
    let val := match (s.die die).walk.find? fun e => e.adr == adr with
      | some e => e.val
      | none => leNat (s.homeRead ⟨0, adr⟩ 8)
    let e := pteOf val
    match checkPte level e with
    | some c => (.fault c, seen)
    | none =>
      if e.leaf then
        let size := 2 ^ levelShift level
        (.ok ⟨e.tgt, e.pfn + va % size⟩ e.w e.x (va / size * size) size, seen)
      else s.walkFrom die va left e.pfn (seen ++ [⟨adr, val⟩])

/-- The table entries that such a walk reads behind the walk cache. -/
def State.walkReads (s : State) (die va : Nat) : Nat → Nat → List Nat
  | 0, _ => []
  | left + 1, base =>
    let adr := base + 8 * levelIndex va (4 - left)
    let hit := (s.die die).walk.find? fun e => e.adr == adr
    let e := pteOf (match hit with | some e => e.val | none => leNat (s.homeRead ⟨0, adr⟩ 8))
    let more := if (checkPte (4 - left) e).isSome || e.leaf then [] else s.walkReads die va left e.pfn
    if hit.isSome then more else adr :: more

/-- Add at the end and keep the newest `n` (replacement: log entry 8). -/
def keepLast {β : Type} (n : Nat) (l : List β) : List β := l.drop (l.length - n)

/-- The cluster TLB keeps its pinned entries and the newest others, 2,048 in all (R230, R232). -/
def clusterTlbAdd (l : List TlbEnt) (e : TlbEnt) : List TlbEnt :=
  let l' := l ++ [e]
  if l'.length ≤ 2048 then l'
  else match takeFirst (fun (x : TlbEnt) => x.pins == 0) l' with
    | some (_, r) => r
    | none => l

/-- Does a TLB entry translate an address of a context? -/
def TlbEnt.hits (e : TlbEnt) (ctx va : Nat) : Bool := e.ctx == ctx && e.base ≤ va && va < e.base + e.size

/-- The translation of `va` with no access check: TLBs of the core (when one asks) and cluster, then a walk, whose leaf
and pointer entries are cached (R230). -/
def State.lookup (s : State) (core : Option Nat) (cl die ctx va : Nat) : WalkRes × State :=
  let hit := fun (l : List TlbEnt) => l.find? fun e => e.hits ctx va
  let res := fun (e : TlbEnt) => WalkRes.ok { e.phys with pa := e.phys.pa + (va - e.base) } e.w e.x e.base e.size
  let l1 := match core with | some k => hit (s.core k).tlb | none => none
  match l1 with
  | some e => (res e, s)
  | none =>
    let fillCore := fun (s : State) (e : TlbEnt) =>
      match core with
      | some k => let c := s.core k; s.setCore k { c with tlb := keepLast 64 (c.tlb ++ [{ e with pins := 0 }]) }
      | none => s
    match hit (s.cluster cl).tlb with
    | some e => (res e, fillCore s e)
    | none =>
      match look ctx s.ctxs with
      | none => (.fault 1, s)
      | some c =>
        let root := if bit va 63 then c.kroot else c.uroot
        let (r, seen) := s.walkFrom die va 4 root []
        let d := s.die die
        let fresh := seen.filter fun e => !d.walk.contains e
        let s := (s.walkReads die va 4 root).foldl (fun s a => s.touch ⟨0, a⟩) s
        let s := if fresh.isEmpty then s else s.setDie die { d with walk := keepLast 512 (d.walk ++ fresh) }
        match r with
        | .ok p w x base size =>
          let e : TlbEnt := { ctx, base, size, phys := { p with pa := p.pa - va % size }, w, x, pins := 0 }
          let k := s.cluster cl
          (r, fillCore (s.setCluster cl { k with tlb := clusterTlbAdd k.tlb e }) e)
        | r => (r, s)

/-- R431, R433: is a host or peer place one that the walk refuses? `host` is whether the form has a PCIe AtomicOp. -/
def State.badPlace (s : State) (p : Phys) (acc : Acc) (hostAtomic : Bool) : Bool :=
  if p.tgt = 1 then acc == .atomic && !hostAtomic
  else if p.tgt = 2 then fld p.pa 46 6 != 0 || p.pa % 2 ^ 40 ≥ memTop || fld p.pa 40 6 == s.regs.devid
  else false

/-- R229 on one address: the last three cases, after the walk. -/
def State.access (s : State) (core : Option Nat) (cl die ctx va : Nat) (acc : Acc) (priv hostAtomic : Bool) :
    WalkRes × State :=
  let (r, s) := s.lookup core cl die ctx va
  match r with
  | .ok p w x base size =>
    if bit va 63 && !priv then (.perm, s)
    else if (acc == .store || acc == .atomic || acc == .copyWrite) && !w then (.perm, s)
    else if acc == .fetch && !x then (.perm, s)
    else if s.badPlace p acc hostAtomic then (.perm, s)
    else (.ok p w x base size, if p.tgt = 0 && memTop ≤ p.pa then { s with bad := some p.pa } else s)
  | r => (r, s)

/-- A run of bytes at a virtual address, read by the part itself at the home slice (R202, R230), page by page; `priv` is
whether at handler privilege. -/
def State.readVirt (s : State) (core : Option Nat) (cl die ctx : Nat) (acc : Acc) (priv : Bool) :
    Nat → Nat → List Byte → (WalkRes ⊕ List Byte) × State
  | 0, _, got => (.inr got, s)
  | n + 1, va, got =>
    let (r, s) := s.access core cl die ctx va acc priv false
    match r with
    | .ok p _ _ _ _ => (s.touch p).readVirt core cl die ctx acc priv n ((va + 1) % 2 ^ 64) (got ++ [s.homeByte p])
    | r => (.inl r, s)

/-- The part's own write at a virtual address within one page: translated, then written at the home slice. -/
def State.writeVirt (s : State) (core : Option Nat) (cl die ctx : Nat) (priv : Bool) (va : Nat) (bs : List Byte) :
    Option WalkRes × State :=
  let (r, s) := s.access core cl die ctx va .store priv false
  match r with
  | .ok p _ _ _ _ => (none, s.homeWrite p bs)
  | r => (some r, s)

end Sys2Proof.Machine
end

