-- ==== Sys2Proof/Machine/Fatal.lean ====
section
/-! DEFINITION. Interrupt messages (21 R446), the bore log (22 R457 to R460), fault records (10 R231, 21 R442) and the
fatal outcomes (19 R401, R402, 09 R214, 20 R407). -/

namespace Sys2Proof.Machine

/-- Raise an MSI-X vector: the message is sent, or held pending while the vector or the function is masked, or MSI-X is not
enabled (R446). -/
def State.raise (s : State) (v : Nat) : State :=
  match s.regs.msix[v]? with
  | none => s
  | some m =>
    if m.masked || !s.regs.msixOn || s.regs.msixMask then { s with regs := { s.regs with msix := s.regs.msix.set v { m with pending := true } } }
    else { s with out := { s.out with msgs := s.out.msgs ++ [(v, m.addr, m.data)] } }

/-- One bore-log record on a die (R458, R460): bytes first, SEQ and WRSEQ last. -/
def State.bore (s : State) (die type unit ctx data0 data1 : Nat) : State :=
  let d := s.die die
  let seq := d.wrseq
  let bytes := leBytes 4 seq ++ leBytes 2 type ++ leBytes 2 unit ++ leBytes 6 (s.now - d.lclk0) ++ leBytes 2 ctx ++
    leBytes 8 data0 ++ leBytes 8 data1
  s.setDie die { d with log := put (seq % 4096) bytes d.log, wrseq := (seq + 1) % 2 ^ 32 }

/-- Codes of R459. -/
def codeFatalAnswer : Nat := 0x80
def codeEcc : Nat := 0x81
def codeWriteBack : Nat := 0x82
def codeDeadline : Nat := 0x83
def codeLink : Nat := 0x84
def codeDescriptor : Nat := 0x85
def codeRett : Nat := 0x86

/-- A queue bound to a context that met a context-fatal fault (R214): its accepted records are discarded. -/
def Queue.ctxFatal (q : Queue) (ctx : Nat) : Queue :=
  if q.ctx = ctx then
    { q with ctxf := true, cur := none, met := [], ready := none, skip := 0, ids := [], head := q.tail }
  else q

/-- What a miss tag is for once its context has ended: fills are not kept, and copies `gone` have no use for a reply
(R301, R401). -/
def TagUse.endCtx (u : TagUse) (ctx : Nat) (gone : List Nat) : TagUse :=
  match u with
  | .fill w id c va m keep => .fill w id c va m (keep && c != ctx)
  | .copy core ent i write => if gone.contains ent then .dead else .copy core ent i write
  | u => u

/-- A context's request that is not served yet when the context ends performs nothing (R401). -/
def HReq.endCtx (r : HReq) (ctx : Nat) : HReq := if r.ctx == ctx then { r with kind := .void } else r

/-- The same of a base-die request of a removed warp: it writes no byte. -/
def DieReq.endCtx (r : DieReq) (uids : List Nat) : DieReq :=
  match r.by_ with
  | .direct u _ => if uids.contains u then { r with bmask := 0 } else r
  | .slice _ => r
def Msg.endCtx (m : Msg) (ctx : Nat) (uids : List Nat) : Msg :=
  match m with
  | .home sl r => .home sl (r.endCtx ctx)
  | .stack st r => .stack st (r.endCtx uids)
  | m => m

/-- What a core keeps of a context's end (R401): its dirty sectors are discarded, its windows and lanes emptied of the
removed warps, its tiles returned. -/
def Core.dropCtx (c : Core) (ctx : Nat) (uids tiles : List Nat) : Core :=
  { c with l1 := c.l1.filter fun l => l.ctx != ctx,
           windows := c.windows.map fun p => (p.1, p.2.filter fun r => !uids.contains r.w),
           lanes := c.lanes.map fun p => (p.1, p.2.filter fun u => !uids.contains u),
           given := c.given.filter fun t => !tiles.contains t,
           engine := c.engine.filter fun t => !tiles.contains t
           tags := c.tags.map fun (t : MissTag) =>
             { t with use := t.use.endCtx ctx ((c.copy.filter fun e => e.ctx == ctx).map (·.num)) }
           copy := c.copy.filter fun e => e.ctx != ctx }

/-- The tiles that gangs hold on a core. -/
def gangTiles (gs : List Gang) (core : Nat) : List Nat :=
  gs.flatMap fun g => ((g.cores.zip g.tiles).filter fun p => p.1 == core).flatMap (·.2)

/-- Channels of a context that ends: RESET with nothing to restore (R407). -/
def Chan.reset? (c : Chan) (now : Nat) : Chan :=
  { c with state := 6, nsaved := 0, saved := [], walk := [], begun := [], ents := [],
           elapsed := if c.state = 1 || c.state = 2 then (now - c.since) / 1000 else c.elapsed }

/-- Does the channel hold a context's stop or restore under way? -/
def Chan.activeFor (c : Chan) (ctx : Nat) : Bool := c.ctx == ctx && (c.state == 1 || c.state == 2 || c.state == 5)

/-- The context's end as R401 gives it, without the record; it ends on the members of its linked quarries too (R436). -/
def State.endCtx (s : State) (ctx : Nat) : State :=
  let uids := (s.warps.filter fun w => w.ctx == ctx).map (·.uid)
  let gs := s.disp.gangs.filter fun g => g.ctx == ctx
  let qs := (s.quarries.filter fun q => q.ctx == ctx).map (·.id)
  let chs := (List.range 4).filter fun k => match s.chans[k]? with | some c => c.activeFor ctx | none => false
  let s := { s with
    warps := s.warps.filter fun w => w.ctx != ctx
    paused := s.paused.filter fun p => !uids.contains p.1.uid
    cores := s.cores.map fun p => (p.1, p.2.dropCtx ctx uids (gangTiles gs p.1))
    clusters := s.clusters.map fun p => (p.1, { p.2 with
      mx := p.2.mx.dropCtx ctx uids, qd := p.2.qd.dropCtx ctx
      tlb := p.2.tlb.map fun (e : TlbEnt) => if e.ctx = ctx then { e with pins := 0 } else e
      shard := p.2.shard.retire qs })
    quarries := s.quarries.filter fun q => q.ctx != ctx
    slices := s.slices.map fun p => (p.1, { p.2 with queue := p.2.queue.map fun r => r.endCtx ctx })
    hbm := s.hbm.map fun p => (p.1, { p.2 with queue := p.2.queue.map fun r => r.endCtx uids })
    mesh := s.mesh.map fun (f : Flit) => { f with msg := f.msg.endCtx ctx uids }
    env := { s.env with
      members := s.env.members.filter fun m =>
        !s.quarries.any fun q => q.ctx == ctx && q.link && q.lgid == m.lgid && q.members.contains m.dev
      came := s.env.came.filter fun x => x.1 != ctx
      hostReqs := s.env.hostReqs.filter fun x => !(x.ctx == ctx && match x.ask with | .own _ => true | _ => false) }
    disp := { s.disp with
      queues := s.disp.queues.map fun q => q.ctxFatal ctx
      launches := s.disp.launches.filter fun l => l.ctx != ctx
      gangs := s.disp.gangs.filter fun g => g.ctx != ctx }
    chans := s.chans.map fun c => if c.activeFor ctx then c.reset? s.now else c
    regs := { s.regs with ring := { s.regs.ring with
      recs := s.regs.ring.recs.filter fun r => r.ctx != ctx || r.written } } }
  chs.foldl (fun s k => if (s.chans.getD k Chan.reset).irq then s.raise (64 + k) else s) s

/-- A context-fatal fault attributed to an agent on `die` (R401, R459). -/
def State.ctxFatal (s : State) (ctx die unit code data1 : Nat) : State :=
  (s.bore die 0x20 unit ctx code data1).endCtx ctx

/-- A device-fatal fault (R402, R459): every context ends, channels that are not IDLE reset (R407), no launch is
accepted until device reset. -/
def State.deviceFatal (s : State) (code data1 : Nat) : State :=
  let s := (List.range 9).foldl (fun s d => s.bore d 0x21 d 0xFFFF code data1) s
  let ctxs := (s.warps.map (·.ctx) ++ s.disp.gangs.map (·.ctx) ++ s.disp.launches.map (·.ctx) ++ s.quarries.map (·.ctx) ++
    s.disp.queues.map (·.ctx) ++ s.ctxs.map (·.1)).eraseDups
  let s := ctxs.foldl (fun s c => s.endCtx c) s
  let rest := (List.range 4).filter fun k => match s.chans[k]? with
    | some c => c.irq && c.state != 0 && c.state != 6
    | none => false
  let s := { s with chans := s.chans.map fun (c : Chan) => if c.state = 0 then c else c.reset? s.now,
                    regs := { s.regs with deviceFatal := true } }
  (rest.foldl (fun s k => s.raise (64 + k)) s).raise 70

/-- The 32 bytes of a fault record (R231). -/
def faultBytes (va ctx cause kind die seq xid agent : Nat) : List Byte :=
  leBytes 8 va ++ leBytes 2 ctx ++ leBytes 2 (cause + 16 * kind + 256 * die) ++ leBytes 4 seq ++
    leBytes 2 (xid + 2 ^ 14 * agent) ++ leBytes 6 0 ++ leBytes 8 0

/-- A translation fault goes to the fault ring: a record waits to be written, and takes its SEQ then (R231, R442). With
EN = 0 it is FATAL at once. Answers what the agent parks on, or none. -/
def State.faultRecord (s : State) (ctx va cause kind die xid agent : Nat) (who : Parkee) : Option Nat × State :=
  let r := s.regs.ring
  if !r.en then (none, s.ctxFatal ctx die (xid / 512 % 32) codeFatalAnswer va)
  else
    let x : FaultRec := { id := r.next, ctx, who, va, cause, kind, die, xid, agent, seq := 0, written := false,
                          answered := false }
    (some r.next, { s with regs := { s.regs with ring := { r with next := r.next + 1, recs := r.recs ++ [x] } } })

/-- The exchange identity of a warp (R192). -/
def Warp.xid (w : Warp) : Nat := w.wslot + 8 * w.lane + 128 * (w.core % 4) + 512 * (w.core / 4 % 32)
def Warp.die (w : Warp) : Nat := coreDie w.core
def Warp.cluster (w : Warp) : Nat := coreCluster w.core

end Sys2Proof.Machine
end

