-- ==== Sys2Proof/Machine/Cache.lean ====
section
/-! DEFINITION. The L1 caches (10 R220 to R225): lines, tags, room for a line, write-backs and requests to home slices. -/

namespace Sys2Proof.Machine

/-- The first byte of the line of an address. -/
def lineVa (va : Nat) : Nat := va / 128 * 128

/-- The core whose L1 holds an address for a core's accesses, and the set (R220, R225). -/
def State.fusedAt (s : State) (core : Nat) : Bool := (s.cluster (coreCluster core)).fused
def State.l1Core (s : State) (core va : Nat) : Nat := if s.fusedAt core then core / 4 * 4 + fld va 7 2 else core
def State.l1Set (s : State) (core va : Nat) : Nat := if s.fusedAt core then fld va 9 6 else fld va 7 6

/-- The L1 line of a context's address, as core `core` looks it up. -/
def State.l1Line? (s : State) (core ctx va : Nat) : Option L1Line :=
  (s.core (s.l1Core core va)).l1.find? fun l => l.ctx == ctx && l.va == lineVa va

/-- Put a line into its L1 as the most recently used. -/
def State.l1Put (s : State) (core : Nat) (l : L1Line) : State :=
  let k := s.l1Core core l.va
  let c := s.core k
  s.setCore k { c with l1 := l :: c.l1.filter fun x => !(x.ctx == l.ctx && x.va == l.va) }

/-- Take a line out of its L1. -/
def State.l1Drop (s : State) (core ctx va : Nat) : State :=
  let k := s.l1Core core va
  let c := s.core k
  s.setCore k { c with l1 := c.l1.filter fun x => !(x.ctx == ctx && x.va == lineVa va) }

/-- An empty line. -/
def L1Line.empty (ctx va : Nat) : L1Line :=
  { ctx, va := lineVa va, valid := 0, dirty := 0, held := false, data := List.replicate 128 0 }

/-! Tags (R224). -/

/-- The lowest free miss tag of a core. -/
def Core.freeTag (c : Core) : Option Nat := (List.range 256).find? fun t => !c.tags.any fun x => x.tag == t

/-- Fills of a line that are under way are not to be kept: the line is invalidated, written at home or evicted. -/
def TagUse.unkeep (u : TagUse) (ctx va : Nat) : TagUse :=
  match u with
  | .fill w id c v m _ => if c == ctx && v == lineVa va then .fill w id c v m false else u
  | u => u
def State.unkeep (s : State) (core ctx va : Nat) : State :=
  (List.range 4).foldl (fun s j =>
    let k := if s.fusedAt core then core / 4 * 4 + j else core
    if (s.core k).tags.isEmpty then s
    else
      let c := s.core k
      s.setCore k { c with tags := c.tags.map fun t => { t with use := t.use.unkeep ctx va } }) s

/-- The code cache is invalidated (R215): lines on their way are not kept either. -/
def Core.dropCode (c : Core) : Core :=
  { c with code := [], tags := c.tags.map fun (t : MissTag) => match t.use with
      | .code who va _ => { t with use := .code who va false }
      | _ => t }

/-- Is a write-through store of the line under way from these cores? -/
def TagUse.storing (u : TagUse) (ctx va : Nat) : Bool :=
  match u with
  | .stored _ _ c v => c == ctx && v == lineVa va
  | _ => false
def State.storing (s : State) (core ctx va : Nat) : Bool :=
  (List.range 4).any fun j =>
    let k := if s.fusedAt core then core / 4 * 4 + j else core
    (s.core k).tags.any fun t => t.use.storing ctx va

/-- Send a request to the home slice of its line with a tag of core `k` (R224, R234): none when no tag is free, or when
the slice, on the core's own die, has no free slot (R235). -/
def State.request (s : State) (k : Nat) (use : TagUse) (ctx va : Nat) (p : Phys) (kind : HKind) (sectors : Nat)
    (bytes : List (Nat × Byte)) (nt : Bool) : Option (Nat × State) :=
  let c := s.core k
  match c.freeTag with
  | none => none
  | some t =>
    let line := p.pa / 128
    let r : HReq := { core := k, tag := t, ctx, va := lineVa va, tgt := p.tgt, line, kind, sectors, bytes, nt,
                      pending := [], phase := 0 }
    let sl := homeOf line
    if coreDie k = sliceDie sl && (s.slice sl).full then none
    else some (t, (s.setCore k { c with tags := c.tags ++ [{ tag := t, use }] }).send (coreDie k) (sliceDie sl) (.home sl r))

/-- R243: bytes written at the home slice also reach the sectors of the line that are valid in the writer's L1. -/
def State.patchL1 (s : State) (core ctx va : Nat) (bytes : List (Nat × Byte)) : State :=
  match s.l1Line? core ctx va with
  | none => s
  | some l =>
    let k := s.l1Core core va
    let c := s.core k
    let l' := { l with data := patch l.data (bytes.filter fun b => bit l.valid (b.1 / 16)) }
    s.setCore k { c with l1 := c.l1.map fun x => if x == l then l' else x }

/-- What a store of an engine or of the part does to the L1 of the core that makes it, as a `.CG` store at the home slice
(R243, R346, R393). -/
def State.cgL1 (s : State) (core ctx va : Nat) (bs : List Byte) : State :=
  (byLine va bs).foldl (fun s l => (s.unkeep core ctx (l.1 * 128)).patchL1 core ctx (l.1 * 128) l.2) s

/-- Such a store: at the home slice, and in the valid sectors of the L1. -/
def State.cgWrite (s : State) (core ctx va : Nat) (p : Phys) (bs : List Byte) : State :=
  (s.homeWrite p bs).cgL1 core ctx va bs

/-! Write-backs (R222, R223). -/

/-- What an attempt at a write-back came to. -/
inductive WbRes where
  | sent (core tag : Nat)
  | noTag
  | fault
  deriving DecidableEq, Repr

/-- The bytes of the sectors of `mask`, at their offsets. -/
def sectorBytes (data : List Byte) (mask : Nat) : List (Nat × Byte) :=
  ((List.range 128).filter fun i => bit mask (i / 16)).map fun i => (i, data.getD i 0)

/-- The translation of a write-back (R223): without the privilege check. -/
def State.wbPlace (s : State) (core ctx va : Nat) : Option Phys × State :=
  match s.access (some core) (coreCluster core) (coreDie core) ctx va .store true false with
  | (.ok p _ _ _ _, s) => (some p, s)
  | (_, s) => (none, s)

/-- Write back the sectors of `mask` of a line, which become clean; a line whose page cannot be written is held. -/
def State.writeBack (s : State) (core : Nat) (l : L1Line) (mask : Nat) : WbRes × State :=
  let k := s.l1Core core l.va
  match s.wbPlace k l.ctx l.va with
  | (none, s) => (.fault, s.l1Put core { l with held := true })
  | (some p, s) =>
    match s.request k .wback l.ctx l.va p (.write true) mask (sectorBytes l.data mask) false with
    | none => (.noTag, s)
    | some (t, s) => (.sent k t, s.l1Put core { l with dirty := smDiff l.dirty mask, held := false })

/-- What making room came to. -/
inductive Room where
  | ok | bypass | wait
  deriving DecidableEq, Repr

/-- Evict the first of `vs`, least recently used first, that can go. -/
def State.evictOne (s : State) (core : Nat) : List L1Line → Room × State
  | [] => (.bypass, s)
  | l :: vs =>
    if s.storing core l.ctx l.va then
      match s.evictOne core vs with
      | (.bypass, s) => (.wait, s)
      | r => r
    else if l.dirty = 0 then (.ok, (s.l1Drop core l.ctx l.va).unkeep core l.ctx l.va)
    else
      match s.writeBack core l l.dirty with
      | (.sent _ _, s) => (.ok, (s.l1Drop core l.ctx l.va).unkeep core l.ctx l.va)
      | (.noTag, s) => (.wait, s)
      | (.fault, s) => s.evictOne core vs

/-- Make room for the line of an address (R220 to R223): `bypass` when every way of the set is held. -/
def State.makeRoom (s : State) (core ctx va : Nat) : Room × State :=
  if (s.l1Line? core ctx va).isSome then (.ok, s)
  else
    let set := (s.core (s.l1Core core va)).l1.filter fun l => s.l1Set core l.va == s.l1Set core va
    if set.length < 8 then (.ok, s) else s.evictOne core (set.reverse.filter fun l => !l.held)

/-- The dirty lines that a release or `.ALL` form covers: the core's L1, all four in fused mode (R257, R261). -/
def State.l1Lines (s : State) (core : Nat) : List (Nat × L1Line) :=
  (List.range 4).flatMap fun j =>
    let k := core / 4 * 4 + j
    if s.fusedAt core || k == core then (s.core k).l1.map fun l => (k, l) else []

/-- Invalidate the sectors of `mask` of a line; a line with none left goes. -/
def State.l1Invalidate (s : State) (core ctx va mask : Nat) : State :=
  let s := s.unkeep core ctx va
  match s.l1Line? core ctx va with
  | none => s
  | some l =>
    let k := s.l1Core core va
    let c := s.core k
    let l' := { l with valid := smDiff l.valid mask, dirty := smDiff l.dirty mask }
    s.setCore k { c with l1 := (c.l1.map fun x => if x == l then l' else x).filter fun x => x.valid != 0 || x.held }

/-- The acquire part's invalidation (R257): every clean valid sector. -/
def State.l1Acquire (s : State) (core : Nat) : State :=
  (List.range 4).foldl (fun s j =>
    let k := core / 4 * 4 + j
    if s.fusedAt core || k == core then
      let c := s.core k
      s.setCore k { c with
        l1 := (c.l1.map fun (x : L1Line) => { x with valid := x.dirty }).filter fun x => x.valid != 0 || x.held
        tags := c.tags.map fun (t : MissTag) => match t.use with
          | .fill w id cx v m _ => { t with use := .fill w id cx v m false }
          | _ => t }
    else s) s

end Sys2Proof.Machine
end

