-- ==== Sys2Proof/Machine/Operands.lean ====
section
/-! DEFINITION. Reading and writing registers and predicates, register forms and last-read marks (R11 to R13, R62,
R67, R68, R153 to R156), guards and participants (R18, R172), and every operand kind's value. -/

namespace Sys2Proof.Machine

/-- The value of a v-register in thread `t` (R153). -/
def VReg.read (r : VReg) (t : Nat) : Word :=
  match r with
  | .unalloc => 0
  | .uniform u => u
  | .affine b s => b + s * BitVec.ofNat 32 t
  | .general l => nth l t

/-- Physical registers a form holds (R153). -/
def VReg.cost : VReg → Nat
  | .unalloc => 0
  | .uniform _ => 1
  | .affine _ _ => 2
  | .general _ => 32

/-- The v-register `k` of a warp; v63 is not stored and reads 0 (R11). -/
def Warp.vreg (w : Warp) (k : Nat) : VReg := w.v.getD k .unalloc

/-- The 32-bit register a code of R62 names, as thread `t` reads it. -/
def Warp.reg (w : Warp) (code t : Nat) : Word :=
  if code < 63 then (w.vreg code).read t
  else if code = 63 then 0
  else if code < 127 then nth w.s (code - 64)
  else 0

/-- Predicate `n` of thread `t`; p0 reads 1 (R11). -/
def Warp.pred (w : Warp) (n t : Nat) : Bool := if n = 0 then true else has (w.p.getD (n - 1) 0) t

/-- `n` consecutive registers as one number, the lowest register least significant (R13). -/
def Warp.wide (w : Warp) (code t : Nat) : Nat → Nat
  | 0 => 0
  | n + 1 => (w.reg code t).toNat + 2 ^ 32 * Warp.wide w (code + 1) t n

/-- Threads that have not exited. -/
def Warp.live (w : Warp) : Mask := ~~~w.exited

/-- The slot `k` of a warp (R146). -/
def Slot.none : Slot := { pc := 0, mask := 0, epc := 0, emask := 0, trap := .none, wait := .none, last := 0, prev := 0 }
def Warp.slot (w : Warp) (k : Nat) : Slot := w.slots.getD k Slot.none
def Warp.setSlot (w : Warp) (k : Nat) (x : Slot) : Warp := { w with slots := w.slots.set k x }

/-! Writing. -/

/-- The shape of a result before the covering rule (R154). -/
inductive Shape where
  | uni | aff | gen
  deriving DecidableEq, Repr

/-- The operation classes of R86 and R112. -/
inductive OpClass where
  /-- Uniform when every source is. -/
  | plain
  /-- Add or subtract, shift-left, multiply. -/
  | addSub | shl | mul
  /-- Always general. -/
  | gen
  deriving DecidableEq, Repr

/-- The shape of a register as a source: s-registers and unallocated registers count as uniform (R154). -/
def Warp.shape (w : Warp) (code : Nat) : Shape :=
  if code < 63 then
    match w.vreg code with
    | .unalloc | .uniform _ => .uni
    | .affine _ _ => .aff
    | .general _ => .gen
  else .uni

/-- R154. -/
def resultShape (c : OpClass) (srcs : List Shape) : Shape :=
  if c == .gen then .gen
  else if srcs.all (· == .uni) then .uni
  else match c, srcs with
    | .addSub, [.aff, .uni] => .aff
    | .addSub, [.uni, .aff] => .aff
    | .mul, [.aff, .uni] => .aff
    | .mul, [.uni, .aff] => .aff
    | .shl, [.aff, .uni] => .aff
    | _, _ => .gen

/-- A v-register's new contents (R155): compact when the result is and the write covers every thread not exited;
otherwise general, uncovered threads keeping what they read. `vals` are the 32 threads' values. -/
def VReg.write (old : VReg) (sh : Shape) (cover live : Mask) (vals : List Word) : VReg :=
  if sh != .gen && (live &&& ~~~cover) == 0 then
    let b := nth vals 0
    let st := nth vals 1 - b
    if sh == .uni || st == 0 then .uniform b else .affine b st
  else .general ((List.range 32).map fun t => if has cover t then nth vals t else old.read t)

/-- Write one 32-bit register in v-space; v63 discards (R11). -/
def Warp.writeV (w : Warp) (k : Nat) (sh : Shape) (cover : Mask) (vals : List Word) : Warp :=
  if cover == 0 then w else { w with v := w.v.modify k fun old => old.write sh cover w.live vals }

/-- Write an s-register; s63 discards. -/
def Warp.writeS (w : Warp) (k : Nat) (v : Word) : Warp := { w with s := w.s.set k v }

/-- Write predicate `n` in the threads of `cover`; p0 discards. -/
def Warp.writeP (w : Warp) (n : Nat) (cover vals : Mask) : Warp :=
  if n = 0 then w else { w with p := w.p.modify (n - 1) fun old => (old &&& ~~~cover) ||| (vals &&& cover) }

/-- Write the register a code names: v-space by thread, s-space the value of the lowest thread covered (R63, R153). -/
def Warp.writeCode (w : Warp) (code : Nat) (sh : Shape) (cover : Mask) (vals : List Word) : Warp :=
  if code < 64 then w.writeV code sh cover vals
  else match lowest cover with
    | none => w
    | some t => w.writeS (code - 64) (nth vals t)

/-- Write `n` consecutive registers from numbers, the low part first (R13). -/
def Warp.writeWide (w : Warp) (code : Nat) (sh : Shape) (cover : Mask) : Nat → List Nat → Warp
  | 0, _ => w
  | n + 1, vals =>
    (w.writeCode code sh cover (vals.map fun v => BitVec.ofNat 32 v)).writeWide (code + 1) sh cover n
      (vals.map fun v => v / 2 ^ 32)

/-- One write that a reply makes. -/
def Warp.applyWrite (w : Warp) (x : RegWrite) : Warp :=
  match x with
  | .v code vals =>
    w.writeV code .gen (maskOf (vals.map (·.1)) &&& w.live)
      ((List.range 32).map fun t => ((vals.find? fun p => p.1 == t).map (·.2)).getD 0)
  | .s code val => w.writeS code val
  | .p code cover vals => w.writeP code (cover &&& w.live) vals

/-- Free the v-register of a last-read mark (R68, R156); marks on s-registers and v63 do nothing (R67). -/
def Warp.free (w : Warp) (code : Nat) : Warp := { w with v := w.v.set code .unalloc }

/-- The codes that an instruction's marks name, its fields A and B being codes `a` and `b` (R67). -/
def markCodes (h : Hdr) (a b : Nat) : List Nat :=
  match h.e2 with
  | none => []
  | some m =>
    (if m.la then [a] else []) ++ (if m.lb then [b] else []) ++ (if m.lt then [h.ext.ts.toNat] else []) ++
      (if m.xe1 then [m.xr1.toNat] else []) ++ (if m.xe2 then [m.xr2.toNat] else [])

/-- Physical registers a warp holds (R156). -/
def Warp.held (w : Warp) : Nat := w.v.foldl (fun a r => a + r.cost) 0

/-! Guards and sources. -/

/-- Is thread `t`'s guard true (R18)? -/
def Warp.guard (w : Warp) (h : Hdr) (t : Nat) : Bool := w.pred h.ext.gp.toNat t != h.ext.gn

/-- R172: the active threads of the slot whose guard is true. -/
def Warp.participants (w : Warp) (slot : Nat) (h : Hdr) : Mask :=
  maskWhere fun t => has (w.slot slot).mask t && w.guard h t

/-- A source of an instruction: `n` registers from a code, a constant, or a predicate. -/
inductive Src where
  | reg (code n : Nat)
  | imm (v : Nat)
  | pred (n : Nat)
  deriving DecidableEq, Repr

/-- Its value in thread `t` (R83). -/
def Src.val (w : Warp) (t : Nat) : Src → Nat
  | .reg code n => w.wide code t n
  | .imm v => v
  | .pred n => b2n (w.pred n t)

/-- Its shape (R154): a pair is uniform when both its registers are; a predicate is per thread. -/
def Src.shape (w : Warp) : Src → Shape
  | .reg code n =>
    if n = 1 then w.shape code
    else if (regSpan code n).all fun c => w.shape c == .uni then .uni else .gen
  | .imm _ => .uni
  | .pred n => if n = 0 then .uni else .gen

/-- The third source: a register of the kind-00 word, else the zero of its width (R65). -/
def tsReg (h : Hdr) (n : Nat) : Src :=
  match h.e0 with
  | some e => .reg e.ts.toNat n
  | none => .imm 0

/-- The third source as a predicate: pt by default (R65). -/
def tsPred (h : Hdr) : Src := .pred h.ext.ts.toNat

/-- The value of a 10-bit immediate, sign- or zero-extended, or joined with IH (R64). -/
def kImm (h : Hdr) (imm : BitVec 10) (sx : Bool) : Nat :=
  match h.e1 with
  | some v => v.toNat * 1024 + imm.toNat
  | none => if sx then (imm.signExtend 32).toNat else imm.toNat

/-- The displacement of BRA and CALL: 24 bits signed, or 46 bits signed with IH (R64). -/
def jDisp (h : Hdr) (disp : BitVec 24) : Int :=
  match h.e1 with
  | some v => sval 46 (v.toNat * 2 ^ 24 + disp.toNat)
  | none => sval 24 disp.toNat

/-- The signed byte offset of an address (R96). -/
def ihOff (h : Hdr) : Int := sval 22 h.ih

end Sys2Proof.Machine
end

