-- ==== Sys2Proof/Machine/Flags.lean ====
section
/-! DEFINITION. The sticky flags of fsr (01 R15) and the FP exception trap they may raise (05 R111, 08 R193). -/

namespace Sys2Proof.Machine

/-- OR flags, given by thread, into fsr (R111). -/
def Warp.orFlags (w : Warp) (fl : List (Nat × Nat)) : Warp :=
  { w with fsr := fl.foldl (fun l p => l.modify p.1 fun x => x ||| BitVec.ofNat 32 (p.2 % 32)) w.fsr }

/-- The enable bits of tmask for the five flags (R193). -/
def Warp.enables (w : Warp) : Nat := w.tmask.toNat % 32

/-- The threads that raised an enabled flag, and the enabled flags raised (R111, R394). -/
def trapThreads (w : Warp) (fl : List (Nat × Nat)) : Mask :=
  maskOf ((fl.filter fun p => Nat.land p.2 w.enables != 0).map (·.1))
def trapFlags (w : Warp) (fl : List (Nat × Nat)) : Nat :=
  fl.foldl (fun a p => Nat.lor a (Nat.land p.2 w.enables)) 0

/-- The flags a 32-bit fsr holds; bits 31:5 read 0 (R15). -/
def fsrMask (v : Word) : Word := v &&& 0x1F

end Sys2Proof.Machine
end

