-- ==== Sys2Proof/Machine/Ops.lean ====
section
/-! DEFINITION. What every instruction goes through: the issuing warp, writing results, retiring (R16 to R19), PC
slots and the divergence stack (R146 to R152), regions (R384 to R387), and taking a trap (R390 to R394). -/

namespace Sys2Proof.Machine

/-! Warps by number. -/

def State.warp? (s : State) (uid : Nat) : Option Warp := s.warps.find? fun w => w.uid == uid
/-- Replace the warp of the same number. -/
def State.setWarp (s : State) (w : Warp) : State :=
  { s with warps := s.warps.map fun x => if x.uid == w.uid then w else x }
def State.modWarp (s : State) (uid : Nat) (f : Warp → Warp) : State :=
  { s with warps := s.warps.map fun x => if x.uid == uid then f x else x }

/-- The issuing instruction and its warp. -/
def State.cur (s : State) : Option (Issue × Warp) :=
  match s.issue with
  | none => none
  | some c => (s.warp? c.uid).map fun w => (c, w)

/-- The warp that sources are read from: as it stood when the chain was granted (R19). -/
def Issue.src (c : Issue) (w : Warp) : Warp := c.snap.getD w

/-- Address of the issuing word (R393). -/
def Issue.fpc (c : Issue) : DWord := c.pkt + BitVec.ofNat 64 (4 * c.wslot)

/-- Cycles for which the warp has been resident (R192, R416). -/
def State.wtime (s : State) (w : Warp) : Nat :=
  (w.wtime0 + match w.since with | some t => s.now - t | none => 0) % 2 ^ 64

/-- Make a warp the youngest of its lane and restart its count (R165, R166). -/
def State.youngest (s : State) (uid : Nat) : State :=
  match s.warp? uid with
  | none => s
  | some w =>
    let c := s.core w.core
    let l := (look w.lane c.lanes).getD []
    (s.setCore w.core { c with lanes := put w.lane ((l.filter (· != uid)) ++ [uid]) c.lanes }).modWarp uid
      fun w => { w with grants := 0 }

/-! Translation of earlier accesses (R384) and boundaries (R385 to R387). -/

/-- Has the warp an access granted before number `n` that has not passed translation, or has met a walk fault that is
not handled yet? -/
def Warp.unwalked (w : Warp) (n : Nat) : Bool :=
  (w.accs.any fun a => a.seq < n && (!a.walked || a.fault.isSome)) ||
    (w.sq.any fun e => e.seq < n && (!e.walked || e.fault.isSome))

/-- Release the held entries granted before number `n` (R281, R387). -/
def Warp.release (w : Warp) (n : Nat) : Warp :=
  { w with sq := w.sq.map fun e => if e.seq < n then { e with held := false } else e }

/-- Begin a region in slot `k`. -/
def Warp.region (w : Warp) (k : Nat) (r : Option (DWord × Mask)) : Warp :=
  match r with
  | none => w
  | some (pc, m) => w.setSlot k { w.slot k with epc := pc, emask := m }

/-- Boundaries take effect in order, each once every access granted before it has passed translation. -/
def Warp.applyBnds (w : Warp) : List Boundary → Warp
  | [] => { w with bnds := [] }
  | b :: bs =>
    if w.unwalked b.seq then { w with bnds := b :: bs }
    else (((w.release b.seq).region 0 b.r0).region 1 b.r1).applyBnds bs
def Warp.settleBnds (w : Warp) : Warp := w.applyBnds w.bnds

/-- A boundary after the accesses granted before number `n`: slot `k` begins its region at `pc` with mask `m`, and the
other slot at its next instruction (R387). -/
def Warp.boundary (w : Warp) (n k : Nat) (pc : DWord) (m : Mask) : Warp :=
  let o := w.slot (1 - k)
  let other := if o.mask == 0 then none else some (o.pc, o.mask)
  let b : Boundary := if k = 0 then ⟨n, some (pc, m), other⟩ else ⟨n, other, some (pc, m)⟩
  { w with bnds := w.bnds ++ [b] }.settleBnds

/-! PC slots, divergence stack, rejoin registers. -/

/-- Group threads by next PC, groups in order of their lowest thread (R147). -/
def groupBy : List (DWord × Nat) → List (DWord × Mask)
  | [] => []
  | (pc, t) :: r =>
    let gs := groupBy r
    let mine := (gs.find? fun g => g.1 == pc).map (·.2)
    (pc, mine.getD 0 ||| maskOf [t]) :: gs.filter fun g => g.1 != pc

/-- Is slot `k` frozen (R390)? -/
def Warp.frozen (w : Warp) (k : Nat) : Bool :=
  match w.handler with
  | some h => k != h.slot
  | none => false

/-- May a group be placed in slot `k`? -/
def Warp.slotFree (w : Warp) (k : Nat) : Bool := (w.slot k).mask == 0 && !w.frozen k && (w.slot k).wait.isNone

/-- Put a group into a slot, which begins a region there (R385). -/
def Warp.place (w : Warp) (k : Nat) (g : DWord × Mask) : Warp :=
  w.setSlot k { w.slot k with pc := g.1, mask := g.2, epc := g.1, emask := g.2 }

/-- R147: the groups an instruction of slot `k` leaves. -/
def Warp.placeGroups (w : Warp) (k : Nat) (gs : List (DWord × Mask)) : Warp :=
  match gs with
  | [] => w.setSlot k { w.slot k with mask := 0 }
  | [g] => w.setSlot k { w.slot k with pc := g.1, mask := g.2 }
  | g :: g' :: rest =>
    let w := w.setSlot k { w.slot k with pc := g.1, mask := g.2 }
    if w.slotFree (1 - k) then { w.place (1 - k) g' with pend := w.pend ++ rest.reverse }
    else { w with pend := w.pend ++ (g' :: rest).reverse }

/-- R150, completion: a rejoin register all of whose enrolled threads have arrived releases them. -/
def Rejoin.complete (r : Rejoin) : Bool := r.ar != 0 && (r.en &&& ~~~r.ar) == 0
def Rejoin.none : Rejoin := ⟨0, 0, 0⟩

/-- R151: a released group goes to an empty slot, slot 0 first, else to the stack. -/
def Warp.releaseGroup (w : Warp) (g : DWord × Mask) : Warp :=
  if w.slotFree 0 then w.place 0 g
  else if w.slotFree 1 then w.place 1 g
  else { w with pend := w.pend ++ [g] }

/-- The completion test on every rejoin register (R150), in ascending number. -/
def Warp.testRejoins (w : Warp) : Warp :=
  (List.range 8).foldl (fun w k =>
    let r := w.rj.getD k Rejoin.none
    if r.complete then { w.releaseGroup (r.rp, r.ar) with rj := w.rj.set k Rejoin.none } else w) w

/-- Strike threads from a rejoin register (R150). -/
def Rejoin.strike (r : Rejoin) (m : Mask) : Rejoin := { r with en := r.en &&& ~~~m, ar := r.ar &&& ~~~m }

/-- Base of the warp control area (R149) and address of the trap record (R393). -/
def Warp.control (w : Warp) : Nat := (w.pvbase.toNat + 32 * w.psize) % 2 ^ 64
def Warp.trec (w : Warp) : Nat := (w.control + 8768) % 2 ^ 64

/-- A fault of the lane's own access (R149): a translation fault parks the warp, a permission fault is
context-fatal. -/
def State.laneFault (s : State) (w : Warp) (va kind : Nat) (r : WalkRes) : State :=
  match r with
  | .fault cause =>
    match s.faultRecord w.ctx va cause kind w.die w.xid 0 (.control w.uid) with
    | (some id, s) => s.modWarp w.uid fun w => { w with park := { w.park with faults := w.park.faults ++ [id] } }
    | (none, s) => s
  | _ => s.ctxFatal w.ctx w.die (w.core % 128) 13 va

/-- Bytes of the control area, read as a load of the warp would be translated (R149). -/
def State.laneRead (s : State) (w : Warp) (va n : Nat) : (WalkRes ⊕ List Byte) × State :=
  s.readVirt (some w.core) w.cluster w.die w.ctx .load w.handler.isSome n (va % 2 ^ 64) []

/-- Write bytes in the control area, within one page, translated as a store of the warp would be (R149) and made as a
`.CG` store (R393); answers whether they are written. -/
def State.lanePage (s : State) (w : Warp) (va : Nat) (bs : List Byte) : Bool × State :=
  match s.writeVirt (some w.core) w.cluster w.die w.ctx w.handler.isSome va bs with
  | (none, s) => (true, s.cgL1 w.core w.ctx va bs)
  | (some r, s) => (false, s.laneFault w va 1 r)

/-- Write bytes in the control area, page by page. -/
def State.laneWrite (s : State) (w : Warp) (va : Nat) (bs : List Byte) : Bool × State :=
  let n := 32768 - va % 32768
  if bs.length ≤ n then s.lanePage w (va % 2 ^ 64) bs
  else
    match s.lanePage w (va % 2 ^ 64) (bs.take n) with
    | (true, s) => s.lanePage w ((va + n) % 2 ^ 64) (bs.drop n)
    | r => r

/-- Runs of bytes written one after another, up to the first that faults. -/
def State.laneWrites (s : State) (w : Warp) : List (Nat × List Byte) → Bool × State
  | [] => (true, s)
  | (va, bs) :: rest =>
    match s.laneWrite w va bs with
    | (true, s) => s.laneWrites w rest
    | (false, s) => (false, s)

/-- Threads of the warp that stand somewhere: in a slot, parked or exited, or waiting to be pushed (R146). -/
def Warp.placed (w : Warp) : Mask :=
  w.exited ||| (w.slot 0).mask ||| (w.slot 1).mask ||| (w.rj.foldl (fun m r => m ||| r.ar) 0) |||
    (w.pend.foldl (fun m g => m ||| g.2) 0)

/-- The masks of the entries left on the divergence stack below `depth`, as memory holds them. -/
def State.stackMasks (s : State) (w : Warp) (depth : Nat) : Mask :=
  (List.range depth).foldl (fun m j =>
    match s.laneRead w (w.control + 16 * j + 8) 4 with
    | (.inr bs, _) => m ||| BitVec.ofNat 32 (leNat bs)
    | (.inl _, _) => m) 0

/-- An illegal-instruction trap attributed to the instruction that retired last (R149, R152): its threads stand in
slot `k`, to resume at `pc`. -/
def Warp.lateTrap (w : Warp) (k : Nat) (pc rpc : DWord) (m : Mask) : Warp :=
  let l := w.lastIns
  let t : TrapReq :=
    { cls := 1, mask := m, fpc := l.fpc, npc := l.npc, rpc := rpc, bpc := rpc, word := l.wslot, va := 0,
      info := l.word.toNat, replay := false, seq := w.seq }
  w.setSlot k { w.slot k with pc := pc, mask := m, epc := pc, emask := m, trap := some t }

/-- One push or pop of the divergence stack (R148, R149): `none` when nothing is left to do. -/
def State.stackStep (s : State) (uid : Nat) : Option State :=
  match s.warp? uid with
  | none => none
  | some w =>
    match w.pend with
    | g :: rest =>
      let bytes := leBytes 8 g.1.toNat ++ leBytes 4 g.2.toNat ++ leBytes 4 0
      match s.laneWrite w (w.control + 16 * w.depth) bytes with
      | (false, _) => none
      | (true, s) =>
        match s.laneWrite w (w.control + 480) (leBytes 4 (w.depth + 1)) with
        | (false, _) => none
        | (true, s) => some (s.modWarp uid fun w => { w with pend := rest, depth := w.depth + 1 })
    | [] =>
      let base := match w.handler with | some h => h.base | none => 0
      let k := if w.slotFree 0 then some 0 else if w.slotFree 1 then some 1 else none
      match k with
      | none => none
      | some k =>
        if w.depth ≤ base then none
        else
          let d := w.depth - 1
          match s.laneRead w (w.control + 16 * d) 16 with
          | (.inl _, _) => none
          | (.inr bs, s) =>
            match s.laneWrite w (w.control + 480) (leBytes 4 d) with
            | (false, _) => none
            | (true, s) =>
              let pc := BitVec.ofNat 64 (leNat (bs.take 8))
              let m : Mask := BitVec.ofNat 32 (leNat ((bs.drop 8).take 4))
              let others := w.placed ||| s.stackMasks w d
              let w := { w with depth := d }
              if m == 0 || pc.toNat % 4 != 0 || leNat (bs.drop 12) != 0 || (m &&& others) != 0 then
                let free := m &&& ~~~others
                if free == 0 then some (s.ctxFatal w.ctx w.die (w.core % 128) 1 w.lastIns.fpc.toNat)
                else some (s.setWarp (w.lateTrap k pc pc free))
              else some (s.setWarp (w.place k (pc, m)))

/-- The fault that stopped a push or pop, recorded: the warp parks and the step is made again after RESUME (R149). -/
def State.stackFault (s : State) (uid : Nat) : State :=
  match s.warp? uid with
  | none => s
  | some w =>
    match w.pend with
    | _ :: _ =>
      match s.laneWrite w (w.control + 16 * w.depth) (List.replicate 16 0) with
      | (false, s) => s
      | (true, _) => (s.laneWrite w (w.control + 480) (leBytes 4 w.depth)).2
    | [] =>
      let base := match w.handler with | some h => h.base | none => 0
      if (w.slotFree 0 || w.slotFree 1) && base < w.depth then
        match s.laneRead w (w.control + 16 * (w.depth - 1)) 16 with
        | (.inl r, s) => s.laneFault w (w.control + 16 * (w.depth - 1)) 0 r
        | (.inr _, _) => (s.laneWrite w (w.control + 480) (leBytes 4 w.depth)).2
      else s

/-- Pushes and pops until none is left; at most 64 are ever due. -/
def State.stackLoop (s : State) (uid : Nat) : Nat → State
  | 0 => s
  | n + 1 =>
    match s.stackStep uid with
    | some s' => s'.stackLoop uid n
    | none => s.stackFault uid

/-- R391: the handler's slot is empty and nothing of the handler is left on the stack: the handler ends, its bystanders
stand at BPC. -/
def Warp.endHandler (w : Warp) : Warp :=
  match w.handler with
  | none => w
  | some h =>
    if (w.slot h.slot).mask == 0 && w.depth ≤ h.base && w.pend.isEmpty && (w.slot h.slot).trap.isNone then
      let bmask : Mask := (w.trapRegs.getD 5 0).setWidth 32 &&& w.live
      let bpc := w.trapRegs.getD 4 0
      let w := { w with handler := none }
      let o := w.slot (1 - h.slot)
      let w := w.region (1 - h.slot) (if o.mask == 0 then none else some (o.pc, o.mask))
      if bmask == 0 then w else w.place h.slot (bpc, bmask)
    else w

/-- R152: both slots empty, nothing on the stack, and threads parked: the threads that the last instruction parked trap. Where it
parked none, it is context-fatal with code 1 (log entry 47). -/
def State.deadPark (s : State) (uid : Nat) : State :=
  match s.warp? uid with
  | none => s
  | some w =>
    let parked := w.rj.foldl (fun m r => m ||| r.ar) 0
    if (w.slot 0).mask == 0 && (w.slot 1).mask == 0 && w.depth == 0 && w.pend.isEmpty && w.handler.isNone &&
        parked != 0 && w.park.faults.isEmpty then
      let m := w.lastIns.parked &&& parked
      if m == 0 then s.ctxFatal w.ctx w.die (w.core % 128) 1 w.lastIns.fpc.toNat
      else
        let w := { w with rj := w.rj.map fun (r : Rejoin) => { r with ar := r.ar &&& ~~~m } }
        s.setWarp (w.lateTrap w.lastIns.slot w.lastIns.fpc w.lastIns.fpc m)
    else s

/-- R148, steps 2 and 3, with R391 and R152. -/
def State.settle (s : State) (uid : Nat) : State :=
  let s := s.stackLoop uid 64
  let s := s.modWarp uid Warp.endHandler
  let s := s.stackLoop uid 64
  s.deadPark uid

/-! Traps. -/

/-- The bystanders (R390). -/
def bystanders (sl : Slot) (t : TrapReq) : Mask :=
  let here := if t.replay then sl.emask else sl.mask
  if here &&& t.mask == 0 then 0 else here &&& ~~~t.mask

/-- The handler threads (R390): those of MASK that stand in the slot, or, when none does, the slot's threads (log
entry 9). -/
def handlerThreads (sl : Slot) (t : TrapReq) : Mask :=
  let here := if t.replay then sl.emask else sl.mask
  if here &&& t.mask == 0 then here else here &&& t.mask

/-- The trap record's first eleven doublewords (R393); MASK names the threads that raised the trap (R383), active or not
(R128). -/
def trapWords (w : Warp) (k : Nat) (t : TrapReq) (bmask : Mask) : List Nat :=
  let sl := w.slot k
  let o := w.slot (1 - k)
  [ t.cls + 256 * k + 512 * b2n t.replay + 1024 * t.word + 2 ^ 32 * t.mask.toNat, t.fpc.toNat, t.npc.toNat,
    t.rpc.toNat, t.bpc.toNat, bmask.toNat + 2 ^ 32 * sl.emask.toNat, sl.epc.toNat, t.va, t.info, o.pc.toNat,
    o.mask.toNat ]

/-- Has the stop walk reached a warp (R410): its slots are granted nothing and its traps are held? -/
def State.stopped (s : State) (w : Warp) : Bool :=
  s.chans.any fun c => c.state == 2 && c.walk.any fun x => x.1 == w.gang && 4 ≤ x.2

/-- Does slot 0's trap go before one of slot `k` (R392)? -/
def Warp.trapFirst (w : Warp) (k : Nat) : Bool :=
  k != 0 && (w.slot 0).trap.isSome && (w.slot 0).wait.isNone && !w.frozen 0

/-- Taking the trap of slot `k` (R390), once every access granted before it in its slot (R384), and every access of the
warp, whose held entries it releases (R387), has passed translation: with no handler installed, or at handler privilege,
it is context-fatal (R390, R391); in a frozen slot it is held, and slot 0's goes first (R392). -/
def State.takeTrap (s : State) (uid k : Nat) : State :=
  match s.warp? uid with
  | none => s
  | some w =>
    let sl := w.slot k
    match sl.trap with
    | none => s
    | some t =>
      if w.unwalked t.seq || w.unwalked (w.seq + 1) || s.stopped w || w.frozen k || !w.pend.isEmpty || sl.wait.isSome ||
          w.trapFirst k then s
      else if w.handler.isSome || w.tvec == 0 || handlerThreads sl t == 0 then s.ctxFatal w.ctx w.die (w.core % 128) t.cls t.fpc.toNat
      else
        let w := (w.release (w.seq + 1)).settleBnds
        let t : TrapReq := if t.cls = 11 then { t with info := s.wtime w } else t
        let ws := trapWords w k t (bystanders sl t)
        match s.laneWrites w [(w.control + 480, leBytes 4 w.depth), (w.trec, ws.flatMap (leBytes 8) ++ List.replicate 40 0)] with
        | (false, s) => s
        | (true, s) =>
          let entry := w.cb + w.tvec.setWidth 64
          let w := { w with
            trapRegs := ws.map (BitVec.ofNat 64) ++ List.replicate 5 0
            handler := some ⟨k, handlerThreads sl t, w.depth⟩
            tmask := if t.cls = 11 then w.tmask &&& ~~~0x100 else w.tmask }
          let m := handlerThreads sl t
          s.setWarp (w.setSlot k { sl with pc := entry, mask := m, epc := entry, emask := m, trap := none })

/-! Retiring. -/

/-- Resume point of a class (R382), and where bystanders resume (R393). -/
def trapRpc (cls : Nat) (fpc npc : DWord) : DWord := if cls = 2 || cls = 9 then npc else fpc
def trapBpc (cls : Nat) (fpc npc : DWord) : DWord := if cls = 2 || cls = 9 || cls = 10 then npc else fpc

/-- The trap of the issuing word. -/
def Issue.trapOf (c : Issue) (cls : Nat) (mask : Mask) (va info seq : Nat) : TrapReq :=
  { cls, mask, fpc := c.fpc, npc := c.npc, rpc := trapRpc cls c.fpc c.npc, bpc := trapBpc cls c.fpc c.npc,
    word := c.wslot, va, info, replay := false, seq }

/-- The instruction, or the chain whose last word this is, completes issue (R17, R19, R148): flags are ORed in, a trap
found is left with its slot, otherwise the threads move to `gs` (by default all to the next instruction), boundaries
are set and the switch marker parks the warp. -/
def State.retire (s : State) (bnd : Bnd) (gs : Option (List (DWord × Mask))) : State :=
  match s.cur with
  | none => s
  | some (c, w0) =>
    let w := w0.orFlags c.flags
    let k := c.slot
    let sl := w.slot k
    let seq := w.seq + 1
    let w := { w with seq := seq, grants := w.grants + 1, lastSlot := k,
                      lastIns := ⟨k, c.fpc, c.npc, c.wslot, c.word, w.lastIns.parked⟩ }
    let w := w.setSlot k { sl with last := seq, prev := sl.pc }
    let w := if c.marker then { w with park := { w.park with marker := true } } else w
    let s := { s with issue := none }
    match c.trap with
    | some t =>
      (((s.setWarp (w.setSlot k { w.slot k with trap := some t })).modWarp c.uid Warp.testRejoins).settle c.uid).takeTrap c.uid k
    | none =>
      let groups := gs.getD [(c.npc, sl.mask)]
      let left := groups.foldl (fun m g => m ||| g.2) 0
      let split := groups.length != 1 || left != sl.mask
      let w := w.placeGroups k groups
      let first := groups.headD (c.npc, 0)
      let w :=
        if split then w.boundary seq k first.1 first.2
        else if c.marker || c.bound || bnd == .after || bnd == .self then w.boundary seq k first.1 first.2
        else w
      let s := (s.setWarp w).modWarp c.uid Warp.testRejoins
      s.settle c.uid

/-- What a meaning answers when no warp issues. -/
def noWarp : Host.Outcome State Fault Refusal := .fault .noIssuingWarp

/-- The word is done: inside a chain the issue goes on, else the instruction retires. -/
def State.endWord (s : State) (h : Hdr) (bnd : Bnd) : State := if h.c then s else s.retire bnd none

/-- The word raises a trap: the first of a chain stands (R383). -/
def State.trapWord (s : State) (c : Issue) (h : Hdr) (t : TrapReq) : State :=
  let s := { s with issue := some { c with trap := some (c.trap.getD t) } }
  if h.c then s else s.retire .no none

/-- Apply the marks of an instruction that stands alone; those of a chain have been applied at grant (R68). -/
def Warp.markAlone (w : Warp) (c : Issue) (codes : List Nat) (parts : Mask) : Warp :=
  if c.snap.isSome || parts == 0 then w else codes.foldl Warp.free w

/-- Flags raised by the word join the chain's, and an enabled one traps after it (R111), except at handler privilege
(R391). -/
def Issue.addFlags (c : Issue) (w : Warp) (fl : List (Nat × Nat)) : Issue :=
  let fl := fl.filter fun p => p.2 != 0
  let m := trapThreads w fl
  let t := if m == 0 || w.handler.isSome then c.trap
    else some (c.trap.getD (c.trapOf 2 m 0 (trapFlags w fl) (w.seq + 1)))
  { c with flags := c.flags ++ fl, trap := t }

end Sys2Proof.Machine
end

