-- ==== Sys2Proof/Machine/Alu.lean ====
section
/-! DEFINITION. How a computing instruction runs (R18 step 5, R63, R83, R111, R154, R155): sources are read, each
participant's result is computed, last-read marks are applied, results and flags are written. -/

namespace Sys2Proof.Machine

/-- The results of the 32 threads: computed once where the result is one value for the warp (R63, R154). -/
def results (once : Bool) (rep : Nat) (f : Nat → Nat × Nat) : List (Nat × Nat) :=
  if once then let v := f rep; List.replicate 32 v else (List.range 32).map f

/-- A form whose destination is `n` registers from code `d`: the shape of its result and each thread's result and
flags, from the issue and the warp as read. -/
def State.compute (s : State) (h : Hdr) (a b d n : Nat) (shape : Issue → Warp → Shape)
    (f : Issue → Warp → Nat → Nat × Nat) : Host.Outcome State Fault Refusal :=
  match s.cur with
  | none => noWarp
  | some (c, w) =>
    let r := c.src w
    let parts := r.participants c.slot h
    match lowest parts with
    | none => .next (s.endWord h .no)
    | some rep =>
      let sh := shape c r
      let outs := results (64 ≤ d || sh == .uni) rep (f c r)
      let w := (w.markAlone c (markCodes h a b) parts).writeWide d sh parts n (outs.map (·.1))
      let c := c.addFlags r ((threads parts).map fun t => (t, (outs.getD t (0, 0)).2))
      .next ({ s.setWarp w with issue := some c }.endWord h .no)

/-- A form whose sources are operands `srcs` (R83, R154). -/
def State.alu (s : State) (cls : OpClass) (h : Hdr) (a b d n : Nat) (srcs : List Src) (f : List Nat → Nat × Nat) :
    Host.Outcome State Fault Refusal :=
  s.compute h a b d n (fun _ r => resultShape cls (srcs.map (Src.shape r))) fun _ r t => f (srcs.map (Src.val r t))

/-- A form that gives one value for the warp (R153). -/
def State.const (s : State) (h : Hdr) (d n : Nat) (v : Issue → Warp → Nat) : Host.Outcome State Fault Refusal :=
  s.compute h 0 0 d n (fun _ _ => .uni) fun c r _ => (v c r, 0)

/-- The same for a form without flags (R83). -/
def State.alu0 (s : State) (cls : OpClass) (h : Hdr) (a b d n : Nat) (srcs : List Src) (f : List Nat → Nat) :
    Host.Outcome State Fault Refusal :=
  s.alu cls h a b d n srcs fun l => (f l, 0)

/-- A form whose destination is predicate `pd`. -/
def State.cmp (s : State) (h : Hdr) (a b pd : Nat) (srcs : List Src) (f : List Nat → Bool × Nat) :
    Host.Outcome State Fault Refusal :=
  match s.cur with
  | none => noWarp
  | some (c, w) =>
    let r := c.src w
    let parts := r.participants c.slot h
    if parts == 0 then .next (s.endWord h .no)
    else
      let outs := (List.range 32).map fun t => f (srcs.map (Src.val r t))
      let vals := maskWhere fun t => (outs.getD t (false, 0)).1
      let w := (w.markAlone c (markCodes h a b) parts).writeP pd parts vals
      let c := c.addFlags r ((threads parts).map fun t => (t, (outs.getD t (false, 0)).2))
      .next ({ s.setWarp w with issue := some c }.endWord h .no)

/-- A 32-bit register operand. -/
def r1 (x : BitVec 7) : Src := .reg x.toNat 1
/-- A pair. -/
def r2 (x : BitVec 7) : Src := .reg x.toNat 2

/-- Operand `i` of a value list. -/
def op (l : List Nat) (i : Nat) : Nat := l.getD i 0

end Sys2Proof.Machine
end

