-- ==== Sys2Proof/Machine/LaneSys.lean ====
section
/-! DEFINITION. System registers (08 R189 to R193), trap registers and indexed register access (19 R398, R399). -/

namespace Sys2Proof.Machine

/-- The gang of a warp. -/
def State.gang? (s : State) (uid : Nat) : Option Gang := s.disp.gangs.find? fun g => g.uid == uid

/-- The launch of a gang. -/
def State.launch? (s : State) (id : Nat) : Option Launch := s.disp.launches.find? fun l => l.id == id

/-- The value of a system register other than tn and fsr (R192). -/
def State.sysReg (s : State) (w : Warp) (code : Nat) : Nat :=
  let g := s.gang? w.gang
  let rec_ := fun (f : LRec → Nat) => match g with | some g => f g.lrec | none => 0
  match code with
  | 0x01 => w.wn
  | 0x02 => w.wgid
  | 0x03 => rec_ (·.nwarp)
  | 0x04 => rec_ (·.nwg)
  | 0x05 => match g with | some g => g.gangid | none => 0
  | 0x06 => match g with | some g => g.lnch | none => 0
  | 0x07 => w.lane
  | 0x08 => w.wslot
  | 0x09 => w.core % 4
  | 0x0A => w.core / 4 % 32
  | 0x0B => coreDie w.core
  | 0x0C => s.regs.devid
  | 0x0D => w.ctx
  | 0x0E => w.xid
  | 0x0F => b2n w.stop
  | 0x10 => w.cb.toNat
  | 0x11 => w.pvbase.toNat
  | 0x12 => w.psize
  | 0x13 => s.now % 2 ^ 64
  | 0x14 => s.wtime w
  | 0x15 => w.wtcmp.toNat
  | 0x16 => w.trec
  | 0x17 => w.tvec.toNat
  | 0x18 => w.tmask.toNat
  | _ => 0

/-- RDSR (R189 to R192). -/
def execRdsr (h : Hdr) (d _a : BitVec 7) (imm : BitVec 10) (s : State) : Host.Outcome State Fault Refusal :=
  let code := imm.toNat % 512
  match code with
  | 0 => s.compute h 0 0 d.toNat 1 (fun _ _ => .aff) fun _ _ t => (t, 0)
  | 0x19 => s.compute h 0 0 d.toNat 1 (fun _ _ => .gen) fun _ r t => ((nth r.fsr t).toNat, 0)
  | _ => s.const h d.toNat (if srWide code then 2 else 1) fun _ r => s.sysReg r code

/-- What WRSR does to a warp register (R192, R193: the reserved bits of tmask stay 0). -/
def Warp.setSys (w : Warp) (code v : Nat) : Warp :=
  match code with
  | 0x15 => { w with wtcmp := BitVec.ofNat 64 v }
  | 0x17 => { w with tvec := BitVec.ofNat 32 v }
  | 0x18 => { w with tmask := BitVec.ofNat 32 v &&& 0x11F }
  | _ => w

/-- WRSR (R189 to R191): fsr by participant, bits 31:5 reading 0 (R15); a tvec that names no packet start traps. -/
def execWrsr (h : Hdr) (_d a : BitVec 7) (imm : BitVec 10) (s : State) : Host.Outcome State Fault Refusal :=
  match s.cur with
  | none => noWarp
  | some (c, w) =>
    let r := c.src w
    let parts := r.participants c.slot h
    let code := imm.toNat % 512
    match lowest parts with
    | none => .next (s.endWord h .no)
    | some rep =>
      let v := r.wide a.toNat rep (if srWide code then 2 else 1)
      if code = 0x17 && v % 12 != 0 then .next (s.trapWord c h (c.trapOf 1 parts 0 c.word.toNat (w.seq + 1)))
      else
        let w := w.markAlone c (markCodes h a.toNat 0) parts
        let w :=
          if code = 0x19 then
            { w with fsr := (List.range 32).map fun t =>
                if has parts t then fsrMask (r.reg a.toNat t) else nth w.fsr t }
          else w.setSys code v
        .next ((s.setWarp w).endWord h .no)

/-- RDTR (R398): uniform; before the warp's first trap every doubleword reads 0. -/
def execRdtr (h : Hdr) (d a _b : BitVec 7) (s : State) : Host.Outcome State Fault Refusal :=
  s.const h d.toNat 2 fun _ r => (r.trapRegs.getD a.toNat 0).toNat

/-- The register or predicate an index names, as thread `t` reads it (R399). -/
def Warp.indexed (w : Warp) (idx t : Nat) : Nat :=
  if bit idx 7 then b2n (w.pred (idx % 128) t) else (w.reg (idx % 128) t).toNat

/-- The shape that VRDX's result has: MOV's when the index is uniform (R399, R154). -/
def Warp.indexedShape (w : Warp) (a rep : Nat) : Shape :=
  if w.shape a == .uni then
    let idx := (w.reg a rep).toNat
    if bit idx 7 then (if idx % 128 = 0 then .uni else .gen) else resultShape .plain [w.shape (idx % 128)]
  else .gen

/-- Participants whose index has a bit of [31:8] set. -/
def Warp.badIndex (w : Warp) (a : Nat) (parts : Mask) : Mask :=
  maskWhere fun t => has parts t && (w.reg a t).toNat / 256 != 0

/-- VRDX (R399). -/
def execVrdx (h : Hdr) (d a _b : BitVec 7) (s : State) : Host.Outcome State Fault Refusal :=
  match s.cur with
  | none => noWarp
  | some (c, w) =>
    let r := c.src w
    let parts := r.participants c.slot h
    let bad := r.badIndex a.toNat parts
    if bad != 0 then .next (s.trapWord c h (c.trapOf 1 bad 0 c.word.toNat (w.seq + 1)))
    else
      s.compute h a.toNat 0 d.toNat 1 (fun _ r => r.indexedShape a.toNat ((lowest parts).getD 0))
        fun _ r t => (r.indexed (r.reg a.toNat t).toNat t, 0)

/-- One participant's write of VWRX (R399); `cover` are the participants that name the same register. -/
def Warp.writeIndexed (w : Warp) (idx t : Nat) (v : Word) : Warp :=
  let k := idx % 128
  if bit idx 7 then w.writeP k (maskOf [t]) (if v.getLsbD 0 then maskOf [t] else 0)
  else if k < 64 then w.writeV k .gen (maskOf [t]) (List.replicate 32 v)
  else w.writeS (k - 64) v

/-- VWRX with one index for the warp (R154, R155): all participants' values reach a v-register as one write, uniform where
B is. -/
def Warp.writeIndexedAll (w r : Warp) (idx b : Nat) (parts : Mask) : Warp :=
  let k := idx % 128
  if !bit idx 7 && k < 64 then
    w.writeV k (resultShape .plain [r.shape b]) parts ((List.range 32).map fun t => r.reg b t)
  else (threads parts).foldl (fun w t => w.writeIndexed idx t (r.reg b t)) w

/-- VWRX (R399). -/
def execVwrx (h : Hdr) (_d a b : BitVec 7) (s : State) : Host.Outcome State Fault Refusal :=
  match s.cur with
  | none => noWarp
  | some (c, w) =>
    let r := c.src w
    let parts := r.participants c.slot h
    let bad := r.badIndex a.toNat parts
    if bad != 0 then .next (s.trapWord c h (c.trapOf 1 bad 0 c.word.toNat (w.seq + 1)))
    else
      let idx := fun t => (r.reg a.toNat t).toNat
      let w := w.markAlone c (markCodes h a.toNat b.toNat) parts
      let w := match lowest parts with
        | none => w
        | some rep =>
          if (threads parts).all fun t => idx t == idx rep then w.writeIndexedAll r (idx rep) b.toNat parts
          else (threads parts).foldl (fun w t => w.writeIndexed (idx t) t (r.reg b.toNat t)) w
      .next ((s.setWarp w).endWord h .no)

end Sys2Proof.Machine
end

