-- ==== Sys2Proof/Machine/Access.lean ====
section
/-! DEFINITION. Making an access at issue: addresses by space (04 R95, R96, R28), the checks of R102, forwarding from
the store queue (12 R269), and the records of an outstanding access and of a store-queue entry (R270). -/

namespace Sys2Proof.Machine

/-- The index of the workgroup of a warp's gang that a memory code reaches: its own, or the one on a peer core (R96). -/
def State.wgOn (s : State) (w : Warp) (m : MemCode) : Option Nat :=
  if m.pe then
    match s.gang? w.gang with
    | none => none
    | some g =>
      let j := g.cores.findIdx fun k => k == 4 * w.cluster + m.ci
      if j < g.cores.length then some j else none
  else some w.wgid

/-- The tiles of a workgroup of a warp's gang, in the order it was given them (R216). -/
def State.tilesOf (s : State) (w : Warp) (wg : Nat) : List Nat :=
  match s.gang? w.gang with
  | none => []
  | some g => g.tiles.getD wg []

/-- The core a memory code reaches. -/
def memCore (w : Warp) (m : MemCode) : Nat := if m.pe then 4 * w.cluster + m.ci else w.core

/-- The byte of the core's scratchpad at offset `o` of an allocation (R216). -/
def tilePlace (tiles : List Nat) (o : Nat) : Nat := tiles.getD (o / 4096) 0 * 4096 + o % 4096

/-- The address of a thread's access before placing (R96): a virtual address, or the offset as an integer. -/
def rawAddr (r : Warp) (c : Issue) (m : MemCode) (a : Nat) (off : Int) (t : Nat) : Int :=
  match m.sp with
  | 0 => wrapI 64 ((r.wide a t 2 : Nat) + off)
  | 3 => wrapI 64 ((c.pkt.toNat : Nat) + sval 32 (r.reg a t).toNat + off)
  | _ => ((r.reg a t).toNat : Nat) + off

/-- A span of bytes. -/
def Span.mk' (t va at_ len : Nat) (data : List Byte) : Span :=
  { t, va, at_, len, phys := none, data := data, got := List.replicate len none, dep := none }

/-- R28: byte `o` of the private memory of thread `t`. -/
def privAddr (w : Warp) (t o : Nat) : Nat := (w.pvbase.toNat + (32 * (o / 4) + t) * 4 + o % 4) % 2 ^ 64

/-- The spans of one thread's access of `size` bytes at `adr` (R28, R96), storing `data`; the operand of an atomic
stands with its first span. -/
def placeSpans (w : Warp) (m : MemCode) (tiles : List Nat) (atomic : Bool) (t size : Nat) (adr : Int)
    (data : List Byte) : List Span :=
  let o := adr.toNat
  match m.sp with
  | 1 => [Span.mk' t (tilePlace tiles o) 0 size data]
  | 2 =>
    if size ≤ 4 then [Span.mk' t (privAddr w t o) 0 size data]
    else (List.range (size / 4)).map fun k => 
      Span.mk' t (privAddr w t (o + 4 * k)) (4 * k) 4
        (if atomic then (if k = 0 then data else []) else (data.drop (4 * k)).take 4)
  | _ => [Span.mk' t o 0 size data]

/-- The space record of a memory code. -/
def spaceOf (w : Warp) (m : MemCode) : Space :=
  match m.sp with
  | 1 => .scr (memCore w m)
  | 3 => .code
  | _ => .glob

/-- R102: the first class that some thread fails, and the threads that fail it. `write` is a store, atomic or
reduction. -/
def State.checkAccess (s : State) (w : Warp) (m : MemCode) (size : Nat) (write : Bool) (ts : List Nat)
    (adr : Nat → Int) : Option (Nat × List Nat) :=
  let wg := s.wgOn w m
  let tiles := s.tilesOf w (wg.getD 0)
  let bytes : Int := 4096 * tiles.length
  let fails := fun (p : Nat → Bool) => ts.filter p
  let out := fun (cls : Nat) (l : List Nat) (rest : Option (Nat × List Nat)) => if l.isEmpty then rest else some (cls, l)
  out 3 (fails fun t => adr t % size != 0)
    (match m.sp with
      | 1 => out 4 (fails fun t => wg.isSome && (adr t < 0 || bytes < adr t + size))
        (if wg.isNone then out 4 ts none
         else out 5 (fails fun t => (s.core (memCore w m)).engine.contains (tilePlace tiles (adr t).toNat / 4096)) none)
      | 2 => out 12 (fails fun t => adr t < 0 || (w.psize : Int) < adr t + size) none
      | 3 => if write then out 12 ts none else none
      | _ => none)

/-- The byte at `a` in a store-queue entry for thread `t` and space `sp`: `none` when the entry holds no such byte,
`some none` when it holds one that is not forwarded (R269). -/
def SqEntry.byteFor (e : SqEntry) (sp : Space) (t a : Nat) : Option (Option Byte) :=
  if e.space == sp then
    match e.spans.reverse.find? fun x => x.t == t && x.va ≤ a && a < x.va + x.len with
    | none => none
    | some x => match e.kind with
      | .store => some (x.data[a - x.va]?)
      | _ => some none
  else none

/-- What the newest entry that holds the byte gives. -/
def forward (sq : List SqEntry) (sp : Space) (t a : Nat) : Option (Nat × Option Byte) :=
  firstSome (fun (e : SqEntry) => (e.byteFor sp t a).map fun b => (e.id, b)) sq.reverse

/-- A load's span with the bytes the thread's own queue gives it (R269 step 1). -/
def Span.forwarded (x : Span) (sq : List SqEntry) (sp : Space) : Span :=
  let f := (List.range x.len).map fun i => forward sq sp x.t (x.va + i)
  { x with
    got := f.map fun p => match p with | some (_, some b) => some b | _ => none
    dep := f.foldl (fun d p => match p with
      | some (id, none) => some (max id (d.getD id))
      | _ => d) none }

/-- The words of a little-endian byte list. -/
def wordsAt (bs : List Byte) (n : Nat) : List Word :=
  (List.range n).map fun k => BitVec.ofNat 32 (leNat ((bs.drop (4 * k)).take 4))

/-- The bytes of `n` registers from a code. -/
def Warp.regBytes (w : Warp) (code t n size : Nat) : List Byte := leBytes size (w.wide code t n)

/-- A new access of the issuing instruction. -/
def Issue.access (c : Issue) (w : Warp) (id : Nat) (kind : AKind) (space : Space) (co : Nat) (dst pdst : List Nat)
    (parts : Mask) (spans : List Span) (walked : Bool) : Access :=
  { id, slot := c.slot, seq := w.seq, kind, space, co, priv := w.handler.isSome, dst, pdst, parts, spans, walked, fault := none, fpc := c.fpc,
    npc := c.npc, wslot := c.wslot, sent := false }

/-- A new store-queue entry of the issuing instruction. -/
def Issue.entry (c : Issue) (w : Warp) (id : Nat) (kind : SKind) (space : Space) (co : Nat) (parts : Mask)
    (spans : List Span) (walked : Bool) : SqEntry :=
  { id, slot := c.slot, seq := w.seq, held := true, kind, space, co, priv := w.handler.isSome, parts, spans, walked, fault := none, fpc := c.fpc,
    npc := c.npc, wslot := c.wslot, next := 0, busy := false }

def Warp.addAccess (w : Warp) (a : Access) : Warp := { w with accs := w.accs ++ [a] }
def Warp.addEntry (w : Warp) (e : SqEntry) : Warp := { w with sq := w.sq ++ [e] }

/-- A number for a new record. -/
def State.fresh (s : State) : State := { s with nextId := s.nextId + 1 }

/-- The access kind of R231 of a form. -/
def accOf (write atomic : Bool) : Acc := if atomic then .atomic else if write then .store else .load

/-- The threads an LD, ST, ATOM or RED accesses for: all participants, or for a warp-scalar load the lowest (R98). -/
def accessThreads (parts : Mask) (scalar : Bool) : List Nat := if scalar then (threads parts).take 1 else threads parts

/-- The trap of a failed check of R102: VA is the lowest failing thread's address (R393), INFO the kind (R394). -/
def Issue.accessTrap (c : Issue) (w : Warp) (cls : Nat) (ts : List Nat) (adr : Nat → Int) (kind : Acc) : TrapReq :=
  c.trapOf cls (maskOf ts) (match ts with | t :: _ => wrapI 64 (adr t) | [] => 0) kind.code (w.seq + 1)

/-- LD, ST, ATOM and RED up to the access (R102): `go` makes it, from the warp, its source reading and its spans. -/
def State.memForm (s : State) (h : Hdr) (a : BitVec 7) (m : MemCode) (size : Nat) (write atomic scalar : Bool)
    (marks : List Nat) (data : Warp → Nat → List Byte) (bnd : Bnd)
    (go : Issue → Warp → Mask → Nat → List Span → Bool → Warp) : Host.Outcome State Fault Refusal :=
  match s.cur with
  | none => noWarp
  | some (c, w) =>
    let r := c.src w
    let parts := r.participants c.slot h
    if parts == 0 then .next (s.endWord h bnd)
    else
      let ts := accessThreads parts scalar
      let adr := rawAddr r c m a.toNat (ihOff h)
      match s.checkAccess w m size write ts adr with
      | some (cls, l) => .next (s.trapWord c h (c.accessTrap w cls l adr (accOf write atomic)))
      | none =>
        let tiles := s.tilesOf w ((s.wgOn w m).getD 0)
        let spans := ts.flatMap fun t => placeSpans w m tiles atomic t size (adr t) (data r t)
        let w := w.markAlone c marks parts
        .next ((s.fresh.setWarp (go c w (maskOf ts) s.nextId spans (m.sp == 1))).endWord h bnd)

/-- Codes a load or atomic will write: those that are stored (R11, R97). -/
def dstCodes (d n : Nat) : List Nat := (regSpan d n).filter fun k => k != 63 && k != 127

end Sys2Proof.Machine
end

