-- ==== Sys2Proof/Machine/Atomic.lean ====
section
/-! DEFINITION. ATOM (04 R100) and RED (R101). -/

namespace Sys2Proof.Machine

/-- The new value an atomic leaves at a location of `size` bytes holding `old` (R100); `x` is TS, whose lower half is
the compare value of CAS. -/
def AtomOp.apply (op : AtomOp) (size old x : Nat) : Nat :=
  let w := 8 * size
  match op with
  | .add => (old + x) % 2 ^ w
  | .minS => if sval w x < sval w old then x else old
  | .minN => min old x
  | .maxS => if sval w old < sval w x then x else old
  | .maxN => max old x
  | .and => Nat.land old x
  | .or => Nat.lor old x
  | .xor => Nat.xor old x
  | .exch => x
  | .cas => if old = x % 2 ^ w then x / 2 ^ w else old
  | .fadd => (fpAdd (if size = 8 then .fp64 else .fp32) .rn false false old x).1

/-- ATOM of `size` bytes, its operand `m` bytes of TS (R100): one entry; the old values go to D when it has
performed. -/
def State.atom (s : State) (h : Hdr) (d a b : BitVec 7) (op : AtomOp) (size m : Nat) :
    Host.Outcome State Fault Refusal :=
  let mc := memCode b
  s.memForm h a mc size true true false (markCodes h a.toNat 0)
    (fun r t => leBytes m ((tsReg h (m / 4)).val r t)) .self fun c w parts id spans walked =>
      w.addEntry (c.entry w id (.atom op size h.ext.scope.toNat (some d.toNat)) (spaceOf w mc) mc.co parts spans walked)

/-- RED of `size` bytes: D holds the operand (R101). -/
def State.red (s : State) (h : Hdr) (d a b : BitVec 7) (op : AtomOp) (size : Nat) : Host.Outcome State Fault Refusal :=
  let mc := memCode b
  s.memForm h a mc size true true false (markCodes h a.toNat 0)
    (fun r t => r.regBytes d.toNat t (size / 4) size) .self fun c w parts id spans walked =>
      w.addEntry (c.entry w id (.atom op size h.ext.scope.toNat none) (spaceOf w mc) mc.co parts spans walked)

/-- ATOM.ADD.B32 (R100). -/
def execAtomAddB32 (h : Hdr) (d a b : BitVec 7) (s : State) : Host.Outcome State Fault Refusal :=
  s.atom h d a b .add 4 4

/-- ATOM.MIN.S32 (R100). -/
def execAtomMinS32 (h : Hdr) (d a b : BitVec 7) (s : State) : Host.Outcome State Fault Refusal :=
  s.atom h d a b .minS 4 4

/-- ATOM.MIN.N32 (R100). -/
def execAtomMinN32 (h : Hdr) (d a b : BitVec 7) (s : State) : Host.Outcome State Fault Refusal :=
  s.atom h d a b .minN 4 4

/-- ATOM.MAX.S32 (R100). -/
def execAtomMaxS32 (h : Hdr) (d a b : BitVec 7) (s : State) : Host.Outcome State Fault Refusal :=
  s.atom h d a b .maxS 4 4

/-- ATOM.MAX.N32 (R100). -/
def execAtomMaxN32 (h : Hdr) (d a b : BitVec 7) (s : State) : Host.Outcome State Fault Refusal :=
  s.atom h d a b .maxN 4 4

/-- ATOM.AND.B32 (R100). -/
def execAtomAndB32 (h : Hdr) (d a b : BitVec 7) (s : State) : Host.Outcome State Fault Refusal :=
  s.atom h d a b .and 4 4

/-- ATOM.OR.B32 (R100). -/
def execAtomOrB32 (h : Hdr) (d a b : BitVec 7) (s : State) : Host.Outcome State Fault Refusal :=
  s.atom h d a b .or 4 4

/-- ATOM.XOR.B32 (R100). -/
def execAtomXorB32 (h : Hdr) (d a b : BitVec 7) (s : State) : Host.Outcome State Fault Refusal :=
  s.atom h d a b .xor 4 4

/-- ATOM.EXCH.B32 (R100). -/
def execAtomExchB32 (h : Hdr) (d a b : BitVec 7) (s : State) : Host.Outcome State Fault Refusal :=
  s.atom h d a b .exch 4 4

/-- ATOM.CAS.B32 (R100). -/
def execAtomCasB32 (h : Hdr) (d a b : BitVec 7) (s : State) : Host.Outcome State Fault Refusal :=
  s.atom h d a b .cas 4 8

/-- ATOM.ADD.F32 (R100). -/
def execAtomAddF32 (h : Hdr) (d a b : BitVec 7) (s : State) : Host.Outcome State Fault Refusal :=
  s.atom h d a b .fadd 4 4

/-- ATOM.EXCH.B64 (R100). -/
def execAtomExchB64 (h : Hdr) (d a b : BitVec 7) (s : State) : Host.Outcome State Fault Refusal :=
  s.atom h d a b .exch 8 8

/-- ATOM.CAS.B64 (R100). -/
def execAtomCasB64 (h : Hdr) (d a b : BitVec 7) (s : State) : Host.Outcome State Fault Refusal :=
  s.atom h d a b .cas 8 16

/-- ATOM.ADD.B64 (R100). -/
def execAtomAddB64 (h : Hdr) (d a b : BitVec 7) (s : State) : Host.Outcome State Fault Refusal :=
  s.atom h d a b .add 8 8

/-- ATOM.CAS.B128 (R100). -/
def execAtomCasB128 (h : Hdr) (d a b : BitVec 7) (s : State) : Host.Outcome State Fault Refusal :=
  s.atom h d a b .cas 16 32

/-- ATOM.ADD.F64 (R100). -/
def execAtomAddF64 (h : Hdr) (d a b : BitVec 7) (s : State) : Host.Outcome State Fault Refusal :=
  s.atom h d a b .fadd 8 8

/-- RED.ADD.B32 (R101). -/
def execRedAddB32 (h : Hdr) (d a b : BitVec 7) (s : State) : Host.Outcome State Fault Refusal :=
  s.red h d a b .add 4

/-- RED.MIN.S32 (R101). -/
def execRedMinS32 (h : Hdr) (d a b : BitVec 7) (s : State) : Host.Outcome State Fault Refusal :=
  s.red h d a b .minS 4

/-- RED.MIN.N32 (R101). -/
def execRedMinN32 (h : Hdr) (d a b : BitVec 7) (s : State) : Host.Outcome State Fault Refusal :=
  s.red h d a b .minN 4

/-- RED.MAX.S32 (R101). -/
def execRedMaxS32 (h : Hdr) (d a b : BitVec 7) (s : State) : Host.Outcome State Fault Refusal :=
  s.red h d a b .maxS 4

/-- RED.MAX.N32 (R101). -/
def execRedMaxN32 (h : Hdr) (d a b : BitVec 7) (s : State) : Host.Outcome State Fault Refusal :=
  s.red h d a b .maxN 4

/-- RED.ADD.F32 (R101). -/
def execRedAddF32 (h : Hdr) (d a b : BitVec 7) (s : State) : Host.Outcome State Fault Refusal :=
  s.red h d a b .fadd 4

/-- RED.ADD.B64 (R101). -/
def execRedAddB64 (h : Hdr) (d a b : BitVec 7) (s : State) : Host.Outcome State Fault Refusal :=
  s.red h d a b .add 8

/-- RED.ADD.F64 (R101). -/
def execRedAddF64 (h : Hdr) (d a b : BitVec 7) (s : State) : Host.Outcome State Fault Refusal :=
  s.red h d a b .fadd 8

/-- RED.AND.B32 (R101). -/
def execRedAndB32 (h : Hdr) (d a b : BitVec 7) (s : State) : Host.Outcome State Fault Refusal :=
  s.red h d a b .and 4

/-- RED.OR.B32 (R101). -/
def execRedOrB32 (h : Hdr) (d a b : BitVec 7) (s : State) : Host.Outcome State Fault Refusal :=
  s.red h d a b .or 4

/-- RED.XOR.B32 (R101). -/
def execRedXorB32 (h : Hdr) (d a b : BitVec 7) (s : State) : Host.Outcome State Fault Refusal :=
  s.red h d a b .xor 4

end Sys2Proof.Machine
end

