-- ==== Sys2Proof/Machine/Pipeline.lean ====
section
/-! DEFINITION. The life of an access after issue: translation (10 R229, 19 R384), walk faults (19 R388), the coalescing
window (10 R218), fills and replies (R221, R224), and results (01 R22, 04 R107). -/

namespace Sys2Proof.Machine

/-! Translation. -/

/-- The access kind, and whether a PCIe AtomicOp exists for an atomic of the form (R229, R231, R433). -/
def AKind.acc (k : AKind) (sp : Space) : Acc :=
  match k with
  | .probe _ _ _ => .probe
  | .load _ _ _ _ => if sp == .code then .fetch else .load
  | .engine true => .store
  | _ => .load
def SKind.acc (k : SKind) : Acc :=
  match k with
  | .atom _ _ _ _ => .atomic
  | _ => .store
def SKind.hostOk (k : SKind) : Bool :=
  match k with
  | .atom op size sc d =>
    sc == 1 || match op, size, d with
      | .add, _, _ => true
      | .exch, _, some _ => true
      | .cas, _, some _ => true
      | _, _, _ => false
  | _ => true

/-- The walk of one span. -/
def State.walkSpan (s : State) (w : Warp) (priv : Bool) (acc : Acc) (hostOk direct : Bool) (x : Span) :
    (Span ⊕ WalkRes) × State :=
  match s.access (some w.core) w.cluster w.die w.ctx x.va acc priv hostOk with
  | (.ok p _ _ _ _, s) => if direct && p.tgt != 0 then (.inr .perm, s) else (.inl { x with phys := some p }, s)
  | (r, s) => (.inr r, s)

/-- The walks of all spans: those translated, and what failed by thread and address, in order. -/
def State.walkSpans (s : State) (w : Warp) (priv : Bool) (acc : Acc) (hostOk direct : Bool) :
    List Span → (List Span × List (Nat × Nat × WalkRes)) × State
  | [] => (([], []), s)
  | x :: xs =>
    match s.walkSpan w priv acc hostOk direct x with
    | (.inl x', s) =>
      let ((ys, fs), s) := s.walkSpans w priv acc hostOk direct xs
      ((x' :: ys, fs), s)
    | (.inr r, s) =>
      let ((ys, fs), s) := s.walkSpans w priv acc hostOk direct xs
      ((ys, (x.t, x.va, r) :: fs), s)

def WalkRes.isPerm (r : WalkRes) : Bool := match r with | .perm => true | _ => false
def WalkRes.cause (r : WalkRes) : Nat := match r with | .fault c => c | _ => 0

/-- The walk fault of an access (R383, R388): the kind that the lowest failing thread meets, and the threads that meet
that kind. -/
def wfaultOf : List (Nat × Nat × WalkRes) → Option WFault
  | [] => none
  | (t, va, r) :: fs =>
    let same := ((t, va, r) :: fs).filter fun f => f.2.2.isPerm == r.isPerm
    some { perm := r.isPerm, cause := r.cause, va, mask := maskOf (same.map (·.1)) }

/-- The lines that an access's spans touch, in the order of the lowest thread that touches each, with the physical line
and the sectors (R218). -/
def spanLines : List Span → List (Nat × Phys × Nat)
  | [] => []
  | x :: xs =>
    let rest := spanLines xs
    let m := (List.range 8).foldl (fun m k =>
      if x.va % 128 < 16 * k + 16 && 16 * k < x.va % 128 + x.len then m + 2 ^ k else m) 0
    let mine := (rest.find? fun l => l.1 == lineVa x.va).map (·.2.2)
    (lineVa x.va, x.phys.getD ⟨0, 0⟩, smOr m (mine.getD 0)) :: rest.filter fun l => l.1 != lineVa x.va

/-- Spans in order of thread, in runs that lie in one line each (R270). -/
def spanRuns : List Span → List (List Span)
  | [] => []
  | x :: xs =>
    match spanRuns xs with
    | (y :: ys) :: rest => if lineVa x.va == lineVa y.va then (x :: y :: ys) :: rest else [x] :: (y :: ys) :: rest
    | r => [x] :: r

/-- Put the line requests of a translated access into the window of its lane (R218). -/
def State.enterWindow (s : State) (w : Warp) (a : Access) : State :=
  let reqs := (spanLines a.spans).map fun l =>
    ({ w := w.uid, acc := a.id, va := l.1, tgt := l.2.1.tgt, line := l.2.1.pa / 128, sectors := l.2.2 } : LineReq)
  let c := s.core w.core
  s.setCore w.core { c with windows := put w.lane ((look w.lane c.windows).getD [] ++ reqs) c.windows }

/-- Does the access of this kind go through the window? -/
def AKind.windowed (k : AKind) : Bool :=
  match k with
  | .load _ _ _ _ | .pref _ => true
  | _ => false

/-- Was access `b` made before access `a`: at an earlier grant, or by an earlier word of its chain? -/
def Access.before (b a : Access) : Bool := b.seq < a.seq || (b.seq == a.seq && b.id < a.id)

/-- Must an access of the warp wait to enter its lane's window (R218, R219): while requests of another stand in it, or an
earlier one of the warp has still to enter? -/
def State.windowTaken (s : State) (w : Warp) (a : Access) : Bool :=
  !((look w.lane (s.core w.core).windows).getD []).isEmpty ||
    w.accs.any fun b => b.kind.windowed && b.before a && !b.walked && b.fault.isNone

/-- PREF never faults: the lines that fail are left out (R263). -/
def AKind.skips (k : AKind) : Bool := match k with | .pref _ => true | _ => false

/-- Replace an access or an entry of the same number. -/
def Warp.setAccess (w : Warp) (a : Access) : Warp := { w with accs := w.accs.map fun x => if x.id == a.id then a else x }
def Warp.setEntry (w : Warp) (e : SqEntry) : Warp := { w with sq := w.sq.map fun x => if x.id == e.id then e else x }
def Warp.dropAccess (w : Warp) (id : Nat) : Warp := { w with accs := w.accs.filter fun x => x.id != id }

/-- What a write of a reply leaves, when later words of its chain have written `late` (R19). -/
def RegWrite.less (late : List (Nat × Mask)) (x : RegWrite) : RegWrite :=
  let gone := fun (code : Nat) => (late.filter fun l => l.1 == code).foldl (fun (m : Mask) l => m ||| l.2) 0
  match x with
  | .v code vals => .v code (vals.filter fun p => !has (gone code) p.1)
  | .s code val => if gone (64 + code) == 0 then .s code val else .s 63 0
  | .p code cover vals => .p code (cover &&& ~~~gone (128 + code)) vals

/-- What later words of the chain of access or entry `id` have written. -/
def Warp.lateOf (w : Warp) (id : Nat) : List (Nat × Mask) :=
  match w.accs.find? fun a => a.id == id with
  | some a => a.late
  | none => match w.sq.find? fun e => e.id == id with
    | some e => e.late
    | none => []

/-- A reply to access or entry `id` writes `wr` (R22), where no later word of its chain has (R19). -/
def Warp.reply (w : Warp) (id : Nat) (wr : List RegWrite) : Warp :=
  (wr.map fun x => x.less (w.lateOf id)).foldl Warp.applyWrite w

/-- Are its addresses known at grant? QYINIT's spoil area is not (R371). -/
def AKind.walks (k : AKind) : Bool := match k with | .qyinit _ _ _ => false | _ => true

def SKind.isDirect (k : SKind) : Bool := match k with | .direct _ _ => true | _ => false

def AKind.isDirect (k : AKind) : Bool := match k with | .direct _ _ _ => true | _ => false

/-- The packets of an LD.DIR (R250). -/
def Access.packets (a : Access) (id0 : Nat) : List DirPkt :=
  match a.kind with
  | .direct size d st => a.spans.zipIdx.map fun x =>
    { id := id0 + x.2, acc := a.id, t := x.1.t, write := false, phys := x.1.phys.getD ⟨0, 0⟩, size, data := [], d, st,
      tag := none, reply := none }
  | _ => []

/-! PROBE (R265). -/

/-- The leaves that cover the bytes from `va` to `last`, in ascending address: those found, or the first failure. -/
def State.leaves (s : State) (core : Option Nat) (cl ctx : Nat) (acc : Acc) (priv : Bool) (last : Nat) :
    Nat → Nat → List (Nat × Nat × Phys × Bool × Bool) → (WalkRes × Nat ⊕ List (Nat × Nat × Phys × Bool × Bool)) × State
  | 0, _, got => (.inr got, s)
  | fuel + 1, va, got =>
    if last < va then (.inr got, s)
    else
      match s.access core cl (clusterDie cl) ctx va acc priv true with
      | (.ok p wr x base size, s) =>
        s.leaves core cl ctx acc priv last fuel (base + size) (got ++ [(base, size, { p with pa := p.pa - (va - base) }, wr, x)])
      | (r, s) => (.inl (r, va), s)

/-- Pin leaves one after another (R265): how many, and whether the limit stopped it. -/
def pinAll (ctx : Nat) : List (Nat × Nat × Phys × Bool × Bool) → List TlbEnt → Nat → Nat × Bool × List TlbEnt
  | [], l, n => (n, false, l)
  | (base, size, p, w, x) :: rest, l, n =>
    let cur := l.find? fun e => e.ctx == ctx && e.base == base
    let pins := match cur with | some e => e.pins | none => 0
    if (pins == 0 && (l.filter fun e => e.pins != 0).length ≥ 1024) || pins ≥ 65535 then (n, true, l)
    else
      let l := match cur with
        | some _ => l.map fun e => if e.ctx == ctx && e.base == base then { e with pins := e.pins + 1 } else e
        | none => clusterTlbAdd l { ctx, base, size, phys := p, w, x, pins := 1 }
      pinAll ctx rest l (n + 1)

/-- The status word of R265 for leaves found, pins made and the limit. -/
def pinStatus (ls : List (Nat × Nat × Phys × Bool × Bool)) (np : Nat) (lim : Bool) : Nat :=
  np + 65536 * b2n (ls.all fun l => l.2.2.2.1) + 131072 * b2n (ls.all fun l => l.2.2.2.2) + 262144 * b2n lim

/-- PROBE's walks and pins; the result then waits to be written. -/
def State.probe (s : State) (w : Warp) (a : Access) (d lo n : Nat) : State :=
  match s.leaves (some w.core) w.cluster w.ctx .probe a.priv (lo + n - 1) (n / 32768 + 2) lo [] with
  | (.inl (r, va), s) =>
    s.modWarp w.uid fun w => w.setAccess { a with fault := some ⟨r.isPerm, r.cause, va, a.parts⟩ }
  | (.inr ls, s) =>
    let k := s.cluster w.cluster
    let (np, lim, tlb) := pinAll w.ctx ls k.tlb 0
    let st := pinStatus ls np lim
    let a := { a with kind := .result [.s d (BitVec.ofNat 32 st)], walked := true }
    ((s.setCluster w.cluster { k with tlb }).modWarp w.uid fun w => w.setAccess a).modWarp w.uid Warp.settleBnds

/-- A form that names one address for all its participants faults for them all. -/
def Access.faultMask (a : Access) (f : WFault) : WFault :=
  match a.kind, a.spans with
  | .engine _, [_] => { f with mask := a.parts }
  | _, _ => f

/-- TRANSLATION_WALK (R229, R384): all addresses of an access or entry. -/
def execTranslationWalk (u id : Nat) (s : State) : Host.Outcome State Fault Refusal :=
  match s.warp? u with
  | none => .next s
  | some w =>
    match w.accs.find? fun a => a.id == id && !a.walked && a.fault.isNone && a.kind.walks with
    | some a =>
      match a.kind with
      | .probe d lo n => .next (s.probe w a d lo n)
      | _ =>
      if a.kind.windowed && s.windowTaken w a then .next s else
      let ((xs, fs), s) := s.walkSpans w a.priv (a.kind.acc a.space) true a.kind.isDirect a.spans
      let f := if a.kind.skips then none else (wfaultOf fs).map a.faultMask
      let a' := { a with spans := if f.isSome then a.spans else xs, walked := f.isNone, fault := f, sent := f.isNone }
      let ps := if f.isNone then a'.packets s.nextId else []
      let s := { s with nextId := s.nextId + ps.length }.modWarp u fun w =>
        { w.setAccess a' with dir := w.dir ++ ps }
      let s := if f.isNone && a.kind.windowed then s.enterWindow w a' else s
      .next (s.modWarp u Warp.settleBnds)
    | none =>
      match w.sq.find? fun e => e.id == id && !e.walked && e.fault.isNone with
      | none => .next s
      | some e =>
        let ((xs, fs), s) := s.walkSpans w e.priv e.kind.acc e.kind.hostOk e.kind.isDirect e.spans
        let f := wfaultOf fs
        let e' := { e with spans := if f.isSome then e.spans else xs, walked := f.isNone, fault := f }
        .next ((s.modWarp u fun w => w.setEntry e').modWarp u Warp.settleBnds)

/-! Walk faults. -/

/-- What a walk fault of a slot's access needs (R388). -/
structure Faulted where
  seq : Nat
  fault : WFault
  acc : Acc
  fpc : DWord
  npc : DWord
  wslot : Nat
  deriving DecidableEq, Repr

/-- The accesses of a slot that have met a walk fault. -/
def Warp.faulted (w : Warp) (k : Nat) : List Faulted :=
  (w.accs.filterMap fun a => if a.slot = k then a.fault.map fun f =>
      ⟨a.seq, f, if a.space == .code then .load else a.kind.acc a.space, a.fpc, a.npc, a.wslot⟩ else none) ++
    w.sq.filterMap fun e => if e.slot = k then e.fault.map fun f => ⟨e.seq, f, e.kind.acc, e.fpc, e.npc, e.wslot⟩ else none

/-- The earliest granted of them. -/
def earliest : List Faulted → Option Faulted
  | [] => none
  | f :: fs => match earliest fs with
    | none => some f
    | some g => if g.seq < f.seq then some g else some f

/-- Has slot `k` an access granted before number `n` that is neither translated nor faulted? -/
def Warp.unsettled (w : Warp) (k n : Nat) : Bool :=
  (w.accs.any fun a => a.slot == k && a.seq < n && !a.walked && a.fault.isNone) ||
    (w.sq.any fun e => e.slot == k && e.seq < n && !e.walked && e.fault.isNone)

/-- R388 steps 1 to 3: the slot's accesses from the faulting one on and its held entries are discarded, and it stands at
its region's entry. -/
def Warp.replay (w : Warp) (k n : Nat) : Warp :=
  let gone := fun (slot seq : Nat) => slot == k && n ≤ seq
  let ids := (w.accs.filter fun a => gone a.slot a.seq).map (·.id)
  let sl := w.slot k
  let back := fun (r : Option (DWord × Mask)) => r.map fun _ => (sl.epc, sl.emask)
  let bs := (w.bnds.filter fun b => b.seq ≤ n).map fun b =>
    if k = 0 then { b with r0 := back b.r0 } else { b with r1 := back b.r1 }
  let w := { w with accs := w.accs.filter fun a => !gone a.slot a.seq,
                    sq := w.sq.filter fun e => !(e.slot == k && (e.held || n ≤ e.seq)),
                    dir := w.dir.filter fun p => !(ids.contains p.acc && p.tag.isNone),
                    fences := w.fences.filter fun f => !gone f.slot f.seq,
                    bnds := bs }
  w.setSlot k { sl with pc := sl.epc, mask := sl.emask, trap := none, wait := none }

/-- What else of slot `k`'s discarded accesses goes (R388): the row accesses that wait in the matrix engine, and the rest
of a chain that one of them holds. -/
def State.discard (s : State) (w : Warp) (k n : Nat) : State :=
  let ids := (w.accs.filter fun a => a.slot == k && n ≤ a.seq).map (·.id)
  let c := s.cluster w.cluster
  { s.setCluster w.cluster { c with mx := { c.mx with rws := c.mx.rws.filter fun r => !ids.contains r.num } } with
    paused := s.paused.filter fun p => !(p.1.uid == w.uid && p.1.slot == k) }

/-- WALK_FAULT (R388), once every access that the slot was granted before has been walked. -/
def execWalkFault (u k : Nat) (s : State) : Host.Outcome State Fault Refusal :=
  match s.warp? u with
  | none => .next s
  | some w =>
    match earliest (w.faulted k) with
    | none => .next s
    | some f =>
      if w.unsettled k f.seq then .next s
      else
        let s := s.discard w k f.seq
        let w' := (w.replay k f.seq).settleBnds
        if f.fault.perm then
          let sl := w'.slot k
          let t : TrapReq :=
            { cls := 13, mask := f.fault.mask, fpc := f.fpc, npc := f.npc, rpc := sl.epc, bpc := sl.epc, word := f.wslot,
              va := f.fault.va, info := f.acc.code, replay := true, seq := f.seq }
          .next ((s.setWarp (w'.setSlot k { sl with trap := some t })).takeTrap u k)
        else
          match s.faultRecord w.ctx f.fault.va f.fault.cause f.acc.code w.die w.xid 0 (.warp u k) with
          | (none, s) => .next s
          | (some id, s) =>
            .next (s.setWarp { w' with park := { w'.park with faults := w'.park.faults ++ [id] } })

/-! Capturing bytes. -/

/-- Fix the bytes of an access that lie in a line, from a reader of the line's bytes. -/
def Span.capture (x : Span) (line : Nat) (f : Nat → Option Byte) : Span :=
  if lineVa x.va = line then
    { x with got := x.got.zipIdx.map fun g => match g.1 with
      | some b => some b
      | none => f (x.va % 128 + g.2) }
  else x
def Access.capture (a : Access) (line : Nat) (f : Nat → Option Byte) : Access :=
  { a with spans := a.spans.map fun x => x.capture line f }

/-- Are all its bytes fixed? -/
def Access.fixed (a : Access) : Bool := a.spans.all fun x => x.got.all Option.isSome
def AKind.isLoad (k : AKind) : Bool := match k with | .load _ _ _ _ => true | _ => false

/-- Are the bytes of every load that the warp made before entry `e` fixed (R271)? -/
def Warp.loadsFixed (w : Warp) (e : SqEntry) : Bool :=
  w.accs.all fun a => !(a.kind.isLoad && (a.seq < e.seq || (a.seq == e.seq && a.id < e.id))) || a.fixed

/-- Have the entries that the access waits for performed (R269)? -/
def Warp.depsDone (w : Warp) (a : Access) : Bool :=
  a.spans.all fun x => match x.dep with
    | none => true
    | some id => !w.sq.any fun e => e.id == id

/-! The order of loads (R271, R274, R275): one may be made before earlier ones of its warp. -/

/-- Where a span's bytes lie: target, or scratchpad, and line. -/
def Span.spot (x : Span) (sp : Space) : Nat × Nat :=
  match sp with
  | .scr k => (3 + k, x.va / 128)
  | _ => match x.phys with
    | some p => (p.tgt, p.pa / 128)
    | none => (0, 0)

/-- Do an access and spans of a space lie in a common line? -/
def Access.meets (a : Access) (sp : Space) (xs : List Span) : Bool :=
  a.spans.any fun x => xs.any fun y => x.spot a.space == y.spot sp

/-- The earlier loads of the warp whose bytes are not all fixed. -/
def Warp.openBefore (w : Warp) (a : Access) : List Access :=
  w.accs.filter fun b => b.kind.isLoad && b.before a && !b.fixed

/-- May the load be made before them: each is translated, waits for no entry of the queue and lies in other lines? -/
def Warp.mayPass (w : Warp) (a : Access) : Bool :=
  (w.openBefore a).all fun b => b.walked && w.depsDone b && !b.meets a.space a.spans

/-- The warps whose stores a load of a core sees in one order (R271). -/
def State.sharers (s : State) (core : Nat) : List Warp :=
  s.warps.filter fun w => w.core == core || (s.fusedAt core && w.cluster == coreCluster core)

/-- May a load be made now: no store of the core to its lines is under way, if it passes earlier loads? -/
def State.loadReady (s : State) (w : Warp) (a : Access) : Bool :=
  w.depsDone a && w.mayPass a &&
    ((w.openBefore a).isEmpty || !(s.sharers w.core).any fun x => x.sq.any fun e => e.busy && a.meets e.space e.spans)

/-- Has a load been made, in part at least? -/
def State.made (s : State) (w : Warp) (a : Access) : Bool :=
  match a.space with
  | .scr _ => a.fixed
  | _ => a.walked && (spanLines a.spans).length !=
    (((look w.lane (s.core w.core).windows).getD []).filter fun r => r.w == w.uid && r.acc == a.id).length

/-- Must an entry wait for loads (R271): one of the core has been made, at a line of the entry, before earlier loads of
its warp? -/
def State.passed (s : State) (w : Warp) (e : SqEntry) : Bool :=
  (s.sharers w.core).any fun x => x.accs.any fun a =>
    a.kind.isLoad && a.meets e.space e.spans && !(x.openBefore a).isEmpty && s.made x a

/-! The window. -/

/-- Replace the window of a lane. -/
def State.setWindow (s : State) (core lane : Nat) (l : List LineReq) : State :=
  let c := s.core core
  s.setCore core { c with windows := if l.isEmpty then del lane c.windows else put lane l c.windows }

/-- The bytes of a line that sectors of `mask` give. -/
def lineReader (data : List Byte) (mask : Nat) (i : Nat) : Option Byte :=
  if bit mask (i / 16) then some (data.getD i 0) else none

/-- Capture into access `id` of warp `u`. -/
def State.captureAt (s : State) (u id line : Nat) (f : Nat → Option Byte) : State :=
  s.modWarp u fun w => { w with accs := w.accs.map fun a => if a.id == id then a.capture line f else a }

/-- A `.CG` load's request, or one that bypasses the L1 (R243): bytes of dirty sectors from the L1, the others from the
home slice. `none` when no tag is free. -/
def State.readThrough (s : State) (w : Warp) (a : Access) (r : LineReq) (nt : Bool) : Option State :=
  let dirty := match s.l1Line? w.core w.ctx r.va with | some l => l.dirty | none => 0
  let data := match s.l1Line? w.core w.ctx r.va with | some l => l.data | none => []
  let need := smDiff r.sectors dirty
  let s := s.captureAt w.uid a.id r.va (lineReader data dirty)
  if need = 0 then some s
  else (s.request w.core (.through w.uid a.id r.va) w.ctx r.va ⟨r.tgt, r.line * 128⟩ .read need [] nt).map (·.2)

/-- A `.CA` load's request (R221): bytes of valid sectors at once, the missing sectors fetched. -/
def State.readL1 (s : State) (w : Warp) (a : Access) (r : LineReq) : Option State :=
  match s.l1Line? w.core w.ctx r.va with
  | some l =>
    let need := smDiff r.sectors l.valid
    let s := (s.l1Put w.core l).captureAt w.uid a.id r.va (lineReader l.data l.valid)
    if need = 0 then some s
    else (s.request w.core (.fill w.uid a.id w.ctx r.va need true) w.ctx r.va ⟨r.tgt, r.line * 128⟩ .read need []
      false).map (·.2)
  | none =>
    match s.makeRoom w.core w.ctx r.va with
    | (.wait, _) => none
    | (.bypass, s) => s.readThrough w a r false
    | (.ok, s) =>
      (s.request w.core (.fill w.uid a.id w.ctx r.va r.sectors true) w.ctx r.va ⟨r.tgt, r.line * 128⟩ .read r.sectors []
        false).map (·.2)

/-- A line of the code cache, if it is there (R215, R244). -/
def State.codeLine (s : State) (core va : Nat) : Option (List Byte) := look (lineVa va) (s.core core).code

/-- Ask for a line for the code cache, and for code-space load `who`. -/
def State.codeAsk (s : State) (core ctx : Nat) (who : Option (Nat × Nat)) (va : Nat) (p : Phys) : Option State :=
  (s.request core (.code who (lineVa va) true) ctx va ⟨p.tgt, p.pa / 128 * 128⟩ .read 255 [] false).map (·.2)

/-- A PREF's request (R263): the home slice fills the line, and for `.L1` the L1 takes it as a `.CA` load would. With no
tag free the line is left out. -/
def State.prefReq (s : State) (w : Warp) (a : Access) (r : LineReq) (l2 : Bool) : Option State :=
  let p : Phys := ⟨r.tgt, r.line * 128⟩
  let home := fun (s : State) => some (((s.request w.core (.pref w.uid a.id) w.ctx r.va p .read 255 [] false).map (·.2)).getD s)
  let need := smDiff 255 (match s.l1Line? w.core w.ctx r.va with | some l => l.valid | none => 0)
  if l2 || need = 0 then home s
  else match s.makeRoom w.core w.ctx r.va with
    | (.ok, s) =>
      some (((s.request w.core (.fill w.uid a.id w.ctx r.va need true) w.ctx r.va p .read 255 [] false).map (·.2)).getD s)
    | (.bypass, s) => home s
    | (.wait, _) => if (s.core w.core).freeTag.isNone then some s else none

/-- Send one line request of the window: `none` when it has to wait. -/
def State.sendReq (s : State) (w : Warp) (a : Access) (r : LineReq) : Option State :=
  match a.kind with
  | .pref l2 => s.prefReq w a r l2
  | _ =>
    if a.space == .code then
      match s.codeLine w.core r.va with
      | some bs => some (s.captureAt w.uid a.id r.va (lineReader bs 255))
      | none => s.codeAsk w.core w.ctx (some (w.uid, a.id)) r.va ⟨r.tgt, r.line * 128⟩
    else if a.co = 1 then s.readThrough w a r false
    else if a.co = 2 then
      match s.l1Line? w.core w.ctx r.va with
      | some l =>
        if Config.ntHits && smDiff r.sectors l.valid = 0 then s.readL1 w a r else s.readThrough w a r true
      | none => s.readThrough w a r true
    else s.readL1 w a r

/-- May a request of the window go? -/
def State.reqReady (s : State) (r : LineReq) : Bool :=
  match s.warp? r.w with
  | none => true
  | some w => match w.accs.find? fun a => a.id == r.acc with
    | none => true
    | some a => a.kind.skips || s.loadReady w a

/-- COALESCE_REQUEST_SEND (R218) of lane `lane` (16 × core + lane): the first request that can go; with no tag free
nothing is sent (R224). -/
def execCoalesceRequestSend (lane : Nat) (s : State) : Host.Outcome State Fault Refusal :=
  let core := lane / 16
  let win := (look (lane % 16) (s.core core).windows).getD []
  match takeFirst s.reqReady win with
  | none => .next s
  | some (r, rest) =>
    match s.warp? r.w with
    | none => .next (s.setWindow core (lane % 16) rest)
    | some w => match w.accs.find? fun a => a.id == r.acc with
      | none => .next (s.setWindow core (lane % 16) rest)
      | some a => match s.sendReq w a r with
        | none => .next s
        | some s => .next (s.setWindow core (lane % 16) rest)

/-! Replies. -/

/-- Install the sectors of a fill that are not valid (R221); a line that has lost its room is not installed. -/
def State.install (s : State) (core ctx va sectors : Nat) (data : List Byte) : State :=
  match s.makeRoom core ctx va with
  | (.ok, s) =>
    let l := (s.l1Line? core ctx va).getD (L1Line.empty ctx va)
    let new := smDiff sectors l.valid
    s.l1Put core { l with valid := smOr l.valid new, data := mergeSectors l.data data new }
  | (_, s) => s

/-- Take a write-back's acknowledgement away from the fences that wait for it. -/
def Warp.ackWb (w : Warp) (core tag : Nat) : Warp :=
  { w with fences := w.fences.map fun (f : FenceRec) => { f with wbs := f.wbs.filter fun p => p != (core, tag) } }

/-- The next thread's or line's part of an entry has performed. -/
def SqEntry.advance (e : SqEntry) : SqEntry := { e with next := e.next + 1, busy := false }

/-- The threads of an entry, in order. -/
def SqEntry.threads (e : SqEntry) : List Nat := (e.spans.map (·.t)).eraseDups

/-- The parts an entry performs in: threads on scratchpad and for atomics (R270); for stores runs of threads in one line,
or, where a line is one request to its home slice, lines (R218; log entry 49). -/
def SqEntry.parts' (e : SqEntry) : Nat :=
  match e.kind, e.space with
  | .store, .glob => if e.co = 0 then (spanRuns e.spans).length else (spanLines e.spans).length
  | _, _ => e.threads.length

/-- The old value that an atomic read, put into a thread's spans. -/
def SqEntry.setOld (e : SqEntry) (t : Nat) (old : List Byte) : SqEntry :=
  { e with spans := e.spans.map fun x =>
      if x.t == t then { x with got := ((old.drop x.at_).take x.len).map some } else x }

/-- A thread's value gathered from its spans. -/
def gather (xs : List Span) (t : Nat) : List Byte :=
  (xs.filter fun x => x.t == t).flatMap fun x => x.got.map fun b => b.getD 0

/-- The writes of `n` words per thread to v-registers from a code. -/
def wordWrites (d : Nat) (n : Nat) (vals : List (Nat × List Word)) : List RegWrite :=
  (List.range n).map fun k => .v (d + k) (vals.map fun p => (p.1, nth p.2 k))

/-- An entry that has performed leaves the queue; an atomic's old values become a result (R100). -/
def State.retireEntry (s : State) (w : Warp) (e : SqEntry) : State :=
  let w := { w with sq := w.sq.filter fun x => x.id != e.id }
  match e.kind with
  | .atom _ size _ (some d) =>
    let n := size / 4
    let wr := wordWrites d n (e.threads.map fun t => (t, wordsAt (gather e.spans t) n))
    let a : Access :=
      { id := e.id, slot := e.slot, seq := e.seq, kind := .result wr, space := e.space, co := 0, priv := e.priv,
        dst := dstCodes d n, pdst := [], parts := e.parts, spans := [], walked := true, fault := none, fpc := e.fpc,
        npc := e.npc, wslot := e.wslot, sent := true, late := e.late }
    s.setWarp (w.addAccess a)
  | _ => s.setWarp w

/-- Put back an entry part of which has performed. -/
def State.putEntry (s : State) (w : Warp) (e : SqEntry) : State :=
  if e.next < e.parts' then s.setWarp (w.setEntry e) else s.retireEntry w e

/-- Change entry `id` of warp `u`. -/
def State.modEntry (s : State) (u id : Nat) (f : SqEntry → SqEntry) : State :=
  match s.warp? u with
  | none => s
  | some w => match w.sq.find? fun e => e.id == id with
    | none => s
    | some e => s.putEntry w (f e)

/-- The entry is not busy any more; it is tried again. -/
def State.unbusy (s : State) (u id : Nat) : State :=
  s.modWarp u fun w => { w with sq := w.sq.map fun e => if e.id == id then { e with busy := false } else e }

/-- The participants of an operation with bytes in codewords `ce` of its line (R293). -/
def CopyOp.within (o : CopyOp) (ce : Nat) : Mask :=
  maskOf ((o.parts.filter fun p => (List.range 4).any fun k =>
    bit ce k && p.2.1 < 32 * k + 32 && 32 * k < p.2.1 + p.2.2).map (·.1))

/-- A copy's line operation has its reply (R292): the bytes read, or the write performed; `ce` are the codewords that held
a corrected error. -/
def CopyEnt.opDone (e : CopyEnt) (idx : Nat) (write : Bool) (line : List Byte) (ce : Nat) : CopyEnt :=
  let fin := fun (o : CopyOp) => { o with state := 2 }
  let bad := match (if write then e.writes else e.reads)[idx]? with | some o => o.within ce | none => 0
  let e := { e with ce := e.ce ||| bad }
  if write then { e with writes := e.writes.modify idx fin }
  else
    let got := match e.reads[idx]? with
      | some o => o.parts.map fun p => (p.1, (line.drop p.2.1).take p.2.2)
      | none => []
    { e with reads := e.reads.modify idx fin, data := e.data ++ got }
def State.copyReply (s : State) (core ent idx : Nat) (write : Bool) (line : List Byte) (ce : Nat) : State :=
  let c := s.core core
  s.setCore core { c with copy := c.copy.map fun e => if e.num == ent then e.opDone idx write line ce else e }

/-- A line for the code cache has come (R215). -/
def State.codeFill (s : State) (core va : Nat) (bs : List Byte) : State :=
  let c := s.core core
  s.setCore core { c with code := put va bs c.code }

/-- What a reply does (R221, R224, R246). -/
def State.takeReply (s : State) (core : Nat) (use : TagUse) (r : HReply) : State :=
  match use with
  | .fill u id ctx va sectors keep =>
    let s := if keep then s.install core ctx va sectors r.data else s
    let s := match s.l1Line? core ctx va with
      | some l => if keep then s.captureAt u id va (lineReader l.data (Nat.land l.valid sectors)) else s
      | none => s
    (s.captureAt u id va (lineReader r.data sectors)).unbusy u id
  | .through u id va => s.captureAt u id va (lineReader r.data r.sectors)
  | .stored u ent _ _ => s.modEntry u ent SqEntry.advance
  | .atom u ent =>
    s.modEntry u ent fun e => (e.setOld (e.threads.getD e.next 0) r.data).advance
  | .wback => { s with warps := s.warps.map fun w => w.ackWb core r.tag }
  | .clean u f => s.modWarp u fun w => { w with fences := w.fences.map fun (x : FenceRec) =>
      if x.id == f then { x with wbs := x.wbs.filter fun p => p != (core, r.tag) } else x }
  | .pref _ _ => s
  | .code who va keep =>
    let s := if keep then s.codeFill core va r.data else s
    match who with
    | some (u, id) => s.captureAt u id va (lineReader r.data 255)
    | none => s
  | .dead => s
  | .copy c ent idx wr => s.copyReply c ent idx wr r.data r.ce

/-- L1_FILL (R221, R224): the core takes the first reply it has received, and its tag is free again. -/
def execL1Fill (core : Nat) (s : State) : Host.Outcome State Fault Refusal :=
  let c := s.core core
  match c.inbox with
  | [] => .next s
  | r :: rest =>
    match c.tags.find? fun t => t.tag == r.tag with
    | none => .next (s.setCore core { c with inbox := rest })
    | some t =>
      .next ((s.setCore core { c with inbox := rest, tags := c.tags.filter fun x => x.tag != r.tag }).takeReply core t.use r)

/-! Results. -/

/-- Sign- or zero-extend a value of `size` bytes to words (R97). -/
def loadWords (size : Nat) (sx : Bool) (bs : List Byte) : List Word :=
  if size < 4 then
    let v := leNat bs
    [if sx then BitVec.ofInt 32 (sval (8 * size) v) else BitVec.ofNat 32 v]
  else wordsAt bs (size / 4)

/-- What a finished load writes. -/
def loadWrites (size : Nat) (sx scalar : Bool) (d : Nat) (xs : List Span) : List RegWrite :=
  let n := if size < 4 then 1 else size / 4
  let ts := (xs.map (·.t)).eraseDups
  if scalar then
    match ts with
    | [] => []
    | t :: _ => (List.range n).map fun k => .s (d - 64 + k) (nth (loadWords size sx (gather xs t)) k)
  else wordWrites d n (ts.map fun t => (t, loadWords size sx (gather xs t)))

/-- The granules of 16 bytes that a run of scratchpad bytes touches (R298). -/
def granules (lo n : Nat) : List Nat := (List.range ((lo + n + 15) / 16 - lo / 16)).map fun k => lo / 16 + k

/-- The scratchpad bytes of a copy's operations. -/
def CopyOp.scrGranules (o : CopyOp) : List Nat :=
  if o.glob then [] else o.parts.flatMap fun p => granules (o.base + p.2.1) p.2.2

/-- Write-pending and read-pending granules of a core (R298). -/
def Core.writePending (c : Core) : List Nat := c.copy.flatMap fun e => e.writes.flatMap CopyOp.scrGranules
def Core.readPending (c : Core) : List Nat :=
  c.copy.flatMap fun e => if e.reads.all (·.state == 2) then [] else e.reads.flatMap CopyOp.scrGranules

/-- Does a span touch one of the granules? -/
def Span.meets (x : Span) (gs : List Nat) : Bool := (granules x.va x.len).any gs.contains

/-- Bytes of a scratchpad. -/
def State.scrRead (s : State) (core a n : Nat) : List Byte := cellsRead (s.core core).scratch a n
def State.scrWrite (s : State) (core a : Nat) (bs : List Byte) : State :=
  let c := s.core core
  s.setCore core { c with scratch := cellsWrite c.scratch a bs }

/-- A load from scratchpad fixes its bytes when it replies, its earlier loads being fixed (R269, R271). -/
def State.readScratch (s : State) (w : Warp) (a : Access) : Access :=
  match a.space with
  | .scr k =>
    if s.loadReady w a then
      { a with spans := a.spans.map fun x =>
          { x with got := x.got.zipIdx.map fun g => some (g.1.getD (cellRead (s.core k).scratch (x.va + g.2))) } }
    else a
  | _ => a

/-- MEMORY_REPLY (R22, R107): the result of an access all of whose bytes are fixed is written, and not to threads that
have exited. -/
def execMemoryReply (u id : Nat) (s : State) : Host.Outcome State Fault Refusal :=
  match s.warp? u with
  | none => .next s
  | some w =>
    match w.accs.find? fun a => a.id == id with
    | none => .next s
    | some a0 =>
      let a := s.readScratch w a0
      match a.kind with
      | .load size sx scalar d =>
        if a.walked && a.fixed then
          .next (s.setWarp ((w.reply id (loadWrites size sx scalar d a.spans)).dropAccess id))
        else .next s
      | .result wr => .next (s.setWarp ((w.reply id wr).dropAccess id))
      | .pref _ =>
        let c := s.core w.core
        let open_ := c.windows.any (fun p => p.2.any fun r => r.w == u && r.acc == id) || c.tags.any fun t =>
          match t.use with | .fill x i _ _ _ _ | .pref x i => x == u && i == id | _ => false
        if a.walked && !open_ then .next (s.setWarp (w.dropAccess id)) else .next s
      | _ => .next s

end Sys2Proof.Machine
end

