-- ==== Sys2Proof/Machine/Alloc.lean ====
section
/-! DEFINITION. The lane's pool of physical registers: claims, parking on allocation, spill and restore (07 R156 to
R160). -/

namespace Sys2Proof.Machine

/-- Codes of registers that a store-queue entry's result will write. -/
def SqEntry.dst (e : SqEntry) : List Nat :=
  match e.kind with
  | .atom _ size _ (some d) => dstCodes d (size / 4)
  | .direct _ st => dstCodes st 1
  | _ => []

/-- Codes of registers that have a result outstanding (R22). -/
def Warp.outstanding (w : Warp) : List Nat := w.accs.flatMap (·.dst) ++ w.sq.flatMap SqEntry.dst

/-- Physical registers a warp holds or will hold: a register with a result outstanding counts as general (R156,
R158). -/
def Warp.claims (w : Warp) : Nat :=
  let out := w.outstanding
  (w.v.zipIdx).foldl (fun n p => n + if out.contains p.2 then 32 else p.1.cost) 0

/-- R157: the reservation. -/
def Warp.reserved (w : Warp) : Nat := 32 * w.floor

/-- The lane's warps, oldest first. -/
def State.laneWarps (s : State) (core lane : Nat) : List Warp :=
  ((look lane (s.core core).lanes).getD []).filterMap fun u => s.warp? u

/-- Registers that the lane's other warps keep from a warp (R158). -/
def State.othersUse (s : State) (w : Warp) : Nat :=
  ((s.laneWarps w.core w.lane).filter fun x => x.uid != w.uid).foldl (fun n x => n + max x.reserved x.claims) 0

/-- Can a warp hold `n` registers (R158)? -/
def State.poolHolds (s : State) (w : Warp) (n : Nat) : Bool := n ≤ w.reserved || s.othersUse w + n ≤ 8192

/-- ALLOCATION_RELEASE (R158) of lane `lane` (16 × core + lane): the oldest warp parked on allocation, once the pool is
large enough. -/
def execAllocationRelease (lane : Nat) (s : State) : Host.Outcome State Fault Refusal :=
  match (s.laneWarps (lane / 16) (lane % 16)).find? fun w => w.park.alloc != 0 && !w.park.restore with
  | none => .next s
  | some w =>
    if s.poolHolds w w.park.alloc then .next (s.setWarp { w with park := { w.park with alloc := 0 } }) else .next s

/-- Form byte of a register and the bytes it spills (R160). -/
def VReg.spillForm : VReg → Nat
  | .unalloc => 0
  | .general _ => 1
  | .uniform _ => 2
  | .affine _ _ => 3
def VReg.spillBytes : VReg → List Byte
  | .unalloc => []
  | .general l => (List.range 32).flatMap fun t => leBytes 4 (nth l t).toNat
  | .uniform u => leBytes 4 u.toNat
  | .affine b s => leBytes 4 b.toNat ++ leBytes 4 s.toNat

/-- The register that a form byte and 128 bytes stand for. -/
def vregOf (form : Nat) (bs : List Byte) : VReg :=
  let w := fun k => BitVec.ofNat 32 (leNat ((bs.drop (4 * k)).take 4))
  match form with
  | 1 => .general ((List.range 32).map w)
  | 2 => .uniform (w 0)
  | 3 => .affine (w 0) (w 1)
  | _ => .unalloc

/-- Spill register `k` of a warp: false when a write faulted. -/
def State.spillReg (s : State) (w : Warp) (k : Nat) : Bool × State :=
  match s.laneWrite w (w.control + 512 + 128 * k) (w.vreg k).spillBytes with
  | (false, s) => (false, s)
  | (true, s) =>
    match s.laneWrite w (w.control + 8704 + k) [BitVec.ofNat 8 (w.vreg k).spillForm] with
    | (false, s) => (false, s)
    | (true, s) =>
      (true, s.modWarp w.uid fun w => { w with v := w.v.set k .unalloc, spilled := w.spilled ++ [k] })

/-- The registers that R159 spills of a warp, highest name first, until it holds no more than its reservation. -/
def spillList (w : Warp) : List Nat → Nat → List Nat
  | [], _ => []
  | k :: ks, held =>
    if held ≤ w.reserved then []
    else if w.outstanding.contains k || w.vreg k == .unalloc then spillList w ks held
    else k :: spillList w ks (held - (w.vreg k).cost)
def Warp.toSpill (w : Warp) : List Nat := spillList w (List.range 63).reverse w.claims

/-- Spill registers one after another; the depth of the divergence stack in memory is exact (R149). -/
def State.spillAll (s : State) (u : Nat) : List Nat → State
  | [] => s
  | k :: ks =>
    match s.warp? u with
    | none => s
    | some w =>
      match s.spillReg w k with
      | (true, s) => s.spillAll u ks
      | (false, s) => s

/-- LANE_SPILL (R159): every resident warp of the lane is parked on allocation, and the oldest cannot be granted: the
youngest other warp that holds more than its reservation spills the excess. -/
def execLaneSpill (lane : Nat) (s : State) : Host.Outcome State Fault Refusal :=
  let ws := s.laneWarps (lane / 16) (lane % 16)
  match ws with
  | [] => .next s
  | o :: rest =>
    if !(ws.all fun w => w.park.alloc != 0) || s.poolHolds o o.park.alloc then .next s
    else match rest.reverse.find? fun w => !w.toSpill.isEmpty && w.park.faults.isEmpty with
      | none => .next s
      | some w =>
        match s.laneWrite w (w.control + 480) (leBytes 4 w.depth) with
        | (false, s) => .next s
        | (true, s) =>
          .next ((s.modWarp w.uid fun w => { w with park := { w.park with restore := true } }).spillAll w.uid w.toSpill)

/-- What a spilled register holds in memory: or the fault of the read. -/
def State.spilledReg (s : State) (w : Warp) (k : Nat) : (WalkRes × Nat ⊕ VReg) × State :=
  let rd := fun (s : State) (a n : Nat) => s.laneRead w a n
  match rd s (w.control + 8704 + k) 1 with
  | (.inl r, s) => (.inl (r, (w.control + 8704 + k) % 2 ^ 64), s)
  | (.inr f, s) =>
    match rd s (w.control + 512 + 128 * k) 128 with
    | (.inl r, s) => (.inl (r, (w.control + 512 + 128 * k) % 2 ^ 64), s)
    | (.inr bs, s) => (.inr (vregOf (leNat f) bs), s)

/-- All of them, or the first fault. -/
def State.spilledRegs (s : State) (w : Warp) : List Nat → (WalkRes × Nat ⊕ List (Nat × VReg)) × State
  | [] => (.inr [], s)
  | k :: ks =>
    match s.spilledReg w k with
    | (.inl e, s) => (.inl e, s)
    | (.inr r, s) =>
      match s.spilledRegs w ks with
      | (.inl e, s) => (.inl e, s)
      | (.inr rs, s) => (.inr ((k, r) :: rs), s)

/-- SPILL_RESTORE (R159): the spilled registers come back in their forms once the pool can hold them all. -/
def execSpillRestore (u : Nat) (s : State) : Host.Outcome State Fault Refusal :=
  match s.warp? u with
  | none => .next s
  | some w =>
    if !w.park.restore || !w.park.faults.isEmpty then .next s
    else
      match s.spilledRegs w w.spilled with
      | (.inl (r, va), s) => .next (s.laneFault w va 0 r)
      | (.inr rs, s) =>
        let n := rs.foldl (fun n p => n + p.2.cost) w.claims
        if !s.poolHolds w n then .next s
        else
          match rs.foldl (fun (x : Bool × State) p =>
              if x.1 then x.2.laneWrite w (w.control + 8704 + p.1) [0] else x) (true, s) with
          | (false, s) => .next s
          | (true, s) =>
            .next (s.modWarp u fun w =>
              { w with v := rs.foldl (fun v p => v.set p.1 p.2) w.v, spilled := [],
                       park := { w.park with restore := false } })

end Sys2Proof.Machine
end

