-- ==== Sys2Proof/Machine/Barrier.lean ====
section
/-! DEFINITION. Barriers (08 R184 to R186) and YIELD (R187). -/

namespace Sys2Proof.Machine

/-- Arrivals of a warp's threads that are pending at barrier `id` of a scope. -/
def Warp.arrived (w : Warp) (scope id : Nat) : Mask :=
  (match scope with | 0 => w.barW | 1 => w.barG | _ => w.barX).getD id 0
def Warp.setArrived (w : Warp) (scope id : Nat) (m : Mask) : Warp :=
  match scope with
  | 0 => { w with barW := w.barW.set id m }
  | 1 => { w with barG := w.barG.set id m }
  | _ => { w with barX := w.barX.set id m }

/-- The slot waits; its instruction is granted (R185). -/
def Warp.await (w : Warp) (k : Nat) (x : Wait) : Warp := w.setSlot k { w.slot k with wait := some x }

/-- BAR and BARA: the active threads arrive; one that has arrived already traps (R186). -/
def State.arrive (s : State) (h : Hdr) (id scope : Nat) (waits : Bool) : Host.Outcome State Fault Refusal :=
  match s.cur with
  | none => noWarp
  | some (c, w) =>
    let m := (w.slot c.slot).mask
    let twice := m &&& w.arrived scope id
    if twice != 0 then .next (s.trapWord c h (c.trapOf 1 twice 0 c.word.toNat (w.seq + 1)))
    else
      let w := w.setArrived scope id (w.arrived scope id ||| m)
      let w := if waits then w.await c.slot (.barrier scope id) else w
      .next ((s.setWarp w).endWord h .self)

/-- BAR (R185). -/
def execBar (h : Hdr) (_d a b : BitVec 7) (s : State) : Host.Outcome State Fault Refusal :=
  s.arrive h a.toNat b.toNat true
/-- BARA (R185). -/
def execBara (h : Hdr) (_d a b : BitVec 7) (s : State) : Host.Outcome State Fault Refusal :=
  s.arrive h a.toNat b.toNat false

/-- BARW (R185): waits while an active thread's arrival is pending. -/
def execBarw (h : Hdr) (_d a b : BitVec 7) (s : State) : Host.Outcome State Fault Refusal :=
  match s.cur with
  | none => noWarp
  | some (c, w) =>
    let pending := (w.slot c.slot).mask &&& w.arrived b.toNat a.toNat
    let w := if pending != 0 then w.await c.slot (.barrier b.toNat a.toNat) else w
    .next ((s.setWarp w).endWord h .no)

/-- The warps of the unit of a barrier of warp `w` (R184). -/
def Warp.inUnit (w x : Warp) (scope : Nat) : Bool :=
  match scope with
  | 0 => x.uid == w.uid
  | 1 => x.gang == w.gang && x.wgid == w.wgid
  | _ => x.gang == w.gang

/-- Has every member of the unit arrived, and one at least (R185)? -/
def State.phaseDone (s : State) (w : Warp) (scope id : Nat) : Bool :=
  let us := s.warps.filter fun x => w.inUnit x scope
  (us.all fun x => x.live &&& ~~~x.arrived scope id == 0) && us.any fun x => x.arrived scope id != 0

/-- End the wait of a slot that waits for `x`. -/
def Slot.wake (sl : Slot) (x : Wait) : Slot := if sl.wait == some x then { sl with wait := Option.none } else sl

/-- BARRIER_PHASE_COMPLETE (R185). -/
def execBarrierPhaseComplete (u scope id : Nat) (s : State) : Host.Outcome State Fault Refusal :=
  match s.warp? u with
  | none => .next s
  | some w =>
    if s.phaseDone w scope id then
      let go := fun (x : Warp) =>
        { x.setArrived scope id 0 with slots := x.slots.map fun sl => sl.wake (.barrier scope id) }
      .next { s with warps := s.warps.map fun x => if w.inUnit x scope then go x else x }
    else .next s

/-- YIELD (R187); with no participant nothing is performed (R18). -/
def execYield (h : Hdr) (_d _a _b : BitVec 7) (s : State) : Host.Outcome State Fault Refusal :=
  match s.cur with
  | none => noWarp
  | some (c, w) =>
    let s := s.endWord h .no
    .next (if (c.src w).participants c.slot h == 0 then s else s.youngest c.uid)

end Sys2Proof.Machine
end

