-- ==== Sys2Proof/Machine/Perform.lean ====
section
/-! DEFINITION. How store-queue entries perform (12 R268, R270, R271; 11 R242 to R247, R253; 10 R221). -/

namespace Sys2Proof.Machine

/-- The entry's spans of a thread; the spans in a line. -/
def SqEntry.ofThread (e : SqEntry) (t : Nat) : List Span := e.spans.filter fun x => x.t == t
def SqEntry.inLine (e : SqEntry) (va : Nat) : List Span := e.spans.filter fun x => lineVa x.va == va

/-- Bytes that spans store in a line, at their offsets, later threads last (R103). -/
def lineBytes (xs : List Span) : List (Nat × Byte) :=
  xs.flatMap fun x => x.data.zipIdx.map fun b => (x.va % 128 + b.2, b.1)

/-- The places of a thread's bytes, in runs. -/
def placesOf (xs : List Span) : List (Phys × Nat) := xs.map fun x => (x.phys.getD ⟨0, 0⟩, x.len)

/-- The operand of a thread's atomic. -/
def operandOf (xs : List Span) : List Byte := match xs with | x :: _ => x.data | [] => []

/-- Bytes written into runs one after another. -/
def State.scrRuns (s : State) (core : Nat) : List Span → List Byte → State
  | [], _ => s
  | x :: xs, bs => (s.scrWrite core x.va (bs.take x.len)).scrRuns core xs (bs.drop x.len)

/-- The copies of a core but those that wait for the entry: the warp's own that were granted later (R297; log entry 11). -/
def Core.copiesBut (c : Core) (w : Warp) (e : SqEntry) : Core :=
  { c with copy := c.copy.filter fun x => !(x.w == w.uid && e.seq < x.seq) }

/-- A thread's part of an entry on scratchpad (R245, R268, R282), once no copy's mark stands on its granules (R298). -/
def State.performScr (s : State) (w : Warp) (e : SqEntry) (k : Nat) : State :=
  let t := e.threads.getD e.next 0
  let xs := e.ofThread t
  let c := (s.core k).copiesBut w e
  if xs.any fun x => x.meets c.writePending || x.meets c.readPending then s
  else
    match e.kind with
    | .atom op size _ _ =>
      let old := xs.flatMap fun x => s.scrRead k x.va x.len
      let new := leBytes size (op.apply size (leNat old) (leNat (operandOf xs)))
      (s.scrRuns k xs new).putEntry w ((e.setOld t old).advance)
    | _ => (xs.foldl (fun s x => s.scrWrite k x.va x.data) s).putEntry w e.advance

/-- Mark an entry busy. -/
def Warp.busy (w : Warp) (e : SqEntry) : Warp := w.setEntry { e with busy := true }

/-- A line of a `.CG` or `.NT` store (R243), or one that bypasses the L1 (R223): it goes to the home slice. -/
def State.storeThrough (s : State) (w : Warp) (e : SqEntry) (va : Nat) (p : Phys) (sectors : Nat) (nt : Bool)
    (xs : List Span) : State :=
  match s.request w.core (.stored w.uid e.id w.ctx va) w.ctx va p (.write false) sectors (lineBytes xs) nt with
  | none => s
  | some (_, s) => (s.unkeep w.core w.ctx va).setWarp (w.busy e)

/-- Have the missing sectors of a line filled for an entry (R221). -/
def State.fillFor (s : State) (w : Warp) (e : SqEntry) (va : Nat) (p : Phys) (need : Nat) : State :=
  match s.request w.core (.fill w.uid e.id w.ctx va need true) w.ctx va ⟨p.tgt, p.pa / 128 * 128⟩ .read need [] false with
  | none => s
  | some (_, s) => s.setWarp (w.busy e)

/-- What a run `xs` of a `.CA` store writes into a line that holds the sectors `valid`: its own bytes, and the whole of each
sector that the entry covers in full and the line lacks (R221). -/
def runBytes (all xs : List (Nat × Byte)) (valid : Nat) : List (Nat × Byte) :=
  let fresh := smDiff (Nat.land (fullSectors all) (sectorsOf xs)) valid
  (all.filter fun b => bit fresh (b.1 / 16)) ++ xs.filter fun b => !bit fresh (b.1 / 16)

/-- A run of a `.CA` store in one line (R221): the sectors that the entry covers in part are filled first, written sectors
become dirty. -/
def State.storeL1 (s : State) (w : Warp) (e : SqEntry) (va : Nat) (p : Phys) (xs : List Span) : State :=
  match s.makeRoom w.core w.ctx va with
  | (.wait, _) => s
  | (.bypass, s) => s.storeThrough w e va p (sectorsOf (lineBytes xs)) false xs
  | (.ok, s) =>
    let l := (s.l1Line? w.core w.ctx va).getD (L1Line.empty w.ctx va)
    let all := lineBytes (e.inLine va)
    let need := smDiff (smDiff (sectorsOf all) (fullSectors all)) l.valid
    let touched := sectorsOf (lineBytes xs)
    if need = 0 then
      (s.l1Put w.core { l with valid := smOr l.valid touched, dirty := smOr l.dirty touched,
                               data := patch l.data (runBytes all (lineBytes xs) l.valid) }).putEntry w e.advance
    else s.fillFor w e va p need

/-- The first line of a thread's atomic that the L1 lacks, with its place and the sectors to fill. -/
def State.missing (s : State) (w : Warp) : List (Nat × Phys × Nat) → Option (Nat × Phys × Nat)
  | [] => none
  | (va, p, m) :: ls =>
    let valid := match s.l1Line? w.core w.ctx va with | some l => l.valid | none => 0
    if smDiff m valid = 0 then s.missing w ls else some (va, p, smDiff m valid)

/-- R246: before an atomic goes to a home slice its dirty L1 sectors are written back and its sectors invalidated:
0 done, 1 to be tried again, 2 a write-back fault. -/
def State.flushFor (s : State) (w : Warp) : List (Nat × Phys × Nat) → Nat × State
  | [] => (0, s)
  | (va, _, m) :: ls =>
    match s.l1Line? w.core w.ctx va with
    | none => (s.unkeep w.core w.ctx va).flushFor w ls
    | some l =>
      if l.held then (2, s)
      else if s.storing w.core w.ctx va then (1, s)
      else if Nat.land l.dirty m = 0 then (s.l1Invalidate w.core w.ctx va m).flushFor w ls
      else match s.writeBack w.core l (Nat.land l.dirty m) with
        | (.sent _ _, s) => (s.l1Invalidate w.core w.ctx va m).flushFor w ls
        | (.noTag, s) => (1, s)
        | (.fault, s) => (2, s)

/-- Is a write-back of the L1s that hold the core's lines under way? -/
def State.wbOpen (s : State) (core : Nat) : Bool :=
  (List.range 4).any fun j =>
    let k := core / 4 * 4 + j
    (s.fusedAt core || k == core) && (s.core k).tags.any fun t => t.use == .wback

/-- A thread's atomic at the home slice (R245, R246). One on bytes of several lines goes once the write-backs have been
acknowledged: the lines may have different home slices. -/
def State.atomHome (s : State) (w : Warp) (e : SqEntry) (op : AtomOp) (size : Nat) (xs : List Span) : State :=
  match s.flushFor w (spanLines xs) with
  | (1, s) => s
  | (0, s) =>
    if 1 < (spanLines xs).length && s.wbOpen w.core then s else
    let va := match xs with | x :: _ => x.va | [] => 0
    let places := placesOf xs
    let p := match places with | (p, _) :: _ => p | [] => ⟨0, 0⟩
    match s.request w.core (.atom w.uid e.id) w.ctx va p (.atom op size places (operandOf xs))
        (match spanLines xs with | (_, _, m) :: _ => m | [] => 0) [] false with
    | none => s
    | some (_, s) => s.setWarp (w.busy e)
  | (_, s) => s.ctxFatal w.ctx w.die (w.core % 128) codeWriteBack e.fpc.toNat

/-- Runs of bytes written into L1 lines. -/
def State.l1Runs (s : State) (w : Warp) : List Span → List Byte → State
  | [], _ => s
  | x :: xs, bs =>
    match s.l1Line? w.core w.ctx x.va with
    | none => s
    | some l =>
      let bytes := (bs.take x.len).zipIdx.map fun b => (x.va % 128 + b.2, b.1)
      (s.l1Put w.core { l with dirty := smOr l.dirty (sectorsOf bytes), data := patch l.data bytes }).l1Runs w xs
        (bs.drop x.len)

/-- The bytes of runs in the L1. -/
def State.l1Bytes (s : State) (w : Warp) (xs : List Span) : List Byte :=
  xs.flatMap fun x => match s.l1Line? w.core w.ctx x.va with
    | some l => (l.data.drop (x.va % 128)).take x.len
    | none => List.replicate x.len 0

/-- A thread's atomic at `.WG` scope on global or private space (R221, R245). -/
def State.atomL1 (s : State) (w : Warp) (e : SqEntry) (op : AtomOp) (size t : Nat) (xs : List Span) : State :=
  match s.missing w (spanLines xs) with
  | none =>
    let old := s.l1Bytes w xs
    let new := leBytes size (op.apply size (leNat old) (leNat (operandOf xs)))
    (s.l1Runs w xs new).putEntry w ((e.setOld t old).advance)
  | some (va, p, need) =>
    match s.makeRoom w.core w.ctx va with
    | (.wait, _) => s
    | (.bypass, s) => s.atomHome w e op size xs
    | (.ok, s) => s.fillFor w e va p need

/-- The packets of an ST.DIR, which leave when its entry performs (R250, R253). -/
def SqEntry.packets (e : SqEntry) (id0 : Nat) (size st : Nat) : List DirPkt :=
  e.spans.zipIdx.map fun x =>
    { id := id0 + x.2, acc := e.id, t := x.1.t, write := true, phys := x.1.phys.getD ⟨0, 0⟩, size, data := x.1.data,
      d := 0, st, tag := none, reply := none }

/-- The next part of a store to global or private space: a run of threads at the L1 or a line at its home slice. -/
def State.performStore (s : State) (w : Warp) (e : SqEntry) : State :=
  if e.co = 0 then
    match (spanRuns e.spans)[e.next]? with
    | some (x :: xs) =>
      let p := x.phys.getD ⟨0, 0⟩
      s.storeL1 w e (lineVa x.va) ⟨p.tgt, p.pa / 128 * 128⟩ (x :: xs)
    | _ => s.retireEntry w e
  else
    match (spanLines e.spans)[e.next]? with
    | none => s.retireEntry w e
    | some (va, p, m) => s.storeThrough w e va ⟨p.tgt, p.pa / 128 * 128⟩ m (e.co == 2) (e.inLine va)

/-- STORE_ENTRY_PERFORM (R270): the next part of the oldest entry, released, translated, and after the warp's earlier
loads (R271). -/
def execStoreEntryPerform (u : Nat) (s : State) : Host.Outcome State Fault Refusal :=
  match s.warp? u with
  | none => .next s
  | some w =>
    match w.sq with
    | [] => .next s
    | e :: _ =>
      if e.held || e.busy || !e.walked || e.fault.isSome || !w.loadsFixed e || s.passed w e then .next s
      else
        match e.space with
        | .scr k => .next (s.performScr w e k)
        | _ =>
          match e.kind with
          | .store => .next (s.performStore w e)
          | .atom op size sc _ =>
            let t := e.threads.getD e.next 0
            let xs := e.ofThread t
            .next (if sc = 1 then s.atomL1 w e op size t xs else s.atomHome w e op size xs)
          | .direct size st =>
            let ps := e.packets s.nextId size st
            .next ({ s with nextId := s.nextId + ps.length }.setWarp { w.busy e with dir := w.dir ++ ps })
          | .push _ _ => .next (s.setWarp (w.busy e))

end Sys2Proof.Machine
end

