-- ==== Sys2Proof/Machine/Copy.lean ====
section
/-! DEFINITION. The copy engine (14 R288 to R301). -/

namespace Sys2Proof.Machine

/-- One side of a copy: is it global, and each participant's address or offset. -/
structure Side where
  glob : Bool
  adr : Nat → Nat

/-- The sides of a CPY, destination then source (R288). -/
def cpySides (r : Warp) (dir : Nat) (a b : BitVec 7) : Side × Side :=
  let s := fun (glob : Bool) (c : BitVec 7) =>
    ({ glob, adr := fun t => if glob then r.wide c.toNat t 2 else (r.reg c.toNat t).toNat } : Side)
  (s (dir != 0) a, s (dir != 1) b)

/-- The participants that fail a check on a side. -/
def Side.fails (x : Side) (ts : List Nat) (p : Nat → Bool) : List Nat := ts.filter fun t => p (x.adr t)

/-- The first failing condition of R290: class and, for destination and source, the threads that fail. -/
def State.cpyCheck (s : State) (w : Warp) (size : Nat) (ts : List Nat) (dst src : Side) :
    Option (Nat × List Nat × List Nat) :=
  let tiles := s.tilesOf w w.wgid
  let both := fun (cls : Nat) (p : Side → Nat → Bool) (rest : Option (Nat × List Nat × List Nat)) =>
    let fd := dst.fails ts (p dst)
    let fs := src.fails ts (p src)
    if fd.isEmpty && fs.isEmpty then rest else some (cls, fd, fs)
  both 3 (fun _ a => a % size != 0) <|
  both 4 (fun x a => !x.glob && 4096 * tiles.length < a + size) <|
  both 5 (fun x a => !x.glob && (s.core w.core).engine.contains (tilePlace tiles a / 4096)) none

/-- The line operations of one side (R292): lines in the order of the lowest thread that touches each. -/
def lineOps (glob : Bool) (size : Nat) (place : Nat → Nat) (ts : List Nat) : List CopyOp :=
  ts.foldl (fun ops t =>
    let a := place t
    if ops.any fun o => o.base == lineVa a then
      ops.map fun (o : CopyOp) => if o.base == lineVa a then { o with parts := o.parts ++ [(t, a % 128, size)] } else o
    else ops ++ [{ glob, base := lineVa a, parts := [(t, a % 128, size)], state := 0 }]) []

/-- CPY (R289 to R291, R299). -/
def execCpy (h : Hdr) (d a b : BitVec 7) (s : State) : Host.Outcome State Fault Refusal :=
  match s.cur with
  | none => noWarp
  | some (c, w) =>
    let r := c.src w
    let copyq := match s.gang? w.gang with | some g => g.lrec.copyq | none => 0
    let parts := r.participants c.slot h
    if copyq = 0 then
      .next (s.trapWord c h (c.trapOf 1 (w.slot c.slot).mask 0 c.word.toNat (w.seq + 1)))
    else if parts == 0 then .next (s.endWord h .self)
    else
      let sz := h.ih % 4
      let dir := fld h.ih 2 2
      let size := 4 * 2 ^ sz
      let ts := threads parts
      let (dst, src) := cpySides r dir a b
      match s.cpyCheck w size ts dst src with
      | some (cls, fd, fs) =>
        let bad := maskOf (fd ++ fs)
        let t := (lowest bad).getD 0
        let va := if fd.contains t then dst.adr t else src.adr t
        .next (s.trapWord c h (c.trapOf cls bad va (if fd.contains t then 5 else 4) (w.seq + 1)))
      | none =>
        let tiles := s.tilesOf w w.wgid
        let place := fun (x : Side) (t : Nat) => if x.glob then x.adr t else tilePlace tiles (x.adr t)
        let k := s.core w.core
        let num := ((List.range 64).find? fun n => !k.copy.any fun e => e.num == n).getD 0
        let e : CopyEnt :=
          { num, w := w.uid, ctx := w.ctx, gang := w.gang, wg := w.wgid, seq := w.seq, acc := s.nextId, fpc := c.fpc,
            priv := w.handler.isSome, sz, dir, d := d.toNat, reads := lineOps src.glob size (place src) ts,
            writes := lineOps dst.glob size (place dst) ts, data := [], ce := 0, fault := none, parked := none }
        let w := (w.markAlone c (markCodes h a.toNat b.toNat) parts).addAccess
          (c.access w s.nextId (.engine false) .glob 0 [d.toNat] [] parts [] true)
        .next (((s.fresh.setCore w.core { k with copy := k.copy ++ [e] }).setWarp w).endWord h .self)

/-! Line operations. -/

/-- Where an operation's line lies: on scratchpad, or by target where it is mapped. -/
def State.opSpot (s : State) (core : Nat) (e : CopyEnt) (o : CopyOp) : Nat × Nat :=
  if !o.glob then (3, o.base / 128)
  else match (s.access (some core) (coreCluster core) (coreDie core) e.ctx o.base .copyRead e.priv true).1 with
    | .ok p _ _ _ _ => (p.tgt, p.pa / 128)
    | _ => (4, o.base / 128)

/-- Do two operations touch a common place of their lines? -/
def CopyOp.overlaps (o p : CopyOp) : Bool :=
  o.parts.any fun x => p.parts.any fun y => x.2.1 < y.2.1 + y.2.2 && y.2.1 < x.2.1 + x.2.2

/-- Must an operation `o` of entry `f` wait for an earlier entry, which touches a common byte and is the one to write it or
to have it written (R296)? -/
def State.opBlocked (s : State) (core : Nat) (e f : CopyEnt) (o : CopyOp) (write : Bool) : Bool :=
  (e.writes ++ if write then e.reads else []).any fun p =>
    p.state != 2 && p.overlaps o && s.opSpot core e p == s.opSpot core f o

/-- The next operation of an entry: reads, then, when all have been made, writes (R291). -/
def CopyEnt.nextOp (e : CopyEnt) : Option (Bool × Nat × CopyOp) :=
  match (e.reads.zipIdx.find? fun o => o.1.state == 0) with
  | some (o, i) => some (false, i, o)
  | none =>
    if e.reads.all fun o => o.state == 2 then
      (e.writes.zipIdx.find? fun o => o.1.state == 0).map fun o => (true, o.2, o.1)
    else none

def State.modCopy (s : State) (core num : Nat) (f : CopyEnt → CopyEnt) : State :=
  let c := s.core core
  s.setCore core { c with copy := c.copy.map fun e => if e.num == num then f e else e }

/-- The bytes that a write operation carries, the highest thread's last (R291). -/
def CopyEnt.bytesFor (e : CopyEnt) (o : CopyOp) : List (Nat × Byte) :=
  o.parts.flatMap fun p => (((look p.1 e.data).getD []).zipIdx).map fun b => (p.2.1 + b.2, b.1)

/-- An operation on the core's scratchpad. -/
def State.copyScr (s : State) (core : Nat) (e : CopyEnt) (write : Bool) (i : Nat) (o : CopyOp) : State :=
  if write then
    let s := (e.bytesFor o).foldl (fun s b => s.scrWrite core (o.base + b.1) [b.2]) s
    s.modCopy core e.num fun e => e.opDone i true [] 0
  else s.modCopy core e.num fun e => e.opDone i false (s.scrRead core o.base 128) 0

/-- Mark an operation as under way. -/
def CopyEnt.started (e : CopyEnt) (i : Nat) (write : Bool) : CopyEnt :=
  let go := fun (o : CopyOp) => { o with state := 1 }
  if write then { e with writes := e.writes.modify i go } else { e with reads := e.reads.modify i go }

/-- The sectors of a byte list of a line, of the participants of an operation. -/
def CopyOp.sectors (o : CopyOp) : Nat :=
  o.parts.foldl (fun m p => smOr m ((List.range 8).foldl (fun m k =>
    if p.2.1 < 16 * k + 16 && 16 * k < p.2.1 + p.2.2 then m + 2 ^ k else m) 0)) 0

/-- An operation on a global line: translated, then sent to the home slice (R292, R300). -/
def State.copyGlob (s : State) (core : Nat) (e : CopyEnt) (write : Bool) (i : Nat) (o : CopyOp) : State :=
  let va := o.base + (match o.parts with | p :: _ => p.2.1 | [] => 0)
  match s.access (some core) (coreCluster core) (coreDie core) e.ctx va (if write then .copyWrite else .copyRead) e.priv
      true with
  | (.fault cause, s) => s.modCopy core e.num fun e => { e with fault := some (cause, va, write) }
  | (.perm, s) => s.ctxFatal e.ctx (coreDie core) (core % 128) 13 e.fpc.toNat
  | (.ok p _ _ _ _, s) =>
    let p : Phys := ⟨p.tgt, p.pa / 128 * 128⟩
    match s.request core (.copy core e.num i write) e.ctx o.base p (if write then .write true else .read) o.sectors
        (if write then e.bytesFor o else []) false with
    | none => s
    | some (_, s) => s.modCopy core e.num fun e => e.started i write

/-- COPY_LINE_OPERATION (R292): the next line operation of an entry, in the order of R296 and after the warp's earlier
scratchpad stores where it touches scratchpad (R297). -/
def execCopyLineOperation (core ent : Nat) (s : State) : Host.Outcome State Fault Refusal :=
  let c := s.core core
  let before := c.copy.takeWhile fun e => e.num != ent
  match c.copy.find? fun e => e.num == ent with
  | none => .next s
  | some e =>
    if e.fault.isSome || e.parked.isSome then .next s
    else match e.nextOp with
    | none => .next s
    | some (write, i, o) =>
      let own := match s.warp? e.w with
        | none => false
        | some w => w.sq.any fun x => x.seq < e.seq && match x.space with | .scr _ => true | _ => false
      if (before.any fun x => s.opBlocked core x e o write) || (!o.glob && own) then .next s
      else .next (if o.glob then s.copyGlob core e write i o else s.copyScr core e write i o)

/-- COPY_TRANSLATION_FAULT (R300): the entry is parked and a record goes to the fault ring. -/
def execCopyTranslationFault (core ent : Nat) (s : State) : Host.Outcome State Fault Refusal :=
  match (s.core core).copy.find? fun e => e.num == ent with
  | none => .next s
  | some e => match e.fault with
    | none => .next s
    | some (cause, va, write) =>
      let xid := 512 * (coreCluster core % 32)
      match s.faultRecord e.ctx va cause (if write then 5 else 4) (coreDie core) xid 1 (.copy core ent) with
      | (none, s) => .next s
      | (some id, s) => .next (s.modCopy core ent fun e => { e with fault := none, parked := some id })

/-- The status word (R293). -/
def CopyEnt.status (e : CopyEnt) (t : Nat) : Word :=
  BitVec.ofNat 32 (e.sz + 4 * e.dir + 16 * b2n (has e.ce t) + 256 * e.num + 2 ^ 31)

/-- COPY_RETIRE (R294): after the last write, the statuses are written and the entry is free. -/
def execCopyRetire (core ent : Nat) (s : State) : Host.Outcome State Fault Refusal :=
  let c := s.core core
  match c.copy.find? fun e => e.num == ent with
  | none => .next s
  | some e =>
    if e.writes.all fun o => o.state == 2 then
      let s := s.setCore core { c with copy := c.copy.filter fun x => x.num != ent }
      let ts := e.writes.flatMap fun o => o.parts.map fun p => p.1
      .next (s.modWarp e.w fun w =>
        (w.reply e.acc [.v e.d (ts.map fun t => (t, e.status t))]).dropAccess e.acc)
    else .next s

end Sys2Proof.Machine
end

