-- ==== Sys2Proof/Machine/Blocks.lean ====
section
/-! DEFINITION. The blocks of BAR0 (21 R438, 22 R448), and the host writes that wait during bring-up (R452). -/

namespace Sys2Proof.Machine

/-- Which block of registers an offset lies in (R438, R448). -/
inductive Block where
  | host | queue (q : Nat) | chan (c : Nat) | ring | inval | links | dieLink (d : Nat) | msix (v : Nat) | pending
  | ident | ready | power | die (d : Nat) | stack (k : Nat) | log (d : Nat) | staging | none
  deriving DecidableEq, Repr

/-- The block of an offset, and the doubleword in it. -/
def blockOf (off : Nat) : Block × Nat :=
  let at_ := fun (b : Block) (lo : Nat) => (b, (off - lo) / 8)
  if off < 0x40 then at_ .host 0
  else if 0x1000 ≤ off && off < 0x1800 then at_ (.queue ((off - 0x1000) / 32)) (0x1000 + (off - 0x1000) / 32 * 32)
  else if 0x2000 ≤ off && off < 0x2080 then at_ (.chan ((off - 0x2000) / 32)) (0x2000 + (off - 0x2000) / 32 * 32)
  else if 0x3000 ≤ off && off < 0x3020 then at_ .ring 0x3000
  else if 0x3100 ≤ off && off < 0x3120 then at_ .inval 0x3100
  else if 0x4000 ≤ off && off < 0x4480 then at_ .links 0x4000
  else if 0x5000 ≤ off && off < 0x5240 then at_ (.dieLink ((off - 0x5000) / 64)) (0x5000 + (off - 0x5000) / 64 * 64)
  else if 0x10000 ≤ off && off < 0x10480 then at_ (.msix ((off - 0x10000) / 16)) (0x10000 + (off - 0x10000) / 16 * 16)
  else if 0x11000 ≤ off && off < 0x11010 then at_ .pending 0x11000
  else if 0x1000000 ≤ off && off < 0x1000040 then at_ .ident 0x1000000
  else if 0x1000100 ≤ off && off < 0x1000140 then at_ .ready 0x1000100
  else if 0x1000200 ≤ off && off < 0x1000240 then at_ .power 0x1000200
  else if 0x1000400 ≤ off && off < 0x1000640 then
    at_ (.die ((off - 0x1000400) / 64)) (0x1000400 + (off - 0x1000400) / 64 * 64)
  else if 0x1000800 ≤ off && off < 0x10008C0 then
    at_ (.stack ((off - 0x1000800) / 16)) (0x1000800 + (off - 0x1000800) / 16 * 16)
  else if 0x1100000 ≤ off && off < 0x1220000 then
    at_ (.log ((off - 0x1100000) / 0x20000)) (0x1100000 + (off - 0x1100000) / 0x20000 * 0x20000)
  else if 0x2000000 ≤ off && off < 0x4000000 then at_ .staging 0x2000000
  else (.none, 0)

/-- Blocks that are held until HOST is set (R452). -/
def Block.hosted : Block → Bool
  | .queue _ => true
  | .chan _ => true
  | .ring => true
  | .inval => true
  | _ => false

/-- Blocks that take accesses whatever BOOTST reads (R452). -/
def Block.early : Block → Bool
  | .ident => true
  | .staging => true
  | _ => false

/-- May an access to a block be made now (R452)? -/
def State.blockReady (s : State) (b : Block) : Bool :=
  b.early || (s.regs.bootst == 1 && (!b.hosted || s.regs.rdyHost))

/-- The first held write whose function is ready, and the others. -/
def State.readyHeld (s : State) : Option ((Nat × Nat × Nat) × List (Nat × Nat × Nat)) :=
  takeFirst (fun x => s.blockReady (blockOf x.1).1) s.regs.heldW

/-- A host write that a step stands for: taken when its block is ready and no write held earlier can be, else held as the
register write that it is, which a full list does not accept (R452). -/
def State.hostWrite (s : State) (off size v : Nat) (taken : State) : Host.Outcome State Fault Refusal :=
  if s.regs.power != 0 then .next s
  else if (blockOf off).1.early || (s.blockReady (blockOf off).1 && s.readyHeld.isNone) then .next taken
  else if 256 ≤ s.regs.heldW.length then .next s
  else .next { s with regs := { s.regs with heldW := s.regs.heldW ++ [(off, size, v)] } }

end Sys2Proof.Machine
end

