-- ==== Sys2Proof/Machine/Home.lean ====
section
/-! DEFINITION. Home slices (10 R233 to R235, 12 R272, 21 R433) and base dies (10 R237 to R241). -/

namespace Sys2Proof.Machine

/-- Sectors that must be valid before a request is served (R235). -/
def HReq.needs (r : HReq) : Nat :=
  match r.kind with
  | .read => r.sectors
  | .write _ => smDiff (sectorsOf r.bytes) (fullSectors r.bytes)
  | .atom _ _ _ _ => r.sectors
  | .clean _ | .void => 0

/-- Take request `idx` out of a slice's queue. -/
def State.dropReq (s : State) (sl idx : Nat) : State :=
  let c := s.slice sl
  s.setSlice sl { c with queue := c.queue.eraseIdx idx }

/-- Reply to the requesting core. -/
def State.answer (s : State) (sl : Nat) (r : HReq) (sectors : Nat) (data : List Byte) : State :=
  s.send (sliceDie sl) (coreDie r.core) (.core r.core { tag := r.tag, line := r.line, ok := true, sectors, data, ce := r.ce })

/-- The runs of an atomic written at their home slices. -/
def State.homeRuns (s : State) : List (Phys × Nat) → List Byte → State
  | [], _ => s
  | (p, n) :: ps, bs => (s.homeWrite p (bs.take n)).homeRuns ps (bs.drop n)

/-- An atomic at the home slice: the old value, and the state after it (R245). -/
def State.homeAtom (s : State) (op : AtomOp) (size : Nat) (places : List (Phys × Nat)) (opnd : List Byte) :
    List Byte × State :=
  let old := places.flatMap fun p => s.homeRead p.1 p.2
  (old, s.homeRuns places (leBytes size (op.apply size (leNat old) (leNat opnd))))

/-- Is the request still of use to the access that the tag's use names, and what address is it attributed to (R431,
R434): its instruction's, or the line's where there is none? -/
def Warp.blame (w : Warp) (id : Nat) : Option Nat :=
  match w.accs.find? fun a => a.id == id with
  | some a => some a.fpc.toNat
  | none => match w.sq.find? fun e => e.id == id with
    | some e => some e.fpc.toNat
    | none => (w.fences.find? fun f => f.id == id).map fun f => f.fpc.toNat
def State.blame (s : State) (r : HReq) : Nat :=
  let of := fun (u id : Nat) => match s.warp? u with | some w => (w.blame id).getD r.va | none => r.va
  match (s.core r.core).tags.find? fun t => t.tag == r.tag with
  | none => r.va
  | some t => match t.use with
    | .fill u id _ _ _ _ | .through u id _ | .stored u id _ _ | .atom u id | .clean u id | .pref u id => of u id
    | .code (some (u, id)) _ _ => of u id
    | .copy k ent _ _ => match (s.core k).copy.find? fun e => e.num == ent with
      | some e => e.fpc.toNat
      | none => r.va
    | .code none _ _ | .wback | .dead => r.va

/-- What a request does at its place once nothing is missing: the data of its reply. A write to host or peer memory is
accepted, and is on its way (R433). -/
def State.serveReq (s : State) (r : HReq) : List Byte × State :=
  match r.kind with
  | .read =>
    let data := s.homeRead ⟨r.tgt, r.line * 128⟩ 128
    match r.tgt, (s.slice (homeOf r.line)).line? r.line with
    | 0, some l => (data, s.l2Put l r.nt)
    | _, _ => (data, s)
  | .write wb =>
    let s := if r.tgt = 0 then s.l2Write r.line r.bytes r.nt
      else { s with env := { s.env with posted := s.env.posted ++
        [{ tgt := r.tgt, line := r.line, bytes := r.bytes, ctx := r.ctx, core := r.core, data1 := s.blame r }] } }
    ([], if wb then s else s.patchL1 r.core r.ctx r.va r.bytes)
  | .atom op size places opnd => s.homeAtom op size places opnd
  | .clean _ | .void => ([], s)

/-- CINV.L2 and CWB.L2 at the home slice (R261): dirty sectors go to memory, the line is dropped or becomes clean. -/
def State.cleanLine (s : State) (r : HReq) (drop : Bool) : State :=
  let sl := homeOf r.line
  match (s.slice sl).line? r.line with
  | none => s
  | some l =>
    let s := s.writeSectors l l.dirty
    let c := s.slice sl
    s.setSlice sl { c with
      lines := if drop then c.lines.filter fun x => x.line != r.line
               else c.lines.map fun x => if x.line == r.line then { x with dirty := 0 } else x }

/-- Is a base-die write of the line under way? -/
def State.writing (s : State) (line : Nat) : Bool :=
  (s.pendingDie (stackOf (line * 128))).any fun q => q.write && q.pa / 128 == line

/-- Replace request `idx`. -/
def State.setReq (s : State) (sl idx : Nat) (r : HReq) : State :=
  let c := s.slice sl
  s.setSlice sl { c with queue := c.queue.set idx r }

/-- Ask the base die for the codewords of the sectors `need` (R235, R237). -/
def State.fetchSectors (s : State) (sl idx : Nat) (r : HReq) (need : Nat) : State :=
  let ks := (List.range 4).filter fun k => bit need (2 * k) || bit need (2 * k + 1)
  let (tags, s) := ks.foldl (fun (p : List Nat × State) k =>
    let (t, s) := p.2.sendSlice sl (r.line * 128 + 32 * k) false 0 []
    (p.1 ++ [t], s)) ([], s)
  s.setReq sl idx { r with pending := tags }

/-- A request to local memory. -/
def State.serveLocal (s : State) (sl idx : Nat) (r : HReq) : State :=
  let valid := match (s.slice sl).line? r.line with | some l => l.valid | none => 0
  match r.kind with
  | .clean drop =>
    if r.phase = 0 then (s.cleanLine r drop).setReq sl idx { r with phase := 1 }
    else if s.writing r.line then s
    else (s.answer sl r 0 []).dropReq sl idx
  | _ =>
    let need := smDiff r.needs valid
    if need = 0 then
      let (data, s) := (s.dropReq sl idx).serveReq r
      s.answer sl r r.sectors data
    else if r.pending.isEmpty then s.fetchSectors sl idx r need
    else s

/-- Does the request read, or must its answer come back before it is done? -/
def HKind.waits (k : HKind) : Bool :=
  match k with
  | .read => true
  | .atom _ _ _ _ => true
  | _ => false

/-- A PCIe request that waits for its completion (R434). -/
def State.askHost (s : State) (ctx : Nat) (ask : HostAsk) : State :=
  let t := s.env.nextTag
  { s with env := { s.env with nextTag := t + 1, hostReqs := s.env.hostReqs ++ [{ tag := t, ctx, ask }] } }

/-- The lines of host memory among places. -/
def hostLines (ps : List Phys) : List Nat := ((ps.filter fun p => p.tgt == 1).map fun p => p.pa / 128).eraseDups

/-- The part's own reads at places for a context: have the lines come that lie in host memory? Those that have not are
asked for, once (R434). -/
def State.hostSeen (s : State) (ctx : Nat) (ps : List Phys) : Bool × State :=
  let missing := (hostLines ps).filter fun l => !s.env.came.contains (ctx, l)
  (missing.isEmpty, (missing.filter fun l => !s.env.hostReqs.any fun x => x.ctx == ctx && x.ask == .own l).foldl
    (fun s l => s.askHost ctx (.own l)) s)

/-- The lines that have come are used: a later read asks again. -/
def State.hostUsed (s : State) (ctx : Nat) (ps : List Phys) : State :=
  if (hostLines ps).isEmpty then s
  else { s with env := { s.env with came := s.env.came.filter fun x => !(x.1 == ctx && (hostLines ps).contains x.2) } }

/-- Reads that are made once all their lines have come. -/
def State.hostCame (s : State) (ctx : Nat) (ps : List Phys) : Bool × State :=
  match s.hostSeen ctx ps with
  | (true, s) => (true, s.hostUsed ctx ps)
  | (false, s) => (false, s)

/-- A request to host memory (R433): a write is accepted at once and forwarded, a read or AtomicOp waits for its PCIe
completion. -/
def State.serveHost (s : State) (sl idx : Nat) (r : HReq) : State :=
  if r.kind.waits then
    if r.pending.isEmpty then
      (s.setReq sl idx { r with pending := [s.env.nextTag] }).askHost r.ctx (.slice sl r)
    else s
  else
    let (data, s) := (s.dropReq sl idx).serveReq r
    s.answer sl r r.sectors data

/-- The permission bit of VLACL that a request needs at the peer (R432). -/
def HKind.aclBit (k : HKind) : Nat :=
  match k with
  | .write _ => 1
  | .atom _ _ _ _ => 2
  | _ => 0

/-- A request to a peer (R431 to R433): a write is accepted, any other request is served there behind the accepted writes
of its line, and one that has no route or is refused is context-fatal. Core tags are freed all the same. -/
def State.servePeer (s : State) (sl idx : Nat) (r : HReq) : State :=
  let s' := s.dropReq sl idx
  let p : Phys := ⟨2, r.line * 128⟩
  match r.kind with
  | .clean _ | .void => s'.answer sl r 0 []
  | .write _ =>
    if s.routed (fld p.pa 40 6) r.line then
      let (data, s) := s'.serveReq r
      s.answer sl r r.sectors data
    else (s'.ctxFatal r.ctx (coreDie r.core) (r.core % 128) codeLink (s.blame r)).answer sl r 0 []
  | _ =>
    if s.reaches p r.kind.aclBit then
      let (data, s) := (s'.landAll fun x => x.tgt == 2 && x.line == r.line).serveReq r
      s.answer sl r r.sectors data
    else (s'.ctxFatal r.ctx (coreDie r.core) (r.core % 128) codeLink (s.blame r)).answer sl r 0 []

/-- An accepted write reaches its place (R433): the first to its line, and to the host the first of all; one that has no
route or is refused is context-fatal. -/
def State.land (s : State) (i : Nat) : State :=
  let x? := s.env.posted[i]?
  match x? with
  | none => s
  | some x =>
    if (s.env.posted.take i).any fun y => y.tgt == x.tgt && (x.tgt == 1 || y.line == x.line) then s
    else
      let s' := { s with env := { s.env with posted := s.env.posted.eraseIdx i } }
      if s.landable x then s'.outWrite x.tgt x.line x.bytes
      else s'.ctxFatal x.ctx (coreDie x.core) (x.core % 128) codeLink x.data1

/-- HOME_SLICE_SERVE (R272): request `idx` of a slice, the oldest to its line, on a die that is ready (R451). -/
def execHomeSliceServe (sl idx : Nat) (s : State) : Host.Outcome State Fault Refusal :=
  let c := s.slice sl
  match c.queue[idx]? with
  | none => .next s
  | some r =>
    if (c.queue.take idx).any (fun q => q.line == r.line) || !bit s.regs.rdyDie (sliceDie sl) then .next s
    else if r.tgt = 0 then .next (s.serveLocal sl idx r)
    else if r.tgt = 1 then
      match r.kind with
      | .clean _ | .void => .next ((s.dropReq sl idx).answer sl r 0 [])
      | _ => .next (s.serveHost sl idx r)
    else .next (s.servePeer sl idx r)

/-- Does a request wait for a base-die reply? -/
def HReq.awaits (q : HReq) (r : DieReply) : Bool := q.tgt == 0 && q.line == r.pa / 128 && q.pending.contains r.rtag

/-- The reply to a request that waited has come: its codeword held a corrected error or not. -/
def HReq.got (q : HReq) (r : DieReply) : HReq :=
  if q.awaits r then
    { q with pending := q.pending.filter (· != r.rtag),
             ce := if bit r.status 17 then Nat.lor q.ce (2 ^ (r.pa % 128 / 32)) else q.ce }
  else q

/-- L2_MEMORY_REPLY (R235): the first base-die reply of a slice; a read's codeword fills the sectors that are not valid,
if a request still waits for it. An uncorrectable error is context-fatal to those that wait, on the slice's die (R240). -/
def execL2MemoryReply (sl : Nat) (s : State) : Host.Outcome State Fault Refusal :=
  let c := s.slice sl
  match c.replies with
  | [] => .next s
  | r :: rest =>
    let s := s.setSlice sl { c with replies := rest }
    if r.write || !(c.queue.any fun q => q.awaits r) then .next s
    else if bit r.status 18 then
      let ctxs := ((c.queue.filter fun q => q.awaits r).map (·.ctx)).eraseDups
      .next (ctxs.foldl (fun s x => s.ctxFatal x (sliceDie sl) (stackOf r.pa) codeEcc r.pa) s)
    else
      let line := r.pa / 128
      let l := (c.line? line).getD { tgt := 0, line, valid := 0, dirty := 0, data := List.replicate 128 0 }
      let k := r.pa % 128 / 32
      let new := smDiff (3 * 4 ^ k) l.valid
      let src := List.replicate (32 * k) 0 ++ r.data
      let s := s.setSlice sl { s.slice sl with queue := c.queue.map fun q => q.got r }
      .next (s.l2Put { l with valid := smOr l.valid new, data := mergeSectors l.data src new } false)

/-! Base dies. -/

/-- Do two requests touch one codeword? -/
def DieReq.meets (a b : DieReq) : Bool := a.pa < b.pa + 32 * b.n && b.pa < a.pa + 32 * a.n

/-- May request `i` be served before those ahead of it (R239)? -/
def eligibleDie (q : List DieReq) (i : Nat) : Bool :=
  match q[i]? with
  | none => false
  | some r => !(q.take i).any fun x => x.meets r

/-- The request a base die serves next (R239). -/
def pickDie (st : Stack) : Option Nat :=
  let el := (List.range st.queue.length).filter (eligibleDie st.queue)
  let get := fun (i : Nat) (p : DieReq → Bool) => match st.queue[i]? with | some r => p r | none => false
  match el.find? fun i => get i fun r => 16 ≤ r.passed with
  | some i => some i
  | none =>
    match el.find? fun i => get i fun r => look (bankOf (stackAddr r.pa)) st.rows == some (rowOfAddr (stackAddr r.pa)) with
    | some i => some i
    | none => el.head?

/-- Bytes of a write at their places under its mask (R238). -/
def maskedWrite (m : List Host.Cell) (r : DieReq) : List Host.Cell :=
  (List.range 32).foldl (fun m i => if bit r.bmask i then cellWrite m (r.pa + i) (r.data.getD i 0) else m) m

/-- The status word of a reply, without TAG (R241); `err` is 1 for a corrected error in the codeword, 2 for an
uncorrectable one. -/
def dieStatus (seq stack : Nat) (rmw : Bool) (err : Nat) : Nat :=
  16 * seq + 65536 * b2n rmw + 2 ^ 17 * b2n (err == 1) + 2 ^ 18 * b2n (err == 2) + 2 ^ 20 * stack

/-- Has a warp with a packet in the queue of a stack another on its way there: on the mesh, or leaving in the next cycle
(R251, R287)? -/
def State.moreComing (s : State) (k : Nat) : Bool :=
  let asks := fun (u : Nat) (r : DieReq) => match r.by_ with | .direct x _ => x == u | .slice _ => false
  s.warps.any fun w => ((s.stack k).queue.any (asks w.uid)) &&
    ((s.mesh.any fun f => match f.msg with | .stack j r => j == k && asks w.uid r | _ => false) ||
      w.dir.any fun p => p.tag.isNone && p.reply.isNone && stackOf p.phys.pa == k && w.dir.any fun q =>
        q.acc == p.acc && q.tag.isSome && q.reply.isNone && (List.range 8).any fun t => !w.dir.any fun y => y.tag == some t)

/-- The request that a base die can serve now (R239): none on an idle stack in the 8 cycles after a request has come to its
empty queue, nor while packets that leave on consecutive cycles are still to come (R287). -/
def State.dieNext (s : State) (k : Nat) : Option Nat :=
  let st := s.stack k
  if !bit s.regs.rdyStack k then none
  else match st.came with
    | none => pickDie st
    | some t => if s.now < t + 8 || s.moreComing k then none else pickDie st

/-- One service step of a base die (R239, R240): request `i` of its queue, in whose codewords an error is found or not. -/
def State.serveDie (s : State) (k i err : Nat) : State :=
  let st := s.stack k
  match st.queue[i]? with
  | none => s
  | some r =>
    let ahead := (st.queue.take i).map fun (x : DieReq) => { x with passed := x.passed + 1 }
    let q := ahead ++ st.queue.drop (i + 1)
    let a := stackAddr r.pa
    let rows := if q.isEmpty then [] else put (bankOf a) (rowOfAddr a) st.rows
    let mem := if r.write && err != 2 then maskedWrite s.mem r else s.mem
    let data := if r.write then [] else cellsRead s.mem r.pa (32 * r.n)
    let rmw := r.write && r.bmask != 2 ^ 32 - 1
    let rep : DieReply :=
      { rtag := r.rtag, rid := r.rid, pa := r.pa, n := r.n, write := r.write, data, status := dieStatus st.seq k rmw err }
    let s := { s.setStack k { st with queue := q, rows, seq := (st.seq + 1) % 4096, came := none } with mem }
    match r.by_ with
    | .slice sl => s.send (stackDie k) (sliceDie sl) (.slice sl rep)
    | .direct u pkt => match s.warp? u with
      | none => s
      | some w => s.send (stackDie k) w.die (.direct u pkt rep)

/-- BASE_DIE_SERVICE (R239): one request of a stack. -/
def execBaseDieService (k : Nat) (s : State) : Host.Outcome State Fault Refusal :=
  match s.dieNext k with
  | none => .next s
  | some i => .next (s.serveDie k i 0)

/-- The request that a base die serves next, if it reads the codeword at `pa`: a read, or a write that does not cover it in
full (R238, R240). -/
def State.dieReads (s : State) (k pa : Nat) : Option (Nat × DieReq) :=
  match s.dieNext k with
  | none => none
  | some i => match (s.stack k).queue[i]? with
    | none => none
    | some r =>
      if r.pa ≤ pa && pa < r.pa + 32 * r.n && (!r.write || r.bmask != 2 ^ 32 - 1) then some (i, r) else none

end Sys2Proof.Machine
end

