-- ==== Sys2Proof/Machine/MatrixOps.lean ====
section
/-! DEFINITION. What the matrix engine computes and holds: operands, blocks and groups (15 R308 to R311, R315, R321),
tiles and status (R306, R307, R320), readiness (R316, R327). -/

namespace Sys2Proof.Machine

/-! Formats and the format block. -/

def narrowF (c : Nat) : Bool := 4 ≤ c && c ≤ 8
def narrowI (c : Nat) : Bool := 0x10 ≤ c && c ≤ 0x13
def halfF (c : Nat) : Bool := c == 2 || c == 3

/-- The K-group of a pair of format codes (R57, R305): none for a pair that is not listed. -/
def mxGroup (a b : Nat) : Option Nat :=
  if (narrowF a && narrowF b) || (narrowI a && narrowI b) then some 32
  else if (halfF a && (halfF b || narrowF b)) || (narrowF a && halfF b) then some 16
  else if a = 1 && b = 1 then some 8
  else if a = 0 && b = 0 then some 4
  else none

/-- Bits that an element takes in memory (R38). -/
def memWidth (c : Nat) : Nat :=
  match numFmt c with
  | some (.fp .e3m2) | some (.fp .e2m3) => 8
  | some (.fp f) => f.width
  | some (.int _ w) => w
  | none => 8

/-- Word `i` of a format block. -/
def blkW (blk : List Nat) (i : Nat) : Nat := blk.getD i 0
def blkAcc (blk : List Nat) : Nat := fld (blkW blk 0) 16 2
def blkRm (blk : List Nat) : Rm := Rm.of (fld (blkW blk 0) 18 2)
def blkKg (blk : List Nat) : Nat := fld (blkW blk 1) 0 16

/-- One operand of a command: format code, block length (0 unscaled), bitmap, place, the bases of its scales, outliers
and bitmap, and the group. -/
structure MxOp where
  fmt : Nat
  len : Nat
  bm : Bool
  loc : MxLoc
  sb : Nat
  ob : Nat
  bmb : Nat
  kg : Nat
  grp : Nat
  deriving DecidableEq, Repr

/-- A's and B's side of a format block (R310). -/
def blkGrp (blk : List Nat) : Nat := (mxGroup (fld (blkW blk 0) 0 5) (fld (blkW blk 0) 8 5)).getD 32
def opA (blk : List Nat) (l : MxLoc) : MxOp :=
  let w := blkW blk 0
  { fmt := fld w 0 5, len := [0, 16, 32, 0].getD (fld w 5 2) 0, bm := bit w 7, loc := l, sb := blkW blk 2,
    ob := blkW blk 3, bmb := blkW blk 6, kg := blkKg blk, grp := blkGrp blk }
def opB (blk : List Nat) (l : MxLoc) : MxOp :=
  let w := blkW blk 0
  { fmt := fld w 8 5, len := [0, 16, 32, 0].getD (fld w 13 2) 0, bm := bit w 15, loc := l, sb := blkW blk 4,
    ob := blkW blk 5, bmb := blkW blk 7, kg := blkKg blk, grp := blkGrp blk }

/-- R311 on one side: block length and unused bases. -/
def sideLegal (fmt blk : Nat) (bm : Bool) (sb ob bmb : Nat) : Bool :=
  blk != 3 && (blk == 0 || narrowF fmt) && (blk != 0 || (sb == 0 && ob == 0)) && (fmt == 8 || ob == 0) &&
    (bm || bmb == 0)

/-- R311; KG = 0 lies outside its range (log entry 32). -/
def blkLegal (blk : List Nat) : Bool :=
  let w := blkW blk 0
  let a := fld w 0 5
  let b := fld w 8 5
  (mxGroup a b).isSome &&
    blkAcc blk == (if narrowI a then 1 else if a == 0 then 2 else 0) &&
    (blkAcc blk != 1 || fld w 18 2 == 0) &&
    sideLegal a (fld w 5 2) (bit w 7) (blkW blk 2) (blkW blk 3) (blkW blk 6) &&
    sideLegal b (fld w 13 2) (bit w 15) (blkW blk 4) (blkW blk 5) (blkW blk 7) &&
    fld w 20 12 == 0 && blkW blk 1 / 65536 == 0 && blkKg blk != 0

/-! Descriptors. -/

/-- A descriptor's fields (R308). -/
def dscOff (v : Nat) : Nat := fld v 0 18
def dscMem (v : Nat) : MemCode := ⟨1, 0, bit v 20, fld v 18 2⟩
def dscBad (v : Nat) : Bool := v / 2 ^ 21 != 0

/-- The allocation that a descriptor names, if a workgroup of the gang stands there. -/
def State.mxLoc (s : State) (w : Warp) (v : Nat) : Option MxLoc :=
  (s.wgOn w (dscMem v)).map fun wg => { core := memCore w (dscMem v), tiles := s.tilesOf w wg, off := dscOff v }

/-- Do `n` bytes at an offset lie in the allocation? -/
def MxLoc.fits (l : MxLoc) (o n : Nat) : Bool := n == 0 || o + n ≤ 4096 * l.tiles.length

/-- The tiles, by core, of `n` bytes at an offset. -/
def MxLoc.span (l : MxLoc) (o n : Nat) : List (Nat × Nat) :=
  if n = 0 then []
  else (List.range ((o + n - 1) / 4096 - o / 4096 + 1)).map fun k => (l.core, l.tiles.getD (o / 4096 + k) 0)

/-- Is a tile being taken back by an MXOWN.THR that waits (R314, R328)? -/
def State.takenBack (s : State) (core tile : Nat) : Bool :=
  s.warps.any fun w => w.slots.any fun sl => match sl.wait with
    | some (.mxown false c ts _) => c == core && ts.contains tile
    | _ => false

/-- May the engine use the tile: it reads ENGINE and is not being taken back? -/
def State.engineTile (s : State) (p : Nat × Nat) : Bool :=
  (s.core p.1).engine.contains p.2 && !s.takenBack p.1 p.2

/-! Operand bytes. -/

/-- The byte at an offset of an allocation. -/
def State.mxByte (s : State) (l : MxLoc) (o : Nat) : Nat := (cellRead (s.core l.core).scratch (tilePlace l.tiles o)).toNat
/-- A little-endian number there. -/
def State.mxNat (s : State) (l : MxLoc) (o : Nat) : Nat → Nat
  | 0 => 0
  | n + 1 => s.mxByte l o + 256 * s.mxNat l (o + 1) n

/-- Is group `g` present (R309)? -/
def State.mxPresent (s : State) (x : MxOp) (g : Nat) : Bool := !x.bm || bit (s.mxByte x.loc (x.bmb + g / 8)) (g % 8)
/-- Present groups below `g`. -/
def State.mxRank (s : State) (x : MxOp) (g : Nat) : Nat :=
  if x.bm then ((List.range g).filter fun k => s.mxPresent x k).length else g

/-- The stored count of elements of a row or column. -/
def State.mxStored (s : State) (x : MxOp) : Nat := x.grp * s.mxRank x x.kg

/-- The code of stored element `e`. -/
def State.mxCode (s : State) (x : MxOp) (e : Nat) : Nat :=
  let wd := memWidth x.fmt
  if wd = 4 then fld (s.mxByte x.loc (x.loc.off + e / 2)) (4 * (e % 2)) 4
  else s.mxNat x.loc (x.loc.off + e * wd / 8) (wd / 8)

/-- The arrays of an operand (R309): offset and bytes. -/
def State.mxArrays (s : State) (x : MxOp) : List (Nat × Nat) :=
  let n := 64 * s.mxStored x
  [(x.loc.off, n * memWidth x.fmt / 8)] ++
    (if x.len = 0 then [] else [(x.sb, 2 * (n / x.len))]) ++
    (if x.len = 0 || x.fmt != 8 then [] else [(x.ob, 16 * (n / x.len))]) ++
    (if x.bm then [(x.bmb, (x.kg + 7) / 8)] else [])

/-- The format of a floating-point code. -/
def fpOf (c : Nat) : Fp := match numFmt c with | some (.fp f) => f | _ => .fp32

/-- The values of group `g` in row or column `r` of a floating-point operand (R54, R34): none if a block that they need
is ill-formed (R55, R311). -/
def State.mxVals (s : State) (x : MxOp) (r g : Nat) : Option (List Fv) :=
  let e0 := r * s.mxStored x + s.mxRank x g * x.grp
  let f := fpOf x.fmt
  if x.len = 0 then
    let cs := (List.range x.grp).map fun j => s.mxCode x (e0 + j)
    if f == .e2m1 && cs.contains 8 then none else some (cs.map f.decode)
  else
    let n0 := e0 / x.len
    let ns := (List.range ((e0 + x.grp - 1) / x.len - n0 + 1)).map (n0 + ·)
    let blk := fun n =>
      let h := s.mxNat x.loc (x.sb + 2 * n) 2
      let cs := (List.range x.len).map fun j => s.mxCode x (n * x.len + j)
      let outs := if f == .e2m1 then (List.range 8).map fun j => s.mxNat x.loc (x.ob + 16 * n + 2 * j) 2 else []
      if illFormed f h cs then none else some (blockVals f h outs cs)
    let vs := ns.map blk
    if vs.any Option.isNone then none
    else some (((vs.flatMap fun v => v.getD []).drop (e0 - n0 * x.len)).take x.grp)

/-- The values of group `g` of an integer operand. -/
def State.mxInts (s : State) (x : MxOp) (r g : Nat) : List Int :=
  let e0 := r * s.mxStored x + s.mxRank x g * x.grp
  let (sg, wd) := match numFmt x.fmt with | some (.int sg wd) => (sg, wd) | _ => (false, 8)
  (List.range x.grp).map fun j => intVal sg wd (s.mxCode x (e0 + j))

/-! Tiles. -/

def MxTile.new (ctx : Nat) : MxTile := { ctx, held := true, flags := 0, fdf := none, elems := [] }
def Matrix.tile (m : Matrix) (p : Nat) : MxTile := (look p m.tiles).getD (MxTile.new 0)
def Matrix.setTile (m : Matrix) (p : Nat) (t : MxTile) : Matrix := { m with tiles := put p t m.tiles }

/-- Element (r, c) of a tile; elements that are 0 are not listed. -/
def MxTile.get (t : MxTile) (r c : Nat) : Word := (look (64 * r + c) t.elems).getD 0
def MxTile.set (t : MxTile) (r c : Nat) (v : Word) : MxTile :=
  { t with elems := if v = 0 then del (64 * r + c) t.elems else put (64 * r + c) v t.elems }

/-- The matrix engine of a warp's cluster. -/
def State.mx (s : State) (cl : Nat) : Matrix := (s.cluster cl).mx
def State.setMx (s : State) (cl : Nat) (m : Matrix) : State := s.setCluster cl { s.cluster cl with mx := m }

/-- The physical tile that a gang's name is bound to; whether the gang holds it (R307, R325). -/
def State.mxName (s : State) (w : Warp) (n : Nat) : Option Nat :=
  match s.gang? w.gang with
  | none => none
  | some g => look n g.names
def State.mxHeld (s : State) (w : Warp) (n : Nat) : Option Nat :=
  match s.mxName w n with
  | none => none
  | some p => if ((s.mx w.cluster).tile p).held then some p else none

/-- Does something numbered below `n` and not complete name the tile (R320, R322, R325)? -/
def Matrix.busyBelow (m : Matrix) (p n : Nat) : Bool :=
  (m.entries.any fun e => e.num < n && e.tiles.contains p) || m.rws.any fun r => r.num < n && r.tile == p

/-- The status word of a tile (R320). -/
def Matrix.status (m : Matrix) (p : Nat) : Nat :=
  let t := m.tile p
  let (f, side, step) := match t.fdf with | some (sd, g) => (true, sd, g) | none => (false, false, 0)
  let busy := (m.entries.any fun e => e.tiles.contains p) || m.rws.any fun r => r.tile == p
  b2n t.held + 2 * b2n busy + 4 * t.flags + 64 * b2n f + 128 * b2n side + 65536 * step

/-- The flags of fsr as bits [5:2] of a status word hold them: IV, OF, UF, IX. -/
def mxFlags (fl : Nat) : Nat := b2n (bit fl 0) + 2 * b2n (bit fl 2) + 4 * b2n (bit fl 3) + 8 * b2n (bit fl 4)

/-! Readiness. -/

/-- Do two entries share a row of a tile (R316)? -/
def MxEntry.meets (e f : MxEntry) : Bool := (e.tiles.any f.tiles.contains) && e.rows.any f.rows.contains
/-- Does an access touch a row of an entry? -/
def MxRw.meets (r : MxRw) (e : MxEntry) : Bool := e.tiles.contains r.tile && r.items.any fun i => e.rows.contains i.2.1

/-- R316, R327. -/
def Matrix.ready (m : Matrix) (e : MxEntry) : Bool :=
  !(m.entries.any fun x => x.num < e.num && x.meets e) && !(m.rws.any fun r => r.num < e.num && r.meets e)

/-- Does an earlier entry on its tile stand stopped by a format data fault (R321)? -/
def Matrix.faulted (m : Matrix) (e : MxEntry) : Bool := e.tiles.any fun p => (m.tile p).fdf.isSome

/-- The next group of an entry that is present in both operands. -/
def State.nextGroup (s : State) (e : MxEntry) : Option Nat :=
  let a := opA e.blk e.a
  let b := opB e.blk e.b
  ((List.range (a.kg - e.next)).map (e.next + ·)).find? fun g => s.mxPresent a g && s.mxPresent b g

/-! One group applied to one entry. -/

/-- A row's new elements for group `g` (R57, R58, R315): column, 64-bit value and flags. -/
def State.mxRow (s : State) (cl : Nat) (e : MxEntry) (g r : Nat) (av : List Fv) (bv : List (List Fv)) :
    List (Nat × Nat × Nat) :=
  let m := s.mx cl
  let p0 := e.tiles.getD 0 0
  let p1 := e.tiles.getD 1 0
  (List.range 64).map fun c =>
    match blkAcc e.blk with
    | 1 =>
      let x := (s.mxInts (opA e.blk e.a) r g).zip (s.mxInts (opB e.blk e.b) c g)
      (c, wrapI 32 (x.foldl (fun t p => t + p.1 * p.2) (sval 32 ((m.tile p0).get r c).toNat)), 0)
    | 2 =>
      let acc := ((m.tile p0).get r c).toNat + 2 ^ 32 * ((m.tile p1).get r c).toNat
      let (v, fl) := dotRound .fp64 (blkRm e.blk) (Fp.fp64.decode acc) (av.zip (bv.getD c []))
      (c, v, fl)
    | _ =>
      let (v, fl) := dotRound .fp32 (blkRm e.blk) (Fp.fp32.decode ((m.tile p0).get r c).toNat) (av.zip (bv.getD c []))
      (c, v, fl)

/-- Put a row's new elements and flags into the tiles. -/
def Matrix.putRow (m : Matrix) (e : MxEntry) (r : Nat) (xs : List (Nat × Nat × Nat)) : Matrix :=
  let p0 := e.tiles.getD 0 0
  let t0 := xs.foldl (fun (t : MxTile) x =>
    { t.set r x.1 (BitVec.ofNat 32 x.2.1) with flags := Nat.lor t.flags (mxFlags x.2.2) }) (m.tile p0)
  let m := m.setTile p0 t0
  match e.tiles with
  | [_, p1] => m.setTile p1 (xs.foldl (fun (t : MxTile) x => t.set r x.1 (BitVec.ofNat 32 (x.2.1 / 2 ^ 32))) (m.tile p1))
  | _ => m

/-- Replace an entry of the same number. -/
def Matrix.setEntry (m : Matrix) (e : MxEntry) : Matrix :=
  { m with entries := m.entries.map fun x => if x.num == e.num then e else x }

/-- Group `g` applied to an entry (R315): or, where a block is ill-formed, the entry stops and its tile takes the fault
(R321). -/
def State.mxApply (s : State) (cl : Nat) (e : MxEntry) (g : Nat) : State :=
  let fp := blkAcc e.blk != 1
  let av := fun r => if fp then s.mxVals (opA e.blk e.a) r g else some []
  let bvs := (List.range 64).map fun c => if fp then s.mxVals (opB e.blk e.b) c g else some []
  let stop := fun (side : Bool) =>
    let m := s.mx cl
    let p := e.tiles.getD 0 0
    s.setMx cl ((m.setTile p { m.tile p with fdf := some (side, g) }).setEntry { e with next := blkKg e.blk })
  if e.rows.any fun r => (av r).isNone then stop false
  else if bvs.any Option.isNone then stop true
  else
    let bv := bvs.map fun v => v.getD []
    let m := e.rows.foldl (fun m r => m.putRow e r (s.mxRow cl e g r ((av r).getD []) bv)) (s.mx cl)
    s.setMx cl (m.setEntry { e with next := g + 1 })

end Sys2Proof.Machine
end

