-- ==== Sys2Proof/Machine/CoordOps.lean ====
section
/-! DEFINITION. What the coordinate engine computes: cursor records (16 R336, R337), the decoding of streams (R332 to
R334), delivery (R338) and splitting (R345). -/

namespace Sys2Proof.Machine

/-! Records. -/

/-- The word of a record's bytes at an offset. -/
def recW (bs : List Byte) (o n : Nat) : Nat := leNat ((bs.drop o).take n)

/-- Does consuming an item of the encoding set AUX (R333)? -/
def auxMoves (enc : Nat) : Bool := enc == 0 || enc == 1 || enc == 3

/-- Stream `i` of a record, 0 for A; without `load` the progress fields start at 0 (R337). -/
def streamOf (bs : List Byte) (load : Bool) (i : Nat) : Stream :=
  let w := recW bs 0 4
  let enc := fld w (2 + 3 * i) 3
  { enc, sp := bit w (8 + i), df := fld w (10 + 5 * i) 5, base := recW bs (8 + 8 * i) 8, cnt := recW bs (0x18 + 4 * i) 4,
    aux := if load || !auxMoves enc then recW bs (0x20 + 4 * i) 4 else 0,
    next := if load then recW bs (0x28 + 4 * i) 4 else 0, loc := if load then recW bs (0x30 + 4 * i) 4 else 0,
    v := load && bit w (21 + i), mr := load && bit w (24 + i) }

/-- A record as QDOPEN, or with `load` QDLOAD, takes it (R336, R337). -/
def curOf (bs : List Byte) (load : Bool) : CurRec :=
  let w := recW bs 0 4
  { mode := w % 4, a := streamOf bs load 0, b := streamOf bs load 1, lv := load && bit w 20,
    last := if load then recW bs 4 4 else 0, hiv := bit w 23, hi := recW bs 0x38 4 }

/-- A stream ill-formed on its own (R337). -/
def Stream.bad (x : Stream) (load : Bool) : Bool :=
  4 < x.enc || (x.enc == 4 && (numFmt x.df).isNone) || (x.enc != 4 && x.df != 0) || (x.enc != 3 && x.mr) ||
    (x.sp && x.base / 2 ^ 21 != 0) || (load && (x.cnt < x.loc || (x.enc == 1 && x.loc != 0 && !x.v)))

/-- A stream with every field 0. -/
def Stream.zero : Stream :=
  { enc := 0, sp := false, df := 0, base := 0, cnt := 0, aux := 0, next := 0, loc := 0, v := false, mr := false }

/-- R337. -/
def curBad (bs : List Byte) (load : Bool) : Bool :=
  let c := curOf bs load
  fld (recW bs 0 4) 26 6 != 0 || recW bs 0x3C 4 != 0 || c.a.bad load || c.b.bad load ||
    (c.mode == 0 && c.b != Stream.zero)

/-- The 64 bytes of a cursor's record (R336). -/
def CurRec.bytes (c : CurRec) : List Byte :=
  let w := c.mode + 4 * c.a.enc + 32 * c.b.enc + 256 * b2n c.a.sp + 512 * b2n c.b.sp + 1024 * c.a.df + 2 ^ 15 * c.b.df +
    2 ^ 20 * b2n c.lv + 2 ^ 21 * b2n c.a.v + 2 ^ 22 * b2n c.b.v + 2 ^ 23 * b2n c.hiv + 2 ^ 24 * b2n c.a.mr +
    2 ^ 25 * b2n c.b.mr
  leBytes 4 w ++ leBytes 4 c.last ++ leBytes 8 c.a.base ++ leBytes 8 c.b.base ++ leBytes 4 c.a.cnt ++ leBytes 4 c.b.cnt ++
    leBytes 4 c.a.aux ++ leBytes 4 c.b.aux ++ leBytes 4 c.a.next ++ leBytes 4 c.b.next ++ leBytes 4 c.a.loc ++
    leBytes 4 c.b.loc ++ leBytes 4 c.hi ++ leBytes 4 0

/-! Streams. -/

/-- Alignment of a stream's base (R332). -/
def Stream.align (x : Stream) : Nat :=
  match x.enc with
  | 0 => 4 | 1 => 2 | 2 => 4 | 3 => 8
  | _ => max 1 (memWidth x.df / 8)

/-- The base as an address, or as an offset of an allocation. -/
def Stream.start (x : Stream) : Nat := if x.sp then dscOff x.base else x.base

/-- Offset of a unit, and the bytes of the whole stream (R332). -/
def Stream.offset (x : Stream) (u : Nat) : Nat :=
  match x.enc with
  | 0 => 4 * u | 1 => 2 * u | 2 => 4 * (u / 32) | 3 => 8 * u
  | _ => u * memWidth x.df / 8
def Stream.size (x : Stream) : Nat :=
  match x.enc with
  | 0 => 4 * x.cnt | 1 => 2 * x.cnt | 2 => 4 * ((x.cnt + 31) / 32) | 3 => 8 * x.cnt
  | _ => (x.cnt * memWidth x.df + 7) / 8

/-- The streams that a mode reads. -/
def CurRec.streams (c : CurRec) : List Stream := if c.mode = 0 then [c.a] else [c.a, c.b]

/-! Decoding. -/

/-- Why a command cannot go on as it stands: a line has to be translated first, or the coordinate order is broken. -/
inductive QErr where
  | need (va : Nat)
  | order (side : Bool) (unit : Nat)
  deriving DecidableEq, Repr

/-- What streams are read through: the package, the lines translated so far, and where scratchpad streams lie. -/
structure QView where
  s : State
  tr : List (Nat × Phys)
  la : Option MxLoc
  lb : Option MxLoc

/-- The byte at an offset of a stream (R349): in an allocation's tiles, or at the home slice of a translated line. -/
def QView.byte (q : QView) (side : Bool) (x : Stream) (o : Nat) : Except QErr Nat :=
  if x.sp then
    .ok (match (if side then q.lb else q.la) with
      | some l => q.s.mxByte l (l.off + o)
      | none => 0)
  else
    let va := (x.base + o) % 2 ^ 64
    match look (lineVa va) q.tr with
    | some p => .ok (q.s.homeByte { p with pa := p.pa + va % 128 }).toNat
    | none => .error (.need (lineVa va))

/-- A little-endian number at an offset of a stream. -/
def QView.num (q : QView) (side : Bool) (x : Stream) (o : Nat) : Nat → Except QErr Nat
  | 0 => .ok 0
  | n + 1 =>
    match q.byte side x o with
    | .error e => .error e
    | .ok b =>
      match q.num side x (o + 1) n with
      | .error e => .error e
      | .ok r => .ok (b + 256 * r)

/-- The lowest unit from `j` on, within `n` units, that satisfies a test. -/
def findUnit (p : Nat → Except QErr Bool) : Nat → Nat → Except QErr (Option Nat)
  | 0, _ => .ok none
  | n + 1, j =>
    match p j with
    | .error e => .error e
    | .ok true => .ok (some j)
    | .ok false => findUnit p n (j + 1)

/-- Is an element nonzero (R334)? -/
def denseNonzero (df v : Nat) : Bool :=
  match numFmt df with
  | some (.fp f) => v % 2 ^ (f.width - 1) != 0 || (f == .e2m1 && v % 16 == 8)
  | some (.int _ w) => v % 2 ^ w != 0
  | none => false

/-- The code of DENSE element `j` (R38). -/
def QView.element (q : QView) (side : Bool) (x : Stream) (j : Nat) : Except QErr Nat :=
  let w := memWidth x.df
  if w = 4 then (q.byte side x (j / 2)).map fun b => fld b (4 * (j % 2)) 4 else q.num side x (j * (w / 8)) (w / 8)

/-- An item: coordinate, position, and the stream once it is consumed. -/
abbrev QItem := Nat × Nat × Stream

/-- A stream after an item is consumed (R333). -/
def Stream.after (x : Stream) (c loc : Nat) (mr : Bool) : Stream :=
  let x := { x with loc, mr, next := (x.next + 1) % 2 ^ 32 }
  if auxMoves x.enc then { x with aux := c, v := true } else x

/-- A coordinate, or the order fault at `unit` when it is no N32 value. -/
def coordAt (side : Bool) (unit c p : Nat) (x : Stream) : Except QErr (Option QItem) :=
  if 2 ^ 32 ≤ c then .error (.order side unit) else .ok (some (c, p, x))

/-- The next item of a stream (R333). -/
def QView.item (q : QView) (side : Bool) (x : Stream) : Except QErr (Option QItem) := do
  let bad : Nat → Except QErr (Option QItem) := fun u => .error (.order side u)
  if x.cnt ≤ x.loc then return none
  match x.enc with
  | 0 =>
    let c ← q.num side x (4 * x.loc) 4
    if x.v && c ≤ x.aux then bad x.loc else return some (c, x.next, x.after c (x.loc + 1) false)
  | 1 =>
    if x.loc = 0 then
      if x.cnt = 1 then bad 0
      else
        let c ← q.num side x 0 4
        return some (c, x.next, x.after c 2 false)
    else
      let g ← q.num side x (2 * x.loc) 2
      if g != 0 then coordAt side x.loc (x.aux + g) x.next (x.after (x.aux + g) (x.loc + 1) false)
      else if x.cnt ≤ x.loc + 2 then bad x.loc
      else
        let e ← q.num side x (2 * x.loc + 2) 4
        if e = 0 then bad x.loc else coordAt side x.loc (x.aux + e) x.next (x.after (x.aux + e) (x.loc + 3) false)
  | 2 =>
    match ← findUnit (fun j => (q.byte side x (j / 8)).map fun b => bit b (j % 8)) (x.cnt - x.loc) x.loc with
    | none => return none
    | some j => coordAt side j (x.aux + j) x.next (x.after 0 (j + 1) false)
  | 3 =>
    match ← findUnit (fun j => (q.num side x (8 * j + 4) 4).map (· != 0)) (x.cnt - x.loc) x.loc with
    | none => return none
    | some j =>
      let st ← q.num side x (8 * j) 4
      let n ← q.num side x (8 * j + 4) 4
      if !x.mr && x.v && st ≤ x.aux then bad j
      else if 2 ^ 32 < st + n then bad j
      else
        let c := if x.mr then (x.aux + 1) % 2 ^ 32 else st
        if c + 1 = st + n then return some (c, x.next, x.after c (j + 1) false)
        else return some (c, x.next, x.after c j true)
  | _ =>
    match ← findUnit (fun j => (q.element side x j).map (denseNonzero x.df)) (x.cnt - x.loc) x.loc with
    | none => return none
    | some j => coordAt side j (x.aux + j) j (x.after 0 (j + 1) false)

/-- head (R338): none also from HI on. -/
def QView.head (q : QView) (c : CurRec) (side : Bool) : Except QErr (Option QItem) := do
  match ← q.item side (if side then c.b else c.a) with
  | none => return none
  | some i => return (if c.hiv && c.hi ≤ i.1 then none else some i)

/-! Delivery. -/

/-- A position that an item absent from a stream has (R338). -/
def qNone : Nat := 0xFFFFFFFF

/-- What a delivery has come to: the record, the items, END. -/
abbrev QOut := CurRec × List (Nat × Nat × Nat) × Bool

/-- An item is emitted. -/
def CurRec.emit (c : CurRec) (k : Nat) : CurRec := { c with last := k, lv := true }

/-- R338: `n` items wanted; every turn consumes an item or stops. -/
def QView.deliver (q : QView) : Nat → Nat → CurRec → List (Nat × Nat × Nat) → Except QErr QOut
  | 0, _, c, got => .ok (c, got, false)
  | fuel + 1, n, c, got =>
    if n ≤ got.length then .ok (c, got, false)
    else do
      let a ← q.head c false
      match c.mode, a with
      | 0, none => return (c, got, true)
      | 0, some (k, p, a') => q.deliver fuel n { c.emit k with a := a' } (got ++ [(k, p, qNone)])
      | 1, none => return (c, got, true)
      | 1, some (ka, pa, a') =>
        match ← q.head c true with
        | none => return (c, got, true)
        | some (kb, pb, b') =>
          if ka < kb then q.deliver fuel n { c with a := a' } got
          else if kb < ka then q.deliver fuel n { c with b := b' } got
          else q.deliver fuel n { c.emit ka with a := a', b := b' } (got ++ [(ka, pa, pb)])
      | 2, a =>
        let b ← q.head c true
        match a, b with
        | none, none => return (c, got, true)
        | some (ka, pa, a'), none => q.deliver fuel n { c.emit ka with a := a' } (got ++ [(ka, pa, qNone)])
        | none, some (kb, pb, b') => q.deliver fuel n { c.emit kb with b := b' } (got ++ [(kb, qNone, pb)])
        | some (ka, pa, a'), some (kb, pb, b') =>
          if ka < kb then q.deliver fuel n { c.emit ka with a := a' } (got ++ [(ka, pa, qNone)])
          else if kb < ka then q.deliver fuel n { c.emit kb with b := b' } (got ++ [(kb, qNone, pb)])
          else q.deliver fuel n { c.emit ka with a := a', b := b' } (got ++ [(ka, pa, pb)])
      | _, none => return (c, got, true)
      | _, some (ka, pa, a') =>
        match ← q.head c true with
        | none => q.deliver fuel n { c.emit ka with a := a' } (got ++ [(ka, pa, qNone)])
        | some (kb, _, b') =>
          if kb < ka then q.deliver fuel n { c with b := b' } got
          else if kb = ka then q.deliver fuel n { c with a := a', b := b' } got
          else q.deliver fuel n { c.emit ka with a := a' } (got ++ [(ka, pa, qNone)])

/-- More turns than any delivery takes: the items of two streams ascend strictly among 2^32 coordinates. -/
def qTurns : Nat := 2 ^ 34

/-! Splitting. -/

/-- The coordinates left in A, with the mode and HI applied to A alone. -/
def QView.rest (q : QView) (side : Bool) : Nat → CurRec → Except QErr (List Nat)
  | 0, _ => .ok []
  | fuel + 1, c => do
    match ← q.head c side with
    | none => return []
    | some (k, _, x) =>
      let r ← q.rest side fuel (if side then { c with b := x } else { c with a := x })
      return k :: r

/-- A stream with its items below `b` consumed; with no `b`, all of them. -/
def QView.skip (q : QView) (side : Bool) (b : Option Nat) : Nat → CurRec → Except QErr CurRec
  | 0, c => .ok c
  | fuel + 1, c => do
    match ← q.head c side with
    | none => return c
    | some (k, _, x) =>
      if b.any (· ≤ k) then return c
      else q.skip side b fuel (if side then { c with b := x } else { c with a := x })

/-- The streams that the ends of a split by coordinate are taken from: A, and B too for MERGE. -/
def CurRec.sides (c : CurRec) : List Bool := if c.mode = 2 then [false, true] else [false]

/-- The ends c0 and cend of a split by coordinate (R345): none when no item is left. With HIV = 1 only heads are decoded. -/
def QView.ends (q : QView) (c : CurRec) : Except QErr (Option (Nat × Nat)) := do
  let heads ← c.sides.mapM fun side => q.head c side
  match (heads.filterMap fun h => h.map (·.1)).min? with
  | none => return none
  | some c0 =>
    if c.hiv then return some (c0, c.hi)
    else
      let all ← c.sides.mapM fun side => q.rest side qTurns c
      return all.flatten.max?.map fun last => (c0, last + 1)

/-- The boundaries b1 to b(m-1) (R345); none stands for bm, past every item. -/
def QView.bounds (q : QView) (c : CurRec) (crd : Bool) (m : Nat) : Except QErr (List (Option Nat)) := do
  let js := (List.range (m - 1)).map (· + 1)
  if m ≤ 1 then return []
  else if crd then
    match ← q.ends c with
    | some (c0, cend) => return js.map fun j => some (c0 + j * (cend - c0) / m)
    | none => return js.map fun _ => none
  else
    let as ← q.rest false qTurns c
    return js.map fun j => as[j * as.length / m]?

/-- The pieces in order (R345). -/
def QView.split (q : QView) (c : CurRec) (crd : Bool) (m : Nat) : Except QErr (List CurRec) := do
  let bs ← q.bounds c crd m
  let starts := (List.range m).map fun j => if j = 0 then none else some (bs.getD (j - 1) none)
  let piece := fun (j : Nat) (st : Option (Option Nat)) => do
    let p ← match st with
      | none => pure c
      | some b => do
        let p ← q.skip false b qTurns c
        let p ← if c.mode = 0 then pure p else q.skip true b qTurns p
        pure { p with lv := false }
    return match bs.getD j none with
      | some b => { p with hi := b, hiv := true }
      | none => p
  (starts.zipIdx).mapM fun x => piece x.2 x.1

end Sys2Proof.Machine
end

