-- ==== Sys2Proof/Machine/Cross.lean ====
section
/-! DEFINITION. Cross-thread forms: shuffles, votes, reductions, matches (08 R172, R176 to R180). -/

namespace Sys2Proof.Machine

/-- The optional predicate destination of SHFL, XSW, QDNEXT and QYPOP (R170, R339, R369). -/
def pqOf (h : Hdr) : Option Nat := if bit h.ih 7 then some (h.ih % 128) else none

/-- Write the optional predicate destination. -/
def Warp.writePq (w : Warp) (pq : Option Nat) (cover vals : Mask) : Warp :=
  match pq with
  | some n => w.writeP n cover vals
  | none => w

/-- A shuffle: `from_` gives each thread its source thread, if in range (R176). -/
def State.shuffle (s : State) (h : Hdr) (d a b : BitVec 7) (from_ : Nat → Nat → Option Nat) :
    Host.Outcome State Fault Refusal :=
  match s.cur with
  | none => noWarp
  | some (c, w) =>
    let r := c.src w
    let parts := r.participants c.slot h
    if parts == 0 then .next (s.endWord h .no)
    else
      let src := fun t => match from_ t (r.reg b.toNat t).toNat with
        | some u => if has parts u then some u else none
        | none => none
      let val := fun t => r.reg a.toNat ((src t).getD t)
      let w := (w.markAlone c (markCodes h a.toNat b.toNat) parts).writeV d.toNat
        (resultShape .plain [r.shape a.toNat]) parts ((List.range 32).map val)
      let w := w.writePq (pqOf h) parts (maskWhere fun t => (src t).isSome)
      .next ((s.setWarp w).endWord h .no)

/-- SHFL.PICK (R176). -/
def execShflPick (h : Hdr) (d a b : BitVec 7) (s : State) : Host.Outcome State Fault Refusal :=
  s.shuffle h d a b fun _ v => some (v % 32)
/-- SHFL.LAG (R176). -/
def execShflLag (h : Hdr) (d a b : BitVec 7) (s : State) : Host.Outcome State Fault Refusal :=
  s.shuffle h d a b fun t v => if t < v then none else some (t - v)
/-- SHFL.LEAD (R176). -/
def execShflLead (h : Hdr) (d a b : BitVec 7) (s : State) : Host.Outcome State Fault Refusal :=
  s.shuffle h d a b fun t v => if 31 < t + v then none else some (t + v)
/-- SHFL.MIRR (R176). -/
def execShflMirr (h : Hdr) (d a b : BitVec 7) (s : State) : Host.Outcome State Fault Refusal :=
  s.shuffle h d a b fun t v => some (Nat.xor t (v % 32))

/-- A vote: one truth for all participants, from the participants and those of them whose `pa` is 1 (R178). -/
def State.vote (s : State) (h : Hdr) (d a : BitVec 7) (f : Mask → Mask → Bool) : Host.Outcome State Fault Refusal :=
  match s.cur with
  | none => noWarp
  | some (c, w) =>
    let r := c.src w
    let parts := r.participants c.slot h
    if parts == 0 then .next (s.endWord h .no)
    else
      let m := maskWhere fun t => has parts t && r.pred a.toNat t
      .next ((s.setWarp (w.writeP d.toNat parts (if f parts m then fullMask else 0))).endWord h .no)

/-- VOTE.EVERY (R178). -/
def execVoteEvery (h : Hdr) (d a _b : BitVec 7) (s : State) : Host.Outcome State Fault Refusal :=
  s.vote h d a fun p m => m == p
/-- VOTE.SOME (R178). -/
def execVoteSome (h : Hdr) (d a _b : BitVec 7) (s : State) : Host.Outcome State Fault Refusal :=
  s.vote h d a fun _ m => m != 0
/-- VOTE.SAME (R178). -/
def execVoteSame (h : Hdr) (d a _b : BitVec 7) (s : State) : Host.Outcome State Fault Refusal :=
  s.vote h d a fun p m => m == p || m == 0

/-- A form that gives one value to every participant, or to the s-register it names (R171, R178 to R180): `f` gets the
warp as read and the participants, in ascending order. It is held uniform where R155 allows. -/
def State.collect (s : State) (h : Hdr) (d a : BitVec 7) (f : Warp → List Nat → Nat) :
    Host.Outcome State Fault Refusal :=
  s.compute h a.toNat 0 d.toNat 1 (fun _ _ => .uni) fun c r _ => (f r (threads (r.participants c.slot h)), 0)

/-- BALLOT (R178): its A is a predicate and takes no mark. -/
def execBallot (h : Hdr) (d a _b : BitVec 7) (s : State) : Host.Outcome State Fault Refusal :=
  s.collect h d a fun r ps => (maskOf (ps.filter fun t => r.pred a.toNat t)).toNat

/-- REDUX (R179): `z` with no participant is never used. -/
def State.redux (s : State) (h : Hdr) (d a : BitVec 7) (f : Nat → Nat → Nat) : Host.Outcome State Fault Refusal :=
  s.collect h d a fun r ps =>
    match ps.map fun t => (r.reg a.toNat t).toNat with
    | [] => 0
    | v :: vs => vs.foldl f v

/-- REDUX.SUM (R179). -/
def execReduxSum (h : Hdr) (d a _b : BitVec 7) (s : State) : Host.Outcome State Fault Refusal :=
  s.redux h d a fun x y => (x + y) % 2 ^ 32
/-- REDUX.LEAST.S32 (R179). -/
def execReduxLeastS32 (h : Hdr) (d a _b : BitVec 7) (s : State) : Host.Outcome State Fault Refusal :=
  s.redux h d a fun x y => if sval 32 y < sval 32 x then y else x
/-- REDUX.LEAST.N32 (R179). -/
def execReduxLeastN32 (h : Hdr) (d a _b : BitVec 7) (s : State) : Host.Outcome State Fault Refusal :=
  s.redux h d a fun x y => min x y
/-- REDUX.MOST.S32 (R179). -/
def execReduxMostS32 (h : Hdr) (d a _b : BitVec 7) (s : State) : Host.Outcome State Fault Refusal :=
  s.redux h d a fun x y => if sval 32 x < sval 32 y then y else x
/-- REDUX.MOST.N32 (R179). -/
def execReduxMostN32 (h : Hdr) (d a _b : BitVec 7) (s : State) : Host.Outcome State Fault Refusal :=
  s.redux h d a fun x y => max x y
/-- REDUX.BAND (R179). -/
def execReduxBand (h : Hdr) (d a _b : BitVec 7) (s : State) : Host.Outcome State Fault Refusal :=
  s.redux h d a Nat.land
/-- REDUX.BOR (R179). -/
def execReduxBor (h : Hdr) (d a _b : BitVec 7) (s : State) : Host.Outcome State Fault Refusal :=
  s.redux h d a Nat.lor
/-- REDUX.BXOR (R179). -/
def execReduxBxor (h : Hdr) (d a _b : BitVec 7) (s : State) : Host.Outcome State Fault Refusal :=
  s.redux h d a Nat.xor

/-- MATCH.PEERS (R180): a general result. -/
def execMatchPeers (h : Hdr) (d a _b : BitVec 7) (s : State) : Host.Outcome State Fault Refusal :=
  s.compute h a.toNat 0 d.toNat 1 (fun _ _ => .gen) fun c r t =>
    ((maskOf ((threads (r.participants c.slot h)).filter fun u => r.reg a.toNat u == r.reg a.toNat t)).toNat, 0)

/-- MATCH.UNIF (R180). -/
def execMatchUnif (h : Hdr) (d a _b : BitVec 7) (s : State) : Host.Outcome State Fault Refusal :=
  s.collect h d a fun r ps =>
    match ps with
    | [] => 0
    | t :: _ => if ps.all fun u => r.reg a.toNat u == r.reg a.toNat t then (maskOf ps).toNat else 0

end Sys2Proof.Machine
end

