-- ==== Sys2Proof/Machine/MatrixForms.lean ====
section
/-! DEFINITION. The matrix-engine forms (15 R312 to R314, R322 to R328) and the steps that end their waits. -/

namespace Sys2Proof.Machine

/-! Traps that a form raises while its slot holds it. -/

/-- The words of slot `k`'s chain that have not issued see its trap, the first standing (R383); none when its chain has
issued. -/
def State.chainTrap (s : State) (u k : Nat) (t : TrapReq) : Option State :=
  let mine := fun (c : Issue) => c.uid == u && c.slot == k
  let put := fun (c : Issue) => { c with trap := some (c.trap.getD t) }
  if s.issue.any mine then some { s with issue := s.issue.map put }
  else if s.paused.any fun p => mine p.1 then
    some { s with paused := s.paused.map fun p => if mine p.1 then (put p.1, p.2) else p }
  else none

/-- The trap of a form that its slot holds (R322, R340, R348): its region is the form itself, at FPC for a Quadrille command
(R348), and the default resume point is the form, or, for MXWAIT (`next`), the next instruction. Words of its chain that
follow it take effect first (R19). -/
def State.engineTrap (s : State) (u : Nat) (a : Access) (cls : Nat) (mask : Mask) (va info : Nat) (word : Nat)
    (next : Bool) : State :=
  match s.warp? u with
  | none => s
  | some w =>
    let sl := w.slot a.slot
    let rpc := if next then a.npc else a.fpc
    let t : TrapReq :=
      { cls, mask, fpc := a.fpc, npc := a.npc, rpc, bpc := rpc, word := a.wslot, va,
        info := if cls = 1 then word else info, replay := false, seq := a.seq }
    let w := (w.dropAccess a.id).settleBnds
    let sl := { sl with wait := none, epc := if next then sl.prev else a.fpc, emask := sl.mask }
    match (s.setWarp (w.setSlot a.slot sl)).chainTrap u a.slot t with
    | some s => s
    | none => (s.setWarp (w.setSlot a.slot { sl with trap := some (sl.trap.getD t) })).takeTrap u a.slot

/-- End the wait of slot `k` of warp `u`. -/
def State.wakeSlot (s : State) (u k : Nat) : State :=
  s.modWarp u fun w => w.setSlot k { w.slot k with wait := none }

/-- An engine's result arrives: the access is ready to be written. -/
def State.ready (s : State) (u id : Nat) (wr : List RegWrite) : State :=
  s.modWarp u fun w => { w with accs := w.accs.map fun a => if a.id == id then { a with kind := .result wr, walked := true } else a }

def State.modGang (s : State) (uid : Nat) (f : Gang → Gang) : State :=
  { s with disp := { s.disp with gangs := s.disp.gangs.map fun g => if g.uid == uid then f g else g } }

/-- The effective priority of a gang's launch (R205). -/
def State.prioOf (s : State) (g : Gang) : Nat := min g.lrec.prio (s.disp.queues.getD g.queue Queue.reset).pcap

/-- An illegal-instruction trap of the issuing word for all of `m`. -/
def State.illegal (s : State) (c : Issue) (h : Hdr) (m : Mask) (w : Warp) : State :=
  s.trapWord c h (c.trapOf 1 m 0 c.word.toNat (w.seq + 1))

/-! Waits. -/

/-- MXACQ (R325): binds the name to a tile of the share once there is room. -/
def State.tryMxacq (s : State) (u k : Nat) : State :=
  match s.warp? u with
  | none => s
  | some w =>
    match (w.slot k).wait, s.gang? w.gang with
    | some (.mxacq n), some g =>
      let free := g.share.filter fun p => !g.names.any fun x => x.2 == p
      match free with
      | p :: _ =>
        if (look n g.names).isSome || g.names.length ≥ g.lrec.atiles then s
        else
          ((s.setMx w.cluster ((s.mx w.cluster).setTile p (MxTile.new w.ctx))).modGang g.uid
            fun g => { g with names := put n p g.names }).wakeSlot u k
      | [] => s
    | _, _ => s

/-- MXREL (R325): the tile returns once everything that names it has completed. -/
def State.tryMxrel (s : State) (u k : Nat) : State :=
  match s.warp? u with
  | none => s
  | some w =>
    match (w.slot k).wait with
    | some (.mxrel n id) =>
      match s.mxName w n with
      | none => s.wakeSlot u k
      | some p =>
        let m := s.mx w.cluster
        if m.busyBelow p id then s
        else ((s.setMx w.cluster { m with tiles := del p m.tiles }).modGang w.gang
          fun g => { g with names := del n g.names }).wakeSlot u k
    | _ => s

/-- May an owner flip take effect (R328, R283, R350)? No copy touches the tile (R298). -/
def State.flipReady (s : State) (w : Warp) (eng : Bool) (core : Nat) (tiles : List Nat) (id : Nat) : Bool :=
  let c := s.core core
  !((c.writePending ++ c.readPending).any fun g => tiles.contains (g / 256)) &&
  if eng then !(w.sq.any fun e => e.id < id && match e.space with | .scr _ => true | _ => false)
  else
    let k := s.cluster w.cluster
    !(k.mx.entries.any fun e => e.used.any fun p => p.1 == core && tiles.contains p.2) &&
      !(k.qd.cursors.any fun e => e.tiles.any fun p => p.1 == core && tiles.contains p.2)

/-- MXOWN (R328): the flip. -/
def State.tryMxown (s : State) (u k : Nat) : State :=
  match s.warp? u with
  | none => s
  | some w =>
    match (w.slot k).wait with
    | some (.mxown eng core tiles id) =>
      if s.flipReady w eng core tiles id then
        let c := s.core core
        let rest := c.engine.filter fun t => !tiles.contains t
        (s.setCore core { c with engine := if eng then rest ++ tiles else rest }).wakeSlot u k
      else s
    | _ => s

/-- MXWAIT (R322): the status is written once everything granted before it that names the tile has completed; a
format data fault is cleared and raised. -/
def State.tryMxwait (s : State) (u k : Nat) : State :=
  match s.warp? u with
  | none => s
  | some w =>
    match (w.slot k).wait with
    | some (.mxwait n d id) =>
      let m := s.mx w.cluster
      match s.mxName w n with
      | none => (s.ready u id [.s d 0]).wakeSlot u k
      | some p =>
        let st := m.status p
        if m.busyBelow p id then s
        else if bit st 6 then
          let s := s.setMx w.cluster (m.setTile p { m.tile p with fdf := none })
          match w.accs.find? fun a => a.id == id with
          | none => s
          | some a =>
            (s.modWarp u fun w => w.reply id [.s d (BitVec.ofNat 32 st)]).engineTrap u a 8 a.parts 0 st 0 true
        else (s.ready u id [.s d (BitVec.ofNat 32 st)]).wakeSlot u k
    | _ => s

/-- The elements that a row access reads, by thread. -/
def MxRw.reads (r : MxRw) (t : MxTile) : List (Nat × List Word) :=
  r.items.map fun i => (i.1, (List.range r.n).map fun j => t.get i.2.1 (i.2.2 + j))
/-- The tile after a row access wrote, in ascending thread. -/
def MxRw.writes (r : MxRw) (t : MxTile) : MxTile :=
  r.items.foldl (fun t i =>
    let vs := (look i.1 r.data).getD []
    (List.range r.n).foldl (fun (t : MxTile) j => t.set i.2.1 (i.2.2 + j) (nth vs j)) t) t

/-- MXRD and MXWR (R325, R327): the accesses, once every older entry that owns a row of them has completed and the
warp's earlier ones have been made. -/
def State.tryMxrw (s : State) (u k : Nat) : State :=
  match s.warp? u with
  | none => s
  | some w =>
    match (w.slot k).wait with
    | some (.mxrw id) =>
      let m := s.mx w.cluster
      match m.rws.find? fun r => r.num == id with
      | none => s.wakeSlot u k
      | some r =>
        if (m.entries.any fun e => e.num < id && r.meets e) || m.rws.any fun x => x.w == u && x.num < id then s
        else
          let t := m.tile r.tile
          let m := { m with rws := m.rws.filter fun x => x.num != id }
          let s := (s.setMx w.cluster (if r.write then m.setTile r.tile (r.writes t) else m)).wakeSlot u k
          if r.write then s else s.ready u id (wordWrites r.d r.n (r.reads t))
    | _ => s

/-- MXACQ_BIND (R325). -/
def execMxacqBind (u k : Nat) (s : State) : Host.Outcome State Fault Refusal := .next (s.tryMxacq u k)
/-- MXREL_RETURN (R325). -/
def execMxrelReturn (u k : Nat) (s : State) : Host.Outcome State Fault Refusal := .next (s.tryMxrel u k)
/-- MXOWN_FLIP (R328). -/
def execMxownFlip (u k : Nat) (s : State) : Host.Outcome State Fault Refusal := .next (s.tryMxown u k)
/-- MXWAIT_REPORT (R322). -/
def execMxwaitReport (u k : Nat) (s : State) : Host.Outcome State Fault Refusal := .next (s.tryMxwait u k)
/-- MX_ROW_ACCESS (R327). -/
def execMxRowAccess (u k : Nat) (s : State) : Host.Outcome State Fault Refusal := .next (s.tryMxrw u k)

/-! Forms. -/

/-- The slot waits for `x`, which `try_` ends at once where it can. -/
def State.hold (s : State) (c : Issue) (h : Hdr) (w : Warp) (x : Wait) (try_ : State → Nat → Nat → State) : State :=
  try_ ((s.setWarp (w.await c.slot x)).endWord h .self) c.uid c.slot

/-- MXACQ (R325). -/
def execMxacq (h : Hdr) (_d a _b : BitVec 7) (s : State) : Host.Outcome State Fault Refusal :=
  match s.cur with
  | none => noWarp
  | some (c, w) =>
    let at_ := match s.gang? w.gang with | some g => g.lrec.atiles | none => 0
    if at_ = 0 then .next (s.illegal c h (w.slot c.slot).mask w)
    else .next (s.hold c h w (.mxacq a.toNat) State.tryMxacq)

/-- MXREL (R325). -/
def execMxrel (h : Hdr) (_d a _b : BitVec 7) (s : State) : Host.Outcome State Fault Refusal :=
  match s.cur with
  | none => noWarp
  | some (c, w) =>
    match s.mxHeld w a.toNat with
    | none => .next (s.illegal c h (w.slot c.slot).mask w)
    | some p =>
      let m := s.mx w.cluster
      let s' := s.fresh.setMx w.cluster (m.setTile p { m.tile p with held := false })
      .next (s'.hold c h w (.mxrel a.toNat s.nextId) State.tryMxrel)

/-- MXOWN (R328): D is 0 for `.THR` and 1 for `.ENG`. -/
def execMxown (h : Hdr) (d a b : BitVec 7) (s : State) : Host.Outcome State Fault Refusal :=
  match s.cur with
  | none => noWarp
  | some (c, w) =>
    let m := (w.slot c.slot).mask
    let v := ((c.src w).reg a.toNat 0).toNat
    let o := dscOff v
    let trap := fun cls => s.trapWord c h (c.trapOf cls m o 0 (w.seq + 1))
    if dscBad v then .next (s.illegal c h m w)
    else if o % 4096 != 0 then .next (trap 3)
    else
      match s.mxLoc w v with
      | none => .next (trap 4)
      | some l =>
        if !l.fits o (4096 * b.toNat) then .next (trap 4)
        else
          let tiles := (l.span o (4096 * b.toNat)).map (·.2)
          let w := w.markAlone c (markCodes h a.toNat 0) m
          .next (s.fresh.hold c h w (.mxown (d == 1) l.core tiles s.nextId) State.tryMxown)

/-- MXWAIT and MXSTAT write an s-register (R322, R323). -/
def Issue.scalarAccess (c : Issue) (w : Warp) (id : Nat) (k : AKind) (d n : Nat) (parts : Mask) : Access :=
  c.access w id k .glob 0 (dstCodes d n) [] parts [] true

/-- MXWAIT (R322). -/
def execMxwait (h : Hdr) (d a _b : BitVec 7) (s : State) : Host.Outcome State Fault Refusal :=
  match s.cur with
  | none => noWarp
  | some (c, w) =>
    let m := (w.slot c.slot).mask
    match s.mxHeld w a.toNat with
    | none => .next (s.illegal c h m w)
    | some _ =>
      let w := w.addAccess (c.scalarAccess w s.nextId (.engine false) d.toNat 1 m)
      .next (s.fresh.hold c h w (.mxwait a.toNat (d.toNat - 64) s.nextId) State.tryMxwait)

/-- MXSTAT (R323). -/
def execMxstat (h : Hdr) (d a _b : BitVec 7) (s : State) : Host.Outcome State Fault Refusal :=
  match s.cur with
  | none => noWarp
  | some (c, w) =>
    let m := (w.slot c.slot).mask
    match s.mxHeld w a.toNat with
    | none => .next (s.illegal c h m w)
    | some p =>
      let wr := [RegWrite.s (d.toNat - 64) (BitVec.ofNat 32 ((s.mx w.cluster).status p))]
      let w := w.addAccess (c.scalarAccess w s.nextId (.result wr) d.toNat 1 m)
      .next ((s.fresh.setWarp w).endWord h .no)

/-- The positions of an MXRD or MXWR by thread (R326), and the participants that fail. -/
def mxBadPos (n v : Nat) : Bool := fld v 6 2 != 0 || v / 2 ^ 14 != 0 || (n == 4 && fld v 8 6 % 4 != 0)

/-- MXRD and MXWR. -/
def State.rowForm (s : State) (h : Hdr) (d a b : BitVec 7) (write : Bool) : Host.Outcome State Fault Refusal :=
  match s.cur with
  | none => noWarp
  | some (c, w) =>
    let bnd : Bnd := if write then .self else .no
    let r := c.src w
    let parts := r.participants c.slot h
    if parts == 0 then .next (s.endWord h bnd)
    else
      let n := mxRegs b
      let ts := threads parts
      let pos := fun t => (r.reg a.toNat t).toNat
      let bad := maskOf (ts.filter fun t => mxBadPos n (pos t))
      match s.mxHeld w (b.toNat % 32) with
      | none => .next (s.illegal c h parts w)
      | some p =>
        if bad != 0 then .next (s.illegal c h bad w)
        else
          let x : MxRw :=
            { num := s.nextId, w := w.uid, slot := c.slot, tile := p, write, d := d.toNat,
              items := ts.map fun t => (t, fld (pos t) 0 6, fld (pos t) 8 6), n,
              data := if write then ts.map fun t => (t, (List.range n).map fun j => r.reg (d.toNat + j) t) else []
              freed := ((markCodes h a.toNat 0).filter (· < 63)).map fun k => (k, r.vreg k) }
          let w := w.markAlone c (markCodes h a.toNat 0) parts
          let w := if write then w
            else w.addAccess (c.access w s.nextId (.engine false) .glob 0 (dstCodes d.toNat n) [] parts [] true)
          let m := s.mx w.cluster
          let s' := s.fresh.setMx w.cluster { m with rws := m.rws ++ [x] }
          .next (State.tryMxrw ((s'.setWarp (w.await c.slot (.mxrw x.num))).endWord h bnd) c.uid c.slot)

/-- MXRD (R325 to R327). -/
def execMxrd (h : Hdr) (d a b : BitVec 7) (s : State) : Host.Outcome State Fault Refusal := s.rowForm h d a b false
/-- MXWR (R325 to R327). -/
def execMxwr (h : Hdr) (d a b : BitVec 7) (s : State) : Host.Outcome State Fault Refusal := s.rowForm h d a b true

/-- MXZERO (R325): an entry of all 64 rows. -/
def execMxzero (h : Hdr) (_d a _b : BitVec 7) (s : State) : Host.Outcome State Fault Refusal :=
  match s.cur with
  | none => noWarp
  | some (c, w) =>
    match s.mxHeld w a.toNat with
    | none => .next (s.illegal c h (w.slot c.slot).mask w)
    | some p =>
      let m := s.mx w.cluster
      let l : MxLoc := ⟨0, [], 0⟩
      let e : MxEntry :=
        { num := s.nextId, ctx := w.ctx, gang := w.gang, prio := 0, tiles := [p], zero := true, rows := List.range 64,
          a := l, b := l, blk := [], used := [], next := 0, missed := 0 }
      .next ((s.fresh.setMx w.cluster { m with entries := m.entries ++ [e] }).endWord h .self)

/-! MXQ. -/

/-- A row register's rows (R313); none when a reserved bit is set. -/
def mxRows (v : Nat) : Option (List Nat) :=
  if bit v 7 || v / 2 ^ 15 != 0 then none
  else some ((if bit v 6 then [fld v 0 6] else []) ++ (if bit v 14 then [fld v 8 6] else []))

/-- The rows of each participant. -/
def mxOwned (r : Warp) (row : Option Nat) (ts : List Nat) : List (Nat × Option (List Nat)) :=
  ts.map fun t => (t, match row with | none => some [t, t + 32] | some code => mxRows (r.reg code t).toNat)

/-- The threads with a reserved bit set or a row that another place owns too. -/
def mxRowClash (o : List (Nat × Option (List Nat))) : Mask :=
  let all := o.flatMap fun p => p.2.getD []
  maskOf ((o.filter fun p => match p.2 with
    | none => true
    | some rs => rs.any fun x => 1 < all.count x).map (·.1))

/-- The bytes of the format block, as a load of the lowest participant reads them (R314, R269). -/
def State.mxBlock (s : State) (w : Warp) (rep : Nat) (l : MxLoc) : List Nat :=
  let bs := (List.range 32).map fun i =>
    let a := tilePlace l.tiles (l.off + i)
    match forward w.sq (.scr l.core) rep a with
    | some (_, some b) => b
    | _ => cellRead (s.core l.core).scratch a
  (List.range 8).map fun k => leNat ((bs.drop (4 * k)).take 4)

/-- Is every base of an operand aligned (check 8 of R314)? The first that is not. -/
def MxOp.misaligned (x : MxOp) : Option Nat :=
  if x.loc.off % 128 != 0 then some x.loc.off
  else if x.sb % 2 != 0 then some x.sb
  else if x.ob % 2 != 0 then some x.ob
  else if x.bmb % 8 != 0 then some x.bmb
  else none

/-- The first array of an operand that leaves its allocation (check 9); the bitmap, which gives the others their
lengths, first. -/
def State.mxOutside (s : State) (x : MxOp) : Option Nat :=
  if x.bm && !x.loc.fits x.bmb ((x.kg + 7) / 8) then some x.bmb
  else ((s.mxArrays x).find? fun p => !x.loc.fits p.1 p.2).map (·.1)

/-- The tiles of an operand's arrays. -/
def State.mxUsed (s : State) (x : MxOp) : List (Nat × Nat) := (s.mxArrays x).flatMap fun p => x.loc.span p.1 p.2

/-- The checks of R314 in order: the class, the threads and the offset of the first that fails, or the entry. -/
def State.mxqCheck (s : State) (w r : Warp) (n va vb vf : Nat) (row : Option Nat) (parts : Mask) :
    (Nat × Mask × Nat) ⊕ MxEntry :=
  let bad := fun (cls o : Nat) => Sum.inl (cls, parts, o)
  match s.mxHeld w n with
  | none => bad 1 0
  | some p =>
    if dscBad va || dscBad vb || dscBad vf then bad 1 0
    else if dscOff vf % 32 != 0 then bad 3 (dscOff vf)
    else match s.mxLoc w vf with
    | none => bad 4 (dscOff vf)
    | some lf =>
      if !lf.fits lf.off 32 then bad 4 lf.off
      else if (lf.span lf.off 32).any fun q => (s.core q.1).engine.contains q.2 then bad 5 lf.off
      else
        let blk := s.mxBlock w ((lowest parts).getD 0) lf
        let p2 := if n % 2 = 0 then s.mxHeld w (n + 1) else none
        if !blkLegal blk || (blkAcc blk == 2 && p2.isNone) then bad 1 0
        else
          let own := mxOwned r row (threads parts)
          let clash := mxRowClash own
          if clash != 0 then Sum.inl (1, clash, 0)
          else
            let l0 := fun v : Nat => (s.mxLoc w v).getD { core := 0, tiles := [], off := dscOff v }
            let xa := opA blk (l0 va)
            let xb := opB blk (l0 vb)
            match xa.misaligned, xb.misaligned with
            | some o, _ => bad 3 o
            | none, some o => bad 3 o
            | none, none =>
              match (if (s.mxLoc w va).isNone then some (dscOff va) else s.mxOutside xa),
                    (if (s.mxLoc w vb).isNone then some (dscOff vb) else s.mxOutside xb) with
              | some o, _ => bad 4 o
              | none, some o => bad 4 o
              | none, none =>
                let ua := s.mxUsed xa
                let ub := s.mxUsed xb
                if ua.any fun q => !s.engineTile q then bad 5 xa.loc.off
                else if ub.any fun q => !s.engineTile q then bad 5 xb.loc.off
                else
                  let g := s.gang? w.gang
                  .inr { num := s.nextId, ctx := w.ctx, gang := w.gang,
                         prio := match g with | some g => s.prioOf g | none => 0,
                         tiles := if blkAcc blk == 2 then [p, p2.getD 0] else [p], zero := false,
                         rows := own.flatMap fun q => q.2.getD [], a := xa.loc, b := xb.loc, blk,
                         used := (ua ++ ub).eraseDups, next := 0, missed := 0 }

/-- MXQ (R312 to R316): a command for the reservation table. -/
def execMxq (h : Hdr) (d a b : BitVec 7) (s : State) : Host.Outcome State Fault Refusal :=
  match s.cur with
  | none => noWarp
  | some (c, w) =>
    let r := c.src w
    let parts := r.participants c.slot h
    if parts == 0 then .next (s.endWord h .self)
    else
      let reg := fun code : Nat => (r.reg code 0).toNat
      let row := if bit h.ih 7 then some (h.ih % 128) else none
      match s.mxqCheck w r d.toNat (reg a.toNat) (reg b.toNat) (reg h.ext.ts.toNat) row parts with
      | .inl (cls, m, o) =>
        .next (s.trapWord c h (c.trapOf cls m o (if cls = 1 then c.word.toNat else 0) (w.seq + 1)))
      | .inr e =>
        let w := w.markAlone c (markCodes h a.toNat b.toNat) parts
        let m := s.mx w.cluster
        .next (((s.fresh.setMx w.cluster { m with entries := m.entries ++ [e] }).setWarp w).endWord h .self)

end Sys2Proof.Machine
end

