-- ==== Sys2Proof/Machine/Coord.lean ====
section
/-! DEFINITION. The coordinate engine's forms and the steps that serve its commands (16 R335, R339 to R348). -/

namespace Sys2Proof.Machine

/-! Cursors of a cluster. -/

def State.qd (s : State) (cl : Nat) : Coord := (s.cluster cl).qd
def State.setQd (s : State) (cl : Nat) (q : Coord) : State := s.setCluster cl { s.cluster cl with qd := q }

/-- The cursor that a gang's name is bound to. -/
def Coord.find (q : Coord) (gang name : Nat) : Option Cursor := q.cursors.find? fun x => x.gang == gang && x.name == name
def Coord.set (q : Coord) (x : Cursor) : Coord :=
  { q with cursors := q.cursors.map fun y => if y.gang == x.gang && y.name == x.name then x else y }

/-- Take pins of leaves away (R266). -/
def State.unpinAll (s : State) (cl ctx : Nat) (bases : List Nat) : State :=
  let k := s.cluster cl
  s.setCluster cl { k with tlb := k.tlb.map fun (e : TlbEnt) =>
    if e.ctx == ctx && bases.contains e.base then { e with pins := e.pins - 1 } else e }

/-- A cursor is closed: its pins, tiles and slot are free (R341). -/
def State.closeCursor (s : State) (cl : Nat) (x : Cursor) : State :=
  let q := s.qd cl
  (s.setQd cl { q with cursors := q.cursors.filter fun y => !(y.gang == x.gang && y.name == x.name) }).unpinAll cl x.ctx
    x.pins

/-- The cursors of a gang that ends are closed (R335). -/
def State.closeGang (s : State) (cl gang : Nat) : State :=
  let s := ((s.qd cl).cursors.filter fun x => x.gang == gang).foldl (fun s x => s.closeCursor cl x) s
  let q := s.qd cl
  s.setQd cl { q with cmds := q.cmds.filter fun c => c.gang != gang }

/-! The probe pass (R344). -/

/-- The global bytes of a stream from a unit on, as ranges of addresses. -/
def Stream.ranges (x : Stream) (u : Nat) : List (Nat × Nat) :=
  if x.sp || x.cnt ≤ u then []
  else
    let lo := (x.base + x.offset u) % 2 ^ 64
    let n := x.size - x.offset u
    if lo + n ≤ 2 ^ 64 then [(lo, n)] else [(0, lo + n - 2 ^ 64), (lo, 2 ^ 64 - lo)]

/-- The leaves that cover ranges in ascending order, each once, or the first failure. -/
def State.passLeaves (s : State) (cl ctx : Nat) (priv : Bool) :
    List (Nat × Nat) → List (Nat × Nat × Phys × Bool × Bool) →
      (WalkRes × Nat ⊕ List (Nat × Nat × Phys × Bool × Bool)) × State
  | [], got => (.inr got, s)
  | (lo, n) :: rest, got =>
    match s.leaves none cl ctx .probe priv (lo + n - 1) (n / 32768 + 2) lo [] with
    | (.inl e, s) => (.inl e, s)
    | (.inr ls, s) => s.passLeaves cl ctx priv rest (got ++ ls.filter fun l => !got.any fun g => g.1 == l.1)

/-- A probe pass for a cursor: its streams from their LOC on are walked and pinned. Answers the status, or the
failure. -/
def State.probePass (s : State) (cl : Nat) (priv : Bool) (x : Cursor) : (WalkRes × Nat ⊕ Nat × Cursor) × State :=
  let rs := (x.cr.streams.flatMap fun y => y.ranges y.loc).insertionSort fun a b => a.1 ≤ b.1
  match s.passLeaves cl x.ctx priv rs [] with
  | (.inl e, s) => (.inl e, s)
  | (.inr ls, s) =>
    let k := s.cluster cl
    let (np, lim, tlb) := pinAll x.ctx ls k.tlb 0
    let x := { x with pins := (ls.take np).map (·.1), prb := np != 0 || lim, plim := lim, again := false }
    (.inr (pinStatus ls np lim, x), s.setCluster cl { k with tlb })

/-! Running a command through its streams. -/

/-- What the run came to. -/
inductive QRun (β : Type) where
  | ok (b : β)
  | order (side : Bool) (unit : Nat)
  | fault (cause va : Nat)
  | perm (va : Nat)
  | link
  | wait

/-- Lines are translated, in the order in which they are first read, until the command can be answered (R348). -/
def State.qdRun {β : Type} (s : State) (cl ctx : Nat) (priv : Bool) (la lb : Option MxLoc) (f : QView → Except QErr β) :
    Nat → List (Nat × Phys) → QRun β × State
  | 0, _ => (.link, s)
  | fuel + 1, tr =>
    match f { s, tr, la, lb } with
    | .ok b => (.ok b, s.hostUsed ctx (tr.map (·.2)))
    | .error (.order side u) => (.order side u, s.hostUsed ctx (tr.map (·.2)))
    | .error (.need va) =>
      match s.access none cl (clusterDie cl) ctx va .index priv true with
      | (.fault c, s) => (.fault c va, s)
      | (.perm, s) => (.perm va, s)
      | (.ok p _ _ _ _, s) =>
        if !s.reaches p 0 then (.link, s)
        else match s.hostSeen ctx [p] with
          | (false, s) => (.wait, s)
          | (true, s) => (s.fillAt p 128).qdRun cl ctx priv la lb f fuel (put va p tr)

/-- More lines than a cursor's streams have. -/
def CurRec.lines (c : CurRec) : Nat := c.a.size / 128 + c.b.size / 128 + 8

/-! Ends of a command. -/

def State.dropCmd (s : State) (cl id : Nat) : State :=
  let q := s.qd cl
  s.setQd cl { q with cmds := q.cmds.filter fun c => c.id != id }
def State.setCmd (s : State) (cl : Nat) (c : QdCmd) : State :=
  let q := s.qd cl
  s.setQd cl { q with cmds := q.cmds.map fun x => if x.id == c.id then c else x }

/-- The command traps at its form. -/
def State.qdTrap (s : State) (cl : Nat) (c : QdCmd) (a : Access) (cls va info : Nat) : State :=
  (s.dropCmd cl c.id).engineTrap c.w a cls a.parts va info c.word false

/-- The command completes; with results the access waits to be written. -/
def State.qdDone (s : State) (cl : Nat) (c : QdCmd) (wr : List RegWrite) : State :=
  let s := (s.dropCmd cl c.id).wakeSlot c.w c.slot
  if wr.isEmpty then s.modWarp c.w fun w => (w.dropAccess c.id).settleBnds else s.ready c.w c.id wr

/-- A stream or record that cannot be reached (R431). -/
def State.qdLink (s : State) (c : QdCmd) (a : Access) : State :=
  s.ctxFatal c.ctx (coreDie c.core) (c.core % 128) codeLink a.fpc.toNat

/-- Does a walk that failed trap, or wait for the host (R344, R348)? -/
def State.qdWalk (s : State) (cl : Nat) (c : QdCmd) (a : Access) (kind va : Nat) (r : WalkRes) : State :=
  match r with
  | .fault cause => s.setCmd cl { c with fault := some (cause, va, kind) }
  | _ => s.qdTrap cl c a 13 va kind

/-- A coordinate-order fault (R347). -/
def State.qdOrder (s : State) (cl : Nat) (c : QdCmd) (a : Access) (x : Cursor) (side : Bool) (unit : Nat) : State :=
  (s.setQd cl ((s.qd cl).set { x with oflt := some (side, unit) })).qdTrap cl c a 6 0 (b2n side + 2 ^ 32 * unit)

/-! The commands. -/

/-- Where a scratchpad stream lies: none when it names no bytes or no allocation. -/
def State.streamLoc (s : State) (w : Warp) (x : Stream) : Option MxLoc := if x.sp then s.mxLoc w x.base else none

/-- Are a scratchpad stream's bytes outside its allocation (R341 check 6)? -/
def State.streamOut (s : State) (w : Warp) (x : Stream) : Bool :=
  x.sp && x.size != 0 && match s.streamLoc w x with
    | none => true
    | some l => !l.fits l.off x.size

/-- The tiles of a scratchpad stream, by core. -/
def State.streamTiles (s : State) (w : Warp) (x : Stream) : List (Nat × Nat) :=
  match s.streamLoc w x with
  | none => []
  | some l => l.span l.off x.size

/-- QDOPEN and QDLOAD after the record has been read: checks 3 to 8 of R341 in order, and the binding. -/
def State.qdBind (s : State) (cl : Nat) (c : QdCmd) (w : Warp) (a : Access) (bs : List Byte) (load probe : Bool) : State :=
  let r := curOf bs load
  let xs := r.streams
  if ((s.qd cl).find c.gang c.name).isSome then s.qdTrap cl c a 1 0 0
  else if curBad bs load then s.qdTrap cl c a 8 0 0
  else
    match xs.find? (fun x => x.start % x.align != 0), xs.find? (s.streamOut w ·),
        xs.find? (fun x => (s.streamTiles w x).any fun p => !s.engineTile p) with
    | some x, _, _ => s.qdTrap cl c a 3 x.start 6
    | none, some x, _ => s.qdTrap cl c a 4 x.start 6
    | none, none, some x => s.qdTrap cl c a 5 x.start 6
    | none, none, none =>
      let x : Cursor :=
        { ctx := c.ctx, gang := c.gang, name := c.name, cr := r, oflt := none, pins := [], prb := false, plim := false,
          exh := false, tiles := (xs.flatMap (s.streamTiles w ·)).eraseDups, la := s.streamLoc w r.a,
          lb := if r.mode = 0 then none else s.streamLoc w r.b, again := false, parked := none }
      let bind := fun (s : State) (x : Cursor) =>
        (s.setQd cl { s.qd cl with cursors := (s.qd cl).cursors ++ [x] }).qdDone cl c []
      if probe then
        match s.probePass cl a.priv x with
        | (.inl (r, va), s) => s.qdWalk cl c a 7 va r
        | (.inr (_, x), s) => bind s x
      else bind s x

/-- QDPROBE (R341, R344). -/
def State.qdProbe (s : State) (cl : Nat) (c : QdCmd) (a : Access) (x : Cursor) (d : Nat) : State :=
  let s := s.unpinAll cl x.ctx x.pins
  let x := { x with pins := [], prb := false, plim := false }
  let s := s.setQd cl ((s.qd cl).set x)
  if x.cr.streams.all (·.sp) then (s.setQd cl ((s.qd cl).set { x with oflt := none })).qdDone cl c [.s d 0x80000]
  else
    match s.probePass cl a.priv x with
    | (.inl (r, va), s) => s.qdWalk cl c a 7 va r
    | (.inr (st, x), s) =>
      (s.setQd cl ((s.qd cl).set { x with oflt := none })).qdDone cl c [.s d (BitVec.ofNat 32 st)]

/-- What QDNEXT writes (R342): the first items go to the first participants. -/
def nextWrites (d sb : Nat) (pq : Option Nat) (parts : Mask) (o : QOut) : List RegWrite :=
  let got := ((threads parts).zip o.2.1).map fun p =>
    (p.1, [BitVec.ofNat 32 p.2.1, BitVec.ofNat 32 p.2.2.1, BitVec.ofNat 32 p.2.2.2])
  wordWrites d 3 got ++ [.s sb (BitVec.ofNat 32 (got.length + 2 ^ 31 * b2n o.2.2))] ++
    (match pq with | some n => [.p n parts (maskOf (got.map (·.1)))] | none => [])

/-- QDNEXT (R342). -/
def State.qdNext (s : State) (cl : Nat) (c : QdCmd) (a : Access) (x : Cursor) (d sb : Nat) (pq : Option Nat) : State :=
  let n := (threads a.parts).length
  match s.qdRun cl x.ctx a.priv x.la x.lb (fun q => q.deliver qTurns n x.cr []) x.cr.lines [] with
  | (.ok o, s) =>
    (s.setQd cl ((s.qd cl).set { x with cr := o.1, exh := o.2.2, oflt := none })).qdDone cl c
      (nextWrites d sb pq a.parts o)
  | (.order side u, s) => s.qdOrder cl c a x side u
  | (.fault cause va, s) => s.qdWalk cl c a 6 va (.fault cause)
  | (.perm va, s) => s.qdWalk cl c a 6 va .perm
  | (.link, s) => s.qdLink c a
  | (.wait, s) => s

/-- Records written at the addresses of a command, in ascending thread (R346). -/
def State.qdWrite (s : State) (c : QdCmd) (xs : List Span) (rs : List CurRec) : State :=
  (xs.zip rs).foldl (fun s p => s.cgWrite c.core c.ctx p.1.va (p.1.phys.getD ⟨0, 0⟩) p.2.bytes) s

/-- Can some record not be written where it lies? -/
def State.unreached (s : State) (xs : List Span) : Bool := xs.any fun x => !s.reaches (x.phys.getD ⟨0, 0⟩) 1

/-- QDSPLIT (R345). -/
def State.qdSplit (s : State) (cl : Nat) (c : QdCmd) (a : Access) (x : Cursor) (crd : Bool) : State :=
  match s.qdRun cl x.ctx a.priv x.la x.lb (fun q => q.split x.cr crd a.spans.length) x.cr.lines [] with
  | (.ok rs, s) =>
    if s.unreached a.spans then s.qdLink c a
    else ((s.qdWrite c a.spans rs).setQd cl ((s.qd cl).set { x with oflt := none })).qdDone cl c []
  | (.order side u, s) => s.qdOrder cl c a x side u
  | (.fault cause va, s) => s.qdWalk cl c a 6 va (.fault cause)
  | (.perm va, s) => s.qdWalk cl c a 6 va .perm
  | (.link, s) => s.qdLink c a
  | (.wait, s) => s

/-- A command on a bound cursor. -/
def State.qdOn (s : State) (cl : Nat) (c : QdCmd) (a : Access) (x : Cursor) : State :=
  match c.kind with
  | .next d sb pq => s.qdNext cl c a x d sb pq
  | .split crd => s.qdSplit cl c a x crd
  | .save =>
    if s.unreached a.spans then s.qdLink c a
    else ((s.qdWrite c a.spans [x.cr]).setQd cl ((s.qd cl).set { x with oflt := none })).qdDone cl c []
  | .close => (s.closeCursor cl x).qdDone cl c []
  | .probe d => s.qdProbe cl c a x d
  | _ => s

/-- A command whose turn it is (R335): a binding one waits while no slot is free. -/
def State.qdServe (s : State) (cl : Nat) (c : QdCmd) (w : Warp) (a : Access) : State :=
  let bind := fun (load probe : Bool) =>
    if 16 ≤ (s.qd cl).cursors.length then s
    else
      let p := (a.spans.map fun x => x.phys.getD ⟨0, 0⟩).headD ⟨0, 0⟩
      if !s.reaches p 0 then s.qdLink c a
      else match s.hostCame c.ctx [p] with
        | (false, s) => s
        | (true, s) => (s.fillAt p 64).qdBind cl c w a (s.homeRead p 64) load probe
  match c.kind with
  | .openCur probe => bind false probe
  | .load => bind true false
  | _ => match (s.qd cl).find c.gang c.name with
    | none => s.qdTrap cl c a 1 0 0
    | some x => s.qdOn cl c a x

/-- The warp and access of a command that has not been replayed away. -/
def State.cmdAccess (s : State) (c : QdCmd) : Option (Warp × Access) :=
  match s.warp? c.w with
  | none => none
  | some w => (w.accs.find? fun a => a.id == c.id).map fun a => (w, a)

/-- Does a cursor of the context still wait for its pass after a restore (R352)? -/
def Coord.passing (q : Coord) (ctx : Nat) : Bool := q.cursors.any fun x => x.ctx == ctx && x.again

/-- May a command be served: nothing earlier on its cursor, its record's address translated, and the warp's earlier
stores performed (R340, R346)? -/
def State.qdTurn (s : State) (cl idx : Nat) (c : QdCmd) (w : Warp) (a : Access) : Bool :=
  let q := s.qd cl
  c.fault.isNone && c.parked.isNone && a.walked && !q.passing c.ctx &&
    !((q.cmds.take idx).any fun x => x.gang == c.gang && x.name == c.name && (s.cmdAccess x).isSome) &&
    (a.spans.isEmpty || !w.sq.any fun e => e.seq < a.seq)

/-- QD_COMMAND_SERVE (R340): command `idx` of a cluster's engine. -/
def execQdCommandServe (cl idx : Nat) (s : State) : Host.Outcome State Fault Refusal :=
  match (s.qd cl).cmds[idx]? with
  | none => .next s
  | some c =>
    match s.cmdAccess c with
    | none => .next (s.dropCmd cl c.id)
    | some (w, a) => if s.qdTurn cl idx c w a then .next (s.qdServe cl c w a) else .next s

/-- QD_STREAM_FAULT (R344, R348): the command is parked and a record goes to the fault ring. -/
def execQdStreamFault (cl idx : Nat) (s : State) : Host.Outcome State Fault Refusal :=
  match (s.qd cl).cmds[idx]? with
  | none => .next s
  | some c =>
    match c.fault with
    | none => .next s
    | some (cause, va, kind) =>
      match s.faultRecord c.ctx va cause kind (clusterDie cl) (512 * (cl % 32)) 2 (.coord cl c.id) with
      | (none, s) => .next s
      | (some id, s) => .next (s.setCmd cl { c with fault := none, parked := some id })

/-! Forms. -/

/-- A form sends its command and its slot waits (R340). `adrs` are the record addresses by thread, `all` whether one
stands for every participant. -/
def State.qdSend (s : State) (c : Issue) (h : Hdr) (w : Warp) (name : Nat) (kind : QdKind) (marks : List Nat) (parts : Mask)
    (adrs : List (Nat × Nat)) (all st : Bool) (dst pdst : List Nat) : State :=
  let bad := adrs.filter fun p => p.2 % 64 != 0
  if parts == 0 then s.endWord h .self
  else if !bad.isEmpty then
    s.trapWord c h (c.trapOf 3 (if all then parts else maskOf (bad.map (·.1))) (bad.headD (0, 0)).2 (b2n st) (w.seq + 1))
  else
    let a := c.access w s.nextId (.engine st) .glob 0 dst pdst parts (adrs.map fun p => Span.mk' p.1 p.2 0 64 [])
      adrs.isEmpty
    let q : QdCmd :=
      { id := s.nextId, w := w.uid, slot := c.slot, core := w.core, ctx := w.ctx, gang := w.gang, name, kind,
        word := c.word.toNat, fault := none, parked := none }
    let s' := s.fresh.setQd w.cluster { s.qd w.cluster with cmds := (s.qd w.cluster).cmds ++ [q] }
    s'.hold c h ((w.markAlone c marks parts).addAccess a) (.engine s.nextId) fun s _ _ => s

/-- A form that every active thread takes part in, on a record at an s-space pair (R339). -/
def State.qdRecord (s : State) (h : Hdr) (d a : BitVec 7) (kind : QdKind) (st : Bool) : Host.Outcome State Fault Refusal :=
  match s.cur with
  | none => noWarp
  | some (c, w) =>
    let parts := (w.slot c.slot).mask
    let adr := (c.src w).wide a.toNat 0 2
    .next (s.qdSend c h w d.toNat kind (markCodes h a.toNat 127) parts [((lowest parts).getD 0, adr)] true st [] [])

/-- QDOPEN (R341). -/
def execQdopen (h : Hdr) (d a b : BitVec 7) (s : State) : Host.Outcome State Fault Refusal :=
  s.qdRecord h d a (.openCur (b == 1)) false
/-- QDLOAD (R341). -/
def execQdload (h : Hdr) (d a _b : BitVec 7) (s : State) : Host.Outcome State Fault Refusal := s.qdRecord h d a .load false
/-- QDSAVE (R341). -/
def execQdsave (h : Hdr) (d a _b : BitVec 7) (s : State) : Host.Outcome State Fault Refusal := s.qdRecord h d a .save true

/-- QDNEXT (R342). -/
def execQdnext (h : Hdr) (d a b : BitVec 7) (s : State) : Host.Outcome State Fault Refusal :=
  match s.cur with
  | none => noWarp
  | some (c, w) =>
    let parts := (c.src w).participants c.slot h
    let pd := match pqOf h with | some n => if n = 0 then [] else [n] | none => []
    .next (s.qdSend c h w a.toNat (.next d.toNat (b.toNat - 64) (pqOf h)) (markCodes h 127 127) parts [] false false
      (dstCodes d.toNat 3 ++ dstCodes b.toNat 1) pd)

/-- QDSPLIT (R345). -/
def execQdsplit (h : Hdr) (d a b : BitVec 7) (s : State) : Host.Outcome State Fault Refusal :=
  match s.cur with
  | none => noWarp
  | some (c, w) =>
    let r := c.src w
    let parts := r.participants c.slot h
    let adrs := (threads parts).map fun t => (t, r.wide a.toNat t 2)
    .next (s.qdSend c h w d.toNat (.split (b == 1)) (markCodes h a.toNat 127) parts adrs false true [] [])

/-- QDCLOSE (R341). -/
def execQdclose (h : Hdr) (d _a _b : BitVec 7) (s : State) : Host.Outcome State Fault Refusal :=
  match s.cur with
  | none => noWarp
  | some (c, w) =>
    .next (s.qdSend c h w d.toNat .close (markCodes h 127 127) (w.slot c.slot).mask [] false false [] [])

/-- QDPROBE (R341). -/
def execQdprobe (h : Hdr) (d a _b : BitVec 7) (s : State) : Host.Outcome State Fault Refusal :=
  match s.cur with
  | none => noWarp
  | some (c, w) =>
    .next (s.qdSend c h w a.toNat (.probe (d.toNat - 64)) (markCodes h 127 127) (w.slot c.slot).mask [] false false
      (dstCodes d.toNat 1) [])

/-- The status of a gang's name (R343). -/
def State.qdStatus (s : State) (cl gang name : Nat) : Nat :=
  match (s.qd cl).find gang name with
  | none => 0
  | some x =>
    let busy := (s.qd cl).cmds.any fun c => c.gang == gang && c.name == name && (s.cmdAccess c).isSome
    let (f, side, unit) := match x.oflt with | some (sd, u) => (true, sd, u) | none => (false, false, 0)
    1 + 2 * b2n busy + 4 * b2n f + 8 * b2n side + 16 * b2n x.prb + 32 * b2n x.plim + 64 * b2n x.exh + 256 * x.cr.mode +
      2 ^ 32 * unit

/-- QDSTAT (R341, R343). -/
def execQdstat (h : Hdr) (d a _b : BitVec 7) (s : State) : Host.Outcome State Fault Refusal :=
  match s.cur with
  | none => noWarp
  | some (c, w) =>
    let parts := (w.slot c.slot).mask
    let st := s.qdStatus w.cluster w.gang a.toNat
    let k := d.toNat - 64
    let wr := [RegWrite.s k (BitVec.ofNat 32 st), RegWrite.s (k + 1) (BitVec.ofNat 32 (st / 2 ^ 32))]
    let w := (w.markAlone c (markCodes h 127 127) parts).addAccess (c.scalarAccess w s.nextId (.result wr) d.toNat 2 parts)
    .next ((s.fresh.setWarp w).endWord h .no)

end Sys2Proof.Machine
end

