-- ==== Sys2Proof/Machine/Fence.lean ====
section
/-! DEFINITION. FENCE (11 R255 to R259, 21 R434), CINV and CWB (11 R260 to R262), PREF (R263), PROBE and UNPIN
(R264 to R266), FENCE.XP (14 R302 to R304). -/

namespace Sys2Proof.Machine

/-- A record of a fence or maintenance form. -/
def Issue.fence (c : Issue) (w : Warp) (id what order scope : Nat) : FenceRec :=
  { id, slot := c.slot, seq := w.seq, what, order, scope, fpc := c.fpc, acqDone := false, relDone := false,
    started := false, todo := [], wbs := [], lines := [], acc := none, l2 := false, all := false, zlr := 0 }

/-- Scope codes, 0 being `.PKG` (R66, R255). -/
def scopeOf (h : Hdr) : Nat := if h.ext.scope = 0 then 4 else h.ext.scope.toNat

/-- FENCE (R255): only a fence with a release part ends a region (R386). -/
def execFence (h : Hdr) (_d a _b : BitVec 7) (s : State) : Host.Outcome State Fault Refusal :=
  match s.cur with
  | none => noWarp
  | some (c, w) =>
    let f := c.fence w s.nextId 0 a.toNat (scopeOf h)
    let f := { f with acqDone := a.toNat == 1, relDone := a.toNat == 0 }
    .next ((s.fresh.setWarp { w with fences := w.fences ++ [f] }).endWord h (if a = 0 then .no else .after))

/-- FENCE.XP (R302, R303). -/
def execFenceXp (h : Hdr) (_d _a _b : BitVec 7) (s : State) : Host.Outcome State Fault Refusal :=
  match s.cur with
  | none => noWarp
  | some (c, w) =>
    .next ((s.fresh.setWarp { w with fences := w.fences ++ [c.fence w s.nextId 3 0 4] }).endWord h .after)

/-! Write-backs of a fence. -/

/-- Is a load, LD.DIR, ATOM or PREF granted before number `n` still without its result (R256), or a QYPOP (17 R377)? -/
def Warp.loadsOpen (w : Warp) (n : Nat) : Bool :=
  (w.accs.any fun a => a.seq < n && match a.kind with
    | .load _ _ _ _ | .pref _ | .result _ | .direct _ _ _ | .shard (.pop _ _ _ _ _ _ _) => true
    | _ => false) ||
    w.sq.any fun e => e.seq < n && match e.kind with
      | .atom _ _ _ (some _) => true
      | _ => false

/-- Is an earlier entry of the store queue still there? -/
def Warp.storesOpen (w : Warp) (n : Nat) : Bool := w.sq.any fun e => e.seq < n

/-- Is an earlier CINV or CWB still there? -/
def Warp.maintOpen (w : Warp) (n : Nat) : Bool := w.fences.any fun f => f.seq < n && (f.what == 1 || f.what == 2)

/-- Write-backs under way from the L1s that a core's fences cover. -/
def State.wbTags (s : State) (core : Nat) : List (Nat × Nat) :=
  (List.range 4).flatMap fun j =>
    let k := core / 4 * 4 + j
    if s.fusedAt core || k == core then
      ((s.core k).tags.filter fun t => t.use == .wback).map fun t => (k, t.tag)
    else []

/-- The lines a fence's release writes back (R257, R303): `.XP` and LNCH as `.PKG` do. -/
def State.relLines (s : State) (w : Warp) (f : FenceRec) : List (Nat × Nat × Nat) :=
  if f.scope ≤ 1 || (f.scope == 2 && s.fusedAt w.core) then []
  else ((s.l1Lines w.core).filter fun p => p.2.dirty != 0).map fun p => (p.1, p.2.ctx, p.2.va)

/-- Does a line of the core stand held (R223, R259)? -/
def State.holds (s : State) (core : Nat) : Bool := (s.l1Lines core).any fun p => p.2.held

/-- Put back a fence record. -/
def Warp.setFence (w : Warp) (f : FenceRec) : Warp :=
  { w with fences := w.fences.map fun x => if x.id == f.id then f else x }

/-- Write back the listed lines while tags last (R257): the record as it then stands, or none on a fault. -/
def State.runTodo (s : State) (core : Nat) : List (Nat × Nat × Nat) → FenceRec → Option FenceRec × State
  | [], f => (some { f with todo := [] }, s)
  | (k, ctx, va) :: rest, f =>
    match s.l1Line? k ctx va with
    | none => s.runTodo core rest { f with wbs := (f.wbs ++ s.wbTags core).eraseDups }
    | some l =>
      if l.dirty = 0 then s.runTodo core rest { f with wbs := (f.wbs ++ s.wbTags core).eraseDups }
      else if s.storing k ctx va then (some { f with todo := (k, ctx, va) :: rest }, s)
      else match s.writeBack k l l.dirty with
        | (.sent k' t, s) => s.runTodo core rest { f with wbs := f.wbs ++ [(k', t)] }
        | (.noTag, s) => (some { f with todo := (k, ctx, va) :: rest }, s)
        | (.fault, s) => (none, s)

/-- The zero-length read of a release at `.SYS` (R434). Its completion finds every earlier host write performed. -/
def State.zeroRead (s : State) (w : Warp) (f : FenceRec) : State := s.askHost w.ctx (.fence w.uid f.id)

/-- One attempt at a release: the record once it has got further, or the fault of R259. -/
def State.release (s : State) (w : Warp) (f : FenceRec) : State :=
  let fatal := fun (s : State) => s.ctxFatal w.ctx w.die (w.core % 128) codeWriteBack f.fpc.toNat
  if !f.started then
    if f.scope ≥ 2 && s.holds w.core then fatal s
    else s.setWarp (w.setFence { f with started := true, todo := s.relLines w f, wbs := s.wbTags w.core })
  else if !f.todo.isEmpty then
    match s.runTodo w.core f.todo f with
    | (some f, s) => s.modWarp w.uid fun w => w.setFence f
    | (none, s) => fatal s
  else if !f.wbs.isEmpty then s
  else if f.scope = 5 && f.zlr = 0 then (s.zeroRead w f).setWarp (w.setFence { f with zlr := 1 })
  else if f.scope = 5 && (f.zlr = 1 || s.env.posted.any fun x => x.tgt == 2) then s
  else s.setWarp (w.setFence { f with relDone := true })

/-- Fences with nothing left to do go. -/
def Warp.dropDone (w : Warp) : Warp :=
  { w with fences := w.fences.filter fun f => !(f.what == 0 && f.acqDone && f.relDone) && !(f.what == 3 && f.relDone) }

/-- What a fence can do next, if anything (R256, R257). The acquire part of an `.SC` fence follows its release part: every
earlier store has performed before any later load does (R277). -/
def State.fenceStep (s : State) (w : Warp) (f : FenceRec) : Option State :=
  if f.what != 0 then none
  else if !f.acqDone && !w.loadsOpen f.seq && (f.order != 3 || f.relDone) then
    let s := if f.scope ≤ 1 || (f.scope == 2 && s.fusedAt w.core) then s else s.l1Acquire w.core
    some (s.modWarp w.uid fun w => w.setFence { f with acqDone := true })
  else if !f.relDone && !w.loadsOpen f.seq && !w.storesOpen f.seq && !w.maintOpen f.seq &&
      (!f.started || !f.todo.isEmpty || f.wbs.isEmpty) && f.zlr != 1 then some (s.release w f)
  else none

/-- FENCE_COMPLETE (R256): a part of the first fence of the warp that can go on does. -/
def execFenceComplete (u : Nat) (s : State) : Host.Outcome State Fault Refusal :=
  match s.warp? u with
  | none => .next s
  | some w =>
    match firstSome (s.fenceStep w) w.fences with
    | none => .next s
    | some s => .next (s.modWarp u Warp.dropDone)

/-- FENCE_XP_COMPLETE (R303, R304). -/
def execFenceXpComplete (u : Nat) (s : State) : Host.Outcome State Fault Refusal :=
  match s.warp? u with
  | none => .next s
  | some w =>
    match w.fences.find? fun f => f.what == 3 with
    | none => .next s
    | some f =>
      if w.storesOpen f.seq then .next s
      else .next ((s.release w f).modWarp u Warp.dropDone)

/-! Cache maintenance. -/

/-- The address of a line form (R260). -/
def lineAddr (r : Warp) (h : Hdr) (a t : Nat) : Nat := wrapI 64 ((r.wide a t 2 : Nat) + ihOff h)

/-- CINV and CWB (R261). -/
def State.maint (s : State) (h : Hdr) (a b : BitVec 7) (what : Nat) : Host.Outcome State Fault Refusal :=
  match s.cur with
  | none => noWarp
  | some (c, w) =>
    let r := c.src w
    let parts := r.participants c.slot h
    if parts == 0 then .next (s.endWord h .after)
    else
      let l2 := bit b.toNat 0
      let all := bit b.toNat 1
      let adrs := if all then [] else (threads parts).map fun t => (t, lineAddr r h a.toNat t)
      let f := { c.fence w s.nextId what 0 4 with
        lines := (adrs.map fun p => lineVa p.2).eraseDups, l2, all, acc := if l2 then some (s.nextId + 1) else none }
      let w := w.markAlone c (markCodes h (if all then 127 else a.toNat) 0) parts
      let w := { w with fences := w.fences ++ [f] }
      let w := if l2 then
          w.addAccess (c.access w (s.nextId + 1) (.line (what == 1) true all) .glob 0 [] [] parts
            (adrs.map fun p => Span.mk' p.1 p.2 0 1 []) false)
        else w
      .next ((s.fresh.fresh.setWarp w).endWord h .after)

/-- CINV (R261). -/
def execCinv (h : Hdr) (_d a b : BitVec 7) (s : State) : Host.Outcome State Fault Refusal := s.maint h a b 1
/-- CWB (R261). -/
def execCwb (h : Hdr) (_d a b : BitVec 7) (s : State) : Host.Outcome State Fault Refusal := s.maint h a b 2

/-- One line of a CINV or CWB (R261): 0 done, 1 to be tried again, 2 a write-back fault. -/
def State.maintLine (s : State) (w : Warp) (f : FenceRec) (k ctx va : Nat) : Nat × FenceRec × State :=
  let inval := fun (s : State) => if f.what = 1 then s.l1Invalidate k ctx va 255 else s
  match s.l1Line? k ctx va with
  | none => (0, f, (inval s))
  | some l =>
    if l.dirty = 0 then (0, f, inval s)
    else if s.storing k ctx va then (1, f, s)
    else match s.writeBack k l l.dirty with
      | (.sent k' t, s) => (0, { f with wbs := f.wbs ++ [(k', t)] }, inval s)
      | (.noTag, s) => (1, f, s)
      | (.fault, s) => (2, f, s.ctxFatal w.ctx w.die (w.core % 128) codeWriteBack f.fpc.toNat)

/-- The home slice's part of a line's `.L2` action: none when no tag is free. -/
def State.maintHome (s : State) (w : Warp) (f : FenceRec) (a : Access) (va : Nat) : Option (FenceRec × State) :=
  match a.spans.find? fun x => lineVa x.va == va with
  | none => some (f, s)
  | some x =>
    let p := x.phys.getD ⟨0, 0⟩
    match s.request w.core (.clean w.uid f.id) w.ctx va ⟨p.tgt, p.pa / 128 * 128⟩ (.clean (f.what == 1)) 0 [] false with
    | none => none
    | some (t, s) => some ({ f with wbs := f.wbs ++ [(w.core, t)] }, s)

/-- CACHE_MAINT_COMPLETE (R261, R262): the warp's first CINV or CWB acts, once the warp's earlier stores have performed
and its addresses are translated, line by line, and goes when all has been acknowledged. -/
def execCacheMaintComplete (u : Nat) (s : State) : Host.Outcome State Fault Refusal :=
  match s.warp? u with
  | none => .next s
  | some w =>
    match w.fences.find? fun f => f.what == 1 || f.what == 2 with
    | none => .next s
    | some f =>
      let acc := match f.acc with
        | none => none
        | some id => w.accs.find? fun a => a.id == id
      let ready := match acc with | some a => a.walked | none => true
      if w.storesOpen f.seq || !ready then .next s
      else if !f.started then
        let todo := if f.all then (s.l1Lines w.core).map fun p => (p.1, p.2.ctx, p.2.va)
          else f.lines.map fun va => (w.core, w.ctx, va)
        .next (s.setWarp (w.setFence { f with started := true, todo, wbs := s.wbTags w.core }))
      else
        match f.todo with
        | (k, ctx, va) :: rest =>
          match s.maintLine w f k ctx va with
          | (0, f, s) =>
            match acc with
            | none => .next (s.modWarp u fun w => w.setFence { f with todo := rest })
            | some a => match s.maintHome w f a va with
              | none => .next (s.modWarp u fun w => w.setFence f)
              | some (f, s) => .next (s.modWarp u fun w => w.setFence { f with todo := rest })
          | (_, _, s) => .next s
        | [] =>
          if f.wbs.isEmpty then
            let w := { w with fences := w.fences.filter fun x => x.id != f.id }
            .next (s.setWarp (match f.acc with | some id => w.dropAccess id | none => w))
          else .next s

/-- PREF (R263). -/
def execPref (h : Hdr) (_d a b : BitVec 7) (s : State) : Host.Outcome State Fault Refusal :=
  match s.cur with
  | none => noWarp
  | some (c, w) =>
    let r := c.src w
    let parts := r.participants c.slot h
    if parts == 0 then .next (s.endWord h .no)
    else
      let spans := (threads parts).map fun t => Span.mk' t (lineAddr r h a.toNat t) 0 1 []
      let w := w.markAlone c (markCodes h a.toNat 0) parts
      let w := w.addAccess (c.access w s.nextId (.pref (bit b.toNat 0)) .glob 0 [] [] parts spans false)
      .next ((s.fresh.setWarp w).endWord h .no)

/-! Pinning. -/

/-- The range of PROBE and UNPIN, from the lowest thread's registers (R264). -/
def rangeOf (r : Warp) (a b rep : Nat) : Nat × Nat := (r.wide a rep 2, (r.reg b rep).toNat)

/-- PROBE (R265). -/
def execProbe (h : Hdr) (d a b : BitVec 7) (s : State) : Host.Outcome State Fault Refusal :=
  match s.cur with
  | none => noWarp
  | some (c, w) =>
    let r := c.src w
    let parts := (w.slot c.slot).mask
    let (lo, n) := rangeOf r a.toNat b.toNat 0
    let add := fun (k : AKind) (walked : Bool) =>
      let w := w.markAlone c (markCodes h a.toNat b.toNat) parts
      (s.fresh.setWarp (w.addAccess (c.access w s.nextId k .glob 0 (dstCodes d.toNat 1) [] parts [] walked))).endWord h .self
    if n = 0 then .next (add (.result [.s (d.toNat - 64) 0x80000]) true)
    else if 2 ^ 64 < lo + n then .next (s.trapWord c h (c.trapOf 12 parts lo Acc.probe.code (w.seq + 1)))
    else .next (add (.probe (d.toNat - 64) lo n) false)

/-- UNPIN (R266). -/
def execUnpin (h : Hdr) (_d a b : BitVec 7) (s : State) : Host.Outcome State Fault Refusal :=
  match s.cur with
  | none => noWarp
  | some (c, w) =>
    let r := c.src w
    let parts := (w.slot c.slot).mask
    let (lo, n) := rangeOf r a.toNat b.toNat 0
    if n != 0 && 2 ^ 64 < lo + n then .next (s.trapWord c h (c.trapOf 12 parts lo Acc.probe.code (w.seq + 1)))
    else
      let k := s.cluster w.cluster
      let tlb := k.tlb.map fun (e : TlbEnt) =>
        if e.ctx == w.ctx && e.pins != 0 && n != 0 && e.base < lo + n && lo < e.base + e.size then
          { e with pins := e.pins - 1 }
        else e
      let w := w.markAlone c (markCodes h a.toNat b.toNat) parts
      .next (((s.setCluster w.cluster { k with tlb }).setWarp w).endWord h .self)

end Sys2Proof.Machine
end

