-- ==== Sys2Proof/Machine/Xsw.lean ====
section
/-! DEFINITION. XSW (08 R181 to R183): an exchange between two warps in different clusters of a die. -/

namespace Sys2Proof.Machine

/-- The warp that stands on a die under an exchange identity (R192). -/
def State.warpAt (s : State) (die xid : Nat) : Option Warp := s.warps.find? fun x => x.die == die && x.xid == xid

/-- The writes of one side of a finished XSW (R182): `q` the partner's record, none for an unpaired one (R183). -/
def XswRec.writes (x : XswRec) (q : Option XswRec) : List RegWrite :=
  let both := match q with | some q => x.parts &&& q.parts | none => 0
  let vals := match q with | some q => q.vals | none => []
  [.v x.d ((threads both).map fun t => (t, nth vals t))] ++
    (match x.pq with | some n => [.p n x.parts both] | none => [])

/-- A warp's waiting XSW completes. -/
def Warp.endXsw (w : Warp) (q : Option XswRec) : Warp :=
  match w.xsw with
  | none => w
  | some x => { (w.reply x.id (x.writes q)).dropAccess x.id with xsw := none }

/-- The waiting XSWs of a warp and of every warp that waits for it complete unpaired: it ends or is stopped (R183). -/
def State.unpair (s : State) (u : Nat) : State :=
  { s with warps := s.warps.map fun w =>
      match w.xsw with
      | some x => if w.uid = u || x.partner = u then w.endXsw none else w
      | none => w }

/-- XSW (R181 to R183): a region of its own. -/
def execXsw (h : Hdr) (d a b : BitVec 7) (s : State) : Host.Outcome State Fault Refusal :=
  match s.cur with
  | none => noWarp
  | some (c, w) =>
    let r := c.src w
    let parts := r.participants c.slot h
    if parts == 0 then .next (s.endWord h .self)
    else
      let p := (r.reg b.toNat 0).toNat
      if p / 2 ^ 14 != 0 || fld p 9 5 == w.cluster % 32 then
        .next (s.trapWord c h (c.trapOf 1 parts 0 c.word.toNat (w.seq + 1)))
      else
        let x : XswRec :=
          { id := s.nextId, slot := c.slot, partner := 0, d := d.toNat, pq := pqOf h, parts,
            vals := (List.range 32).map fun t => r.reg a.toNat t }
        let w := w.markAlone c (markCodes h a.toNat b.toNat) parts
        let pd := match x.pq with | some n => if n = 0 then [] else [n] | none => []
        let acc := fun (k : AKind) => c.access w s.nextId k .glob 0 (dstCodes d.toNat 1) pd parts [] true
        let w := match s.warpAt w.die p with
          | some q =>
            if q.ctx = w.ctx then { w.addAccess (acc (.engine false)) with xsw := some { x with partner := q.uid } }
            else w.addAccess (acc (.result (x.writes none)))
          | none => w.addAccess (acc (.result (x.writes none)))
        .next ((s.fresh.setWarp w).endWord h .self)

/-- XSW_PAIR_COMPLETE (R182): two warps whose waiting XSWs name each other. -/
def execXswPairComplete (u u2 : Nat) (s : State) : Host.Outcome State Fault Refusal :=
  match s.warp? u, s.warp? u2 with
  | some w, some w2 =>
    match w.xsw, w2.xsw with
    | some x, some y =>
      if u != u2 && x.partner = u2 && y.partner = u then
        .next ((s.setWarp (w.endXsw (some y))).setWarp (w2.endXsw (some x)))
      else .next s
    | _, _ => .next s
  | _, _ => .next s

end Sys2Proof.Machine
end

