-- ==== Sys2Proof/Machine/Launch.lean ====
section
/-! DEFINITION. Launches, queues and dispatch (09 R194 to R214), LNCH (08 R188), and the end of a warp (07 R142). -/

namespace Sys2Proof.Machine

/-! Context descriptors and launch records. -/

/-- A context descriptor's 128 bytes (R195, R226, R413, R441). -/
def ctxOf (bs : List Byte) : Ctx :=
  let f := fun lo len => fld (leNat bs) lo len
  { sigbase := f 0 64, ppool := f 64 64, sigcnt := f 128 16, pmax := f 144 12, uroot := f 192 64, kroot := f 256 64,
    svbase := f 384 64, ldev := f 512 64, lgid := f 576 16,
    clear := f 0 3 == 0 && f 64 7 == 0 && f 156 36 == 0 && f 192 15 == 0 && f 256 15 == 0 && f 320 64 == 0 &&
      f 384 21 == 0 && f 448 64 == 0 && f 592 432 == 0 }

/-- R441: where a context's descriptor stands. -/
def State.ctxAddr (s : State) (c : Nat) : Nat := s.regs.ctxtab + 128 * c

/-- Read a context's descriptor. -/
def State.readCtx (s : State) (c : Nat) : Ctx × State :=
  let x := ctxOf (s.homeRead ⟨0, s.ctxAddr c⟩ 128)
  (x, { s.fillAt ⟨0, s.ctxAddr c⟩ 128 with ctxs := put c x s.ctxs })

/-- A launch record's 64 bytes (R196). -/
def lrecOf (bs : List Byte) : LRec :=
  let q := fun o n => leNat ((bs.drop o).take n)
  let sh := q 0x18 4
  let w7 := q 0x1C 4
  { cb := q 0 8, entry := q 8 4, ngang := q 0x0C 3, copyq := q 0x0F 1, args := q 0x10 8, nwarp := fld sh 0 5 + 1,
    nwg := fld sh 5 2 + 1, floor := fld sh 7 6, stiles := fld sh 13 7, atiles := fld sh 20 6, fuse := bit sh 26,
    prio := fld sh 27 2, csig := fld w7 0 16, psize := fld w7 16 12,
    waits := (List.range 4).map fun k => q (0x20 + 8 * k) 8,
    clear := fld (q 0 8) 0 7 == 0 && fld sh 29 3 == 0 && fld w7 28 4 == 0, shape := q 0x18 8 }

/-- The used wait conditions: number, signal and threshold (R197). -/
def LRec.conds (r : LRec) : List (Nat × Nat × Nat) :=
  (r.waits.zipIdx.map fun w => (w.2, w.1 % 65536, w.1 / 65536)).filter fun w => w.2.1 != 0xFFFF

/-- R198. -/
def LRec.good (r : LRec) (c : Ctx) : Bool :=
  let sig := fun i => i == 0xFFFF || i < c.sigcnt
  r.clear && r.entry % 12 == 0 && r.ngang != 0 && r.floor != 0 && r.stiles ≤ 64 && r.atiles ≤ 32 && r.copyq ≤ 64 &&
    r.psize ≤ c.pmax && sig r.csig && r.waits.all fun w => sig (w % 65536) && (w % 65536 != 0xFFFF || w / 65536 == 0)

/-! Queues. -/

def State.queue (s : State) (q : Nat) : Queue := s.disp.queues.getD q Queue.reset
def State.setQueue (s : State) (q : Nat) (x : Queue) : State :=
  { s with disp := { s.disp with queues := s.disp.queues.set q x } }

/-- R203. -/
def Queue.stopped (q : Queue) : Bool := q.ill || q.tbad || q.rflt || q.ctxf || q.sflt

/-- Records between HEAD and TAIL. -/
def Queue.count (q : Queue) : Nat := (q.tail + 2 ^ 32 - q.head) % 2 ^ 32

/-- The address of a count's slot (R199). -/
def Queue.slotVa (q : Queue) (n : Nat) : Nat := (q.rbase + 64 * (n % 2 ^ q.rlog2)) % 2 ^ 64

/-- The dispatcher's accesses (R202): with handler privilege, through its own path (log entry 8). -/
def State.dispAccess (s : State) (ctx va : Nat) (acc : Acc) : WalkRes × State := s.access none 0 0 ctx va acc true true

/-- The head record is gone: the next one comes up. -/
def Queue.pop (q : Queue) : Queue :=
  { q with head := (q.head + 1) % 2 ^ 32, cur := none, met := [], ready := none, skip := 0 }

/-- A launch is ready from now on. -/
def State.makeReady (s : State) (q : Nat) : State :=
  let x := s.queue q
  let s := s.setQueue q { x with ready := some s.disp.clock, skip := 0 }
  { s with disp := { s.disp with clock := s.disp.clock + 1 } }

/-- A peer that cannot be reached ends the context (R431). -/
def State.dispLink (s : State) (ctx pa : Nat) : State := s.ctxFatal ctx 0 0 codeLink pa

/-- The record at a queue's head is read (R201, R206). -/
def State.readHead (s : State) (q : Nat) (x : Queue) : State :=
  let (c, s) := s.readCtx x.ctx
  let bad := fun (s : State) (x : Queue) => s.setQueue q { x.pop with ids := x.ids.drop 1 }
  match s.dispAccess x.ctx (x.slotVa x.head) .load with
  | (.ok p _ _ _ _, s) =>
    if !s.reaches p 0 then s.dispLink x.ctx p.pa
    else match s.hostCame x.ctx [p] with
    | (false, s) => s
    | (true, s) =>
      let r := lrecOf (s.homeRead p 64)
      let s := s.fillAt p 64
      if !r.good c then bad s { x with ill := true }
      else
        let id := x.ids.headD 0
        let l : Launch := { id, queue := q, ctx := x.ctx, count := x.head, lrec := r, placed := 0, ended := 0, cores := [],
                            abandoned := false }
        let s := { s with disp := { s.disp with launches := s.disp.launches ++ [l] } }
        let s := s.setQueue q { x with cur := some id, met := [], ready := none, ids := x.ids.drop 1 }
        if r.conds.isEmpty then s.makeReady q else s
  | (_, s) => bad s { x with rflt := true }

/-- HEAD_RECORD_READ (R200, R201, R441, R451). A queue of a context beyond the table sets RFLT, its head read or not. -/
def execHeadRecordRead (q : Nat) (s : State) : Host.Outcome State Fault Refusal :=
  let x := s.queue q
  if !s.regs.rdyHost || !x.en || x.stopped || x.count = 0 || 64 ≤ q then .next s
  else if s.regs.ctxcnt ≤ x.ctx then .next (s.setQueue q { x with rflt := true })
  else if x.cur.isSome then .next s
  else .next (s.readHead q x)

/-- Where the signals of wait conditions stand, with condition and threshold: none on a fault (R202). -/
def State.signalPlaces (s : State) (ctx sigbase : Nat) : List (Nat × Nat × Nat) → Option (List (Nat × Nat × Phys)) × State
  | [] => (some [], s)
  | (k, i, v) :: rest =>
    match s.dispAccess ctx ((sigbase + 8 * i) % 2 ^ 64) .load with
    | (.ok p _ _ _ _, s) => match s.signalPlaces ctx sigbase rest with
      | (some ps, s) => (some ((k, v, p) :: ps), s)
      | (none, s) => (none, s)
    | (_, s) => (none, s)

/-- The conditions that signals read now meet (R206). -/
def State.readSignals (s : State) (ctx : Nat) : List (Nat × Nat × Phys) → List Nat × State
  | [] => ([], s)
  | (k, v, p) :: rest =>
    let (here, s) := s.hostCame ctx [p]
    let seen := here && decide (v ≤ leNat (s.homeRead p 8))
    let (ks, s) := (s.fillAt p 8).readSignals ctx rest
    (if seen then k :: ks else ks, s)

/-- WAIT_SIGNAL_READ (R206). -/
def execWaitSignalRead (q : Nat) (s : State) : Host.Outcome State Fault Refusal :=
  let x := s.queue q
  match x.cur with
  | none => .next s
  | some id => match s.launch? id with
    | none => .next s
    | some l =>
      if !s.regs.rdyHost || x.stopped || !x.en || x.ready.isSome || s.regs.ctxcnt ≤ x.ctx then .next s
      else
        let (c, s) := s.readCtx x.ctx
        match s.signalPlaces x.ctx c.sigbase (l.lrec.conds.filter fun w => !x.met.contains w.1) with
        | (none, s) => .next (s.setQueue q { x with sflt := true })
        | (some ps, s) => match ps.find? fun p => !s.reaches p.2.2 0 with
          | some p => .next (s.dispLink x.ctx p.2.2.pa)
          | none =>
          let (ks, s) := s.readSignals x.ctx ps
          let met := x.met ++ ks
          let s := s.setQueue q { x with met }
          if l.lrec.conds.all fun w => met.contains w.1 then .next (s.makeReady q) else .next s

/-! Where a gang fits (R209 to R211). -/

/-- The gangs resident on a cluster. -/
def State.gangsOn (s : State) (cl : Nat) : List Gang := s.disp.gangs.filter fun g => g.cluster == cl

/-- Accumulator tiles of a cluster that no gang's share holds (R306, R307). -/
def State.freeAcc (s : State) (cl : Nat) : List Nat :=
  (List.range 32).filter fun p => !(s.gangsOn cl).any fun g => g.share.contains p

/-- Scratchpad tiles of a core that no workgroup has. -/
def Core.freeTiles (c : Core) : List Nat := (List.range 64).filter fun t => !c.given.contains t

/-- Copy-queue entries reserved on a core by live workgroups (R299). -/
def State.copyHeld (s : State) (core : Nat) : Nat :=
  (s.disp.gangs.flatMap fun g => (g.cores.zipIdx).map fun k => (g, k)).foldl (fun n x =>
    if x.2.1 == core && s.warps.any fun w => w.gang == x.1.uid && w.wgid == x.2.2 then n + x.1.lrec.copyq else n) 0

/-- Warps of lane `i` that a workgroup places (R140). -/
def LRec.onLane (r : LRec) (i : Nat) : Nat := (r.nwarp + 15 - i) / 16

/-- The warps of a core, of a cluster. -/
def State.warpsOn (s : State) (core : Nat) : List Warp := s.warps.filter fun w => w.core == core
def State.warpsIn (s : State) (cl : Nat) : List Warp := s.warps.filter fun w => w.cluster == cl

/-- Lowest free warp slots of a lane. -/
def State.freeSlots8 (s : State) (core lane : Nat) : List Nat :=
  (List.range 8).filter fun k => !s.warps.any fun w => w.core == core && w.lane == lane && w.wslot == k

/-- R157: does a lane admit `n` more warps of floor `f`? -/
def State.admits (s : State) (core lane f n : Nat) : Bool :=
  let fs := ((s.warpsOn core).filter fun w => w.lane == lane).map (·.floor) ++ List.replicate n f
  fs.foldl (· + ·) 0 + fs.foldl (fun m x => max m (63 - x)) 0 ≤ 256

/-- R209 for one core. -/
def State.coreFits (s : State) (core ctx : Nat) (r : LRec) : Bool :=
  (s.warpsOn core).all (fun w => w.ctx == ctx) && r.stiles ≤ (s.core core).freeTiles.length &&
    r.copyq + s.copyHeld core ≤ 64 && (List.range (min r.nwarp 16)).all fun i =>
      r.onLane i ≤ (s.freeSlots8 core i).length && s.admits core i r.floor (r.onLane i)

/-- The cores of a ready cluster on which a gang fits, with `sw` after a switch of mode (R209 to R211, R451). -/
def State.clusterFits (s : State) (cl ctx : Nat) (r : LRec) (sw : Bool) : Option (List Nat) :=
  let c := s.cluster cl
  let mode := if sw then c.fused != r.fuse && (s.gangsOn cl).isEmpty else c.fused == r.fuse
  let fused := if sw then r.fuse else c.fused
  let up := bit (s.die (clusterDie cl)).clready (cl % 32) && bit s.regs.rdyDie (clusterDie cl)
  let cores := (((List.range 4).map (4 * cl + ·)).filter fun k => s.coreFits k ctx r).take r.nwg
  if up && mode && (!fused || (s.warpsIn cl).all fun w => w.ctx == ctx) && r.atiles ≤ (s.freeAcc cl).length &&
      cores.length == r.nwg then some cores
  else none

/-- Cluster 32 × die + clusterid of search index 9 × clusterid + die (R210). -/
def searchCluster (i : Nat) : Nat := 32 * (i % 9) + i / 9

/-- The first place that a gang fits, in search order: index, cores, and whether the mode is switched. -/
def State.findPlace (s : State) (ctx : Nat) (r : LRec) : Option (Nat × List Nat × Bool) :=
  let order := (List.range 288).map fun k => (s.disp.search + k) % 288
  let go := fun (sw : Bool) => firstSome (fun i => (s.clusterFits (searchCluster i) ctx r sw).map fun ks => (i, ks, sw)) order
  match go false with
  | some x => some x
  | none => go true

/-! Emptying caches (R211, R213). -/

/-- Are write-backs or other requests of a core's L1 under way? -/
def State.l1Busy (s : State) (cores : List Nat) : Bool := cores.any fun k => !(s.core k).tags.isEmpty

/-- A dirty line is written at its home slice; one that cannot be written, or is held, ends its context (R211, R223). -/
def State.flushLine (s : State) (core : Nat) (l : L1Line) : State :=
  if l.dirty = 0 then s
  else if l.held then s.ctxFatal l.ctx (coreDie core) (core % 128) codeWriteBack l.va
  else match s.wbPlace core l.ctx l.va with
    | (none, s) => s.ctxFatal l.ctx (coreDie core) (core % 128) codeWriteBack l.va
    | (some p, s) =>
      if s.reaches p 1 then s.homeWriteLine p.tgt (p.pa / 128) (sectorBytes l.data l.dirty) false
      else s.dispLink l.ctx p.pa

/-- A core's L1 is written back, and with `inv` invalidated; `ctx` restricts it to one context's lines. -/
def State.flushL1 (s : State) (core : Nat) (ctx : Option Nat) (inv : Bool) : State :=
  let mine := fun (l : L1Line) => match ctx with | some c => l.ctx == c | none => true
  let s := ((s.core core).l1.filter mine).foldl (fun s l =>
    if (s.core core).l1.contains l then s.flushLine core l else s) s
  let c := s.core core
  s.setCore core { c with
    l1 := if inv then c.l1.filter fun l => !mine l
          else c.l1.map fun (l : L1Line) => if mine l then { l with dirty := 0, held := false } else l }

/-- The four cores of a cluster. -/
def coresOf (cl : Nat) : List Nat := (List.range 4).map (4 * cl + ·)

/-- The cores whose L1s a placement empties: the cluster's at a switch of mode, those that hold another context's lines,
in fused mode all four together (R211). -/
def State.toFlush (s : State) (cl ctx : Nat) (cores : List Nat) (sw fused : Bool) : List Nat :=
  let other := fun k => match (s.core k).lineCtx with | some c => c != ctx | none => false
  if sw then coresOf cl
  else if fused then (if cores.any other then coresOf cl else [])
  else cores.filter other

/-- The caches as a gang of a context finds them: none when they cannot be emptied yet. -/
def State.prepare (s : State) (cl ctx : Nat) (cores : List Nat) (fuse sw : Bool) : Option State :=
  let ks := s.toFlush cl ctx cores sw fuse
  if s.l1Busy ks then none
  else
    let s := ks.foldl (fun s k => s.flushL1 k none true) s
    let s := s.setCluster cl { s.cluster cl with fused := fuse }
    some ((if fuse then coresOf cl else cores).foldl (fun s k => s.setCore k { s.core k with lineCtx := some ctx }) s)

/-! Placement (R208, R212). -/

/-- A warp as it is placed (R141, R212). -/
def newWarp (uid : Nat) (g : Gang) (r : LRec) (c : Ctx) (core wgid wn wslot now : Nat) : Warp :=
  let lane := wn % 16
  let idx := 16384 * coreDie core + 512 * (core / 4 % 32) + 128 * (core % 4) + 8 * lane + wslot
  let pc : DWord := BitVec.ofNat 64 (r.cb + r.entry)
  let sl : Slot := { Slot.none with pc, mask := fullMask, epc := pc, emask := fullMask, prev := pc }
  { uid, gang := g.uid, ctx := g.ctx, core, lane, wslot, wn, wgid, v := List.replicate 63 .unalloc,
    s := [BitVec.ofNat 32 r.args, BitVec.ofNat 32 (r.args / 2 ^ 32)] ++ List.replicate 61 0,
    p := List.replicate 127 0, fsr := List.replicate 32 0, slots := [sl, Slot.none], rj := List.replicate 8 Rejoin.none,
    depth := 0, pend := [], lastIns := ⟨0, pc, pc, 0, 0, 0⟩, bnds := [], exited := 0, handler := none,
    trapRegs := List.replicate 16 0, cb := BitVec.ofNat 64 r.cb,
    pvbase := BitVec.ofNat 64 (c.ppool + idx * (512 * c.pmax + 16384)), psize := 16 * r.psize,
    wtcmp := 0xFFFFFFFFFFFFFFFF, tvec := 0, tmask := 0, stop := false, since := some now, wtime0 := 0,
    barW := List.replicate 16 0, barG := List.replicate 16 0, barX := List.replicate 16 0, sq := [], accs := [], dir := [],
    fences := [], xsw := none, park := { marker := false, alloc := 0, restore := false, faults := [] }, grants := 0,
    seq := 0, lastSlot := 1, floor := r.floor, spilled := [], tasks := [] }

/-- A warp enters its lane as the youngest. -/
def State.enterLane (s : State) (w : Warp) : State :=
  let c := s.core w.core
  let l := (look w.lane c.lanes).getD []
  { s.setCore w.core { c with lanes := put w.lane (l ++ [w.uid]) c.lanes } with warps := s.warps ++ [w] }

/-- Tiles given to a workgroup read 0 and THREAD (R216). -/
def Core.give (c : Core) (tiles : List Nat) : Core :=
  { c with scratch := c.scratch.filter fun b => !tiles.contains (b.1 / 4096)
           given := c.given ++ tiles, engine := c.engine.filter fun t => !tiles.contains t }

/-- Workgroup `wgid` of a gang is placed on a core. -/
def State.placeWg (s : State) (g : Gang) (r : LRec) (c : Ctx) (core wgid : Nat) : State :=
  let s := s.setCore core ((s.core core).give (g.tiles.getD wgid []))
  let s := if (s.core core).lastLaunch == some g.lnch then s
    else s.setCore core { (s.core core).dropCode with lastLaunch := some g.lnch }
  let s := if r.conds.isEmpty then s else s.l1Acquire core
  (List.range r.nwarp).foldl (fun s wn =>
    let slot := (s.freeSlots8 core (wn % 16)).headD 0
    let w := newWarp s.disp.nextUid g r c core wgid wn slot s.now
    { s with disp := { s.disp with nextUid := s.disp.nextUid + 1 } }.enterLane w) s

/-- The gang of a launch placed at a cluster's cores (R210, R212). -/
def State.placeGang (s : State) (l : Launch) (c : Ctx) (cl : Nat) (cores : List Nat) : State :=
  let g : Gang :=
    { uid := s.disp.nextUid, lnch := l.id, ctx := l.ctx, queue := l.queue, gangid := l.placed, lrec := l.lrec,
      cluster := cl, cores, tiles := cores.map fun k => (s.core k).freeTiles.take l.lrec.stiles,
      share := (s.freeAcc cl).take l.lrec.atiles, names := [] }
  let s := { s with disp := { s.disp with
    nextUid := s.disp.nextUid + 1, gangs := s.disp.gangs ++ [g]
    launches := s.disp.launches.map fun (x : Launch) =>
      if x.id == l.id then { x with placed := x.placed + 1, cores := (x.cores ++ cores).eraseDups } else x } }
  (cores.zipIdx).foldl (fun s k => s.placeWg g l.lrec c k.1 k.2) s

/-- Effective priority (R205). -/
def State.launchPrio (s : State) (l : Launch) : Nat := min l.lrec.prio (s.queue l.queue).pcap

/-- Is the context held from placement by a channel (R405, R415)? -/
def State.heldCtx (s : State) (ctx : Nat) : Bool := s.chans.any fun c => c.ctx == ctx && c.state != 0

/-- A candidate: its queue, its launch, and where its gang fits (R208). -/
structure Cand where
  q : Nat
  l : Launch
  ready : Nat
  place : Option (Nat × List Nat × Bool)

/-- The candidates in ascending queue number. -/
def State.candidates (s : State) : List Cand :=
  (s.disp.queues.zipIdx).filterMap fun x =>
    if !x.1.en || x.1.stopped then none
    else match x.1.cur, x.1.ready with
      | some id, some t => match s.launch? id with
        | some l =>
          if l.placed < l.lrec.ngang && !s.heldCtx l.ctx && x.1.ctx < s.regs.ctxcnt then
            some { q := x.2, l, ready := t, place := s.findPlace l.ctx l.lrec }
          else none
        | none => none
      | _, _ => none

/-- The best of a list under a strict order, the first among equals. -/
def bestBy {β : Type} (better : β → β → Bool) : List β → Option β
  | [] => none
  | x :: r => match bestBy better r with
    | none => some x
    | some y => if better y x then some y else some x

/-- When the longest-waiting gang to be restored has been ready (R415): it is an aged candidate. -/
def State.restoring (s : State) : Option Nat :=
  ((s.chans.filter fun c => c.state == 5 && !c.saved.isEmpty).map (·.ready)).min?

/-- Served less recently. -/
def servedBefore (a b : Option Nat) : Bool :=
  match a, b with
  | none, some _ => true
  | some x, some y => x < y
  | _, none => false

/-- The candidate that a decision places, if any (R208 steps 1 and 2). -/
def State.chooseCand (s : State) (cs : List Cand) : Option Cand :=
  let aged := bestBy (fun (a b : Cand) => a.ready < b.ready) (cs.filter fun c => 64 ≤ (s.queue c.q).skip)
  match aged, s.restoring with
  | some a, some t => if a.ready < t && a.place.isSome then some a else none
  | none, some _ => none
  | some a, none => if a.place.isSome then some a else none
  | none, none =>
    bestBy (fun (a b : Cand) => s.launchPrio b.l < s.launchPrio a.l ||
      (s.launchPrio a.l == s.launchPrio b.l && servedBefore (s.queue a.q).served (s.queue b.q).served))
      (cs.filter fun c => c.place.isSome)

/-- R208 step 3: skip counts after a placement. -/
def State.countSkips (s : State) (cs : List Cand) (x : Cand) : State :=
  cs.foldl (fun s y =>
    let q := s.queue y.q
    if y.q = x.q then s.setQueue y.q { q with skip := 0, served := some s.disp.clock }
    else if s.launchPrio y.l < s.launchPrio x.l || y.place.isNone then s.setQueue y.q { q with skip := q.skip + 1 }
    else s) s

/-- The queue after a gang of its head has been placed (R207). -/
def State.afterPlace (s : State) (q id : Nat) : State :=
  match s.launch? id with
  | none => s
  | some l => if l.placed < l.lrec.ngang then s else s.setQueue q (s.queue q).pop

/-- PLACEMENT_DECISION (R208 to R212): a gang of the chosen candidate is placed. -/
def execPlacementDecision (s : State) : Host.Outcome State Fault Refusal :=
  if s.regs.deviceFatal || !s.regs.rdyHost then .next s
  else
    let cs := s.candidates
    match s.chooseCand cs with
    | none => .next s
    | some x => match x.place with
      | none => .next s
      | some (i, cores, sw) =>
        let cl := searchCluster i
        let (c, s') := s.readCtx x.l.ctx
        if !c.clear then .next (s'.ctxFatal x.l.ctx 0 0 codeDescriptor (s.ctxAddr x.l.ctx))
        else match s'.prepare cl x.l.ctx cores x.l.lrec.fuse sw with
          | none => .next s
          | some s =>
            if (s.launch? x.l.id).isNone then .next s
            else
              let s := s.countSkips cs x
              let s := { s with disp := { s.disp with clock := s.disp.clock + 1, search := (i + 1) % 288 } }
              .next ((s.placeGang x.l c cl cores).afterPlace x.q x.l.id)

/-! Completion (R213). -/

/-- Remove a launch. -/
def State.dropLaunch (s : State) (id : Nat) : State :=
  { s with disp := { s.disp with launches := s.disp.launches.filter fun l => l.id != id } }

/-- The completion signal is updated, and the queue's vector raised after it (R202, R213). -/
def State.signal (s : State) (l : Launch) : State :=
  let s := s.dropLaunch l.id
  if l.lrec.csig = 0xFFFF then s
  else
    let (c, s) := s.readCtx l.ctx
    match s.dispAccess l.ctx ((c.sigbase + 8 * l.lrec.csig) % 2 ^ 64) .atomic with
    | (.ok p _ _ _ _, s) =>
      if !s.reaches p 2 then s.dispLink l.ctx p.pa
      else
        let s := (s.fillAt p 8).homeWrite p (leBytes 8 (leNat (s.homeRead p 8) + 1))
        if (s.queue l.queue).irq then s.raise l.queue else s
    | (_, s) => s.setQueue l.queue { s.queue l.queue with sflt := true }

/-- The release at `.SYS` of a launch that completes (R213, R434): a zero-length read once its writes are on their way,
then the signal once that has completed and every write to a peer has been acknowledged. -/
def State.launchRelease (s : State) (l : Launch) : State :=
  if l.zlr = 0 then
    { s with disp := { s.disp with launches := s.disp.launches.map fun (x : Launch) =>
        if x.id == l.id then { x with zlr := 1 } else x } }.askHost l.ctx (.launch l.id)
  else if l.zlr = 1 || s.env.posted.any fun x => x.tgt == 2 then s
  else s.signal l

/-- LAUNCH_COMPLETE (R213): every gang has ended; the L1s of its cores are written back, and then the signal. -/
def execLaunchComplete (lnch : Nat) (s : State) : Host.Outcome State Fault Refusal :=
  match s.launch? lnch with
  | none => .next s
  | some l =>
    if l.abandoned || l.ended < l.lrec.ngang then .next s
    else
      let ks := (l.cores.flatMap fun k => if s.fusedAt k then coresOf (coreCluster k) else [k]).eraseDups
      if ks.any fun k => (s.core k).tags.any fun t => match t.use with | .wback => true | .stored _ _ _ _ => true | _ => false
      then .next s
      else
        let s := ks.foldl (fun s k => s.flushL1 k (some l.ctx) false) s
        if (s.launch? lnch).isNone then .next s else .next (s.launchRelease l)

/-! The queue registers (R199 to R205). -/

/-- A TAIL write is taken: lnchids are given out (R201, R205). -/
def State.acceptTail (s : State) (q : Nat) (x : Queue) (v : Nat) : State :=
  let n := (v + 2 ^ 32 - x.tail) % 2 ^ 32
  let ids := (List.range n).map fun k => (s.disp.nextLnch + k) % 2 ^ 32
  let s := s.setQueue q { x with tail := v, ids := x.ids ++ ids }
  { s with disp := { s.disp with nextLnch := (s.disp.nextLnch + n) % 2 ^ 32 } }

/-- A head launch gives up its place (R200): placed gangs run on and its signal is never written. -/
def State.abandon (s : State) (q : Nat) : State :=
  let x := s.queue q
  let s := match x.cur with
    | none => s
    | some id =>
      { s with disp := { s.disp with
          launches := (s.disp.launches.map fun (l : Launch) => if l.id == id then { l with abandoned := true } else l).filter
            fun l => l.id != id || l.ended < l.placed } }
  s.setQueue q { x with head := x.tail, cur := none, met := [], ready := none, skip := 0, ids := [] }

/-- The offset of a queue's block (R438). -/
def queueOff (q : Nat) : Nat := 0x1000 + 32 * q

/-- TAIL is written (R201): read-only with SRC = 1; a count that moves back or past the ring's end sets TBAD. -/
def State.writeTail (s : State) (q v : Nat) : State :=
  let x := s.queue q
  let v := v % 2 ^ 32
  if x.src || 64 ≤ q || s.regs.deviceFatal then s
  else
    let d := (v + 2 ^ 32 - x.head) % 2 ^ 32
    if x.count ≤ d && d ≤ 2 ^ x.rlog2 then s.acceptTail q x v else s.setQueue q { x with tbad := true }

/-- QUEUE_TAIL_WRITE (R201, R452). -/
def execQueueTailWrite (q v : Nat) (s : State) : Host.Outcome State Fault Refusal :=
  s.hostWrite (queueOff q + 12) 4 v (s.writeTail q v)

/-- EN is written 1 (R200). -/
def State.enableQueue (s : State) (q : Nat) : State :=
  let x := s.queue q
  if 1 ≤ x.rlog2 && x.rlog2 ≤ 16 && x.rbase % 64 == 0 then s.setQueue q { x with en := true }
  else s.setQueue q { x with cfg := true }

/-- QUEUE_ENABLE (R200, R452). -/
def execQueueEnable (q : Nat) (s : State) : Host.Outcome State Fault Refusal :=
  s.hostWrite (queueOff q) 0 1 (s.enableQueue q)

/-- EN is written 0 (R200). -/
def State.disableQueue (s : State) (q : Nat) : State := s.setQueue q { s.queue q with en := false }

/-- QUEUE_DISABLE (R200, R452). -/
def execQueueDisable (q : Nat) (s : State) : Host.Outcome State Fault Refusal :=
  s.hostWrite (queueOff q) 0 0 (s.disableQueue q)

/-- Error bits are written 1 (R203): bits [5:0] are those of [165:160]. -/
def State.clearQueue (s : State) (q bits : Nat) : State :=
  let x := s.queue q
  s.setQueue q { x with ill := x.ill && !bit bits 0, tbad := x.tbad && !bit bits 1, rflt := x.rflt && !bit bits 2,
                        ctxf := x.ctxf && !bit bits 3, sflt := x.sflt && !bit bits 4, cfg := x.cfg && !bit bits 5 }

/-- QUEUE_ERROR_CLEAR (R203, R452). -/
def execQueueErrorClear (q bits : Nat) (s : State) : Host.Outcome State Fault Refusal :=
  s.hostWrite (queueOff q + 20) 4 bits (s.clearQueue q bits)

/-! LNCH (R188, R204). -/

/-- LNCH at issue. -/
def execLnch (h : Hdr) (d a b : BitVec 7) (s : State) : Host.Outcome State Fault Refusal :=
  match s.cur with
  | none => noWarp
  | some (c, w) =>
    let r := c.src w
    let parts := r.participants c.slot h
    let scalar := d.toNat ≥ 64
    let ts := accessThreads parts scalar
    let adr := fun t => ((r.wide a.toNat t 2 : Nat) : Int)
    let bad := ts.filter fun t => adr t % 64 != 0
    if parts == 0 then .next (s.endWord h .self)
    else if !bad.isEmpty then .next (s.trapWord c h (c.accessTrap w 3 bad adr .load))
    else
      let qs := ts.map fun t => (t, (adr t).toNat, (r.reg b.toNat t).toNat)
      let f := { c.fence w s.nextId 4 1 4 with acc := some (s.nextId + 1) }
      let w := (w.markAlone c (markCodes h a.toNat b.toNat) parts)
      let w := { w with fences := w.fences ++ [f] }.addAccess
        (c.access w (s.nextId + 1) (.lnch d.toNat scalar qs) .glob 1 (dstCodes d.toNat 1) [] (maskOf ts)
          (ts.map fun t => Span.mk' t (adr t).toNat 0 64 []) false)
      .next ((s.fresh.fresh.setWarp w).endWord h .self)

/-- One submission (R188, R204): its status. -/
def State.submit (s : State) (ctx q : Nat) (p : Phys) : Nat × State :=
  let x := s.queue q
  if 64 ≤ q || x.ctx != ctx || !x.src || !x.en || x.stopped || s.regs.deviceFatal then (2, s)
  else
    let (c, s) := s.readCtx ctx
    let bs := s.homeRead p 64
    let s := s.fillAt p 64
    if !(lrecOf bs).good c then (3, s)
    else if 2 ^ x.rlog2 ≤ x.count then (1, s)
    else match s.dispAccess ctx (x.slotVa x.tail) .store with
      | (.ok p _ _ _ _, s) => (0, (s.homeWrite p bs).acceptTail q x ((x.tail + 1) % 2 ^ 32))
      | (_, s) => (2, s.setQueue q { x with rflt := true })

/-- All submissions in ascending thread. -/
def State.submitAll (s : State) (ctx : Nat) : List (Nat × Nat × Nat × Phys) → List (Nat × Word) × State
  | [] => ([], s)
  | (t, _, q, p) :: rest =>
    let (st, s) := s.submit ctx q p
    let (r, s) := s.submitAll ctx rest
    ((t, BitVec.ofNat 32 st) :: r, s)

/-- LNCH_RECORD_READ (R188): once the warp's earlier stores have performed at `.PKG` and the records' addresses are
translated, every participant's launch is submitted. -/
def execLnchRecordRead (u : Nat) (s : State) : Host.Outcome State Fault Refusal :=
  match s.warp? u with
  | none => .next s
  | some w =>
    match w.fences.find? fun f => f.what == 4 with
    | none => .next s
    | some f =>
      match w.accs.find? fun a => some a.id == f.acc with
      | none => .next (s.setWarp { w with fences := w.fences.filter fun x => x.id != f.id })
      | some a =>
        if !f.relDone then (if w.storesOpen f.seq then .next s else .next (s.release w f))
        else if !a.walked then .next s
        else match a.kind with
          | .lnch d scalar qs =>
            let ps := (qs.zip a.spans).map fun x => (x.1.1, x.1.2.1, x.1.2.2, x.2.phys.getD ⟨0, 0⟩)
            match ps.find? fun p => !s.reaches p.2.2.2 0 with
            | some p => .next (s.ctxFatal w.ctx w.die (w.core % 128) codeLink p.2.2.2.pa)
            | none => match s.hostCame w.ctx (ps.map fun p => p.2.2.2) with
            | (false, s) => .next s
            | (true, s) =>
              let (r, s) := s.submitAll w.ctx ps
              let wr := if scalar then r.map fun x => RegWrite.s (d - 64) x.2 else [RegWrite.v d r]
              .next ((s.modWarp u fun w => { w with fences := w.fences.filter fun x => x.id != f.id }).ready u a.id wr)
          | _ => .next s

/-! Pre-emption channels (R403 to R406). -/

def State.chan (s : State) (k : Nat) : Chan := s.chans.getD k Chan.reset
def State.setChan (s : State) (k : Nat) (c : Chan) : State := { s with chans := s.chans.set k c }

/-- A stop is over, SAVED (3) or EMPTY (4): ELAPSED stands, and the vector is raised where IRQ asks (R403, R406). -/
def State.endStop (s : State) (k st : Nat) : State :=
  let c := s.chan k
  let s := s.setChan k { c with state := st, nsaved := c.saved.length, walk := [], begun := [], ents := [],
                                elapsed := (s.now - c.since) / 1000 }
  if c.irq then s.raise (64 + k) else s

/-- R406: DRAINING ends when no gang of the context is resident, SAVING when no gang of the walk is. -/
def State.settleChan (s : State) (k : Nat) : State :=
  let c := s.chan k
  let here := s.disp.gangs.filter fun g => g.ctx == c.ctx
  if c.state = 1 then (if here.isEmpty then s.endStop k 4 else s)
  else if c.state = 2 then
    let walk := c.walk.filter fun x => here.any fun g => g.uid == x.1
    if walk.isEmpty then s.endStop k 3 else s.setChan k { c with walk }
  else s
def State.settleChans (s : State) : State := (List.range 4).foldl State.settleChan s

/-! The end of a warp (R142). -/

/-- A gang's tiles and commands leave the matrix engine (R307). -/
def Matrix.dropGang (m : Matrix) (g : Gang) : Matrix :=
  let gone := (m.entries.filter fun e => e.gang == g.uid).map (·.num)
  { m with
    entries := m.entries.filter fun e => e.gang != g.uid
    run := match m.run with
      | none => none
      | some ns => match ns.filter fun n => !gone.contains n with
        | [] => none
        | ns => some ns
    tiles := m.tiles.filter fun t => !g.names.any fun n => n.2 == t.1 }

/-- A workgroup's tiles return to its core, and no code of its gang reaches them any more (R96, R216). -/
def State.endWg (s : State) (g : Gang) (wgid : Nat) : State :=
  let k := g.cores.getD wgid 0
  let ts := g.tiles.getD wgid []
  let c := s.core k
  (s.setCore k { c with given := c.given.filter fun t => !ts.contains t, engine := c.engine.filter fun t => !ts.contains t
    }).modGang g.uid fun g => { g with tiles := g.tiles.set wgid [] }

/-- A gang ends (R142, R307, R335): its launch counts it, and an abandoned one goes with its last gang (R200). -/
def State.endGang (s : State) (g : Gang) : State :=
  let s := (s.setMx g.cluster ((s.mx g.cluster).dropGang g)).closeGang g.cluster g.uid
  { s with disp := { s.disp with
    gangs := s.disp.gangs.filter fun x => x.uid != g.uid
    launches := (s.disp.launches.map fun (l : Launch) => if l.id == g.lnch then { l with ended := l.ended + 1 } else l).filter
      fun l => !(l.id == g.lnch && l.abandoned && l.placed ≤ l.ended) } }

/-- Take a warp off its lane. -/
def State.removeWarp (s : State) (w : Warp) : State :=
  let c := s.core w.core
  let l := ((look w.lane c.lanes).getD []).filter (· != w.uid)
  { s.setCore w.core { c with lanes := put w.lane l c.lanes } with warps := s.warps.filter fun x => x.uid != w.uid }

/-- Has a warp ended (R142, R294)? Its threads have exited, its stores and copies have performed, and nothing that it
sent to an engine or a cache is left. -/
def State.warpOver (s : State) (w : Warp) : Bool :=
  w.exited == fullMask && w.sq.isEmpty && w.fences.isEmpty && !((s.core w.core).copy.any fun e => e.w == w.uid) &&
    !(w.accs.any fun a => !a.walked || match a.kind with
      | .shard _ => true
      | .qyinit _ _ _ => true
      | .lnch _ _ _ => true
      | _ => false)

/-- WARP_END (R142, R183). -/
def execWarpEnd (u : Nat) (s : State) : Host.Outcome State Fault Refusal :=
  match s.warp? u with
  | none => .next s
  | some w =>
    if !s.warpOver w then .next s
    else
      let s := (s.unpair u).removeWarp w
      match s.gang? w.gang with
      | none => .next s
      | some g =>
        let s := if s.warps.any fun x => x.gang == g.uid && x.wgid == w.wgid then s else s.endWg g w.wgid
        if s.warps.any fun x => x.gang == g.uid then .next s else .next (s.endGang g).settleChans

end Sys2Proof.Machine
end

