-- ==== Sys2Proof/Machine/Preempt.lean ====
section
/-! DEFINITION. Pre-emption: the channels' commands (20 R403 to R407), the stop walk (R408 to R414) and restoring
(R415, R416, 16 R352, 15 R330, 14 R301). -/

namespace Sys2Proof.Machine

/-! Commands. -/

/-- STOP and DRAIN are accepted in IDLE, when no other channel holds the context (R404). -/
def State.acceptStop (s : State) (ch cmd : Nat) : State :=
  let c := s.chan ch
  if 4 ≤ ch || c.state != 0 || s.heldCtx c.ctx then s
  else
    let c := { c with cmd, state := 1, since := s.now, elapsed := 0, nsaved := 0, saved := [], walk := [], begun := [],
                      ents := [] }
    let s := s.setChan ch c
    { s with warps := s.warps.map fun (w : Warp) => if w.ctx == c.ctx then { w with stop := true } else w }.settleChan ch

/-- The offset of a channel's block (R438). -/
def chanOff (ch : Nat) : Nat := 0x2000 + 32 * ch

/-- STOP (R404, R452). -/
def execStop (ch : Nat) (s : State) : Host.Outcome State Fault Refusal := s.hostWrite (chanOff ch) 0 1 (s.acceptStop ch 1)
/-- DRAIN (R404, R452). -/
def execDrain (ch : Nat) (s : State) : Host.Outcome State Fault Refusal := s.hostWrite (chanOff ch) 0 2 (s.acceptStop ch 2)

/-- RESUME is accepted (R404): from SAVED or EMPTY the saved gangs become candidates; from RESET nothing is restored. -/
def State.acceptResume (s : State) (ch : Nat) : State :=
  let c := s.chan ch
  if 4 ≤ ch then s
  else if c.state = 3 || c.state = 4 then
    let s := s.setChan ch { c with cmd := 3, state := if c.saved.isEmpty then 0 else 5, ready := s.disp.clock }
    { s with disp := { s.disp with clock := s.disp.clock + 1 } }
  else if c.state = 6 then s.setChan ch { c with cmd := 3, state := 0 }
  else s

/-- RESUME (R404, R452). -/
def execResume (ch : Nat) (s : State) : Host.Outcome State Fault Refusal := s.hostWrite (chanOff ch) 0 3 (s.acceptResume ch)

/-- FRESET is written 1 (R403). -/
def State.clearFreset (s : State) (ch : Nat) : State := s.setChan ch { s.chan ch with freset := false }

/-- FRESET_CLEAR (R403, R452). -/
def execFresetClear (ch : Nat) (s : State) : Host.Outcome State Fault Refusal :=
  s.hostWrite (chanOff ch + 16) 4 1 (s.clearFreset ch)

/-- Microseconds since a stop was accepted, 1,000 cycles each. -/
def State.waited (s : State) (c : Chan) : Nat := (s.now - c.since) / 1000

/-- GRACE_EXPIRY (R406): the stop walk starts for every resident gang of the context. -/
def execGraceExpiry (ch : Nat) (s : State) : Host.Outcome State Fault Refusal :=
  let c := s.chan ch
  let gs := s.disp.gangs.filter fun g => g.ctx == c.ctx
  if c.state = 1 && c.cmd = 1 && c.grace ≤ s.waited c && !gs.isEmpty then
    .next (s.setChan ch { c with state := 2, walk := gs.map fun g => (g.uid, 2),
                                 begun := gs.flatMap fun g => g.cores.map fun k => (2, k) })
  else .next s

/-- The deadline of a channel (R403). -/
def Chan.limit (c : Chan) : Nat := if c.deadline = 0 then 2000 else c.deadline

/-- DEADLINE_EXPIRY (R407): the context is ended and its channel is RESET. -/
def execDeadlineExpiry (ch : Nat) (s : State) : Host.Outcome State Fault Refusal :=
  let c := s.chan ch
  if (c.state = 1 || c.state = 2) && c.limit ≤ s.waited c then
    let s := s.ctxFatal c.ctx 0 0 codeDeadline 0
    .next (s.setChan ch { s.chan ch with freset := true })
  else .next s

/-! The walk's first stages (R408). -/

/-- The gang that a walk has brought to a stage. -/
def State.atStage (s : State) (ch gang stage : Nat) : Option Gang :=
  if (s.chan ch).state = 2 && (s.chan ch).walk.contains (gang, stage) then s.gang? gang else none

/-- The gang passes to its next stage, which begins at its cluster's engine (R409). -/
def State.stage (s : State) (ch : Nat) (g : Gang) (stage : Nat) : State :=
  let c := s.chan ch
  s.setChan ch { c with walk := c.walk.map fun x => if x.1 == g.uid then (g.uid, stage) else x,
                        begun := c.begun ++ [(stage, g.cluster)] }

/-- STOP_COPY_ENGINE (R301): the copy engines of the gang's cores hold nothing of the context. -/
def execStopCopyEngine (ch gang : Nat) (s : State) : Host.Outcome State Fault Refusal :=
  match s.atStage ch gang 2 with
  | none => .next s
  | some g =>
    if g.cores.any fun k => (s.core k).copy.any fun e => e.ctx == g.ctx then .next s else .next (s.stage ch g 3)

/-- STOP_COORDINATE_ENGINE (R352): every command that has reached the cluster's engine is complete. -/
def execStopCoordinateEngine (ch gang : Nat) (s : State) : Host.Outcome State Fault Refusal :=
  match s.atStage ch gang 3 with
  | none => .next s
  | some g =>
    if (s.qd g.cluster).cmds.any fun c => c.ctx == g.ctx && (s.cmdAccess c).isSome then .next s
    else .next (s.stage ch g 4)

/-! Stopping a warp (R410 to R412). -/

/-- The form that slot `k` holds is its next instruction again. -/
def Warp.takeBack (w : Warp) (k : Nat) : Warp :=
  let sl := w.slot k
  w.setSlot k { sl with pc := sl.prev, epc := sl.prev, emask := sl.mask, wait := none }

/-- The registers that a form's marks freed hold what they held. -/
def Warp.unfree (w : Warp) (l : List (Nat × VReg)) : Warp :=
  l.foldl (fun w x => if w.vreg x.1 == .unalloc then { w with v := w.v.set x.1 x.2 } else w) w

/-- A form that waits on the matrix engine is unwound (R411). -/
def State.unwind (s : State) (u k : Nat) : State :=
  match s.warp? u with
  | none => s
  | some w =>
    let m := s.mx w.cluster
    let s := match (w.slot k).wait with
      | some (.engine _) | none => s
      | some _ => { s with paused := s.paused.filter fun p => !(p.1.uid == u && p.1.slot == k) }
    match (w.slot k).wait with
    | some (.mxacq _) => s.setWarp (w.takeBack k)
    | some (.mxrel n _) =>
      let s := s.setWarp (w.takeBack k)
      match s.mxName w n with
      | some p => s.setMx w.cluster (m.setTile p { m.tile p with held := true })
      | none => s
    | some (.mxown false _ _ _) => s.setWarp (w.takeBack k)
    | some (.mxwait _ _ id) => s.setWarp ((w.dropAccess id).takeBack k)
    | some (.mxrw id) =>
      let freed := match m.rws.find? fun r => r.num == id with | some r => r.freed | none => []
      (s.setMx w.cluster { m with rws := m.rws.filter fun r => r.num != id }).setWarp
        (((w.dropAccess id).takeBack k).unfree freed)
    | _ => s

/-- The region boundary of a stop (R410 step 4): each slot begins a region where it stands. -/
def Warp.stopRegion (w : Warp) : Warp :=
  if w.unwalked (w.seq + 1) then w
  else
    let w := (w.release (w.seq + 1)).settleBnds
    { w with slots := w.slots.map fun (sl : Slot) => if sl.wait.isSome then sl else { sl with epc := sl.pc, emask := sl.mask } }

/-- Steps 1 to 4 of R410, as far as they have come: the count of wtime stands. -/
def State.halt (s : State) (u : Nat) : State :=
  let s := s.modWarp u fun w => { w with wtime0 := s.wtime w, since := none }
  (((s.unpair u).unwind u 0).unwind u 1).modWarp u Warp.stopRegion

/-- May a stopped warp be saved (R410 step 3)? -/
def Warp.quiet (w : Warp) : Bool :=
  w.accs.isEmpty && w.dir.isEmpty && w.fences.isEmpty && w.xsw.isNone && w.park.faults.isEmpty && w.pend.isEmpty &&
    w.bnds.isEmpty && !w.unwalked (w.seq + 1) && (w.sq.all fun e => e.dst.isEmpty) && w.slots.all fun sl =>
      match sl.wait with
      | none => true
      | some (.barrier _ _) => true
      | _ => false

/-- BWAIT of a slot (R412). -/
def Slot.bwait (sl : Slot) : Nat :=
  match sl.wait with
  | some (.barrier scope id) => 1 + 2 * scope + 16 * id
  | _ => 0

/-- The trap that HTRAP holds: the frozen slot's, or the first ready one. -/
def Warp.heldTrap (w : Warp) : Option (Nat × TrapReq) :=
  match (w.slot 0).trap, (w.slot 1).trap with
  | some t, _ => some (0, t)
  | none, some t => some (1, t)
  | none, none => none

/-- Bytes 0x00 to 0x57 of a trap record and 8 bytes of 0. -/
def trapBytes (ws : List Nat) : List Byte := (ws.take 11).flatMap (leBytes 8) ++ leBytes 8 0

/-- The save block from offset 8,896 to 10,271 (R412). -/
def saveBlock (w : Warp) (wtime : Nat) : List Byte :=
  let a := w.slot 0
  let b := w.slot 1
  let flags := match w.handler with | some h => 1 + 2 * (h.slot % 2) | none => 0
  leBytes 8 a.pc.toNat ++ leBytes 4 a.mask.toNat ++ leBytes 4 (flags + 4 * b2n w.heldTrap.isSome) ++
    leBytes 8 b.pc.toNat ++ leBytes 4 b.mask.toNat ++ leBytes 4 (a.bwait + 65536 * b.bwait) ++
    ((List.range 8).flatMap fun k =>
      let r := w.rj.getD k Rejoin.none
      leBytes 4 r.en.toNat ++ leBytes 4 r.ar.toNat ++ leBytes 8 r.rp.toNat) ++
    ((List.range 64).flatMap fun k => leBytes 4 (nth w.s k).toNat) ++
    ((List.range 32).flatMap fun t => leBytes 16 ((List.range 128).foldl (fun n k => n + 2 ^ k * b2n (w.pred k t)) 0)) ++
    ((List.range 32).flatMap fun t => leBytes 4 (nth w.fsr t).toNat) ++
    ([w.barW, w.barG, w.barX].flatMap fun l => (List.range 16).flatMap fun k => leBytes 4 (l.getD k 0).toNat) ++
    leBytes 8 wtime ++ leBytes 8 w.wtcmp.toNat ++ leBytes 4 w.tvec.toNat ++ leBytes 4 w.tmask.toNat ++ leBytes 8 0 ++
    trapBytes ((List.range 11).map fun k => (w.trapRegs.getD k 0).toNat)

/-- Everything that a stopped warp writes to its control area: the depth word, its registers that are not spilled
already, the block and a held trap. -/
def saveRuns (w : Warp) (wtime : Nat) : List (Nat × List Byte) :=
  [(w.control + 480, leBytes 4 w.depth)] ++
    (((List.range 63).filter fun k => !w.spilled.contains k).flatMap fun k =>
      [(w.control + 512 + 128 * k, (w.vreg k).spillBytes), (w.control + 8704 + k, [BitVec.ofNat 8 (w.vreg k).spillForm])]) ++
    [(w.control + 8896, saveBlock w wtime)] ++
    (match w.heldTrap with
      | some (k, t) => [(w.control + 10272, trapBytes (trapWords w k t (bystanders (w.slot k) t)))]
      | none => [])

/-- The warps of a gang. -/
def State.gangWarps (s : State) (g : Gang) : List Warp := s.warps.filter fun w => w.gang == g.uid

/-- Warps saved one after another: false when one faulted. -/
def State.saveWarps (s : State) : List Warp → Bool × State
  | [] => (true, s)
  | w :: ws =>
    match s.laneWrites w (saveRuns w (s.wtime w)) with
    | (true, s) => s.saveWarps ws
    | (false, s) => (false, s)

/-- STOP_WARPS (R410): every warp of the gang is halted, and, once all are quiet, saved. -/
def execStopWarps (ch gang : Nat) (s : State) : Host.Outcome State Fault Refusal :=
  match s.atStage ch gang 4 with
  | none => .next s
  | some g =>
    let s := (s.gangWarps g).foldl (fun s w => s.halt w.uid) s
    let ws := s.gangWarps g
    if ws.all Warp.quiet then
      match s.saveWarps ws with
      | (true, s) => .next (s.stage ch g 5)
      | (false, s) => .next s
    else .next s

/-! The save area (R413, R414). -/

/-- The stripe of a cluster. -/
def State.stripe (s : State) (ctx cl : Nat) : Nat :=
  ((match look ctx s.ctxs with | some c => c.svbase | none => 0) + 2097152 * cl) % 2 ^ 64

/-- Does a record of the channel's own save or restore wait for its answer? -/
def State.saveParked (s : State) (ch : Nat) : Bool := s.regs.ring.recs.any fun r => r.who == .save ch

/-- A fault of a save or restore access (R413). -/
def State.saveFault (s : State) (ch cl ctx va kind : Nat) (r : WalkRes) : State :=
  match r with
  | .fault cause => (s.faultRecord ctx va cause kind (clusterDie cl) (512 * (cl % 32)) 0 (.save ch)).2
  | _ => s.ctxFatal ctx (clusterDie cl) (4 * (cl % 32)) 13 va

/-- Runs of bytes within pages written at the home slice: false when one faulted. -/
def State.saveRunsAt (s : State) (ch cl ctx : Nat) : List (Nat × List Byte) → Bool × State
  | [] => (true, s)
  | (va, bs) :: rest =>
    match s.writeVirt none cl (clusterDie cl) ctx true (va % 2 ^ 64) bs with
    | (none, s) => s.saveRunsAt ch cl ctx rest
    | (some r, s) => (false, s.saveFault ch cl ctx (va % 2 ^ 64) 1 r)

/-- The gangs of a context saved on a cluster. -/
def Chan.savedOn (c : Chan) (cl : Nat) : List SavedGang := c.saved.filter fun g => g.stripe == cl

/-- The lowest `n` numbers that are not in use. -/
def lowestFree (used : List Nat) (top n : Nat) : List Nat := ((List.range top).filter fun k => !used.contains k).take n

/-- The bytes of an accumulator tile, row by row. -/
def MxTile.bytes (t : MxTile) : List Byte := (List.range 4096).flatMap fun k => leBytes 4 (t.get (k / 64) (k % 64)).toNat

/-- The coded copy of a reservation-table entry, of which the spec states no byte (R414). -/
def entryBytes (base : Nat) : List Byte := (List.range 256).map fun k => Config.freeByte (base + k)

/-- STOP_MATRIX_ENGINE (R330, R414): the context's entries stop where they stand and are saved, and so are the gang's
tiles. -/
def execStopMatrixEngine (ch gang : Nat) (s : State) : Host.Outcome State Fault Refusal :=
  match s.atStage ch gang 5 with
  | none => .next s
  | some g =>
    if s.saveParked ch then .next s
    else
      let m := s.mx g.cluster
      let mine := (m.entries.filter fun e => e.ctx == g.ctx).map (·.num)
      let run := match m.run with
        | none => none
        | some ns => match ns.filter fun n => !mine.contains n with
          | [] => none
          | ns => some ns
      let m := { m with run, halted := (m.halted ++ [g.ctx]).eraseDups }
      let s := s.setMx g.cluster m
      let c := s.chan ch
      let v := s.stripe g.ctx g.cluster
      let runs := g.names.flatMap fun n =>
        [(v + 1048576 + 16384 * n.2, (m.tile n.2).bytes), (v + 1648640 + 4 * n.2, leBytes 4 (m.status n.2))]
      let es := m.entries.filter fun e => e.ctx == g.ctx && !(c.ents.any fun x => x.1 == g.cluster && x.2.2.2.num == e.num)
      let used := (c.savedOn g.cluster).flatMap (fun x => x.entries.map (·.1)) ++
        (c.ents.filter fun x => x.1 == g.cluster).map (·.2.1)
      let ents := ((lowestFree used 32 es.length).zip es).zipIdx.map fun x => (g.cluster, x.1.1, s.free + 256 * x.2, x.1.2)
      let runs := runs ++ ents.map fun x => (v + 1572864 + 256 * x.2.1, entryBytes x.2.2.1)
      match s.saveRunsAt ch g.cluster g.ctx runs with
      | (true, s) =>
        let s := { s with free := s.free + 256 * ents.length }.setChan ch { c with ents := c.ents ++ ents }
        .next (s.stage ch g 6)
      | (false, s) => .next s

/-- A gang's doubleword of tiles, one for each workgroup. -/
def tileWords (l : List (List Nat)) : List Byte :=
  (List.range 4).flatMap fun k => leBytes 8 ((l.getD k []).foldl (fun n t => n + 2 ^ t) 0)

/-- A gang record (R414). -/
def gangRecord (g : Gang) (owner : List (List Nat)) : List Byte :=
  leBytes 4 g.lnch ++ leBytes 3 g.gangid ++ [BitVec.ofNat 8 (g.queue + 128)] ++ leBytes 8 g.lrec.shape ++
    leBytes 8 (g.cores.foldl (fun n k => n + 2 ^ (k % 4)) 0) ++ leBytes 8 (g.share.foldl (fun n t => n + 2 ^ t) 0) ++
    ((List.range 32).map fun n => match look n g.names with | some p => BitVec.ofNat 8 p | none => 0xFF) ++
    tileWords g.tiles ++ tileWords owner

/-- A saved cursor's 128 bytes (R414). -/
def cursorBytes (x : Cursor) (status idx : Nat) : List Byte :=
  x.cr.bytes ++ leBytes 8 status ++ [BitVec.ofNat 8 x.name, 0] ++ leBytes 2 idx ++ List.replicate 52 0

/-- A warp as the part keeps it beside its block. -/
def Warp.saved (w : Warp) : SavedWarp :=
  { core := w.core, lane := w.lane, wslot := w.wslot, wn := w.wn, wgid := w.wgid, pvbase := w.pvbase, tasks := w.tasks,
    base := match w.handler with | some h => h.base | none => 0
    lastIns := w.lastIns, second := if (w.slot 0).trap.isSome then (w.slot 1).trap else none }

/-- The cores whose L1s empty when a gang leaves: those with no other warp of the context, in fused mode all four
together (R408). -/
def State.leftCores (s : State) (g : Gang) : List Nat :=
  let left := fun k => !s.warps.any fun w => w.core == k && w.ctx == g.ctx && w.gang != g.uid
  if (s.cluster g.cluster).fused then (if (coresOf g.cluster).all left then coresOf g.cluster else [])
  else g.cores.filter left

/-- The gang leaves its cluster (R408): its slots, registers, tiles, share and cursors are free. -/
def State.leave (s : State) (ch : Nat) (g : Gang) (x : SavedGang) : State :=
  let ws := s.gangWarps g
  let s := ws.foldl State.removeWarp s
  let s := (List.range g.cores.length).foldl (fun s k => s.endWg g k) s
  let s := (s.setMx g.cluster ((s.mx g.cluster).dropGang g)).closeGang g.cluster g.uid
  let s := { s with disp := { s.disp with gangs := s.disp.gangs.filter fun y => y.uid != g.uid } }
  let m := s.mx g.cluster
  let s := if s.disp.gangs.any fun y => y.ctx == g.ctx && y.cluster == g.cluster then s
    else s.setMx g.cluster { m with halted := m.halted.filter (· != g.ctx) }
  let c := s.chan ch
  (s.setChan ch { c with walk := c.walk.filter fun y => y.1 != g.uid, saved := c.saved ++ [x],
                         ents := c.ents.filter fun y => y.2.2.2.gang != g.uid,
                         nsaved := c.saved.length + 1 }).settleChan ch

/-- The gang's stores have performed, and its cores' L1s can be written back. -/
def State.drained (s : State) (g : Gang) : Bool :=
  ((s.gangWarps g).all fun w => w.sq.isEmpty && w.dir.isEmpty) && !s.l1Busy (s.leftCores g)

/-- STOP_FLUSH_SAVE (R408, R414): scratchpad, cursors and the gang record are saved, the L1s emptied, and the gang leaves
with the entries saved in stage 5. -/
def execStopFlushSave (ch gang : Nat) (s : State) : Host.Outcome State Fault Refusal :=
  match s.atStage ch gang 6 with
  | none => .next s
  | some g0 =>
    if s.saveParked ch || !s.drained g0 then .next s
    else
      let c := s.chan ch
      let old := c.savedOn g0.cluster
      let ws := s.gangWarps g0
      let g := { g0 with tiles := g0.tiles.zipIdx.map fun x => if ws.any fun w => w.wgid == x.2 then x.1 else [] }
      let owner := (g.cores.zip g.tiles).map fun x => x.2.filter fun t => (s.core x.1).engine.contains t
      let idx := (lowestFree (old.map (·.idx)) 512 1).headD 0
      let ents := (c.ents.filter fun x => x.1 == g.cluster && x.2.2.2.gang == g.uid).map (·.2)
      let xs := (s.qd g.cluster).cursors.filter fun x => x.gang == g.uid
      let curs := (lowestFree (old.flatMap fun x => x.cursors.map (·.1)) 16 xs.length).zip xs
      let v := s.stripe g.ctx g.cluster
      let runs :=
        ((g.cores.zip g.tiles).flatMap fun x => x.2.map fun t =>
          (v + 262144 * (x.1 % 4) + 4096 * t, cellsRead (s.core x.1).scratch (4096 * t) 4096)) ++
        (curs.map fun x => (v + 1581056 + 128 * x.1, cursorBytes x.2 (s.qdStatus g.cluster g.uid x.2.name) idx)) ++
        [(v + 1583104 + 128 * idx, gangRecord g owner)]
      match s.saveRunsAt ch g.cluster g.ctx runs with
      | (false, s) => .next s
      | (true, s) =>
        let s := (s.leftCores g).foldl (fun s k => s.flushL1 k none true) s
        if (s.gang? gang).isNone then .next s
        else
          .next (s.leave ch g { stripe := g.cluster, idx, gang := g, warps := ws.map Warp.saved, entries := ents,
                                   cursors := curs })

/-! Restoring (R415). -/

/-- Runs of bytes read at the home slice: or the fault of the first that cannot be read. -/
def State.readRuns (s : State) (cl ctx : Nat) : List (Nat × Nat) → (WalkRes × Nat ⊕ List (List Byte)) × State
  | [] => (.inr [], s)
  | (va, n) :: rest =>
    match s.readVirt none cl (clusterDie cl) ctx .load true n (va % 2 ^ 64) [] with
    | (.inl r, s) => (.inl (r, va % 2 ^ 64), s)
    | (.inr bs, s) =>
      match s.readRuns cl ctx rest with
      | (.inl e, s) => (.inl e, s)
      | (.inr l, s) => (.inr (bs :: l), s)

/-- A run as one or two runs, each within a page. -/
def pageRuns (va n : Nat) : List (Nat × Nat) :=
  let k := 32768 - va % 32768
  if n ≤ k then [(va, n)] else [(va, k), (va + k, n - k)]

/-- The warp control area of a saved warp. -/
def SavedWarp.control (x : SavedWarp) (r : LRec) : Nat := (x.pvbase.toNat + 32 * (16 * r.psize)) % 2 ^ 64

/-- What a restore reads of a gang, by part: scratchpad tiles, accumulator tiles with their status words, entries,
cursors, and each warp's control area from the depth word to the end of the block. -/
def SavedGang.runs (x : SavedGang) (v : Nat) : List (List (Nat × Nat)) :=
  let g := x.gang
  ((g.cores.zip g.tiles).flatMap fun p => p.2.map fun t => [(v + 262144 * (p.1 % 4) + 4096 * t, 4096)]) ++
    (g.names.map fun n => [(v + 1048576 + 16384 * n.2, 16384), (v + 1648640 + 4 * n.2, 4)]) ++
    (x.entries.map fun e => [(v + 1572864 + 256 * e.1, 256)]) ++
    (x.cursors.map fun e => [(v + 1581056 + 128 * e.1, 128)]) ++
    x.warps.map fun w => pageRuns (w.control g.lrec + 480) 9888

/-- Read part by part; the parts' bytes in order. -/
def State.readParts (s : State) (cl ctx : Nat) : List (List (Nat × Nat)) → (WalkRes × Nat ⊕ List (List Byte)) × State
  | [] => (.inr [], s)
  | p :: ps =>
    match s.readRuns cl ctx p with
    | (.inl e, s) => (.inl e, s)
    | (.inr bs, s) =>
      match s.readParts cl ctx ps with
      | (.inl e, s) => (.inl e, s)
      | (.inr l, s) => (.inr (bs.flatten :: l), s)

/-- May a saved gang be restored now (R415): with a switch of mode or without? -/
def State.restoreFits (s : State) (x : SavedGang) : Option Bool :=
  let g := x.gang
  let r := g.lrec
  let c := s.cluster g.cluster
  let sw := c.fused != r.fuse
  let room := g.cores.all fun k => (s.warpsOn k).all (fun w => w.ctx == g.ctx) && r.copyq + s.copyHeld k ≤ 64 &&
    (List.range 16).all fun i =>
      s.admits k i r.floor (x.warps.filter fun w => w.core == k && w.lane == i).length
  let slots := x.warps.all fun w => !s.warps.any fun y => y.core == w.core && y.lane == w.lane && y.wslot == w.wslot
  let tiles := (g.cores.zip g.tiles).all fun p => p.2.all fun t => !(s.core p.1).given.contains t
  let share := g.share.all (s.freeAcc g.cluster).contains
  let engines := (s.mx g.cluster).entries.length + x.entries.length ≤ 32 &&
    (s.qd g.cluster).cursors.length + x.cursors.length ≤ 16
  if bit (s.die (clusterDie g.cluster)).clready (g.cluster % 32) && bit s.regs.rdyDie (clusterDie g.cluster) && (!sw || (s.gangsOn g.cluster).isEmpty) && (!r.fuse || (s.warpsIn g.cluster).all fun w => w.ctx == g.ctx) && room && slots &&
      tiles && share && engines then some sw
  else none

/-- A number in a warp's saved bytes, which begin at offset 480 of its control area. -/
def areaNum (bs : List Byte) (o n : Nat) : Nat := leNat ((bs.drop (o - 480)).take n)

/-- A held trap as HTRAP keeps it. -/
def trapReqOf (bs : List Byte) (o : Nat) : Nat × TrapReq :=
  let d := fun k => areaNum bs (o + 8 * k) 8
  let pc := fun k => BitVec.ofNat 64 (d k)
  (fld (d 0) 8 1, { cls := fld (d 0) 0 8, mask := BitVec.ofNat 32 (d 0 / 2 ^ 32), fpc := pc 1, npc := pc 2, rpc := pc 3,
                    bpc := pc 4, word := fld (d 0) 10 2, va := d 7, info := d 8, replay := bit (d 0) 9, seq := 0 })

/-- A slot as the block keeps it. -/
def slotOf (bs : List Byte) (o sh : Nat) : Slot :=
  let pc := BitVec.ofNat 64 (areaNum bs o 8)
  let m := BitVec.ofNat 32 (areaNum bs (o + 8) 4)
  let b := fld (areaNum bs 8924 4) sh 16
  { pc, mask := m, epc := pc, emask := m, trap := none
    wait := if bit b 0 then some (.barrier (fld b 1 2) (fld b 4 4)) else none
    last := 0, prev := pc }

/-- A warp from its saved bytes (R412, R415): its registers are spilled ones until they are restored. -/
def restoredWarp (w : Warp) (x : SavedWarp) (bs : List Byte) : Warp :=
  let f := areaNum bs
  let word := fun o => BitVec.ofNat 32 (f o 4)
  let flags := f 8908 4
  let held := if bit flags 2 then some (trapReqOf bs 10272) else none
  let put := fun (k : Nat) (sl : Slot) =>
    let t := match held with | some (j, t) => if j = k then some t else none | none => none
    { sl with trap := t.orElse fun _ => if k = 1 then x.second else none }
  let sp := (List.range 63).filter fun k => f (8704 + k) 1 != 0
  let treg := (List.range 11).map fun k => BitVec.ofNat 64 (f (10176 + 8 * k) 8)
  { w with
    s := (List.range 63).map fun k => word (9056 + 4 * k)
    p := (List.range 127).map fun k => maskWhere fun t => bit (f (9312 + 16 * t) 16) (k + 1)
    fsr := (List.range 32).map fun t => word (9824 + 4 * t)
    slots := [put 0 (slotOf bs 8896 0), put 1 (slotOf bs 8912 16)]
    rj := (List.range 8).map fun k =>
      ⟨word (8928 + 16 * k), word (8928 + 16 * k + 4), BitVec.ofNat 64 (f (8928 + 16 * k + 8) 8)⟩
    depth := f 480 4, lastIns := x.lastIns
    handler := if bit flags 0 then some ⟨fld flags 1 1, BitVec.ofNat 32 (f 10180 4), x.base⟩ else none
    trapRegs := treg ++ List.replicate 5 0, pvbase := x.pvbase
    wtcmp := BitVec.ofNat 64 (f 10152 8), tvec := word 10160, tmask := word 10164, wtime0 := f 10144 8
    barW := (List.range 16).map fun k => word (9952 + 4 * k)
    barG := (List.range 16).map fun k => word (10016 + 4 * k)
    barX := (List.range 16).map fun k => word (10080 + 4 * k)
    park := { w.park with restore := !sp.isEmpty }, spilled := sp, tasks := x.tasks }

/-- The threads that stand nowhere in a restored warp have exited. -/
def State.restoreExited (s : State) (w : Warp) : Warp :=
  let by_ : Mask := if w.handler.isSome then (w.trapRegs.getD 5 0).setWidth 32 else 0
  { w with exited := ~~~({ w with exited := 0 }.placed ||| s.stackMasks w w.depth ||| by_) }

/-- An accumulator tile from its bytes and status word (R320). -/
def tileOf (ctx : Nat) (bs : List Byte) : MxTile :=
  let st := leNat (bs.drop 16384)
  let els := (List.range 4096).filterMap fun k =>
    let v := BitVec.ofNat 32 (leNat ((bs.drop (4 * k)).take 4))
    if v = 0 then none else some (k, v)
  { ctx, held := bit st 0, flags := fld st 2 4, fdf := if bit st 6 then some (bit st 7, fld st 16 16) else none, elems := els }

/-- A cursor from its 128 bytes: one that held pins has its pass to run again (R352). -/
def cursorOf (x : Cursor) (bs : List Byte) : Cursor :=
  let st := leNat ((bs.drop 64).take 8)
  { x with cr := curOf bs true, oflt := if bit st 2 then some (bit st 3, st / 2 ^ 32) else none
           prb := bit st 4, plim := bit st 5, exh := bit st 6, pins := [], again := bit st 4, parked := none }

/-- The probe pass of a restored cursor (R352): a translation fault waits for the host, anything else ends the
context. -/
def State.cursorPass (s : State) (cl gang name : Nat) : State :=
  match (s.qd cl).find gang name with
  | none => s
  | some x =>
    if !x.again || x.parked.isSome then s
    else match s.probePass cl true x with
      | (.inr (_, x), s) => s.setQd cl ((s.qd cl).set x)
      | (.inl (.fault cause, va), s) =>
        match s.faultRecord x.ctx va cause 7 (clusterDie cl) (512 * (cl % 32)) 2 (.cursor cl gang name) with
        | (some id, s) => s.setQd cl ((s.qd cl).set { x with parked := some id })
        | (none, s) => s
      | (.inl (_, va), s) => s.ctxFatal x.ctx (clusterDie cl) (4 * (cl % 32)) 13 va

/-- The gang stands on its cluster again, from the bytes of its parts. -/
def State.restoreGang (s : State) (x : SavedGang) (parts : List (List Byte)) : State :=
  let g := x.gang
  let cl := g.cluster
  let tiles := (g.cores.zip g.tiles).flatMap fun p => p.2.map fun t => (p.1, t)
  let bits := fun k => ((g.cores.zip g.tiles).filter fun p => p.1 == k).flatMap (·.2)
  let s := g.cores.foldl (fun s k =>
    let c := (s.core k).give (bits k)
    s.setCore k { c.dropCode with lastLaunch := some g.lnch }) s
  let s := (tiles.zip parts).foldl (fun s p => s.scrWrite p.1.1 (4096 * p.1.2) p.2) s
  let parts := parts.drop tiles.length
  let m := s.mx cl
  let m := (g.names.zip parts).foldl (fun (m : Matrix) p => m.setTile p.1.2 (tileOf g.ctx p.2)) m
  let s := s.setMx cl { m with entries := (m.entries ++ x.entries.map (·.2.2)).insertionSort fun a b => a.num ≤ b.num
                               halted := m.halted.filter (· != g.ctx) }
  let parts := parts.drop (g.names.length + x.entries.length)
  let s := { s with disp := { s.disp with gangs := s.disp.gangs ++ [g] } }
  let s := (x.warps.zip (parts.drop x.cursors.length)).foldl (fun s p =>
    let c : Ctx := (look g.ctx s.ctxs).getD (ctxOf [])
    let w := newWarp s.disp.nextUid g g.lrec c p.1.core p.1.wgid p.1.wn p.1.wslot s.now
    { s with disp := { s.disp with nextUid := s.disp.nextUid + 1 } }.enterLane (s.restoreExited (restoredWarp w p.1 p.2))) s
  let s := s.setQd cl { s.qd cl with
    cursors := (s.qd cl).cursors ++ (x.cursors.zip parts).map fun p => cursorOf p.1.2 p.2 }
  x.cursors.foldl (fun s p => s.cursorPass cl g.uid p.2.name) s

/-- The owner bits of a gang record, by core. -/
def SavedGang.setOwner (s : State) (x : SavedGang) (rec_ : List Byte) : State :=
  (x.gang.cores.zip x.gang.tiles).zipIdx.foldl (fun s p =>
    let m := leNat ((rec_.drop (0x60 + 8 * p.2)).take 8)
    let c := s.core p.1.1
    s.setCore p.1.1 { c with engine := c.engine ++ p.1.2.filter fun t => bit m t }) s

/-- Every barrier that a restored warp stands at is tested (R415). -/
def State.testBarriers (s : State) (g : Gang) : State :=
  (s.gangWarps g).foldl (fun s w => [0, 1, 2].foldl (fun s scope => (List.range 16).foldl (fun s id =>
    match execBarrierPhaseComplete w.uid scope id s with
    | .next s => s
    | _ => s) s) s) s

/-- The gang that a channel restores next: ascending stripe, then ascending record (R415). -/
def Chan.nextSaved (c : Chan) : Option SavedGang :=
  bestBy (fun (a b : SavedGang) => a.stripe < b.stripe || (a.stripe == b.stripe && a.idx < b.idx)) c.saved

/-- Is the channel's gang the oldest aged candidate (R208, R415)? -/
def State.restoreTurn (s : State) (c : Chan) : Bool :=
  c.state == 5 && s.restoring == some c.ready &&
    s.candidates.all fun x => !(64 ≤ (s.queue x.q).skip && x.ready < c.ready)

/-- The skip counts after a restored gang has been placed (R208 step 3). -/
def State.restoreSkips (s : State) (cs : List Cand) (g : Gang) : State :=
  cs.foldl (fun s y =>
    let q := s.queue y.q
    if s.launchPrio y.l < s.prioOf g || y.place.isNone then s.setQueue y.q { q with skip := q.skip + 1 } else s) s

/-- The channel after a gang has been restored. -/
def Chan.restored (c : Chan) (x : SavedGang) : Chan :=
  let saved := c.saved.filter fun y => !(y.stripe == x.stripe && y.idx == x.idx)
  { c with saved, nsaved := saved.length, state := if saved.isEmpty then 0 else c.state }

/-- The places of a gang's entries in what its parts read, and whether each coded copy is as it was written. -/
def SavedGang.intact (x : SavedGang) (parts : List (List Byte)) : Bool :=
  let n := (x.gang.cores.zip x.gang.tiles).foldl (fun n p => n + p.2.length) 0
  (x.entries.zip (parts.drop (n + x.gang.names.length))).all fun p => p.2 == entryBytes p.1.2.1

/-- GANG_RESTORE (R415): the channel's next gang, once it fits. -/
def execGangRestore (ch : Nat) (s : State) : Host.Outcome State Fault Refusal :=
  let c := s.chan ch
  if !s.restoreTurn c || s.saveParked ch || s.regs.deviceFatal || !s.regs.rdyHost then .next s
  else match c.nextSaved with
    | none => .next s
    | some x => match s.restoreFits x with
      | none => .next s
      | some sw =>
        let g := x.gang
        let (d, s1) := s.readCtx g.ctx
        if !d.clear then .next (s1.ctxFatal g.ctx 0 0 codeDescriptor (s.ctxAddr g.ctx))
        else match s1.prepare g.cluster g.ctx g.cores g.lrec.fuse sw with
          | none => .next s
          | some s1 =>
            let v := s1.stripe g.ctx g.cluster
            match s1.readParts g.cluster g.ctx ([(v + 1583104 + 128 * x.idx, 128)] :: x.runs v) with
            | (.inl (r, va), s) => .next (s.saveFault ch g.cluster g.ctx va 0 r)
            | (.inr [], s) => .next s
            | (.inr (rec_ :: parts), s) =>
              if !x.intact parts then
                .next ({ s with free := s.free + 1 }.ctxFatal g.ctx (clusterDie g.cluster) (4 * (g.cluster % 32))
                  (Config.freeWord s.free).toNat v)
              else
                let s := s.restoreSkips s.candidates g
                let s := { s with disp := { s.disp with clock := s.disp.clock + 1 } }
                let s := s.setChan ch ((s.chan ch).restored x)
                .next (((SavedGang.setOwner (s.restoreGang x parts) x rec_)).testBarriers g)

end Sys2Proof.Machine
end

