-- ==== Sys2Proof/Machine/Host.lean ====
section
/-! DEFINITION. The host interface (21 R432 to R447): fault ring, invalidation, BAR2, peers, PCIe completions, Virvis
ports, MSI-X; and the end of linked contexts (R436). -/

namespace Sys2Proof.Machine

def State.modRing (s : State) (f : FaultRing → FaultRing) : State :=
  { s with regs := { s.regs with ring := f s.regs.ring } }

/-! The fault ring (R231, R442). -/

/-- A record is written to its slot behind the writes that the host has been sent, WRCNT moves, vector 68 is raised. -/
def State.writeRecord (s : State) (x : FaultRec) : State :=
  let r := s.regs.ring
  let bytes := faultBytes x.va x.ctx x.cause x.kind x.die r.wrcnt x.xid x.agent
  let s := s.landAll fun y => y.tgt == 1
  let s := { s with env := { s.env with
    hostMem := cellsWrite s.env.hostMem (r.base + 32 * (r.wrcnt % 2 ^ r.log2)) bytes } }
  (s.modRing fun r => { r with
    wrcnt := (r.wrcnt + 1) % 2 ^ 32
    recs := r.recs.map fun (y : FaultRec) => if y.id == x.id then { y with written := true, seq := r.wrcnt } else y }).raise 68

/-- FAULT_RECORD_WRITE (R231, R442): the oldest record that waits, while the ring has room. -/
def execFaultRecordWrite (s : State) : Host.Outcome State Fault Refusal :=
  let r := s.regs.ring
  match r.recs.find? fun x => !x.written with
  | none => .next s
  | some x => if !r.en || (r.wrcnt + 2 ^ 32 - r.rdcnt) % 2 ^ 32 = 2 ^ r.log2 then .next s else .next (s.writeRecord x)

/-- The agent parked on a record goes on (R149, R231, R300, R348, R352, R413). -/
def State.unpark (s : State) (x : FaultRec) : State :=
  let wake := fun (s : State) (u : Nat) =>
    s.modWarp u fun w => { w with park := { w.park with faults := w.park.faults.filter (· != x.id) } }
  match x.who with
  | .warp u _ => wake s u
  | .control u => (wake s u).settle u
  | .copy core num => s.modCopy core num fun e => if e.parked == some x.id then { e with parked := none } else e
  | .coord cl id =>
    match (s.qd cl).cmds.find? fun c => c.id == id with
    | some c => s.setCmd cl { c with parked := none }
    | none => s
  | .cursor cl gang name =>
    match (s.qd cl).find gang name with
    | some y => (s.setQd cl ((s.qd cl).set { y with parked := none })).cursorPass cl gang name
    | none => s
  | .save _ => s

def FaultRing.drop (r : FaultRing) (id : Nat) : FaultRing := { r with recs := r.recs.filter fun x => x.id != id }

/-- A record's fault is FATAL (R231, R401). -/
def State.fatalRecord (s : State) (x : FaultRec) : State :=
  (s.modRing fun r => r.drop x.id).ctxFatal x.ctx x.die (x.xid / 512 % 32) codeFatalAnswer x.va

/-- The outstanding record of a SEQ. -/
def FaultRing.find (r : FaultRing) (seq : Nat) : Option FaultRec := r.recs.find? fun x => x.written && x.seq == seq

/-- An answer that names no outstanding record sets ANSERR (R442). -/
def State.noRecord (s : State) : State := s.modRing fun r => { r with anserr := true }

/-- A record is answered RESUME (R442). -/
def State.answerResume (s : State) (seq : Nat) : State :=
  match s.regs.ring.find (seq % 2 ^ 32) with
  | none => s.noRecord
  | some x => (s.modRing fun r => r.drop x.id).unpark x

/-- FAULT_ANSWER_RESUME (R442, R452). -/
def execFaultAnswerResume (seq : Nat) (s : State) : Host.Outcome State Fault Refusal :=
  s.hostWrite 0x3018 8 (seq % 2 ^ 32 + 2 ^ 32) (s.answerResume seq)

/-- A record is answered FATAL (R442). -/
def State.answerFatal (s : State) (seq : Nat) : State :=
  match s.regs.ring.find (seq % 2 ^ 32) with
  | none => s.noRecord
  | some x => s.fatalRecord x

/-- FAULT_ANSWER_FATAL (R442, R452). -/
def execFaultAnswerFatal (seq : Nat) (s : State) : Host.Outcome State Fault Refusal :=
  s.hostWrite 0x3018 8 (seq % 2 ^ 32 + 2 * 2 ^ 32) (s.answerFatal seq)

/-- EN is written 1 (R442). -/
def State.enableRing (s : State) : State :=
  s.modRing fun r =>
    if r.en then r
    else if 4 ≤ r.log2 && r.log2 ≤ 15 && r.base % (32 * 2 ^ r.log2) == 0 then { r with en := true }
    else { r with cfgerr := true }

/-- FAULT_RING_ENABLE (R442, R452). -/
def execFaultRingEnable (s : State) : Host.Outcome State Fault Refusal := s.hostWrite 0x3000 0 1 s.enableRing

/-- EN is written 0 (R442): records that wait for room become FATAL and are never written. -/
def State.disableRing (s : State) : State :=
  let xs := s.regs.ring.recs.filter fun x => !x.written
  let s := s.modRing fun r => { r with en := false, recs := r.recs.filter fun x => x.written }
  xs.foldl (fun s x => s.fatalRecord x) s

/-- FAULT_RING_DISABLE (R442, R452). -/
def execFaultRingDisable (s : State) : Host.Outcome State Fault Refusal := s.hostWrite 0x3000 0 0 s.disableRing

/-- Error bits are written 1 (R442): bit 0 is CFGERR, bit 1 ANSERR. -/
def State.clearRing (s : State) (bits : Nat) : State :=
  s.modRing fun r => { r with cfgerr := r.cfgerr && !bit bits 0, anserr := r.anserr && !bit bits 1 }

/-- FAULT_RING_ERROR_CLEAR (R442, R452). -/
def execFaultRingErrorClear (bits : Nat) (s : State) : Host.Outcome State Fault Refusal :=
  s.hostWrite 0x3000 0 (2 + bits) (s.clearRing bits)

/-! Invalidation (R230, R443). -/

/-- The range of the command: first byte and size. -/
def Inval.range (i : Inval) : Nat × Nat :=
  let k := min 63 (max 15 i.isize)
  (i.iva % 2 ^ 64 / 2 ^ k * 2 ^ k, 2 ^ k)

/-- Does an entry, or an address, match the command? -/
def Inval.hits (i : Inval) (ctx base size : Nat) : Bool :=
  ctx == i.ictx && (i.iall || (base < i.range.1 + i.range.2 && i.range.1 < base + size))

/-- Accesses and entries of a warp that used a translation that the command removes and have not performed. -/
def Warp.usedBy (w : Warp) (i : Inval) : List Nat :=
  let hit := fun (xs : List Span) => xs.any fun x => x.phys.isSome && i.hits w.ctx x.va x.len
  ((w.accs.filter fun a => a.walked && hit a.spans).map (·.id)) ++ (w.sq.filter fun e => e.walked && hit e.spans).map (·.id)

/-- GO is written 1 (R230, R443): matching entries leave every TLB, pinned ones too, and every walk cache is emptied. -/
def State.invalidate (s : State) : State :=
  let i := s.regs.inval
  if i.busy then { s with regs := { s.regs with inval := { i with ierr := true } } }
  else
    let keep := fun (l : List TlbEnt) => l.filter fun e => !i.hits e.ctx e.base e.size
    { s with
      cores := s.cores.map fun p => (p.1, { p.2 with tlb := keep p.2.tlb })
      clusters := s.clusters.map fun p => (p.1, { p.2 with tlb := keep p.2.tlb })
      dies := s.dies.map fun p => (p.1, { p.2 with walk := [] })
      regs := { s.regs with inval := { i with
        busy := true, wait := s.warps.flatMap fun w => w.usedBy i
        tags := s.cores.flatMap fun p => p.2.tags.map fun t => (p.1, t.tag)
        lines := s.cores.flatMap fun p => (p.2.l1.filter fun l => l.dirty != 0 && i.hits l.ctx l.va 128).map fun l =>
          (p.1, l.ctx, l.va) } } }

/-- INVALIDATE_GO (R443, R452). -/
def execInvalidateGo (s : State) : Host.Outcome State Fault Refusal := s.hostWrite 0x3100 0 1 s.invalidate

/-- INVALIDATE_DONE (R230): everything that used a removed translation has performed at `.PKG`: the sectors that stores
left dirty in an L1 are written back. -/
def execInvalidateDone (s : State) : Host.Outcome State Fault Refusal :=
  let i := s.regs.inval
  let open_ := (s.warps.any fun w => (w.accs.any fun a => i.wait.contains a.id) || w.sq.any fun e => i.wait.contains e.id) ||
    (i.tags.any fun t => (s.core t.1).tags.any fun x => x.tag == t.2) ||
    i.lines.any fun t => (s.core t.1).l1.any fun l => l.ctx == t.2.1 && l.va == t.2.2 && l.dirty != 0
  if !i.busy || open_ then .next s
  else .next { s with regs := { s.regs with inval := { i with busy := false, wait := [], tags := [], lines := [] } } }

/-- IERR is written 1 (R443). -/
def State.clearIerr (s : State) : State := { s with regs := { s.regs with inval := { s.regs.inval with ierr := false } } }

/-- INVALIDATE_ERROR_CLEAR (R443, R452). -/
def execInvalidateErrorClear (s : State) : Host.Outcome State Fault Refusal := s.hostWrite 0x3100 0 0 s.clearIerr

/-! BAR2 (R439, R451). -/

/-- Are all bytes of a run that lie in local memory ready? -/
def State.runReady (s : State) (pa n : Nat) : Bool :=
  (List.range n).all fun i => memTop ≤ pa + i || s.localReady (pa + i)

def State.setWinerr (s : State) : State := { s with regs := { s.regs with winerr := true } }

/-- Does an access lie in BAR2 (R437)? -/
def State.inBar2 (s : State) (off n : Nat) : Bool := off + n ≤ 2 ^ s.regs.bar2

/-- BAR2_READ (R439): all ones beyond local memory. -/
def execBar2Read (off n : Nat) (s : State) : Host.Outcome State Fault Refusal :=
  let pa := s.regs.winbase + off
  if s.regs.power != 0 || !s.inBar2 off n || !s.runReady pa n then .next s
  else
    let bs := if memTop < pa + n then List.replicate n 0xFF else s.homeRead ⟨0, pa⟩ n
    let s := if memTop < pa + n then s.setWinerr else s
    .next { s with out := { s.out with bar2 := bs } }

/-- BAR2_WRITE (R439): dropped beyond local memory. -/
def execBar2Write (off : Nat) (bytes : List Byte) (s : State) : Host.Outcome State Fault Refusal :=
  let pa := s.regs.winbase + off
  if s.regs.power != 0 || !s.inBar2 off bytes.length || !s.runReady pa bytes.length then .next s
  else if memTop < pa + bytes.length then .next s.setWinerr
  else .next (s.homeWrite ⟨0, pa⟩ bytes)

/-- WINERR is written 1 (R440). -/
def State.clearWinerr (s : State) : State := { s with regs := { s.regs with winerr := false } }

/-- WINERR_CLEAR (R440, R452). -/
def execWinerrClear (s : State) : Host.Outcome State Fault Refusal := s.hostWrite 0x20 4 1 s.clearWinerr

/-! Peers and PCIe (R432 to R434). -/

/-- The atomic operations of inbound requests, by number. -/
def atomOps : List AtomOp := [.add, .minS, .minN, .maxS, .maxN, .and, .or, .xor, .exch, .cas, .fadd]

/-- PEER_REQUEST (R432): `op` is 0 for a read of as many bytes, 1 for a write, 2 and more for an atomic whose operand the
bytes are; the answer is the data, and none where VLACL refuses or the address is no local one. -/
def execPeerRequest (src op addr : Nat) (bytes : List Byte) (s : State) : Host.Outcome State Fault Refusal :=
  let acl := s.regs.vlacl.getD src 0
  let reply := fun (s : State) (bs : Option (List Byte)) => { s with out := { s.out with peer := s.out.peer ++ [(src, bs)] } }
  let n := bytes.length
  if !s.runReady addr n || s.regs.power != 0 then .next s
  else if !bit acl (min op 2) || memTop < addr + n then .next (reply s none)
  else if op = 0 then .next (reply s (some (s.homeRead ⟨0, addr⟩ n)))
  else if op = 1 then .next (reply (s.homeWrite ⟨0, addr⟩ bytes) (some []))
  else
    match atomOps[op - 2]? with
    | none => .next (reply s none)
    | some a =>
      let size := if a == .cas then n / 2 else n
      let (old, s) := s.homeAtom a size [(⟨0, addr⟩, size)] bytes
      .next (reply s (some old))

/-- A PCIe request that failed ends its context, as an uncorrectable error does (R434). -/
def State.pcieFatal (s : State) (x : HostReq) : State :=
  match x.ask with
  | .slice sl r =>
    if (s.slice sl).queue.any fun y => y.tgt == 1 && y.pending.contains x.tag && y.kind != .void then
      s.ctxFatal x.ctx (coreDie r.core) (r.core % 128) codeLink (s.blame r)
    else s
  | .fence u f =>
    match s.warp? u with
    | none => s
    | some w =>
      let fpc := match w.fences.find? fun y => y.id == f with | some y => y.fpc.toNat | none => 0
      s.ctxFatal x.ctx w.die (w.core % 128) codeLink fpc
  | .launch id =>
    match s.launch? id with
    | none => s
    | some l =>
      let base := match look l.ctx s.ctxs with | some c => c.sigbase | none => 0
      s.ctxFatal x.ctx 0 0 codeLink (base + 8 * l.lrec.csig)
  | .own line => s.ctxFatal x.ctx 0 0 codeLink (line * 128)

/-- A PCIe request completes, behind the writes that the host has been sent: a slice's is served with what the host gives,
a fence's read is done. -/
def State.pcieServe (s : State) (x : HostReq) : State :=
  let s := s.landAll fun y => y.tgt == 1
  match x.ask with
  | .slice sl _ =>
    let q := (s.slice sl).queue
    let idx := q.findIdx fun y => y.tgt == 1 && y.pending.contains x.tag
    match q[idx]? with
    | none => s
    | some r =>
      let (data, s) := (s.dropReq sl idx).serveReq r
      s.answer sl r r.sectors data
  | .fence u f =>
    s.modWarp u fun w => { w with fences := w.fences.map fun (y : FenceRec) => if y.id == f then { y with zlr := 2 } else y }
  | .launch id =>
    { s with disp := { s.disp with launches := s.disp.launches.map fun (y : Launch) =>
        if y.id == id then { y with zlr := 2 } else y } }
  | .own line => { s with env := { s.env with came := s.env.came ++ [(x.ctx, line)] } }

/-- The request of a tag is no longer outstanding. -/
def State.takeHostReq (s : State) (tag : Nat) : Option HostReq × State :=
  match s.env.hostReqs.find? fun x => x.tag == tag with
  | none => (none, s)
  | some x => (some x, { s with env := { s.env with hostReqs := s.env.hostReqs.filter fun y => y.tag != tag } })

/-- PCIE_COMPLETION (R434): `status` 0 is a successful completion; a poisoned one, Unsupported Request and Completer
Abort are others. -/
def execPcieCompletion (tag status : Nat) (s : State) : Host.Outcome State Fault Refusal :=
  match s.takeHostReq tag with
  | (none, s) => .next s
  | (some x, s) => if status = 0 then .next (s.pcieServe x) else .next (s.pcieFatal x)

/-- PCIE_COMPLETION_TIMEOUT (R434). -/
def execPcieCompletionTimeout (tag : Nat) (s : State) : Host.Outcome State Fault Refusal :=
  match s.takeHostReq tag with
  | (none, s) => .next s
  | (some x, s) => .next (s.pcieFatal x)

/-! Virvis ports (R430, R444). -/

/-- Can no packet reach a device: no port of its entry in VLROUTE is up (R431)? -/
def State.cutOff (s : State) (dev : Nat) : Bool :=
  let e := s.regs.vlroute.getD dev 0
  !(bit e 16 && (List.range 16).any fun k => bit e k && match s.regs.vlport[k]? with
    | some p => p.en && p.up
    | none => false)

/-- Contexts of linked quarries one of whose member devices has become unreachable end (R436). -/
def State.endCutOff (s : State) : State :=
  let cs := ((s.quarries.filter fun q => q.link && q.members.any s.cutOff).map (·.ctx)).eraseDups
  cs.foldl (fun s c => s.ctxFatal c 0 0 codeLink 0) s

def State.setPort (s : State) (k : Nat) (p : VPort) : State :=
  { s with regs := { s.regs with vlport := s.regs.vlport.set k p } }

/-- VIRVIS_PORT_UP_CHANGE (R430, R444, R459): an enabled port trains or falls; one whose far end holds this DEVID stays
down. -/
def execVirvisPortUpChange (k : Nat) (up : Bool) (far : Nat) (s : State) : Host.Outcome State Fault Refusal :=
  match s.regs.vlport[k]? with
  | none => .next s
  | some p =>
    let far := far % 64
    if up && !p.en then .next s
    else if up && far == s.regs.devid then .next (s.setPort k { p with pdup := true })
    else if up == p.up then .next s
    else
      let s := s.setPort k { p with up, far := if up then far else 0 }
      .next (((s.bore 0 0x41 k 0xFFFF k (b2n up)).raise 69).endCutOff)

/-- PDUP is written 1 (R444). -/
def State.clearPdup (s : State) (k : Nat) : State :=
  match s.regs.vlport[k]? with
  | none => s
  | some p => s.setPort k { p with pdup := false }

/-- PDUP_CLEAR (R444, R452). -/
def execPdupClear (k : Nat) (s : State) : Host.Outcome State Fault Refusal :=
  s.hostWrite (0x4000 + 8 * (128 + k)) 0 0 (s.clearPdup k)

/-! MSI-X (R446). -/

/-- The pending message of a vector is sent, unless something masks it (R446). -/
def State.sendPending (s : State) (v : Nat) : State :=
  match s.regs.msix[v]? with
  | none => s
  | some m =>
    if m.masked || !m.pending || !s.regs.msixOn || s.regs.msixMask then s
    else { s with regs := { s.regs with msix := s.regs.msix.set v { m with pending := false } },
                  out := { s.out with msgs := s.out.msgs ++ [(v, m.addr, m.data)] } }

/-- A vector's mask is written 0 (R446). -/
def State.unmask (s : State) (v : Nat) : State :=
  match s.regs.msix[v]? with
  | none => s
  | some m => { s with regs := { s.regs with msix := s.regs.msix.set v { m with masked := false } } }.sendPending v

/-- MSIX_VECTOR_UNMASK (R446, R452): a pending message is sent. -/
def execMsixVectorUnmask (v : Nat) (s : State) : Host.Outcome State Fault Refusal :=
  s.hostWrite (0x10000 + 16 * v + 12) 4 0 (s.unmask v)

/-- The host writes PCIe's configuration space (R437, R446): a size of BAR2 that Resizable BAR offers, or MSI-X control, which
lets pending messages go. -/
def State.configWrite (s : State) (c : CfgWrite) : State :=
  match c with
  | .bar2 k => if 28 ≤ k && k ≤ 40 then { s with regs := { s.regs with bar2 := k } } else s
  | .msix on mask =>
    (List.range 72).foldl State.sendPending { s with regs := { s.regs with msixOn := on, msixMask := mask } }

/-! Linked contexts (R436). -/

/-- LINKED_CONTEXT_END (R436): every context that holds a live linked quarry of the group is ended. -/
def execLinkedContextEnd (lgid : Nat) (s : State) : Host.Outcome State Fault Refusal :=
  let cs := ((s.quarries.filter fun q => q.link && q.lgid == lgid).map (·.ctx)).eraseDups
  .next (cs.foldl (fun s c => s.ctxFatal c 0 0 codeLink 0) s)

end Sys2Proof.Machine
end

