-- ==== Sys2Proof/Machine/MatrixRun.lean ====
section
/-! DEFINITION. The passes of the matrix engine and the Promenade tokens (15 R315 to R319, R321, R325, 22 R462). -/

namespace Sys2Proof.Machine

/-! Choosing a pass. -/

/-- The ready commands of a table that no stop holds, in order of entry; MXZERO is not one of them (R316, R317, R330). -/
def Matrix.readyCmds (m : Matrix) : List MxEntry := m.entries.filter fun e => !e.zero && m.ready e && !m.halted.contains e.ctx

/-- Entry `num` is complete and leaves the table. -/
def Matrix.drop (m : Matrix) (nums : List Nat) : Matrix :=
  { m with entries := m.entries.filter fun e => !nums.contains e.num }

/-- R321: ready commands that reach a tile whose FDF is set complete at once. -/
def Matrix.dropFaultedN : Nat → Matrix → Matrix
  | 0, m => m
  | n + 1, m => (m.drop ((m.readyCmds.filter m.faulted).map (·.num))).dropFaultedN n
def Matrix.dropFaulted (m : Matrix) : Matrix := m.dropFaultedN m.entries.length

/-- The entry of highest priority, the oldest among equals. -/
def bestPrio : List MxEntry → Option MxEntry
  | [] => none
  | e :: es => match bestPrio es with
    | none => some e
    | some f => if e.prio < f.prio then some f else some e

/-- The leader of a pass (R317 step 1). -/
def leaderOf (es : List MxEntry) : Option MxEntry :=
  match es.find? fun e => 16 ≤ e.missed with
  | some e => some e
  | none => bestPrio es

/-- Do two commands share B, its bitmap and its headers, and the format block but for A's bases (R317 step 2)? -/
def MxEntry.joins (e f : MxEntry) : Bool :=
  e.b == f.b && (List.range 8).all fun i => i == 2 || i == 3 || i == 6 || blkW e.blk i == blkW f.blk i

/-- The members of a pass, in order of entry, while their rows number 64 at most. -/
def gatherPass (lead : MxEntry) : List MxEntry → Nat → List MxEntry
  | [], _ => []
  | e :: es, n =>
    if e.num == lead.num then gatherPass lead es n
    else if e.joins lead && n + e.rows.length ≤ 64 then e :: gatherPass lead es (n + e.rows.length)
    else gatherPass lead es n

/-- A chosen pass: its members run, and each ready command left out has missed one more. -/
def Matrix.choose (m : Matrix) : Matrix :=
  let rs := m.readyCmds
  match leaderOf rs with
  | none => m
  | some l =>
    let ns := (l :: gatherPass l rs l.rows.length).map (·.num)
    let left := (rs.map (·.num)).filter fun n => !ns.contains n
    { m with
      run := some ns
      entries := m.entries.map fun e =>
        if ns.contains e.num then { e with missed := 0 }
        else if left.contains e.num then { e with missed := e.missed + 1 } else e }

/-- MX_PASS_SELECT (R317), when no pass runs. -/
def execMxPassSelect (cl : Nat) (s : State) : Host.Outcome State Fault Refusal :=
  let m := s.mx cl
  if m.run.isSome then .next s else .next (s.setMx cl m.dropFaulted.choose)

/-! Running it. -/

/-- The members of the running pass. -/
def Matrix.members (m : Matrix) : List MxEntry :=
  match m.run with
  | none => []
  | some ns => ns.filterMap fun n => m.entries.find? fun e => e.num == n

/-- The group that the next step applies: the first that some member has still to apply. -/
def State.stepGroup (s : State) (cl : Nat) : Option Nat :=
  ((s.mx cl).members.filterMap s.nextGroup).min?

/-- MX_STEP (R315, R318): one group applied to every member that has it next, under a token whose burst is not over. -/
def execMxStep (cl : Nat) (s : State) : Host.Outcome State Fault Refusal :=
  let m := s.mx cl
  match s.stepGroup cl with
  | none => .next s
  | some g =>
    if m.tok.isNone || 4096 ≤ m.burst then .next s
    else
      let due := m.members.filter fun e => s.nextGroup e == some g
      let s := due.foldl (fun s e => s.mxApply cl e g) s
      .next (s.setMx cl { s.mx cl with burst := m.burst + 1 })

/-- MX_PASS_COMPLETE (R319): no member has a group left. -/
def execMxPassComplete (cl : Nat) (s : State) : Host.Outcome State Fault Refusal :=
  let m := s.mx cl
  match m.run with
  | none => .next s
  | some ns => if (s.stepGroup cl).isSome then .next s else .next (s.setMx cl { m.drop ns with run := none })

/-- MXZERO_RUN (R325): the oldest ready MXZERO clears its tile, which stays held. -/
def execMxzeroRun (cl : Nat) (s : State) : Host.Outcome State Fault Refusal :=
  let m := s.mx cl
  match m.entries.find? fun e => e.zero && m.ready e && !m.halted.contains e.ctx with
  | none => .next s
  | some e =>
    .next (s.setMx cl (e.tiles.foldl
      (fun (m : Matrix) p => m.setTile p { m.tile p with flags := 0, fdf := none, elems := [] }) (m.drop [e.num])))

/-! Tokens. -/

/-- Has the cluster a ready pass to step (R318)? -/
def State.wantsToken (s : State) (cl : Nat) : Bool :=
  let m := s.mx cl
  match m.run with
  | some _ => (s.stepGroup cl).isSome
  | none => !m.dropFaulted.readyCmds.isEmpty

/-- The cluster that holds a token of a die, if one does. -/
def State.holderOf (s : State) (die tok : Nat) : Option Nat :=
  ((List.range 32).map (32 * die + ·)).find? fun cl => (s.mx cl).tok == some tok

/-- Does a station take the token that stands there? -/
def State.takesToken (s : State) (die station : Nat) : Bool :=
  let cl := 32 * die + station
  (s.mx cl).tok.isNone && s.wantsToken cl

/-- The token goes to the next station downstream. -/
def Die.passOn (d : Die) (tok : Nat) : Die :=
  { d with ring := d.ring.map fun p => if p.1 == tok then (p.1, (p.2 + 1) % 32) else p }

/-- The ring after the die's target has risen (R462): added tokens enter at station 0. -/
def Die.addTokens (d : Die) : Die :=
  let top := d.ring.foldl (fun m p => max m (p.1 + 1)) 0
  { d with ring := d.ring ++ (List.range (d.target - d.ring.length)).map fun k => (top + k, 0) }

/-- A token leaves a burst (R462): it is retired while there is a surplus, and otherwise moves on; then tokens are
added to the target. -/
def Die.endBurst (d : Die) (tok : Nat) : Die :=
  if d.target < d.ring.length then { d with ring := d.ring.filter fun p => p.1 != tok } else (d.passOn tok).addTokens

/-- The change of TOKENS logged (R459). -/
def State.boreTokens (s : State) (die before : Nat) : State :=
  let n := (s.die die).ring.length
  if n = before then s else s.bore die 0x30 die 0xFFFF n before

/-- TOKEN_ARRIVE (R318): a waiting station takes a token that has reached it. -/
def execTokenArrive (die tok : Nat) (s : State) : Host.Outcome State Fault Refusal :=
  match look tok (s.die die).ring with
  | none => .next s
  | some st =>
    let cl := 32 * die + st
    if (s.holderOf die tok).isSome || !s.takesToken die st then .next s
    else .next (s.setMx cl { s.mx cl with tok := some tok, burst := 0 })

/-- TOKEN_IDLE_MOVE (R318): a token that its station does not take moves on. -/
def execTokenIdleMove (die tok : Nat) (s : State) : Host.Outcome State Fault Refusal :=
  match look tok (s.die die).ring with
  | none => .next s
  | some st =>
    if (s.holderOf die tok).isSome || s.takesToken die st then .next s
    else .next (s.setDie die ((s.die die).passOn tok))

/-- BURST_END (R318, R462): after 4,096 steps, or with no ready pass left, the token leaves. -/
def execBurstEnd (cl : Nat) (s : State) : Host.Outcome State Fault Refusal :=
  let m := s.mx cl
  match m.tok with
  | none => .next s
  | some tok =>
    if m.burst < 4096 && s.wantsToken cl then .next s
    else
      let d := clusterDie cl
      let n := (s.die d).ring.length
      let s := s.setMx cl { m with tok := none, burst := 0 }
      .next ((s.setDie d ((s.die d).endBurst tok)).boreTokens d n)

end Sys2Proof.Machine
end

