-- ==== Sys2Proof/Machine/Mesh.lean ====
section
/-! DEFINITION. The mesh between dies (21 R423 to R428). -/

namespace Sys2Proof.Machine

/-- A die's column and row (R423). -/
def dieX (d : Nat) : Nat := d % 3
def dieY (d : Nat) : Nat := d / 3

/-- The die at a port: N, E, S, W are 0 to 3. -/
def neighbour (d port : Nat) : Option Nat :=
  match port with
  | 0 => if 3 ≤ d then some (d - 3) else none
  | 1 => if dieX d < 2 then some (d + 1) else none
  | 2 => if d < 6 then some (d + 3) else none
  | _ => if dieX d = 0 then none else some (d - 1)

/-- The number of the link at a port (R453). -/
def linkAt (d port : Nat) : Nat :=
  match port with
  | 0 => 3 + d
  | 1 => 2 * dieY d + dieX d
  | 2 => 6 + d
  | _ => 2 * dieY d + dieX d - 1

/-- The two dies that a link joins. -/
def linkEnds (l : Nat) : Nat × Nat := if l < 6 then (3 * (l / 2) + l % 2, 3 * (l / 2) + l % 2 + 1) else (l - 6, l - 3)

/-- The port of `d` towards its neighbour `e`. -/
def portTo (d e : Nat) : Nat := if e = d + 1 then 1 else if e = d + 3 then 2 else if e + 1 = d then 3 else 0

/-- R425: the ports a packet from `src` to `dst` may take at die `c`. -/
def avail (src c dst : Nat) : List Nat :=
  let xc := dieX c
  let xs := dieX src
  let xd := dieX dst
  let e0 : Int := (xd : Int) - xc
  let e1 : Int := (dieY dst : Int) - dieY c
  let vert := if dieY dst < dieY c then 0 else 2
  if e0 = 0 ∧ e1 = 0 then []
  else if e0 = 0 then [vert]
  else if 0 < e0 then
    if e1 = 0 then [1]
    else (if xc % 2 = 1 || xc == xs then [vert] else []) ++ (if xd % 2 = 1 || e0 != 1 then [1] else [])
  else [3] ++ if e1 != 0 && xc % 2 == 0 then [vert] else []

/-- Is a link ready and ACTIVE (R426, R428, R451)? -/
def State.linkUp (s : State) (l : Nat) : Bool :=
  bit s.regs.rdyLink l && match look l s.links with | some k => k.state == 0 | none => false

/-- The die a packet was at before where it stands. -/
def Flit.prev (f : Flit) : Option Nat := (f.path.reverse.drop 1).head?

/-- Free slots of the input buffer of `e` from `d` on a channel: 16 flits (R424). -/
def State.freeSlots (s : State) (d e chan : Nat) : Nat :=
  16 - ((s.mesh.filter fun f => f.chan == chan && f.at_ == e && f.prev == some d).map fun f => f.msg.flits).sum

/-- Free slots behind a port, none when its link is not up (R426). -/
def State.room (s : State) (d port chan : Nat) : Nat :=
  match neighbour d port with
  | none => 0
  | some e => if s.linkUp (linkAt d port) then s.freeSlots d e chan else 0

/-- R426: the port with the most room, E or W before N or S. -/
def State.pickPort (s : State) (d chan : Nat) (ports : List Nat) : Option Nat :=
  let order := (ports.filter fun p => p % 2 == 1) ++ ports.filter fun p => p % 2 == 0
  order.foldl (fun best p =>
    match best with
    | none => if s.room d p chan = 0 then none else some p
    | some b => if s.room d b chan < s.room d p chan then some p else some b) none

/-- The die a packet goes to after `d` on the path of one it follows (R427). -/
def nextOn (path : List Nat) (d : Nat) : Option Nat := ((path.dropWhile (· != d)).drop 1).head?

/-- The packet that packet `idx` follows (R427). -/
def State.ahead (s : State) (idx : Nat) (f : Flit) : Option Flit :=
  ((s.mesh.take idx).filter fun g => g.src == f.src && g.dst == f.dst && g.chan == f.chan && g.key == f.key).getLast?

/-- Where packet `idx` goes next, if it can: there must be room for all its flits. -/
def State.nextHop (s : State) (idx : Nat) (f : Flit) : Option Nat :=
  let e? := match s.ahead idx f with
    | some g => nextOn g.path f.at_
    | none => (s.pickPort f.at_ f.chan (avail f.src f.at_ f.dst)).bind (neighbour f.at_)
  e?.filter fun e => f.msg.flits ≤ s.room f.at_ (portTo f.at_ e) f.chan

/-- Can the die that a packet is for take it in: a home slice with no free request slot cannot (R235)? -/
def State.takesIn (s : State) (m : Msg) : Bool :=
  match m with
  | .home sl _ => !(s.slice sl).full
  | _ => true

/-- FLIT_ROUTE (R425 to R427): packet `idx` moves over one link, and is taken in where it arrives. -/
def execFlitRoute (idx : Nat) (s : State) : Host.Outcome State Fault Refusal :=
  match s.mesh[idx]? with
  | none => .next s
  | some f =>
    match s.nextHop idx f with
    | none => .next s
    | some e =>
      let l := linkAt f.at_ (portTo f.at_ e)
      if e = f.dst && !s.takesIn f.msg then .next s else
      let links := match look l s.links with | some k => put l { k with used := s.now } s.links | none => s.links
      let s := { s with links }
      if e = f.dst then .next ({ s with mesh := s.mesh.eraseIdx idx }.deliver f.msg)
      else .next { s with mesh := s.mesh.set idx { f with at_ := e, path := f.path ++ [e] } }

/-! Link power (R428). -/

/-- The link that packet `idx` is routed to (R426 to R428): on the path of the packet it follows, else, with every port of
its Avail asleep, the one that ties go to. -/
def State.routedTo (s : State) (idx : Nat) (f : Flit) : Option Nat :=
  match s.ahead idx f with
  | some g => (nextOn g.path f.at_).map fun e => linkAt f.at_ (portTo f.at_ e)
  | none =>
    let ls := fun (ps : List Nat) => ps.map (linkAt f.at_)
    let ports := avail f.src f.at_ f.dst
    if (ls ports).any s.linkUp then none
    else (ls ((ports.filter fun p => p % 2 == 1) ++ ports.filter fun p => p % 2 == 0)).head?

/-- Is a packet routed to the link? -/
def State.linkWanted (s : State) (l : Nat) : Bool := s.mesh.zipIdx.any fun x => s.routedTo x.2 x.1 == some l

/-- Is a packet buffered for the link at either end? -/
def State.linkBusy (s : State) (l : Nat) : Bool :=
  let (a, b) := linkEnds l
  s.mesh.any fun f => (f.at_ == a || f.at_ == b) && (avail f.src f.at_ f.dst).any fun p => linkAt f.at_ p == l

/-- Set a link's state. -/
def State.setLink (s : State) (l st : Nat) : State :=
  match look l s.links with
  | none => s
  | some k => { s with links := put l { k with state := st, since := s.now } s.links }

/-- The idle threshold of a die (R445). -/
def Die.idle (d : Die) : Nat := max 64 d.ith

/-- LINK_POWER_DOWN (R428): ACTIVE to STOPPING. -/
def execLinkPowerDown (l : Nat) (s : State) : Host.Outcome State Fault Refusal :=
  let (a, b) := linkEnds l
  match look l s.links with
  | none => .next s
  | some k =>
    if k.state = 0 && (s.die a).pden && (s.die b).pden && !s.linkBusy l &&
        decide (max (s.die a).idle (s.die b).idle ≤ s.now - max k.used k.since) then .next (s.setLink l 1)
    else .next s

/-- LINK_OFF (R428): STOPPING to OFF after 8 cycles. -/
def execLinkOff (l : Nat) (s : State) : Host.Outcome State Fault Refusal :=
  match look l s.links with
  | none => .next s
  | some k => if k.state = 1 && decide (8 ≤ s.now - k.since) then .next (s.setLink l 2) else .next s

/-- LINK_WAKE (R428): OFF to WAKING when a packet is routed to it. -/
def execLinkWake (l : Nat) (s : State) : Host.Outcome State Fault Refusal :=
  match look l s.links with
  | none => .next s
  | some k => if k.state = 2 && s.linkWanted l then .next (s.setLink l 3) else .next s

/-- LINK_ACTIVE (R428): WAKING to ACTIVE after 32 cycles. -/
def execLinkActive (l : Nat) (s : State) : Host.Outcome State Fault Refusal :=
  match look l s.links with
  | none => .next s
  | some k => if k.state = 3 && decide (32 ≤ s.now - k.since) then .next (s.setLink l 0) else .next s

end Sys2Proof.Machine
end

