-- ==== Sys2Proof/Machine/Bringup.lean ====
section
/-! DEFINITION. Bring-up (22 R449 to R453), soft errors (R454 to R456), power (R461 to R463), firmware and attestation
(R464, R465). -/

namespace Sys2Proof.Machine

/-! Reset (R450). -/

/-- The package after a device reset: what State.reset gives, with the bore log (R457), what the fuses hold, and what
stands outside. -/
def State.afterReset (s : State) : State :=
  let r := State.reset
  { r with
    dies := (List.range 9).map fun d =>
      let x := s.die d
      (d, { Die.reset with wrseq := x.wrseq, log := x.log, lclk0 := x.lclk0 })
    links := (List.range 12).map fun l => (l, { state := 0, since := s.now, used := s.now })
    disp := { r.disp with nextUid := s.disp.nextUid }
    regs := { Regs.reset with form := s.regs.form, step := s.regs.step, minsvn := s.regs.minsvn,
                              attest := s.regs.attest, keys := s.regs.keys }
    env := { s.env with hostReqs := [], posted := [], came := [], stored := s.env.accepted.getD s.env.stored,
                        accepted := none }
    out := s.out, agenda := s.agenda, pace := s.pace, now := s.now, nextId := s.nextId, free := s.free }

/-- Everything is lost, the bore logs too; LCLK counts from now (R457, R458). -/
def State.powerLost (s : State) : State :=
  let s := s.afterReset
  { s with dies := (List.range 9).map fun d => (d, { Die.reset with lclk0 := s.now }) }

/-- The record of a reset on every die (R459). -/
def State.boreReset (s : State) (cause : Nat) : State :=
  (List.range 9).foldl (fun s d => s.bore d 0x01 d 0xFFFF cause 0) s

/-- DEVICE_RESET (R450, R457): cause 0 is power-on, which alone leaves D3cold (R461). -/
def execDeviceReset (cause : Nat) (s : State) : Host.Outcome State Fault Refusal :=
  if cause = 0 then .next (s.powerLost.boreReset 0)
  else if s.regs.power = 2 then .next s
  else .next (s.afterReset.boreReset cause)

/-- BOOT_VERIFY (R464). -/
def execBootVerify (s : State) : Host.Outcome State Fault Refusal :=
  let r := s.regs
  let i := s.env.stored
  if r.bootst != 0 || r.power != 0 then .next s
  else if i.signed && r.minsvn ≤ i.svn then
    .next { s with regs := { r with bootst := 1, fwver := i.ver, fwsvn := i.svn } }
  else .next { s with regs := { r with bootst := 2 } }

/-- The die on whose log a function's records stand. -/
def functionDie (fn : Nat) : Nat :=
  if fn < 9 then fn else if fn < 21 then stackDie (fn - 9) else if fn < 33 then (linkEnds (fn - 21)).1
  else if fn = 33 then 0 else clusterDie (fn - 64)

/-- Set a function's ready bit: by its number in R453, or 64 and a cluster (R454). -/
def State.setReady (s : State) (fn : Nat) : State :=
  let r := s.regs
  let set := fun (x k : Nat) => Nat.lor x (2 ^ k)
  if fn < 9 then { s with regs := { r with rdyDie := set r.rdyDie fn } }
  else if fn < 21 then { s with regs := { r with rdyStack := set r.rdyStack (fn - 9) } }
  else if fn < 33 then { s with regs := { r with rdyLink := set r.rdyLink (fn - 21) } }
  else if fn = 33 then { s with regs := { r with rdyHost := true } }
  else
    let cl := fn - 64
    let d := s.die (clusterDie cl)
    s.setDie (clusterDie cl) { d with clready := set d.clready (cl % 32) }

/-- Is a function ready? -/
def State.isReady (s : State) (fn : Nat) : Bool :=
  let r := s.regs
  if fn < 9 then bit r.rdyDie fn else if fn < 21 then bit r.rdyStack (fn - 9)
  else if fn < 33 then bit r.rdyLink (fn - 21) else if fn = 33 then r.rdyHost
  else bit (s.die (clusterDie (fn - 64))).clready ((fn - 64) % 32)

/-- Functions 0 to 33 are the bits of R453, 64 + c is cluster c. -/
def isFunction (fn : Nat) : Bool := fn < 34 || (64 ≤ fn && fn < 352)

/-- What a function's records name (R458): the die, stack or link by its number, a cluster by its number on its die, and
die 0 for HOST. -/
def functionUnit (fn : Nat) : Nat :=
  if fn < 9 then fn else if fn < 21 then fn - 9 else if fn < 33 then fn - 21 else if fn = 33 then 0 else (fn - 64) % 32

/-- May a function's self-test end now (R450): no function is tested twice? -/
def State.testing (s : State) (fn : Nat) : Bool :=
  s.regs.bootst == 1 && s.regs.power == 0 && isFunction fn && !s.isReady fn && !s.regs.failed.contains fn

/-- SELF_TEST_PASS (R450, R453). -/
def execSelfTestPass (fn : Nat) (s : State) : Host.Outcome State Fault Refusal :=
  if !s.testing fn then .next s
  else
    let s := s.setReady fn
    .next (if fn < 34 then s.bore (functionDie fn) 0x02 (functionUnit fn) 0xFFFF fn 0 else s)

/-- A device-fatal fault to which R459 gives no code (log entry 6). -/
def State.fatalFree (s : State) (data1 : Nat) : State :=
  { s with free := s.free + 1 }.deviceFatal (Config.freeWord s.free).toNat data1

/-- SELF_TEST_FAIL (R450): FAIL, which is device-fatal. The record gives the function's bit of R453, or for a cluster, which
has none, FAIL's (log entry 25). -/
def execSelfTestFail (fn : Nat) (s : State) : Host.Outcome State Fault Refusal :=
  if !s.testing fn then .next s
  else
    let s := { s with regs := { s.regs with fail := true, failed := s.regs.failed ++ [fn] } }
    .next ((s.bore (functionDie fn) 0x03 (functionUnit fn) 0xFFFF (if fn < 34 then fn else 34) 0).fatalFree 0)

/-! Firmware (R464). -/

/-- FWCMD is written 1 (R449, R464). -/
def State.verifyStaged (s : State) : State := { s with regs := { s.regs with fwst := 1 } }

/-- FIRMWARE_VERIFY (R449, R464). -/
def execFirmwareVerify (s : State) : Host.Outcome State Fault Refusal := s.hostWrite 0x1000010 4 1 s.verifyStaged

/-- FIRMWARE_VERIFY_DONE (R464): an accepted image runs from the next device reset on, and not before. -/
def execFirmwareVerifyDone (s : State) : Host.Outcome State Fault Refusal :=
  if s.regs.fwst != 1 then .next s
  else
    let i := s.env.staged
    let good := i.signed && decide (s.regs.minsvn ≤ i.svn)
    let st := if good then 2 else 3
    let s := { s with regs := { s.regs with fwst := st }, 
                      env := if good then { s.env with accepted := some i } else s.env }
    .next (s.bore 0 0x40 0 0xFFFF st i.ver)

/-! Attestation (R465), with the codes of SPDM 1.2. -/

/-- A request is answered; the attestation counter counts every request. -/
def State.spdmAnswer (s : State) (l : List Nat) : State :=
  { s with out := { s.out with spdm := s.out.spdm ++ [l] }
           regs := { s.regs with attest := (s.regs.attest + 1) % 2 ^ 64 } }

/-- GET_VERSION (R465): VERSION, 1.2. -/
def execGetVersion (s : State) : Host.Outcome State Fault Refusal := .next (s.spdmAnswer [0x04, 0x12])
/-- GET_CAPABILITIES (R465): CAPABILITIES, MEAS_CAP = 01. -/
def execGetCapabilities (s : State) : Host.Outcome State Fault Refusal := .next (s.spdmAnswer [0x61, 1])
/-- NEGOTIATE_ALGORITHMS (R465): ALGORITHMS, SHA-256 measurements, no base asymmetric algorithm. -/
def execNegotiateAlgorithms (s : State) : Host.Outcome State Fault Refusal := .next (s.spdmAnswer [0x63, 2, 0])

/-- One-time keys of an HSS of two levels of height 15 (R464). -/
def hssKeys : Nat := 2 ^ 30

/-- A measurement block: digests, signatures and the key are bytes the spec does not state; `n` is the counter. -/
def State.measurement (s : State) (n idx : Nat) : List Nat :=
  match idx with
  | 1 => [Config.freeAttest (8 * s.regs.fwver + 1)]
  | 2 => [s.regs.fwsvn, s.regs.minsvn]
  | 3 => [Config.freeAttest 3]
  | 4 => n :: (if s.regs.keys < hssKeys then [Config.freeAttest (8 * n + 4)] else [])
  | _ => [Config.freeAttest 5]

/-- GET_MEASUREMENTS (R465), of SPDM 1.2: operation 0 gives the number of blocks, 0xFF all of them, 1 to 5 one. Block 4 takes
a one-time key while there is one. -/
def execGetMeasurements (idx : Nat) (s : State) : Host.Outcome State Fault Refusal :=
  let n := (s.regs.attest + 1) % 2 ^ 64
  let keys := if s.regs.keys < hssKeys then s.regs.keys + 1 else s.regs.keys
  let signed := { s with regs := { s.regs with keys } }
  if idx = 0 then .next (s.spdmAnswer [0x60, 0, 5])
  else if idx = 0xFF then
    .next (signed.spdmAnswer (0x60 :: 0xFF :: [1, 2, 3, 4, 5].flatMap fun k => k :: s.measurement n k))
  else if 5 < idx then .next (s.spdmAnswer [0x7F, 7])
  else .next ((if idx = 4 then signed else s).spdmAnswer (0x60 :: idx :: s.measurement n idx))

/-- SPDM_UNSUPPORTED (R465): ERROR UnsupportedRequest. -/
def execSpdmUnsupported (_code : Nat) (s : State) : Host.Outcome State Fault Refusal := .next (s.spdmAnswer [0x7F, 7])

/-! Soft errors (R240, R454 to R456). -/

/-- One more, saturating. -/
def satInc (n : Nat) : Nat := min (n + 1) 0xFFFFFFFF

/-- The record of a counter that has just reached its threshold. -/
def State.boreCount (s : State) (die unit old new th : Nat) : State :=
  if old < th && th ≤ new then s.bore die 0x10 unit 0xFFFF new 0 else s

/-- The UNIT of an SRAM's record, a cluster or core of the die that no operand of the event names: an open value (R458, log
entry 6). -/
def State.sramUnit (s : State) : Nat × State := ((Config.freeWord s.free).toNat % 65536, { s with free := s.free + 1 })

/-- ECC_CORRECTED (R240, R456): of an HBM codeword of a stack, or of an SRAM of a die. A base die finds it in the codeword
of the request that it serves next, whose reply then carries CE, or else as it scrubs. -/
def execEccCorrected (hbm : Bool) (unit addr : Nat) (s : State) : Host.Outcome State Fault Refusal :=
  if hbm then
    let s := match s.dieReads unit addr with
      | some (i, _) => s.serveDie unit i 1
      | none => s
    let st := s.stack unit
    let n := satInc st.hce
    .next ((s.setStack unit { st with hce := n }).boreCount (stackDie unit) unit st.hce n st.hceth)
  else
    let d := s.die unit
    let n := satInc d.sce
    let (u, s) := s.sramUnit
    .next ((s.setDie unit { d with sce := n }).boreCount unit u d.sce n d.ceth)

/-- Does the reply to a base-die request reach an agent that raises the fault of R240: a read's, or a direct packet's? -/
def DieReq.raises (r : DieReq) : Bool := !r.write || match r.by_ with | .direct _ _ => true | .slice _ => false

/-- ECC_UNCORRECTABLE (R240, R401, R402, R456): counted and recorded. Found in the codeword of the request that a base die
serves next, it goes with the reply, whose receiver raises the fault; else it is context-fatal to the context whose state
it lies in, and device-fatal where several share it. -/
def execEccUncorrectable (hbm : Bool) (unit addr : Nat) (ctx : Option Nat) (s : State) :
    Host.Outcome State Fault Refusal :=
  let die := if hbm then stackDie unit else unit
  let s := if hbm then s.setStack unit { s.stack unit with hue := satInc (s.stack unit).hue }
    else s.setDie unit { s.die unit with sue := satInc (s.die unit).sue }
  let (u, s) := if hbm then (unit, s) else s.sramUnit
  let s := s.bore die 0x11 u (ctx.getD 0xFFFF) addr 0
  match (if hbm then s.dieReads unit addr else none), ctx with
  | some (i, r), _ =>
    let s := s.serveDie unit i 2
    .next (if r.raises then s else match ctx with
      | some c => s.ctxFatal c die u codeEcc addr
      | none => s.deviceFatal codeEcc addr)
  | none, some c => .next (s.ctxFatal c die u codeEcc addr)
  | none, none => .next (s.deviceFatal codeEcc addr)

/-- HBM_SCRUB (R456): no effect on any value. -/
def execHbmScrub (_stack : Nat) (s : State) : Host.Outcome State Fault Refusal := .next s

/-- A counter is written (R454 to R456): 0 the corrected count, 1 the uncorrectable, 2 the threshold. -/
def State.writeCounter (s : State) (hbm : Bool) (unit which v : Nat) : State :=
  let v := v % 2 ^ 32
  if hbm then
    let st := s.stack unit
    s.setStack unit (match which with
      | 0 => { st with hce := v }
      | 1 => { st with hue := v }
      | _ => { st with hceth := v })
  else
    let d := s.die unit
    s.setDie unit (match which with
      | 0 => { d with sce := v }
      | 1 => { d with sue := v }
      | _ => { d with ceth := v })

/-- The offset of a counter (R454, R455). -/
def counterOff (hbm : Bool) (unit which : Nat) : Nat :=
  if hbm then 0x1000800 + 16 * unit + 4 * min which 2 else 0x1000400 + 64 * unit + 12 + 4 * min which 2

/-- ECC_COUNTER_WRITE (R454 to R456, R452). -/
def execEccCounterWrite (hbm : Bool) (unit which v : Nat) (s : State) : Host.Outcome State Fault Refusal :=
  s.hostWrite (counterOff hbm unit which) 4 v (s.writeCounter hbm unit which v)

/-! Power (R461 to R463). -/

/-- The tokens that a power limit gives a die (R462). -/
def tokenTarget (plimit : Nat) (throt : Bool) : Nat :=
  let t := 20 * (plimit - 500) / 1700
  if throt then max 1 (t / 2) else t

/-- A die's target is set; while no burst runs on it, added tokens enter at once (R462). -/
def State.retarget (s : State) (d : Nat) : State :=
  let x := s.die d
  let n := x.ring.length
  let x := { x with target := tokenTarget s.regs.plimit x.throt }
  if (List.range 32).any fun c => (s.mx (32 * d + c)).tok.isSome then s.setDie d x
  else (s.setDie d x.addTokens).boreTokens d n

/-- PLIMIT is written (R462). -/
def State.limitPower (s : State) (v : Nat) : State :=
  let s := { s with regs := { s.regs with plimit := min 2200 (max 800 (v % 65536)) } }
  (List.range 9).foldl State.retarget s

/-- POWER_LIMIT_WRITE (R462, R452). -/
def execPowerLimitWrite (v : Nat) (s : State) : Host.Outcome State Fault Refusal := s.hostWrite 0x1000200 4 v (s.limitPower v)

/-- TEMP, in sixteenths of a degree (R454). -/
def State.setTemp (s : State) (d t : Nat) : State := s.setDie d { s.die d with temp := t % 65536 }

/-- Above 95 °C THROT is set (R463). -/
def State.throttle (s : State) (d : Nat) : State :=
  let x := s.die d
  if x.throt || x.temp ≤ 16 * 95 then s
  else ((s.setDie d { x with throt := true }).bore d 0x31 d 0xFFFF x.temp 0).retarget d

/-- Below 90 °C THROT clears (R463). -/
def State.cool (s : State) (d : Nat) : State :=
  let x := s.die d
  if x.throt && x.temp < 16 * 90 then (s.setDie d { x with throt := false }).retarget d else s

/-- A die has come to a temperature (R463): THROT follows, and when it reaches 110 °C the device is device-fatal. -/
def State.thermal (s : State) (d temp : Nat) : State :=
  let hot := decide (16 * 110 ≤ (s.die d).temp)
  let s := ((s.setTemp d temp).throttle d).cool d
  let t := (s.die d).temp
  if hot || t < 16 * 110 then s else (s.bore d 0x32 d 0xFFFF t 0).fatalFree 0

/-- THROTTLE_SET (R463). -/
def execThrottleSet (d temp : Nat) (s : State) : Host.Outcome State Fault Refusal := .next (s.thermal d temp)
/-- THROTTLE_CLEAR (R463). -/
def execThrottleClear (d temp : Nat) (s : State) : Host.Outcome State Fault Refusal := .next (s.thermal d temp)
/-- THERMAL_SHUTDOWN (R463). -/
def execThermalShutdown (d temp : Nat) (s : State) : Host.Outcome State Fault Refusal := .next (s.thermal d temp)

/-- Contexts that hold accepted work, saved gangs or live quarries (R461). -/
def State.workingCtxs (s : State) : List Nat :=
  (s.warps.map (·.ctx) ++ s.disp.gangs.map (·.ctx) ++ s.disp.launches.map (·.ctx) ++ s.quarries.map (·.ctx) ++
    (s.disp.queues.filter fun q => q.count != 0).map (·.ctx) ++
    (s.chans.filter fun c => !c.saved.isEmpty).map (·.ctx)).eraseDups

/-- Local memory once every base-die write already sent has been made and every dirty L2 sector has been written. -/
def State.settledMem (s : State) : List Host.Cell :=
  let sent := (List.range 12).foldl (fun m k =>
    ((s.pendingDie k).filter (·.write)).foldl maskedWrite m) s.mem
  s.slices.foldl (fun m p => p.2.lines.foldl (fun m l => (List.range 128).foldl (fun m i =>
    if bit l.dirty (i / 16) then cellWrite m (l.line * 128 + i) (l.data.getD i 0) else m) m) m) sent

/-- D3HOT_ENTER (R461): contexts that hold work end first; local memory, the bore log and the configuration are kept. -/
def execD3hotEnter (s : State) : Host.Outcome State Fault Refusal :=
  if s.regs.power != 0 then .next s
  else
    let s := s.landAll fun _ => true
    let s := s.workingCtxs.foldl (fun s c => s.endCtx c) s
    .next { s with
      mem := s.settledMem, cores := [], clusters := [], slices := [], mesh := [], ctxs := []
      hbm := s.hbm.map fun p => (p.1, { p.2 with queue := [], rows := [] })
      dies := s.dies.map fun p => (p.1, { p.2 with walk := [] })
      chans := s.chans.map fun (c : Chan) => { c with walk := [], begun := [], ents := [], saved := [], nsaved := 0 }
      env := { s.env with hostReqs := [], posted := [], came := [] }
      regs := { s.regs with power := 1 } }

/-- The record of a bit of R453 that is cleared: R459 gives it no TYPE, which is an open value (log entry 6). -/
def State.boreClear (s : State) (fn : Nat) : State :=
  { s with free := s.free + 1 }.bore (if fn = 34 then 0 else functionDie fn) ((Config.freeWord s.free).toNat % 65536)
    (if fn = 34 then 0 else functionUnit fn) 0xFFFF fn 0

/-- D3HOT_EXIT (R450, R453, R461): readiness starts again, with a record for every bit that clears. -/
def execD3hotExit (s : State) : Host.Outcome State Fault Refusal :=
  if s.regs.power != 1 then .next s
  else
    let bits := (List.range 34).filter s.isReady ++ (if s.regs.fail then [34] else [])
    let s := { s with
      dies := s.dies.map fun p => (p.1, { p.2 with clready := 0 })
      regs := { s.regs with power := 0, bootst := 0, rdyDie := 0, rdyStack := 0, rdyLink := 0, rdyHost := false,
                            fail := false, failed := [] } }
    .next (bits.foldl State.boreClear s)

/-- POWER_REMOVAL (R461): D3cold; nothing is kept. -/
def execPowerRemoval (s : State) : Host.Outcome State Fault Refusal :=
  let s := s.powerLost
  .next { s with regs := { s.regs with power := 2 } }

end Sys2Proof.Machine
end

