-- ==== Sys2Proof/Machine/Compare.lean ====
section
/-! DEFINITION. Integer compares and predicates (04 R93, R94). -/

namespace Sys2Proof.Machine

/-- ICMP_EQ (R94): Writes to a predicate whether A equals B, ANDed with TS. -/
def execIcmpEq (h : Hdr) (d a b : BitVec 7) (s : State) :
    Host.Outcome State Fault Refusal :=
  s.cmp h a.toNat b.toNat d.toNat [r1 a, r1 b, tsPred h] fun l => (op l 0 == op l 1 && op l 2 == 1, 0)

/-- ICMP_NE (R94): Predicate of A not equal to B. -/
def execIcmpNe (h : Hdr) (d a b : BitVec 7) (s : State) :
    Host.Outcome State Fault Refusal :=
  s.cmp h a.toNat b.toNat d.toNat [r1 a, r1 b, tsPred h] fun l => (op l 0 != op l 1 && op l 2 == 1, 0)

/-- ICMP_LT_S32 (R94): Predicate of signed A less than B. -/
def execIcmpLtS32 (h : Hdr) (d a b : BitVec 7) (s : State) :
    Host.Outcome State Fault Refusal :=
  s.cmp h a.toNat b.toNat d.toNat [r1 a, r1 b, tsPred h] fun l => (sval 32 (op l 0) < sval 32 (op l 1) && op l 2 == 1, 0)

/-- ICMP_LE_S32 (R94): Predicate of signed A at most B. -/
def execIcmpLeS32 (h : Hdr) (d a b : BitVec 7) (s : State) :
    Host.Outcome State Fault Refusal :=
  s.cmp h a.toNat b.toNat d.toNat [r1 a, r1 b, tsPred h] fun l => (sval 32 (op l 0) ≤ sval 32 (op l 1) && op l 2 == 1, 0)

/-- ICMP_LT_N32 (R94): Predicate of unsigned A less than B. -/
def execIcmpLtN32 (h : Hdr) (d a b : BitVec 7) (s : State) :
    Host.Outcome State Fault Refusal :=
  s.cmp h a.toNat b.toNat d.toNat [r1 a, r1 b, tsPred h] fun l => (op l 0 < op l 1 && op l 2 == 1, 0)

/-- ICMP_LE_N32 (R94): Predicate of unsigned A at most B. -/
def execIcmpLeN32 (h : Hdr) (d a b : BitVec 7) (s : State) :
    Host.Outcome State Fault Refusal :=
  s.cmp h a.toNat b.toNat d.toNat [r1 a, r1 b, tsPred h] fun l => (op l 0 ≤ op l 1 && op l 2 == 1, 0)

/-- PLOP (R94): Applies a truth table from IH to three predicates; needs a kind-01 prefix. -/
def execPlop (h : Hdr) (d a b : BitVec 7) (s : State) :
    Host.Outcome State Fault Refusal :=
  s.cmp h 0 0 d.toNat [.pred a.toNat, .pred b.toNat, tsPred h] fun l =>
    (bit h.ih (op l 0 + 2 * op l 1 + 4 * op l 2), 0)

/-- PMOV (R94): Copies one predicate to another. -/
def execPmov (h : Hdr) (d a _b : BitVec 7) (s : State) :
    Host.Outcome State Fault Refusal :=
  s.cmp h 0 0 d.toNat [.pred a.toNat] fun l => (op l 0 == 1, 0)

end Sys2Proof.Machine
end

