-- ==== Sys2Proof/Machine/Control.lean ====
section
/-! DEFINITION. Control transfer (04 R104 to R108, 08 R173, 20 R418), PATCH (03 R74, 20 R419) and the rejoin forms (07 R150, 08 R174, R175). -/

namespace Sys2Proof.Machine

/-- The groups a control transfer leaves (R147, R173): a participant goes to `target`, every other active thread to the
next instruction. -/
def transferGroups (c : Issue) (r : Warp) (parts : Mask) (target : Nat → Option DWord) : List (DWord × Mask) :=
  groupBy ((threads (r.slot c.slot).mask).filterMap fun t =>
    if has parts t then (target t).map fun p => (p, t) else some (c.npc, t))

/-- A control transfer (R17, R19, R105): it takes no effect when another word of its chain traps; targets that are no
packet starts trap; `post` is its other effect on the warp, made when a thread takes it. -/
def State.transfer (s : State) (h : Hdr) (a : Nat) (bad : Issue → Warp → Nat → Bool)
    (target : Issue → Warp → Nat → Option DWord) (post : Issue → Mask → Warp → Warp) :
    Host.Outcome State Fault Refusal :=
  match s.cur with
  | none => noWarp
  | some (c, w) =>
    if c.trap.isSome then .next (s.retire .split none)
    else
      let r := c.src w
      let parts := r.participants c.slot h
      let fails := maskWhere fun t => has parts t && bad c r t
      if fails != 0 then .next (s.trapWord c h (c.trapOf 1 fails 0 c.word.toNat (w.seq + 1)))
      else
        let w := w.markAlone c (markCodes h a 0) parts
        let w := if parts == 0 then w else post c parts w
        .next ((s.setWarp w).retire .split (some (transferGroups c r parts (target c r))))

/-- The target of BRA and CALL (R64, R105). -/
def braTarget (c : Issue) (h : Hdr) (disp : BitVec 24) : DWord := c.pkt + BitVec.ofInt 64 (12 * jDisp h disp)

/-- The target of a cb-relative transfer (R105). -/
def cbTarget (r : Warp) (a : BitVec 7) (t : Nat) : DWord := r.cb + (r.reg a.toNat t).setWidth 64

/-- R106: the link, the packet after the call's as an offset from cb. -/
def linkWrite (c : Issue) (_ : Mask) (w : Warp) : Warp := w.writeS 62 ((c.pkt + 12 - w.cb).setWidth 32)

/-- Has the warp a QYYIELD under way that gives the task back (17 R374)? -/
def Warp.yielding (w : Warp) (k : Task) : Bool :=
  w.accs.any fun a => has a.parts k.thread && match a.kind with
    | .shard (.giveBack _ id) => id == k.q
    | _ => false

/-- R107, R150: threads end, struck from every rejoin register; their tasks end (17 R374), but for those that an earlier
QYYIELD is giving back. -/
def exitThreads (_ : Issue) (m : Mask) (w : Warp) : Warp :=
  { w with exited := w.exited ||| m, rj := w.rj.map fun r => r.strike m, lastIns := { w.lastIns with parked := 0 },
           tasks := w.tasks.filter fun k => !has m k.thread || w.yielding k }

/-- Is thread `t`'s offset not a packet start (R105)? -/
def offPacket (a : BitVec 7) (_ : Issue) (r : Warp) (t : Nat) : Bool := (r.reg a.toNat t).toNat % 12 != 0

/-- BRA (R105). -/
def execBra (h : Hdr) (disp : BitVec 24) (s : State) : Host.Outcome State Fault Refusal :=
  s.transfer h 0 (fun _ _ _ => false) (fun c _ _ => some (braTarget c h disp)) fun _ _ w => w

/-- CALL (R105, R106). -/
def execCall (h : Hdr) (disp : BitVec 24) (s : State) : Host.Outcome State Fault Refusal :=
  s.transfer h 0 (fun _ _ _ => false) (fun c _ _ => some (braTarget c h disp)) linkWrite

/-- BRX (R105). -/
def execBrx (h : Hdr) (_d a _b : BitVec 7) (s : State) : Host.Outcome State Fault Refusal :=
  s.transfer h a.toNat (offPacket a) (fun _ r t => some (cbTarget r a t)) fun _ _ w => w

/-- CALLX (R105, R106): A is read before s62 is written. -/
def execCallx (h : Hdr) (_d a _b : BitVec 7) (s : State) : Host.Outcome State Fault Refusal :=
  s.transfer h a.toNat (offPacket a) (fun _ r t => some (cbTarget r a t)) linkWrite

/-- RET (R105). -/
def execRet (h : Hdr) (_d a _b : BitVec 7) (s : State) : Host.Outcome State Fault Refusal :=
  s.transfer h a.toNat (offPacket a) (fun _ r t => some (cbTarget r a t)) fun _ _ w => w

/-- EXIT (R107). -/
def execExit (h : Hdr) (_d _a _b : BitVec 7) (s : State) : Host.Outcome State Fault Refusal :=
  s.transfer h 0 (fun _ _ _ => false) (fun _ _ _ => none) exitThreads

/-- NOP (R108). -/
def execNop (h : Hdr) (_d _a _b : BitVec 7) (s : State) : Host.Outcome State Fault Refusal :=
  match s.cur with
  | none => noWarp
  | some _ => .next (s.endWord h .no)

/-- TRMP (20 R418): the packet whose number from cb is IH and DISP together. -/
def execTrmp (h : Hdr) (disp : BitVec 24) (s : State) : Host.Outcome State Fault Refusal :=
  s.transfer h 0 (fun _ _ _ => false)
    (fun _ r _ => some (r.cb + BitVec.ofNat 64 (12 * (h.ih * 2 ^ 24 + disp.toNat)))) fun _ _ w => w

/-- PATCH (R74, R419): performs nothing; the words it covers are passed over. -/
def execPatch (h : Hdr) (_n : BitVec 2) (_tool : BitVec 22) (s : State) : Host.Outcome State Fault Refusal :=
  match s.cur with
  | none => noWarp
  | some _ => .next (s.endWord h .no)

/-! Rejoin registers. -/

/-- The rejoin register a code names. -/
def Warp.rjk (w : Warp) (k : Nat) : Rejoin := w.rj.getD k Rejoin.none

/-- RJENR (R174): enrol the participants. -/
def execRjenr (h : Hdr) (_d a _b : BitVec 7) (s : State) : Host.Outcome State Fault Refusal :=
  match s.cur with
  | none => noWarp
  | some (c, w) =>
    let parts := (c.src w).participants c.slot h
    let r := w.rjk a.toNat
    .next ((s.setWarp { w with rj := w.rj.set a.toNat { r with en := r.en ||| parts } }).endWord h .after)

/-- RJPARK (R174): the participants that are enrolled park; RP is the packet after this one when none had arrived. Where
an earlier word of the chain has trapped they park too (R19), but for the handler threads, which stay at the chain (log
entry 39). -/
def execRjpark (h : Hdr) (_d a _b : BitVec 7) (s : State) : Host.Outcome State Fault Refusal :=
  match s.cur with
  | none => noWarp
  | some (c, w) =>
    let sl := w.slot c.slot
    let stay := match c.trap with
      | some t => handlerThreads sl t
      | none => 0
    let r := w.rjk a.toNat
    let p := (c.src w).participants c.slot h &&& r.en &&& ~~~stay
    let rest := sl.mask &&& ~~~p
    let r' : Rejoin := { r with ar := r.ar ||| p, rp := if r.ar == 0 && p != 0 then c.pkt + 12 else r.rp }
    let w := { w with rj := w.rj.set a.toNat r', lastIns := { w.lastIns with parked := p } }
    let w := if c.trap.isSome then w.setSlot c.slot { sl with mask := rest } else w
    .next ((s.setWarp w).retire .after (some (if rest == 0 then [] else [(c.npc, rest)])))

/-- RJSTRK (R174): strike the participants. -/
def execRjstrk (h : Hdr) (_d a _b : BitVec 7) (s : State) : Host.Outcome State Fault Refusal :=
  match s.cur with
  | none => noWarp
  | some (c, w) =>
    let parts := (c.src w).participants c.slot h
    .next ((s.setWarp { w with rj := w.rj.set a.toNat ((w.rjk a.toNat).strike parts) }).endWord h .after)

/-- RJRD (R174). -/
def execRjrd (h : Hdr) (d a _b : BitVec 7) (s : State) : Host.Outcome State Fault Refusal :=
  s.const h d.toNat 1 fun _ r => (r.rjk a.toNat).en.toNat

/-- Threads parked on any rejoin register. -/
def Warp.parkedMask (w : Warp) : Mask := w.rj.foldl (fun m r => m ||| r.ar) 0

/-- WMASK (R175). -/
def execWmask (h : Hdr) (d a _b : BitVec 7) (s : State) : Host.Outcome State Fault Refusal :=
  s.const h d.toNat 1 fun c r =>
    (match a.toNat with
      | 0 => (r.slot c.slot).mask
      | 1 => (r.slot (1 - c.slot)).mask
      | 2 => r.live
      | _ => r.parkedMask).toNat

end Sys2Proof.Machine
end

