-- ==== Sys2Proof/Machine/Float.lean ====
section
/-! DEFINITION. FP32, FP64 and packed 16-bit arithmetic and compares (05 R109 to R118, R121). -/

namespace Sys2Proof.Machine

/-- A form of R114 or R121: operands of `n` registers each, result of `n` registers. -/
def State.fp (s : State) (h : Hdr) (a b d n : Nat) (srcs : List Src) (f : Rm → Bool → Bool → List Nat → Nat × Nat) :
    Host.Outcome State Fault Refusal :=
  s.alu .plain h a b d n srcs (f (Rm.of h.ext.rm.toNat) h.ext.sat h.ext.ftz)

/-- FSCL (R114): A × 2^B, one rounding. -/
def fpScale (f : Fp) (mode : Rm) (sat ftz : Bool) (a b : Nat) : Nat × Nat :=
  match ftzIn f ftz (f.decode a) with
  | .nan sig => (f.cnan, if sig then fIV else 0)
  | .inf n => roundTo f mode sat ftz (.inf n)
  | .fin n m x => if m = 0 then (f.signed n 0, 0) else roundTo f mode sat ftz (.num n m (x + sval 32 b) false)

/-- FMIN and FMAX (R115): `less` orders -0 below +0. -/
def fvLess (a b : Fv) : Bool := fvLt a b || (a.isZero && b.isZero && a.neg && !b.neg)
def fpMinMax (mx ftz : Bool) (a b : Nat) : Nat × Nat :=
  let code := fun (c : Nat) =>
    match Fp.fp32.decode c with
    | .fin n m _ => if ftz && m < 2 ^ 23 then Fp.fp32.signed n 0 else c
    | _ => c
  let va := Fp.fp32.decode a
  let vb := Fp.fp32.decode b
  let fl := if va.snan || vb.snan then fIV else 0
  if va.isNan && vb.isNan then (Fp.fp32.cnan, fl)
  else if va.isNan then (code b, fl)
  else if vb.isNan then (code a, fl)
  else
    let va := Fp.fp32.decode (code a)
    let vb := Fp.fp32.decode (code b)
    let takeB := if mx then fvLess va vb else fvLess vb va
    (if takeB then code b else code a, fl)

/-- FRND (R116). -/
def fpRound (mode : Rm) (ftz : Bool) (a : Nat) : Nat × Nat :=
  match ftzIn .fp32 ftz (Fp.fp32.decode a) with
  | .nan sig => (Fp.fp32.cnan, if sig then fIV else 0)
  | .inf n => (Fp.fp32.inf n, 0)
  | .fin n m x =>
    let v := (roundInt mode n m x).1
    if v = 0 then (Fp.fp32.signed n 0, 0)
    else ((roundTo .fp32 .rn false false (.num n v.natAbs 0 false)).1, 0)

/-- FCLASS (R117). -/
def fpClass (a : Nat) : Nat :=
  match Fp.fp32.decode a with
  | .nan sig => if sig then 256 else 512
  | .inf n => if n then 1 else 128
  | .fin n m _ =>
    if m = 0 then (if n then 8 else 16)
    else if m < 2 ^ 23 then (if n then 4 else 32)
    else if n then 2 else 64

/-- A condition of FCMP (R118): the code of F. -/
def fpCond (cond : Nat) (f : Fp) (ftz : Bool) (a b : Nat) : Bool × Nat :=
  let a := ftzIn f ftz (f.decode a)
  let b := ftzIn f ftz (f.decode b)
  let un := a.isNan || b.isNan
  let iv := if a.snan || b.snan || (un && (cond == 2 || cond == 3)) then fIV else 0
  let lt := fvLt a b
  let gt := fvLt b a
  let eq := !lt && !gt
  (match cond with
    | 0 => !un && eq
    | 1 => !un && !eq
    | 2 => !un && lt
    | 3 => !un && !gt
    | 4 => un
    | 5 => un || !eq
    | 6 => un || lt
    | _ => un || !gt, iv)

/-- An element-wise form on two 16-bit elements (R38, R121). -/
def halves (f : Nat → Nat × Nat) : Nat × Nat :=
  let lo := f 0
  let hi := f 1
  (lo.1 + 65536 * hi.1, lo.2 ||| hi.2)
def half (x i : Nat) : Nat := fld x (16 * i) 16

-- forms below

/-- FADD (R114): Adds two FP32 values with one rounding. -/
def execFadd (h : Hdr) (d a b : BitVec 7) (s : State) :
    Host.Outcome State Fault Refusal :=
  s.fp h a.toNat b.toNat d.toNat 1 [r1 a, r1 b] fun m sat ftz l =>
    fpAdd .fp32 m sat ftz (op l 0) (op l 1)

/-- FMUL (R114): Multiplies two FP32 values with one rounding. -/
def execFmul (h : Hdr) (d a b : BitVec 7) (s : State) :
    Host.Outcome State Fault Refusal :=
  s.fp h a.toNat b.toNat d.toNat 1 [r1 a, r1 b] fun m sat ftz l =>
    fpMul .fp32 m sat ftz (op l 0) (op l 1)

/-- FFMA (R114): Computes A times B plus TS in FP32 with one rounding. -/
def execFfma (h : Hdr) (d a b : BitVec 7) (s : State) :
    Host.Outcome State Fault Refusal :=
  s.fp h a.toNat b.toNat d.toNat 1 [r1 a, r1 b, tsReg h 1] fun m sat ftz l =>
    fpFma .fp32 m sat ftz (op l 0) (op l 1) (op l 2)

/-- DADD (R114): Adds two FP64 pairs with one rounding. -/
def execDadd (h : Hdr) (d a b : BitVec 7) (s : State) :
    Host.Outcome State Fault Refusal :=
  s.fp h a.toNat b.toNat d.toNat 2 [r2 a, r2 b] fun m sat ftz l =>
    fpAdd .fp64 m sat ftz (op l 0) (op l 1)

/-- DMUL (R114): Multiplies two FP64 pairs with one rounding. -/
def execDmul (h : Hdr) (d a b : BitVec 7) (s : State) :
    Host.Outcome State Fault Refusal :=
  s.fp h a.toNat b.toNat d.toNat 2 [r2 a, r2 b] fun m sat ftz l =>
    fpMul .fp64 m sat ftz (op l 0) (op l 1)

/-- DFMA (R114): Computes A times B plus TS in FP64 with one rounding. -/
def execDfma (h : Hdr) (d a b : BitVec 7) (s : State) :
    Host.Outcome State Fault Refusal :=
  s.fp h a.toNat b.toNat d.toNat 2 [r2 a, r2 b, tsReg h 2] fun m sat ftz l =>
    fpFma .fp64 m sat ftz (op l 0) (op l 1) (op l 2)

/-- FSCL_F32 (R114): Scales an FP32 value by 2 to the power B with one rounding. -/
def execFsclF32 (h : Hdr) (d a b : BitVec 7) (s : State) :
    Host.Outcome State Fault Refusal :=
  s.fp h a.toNat b.toNat d.toNat 1 [r1 a, r1 b] fun m sat ftz l =>
    fpScale .fp32 m sat ftz (op l 0) (op l 1)

/-- FSCL_F64 (R114): Scales an FP64 pair by 2 to the power B with one rounding. -/
def execFsclF64 (h : Hdr) (d a b : BitVec 7) (s : State) :
    Host.Outcome State Fault Refusal :=
  s.fp h a.toNat b.toNat d.toNat 2 [r2 a, r1 b] fun m sat ftz l =>
    fpScale .fp64 m sat ftz (op l 0) (op l 1)

/-- FMIN (R115): Returns the smaller FP32 operand, ordering -0 below +0. -/
def execFmin (h : Hdr) (d a b : BitVec 7) (s : State) :
    Host.Outcome State Fault Refusal :=
  s.fp h a.toNat b.toNat d.toNat 1 [r1 a, r1 b] fun _ _ ftz l => fpMinMax false ftz (op l 0) (op l 1)

/-- FMAX (R115): Returns the larger FP32 operand. -/
def execFmax (h : Hdr) (d a b : BitVec 7) (s : State) :
    Host.Outcome State Fault Refusal :=
  s.fp h a.toNat b.toNat d.toNat 1 [r1 a, r1 b] fun _ _ ftz l => fpMinMax true ftz (op l 0) (op l 1)

/-- FRND (R116): Rounds an FP32 value to an integral value in the selected direction. -/
def execFrnd (h : Hdr) (d a _b : BitVec 7) (s : State) :
    Host.Outcome State Fault Refusal :=
  s.fp h a.toNat 0 d.toNat 1 [r1 a] fun m _ ftz l => fpRound m ftz (op l 0)

/-- FCLASS (R117): Writes the one-hot class mask of an FP32 operand. -/
def execFclass (h : Hdr) (d a _b : BitVec 7) (s : State) :
    Host.Outcome State Fault Refusal :=
  s.alu0 .plain h a.toNat 0 d.toNat 1 [r1 a] fun l => fpClass (op l 0)

/-- FCMP_EQ (R118): FP32 compare: ordered and equal. -/
def execFcmpEq (h : Hdr) (d a b : BitVec 7) (s : State) :
    Host.Outcome State Fault Refusal :=
  s.cmp h a.toNat b.toNat d.toNat [r1 a, r1 b, tsPred h] fun l =>
    let r := fpCond 0 .fp32 h.ext.ftz (op l 0) (op l 1)
    (r.1 && op l 2 == 1, r.2)

/-- FCMP_EQ_F64 (R118): FP64 compare: ordered and equal. -/
def execFcmpEqF64 (h : Hdr) (d a b : BitVec 7) (s : State) :
    Host.Outcome State Fault Refusal :=
  s.cmp h a.toNat b.toNat d.toNat [r2 a, r2 b, tsPred h] fun l =>
    let r := fpCond 0 .fp64 h.ext.ftz (op l 0) (op l 1)
    (r.1 && op l 2 == 1, r.2)

/-- FCMP_NE (R118): FP32 compare: ordered and not equal. -/
def execFcmpNe (h : Hdr) (d a b : BitVec 7) (s : State) :
    Host.Outcome State Fault Refusal :=
  s.cmp h a.toNat b.toNat d.toNat [r1 a, r1 b, tsPred h] fun l =>
    let r := fpCond 1 .fp32 h.ext.ftz (op l 0) (op l 1)
    (r.1 && op l 2 == 1, r.2)

/-- FCMP_NE_F64 (R118): FP64 compare: ordered and not equal. -/
def execFcmpNeF64 (h : Hdr) (d a b : BitVec 7) (s : State) :
    Host.Outcome State Fault Refusal :=
  s.cmp h a.toNat b.toNat d.toNat [r2 a, r2 b, tsPred h] fun l =>
    let r := fpCond 1 .fp64 h.ext.ftz (op l 0) (op l 1)
    (r.1 && op l 2 == 1, r.2)

/-- FCMP_LT (R118): FP32 compare: ordered and less, IV on any NaN. -/
def execFcmpLt (h : Hdr) (d a b : BitVec 7) (s : State) :
    Host.Outcome State Fault Refusal :=
  s.cmp h a.toNat b.toNat d.toNat [r1 a, r1 b, tsPred h] fun l =>
    let r := fpCond 2 .fp32 h.ext.ftz (op l 0) (op l 1)
    (r.1 && op l 2 == 1, r.2)

/-- FCMP_LT_F64 (R118): FP64 compare: ordered and less. -/
def execFcmpLtF64 (h : Hdr) (d a b : BitVec 7) (s : State) :
    Host.Outcome State Fault Refusal :=
  s.cmp h a.toNat b.toNat d.toNat [r2 a, r2 b, tsPred h] fun l =>
    let r := fpCond 2 .fp64 h.ext.ftz (op l 0) (op l 1)
    (r.1 && op l 2 == 1, r.2)

/-- FCMP_LE (R118): FP32 compare: ordered and at most, IV on any NaN. -/
def execFcmpLe (h : Hdr) (d a b : BitVec 7) (s : State) :
    Host.Outcome State Fault Refusal :=
  s.cmp h a.toNat b.toNat d.toNat [r1 a, r1 b, tsPred h] fun l =>
    let r := fpCond 3 .fp32 h.ext.ftz (op l 0) (op l 1)
    (r.1 && op l 2 == 1, r.2)

/-- FCMP_LE_F64 (R118): FP64 compare: ordered and at most. -/
def execFcmpLeF64 (h : Hdr) (d a b : BitVec 7) (s : State) :
    Host.Outcome State Fault Refusal :=
  s.cmp h a.toNat b.toNat d.toNat [r2 a, r2 b, tsPred h] fun l =>
    let r := fpCond 3 .fp64 h.ext.ftz (op l 0) (op l 1)
    (r.1 && op l 2 == 1, r.2)

/-- FCMP_UN (R118): FP32 compare: unordered. -/
def execFcmpUn (h : Hdr) (d a b : BitVec 7) (s : State) :
    Host.Outcome State Fault Refusal :=
  s.cmp h a.toNat b.toNat d.toNat [r1 a, r1 b, tsPred h] fun l =>
    let r := fpCond 4 .fp32 h.ext.ftz (op l 0) (op l 1)
    (r.1 && op l 2 == 1, r.2)

/-- FCMP_UN_F64 (R118): FP64 compare: unordered. -/
def execFcmpUnF64 (h : Hdr) (d a b : BitVec 7) (s : State) :
    Host.Outcome State Fault Refusal :=
  s.cmp h a.toNat b.toNat d.toNat [r2 a, r2 b, tsPred h] fun l =>
    let r := fpCond 4 .fp64 h.ext.ftz (op l 0) (op l 1)
    (r.1 && op l 2 == 1, r.2)

/-- FCMP_NEU (R118): FP32 compare: unordered or not equal. -/
def execFcmpNeu (h : Hdr) (d a b : BitVec 7) (s : State) :
    Host.Outcome State Fault Refusal :=
  s.cmp h a.toNat b.toNat d.toNat [r1 a, r1 b, tsPred h] fun l =>
    let r := fpCond 5 .fp32 h.ext.ftz (op l 0) (op l 1)
    (r.1 && op l 2 == 1, r.2)

/-- FCMP_NEU_F64 (R118): FP64 compare: unordered or not equal. -/
def execFcmpNeuF64 (h : Hdr) (d a b : BitVec 7) (s : State) :
    Host.Outcome State Fault Refusal :=
  s.cmp h a.toNat b.toNat d.toNat [r2 a, r2 b, tsPred h] fun l =>
    let r := fpCond 5 .fp64 h.ext.ftz (op l 0) (op l 1)
    (r.1 && op l 2 == 1, r.2)

/-- FCMP_LTU (R118): FP32 compare: unordered or less. -/
def execFcmpLtu (h : Hdr) (d a b : BitVec 7) (s : State) :
    Host.Outcome State Fault Refusal :=
  s.cmp h a.toNat b.toNat d.toNat [r1 a, r1 b, tsPred h] fun l =>
    let r := fpCond 6 .fp32 h.ext.ftz (op l 0) (op l 1)
    (r.1 && op l 2 == 1, r.2)

/-- FCMP_LTU_F64 (R118): FP64 compare: unordered or less. -/
def execFcmpLtuF64 (h : Hdr) (d a b : BitVec 7) (s : State) :
    Host.Outcome State Fault Refusal :=
  s.cmp h a.toNat b.toNat d.toNat [r2 a, r2 b, tsPred h] fun l =>
    let r := fpCond 6 .fp64 h.ext.ftz (op l 0) (op l 1)
    (r.1 && op l 2 == 1, r.2)

/-- FCMP_LEU (R118): FP32 compare: unordered or at most. -/
def execFcmpLeu (h : Hdr) (d a b : BitVec 7) (s : State) :
    Host.Outcome State Fault Refusal :=
  s.cmp h a.toNat b.toNat d.toNat [r1 a, r1 b, tsPred h] fun l =>
    let r := fpCond 7 .fp32 h.ext.ftz (op l 0) (op l 1)
    (r.1 && op l 2 == 1, r.2)

/-- FCMP_LEU_F64 (R118): FP64 compare: unordered or at most. -/
def execFcmpLeuF64 (h : Hdr) (d a b : BitVec 7) (s : State) :
    Host.Outcome State Fault Refusal :=
  s.cmp h a.toNat b.toNat d.toNat [r2 a, r2 b, tsPred h] fun l =>
    let r := fpCond 7 .fp64 h.ext.ftz (op l 0) (op l 1)
    (r.1 && op l 2 == 1, r.2)

/-- HADD2 (R121): Adds two packed FP16 pairs element by element. -/
def execHadd2 (h : Hdr) (d a b : BitVec 7) (s : State) :
    Host.Outcome State Fault Refusal :=
  s.fp h a.toNat b.toNat d.toNat 1 [r1 a, r1 b] fun m sat ftz l =>
    halves fun i => fpAdd .fp16 m sat ftz (half (op l 0) i) (half (op l 1) i)

/-- HMUL2 (R121): Multiplies two packed FP16 pairs element by element. -/
def execHmul2 (h : Hdr) (d a b : BitVec 7) (s : State) :
    Host.Outcome State Fault Refusal :=
  s.fp h a.toNat b.toNat d.toNat 1 [r1 a, r1 b] fun m sat ftz l =>
    halves fun i => fpMul .fp16 m sat ftz (half (op l 0) i) (half (op l 1) i)

/-- HFMA2 (R121): Fused multiply-add on packed FP16 pairs. -/
def execHfma2 (h : Hdr) (d a b : BitVec 7) (s : State) :
    Host.Outcome State Fault Refusal :=
  s.fp h a.toNat b.toNat d.toNat 1 [r1 a, r1 b, tsReg h 1] fun m sat ftz l =>
    halves fun i => fpFma .fp16 m sat ftz (half (op l 0) i) (half (op l 1) i) (half (op l 2) i)

/-- BFMA2 (R121): Fused multiply-add on packed BF16 pairs. -/
def execBfma2 (h : Hdr) (d a b : BitVec 7) (s : State) :
    Host.Outcome State Fault Refusal :=
  s.fp h a.toNat b.toNat d.toNat 1 [r1 a, r1 b, tsReg h 1] fun m sat ftz l =>
    halves fun i => fpFma .bf16 m sat ftz (half (op l 0) i) (half (op l 1) i) (half (op l 2) i)

end Sys2Proof.Machine
end

