-- ==== Sys2Proof/Machine/Convert.lean ====
section
/-! DEFINITION. Conversion, block packing and dot products (05 R122 to R129). -/

namespace Sys2Proof.Machine

/-- CVT (R122): formats are IMM[4:0] and IMM[9:5]. -/
def fpConvert (imm : Nat) (mode : Rm) (sat ftz : Bool) (a : Nat) : Nat × Nat :=
  match numFmt (imm % 32), numFmt (fld imm 5 5) with
  | some dst, some src => convert dst src mode sat ftz a
  | _, _ => (0, 0)

/-- The block format of PACK and UNPK and the block length (R125). -/
def blockFmt (imm : Nat) : Fp :=
  match imm % 32 with
  | 4 => .e4m3 | 5 => .e5m2 | 6 => .e3m2 | 7 => .e2m3 | _ => .e2m1
def blockLen (imm : Nat) : Nat := if bit imm 5 then 32 else 16

/-- The threads of block `b` (R127). -/
def blockThreads (len b : Nat) : List Nat := (List.range len).map (· + len * b)

/-- PACK of one block (R127): for each participant its element word and outlier word, and the block's flags. -/
def packBlock (imm : Nat) (mode : Rm) (parts : Mask) (x : Nat → Nat) (b : Nat) : List (Nat × Nat × Nat) × Nat :=
  let ts := blockThreads (blockLen imm) b
  let e := encodeBlock (blockFmt imm) (fld imm 6 3) mode
    (ts.map fun t => if has parts t then Fp.fp32.decode (x t) else .fin false 0 0)
  let ps := ts.filter (has parts)
  ((ps.zipIdx).map fun p =>
    let word := e.codes.getD (p.1 - (ts.headD 0)) 0 + 65536 * e.hdr
    let out := if p.2 < e.outs.length then e.outs.getD p.2 0 + 65536 * p.2 + 2 ^ 19 else 0
    (p.1, word, out), e.flags)

/-- PACK (R127): blocks with a participant are encoded, and each participant takes its two words. -/
def State.pack (s : State) (h : Hdr) (d a : BitVec 7) (imm : BitVec 10) : Host.Outcome State Fault Refusal :=
  match s.cur with
  | none => noWarp
  | some (c, w) =>
    let r := c.src w
    let parts := r.participants c.slot h
    let k := imm.toNat
    let blocks := (List.range (32 / blockLen k)).map fun b =>
      packBlock k (Rm.of h.ext.rm.toNat) parts (fun t => (r.reg a.toNat t).toNat) b
    let res := blocks.flatMap (·.1)
    let val := fun t => match res.find? fun p => p.1 == t with | some p => p.2.1 + 2 ^ 32 * p.2.2 | none => 0
    let w := (w.markAlone c (markCodes h a.toNat 0) parts).writeWide d.toNat .gen parts 2 ((List.range 32).map val)
    let c := c.addFlags r (blocks.flatMap fun b => b.1.map fun p => (p.1, b.2))
    .next ({ s.setWarp w with issue := some c }.endWord h .no)

/-- UNPK of one block (R128): `none` when the block is ill-formed (R55), else the values of its elements. -/
def unpkBlock (imm : Nat) (el out : Nat → Nat) (b : Nat) : Option (List Fv) :=
  let ts := blockThreads (blockLen imm) b
  let hdr := el (ts.headD 0) / 65536
  let codes := ts.map fun t => el t % 256
  let f := blockFmt imm
  if illFormed f hdr codes then none
  else some (blockVals f hdr (((List.range 7).map fun j => out (ts.headD 0 + j) % 65536)) codes)

/-- UNPK (R128). With `.FTZ` a subnormal BF16 outlier keeps its value, and a tiny result is flushed (log entry 42). -/
def State.unpk (s : State) (h : Hdr) (d a : BitVec 7) (imm : BitVec 10) : Host.Outcome State Fault Refusal :=
  match s.cur with
  | none => noWarp
  | some (c, w) =>
    let r := c.src w
    let parts := r.participants c.slot h
    let k := imm.toNat
    let len := blockLen k
    let el := fun t => if has r.exited t then 0 else (r.reg a.toNat t).toNat
    let out := fun t => if has r.exited t then 0 else (tsReg h 1).val r t
    let blocks := (List.range (32 / len)).map (unpkBlock k el out)
    let bad := maskOf (((List.range (32 / len)).filter fun b => (blocks.getD b none).isNone).map (· * len))
    if parts == 0 then .next (s.endWord h .no)
    else if bad != 0 then .next (s.trapWord c h (c.trapOf 8 bad 0 0 (w.seq + 1)))
    else
      let res := fun t =>
        match ((blocks.getD (t / len) none).getD []).getD (t % len) (.fin false 0 0) with
        | .nan sig => (Fp.fp32.cnan, if sig then fIV else 0)
        | v => roundTo .fp32 (Rm.of h.ext.rm.toNat) h.ext.sat h.ext.ftz v.ex
      let w := (w.markAlone c (markCodes h a.toNat 0) parts).writeWide d.toNat .gen parts 1
        ((List.range 32).map fun t => (res t).1)
      let c := c.addFlags r ((threads parts).map fun t => (t, (res t).2))
      .next ({ s.setWarp w with issue := some c }.endWord h .no)

/-- The element values of a dot product's operand (R38, R124): E2M1's escape counts as a signalling NaN. -/
def dotElems (f : Fp) (n w x : Nat) : List Fv :=
  (List.range n).map fun i =>
    let c := fld x (w * i) w
    if f == .e2m1 && c == 8 then .nan true else f.decode c

/-- A dot product of floating-point elements (R57, R59, R124). -/
def dotFp (f : Fp) (n w : Nat) (mode : Rm) (a b c : Nat) : Nat × Nat :=
  let acc := Fp.fp32.decode c
  let r := dotRound .fp32 mode acc ((dotElems f n w a).zip (dotElems f n w b))
  (r.1, if acc.snan then r.2 ||| fIV else r.2)

/-- A dot product of integer elements (R58, R124). -/
def dotInt (n w : Nat) (sa sb : Bool) (a b c : Nat) : Nat :=
  wrapI 32 ((List.range n).foldl (fun (t : Int) i => t + intVal sa w (fld a (w * i) w) * intVal sb w (fld b (w * i) w))
    (sval 32 c))

-- forms below

/-- CVT (R122): Converts one value between the format codes given in the immediate. -/
def execCvt (h : Hdr) (d a : BitVec 7) (imm : BitVec 10) (s : State) :
    Host.Outcome State Fault Refusal :=
  s.alu .plain h a.toNat 0 d.toNat (numRegs (imm.toNat % 32)) [.reg a.toNat (numRegs (fld imm.toNat 5 5))]
    fun l => fpConvert imm.toNat (Rm.of h.ext.rm.toNat) h.ext.sat h.ext.ftz (op l 0)

/-- PACK (R127): Encodes the participants' FP32 values into blocks and writes element and outlier words. -/
def execPack (h : Hdr) (d a : BitVec 7) (imm : BitVec 10) (s : State) :
    Host.Outcome State Fault Refusal :=
  s.pack h d a imm

/-- UNPK (R128): Decodes block elements across the warp into FP32, faulting on an ill-formed block. -/
def execUnpk (h : Hdr) (d a : BitVec 7) (imm : BitVec 10) (s : State) :
    Host.Outcome State Fault Refusal :=
  s.unpk h d a imm

/-- DP4_E4M3 (R124): Four-element E4M3 dot product added exactly to an FP32 addend. -/
def execDp4E4m3 (h : Hdr) (d a b : BitVec 7) (s : State) :
    Host.Outcome State Fault Refusal :=
  s.fp h a.toNat b.toNat d.toNat 1 [r1 a, r1 b, tsReg h 1] fun m _ _ l =>
    dotFp .e4m3 4 8 m (op l 0) (op l 1) (op l 2)

/-- DP4_E5M2 (R124): Four-element E5M2 dot product into FP32. -/
def execDp4E5m2 (h : Hdr) (d a b : BitVec 7) (s : State) :
    Host.Outcome State Fault Refusal :=
  s.fp h a.toNat b.toNat d.toNat 1 [r1 a, r1 b, tsReg h 1] fun m _ _ l =>
    dotFp .e5m2 4 8 m (op l 0) (op l 1) (op l 2)

/-- DP4_E3M2 (R124): Four-element E3M2 dot product into FP32. -/
def execDp4E3m2 (h : Hdr) (d a b : BitVec 7) (s : State) :
    Host.Outcome State Fault Refusal :=
  s.fp h a.toNat b.toNat d.toNat 1 [r1 a, r1 b, tsReg h 1] fun m _ _ l =>
    dotFp .e3m2 4 8 m (op l 0) (op l 1) (op l 2)

/-- DP4_E2M3 (R124): Four-element E2M3 dot product into FP32. -/
def execDp4E2m3 (h : Hdr) (d a b : BitVec 7) (s : State) :
    Host.Outcome State Fault Refusal :=
  s.fp h a.toNat b.toNat d.toNat 1 [r1 a, r1 b, tsReg h 1] fun m _ _ l =>
    dotFp .e2m3 4 8 m (op l 0) (op l 1) (op l 2)

/-- DP8_E2M1 (R124): Eight-element E2M1 dot product into FP32. -/
def execDp8E2m1 (h : Hdr) (d a b : BitVec 7) (s : State) :
    Host.Outcome State Fault Refusal :=
  s.fp h a.toNat b.toNat d.toNat 1 [r1 a, r1 b, tsReg h 1] fun m _ _ l =>
    dotFp .e2m1 8 4 m (op l 0) (op l 1) (op l 2)

/-- DP4_S8 (R124): Four-element S8 dot product into S32. -/
def execDp4S8 (h : Hdr) (d a b : BitVec 7) (s : State) :
    Host.Outcome State Fault Refusal :=
  s.alu0 .plain h a.toNat b.toNat d.toNat 1 [r1 a, r1 b, tsReg h 1] fun l =>
    dotInt 4 8 true true (op l 0) (op l 1) (op l 2)

/-- DP4_N8 (R124): Four-element N8 dot product into S32. -/
def execDp4N8 (h : Hdr) (d a b : BitVec 7) (s : State) :
    Host.Outcome State Fault Refusal :=
  s.alu0 .plain h a.toNat b.toNat d.toNat 1 [r1 a, r1 b, tsReg h 1] fun l =>
    dotInt 4 8 false false (op l 0) (op l 1) (op l 2)

/-- DP4_S8N8 (R124): Four-element S8 by N8 dot product into S32. -/
def execDp4S8n8 (h : Hdr) (d a b : BitVec 7) (s : State) :
    Host.Outcome State Fault Refusal :=
  s.alu0 .plain h a.toNat b.toNat d.toNat 1 [r1 a, r1 b, tsReg h 1] fun l =>
    dotInt 4 8 true false (op l 0) (op l 1) (op l 2)

/-- DP8_S4 (R124): Eight-element S4 dot product into S32. -/
def execDp8S4 (h : Hdr) (d a b : BitVec 7) (s : State) :
    Host.Outcome State Fault Refusal :=
  s.alu0 .plain h a.toNat b.toNat d.toNat 1 [r1 a, r1 b, tsReg h 1] fun l =>
    dotInt 8 4 true true (op l 0) (op l 1) (op l 2)

/-- DP8_N4 (R124): Eight-element N4 dot product into S32. -/
def execDp8N4 (h : Hdr) (d a b : BitVec 7) (s : State) :
    Host.Outcome State Fault Refusal :=
  s.alu0 .plain h a.toNat b.toNat d.toNat 1 [r1 a, r1 b, tsReg h 1] fun l =>
    dotInt 8 4 false false (op l 0) (op l 1) (op l 2)

/-- DP8_S4N4 (R124): Eight-element S4 by N4 dot product into S32. -/
def execDp8S4n4 (h : Hdr) (d a b : BitVec 7) (s : State) :
    Host.Outcome State Fault Refusal :=
  s.alu0 .plain h a.toNat b.toNat d.toNat 1 [r1 a, r1 b, tsReg h 1] fun l =>
    dotInt 8 4 true false (op l 0) (op l 1) (op l 2)

end Sys2Proof.Machine
end

