-- ==== Sys2Proof/Machine/Direct.lean ====
section
/-! DEFINITION. Direct accesses (11 R248 to R253). -/

namespace Sys2Proof.Machine

/-- LD.DIR and ST.DIR up to the access (R249): alignment natural to the size. -/
def State.dirForm (s : State) (h : Hdr) (a b : BitVec 7) (write : Bool) (data : Warp → Nat → List Byte)
    (go : Issue → Warp → Mask → Nat → List Span → Warp) : Host.Outcome State Fault Refusal :=
  match s.cur with
  | none => noWarp
  | some (c, w) =>
    let r := c.src w
    let parts := r.participants c.slot h
    let size := 4 * dirRegs b
    let adr := fun t => ((r.wide a.toNat t 2 : Nat) : Int)
    let bad := (threads parts).filter fun t => adr t % size != 0
    if parts == 0 then .next (s.endWord h .self)
    else if !bad.isEmpty then .next (s.trapWord c h (c.accessTrap w 3 bad adr (accOf write false)))
    else
      let spans := (threads parts).map fun t => Span.mk' t (adr t).toNat 0 size (data r t)
      let w := w.markAlone c (markCodes h a.toNat 0) parts
      .next ((s.fresh.setWarp (go c w parts s.nextId spans)).endWord h .self)

/-- LD.DIR (R248). -/
def execLdDir (h : Hdr) (d a b : BitVec 7) (s : State) : Host.Outcome State Fault Refusal :=
  let st := h.ih % 128
  s.dirForm h a b false (fun _ _ => []) fun c w parts id spans =>
    w.addAccess (c.access w id (.direct (4 * dirRegs b) d.toNat st) .glob 0
      (dstCodes d.toNat (dirRegs b) ++ dstCodes st 1) [] parts spans false)

/-- ST.DIR (R248, R253): an entry of the store queue. -/
def execStDir (h : Hdr) (d a b : BitVec 7) (s : State) : Host.Outcome State Fault Refusal :=
  let n := dirRegs b
  s.dirForm h a b true (fun r t => r.regBytes d.toNat t n (4 * n)) fun c w parts id spans =>
    w.addEntry (c.entry w id (.direct (4 * n) (h.ih % 128)) .glob 0 parts spans false)

/-- Direct tags in use, and the lowest free one (R251). -/
def Warp.freeDirTag (w : Warp) : Option Nat := (List.range 8).find? fun t => !w.dir.any fun p => p.tag == some t

/-- RID of a direct packet of a warp (R237, R250). -/
def Warp.directRid (w : Warp) : Nat := 2 ^ 23 + 2 ^ 19 * w.die + w.xid

/-- May a packet leave but for a tag: a read waits for the warp's earlier stores (R253)? -/
def Warp.dirReady (w : Warp) (p : DirPkt) : Bool :=
  p.write || match w.accs.find? fun a => a.id == p.acc with
    | none => true
    | some a => !w.sq.any fun e => e.seq < a.seq

/-- Does a packet wait to leave? -/
def Warp.dirWaits (w : Warp) (p : DirPkt) : Bool := p.tag.isNone && p.reply.isNone && w.dirReady p

/-- Is the warp parked for a tag (R251): a packet finds none, or one did and the last of its instruction has none yet? -/
def Warp.tagWait (w : Warp) : Bool := (w.dir.any w.dirWaits) && (w.freeDirTag.isNone || w.park.tag)

/-- The base-die request of a packet that leaves with a tag (R250). -/
def DirPkt.request (p : DirPkt) (w : Warp) (tag : Nat) : DieReq :=
  let o := p.phys.pa % 32
  { by_ := .direct w.uid p.id, pa := p.phys.pa - o, n := 1, write := p.write,
    bmask := if p.write then (2 ^ p.size - 1) * 2 ^ o else 0,
    data := if p.write then List.replicate o 0 ++ p.data ++ List.replicate (32 - o - p.size) 0 else [], passed := 0,
    rtag := tag, rid := w.directRid }

/-- DIRECT_PACKET_SEND (R250, R251): the warp's next packet takes the lowest free tag and leaves. -/
def execDirectPacketSend (u : Nat) (s : State) : Host.Outcome State Fault Refusal :=
  match s.warp? u with
  | none => .next s
  | some w =>
    match w.dir.find? w.dirWaits, w.freeDirTag with
    | some p, some t =>
      let dir := w.dir.map fun (x : DirPkt) => if x.id == p.id then { x with tag := some t } else x
      let more := dir.any fun x => x.acc == p.acc && x.tag.isNone
      let w' := { w with dir := dir, park := { w.park with tag := w.park.tag && more } }
      .next ((s.setWarp w').sendDie w.die (p.request w t))
    | _, _ => .next s

/-- What a reply writes (R252): the bytes of LD.DIR to D, and the status word to st. -/
def DirPkt.writes (p : DirPkt) (data : List Byte) (status tag : Nat) : List RegWrite :=
  let stw := RegWrite.v p.st [(p.t, BitVec.ofNat 32 (status + tag))]
  if p.write then [stw]
  else wordWrites p.d (p.size / 4) [(p.t, wordsAt ((data.drop (p.phys.pa % 32)).take p.size) (p.size / 4))] ++ [stw]

/-- DIRECT_REPLY (R252): the first packet with a reply writes its results and frees its tag; the last of its
instruction ends the access, or lets the entry leave the queue. An uncorrectable error is context-fatal (R240). -/
def execDirectReply (u : Nat) (s : State) : Host.Outcome State Fault Refusal :=
  match s.warp? u with
  | none => .next s
  | some w =>
    match w.dir.find? fun p => p.reply.isSome with
    | none => .next s
    | some p =>
      match p.reply, p.tag with
      | some (data, status), some tag =>
        if bit status 18 then .next (s.ctxFatal w.ctx w.die (stackOf p.phys.pa) codeEcc p.phys.pa) else
        let w := w.reply p.acc (p.writes data status tag)
        let w := { w with dir := w.dir.filter fun x => x.id != p.id, park := { w.park with tag := w.tagWait } }
        if w.dir.any fun x => x.acc == p.acc then .next (s.setWarp w)
        else .next (s.setWarp { w.dropAccess p.acc with sq := w.sq.filter fun e => e.id != p.acc })
      | _, _ => .next s

end Sys2Proof.Machine
end

