-- ==== Sys2Proof/Machine/Integer.lean ====
section
/-! DEFINITION. Integer arithmetic (04 R87, R88). -/

namespace Sys2Proof.Machine

/-- x narrowed to 32 bits: saturated to the format under `.SAT`, else wrapped (R88). -/
def narrow32 (sat sg : Bool) (x : Int) : Nat := wrapI 32 (if sat then satI sg 32 x else x)

/-- A register value as S32. -/
def s32 (x : Nat) : Int := sval 32 x

/-- IADD_S32 (R88): Adds two 32-bit values as S32, wrapping or saturating under .SAT. -/
def execIaddS32 (h : Hdr) (d a b : BitVec 7) (s : State) :
    Host.Outcome State Fault Refusal :=
  s.alu0 (if h.ext.sat then .plain else .addSub) h a.toNat b.toNat d.toNat 1 [r1 a, r1 b] fun l =>
    narrow32 h.ext.sat true (s32 (op l 0) + s32 (op l 1))

/-- IADD_N32 (R88): Adds two 32-bit values as N32, wrapping or saturating under .SAT. -/
def execIaddN32 (h : Hdr) (d a b : BitVec 7) (s : State) :
    Host.Outcome State Fault Refusal :=
  s.alu0 (if h.ext.sat then .plain else .addSub) h a.toNat b.toNat d.toNat 1 [r1 a, r1 b] fun l =>
    narrow32 h.ext.sat false (((op l 0 : Nat) : Int) + (op l 1 : Nat))

/-- ISUB_S32 (R88): Subtracts B from A as S32, wrapping or saturating. -/
def execIsubS32 (h : Hdr) (d a b : BitVec 7) (s : State) :
    Host.Outcome State Fault Refusal :=
  s.alu0 (if h.ext.sat then .plain else .addSub) h a.toNat b.toNat d.toNat 1 [r1 a, r1 b] fun l =>
    narrow32 h.ext.sat true (s32 (op l 0) - s32 (op l 1))

/-- ISUB_N32 (R88): Subtracts B from A as N32, wrapping or saturating. -/
def execIsubN32 (h : Hdr) (d a b : BitVec 7) (s : State) :
    Host.Outcome State Fault Refusal :=
  s.alu0 (if h.ext.sat then .plain else .addSub) h a.toNat b.toNat d.toNat 1 [r1 a, r1 b] fun l =>
    narrow32 h.ext.sat false (((op l 0 : Nat) : Int) - (op l 1 : Nat))

/-- IADDC (R88): Adds A, B and TS bit 0 as N32 and writes the sum and carry to a pair. -/
def execIaddc (h : Hdr) (d a b : BitVec 7) (s : State) :
    Host.Outcome State Fault Refusal :=
  s.alu0 .plain h a.toNat b.toNat d.toNat 2 [r1 a, r1 b, tsReg h 1] fun l =>
    op l 0 + op l 1 + op l 2 % 2

/-- IABS (R88): Writes the absolute value of A read as S32. -/
def execIabs (h : Hdr) (d a _b : BitVec 7) (s : State) :
    Host.Outcome State Fault Refusal :=
  s.alu0 .plain h a.toNat 0 d.toNat 1 [r1 a] fun l => narrow32 h.ext.sat true |s32 (op l 0)|

/-- IMIN_S32 (R88): Writes the signed minimum of A and B. -/
def execIminS32 (h : Hdr) (d a b : BitVec 7) (s : State) :
    Host.Outcome State Fault Refusal :=
  s.alu0 .plain h a.toNat b.toNat d.toNat 1 [r1 a, r1 b] fun l => wrapI 32 (min (s32 (op l 0)) (s32 (op l 1)))

/-- IMIN_N32 (R88): Writes the unsigned minimum of A and B. -/
def execIminN32 (h : Hdr) (d a b : BitVec 7) (s : State) :
    Host.Outcome State Fault Refusal :=
  s.alu0 .plain h a.toNat b.toNat d.toNat 1 [r1 a, r1 b] fun l => min (op l 0) (op l 1)

/-- IMAX_S32 (R88): Writes the signed maximum of A and B. -/
def execImaxS32 (h : Hdr) (d a b : BitVec 7) (s : State) :
    Host.Outcome State Fault Refusal :=
  s.alu0 .plain h a.toNat b.toNat d.toNat 1 [r1 a, r1 b] fun l => wrapI 32 (max (s32 (op l 0)) (s32 (op l 1)))

/-- IMAX_N32 (R88): Writes the unsigned maximum of A and B. -/
def execImaxN32 (h : Hdr) (d a b : BitVec 7) (s : State) :
    Host.Outcome State Fault Refusal :=
  s.alu0 .plain h a.toNat b.toNat d.toNat 1 [r1 a, r1 b] fun l => max (op l 0) (op l 1)

/-- IMUL (R88): Writes the low 32 bits of the product of A and B. -/
def execImul (h : Hdr) (d a b : BitVec 7) (s : State) :
    Host.Outcome State Fault Refusal :=
  s.alu0 .mul h a.toNat b.toNat d.toNat 1 [r1 a, r1 b] fun l => op l 0 * op l 1 % 2 ^ 32

/-- IMULHI_S32 (R88): Writes the high 32 bits of the signed product. -/
def execImulhiS32 (h : Hdr) (d a b : BitVec 7) (s : State) :
    Host.Outcome State Fault Refusal :=
  s.alu0 .plain h a.toNat b.toNat d.toNat 1 [r1 a, r1 b] fun l =>
    wrapI 64 (s32 (op l 0) * s32 (op l 1)) / 2 ^ 32

/-- IMULHI_N32 (R88): Writes the high 32 bits of the unsigned product. -/
def execImulhiN32 (h : Hdr) (d a b : BitVec 7) (s : State) :
    Host.Outcome State Fault Refusal :=
  s.alu0 .plain h a.toNat b.toNat d.toNat 1 [r1 a, r1 b] fun l => op l 0 * op l 1 / 2 ^ 32

/-- IMAD (R88): Writes A times B plus TS, wrapped to 32 bits. -/
def execImad (h : Hdr) (d a b : BitVec 7) (s : State) :
    Host.Outcome State Fault Refusal :=
  s.alu0 .plain h a.toNat b.toNat d.toNat 1 [r1 a, r1 b, tsReg h 1] fun l =>
    (op l 0 * op l 1 + op l 2) % 2 ^ 32

/-- IMADW_S32 (R88): Writes the signed 64-bit A times B plus TS to a pair. -/
def execImadwS32 (h : Hdr) (d a b : BitVec 7) (s : State) :
    Host.Outcome State Fault Refusal :=
  s.alu0 .plain h a.toNat b.toNat d.toNat 2 [r1 a, r1 b, tsReg h 1] fun l =>
    wrapI 64 (s32 (op l 0) * s32 (op l 1) + s32 (op l 2))

/-- IMADW_N32 (R88): Writes the unsigned 64-bit A times B plus TS to a pair. -/
def execImadwN32 (h : Hdr) (d a b : BitVec 7) (s : State) :
    Host.Outcome State Fault Refusal :=
  s.alu0 .plain h a.toNat b.toNat d.toNat 2 [r1 a, r1 b, tsReg h 1] fun l =>
    (op l 0 * op l 1 + op l 2) % 2 ^ 64

/-- IADD_IMM (R88): Adds a sign-extended immediate to A as S32. -/
def execIaddImm (h : Hdr) (d a : BitVec 7) (imm : BitVec 10) (s : State) :
    Host.Outcome State Fault Refusal :=
  s.alu0 (if h.ext.sat then .plain else .addSub) h a.toNat 0 d.toNat 1 [r1 a, .imm (kImm h imm true)] fun l =>
    narrow32 h.ext.sat true (s32 (op l 0) + s32 (op l 1))

/-- IMUL_IMM (R88): Multiplies A by a sign-extended immediate. -/
def execImulImm (h : Hdr) (d a : BitVec 7) (imm : BitVec 10) (s : State) :
    Host.Outcome State Fault Refusal :=
  s.alu0 .mul h a.toNat 0 d.toNat 1 [r1 a, .imm (kImm h imm true)] fun l => op l 0 * op l 1 % 2 ^ 32

end Sys2Proof.Machine
end

