-- ==== Sys2Proof/Machine/LoadStore.lean ====
section
/-! DEFINITION. LD (04 R97, R98) and ST (R99). -/

namespace Sys2Proof.Machine

/-- LD of `size` bytes into `n` registers (R97): bytes of the thread's own queue at once, the others outstanding. -/
def State.load (s : State) (h : Hdr) (d a b : BitVec 7) (size n : Nat) (sx : Bool) : Host.Outcome State Fault Refusal :=
  let m := memCode b
  let scalar := decide (64 ≤ d.toNat)
  s.memForm h a m size false false scalar (markCodes h a.toNat 0) (fun _ _ => []) .no fun c w parts id spans walked =>
    let sp := spaceOf w m
    w.addAccess (c.access w id (.load size sx scalar d.toNat) sp m.co (dstCodes d.toNat n) [] parts
      (spans.map fun x => x.forwarded w.sq sp) walked)

/-- LD.N8 (R97). -/
def execLdN8 (h : Hdr) (d a b : BitVec 7) (s : State) : Host.Outcome State Fault Refusal := s.load h d a b 1 1 false
/-- LD.S8 (R97). -/
def execLdS8 (h : Hdr) (d a b : BitVec 7) (s : State) : Host.Outcome State Fault Refusal := s.load h d a b 1 1 true
/-- LD.N16 (R97). -/
def execLdN16 (h : Hdr) (d a b : BitVec 7) (s : State) : Host.Outcome State Fault Refusal := s.load h d a b 2 1 false
/-- LD.S16 (R97). -/
def execLdS16 (h : Hdr) (d a b : BitVec 7) (s : State) : Host.Outcome State Fault Refusal := s.load h d a b 2 1 true
/-- LD.B32 (R97). -/
def execLdB32 (h : Hdr) (d a b : BitVec 7) (s : State) : Host.Outcome State Fault Refusal := s.load h d a b 4 1 false
/-- LD.B64 (R97). -/
def execLdB64 (h : Hdr) (d a b : BitVec 7) (s : State) : Host.Outcome State Fault Refusal := s.load h d a b 8 2 false
/-- LD.B128 (R97). -/
def execLdB128 (h : Hdr) (d a b : BitVec 7) (s : State) : Host.Outcome State Fault Refusal := s.load h d a b 16 4 false

/-- ST of `size` bytes from `n` registers (R99): one store-queue entry for all participants (R270). -/
def State.store (s : State) (h : Hdr) (d a b : BitVec 7) (size n : Nat) : Host.Outcome State Fault Refusal :=
  let m := memCode b
  s.memForm h a m size true false false (markCodes h a.toNat 0) (fun r t => r.regBytes d.toNat t n size) .no
    fun c w parts id spans walked => w.addEntry (c.entry w id .store (spaceOf w m) m.co parts spans walked)

/-- ST.B8 (R99). -/
def execStB8 (h : Hdr) (d a b : BitVec 7) (s : State) : Host.Outcome State Fault Refusal := s.store h d a b 1 1
/-- ST.B16 (R99). -/
def execStB16 (h : Hdr) (d a b : BitVec 7) (s : State) : Host.Outcome State Fault Refusal := s.store h d a b 2 1
/-- ST.B32 (R99). -/
def execStB32 (h : Hdr) (d a b : BitVec 7) (s : State) : Host.Outcome State Fault Refusal := s.store h d a b 4 1
/-- ST.B64 (R99). -/
def execStB64 (h : Hdr) (d a b : BitVec 7) (s : State) : Host.Outcome State Fault Refusal := s.store h d a b 8 2
/-- ST.B128 (R99). -/
def execStB128 (h : Hdr) (d a b : BitVec 7) (s : State) : Host.Outcome State Fault Refusal := s.store h d a b 16 4

end Sys2Proof.Machine
end

