-- ==== Sys2Proof/Machine/Logic.lean ====
section
/-! DEFINITION. Logic, shifts and bitfields (04 R89, R90). -/

namespace Sys2Proof.Machine

/-- The number whose bits 0 to n - 1 are given by `p`. -/
def bitsOf (n : Nat) (p : Nat → Bool) : Nat := (List.range n).foldl (fun a j => if p j then a + 2 ^ j else a) 0

/-- A three-input table applied bit by bit (R90): A least significant. -/
def lop3 (tbl a b c : Nat) : Nat := bitsOf 32 fun j => bit tbl (b2n (bit a j) + 2 * b2n (bit b j) + 4 * b2n (bit c j))

/-- Shifts by any count (R90). -/
def shlN (a n : Nat) : Nat := if n < 32 then a * 2 ^ n % 2 ^ 32 else 0
def shrN (a n : Nat) : Nat := if n < 32 then a / 2 ^ n else 0
def sarN (a n : Nat) : Nat := wrapI 32 (Int.fdiv (sval 32 a) (2 ^ min n 32))

/-- Position and length of BFX and BFI. -/
def fieldPos (b : Nat) : Nat := min (b % 256) 32
def fieldLen (b : Nat) : Nat := min (fld b 8 8) 32

/-- BFX: for S32 the field is cut from the sign-extended value and sign-extended. -/
def bfx (sg : Bool) (a b : Nat) : Nat :=
  let pos := fieldPos b
  let len := fieldLen b
  let v : Int := if sg then sval 32 a else a
  let f : Int := Int.fdiv v (2 ^ pos) % 2 ^ len
  wrapI 32 (if sg && 0 < len && f ≥ 2 ^ (len - 1) then f - 2 ^ len else f)

/-- BFI: bits of A put into the base value. -/
def bfi (a b c : Nat) : Nat :=
  let pos := fieldPos b
  let len := fieldLen b
  bitsOf 32 fun j => if pos ≤ j && j < pos + len then bit a (j - pos) else bit c j

/-- POPC, CLZ, BREV. -/
def popc32 (a : Nat) : Nat := ((List.range 32).filter (bit a)).length
def clz32 (a : Nat) : Nat := if a = 0 then 32 else 31 - Nat.log2 a
def brev32 (a : Nat) : Nat := bitsOf 32 fun j => bit a (31 - j)

/-- PRMT: byte `i` of the result. -/
def prmtByte (a b c i : Nat) : Nat :=
  let sel := fld b (4 * i) 4
  let k := sel % 8
  let y := if k < 4 then fld a (8 * k) 8 else fld c (8 * (k - 4)) 8
  if sel < 8 then y else if y ≥ 128 then 0xFF else 0
def prmt (a b c : Nat) : Nat :=
  prmtByte a b c 0 + 2 ^ 8 * prmtByte a b c 1 + 2 ^ 16 * prmtByte a b c 2 + 2 ^ 24 * prmtByte a b c 3

/-- AND (R90): Bitwise AND of A and B. -/
def execAnd (h : Hdr) (d a b : BitVec 7) (s : State) :
    Host.Outcome State Fault Refusal :=
  s.alu0 .plain h a.toNat b.toNat d.toNat 1 [r1 a, r1 b] fun l => Nat.land (op l 0) (op l 1)

/-- OR (R90): Bitwise OR of A and B. -/
def execOr (h : Hdr) (d a b : BitVec 7) (s : State) :
    Host.Outcome State Fault Refusal :=
  s.alu0 .plain h a.toNat b.toNat d.toNat 1 [r1 a, r1 b] fun l => Nat.lor (op l 0) (op l 1)

/-- XOR (R90): Bitwise XOR of A and B. -/
def execXor (h : Hdr) (d a b : BitVec 7) (s : State) :
    Host.Outcome State Fault Refusal :=
  s.alu0 .plain h a.toNat b.toNat d.toNat 1 [r1 a, r1 b] fun l => Nat.xor (op l 0) (op l 1)

/-- LOP3 (R90): Applies an 8-bit truth table from IH to A, B and TS bit by bit; needs a kind-01 prefix. -/
def execLop3 (h : Hdr) (d a b : BitVec 7) (s : State) :
    Host.Outcome State Fault Refusal :=
  s.alu0 .plain h a.toNat b.toNat d.toNat 1 [r1 a, r1 b, tsReg h 1] fun l => lop3 h.ih (op l 0) (op l 1) (op l 2)

/-- SHL (R90): Shifts A left by B, giving 0 for counts of 32 or more. -/
def execShl (h : Hdr) (d a b : BitVec 7) (s : State) :
    Host.Outcome State Fault Refusal :=
  s.alu0 .shl h a.toNat b.toNat d.toNat 1 [r1 a, r1 b] fun l => shlN (op l 0) (op l 1)

/-- SHR (R90): Shifts A right logically by B. -/
def execShr (h : Hdr) (d a b : BitVec 7) (s : State) :
    Host.Outcome State Fault Refusal :=
  s.alu0 .plain h a.toNat b.toNat d.toNat 1 [r1 a, r1 b] fun l => shrN (op l 0) (op l 1)

/-- SAR (R90): Shifts A right arithmetically by B. -/
def execSar (h : Hdr) (d a b : BitVec 7) (s : State) :
    Host.Outcome State Fault Refusal :=
  s.alu0 .plain h a.toNat b.toNat d.toNat 1 [r1 a, r1 b] fun l => sarN (op l 0) (op l 1)

/-- SHF (R90): Funnel-shifts the 64-bit B:A right by TS[5:0] and keeps the low word. -/
def execShf (h : Hdr) (d a b : BitVec 7) (s : State) :
    Host.Outcome State Fault Refusal :=
  s.alu0 .plain h a.toNat b.toNat d.toNat 1 [r1 a, r1 b, tsReg h 1] fun l => (op l 1 * 2 ^ 32 + op l 0) / 2 ^ (op l 2 % 64) % 2 ^ 32

/-- BFX_S32 (R90): Extracts a sign-extended bitfield of A at the position and length in B. -/
def execBfxS32 (h : Hdr) (d a b : BitVec 7) (s : State) :
    Host.Outcome State Fault Refusal :=
  s.alu0 .plain h a.toNat b.toNat d.toNat 1 [r1 a, r1 b] fun l => bfx true (op l 0) (op l 1)

/-- BFX_N32 (R90): Extracts a zero-extended bitfield of A. -/
def execBfxN32 (h : Hdr) (d a b : BitVec 7) (s : State) :
    Host.Outcome State Fault Refusal :=
  s.alu0 .plain h a.toNat b.toNat d.toNat 1 [r1 a, r1 b] fun l => bfx false (op l 0) (op l 1)

/-- BFI (R90): Inserts the low bits of A into TS at the field given by B. -/
def execBfi (h : Hdr) (d a b : BitVec 7) (s : State) :
    Host.Outcome State Fault Refusal :=
  s.alu0 .plain h a.toNat b.toNat d.toNat 1 [r1 a, r1 b, tsReg h 1] fun l => bfi (op l 0) (op l 1) (op l 2)

/-- POPC (R90): Counts the set bits of A. -/
def execPopc (h : Hdr) (d a _b : BitVec 7) (s : State) :
    Host.Outcome State Fault Refusal :=
  s.alu0 .plain h a.toNat 0 d.toNat 1 [r1 a] fun l => popc32 (op l 0)

/-- CLZ (R90): Counts the leading zero bits of A. -/
def execClz (h : Hdr) (d a _b : BitVec 7) (s : State) :
    Host.Outcome State Fault Refusal :=
  s.alu0 .plain h a.toNat 0 d.toNat 1 [r1 a] fun l => clz32 (op l 0)

/-- BREV (R90): Reverses the bit order of A. -/
def execBrev (h : Hdr) (d a _b : BitVec 7) (s : State) :
    Host.Outcome State Fault Refusal :=
  s.alu0 .plain h a.toNat 0 d.toNat 1 [r1 a] fun l => brev32 (op l 0)

/-- PRMT (R90): Builds each result byte from A, TS or a sign copy by a 4-bit selector in B. -/
def execPrmt (h : Hdr) (d a b : BitVec 7) (s : State) :
    Host.Outcome State Fault Refusal :=
  s.alu0 .plain h a.toNat b.toNat d.toNat 1 [r1 a, r1 b, tsReg h 1] fun l => prmt (op l 0) (op l 1) (op l 2)

/-- AND_IMM (R90): Bitwise AND with a sign-extended immediate. -/
def execAndImm (h : Hdr) (d a : BitVec 7) (imm : BitVec 10) (s : State) :
    Host.Outcome State Fault Refusal :=
  s.alu0 .plain h a.toNat 0 d.toNat 1 [r1 a, .imm (kImm h imm true)] fun l => Nat.land (op l 0) (op l 1)

/-- OR_IMM (R90): Bitwise OR with a sign-extended immediate. -/
def execOrImm (h : Hdr) (d a : BitVec 7) (imm : BitVec 10) (s : State) :
    Host.Outcome State Fault Refusal :=
  s.alu0 .plain h a.toNat 0 d.toNat 1 [r1 a, .imm (kImm h imm true)] fun l => Nat.lor (op l 0) (op l 1)

/-- XOR_IMM (R90): Bitwise XOR with a sign-extended immediate. -/
def execXorImm (h : Hdr) (d a : BitVec 7) (imm : BitVec 10) (s : State) :
    Host.Outcome State Fault Refusal :=
  s.alu0 .plain h a.toNat 0 d.toNat 1 [r1 a, .imm (kImm h imm true)] fun l => Nat.xor (op l 0) (op l 1)

/-- SHL_IMM (R90): Shifts A left by an immediate count. -/
def execShlImm (h : Hdr) (d a : BitVec 7) (imm : BitVec 10) (s : State) :
    Host.Outcome State Fault Refusal :=
  s.alu0 .shl h a.toNat 0 d.toNat 1 [r1 a, .imm (kImm h imm false)] fun l => shlN (op l 0) (op l 1)

/-- SHR_IMM (R90): Shifts A right logically by an immediate count. -/
def execShrImm (h : Hdr) (d a : BitVec 7) (imm : BitVec 10) (s : State) :
    Host.Outcome State Fault Refusal :=
  s.alu0 .plain h a.toNat 0 d.toNat 1 [r1 a, .imm (kImm h imm false)] fun l => shrN (op l 0) (op l 1)

/-- SAR_IMM (R90): Shifts A right arithmetically by an immediate count. -/
def execSarImm (h : Hdr) (d a : BitVec 7) (imm : BitVec 10) (s : State) :
    Host.Outcome State Fault Refusal :=
  s.alu0 .plain h a.toNat 0 d.toNat 1 [r1 a, .imm (kImm h imm false)] fun l => sarN (op l 0) (op l 1)

end Sys2Proof.Machine
end

