-- ==== Sys2Proof/Machine/Move.lean ====
section
/-! DEFINITION. Moves, selection and 64-bit addresses (04 R91, R92). -/

namespace Sys2Proof.Machine

/-- MOV (R92): Copies A to D. -/
def execMov (h : Hdr) (d a _b : BitVec 7) (s : State) :
    Host.Outcome State Fault Refusal :=
  s.alu0 .plain h a.toNat 0 d.toNat 1 [r1 a] fun l => op l 0

/-- MOVI (R92): Writes a sign-extended 10-bit immediate, or 32 bits with a kind-01 prefix. -/
def execMovi (h : Hdr) (d _a : BitVec 7) (imm : BitVec 10) (s : State) :
    Host.Outcome State Fault Refusal :=
  s.alu0 .plain h 0 0 d.toNat 1 [.imm (kImm h imm true)] fun l => op l 0

/-- SEL (R92): Writes A if the predicate TS is true, else B. -/
def execSel (h : Hdr) (d a b : BitVec 7) (s : State) :
    Host.Outcome State Fault Refusal :=
  s.alu0 .plain h a.toNat b.toNat d.toNat 1 [r1 a, r1 b, tsPred h] fun l =>
    if op l 2 = 1 then op l 0 else op l 1

/-- What a reply writes of a 64-bit result: to a pair of v-registers by thread, or to a pair of s-registers (R63). -/
def pairWrites (d rep : Nat) (ts : List Nat) (f : Nat → Nat) : List RegWrite :=
  let ws := fun t => [BitVec.ofNat 32 (f t), BitVec.ofNat 32 (f t / 2 ^ 32)]
  if 64 ≤ d then [.s (d - 64) (nth (ws rep) 0), .s (d - 63) (nth (ws rep) 1)]
  else wordWrites d 2 (ts.map fun t => (t, ws t))

/-- A form of class VM with a 64-bit result (R85): the result is outstanding until it is written, and is general in
v-space (R154; log entry 38). -/
def State.address (s : State) (h : Hdr) (a b d : Nat) (f : Warp → Nat → Nat) : Host.Outcome State Fault Refusal :=
  match s.cur with
  | none => noWarp
  | some (c, w) =>
    let r := c.src w
    let parts := r.participants c.slot h
    match lowest parts with
    | none => .next (s.endWord h .no)
    | some rep =>
      let wr := pairWrites d rep (threads parts) (f r)
      let w := (w.markAlone c (markCodes h a b) parts).addAccess
        (c.access w s.nextId (.result wr) .glob 0 (dstCodes d 2) [] parts [] true)
      .next ((s.fresh.setWarp w).endWord h .no)

/-- LEA (R92): Adds B shifted by IH[2:0] to a 64-bit pair on pipe M; the result is outstanding, and general (log entry 38). -/
def execLea (h : Hdr) (d a b : BitVec 7) (s : State) :
    Host.Outcome State Fault Refusal :=
  s.address h a.toNat b.toNat d.toNat fun r t =>
    let v := (r.reg b.toNat t).toNat
    wrapI 64 ((r.wide a.toNat t 2 : Nat) + (if bit h.ih 3 then (v : Int) else sval 32 v) * 2 ^ (h.ih % 8))

/-- ADD64 (R92): Adds two 64-bit pairs, wrapping, as LEA (log entry 38). -/
def execAdd64 (h : Hdr) (d a b : BitVec 7) (s : State) :
    Host.Outcome State Fault Refusal :=
  s.address h a.toNat b.toNat d.toNat fun r t => (r.wide a.toNat t 2 + r.wide b.toNat t 2) % 2 ^ 64

end Sys2Proof.Machine
end

