-- ==== Sys2Proof/Machine/Regs.lean ====
section
/-! DEFINITION. The registers of BAR0 (21 R438 to R446, 22 R448 to R457; 09 R199, 20 R403; 00 R8, R9): what reads return
and what writes do. -/

namespace Sys2Proof.Machine

/-! Reads, by doubleword of each block. -/

/-- A queue block (R199). -/
def Queue.dword (q : Queue) (k : Nat) : Nat :=
  match k with
  | 0 => q.rbase
  | 1 => q.rlog2 + 2 ^ 5 * b2n q.en + 2 ^ 6 * b2n q.src + 2 ^ 7 * b2n q.irq + 2 ^ 8 * q.pcap + 2 ^ 16 * q.ctx + 2 ^ 32 * q.tail
  | 2 => q.head + 2 ^ 32 * (b2n q.ill + 2 * b2n q.tbad + 4 * b2n q.rflt + 8 * b2n q.ctxf + 16 * b2n q.sflt + 32 * b2n q.cfg)
  | _ => 0

/-- A channel block (R403). -/
def State.chanDword (s : State) (c : Chan) (k : Nat) : Nat :=
  match k with
  | 0 => c.ctx + 2 ^ 16 * c.cmd + 2 ^ 19 * b2n c.irq + 2 ^ 32 * c.grace + 2 ^ 48 * c.deadline
  | 1 => c.state + 2 ^ 8 * c.nsaved + 2 ^ 32 * ((if c.state = 1 || c.state = 2 then s.waited c else c.elapsed) % 2 ^ 32)
  | 2 => b2n c.freset
  | _ => 0

/-- The fault ring (R442). -/
def FaultRing.dword (r : FaultRing) (k : Nat) : Nat :=
  match k with
  | 0 => r.base
  | 1 => r.log2 + 2 ^ 4 * b2n r.en + 2 ^ 5 * b2n r.cfgerr + 2 ^ 32 * r.wrcnt
  | 2 => r.rdcnt + 2 ^ 32 * b2n r.anserr
  | _ => 0

/-- The invalidation block (R443); GO, of type W, reads 0 (log entry 40). -/
def Inval.dword (i : Inval) (k : Nat) : Nat :=
  match k with
  | 0 => i.iva
  | 1 => i.ictx + 2 ^ 16 * i.isize + 2 ^ 22 * b2n i.iall + 2 ^ 24 * b2n i.busy + 2 ^ 25 * b2n i.ierr
  | _ => 0

/-- The host block (R440). -/
def Regs.hostDword (r : Regs) (k : Nat) : Nat :=
  match k with
  | 0 => r.devid
  | 1 => r.ctxtab
  | 2 => r.ctxcnt
  | 3 => r.winbase
  | 4 => b2n r.winerr
  | _ => 0

/-- The Virvis Link tables (R444). -/
def Regs.linkDword (r : Regs) (k : Nat) : Nat :=
  if k < 64 then r.vlroute.getD k 0
  else if k < 128 then r.vlacl.getD (k - 64) 0
  else match r.vlport[k - 128]? with
    | some p => b2n p.en + 2 * b2n p.up + 4 * b2n p.pdup + 256 * p.far
    | none => 0

/-- Die link control (R445). -/
def State.dieLinkDword (s : State) (d k : Nat) : Nat :=
  let asleep := fun (p : Nat) => match neighbour d p with
    | none => 0
    | some _ => match look (linkAt d p) s.links with | some l => b2n (l.state != 0) | none => 0
  match k with
  | 0 => (s.die d).ith + 2 ^ 16 * b2n (s.die d).pden + 2 ^ 32 * (asleep 0 + 2 * asleep 1 + 4 * asleep 2 + 8 * asleep 3)
  | _ => 0

/-- The MSI-X table and its pending bits (R446). -/
def MsixVec.dword (m : MsixVec) (k : Nat) : Nat := if k = 0 then m.addr else m.data + 2 ^ 32 * b2n m.masked
def Regs.pendingDword (r : Regs) (k : Nat) : Nat :=
  (List.range 64).foldl (fun n i => match r.msix[64 * k + i]? with | some m => n + 2 ^ i * b2n m.pending | none => n) 0

/-- The identity and boot block (R449); FWCMD, of type W, reads 0 (log entry 40). -/
def Regs.identDword (r : Regs) (k : Nat) : Nat :=
  match k with
  | 0 => r.partid + 2 ^ 16 * r.form + 2 ^ 24 * r.step + 2 ^ 32 * r.bootst
  | 1 => r.fwver + 2 ^ 32 * r.fwsvn + 2 ^ 48 * r.minsvn
  | 2 => 2 ^ 32 * r.fwst
  | _ => 0

/-- The readiness block (R453). -/
def Regs.readyDword (r : Regs) (k : Nat) : Nat :=
  match k with
  | 0 => r.rdyDie + 2 ^ 9 * r.rdyStack + 2 ^ 21 * r.rdyLink + 2 ^ 33 * b2n r.rdyHost + 2 ^ 34 * b2n r.fail
  | _ => 0

/-- A die's block (R454). -/
def Die.dword (d : Die) (k : Nat) : Nat :=
  match k with
  | 0 => d.clready + 2 ^ 32 * d.ring.length + 2 ^ 38 * b2n d.throt
  | 1 => d.temp + 2 ^ 32 * d.sce
  | 2 => d.sue + 2 ^ 32 * d.ceth
  | _ => 0

/-- A stack's block (R455). -/
def Stack.dword (t : Stack) (k : Nat) : Nat :=
  match k with
  | 0 => t.hce + 2 ^ 32 * t.hue
  | 1 => t.hceth
  | _ => 0

/-- A die's bore-log window (R457); a slot that no event has written reads 0 (log entry 40). -/
def Die.logDword (d : Die) (k : Nat) : Nat :=
  if k = 16382 then d.wrseq
  else if k = 16383 then 0
  else leNat ((((look (k / 4) d.log).getD []).drop (8 * (k % 4))).take 8)

/-- What a doubleword of a block reads in a state. -/
def State.blockDword (s : State) (b : Block) (k : Nat) : Nat :=
  match b with
  | .host => s.regs.hostDword k
  | .queue q => (s.queue q).dword k
  | .chan c => s.chanDword (s.chan c) k
  | .ring => s.regs.ring.dword k
  | .inval => s.regs.inval.dword k
  | .links => s.regs.linkDword k
  | .dieLink d => s.dieLinkDword d k
  | .msix v => match s.regs.msix[v]? with | some m => m.dword k | none => 0
  | .pending => s.regs.pendingDword k
  | .ident => s.regs.identDword k
  | .ready => s.regs.readyDword k
  | .power => if k = 0 then s.regs.plimit else 0
  | .die d => (s.die d).dword k
  | .stack t => (s.stack t).dword k
  | .log d => (s.die d).logDword k
  | .staging => leNat (cellsRead s.regs.staging (8 * k) 8)
  | .none => 0

/-- Is an access of a size and offset one that registers take (R438)? -/
def goodAccess (off size : Nat) : Bool := (size == 4 || size == 8) && off % size == 0

/-- What a host read of a register returns (R8, R438, R452). -/
def State.readRegister (s : State) (off size : Nat) : Nat :=
  let (b, k) := blockOf off
  let v := if s.blockReady b then s.blockDword b k
    else if s.regs.bootst != 1 then 0
    else State.reset.blockDword b k
  if !goodAccess off size then 0
  else if size = 8 then v else fld v (8 * (off % 8)) 32

/-! Writes. A write is the bits it names of a doubleword (`m`) and their values (`v`). -/

/-- A field of `n` bits at `lo` after a write: the old value where the write does not reach it. -/
def wfield (m v lo n old : Nat) : Nat := if bit m lo then fld v lo n else old
/-- Does the write put 1 into a bit? -/
def wone (m v lo : Nat) : Bool := bit m lo && bit v lo
/-- A field of 64 bits, a half or the whole of it written. -/
def wide (m v old : Nat) : Nat :=
  (if bit m 0 then fld v 0 32 else fld old 0 32) + 2 ^ 32 * (if bit m 32 then fld v 32 32 else fld old 32 32)

/-- A queue block is written (R199 to R203): with EN = 1 only TAIL, EN and the error bits, and a change of RBASE, RLOG2,
SRC or CTX abandons what the queue holds. -/
def State.writeQueue (s : State) (q k m v : Nat) : State :=
  let x := s.queue q
  match k with
  | 0 =>
    let b := wide m v x.rbase
    if x.en || b == x.rbase then s
    else
      let s := s.abandon q
      s.setQueue q { s.queue q with rbase := b }
  | 1 =>
    let s :=
      if !bit m 0 then s
      else if x.en then (if bit v 5 then s else s.disableQueue q)
      else
        let rlog2 := fld v 0 5
        let src := bit v 6
        let ctx := fld v 16 16
        let s := if rlog2 != x.rlog2 || src != x.src || ctx != x.ctx then s.abandon q else s
        let s := s.setQueue q { s.queue q with rlog2, src, irq := bit v 7, pcap := fld v 8 2, ctx }
        if bit v 5 then s.enableQueue q else s
    if bit m 32 then s.writeTail q (fld v 32 32) else s
  | 2 => if bit m 32 then s.clearQueue q (fld v 32 6) else s
  | _ => s

/-- A channel block is written (R403, R404). -/
def State.writeChan (s : State) (ch k m v : Nat) : State :=
  let c := s.chan ch
  match k with
  | 0 =>
    let idle := c.state == 0
    let c := { c with irq := if bit m 19 then bit v 19 else c.irq
                      ctx := if idle then wfield m v 0 16 c.ctx else c.ctx
                      grace := if idle then wfield m v 32 16 c.grace else c.grace
                      deadline := if idle then wfield m v 48 16 c.deadline else c.deadline }
    let s := s.setChan ch c
    match wfield m v 16 3 0 with
    | 1 => s.acceptStop ch 1
    | 2 => s.acceptStop ch 2
    | 3 => s.acceptResume ch
    | _ => s
  | 2 => if wone m v 0 then s.clearFreset ch else s
  | _ => s

/-- The fault ring is written (R442). -/
def State.writeRing (s : State) (k m v : Nat) : State :=
  let r := s.regs.ring
  match k with
  | 0 => if r.en then s else s.modRing fun r => { r with base := wide m v r.base }
  | 1 =>
    if !bit m 0 then s
    else
      let s := s.modRing fun r => { r with log2 := if r.en then r.log2 else fld v 0 4 }
      let s := s.clearRing (b2n (bit v 5))
      if bit v 4 then s.enableRing
      else if r.en then s.disableRing else s
  | 2 =>
    let s := s.modRing fun r => { r with rdcnt := wfield m v 0 32 r.rdcnt }
    if wone m v 32 then s.clearRing 2 else s
  | _ =>
    if bit m 0 && bit m 32 then
      match fld v 32 2 with
      | 1 => s.answerResume (fld v 0 32)
      | 2 => s.answerFatal (fld v 0 32)
      | _ => s
    else s

/-- The invalidation block is written (R443): the fields first, then GO. A write of GO while BUSY is ignored, but for
IERR. -/
def State.writeInval (s : State) (k m v : Nat) : State :=
  let i := s.regs.inval
  let put := fun (i : Inval) => { s with regs := { s.regs with inval := i } }
  match k with
  | 0 => put { i with iva := wide m v i.iva }
  | 1 =>
    if !bit m 0 then s
    else if bit v 23 && i.busy then put { i with ierr := true }
    else
      let s := put { i with ictx := fld v 0 16, isize := fld v 16 6, iall := bit v 22, ierr := i.ierr && !bit v 25 }
      if bit v 23 then s.invalidate else s
  | _ => s

/-- The host block is written (R440): DEVID only while no Virvis port is enabled. -/
def State.writeHost (s : State) (k m v : Nat) : State :=
  let r := s.regs
  match k with
  | 0 => if r.vlport.any (·.en) then s else { s with regs := { r with devid := wfield m v 0 6 r.devid } }
  | 1 => { s with regs := { r with ctxtab := wide m v r.ctxtab } }
  | 2 => { s with regs := { r with ctxcnt := wfield m v 0 13 r.ctxcnt } }
  | 3 => { s with regs := { r with winbase := wide m v r.winbase } }
  | 4 => if wone m v 0 then s.clearWinerr else s
  | _ => s

/-- A Virvis Link table entry is written (R444). -/
def State.writeLinks (s : State) (k m v : Nat) : State :=
  let r := s.regs
  if !bit m 0 then s
  else if k < 64 then { s with regs := { r with vlroute := r.vlroute.set k (fld v 0 17) } }.endCutOff
  else if k < 128 then { s with regs := { r with vlacl := r.vlacl.set (k - 64) (fld v 0 3) } }
  else
    let s := if bit v 2 then s.clearPdup (k - 128) else s
    match s.regs.vlport[k - 128]? with
    | some p => (s.setPort (k - 128) { p with en := bit v 0 }).endCutOff
    | none => s

/-- An MSI-X table entry is written (R446): vector control is its last word. -/
def State.writeMsix (s : State) (n k m v : Nat) : State :=
  match s.regs.msix[n]? with
  | none => s
  | some x =>
    let put := fun (x : MsixVec) => { s with regs := { s.regs with msix := s.regs.msix.set n x } }
    if k = 0 then put { x with addr := wide m v x.addr }
    else
      let s := put { x with data := wfield m v 0 32 x.data, masked := x.masked || wone m v 32 }
      if bit m 32 && !bit v 32 then s.unmask n else s

/-- A write to a block that is ready. -/
def State.writeBlock (s : State) (b : Block) (k m v : Nat) : State :=
  match b with
  | .host => s.writeHost k m v
  | .queue q => s.writeQueue q k m v
  | .chan c => s.writeChan c k m v
  | .ring => s.writeRing k m v
  | .inval => s.writeInval k m v
  | .links => s.writeLinks k m v
  | .dieLink d =>
    if k != 0 || !bit m 0 then s else s.setDie d { s.die d with ith := fld v 0 16, pden := bit v 16 }
  | .msix n => s.writeMsix n k m v
  | .ident => if k = 2 && bit m 0 && fld v 0 32 == 1 then s.verifyStaged else s
  | .power => if k = 0 && bit m 0 then s.limitPower (fld v 0 16) else s
  | .die d =>
    let w := fun (s : State) (which lo : Nat) =>
      if bit m lo then s.writeCounter false d which (fld v lo 32) else s
    if k = 1 then w s 0 32 else if k = 2 then w (w s 1 0) 2 32 else s
  | .stack t =>
    let w := fun (s : State) (which lo : Nat) =>
      if bit m lo then s.writeCounter true t which (fld v lo 32) else s
    if k = 0 then w (w s 0 0) 1 32 else if k = 1 then w s 2 0 else s
  | .staging =>
    if s.regs.fwst = 1 then s
    else
      let bs := leBytes 8 v
      let half := fun (st : List (Nat × Byte)) (h : Nat) =>
        if bit m (32 * h) then cellsWrite st (8 * k + 4 * h) ((bs.drop (4 * h)).take 4) else st
      { s with regs := { s.regs with staging := half (half s.regs.staging 0) 1 } }
  | _ => s

/-- A host write of one field, held as the step that it was (R452). -/
def State.writeField (s : State) (b : Block) (k v : Nat) : State :=
  match b with
  | .queue q => if v = 1 then s.enableQueue q else s.disableQueue q
  | .chan c => if v = 3 then s.acceptResume c else s.acceptStop c v
  | .ring => if v = 0 then s.disableRing else if v = 1 then s.enableRing else s.clearRing (v - 2)
  | .inval => if v = 1 then s.invalidate else s.clearIerr
  | .links => s.clearPdup (k - 128)
  | _ => s

/-- A write is made: the bits of its doubleword that it names. -/
def State.applyWrite (s : State) (off size v : Nat) : State :=
  let (b, k) := blockOf off
  if size = 0 then s.writeField b k v
  else if size = 8 then s.writeBlock b k (2 ^ 64 - 1) (v % 2 ^ 64)
  else
    let sh := 8 * (off % 8)
    s.writeBlock b k ((2 ^ 32 - 1) * 2 ^ sh) (v % 2 ^ 32 * 2 ^ sh)

/-- REGISTER_WRITE (R8, R9, R438, R452): a host write to BAR0. One whose function is not ready is held, after those held
already; when 256 are held it is not accepted. -/
def execRegisterWrite (off size v : Nat) (s : State) : Host.Outcome State Fault Refusal :=
  let b := (blockOf off).1
  if !goodAccess off size || b == .none || s.regs.power != 0 then .next s
  else if b.early || (s.blockReady b && s.readyHeld.isNone) then .next (s.applyWrite off size v)
  else if 256 ≤ s.regs.heldW.length then .next s
  else .next { s with regs := { s.regs with heldW := s.regs.heldW ++ [(off, size, v)] } }

/-- HELD_WRITE_TAKE (R452). -/
def execHeldWriteTake (s : State) : Host.Outcome State Fault Refusal :=
  match s.readyHeld with
  | none => .next s
  | some (x, rest) => .next ({ s with regs := { s.regs with heldW := rest } }.applyWrite x.1 x.2.1 x.2.2)

end Sys2Proof.Machine
end

