-- ==== Sys2Proof/Machine/Trans.lean ====
section
/-! DEFINITION. Transcendental and root forms (05 R119, R120). Where R119 leaves a choice inside a bound, the value is
the part's own (Config), taken only where it lies within the bound. -/

namespace Sys2Proof.Machine

/-- floor(√n), by bits from `b` down. -/
def isqrtGo (n : Nat) : Nat → Nat → Nat
  | 0, r => r
  | b + 1, r => let r' := r + 2 ^ b; isqrtGo n b (if r' * r' ≤ n then r' else r)
def isqrt (n : Nat) : Nat := isqrtGo n (Nat.log2 n / 2 + 1) 0

/-- Is the result of RN settled (R119): exact, an overflow, or a tiny one that `.FTZ` flushes (R44)? -/
def settled (ftz : Bool) (near : Nat × Nat) : Bool :=
  near.2 == 0 || Nat.land near.2 fOF != 0 || (ftz && Nat.land near.2 fUF != 0)

/-- A result bracketed by two FP32 values: exact where it is one of them, else the part's choice of the two; overflow
and underflow, with their flags, as under RN (R119). -/
def bracketed (fn : Nat) (a : Word) (ftz neg : Bool) (m : Nat) (x : Int) (sticky : Bool) : Nat × Nat :=
  let ex := Ex.num neg m x sticky
  let near := roundTo .fp32 .rn false ftz ex
  if settled ftz near then near
  else
    let up := if neg then Rm.rd else Rm.ru
    let r := roundTo .fp32 (if Config.bracketUp fn a then up else .rz) false false ex
    if Nat.land r.2 fOF != 0 then near else (r.1, near.2)

/-- FRCP. -/
def fpRcp (ftz : Bool) (a : Nat) : Nat × Nat :=
  match ftzIn .fp32 ftz (Fp.fp32.decode a) with
  | .nan sig => (Fp.fp32.cnan, if sig then fIV else 0)
  | .inf n => (Fp.fp32.signed n 0, 0)
  | .fin n m x =>
    if m = 0 then (Fp.fp32.inf n, fDZ)
    else bracketed 0 (BitVec.ofNat 32 a) ftz n (2 ^ 64 / m) (-64 - x) (2 ^ 64 % m != 0)

/-- m × 2^x with an even exponent. -/
def evenExp (m : Nat) (x : Int) : Nat × Int := if x % 2 = 0 then (m, x) else (2 * m, x - 1)

/-- FRSQ. -/
def fpRsq (ftz : Bool) (a : Nat) : Nat × Nat :=
  match ftzIn .fp32 ftz (Fp.fp32.decode a) with
  | .nan sig => (Fp.fp32.cnan, if sig then fIV else 0)
  | .inf n => if n then (Fp.fp32.cnan, fIV) else (0, 0)
  | .fin n m x =>
    if m = 0 then (Fp.fp32.inf n, fDZ)
    else if n then (Fp.fp32.cnan, fIV)
    else
      let (m, x) := evenExp m x
      let q := isqrt (2 ^ 128 / m)
      bracketed 1 (BitVec.ofNat 32 a) ftz false q (-64 - x / 2) (q * q * m != 2 ^ 128)

/-- FSQRT, correctly rounded. -/
def fpSqrt (mode : Rm) (ftz : Bool) (a : Nat) : Nat × Nat :=
  match ftzIn .fp32 ftz (Fp.fp32.decode a) with
  | .nan sig => (Fp.fp32.cnan, if sig then fIV else 0)
  | .inf n => if n then (Fp.fp32.cnan, fIV) else (Fp.fp32.inf false, 0)
  | .fin n m x =>
    if m = 0 then (Fp.fp32.signed n 0, 0)
    else if n then (Fp.fp32.cnan, fIV)
    else
      let (m, x) := evenExp m x
      let q := isqrt (m * 2 ^ 64)
      roundTo .fp32 mode false ftz (.num false q (x / 2 - 32) (q * q != m * 2 ^ 64))

/-! Fixed point with `fxBits` fraction bits, for the bounds of the other four. -/

def fxBits : Nat := 280
def fxOne : Int := 2 ^ fxBits
def fxMul (a b : Int) : Int := Int.fdiv (a * b) fxOne
/-- π × 2^300 and ln 2 × 2^160. -/
def piBits : Int := 6399537258350533404498902296276095619968599404742382956244570183135712832137875919436931981
def ln2Bits : Int := 1013035739299659071135698605846798551586536899366
def fxPi : Int := Int.fdiv piBits (2 ^ 20)
def fxLn2 : Int := ln2Bits * 2 ^ 120

/-- m × 2^x in fixed point. -/
def fxOf (m : Nat) (x : Int) : Int :=
  if x + fxBits ≥ 0 then (m : Int) * 2 ^ (x + fxBits).toNat else Int.fdiv m (2 ^ (-(x + fxBits)).toNat)

/-- The sum of y^k / k! from k on, `t` being the term of k. -/
def expSeries (y : Int) : Nat → Nat → Int → Int
  | 0, _, t => t
  | n + 1, k, t => t + expSeries y n (k + 1) (Int.fdiv (fxMul t y) (k + 1))

/-- The sum of z^(2k+1) / (2k+1): atanh z; `p` is z^(2k+1). -/
def atanhSeries (z2 : Int) : Nat → Nat → Int → Int
  | 0, _, _ => 0
  | n + 1, k, p => Int.fdiv p (2 * k + 1) + atanhSeries z2 n (k + 1) (fxMul p z2)

/-- The alternating series of sin and cos: term t of degree d, then −t y²/((d+1)(d+2)). -/
def trigSeries (y2 : Int) : Nat → Nat → Int → Int
  | 0, _, _ => 0
  | n + 1, d, t => t + trigSeries y2 n (d + 2) (-(Int.fdiv (fxMul t y2) ((d + 1) * (d + 2))))

/-- A real given by a fixed-point number of `fxBits - sh` fraction bits. -/
structure Approx where
  v : Int
  x : Int
  deriving DecidableEq, Repr

/-- 2^A for A = ±m × 2^x, |A| < 2^9: mantissa and exponent. -/
def approxExp2 (neg : Bool) (m : Nat) (x : Int) : Approx :=
  let a := if neg then -(fxOf m x) else fxOf m x
  let n := Int.fdiv a fxOne
  let f := a - n * fxOne
  ⟨expSeries (fxMul f fxLn2) 60 0 fxOne, n - fxBits⟩

/-- log2 of m × 2^x. -/
def approxLog2 (m : Nat) (x : Int) : Approx :=
  let l := Nat.log2 m
  let e : Int := x + l
  let y := fxOf m (-(l : Int))
  let z := Int.fdiv ((y - fxOne) * fxOne) (y + fxOne)
  let ln := 2 * atanhSeries (fxMul z z) 110 0 z
  ⟨e * fxOne + Int.fdiv (ln * fxOne) fxLn2, -fxBits⟩

/-- A sum that lies strictly below its first term, also where the terms after it are lost. -/
def below (v t : Int) : Int := if v = t then t - 1 else v

/-- sin (0) or cos (1) of ±m × 2^x: reduced by quarter turns, of which A holds `n`. -/
def approxTrig (cos neg : Bool) (m : Nat) (x : Int) : Approx :=
  let p2 := Int.fdiv piBits 2
  -- A and the quarter turn in units of 2^-300
  let a : Int := if x + 300 ≥ 0 then (m : Int) * 2 ^ (x + 300).toNat else Int.fdiv m (2 ^ (-(x + 300)).toNat)
  let n := Int.fdiv a p2
  let r := Int.fdiv (a - n * p2) (2 ^ 20)
  let k := (n % 4).toNat + if cos then 1 else 0
  let y2 := fxMul r r
  let v := if k % 2 = 0 then below (trigSeries y2 50 1 r) r else below (trigSeries y2 50 0 fxOne) fxOne
  let v := if k % 4 ≥ 2 then -v else v
  ⟨if neg && !cos then -v else v, -fxBits⟩

/-- |candidate − approximation| ≤ n units of 2^u. -/
def within (c : Fv) (a : Approx) (n : Nat) (u : Int) : Bool :=
  match c with
  | .fin neg m x =>
    let lo := min x (min a.x u)
    let cv : Int := (if neg then -1 else 1) * (m * 2 ^ (x - lo).toNat : Nat)
    let av := a.v * 2 ^ (a.x - lo).toNat
    (cv - av).natAbs ≤ n * 2 ^ (u - lo).toNat
  | _ => false

/-- The unit in the last place of FP32 at an approximation (R119). -/
def ulpAt (a : Approx) : Int :=
  let t := a.x + Nat.log2 a.v.natAbs - 23
  if t < -149 then -149 else t

/-- May a candidate be the result of an exact value with sign `neg`: a zero, and a result where the exact value is tiny,
takes its sign (R41, R44)? -/
def signOk (neg tiny : Bool) (c : Fv) : Bool := !(tiny || c.isZero) || c.neg == neg

/-- The result of a form whose exact value is irrational: the part's value where it lies within the bound, else the
nearest; overflow and underflow, with their flags, as the exact value has them under RN (R119). -/
def bounded (fn : Nat) (a : Word) (ftz : Bool) (ap : Approx) (ok : Fv → Bool) : Nat × Nat :=
  let neg := decide (ap.v < 0)
  let near := roundTo .fp32 .rn false ftz (.num neg ap.v.natAbs ap.x true)
  let v := Fp.fp32.decode (Config.transValue fn a).toNat
  if settled ftz near then near
  else if ok v && signOk neg (Nat.land near.2 fUF != 0) v then ((Config.transValue fn a).toNat, near.2)
  else near

/-- FEXP2. -/
def fpExp2 (ftz : Bool) (a : Nat) : Nat × Nat :=
  match ftzIn .fp32 ftz (Fp.fp32.decode a) with
  | .nan sig => (Fp.fp32.cnan, if sig then fIV else 0)
  | .inf n => if n then (0, 0) else (Fp.fp32.inf false, 0)
  | .fin n m x =>
    if m = 0 then (0x3F800000, 0)
    else
      let (v, frac) := roundInt .rz n m x
      if v ≥ 130 then (Fp.fp32.inf false, fOF ||| fIX)
      else if v ≤ -200 then bounded 3 (BitVec.ofNat 32 a) ftz ⟨1, -200⟩ fun c => within c ⟨1, -200⟩ 2 (-149)
      else if !frac then roundTo .fp32 .rn false ftz (.num false 1 v false)
      else
        let ap := approxExp2 n m x
        bounded 3 (BitVec.ofNat 32 a) ftz ap fun c => within c ap 2 (ulpAt ap)

/-- FLOG2. -/
def fpLog2 (ftz : Bool) (a : Nat) : Nat × Nat :=
  match ftzIn .fp32 ftz (Fp.fp32.decode a) with
  | .nan sig => (Fp.fp32.cnan, if sig then fIV else 0)
  | .inf n => if n then (Fp.fp32.cnan, fIV) else (Fp.fp32.inf false, 0)
  | .fin n m x =>
    if m = 0 then (Fp.fp32.inf true, fDZ)
    else if n then (Fp.fp32.cnan, fIV)
    else if m = 2 ^ Nat.log2 m then
      let e := x + Nat.log2 m
      roundTo .fp32 .rn false ftz (if e = 0 then .zero false else .num (e < 0) e.natAbs 0 false)
    else
      let ap := approxLog2 m x
      bounded 4 (BitVec.ofNat 32 a) ftz ap fun c => within c ap 2 (ulpAt ap)

/-- FSIN and FCOS: beyond 2^20 the bound is absolute. -/
def fpTrig (cos ftz : Bool) (a : Nat) : Nat × Nat :=
  match ftzIn .fp32 ftz (Fp.fp32.decode a) with
  | .nan sig => (Fp.fp32.cnan, if sig then fIV else 0)
  | .inf _ => (Fp.fp32.cnan, fIV)
  | .fin n m x =>
    if m = 0 then (if cos then 0x3F800000 else Fp.fp32.signed n 0, 0)
    else
      let ap := approxTrig cos n m x
      let fn := if cos then 6 else 5
      if fvLt (.fin false 1 20) (.fin false m x) then
        bounded fn (BitVec.ofNat 32 a) ftz ap fun c => within c ap 1 (-20) && !fvLt (.fin false 1 0) c.abs
      else bounded fn (BitVec.ofNat 32 a) ftz ap fun c => within c ap 2 (ulpAt ap)

-- forms below

/-- FRCP (R119): Computes the FP32 reciprocal within 1 ulp. -/
def execFrcp (h : Hdr) (d a _b : BitVec 7) (s : State) :
    Host.Outcome State Fault Refusal :=
  s.fp h a.toNat 0 d.toNat 1 [r1 a] fun _ _ ftz l => fpRcp ftz (op l 0)

/-- FRSQ (R119): Computes the FP32 reciprocal square root within 1 ulp. -/
def execFrsq (h : Hdr) (d a _b : BitVec 7) (s : State) :
    Host.Outcome State Fault Refusal :=
  s.fp h a.toNat 0 d.toNat 1 [r1 a] fun _ _ ftz l => fpRsq ftz (op l 0)

/-- FEXP2 (R119): Computes 2 to the power A within 2 ulp. -/
def execFexp2 (h : Hdr) (d a _b : BitVec 7) (s : State) :
    Host.Outcome State Fault Refusal :=
  s.fp h a.toNat 0 d.toNat 1 [r1 a] fun _ _ ftz l => fpExp2 ftz (op l 0)

/-- FLOG2 (R119): Computes log2 A within 2 ulp. -/
def execFlog2 (h : Hdr) (d a _b : BitVec 7) (s : State) :
    Host.Outcome State Fault Refusal :=
  s.fp h a.toNat 0 d.toNat 1 [r1 a] fun _ _ ftz l => fpLog2 ftz (op l 0)

/-- FSIN (R119): Computes sin A in radians. -/
def execFsin (h : Hdr) (d a _b : BitVec 7) (s : State) :
    Host.Outcome State Fault Refusal :=
  s.fp h a.toNat 0 d.toNat 1 [r1 a] fun _ _ ftz l => fpTrig false ftz (op l 0)

/-- FCOS (R119): Computes cos A in radians. -/
def execFcos (h : Hdr) (d a _b : BitVec 7) (s : State) :
    Host.Outcome State Fault Refusal :=
  s.fp h a.toNat 0 d.toNat 1 [r1 a] fun _ _ ftz l => fpTrig true ftz (op l 0)

/-- FSQRT (R119): Computes the correctly rounded FP32 square root. -/
def execFsqrt (h : Hdr) (d a _b : BitVec 7) (s : State) :
    Host.Outcome State Fault Refusal :=
  s.fp h a.toNat 0 d.toNat 1 [r1 a] fun m _ ftz l => fpSqrt m ftz (op l 0)

end Sys2Proof.Machine
end

