-- ==== Sys2Proof/Machine/Fetch.lean ====
section
/-! DEFINITION. Fetching and decoding the next instruction of a slot (01 R16, 03 R69, 09 R215, 19 R393). -/

namespace Sys2Proof.Machine

/-- How far an address lies above the start of its packet (R16): packets start at cb + 12k, for k below 0 too. -/
def packetOffset (cb pc : DWord) : Nat := ((pc - cb).toInt % 12).toNat
/-- The packet that an address lies in, and the slot in it. -/
def packetOf (cb pc : DWord) : DWord := pc - BitVec.ofNat 64 (packetOffset cb pc)
def packetSlot (cb pc : DWord) : Nat := packetOffset cb pc / 4

/-- What keeps a fetch from its word: a walk that fails, or the line, which has been asked for and is not there yet. -/
inductive NoWord where
  | fault (r : WalkRes)
  | line
  deriving DecidableEq, Repr

/-- Ask for a line of code, once (R215). -/
def State.fetchLine (s : State) (w : Warp) (va : Nat) (p : Phys) : State :=
  if (s.core w.core).tags.any fun t => match t.use with | .code _ v keep => keep && v == lineVa va | _ => false then s
  else (s.codeAsk w.core w.ctx none va p).getD s

/-- The word at an address: translated as a fetch, read through the core's code cache. -/
def State.fetchWord (s : State) (w : Warp) (va : Nat) : (NoWord ⊕ Word) × State :=
  match s.access (some w.core) w.cluster w.die w.ctx va .fetch w.handler.isSome false with
  | (.ok p _ _ _ _, s) => match s.codeLine w.core va with
    | some bs => (.inr (BitVec.ofNat 32 (leNat ((bs.drop (va % 128)).take 4))), s)
    | none => (.inl .line, s.fetchLine w va p)
  | (r, s) => (.inl (.fault r), s)

/-- The next `n` words of a packet after those read: a packet is fetched whole, whatever slot is entered (R70). -/
def State.fetchPacket (s : State) (w : Warp) (pkt : Nat) : Nat → List Word → ((NoWord × Nat) ⊕ List Word) × State
  | 0, got => (.inr got, s)
  | n + 1, got =>
    let va := (pkt + 4 * got.length) % 2 ^ 64
    match s.fetchWord w va with
    | (.inl r, s) => (.inl (r, va), s)
    | (.inr x, s) => s.fetchPacket w pkt n (got ++ [x])

/-- What stands next in slot `k`: the failure of its fetch with the address, or what decoding gives. -/
def State.fetch (s : State) (w : Warp) (k : Nat) : ((NoWord × Nat) ⊕ Except Reject Group) × State :=
  let pc := (w.slot k).pc
  let j := packetSlot w.cb pc
  match s.fetchPacket w (packetOf w.cb pc).toNat 3 [] with
  | (.inl f, s) => (.inl f, s)
  | (.inr ws, s) => (.inr (decode ws j), s)

/-- The address after a packet's slot `nx` (R16). -/
def afterSlot (pkt : DWord) (nx : Nat) : DWord := if nx < 3 then pkt + BitVec.ofNat 64 (4 * nx) else pkt + 12

/-- The slot after the instruction or chain that the words from slot `j` on begin, as their opcodes and C bits show
(R16, R60). -/
def afterWords (ws : List Word) (j : Nat) : Nat → Nat
  | 0 => j
  | n + 1 =>
    let x := ws.getD j 0
    if j < 3 && (opOf x == 0x3F || cOf x) then afterWords ws (j + 1) n else j + 1

/-- The next instruction of one that does not decode (R16). -/
def State.afterReject (s : State) (w : Warp) (k : Nat) (r : Reject) : DWord :=
  let pc := (w.slot k).pc
  let pkt := packetOf w.cb pc
  match (s.fetchPacket w pkt.toNat 3 []).1 with
  | .inl _ => afterSlot pkt (r.slot + 1)
  | .inr ws => afterSlot pkt (afterWords ws r.slot 3)

/-- A fetch that fails is a walk-class fault of the slot (R388, R393): handled once every earlier access of the slot
has been walked and none has faulted. -/
def State.fetchFault (s : State) (w : Warp) (k : Nat) (r : WalkRes) (va : Nat) : State :=
  if w.unsettled k (w.seq + 1) || !(w.faulted k).isEmpty then s
  else
    let s := s.discard w k (w.seq + 1)
    let w' := (w.replay k (w.seq + 1)).settleBnds
    if r.isPerm then
      let sl := w'.slot k
      let t : TrapReq :=
        { cls := 13, mask := sl.emask, fpc := BitVec.ofNat 64 va, npc := BitVec.ofNat 64 va, rpc := sl.epc, bpc := sl.epc,
          word := packetSlot w.cb (BitVec.ofNat 64 va), va, info := Acc.fetch.code, replay := true, seq := w.seq + 1 }
      (s.setWarp (w'.setSlot k { sl with trap := some t })).takeTrap w.uid k
    else
      match s.faultRecord w.ctx va r.cause Acc.fetch.code w.die w.xid 0 (.warp w.uid k) with
      | (none, s) => s
      | (some id, s) => s.setWarp { w' with park := { w'.park with faults := w'.park.faults ++ [id] } }

/-- Is the instruction a boundary at itself (R386)? A store is one when all 16 entries of the queue are held. -/
def Warp.selfBound (w : Warp) (g : Group) : Bool :=
  g.pieces.any fun p => p.form.bnd == .self || (p.form.bnd == .st && 16 ≤ w.sq.length && w.sq.all fun e => e.held)

end Sys2Proof.Machine
end

