-- ==== Sys2Proof/Machine/Traps.lean ====
section
/-! DEFINITION. TRAP, BRK, RETT, REGION (19 R395 to R397), the illegal-instruction trap of an encoding (03 R70), and the
steps of a warp's traps, regions and age (R24, R165, R166, R390, R387, R400). -/

namespace Sys2Proof.Machine

/-- TRAP and BRK (R396). -/
def State.softTrap (s : State) (h : Hdr) (cls code : Nat) : Host.Outcome State Fault Refusal :=
  match s.cur with
  | none => noWarp
  | some (c, w) =>
    let parts := (c.src w).participants c.slot h
    if c.trap.isSome || parts == 0 then .next (s.retire .self none)
    else .next (s.trapWord c h (c.trapOf cls parts 0 code (w.seq + 1)))

/-- TRAP (R396). -/
def execTrap (h : Hdr) (_d a _b : BitVec 7) (s : State) : Host.Outcome State Fault Refusal := s.softTrap h 9 a.toNat
/-- BRK (R396). -/
def execBrk (h : Hdr) (_d a _b : BitVec 7) (s : State) : Host.Outcome State Fault Refusal := s.softTrap h 10 a.toNat

/-- REGION (R397). -/
def execRegion (h : Hdr) (_d _a _b : BitVec 7) (s : State) : Host.Outcome State Fault Refusal :=
  match s.cur with
  | none => noWarp
  | some _ => .next (s.endWord h .after)

/-- The resume point of RETT (R396): RPC, NPC or xB. -/
def rettTarget (w : Warp) (mode b : Nat) : Nat :=
  match mode with
  | 0 => (w.trapRegs.getD 3 0).toNat
  | 1 => (w.trapRegs.getD 2 0).toNat
  | _ => w.wide b 0 2

/-- RETT (R396): the handler threads resume at T, the warp leaves handler privilege, the bystanders join them or are
pushed, and every slot begins a new region. -/
def execRett (h : Hdr) (_d a b : BitVec 7) (s : State) : Host.Outcome State Fault Refusal :=
  match s.cur with
  | none => noWarp
  | some (c, w) =>
    if c.trap.isSome then .next (s.retire .self none)
    else match w.handler with
    | none => .next (s.trapWord c h (c.trapOf 1 (w.slot c.slot).mask 0 c.word.toNat (w.seq + 1)))
    | some hd =>
      let t := rettTarget (c.src w) a.toNat b.toNat
      let m := (w.slot c.slot).mask
      if t % 4 != 0 || m != (hd.threads &&& w.live) then
        .next (s.ctxFatal w.ctx w.die (w.core % 128) codeRett c.fpc.toNat)
      else
        let pc := BitVec.ofNat 64 t
        let bm : Mask := (w.trapRegs.getD 5 0).setWidth 32 &&& w.live
        let bpc := w.trapRegs.getD 4 0
        let join := bm != 0 && bpc == pc
        let w := { w with handler := none, pend := if bm != 0 && !join then w.pend ++ [(bpc, bm)] else w.pend }
        let s := (s.setWarp w).retire .self (some [(pc, if join then m ||| bm else m)])
        .next (s.takeTrap c.uid (1 - c.slot))

/-- ILLEGAL_INSTRUCTION (R70): raised at issue, before any operand is read and whatever the guard; `fpc` and `word` are
those of the word the failure is laid at. -/
def execIllegalInstruction (fpc : BitVec 64) (word : Word) (s : State) : Host.Outcome State Fault Refusal :=
  match s.cur with
  | none => noWarp
  | some (c, w) =>
    let c' := { c with wslot := packetSlot c.pkt fpc, word }
    let t := { c'.trapOf 1 (w.slot c.slot).mask 0 word.toNat (w.seq + 1) with fpc, rpc := fpc, bpc := fpc }
    .next ({ s with issue := some { c' with trap := some t } }.retire .no none)

/-! Steps of a warp. -/

/-- TRAP_ENTRY (R390): the slot's trap is taken once every earlier access has passed translation. -/
def execTrapEntry (u k : Nat) (s : State) : Host.Outcome State Fault Refusal := .next (s.takeTrap u k)

/-- Is the timer trap due, and not raised already (R391, R400)? -/
def State.timerDue (s : State) (w : Warp) : Bool :=
  w.tmask.getLsbD 8 && w.handler.isNone && decide (w.wtcmp.toNat ≤ s.wtime w) &&
    !w.slots.any fun sl => sl.trap.any fun t => t.cls == 11

/-- TIMER_TRAP (R400): in place of the first grant of a slot, by the grant alone; FPC and RPC name the instruction, NPC
the one after it and its chain. -/
def execTimerTrap (u k : Nat) (s : State) : Host.Outcome State Fault Refusal :=
  match s.warp? u with
  | none => .next s
  | some w =>
    let sl := w.slot k
    if !s.timerDue w || sl.mask == 0 || sl.trap.isSome || sl.wait.isSome then .next s
    else
      match s.fetch w k with
      | (.inl _, _) => .next s
      | (.inr g, s) =>
        let npc := match g with
          | .ok g => afterSlot (packetOf w.cb sl.pc) g.next
          | .error r => s.afterReject w k r
        let t : TrapReq :=
          { cls := 11, mask := sl.mask, fpc := sl.pc, npc, rpc := sl.pc, bpc := sl.pc, word := packetSlot w.cb sl.pc,
            va := 0, info := 0, replay := false, seq := w.seq + 1 }
        .next ((s.modWarp u fun w => w.setSlot k { w.slot k with trap := some t }).takeTrap u k)

/-- REGION_BOUNDARY (R387): boundaries that wait take effect once the accesses before them have passed translation,
and the slot's next instruction, if it is a boundary, begins a region. -/
def execRegionBoundary (u k : Nat) (s : State) : Host.Outcome State Fault Refusal :=
  match s.warp? u with
  | none => .next s
  | some w =>
    let w := w.settleBnds
    let s := s.setWarp w
    let sl := w.slot k
    if !w.bnds.isEmpty || w.unwalked (w.seq + 1) || sl.mask == 0 || (sl.epc == sl.pc && !(w.sq.any fun e => e.held)) then .next s
    else
      match s.fetch w k with
      | (.inr (.ok g), s) =>
        if w.selfBound g then .next (s.modWarp u fun w => w.boundary (w.seq + 1) k sl.pc sl.mask) else .next s
      | (_, s) => .next s

/-- SWITCH_MARKER_RELEASE (R24, R165): nothing the warp waits for is outstanding; it is the youngest of its lane. -/
def execSwitchMarkerRelease (u : Nat) (s : State) : Host.Outcome State Fault Refusal :=
  match s.warp? u with
  | none => .next s
  | some w =>
    let open_ := (w.accs.any fun a => !(a.dst.isEmpty && a.pdst.isEmpty)) || w.sq.any fun e => match e.kind with
      | .atom _ _ _ (some _) => true
      | .direct _ _ => true
      | _ => false
    if w.park.marker && !open_ then
      .next ((s.setWarp { w with park := { w.park with marker := false } }).youngest u)
    else .next s

/-- GRANT_COUNT_ROTATION (R166). -/
def execGrantCountRotation (u : Nat) (s : State) : Host.Outcome State Fault Refusal :=
  match s.warp? u with
  | none => .next s
  | some w => if 256 ≤ w.grants then .next (s.youngest u) else .next s

end Sys2Proof.Machine
end

