-- ==== Sys2Proof/Machine/Worklist.lean ====
section
/-! DEFINITION. The Quarry worklist (17 R353 to R379): quarries, placing, spilling and refilling, pops and steals, floor
waves and termination passes, and the forms. -/

namespace Sys2Proof.Machine

/-! Quarries and shards. -/

/-- The live quarry of a context's number; the live quarry of a task. -/
def State.quarry? (s : State) (ctx n : Nat) : Option Quarry := s.quarries.find? fun q => q.ctx == ctx && q.n == n
def State.quarryId? (s : State) (id : Nat) : Option Quarry := s.quarries.find? fun q => q.id == id
def State.setQuarry (s : State) (q : Quarry) : State :=
  { s with quarries := s.quarries.map fun x => if x.id == q.id then q else x }

def State.shard (s : State) (cl : Nat) : Shard := (s.cluster cl).shard
def State.setShard (s : State) (cl : Nat) (x : Shard) : State := s.setCluster cl { s.cluster cl with shard := x }

/-- The bench of a key (R353). -/
def Quarry.bench (q : Quarry) (key : Nat) : Nat := key / 2 ^ q.bw

/-- VIEW of a quarry at a shard (R358). -/
def State.view (s : State) (cl id : Nat) : Nat := (look id (s.shard cl).views).getD 0
def State.setView (s : State) (cl id v : Nat) : State :=
  let x := s.shard cl
  s.setShard cl { x with views := if v = 0 then del id x.views else put id v x.views }

/-- The clusters of the package. -/
def allClusters : List Nat := List.range 288

/-- Tasks in flight: held by threads, by saved warps, and gathered by pops under way (R357). -/
def State.inFlight (s : State) (id : Nat) : List Task :=
  let gathered := fun (a : Access) => match a.kind with
    | .shard (.pop _ _ _ _ _ got _) => got
    | _ => []
  ((s.warps.flatMap fun w => w.tasks ++ w.accs.flatMap gathered) ++
    s.chans.flatMap fun c => c.saved.flatMap fun g => g.warps.flatMap (·.tasks)).filter fun k => k.q == id

/-- Tasks of pushes in transit (R360). -/
def State.inTransit (s : State) (id : Nat) : List Task :=
  s.warps.flatMap fun w => w.sq.flatMap fun e => match e.kind with
    | .push q ts => if q = id then ts.drop e.next else []
    | _ => []

/-- Slots of a shard's segment that are held (R356). -/
def State.usedSlots (s : State) (id cl : Nat) : List Nat :=
  let x := s.shard cl
  ((x.chip.filter fun t => t.q == id).map (·.slot)) ++ ((x.spilled.filter fun t => t.q == id).map (·.slot)) ++
    ((s.inFlight id ++ s.inTransit id).filter fun t => t.home == cl).map (·.slot)

/-- The keys queued at a shard. -/
def Shard.keys (x : Shard) (id : Nat) : List Nat :=
  ((x.chip.filter fun t => t.q == id).map (·.key)) ++ (x.spilled.filter fun t => t.q == id).map (·.key)

/-! Linked quarries (R435): the other devices' parts are the environment's (log entry 34). -/

/-- Is it a part of this quarry on a member device? -/
def Quarry.joins (q : Quarry) (m : Member) : Bool := q.members.contains m.dev && m.lgid == q.lgid && m.n == q.n

def State.membersOf (s : State) (q : Quarry) : List Member := s.env.members.filter q.joins

def State.mapMembers (s : State) (q : Quarry) (f : Member → Member) : State :=
  { s with env := { s.env with members := s.env.members.map fun m => if q.joins m then f m else m } }

/-- The keys that a member device holds, queued or in flight. -/
def Member.keys (m : Member) : List Nat := (m.chip.map (·.2.key)) ++ m.rest

/-- Completed pushes, on every member device (R366). -/
def State.pushCount (s : State) (q : Quarry) : Nat := q.pushes + ((s.membersOf q).map (·.pushes)).sum

/-- The shard of cluster `c` of device `d` (R436), in one numbering with the own shards 0 to 287. -/
def farShard (d c : Nat) : Nat := 288 * (d + 1) + c

/-- Is it that shard's device? -/
def Member.at_ (m : Member) (v : Nat) : Bool := m.dev == v / 288 - 1

/-- The floor (R357). -/
def State.floorOf (s : State) (q : Quarry) : Option Nat :=
  ((s.clusters.flatMap fun p => p.2.shard.keys q.id) ++ (s.inFlight q.id).map (·.key) ++
    (s.membersOf q).flatMap Member.keys).map q.bench |>.min?

/-- A quarry ends (R371). -/
def State.retireQuarry (s : State) (id : Nat) : State :=
  { s with quarries := s.quarries.filter fun q => q.id != id
           clusters := s.clusters.map fun p => (p.1, { p.2 with shard := p.2.shard.retire [id] }) }

/-! Placing, spilling, refilling (R355, R361, R362). -/

/-- The place of a spoil slot, by the leaves that QYINIT found (R355). -/
def Quarry.slotPhys (q : Quarry) (home slot : Nat) : Phys :=
  let va := (q.spbase + 16 * (q.seg * home + slot)) % 2 ^ 64
  match q.pages.find? fun p => p.1 ≤ va && va < p.1 + p.2.1 with
  | some (base, _, pa) => ⟨0, pa + (va - base)⟩
  | none => ⟨0, 0⟩

/-- Spill a task into its slot (R355). -/
def State.spill (s : State) (q : Quarry) (cl : Nat) (t : QTask) : State :=
  let s := s.homeWrite (q.slotPhys cl t.slot) (leBytes 8 t.pay ++ leBytes 4 t.key ++ leBytes 4 0)
  let x := s.shard cl
  s.setShard cl { x with spilled := x.spilled ++ [{ q := t.q, key := t.key, slot := t.slot, stamp := t.stamp }] }

/-- Is a bench in the window of a shard (R361)? -/
def State.inWindow (s : State) (q : Quarry) (cl b : Nat) : Bool := s.view cl q.id ≤ b && b < s.view cl q.id + 64

/-- R363: ascending bench, then the moment queued. -/
def taskBefore (b1 st1 b2 st2 : Nat) : Bool := b1 < b2 || (b1 == b2 && st1 < st2)

/-- The newest on-chip task of the highest bench above `b`. -/
def Shard.victim (x : Shard) (q : Quarry) (b : Nat) : Option QTask :=
  (x.chip.filter fun t => t.q == q.id && b < q.bench t.key).foldl (fun (best : Option QTask) t =>
    match best with
    | none => some t
    | some u => if taskBefore (q.bench u.key) u.stamp (q.bench t.key) t.stamp then some t else best) none

def State.addChip (s : State) (cl : Nat) (t : QTask) : State :=
  let x := s.shard cl
  s.setShard cl { x with chip := x.chip ++ [t] }

/-- R361 for a task that has its place in the order of R363. -/
def State.placeTask (s : State) (q : Quarry) (cl : Nat) (t : QTask) : State :=
  let x := s.shard cl
  let b := q.bench t.key
  if !s.inWindow q cl b then s.spill q cl t
  else if x.chip.length < 4096 then s.addChip cl t
  else match x.victim q b with
    | none => s.spill q cl t
    | some v =>
      ((s.setShard cl { x with chip := x.chip.filter fun u => u != v }).spill q cl v).addChip cl t

/-- A task becomes queued at its home shard (R360, R374). -/
def State.queueTask (s : State) (q : Quarry) (k : Task) : State :=
  s.fresh.placeTask q k.home { q := q.id, pay := k.pay, key := k.key, slot := k.slot, stamp := s.nextId }

/-- What a spilled task's slot holds now (R355): payload and key. -/
def State.reread (s : State) (q : Quarry) (cl : Nat) (t : SpTask) : QTask :=
  let bs := s.homeRead (q.slotPhys cl t.slot) 12
  { q := t.q, pay := leNat (bs.take 8), key := leNat (bs.drop 8), slot := t.slot, stamp := t.stamp }

def State.dropSpilled (s : State) (cl : Nat) (t : SpTask) : State :=
  let x := s.shard cl
  s.setShard cl { x with spilled := x.spilled.filter fun u => u != t }

/-- The spilled task that a shard refills next, of any quarry (R362): in its window, lowest bench first, then oldest. -/
def State.nextRefill (s : State) (cl : Nat) : Option (Quarry × SpTask) :=
  (s.shard cl).spilled.foldl (fun (best : Option (Quarry × SpTask)) t =>
    match s.quarryId? t.q with
    | none => best
    | some q =>
      if !s.inWindow q cl (q.bench t.key) then best
      else match best with
        | none => some (q, t)
        | some (p, u) =>
          if taskBefore (q.bench t.key) t.stamp (p.bench u.key) u.stamp then some (q, t) else best) none

/-- The slots of spilled tasks are read. -/
def State.readSlots (s : State) (q : Quarry) (cl : Nat) (ts : List SpTask) : State :=
  ts.foldl (fun s t => s.fillAt (q.slotPhys cl t.slot) 12) s

/-- SPOIL_REFILL (R362): one task, placed by the key that its slot now holds (R355). -/
def execSpoilRefill (cl : Nat) (s : State) : Host.Outcome State Fault Refusal :=
  if 4096 ≤ (s.shard cl).chip.length then .next s
  else match s.nextRefill cl with
    | none => .next s
    | some (q, t) => .next (((s.readSlots q cl [t]).dropSpilled cl t).placeTask q cl (s.reread q cl t))

/-! Pushes (R360, R372). -/

/-- Tasks on chip that have come to lie outside their shard's window go to their spoil slots (R361). -/
def State.spillBeyond (s : State) (q : Quarry) (cl : Nat) : State :=
  let out := (s.shard cl).chip.filter fun t => t.q == q.id && !s.inWindow q cl (q.bench t.key)
  if out.isEmpty then s
  else out.foldl (fun s t => s.spill q cl t)
    (s.setShard cl { s.shard cl with chip := (s.shard cl).chip.filter fun t => !out.contains t })

/-- VIEW comes down to `b` in every shard where it is higher, on every member device too (R360, R435). -/
def State.lowerViews (s : State) (q : Quarry) (b : Nat) : State :=
  (allClusters.foldl (fun s cl => if b < s.view cl q.id then (s.setView cl q.id b).spillBeyond q cl else s) s).mapMembers q
    fun m => { m with view := min m.view b }

/-- PUSH_COMPLETE (R360): the next participant's push of the oldest entry. -/
def execPushComplete (u : Nat) (s : State) : Host.Outcome State Fault Refusal :=
  match s.warp? u with
  | none => .next s
  | some w =>
    match w.sq with
    | [] => .next s
    | e :: _ =>
      match e.kind with
      | .push id ts =>
        if !e.busy then .next s
        else match ts[e.next]?, s.quarryId? id with
          | some k, some q =>
            let b := q.bench k.key
            let e' := { e with next := e.next + 1 }
            let w' := if e'.next < ts.length then w.setEntry e' else { w with sq := w.sq.filter fun x => x.id != e.id }
            let s := s.setWarp w'
            let s := if b < s.view k.home q.id then s.lowerViews q b else s
            .next ((s.queueTask q k).setQuarry { q with quiet := false, pushes := q.pushes + 1 })
          | _, _ => .next (s.setWarp { w with sq := w.sq.filter fun x => x.id != e.id })
      | _ => .next s

/-- The trap of a form that names a quarry which is not live, whoever takes part (R370). -/
def State.notLive (s : State) (c : Issue) (h : Hdr) (parts : Mask) (w : Warp) : State :=
  s.illegal c h (if parts == 0 then (w.slot c.slot).mask else parts) w

/-- QYPUSH (R372): slots reserved at grant, one entry of the store queue, and the quarry is not quiet while the pushes are
in transit (R366). -/
def execQypush (h : Hdr) (d a b : BitVec 7) (s : State) : Host.Outcome State Fault Refusal :=
  match s.cur with
  | none => noWarp
  | some (c, w) =>
    let r := c.src w
    let parts := r.participants c.slot h
    match s.quarry? w.ctx d.toNat with
    | none => .next (s.notLive c h parts w)
    | some q =>
      if parts == 0 then .next (s.endWord h .self) else
      let used := s.usedSlots q.id w.cluster
      let ts := threads parts
      let n := ts.length
      if q.seg < used.length + n then .next (s.trapWord c h (c.trapOf 7 parts 0 d.toNat (w.seq + 1)))
      else
        let slots := ((List.range (used.length + n)).filter fun k => !used.contains k).take n
        let tasks := (ts.zip slots).map fun p =>
          ({ q := q.id, thread := p.1, pay := r.wide a.toNat p.1 2, key := (r.reg b.toNat p.1).toNat, home := w.cluster,
             slot := p.2 } : Task)
        let w := (w.markAlone c (markCodes h a.toNat b.toNat) parts).addEntry
          (c.entry w s.nextId (.push q.id tasks) .glob 0 parts [] true)
        .next (((s.setQuarry { q with quiet := false }).fresh.setWarp w).endWord h .self)

/-! Pops and steals (R359, R364, R373). -/

/-- The shards after a shard's own in the order of R364. -/
def victims (cl : Nat) : List Nat :=
  let d := cl / 32
  ((List.range 31).map fun k => 32 * d + (cl + k + 1) % 32) ++
    (List.range 8).flatMap fun k => (List.range 32).map fun c => 32 * ((d + k + 1) % 9) + c

/-- A shard's on-chip tasks of a quarry within reach, in the order of R363. -/
def Shard.within (x : Shard) (q : Quarry) (reach : Nat) : List QTask :=
  (x.chip.filter fun t => t.q == q.id && q.bench t.key ≤ reach).insertionSort fun a b =>
    taskBefore (q.bench a.key) a.stamp (q.bench b.key) b.stamp

/-- The reach of a pop (R359). -/
def State.reach (s : State) (cl : Nat) (q : Quarry) : Nat := s.view cl q.id + q.span

/-- A task taken from a shard. -/
def QTask.held (t : QTask) (home : Nat) : Task :=
  { q := t.q, thread := 0, pay := t.pay, key := t.key, home, slot := t.slot }

/-- A pop under way. -/
structure Pop where
  n : Nat
  d : Nat
  sb : Nat
  pq : Option Nat
  takers : List Nat
  got : List Task
  at_ : Option (Bool × Nat)

def Pop.cmd (p : Pop) : ShardCmd := .pop p.n p.d p.sb p.pq p.takers p.got p.at_
def Access.pop (a : Access) : Option Pop :=
  match a.kind with
  | .shard (.pop n d sb pq takers got at_) => some { n, d, sb, pq, takers, got, at_ }
  | _ => none
def State.setPop (s : State) (u id : Nat) (p : Pop) : State :=
  s.modWarp u fun w => { w with accs := w.accs.map fun a => if a.id == id then { a with kind := .shard p.cmd } else a }

/-- Steps 1 and 2 of R364: spilled tasks within reach are refilled, the pop takes its own shard's tasks within reach in
the order of R363, and the refilled ones that it leaves are placed by the bench that they now have (R355, R361). -/
def State.popOwn (s : State) (cl : Nat) (q : Quarry) (p : Pop) : Pop × State :=
  let reach := s.reach cl q
  let x := s.shard cl
  let sp := x.spilled.filter fun t => t.q == q.id && q.bench t.key ≤ reach
  let fresh := sp.map fun t => s.reread q cl t
  let cands : Shard := { x with chip := x.chip ++ fresh }
  let got := (cands.within q reach).take (p.takers.length - p.got.length)
  let s := (s.readSlots q cl sp).setShard cl { x with
    chip := x.chip.filter fun t => !got.contains t, spilled := x.spilled.filter fun t => !sp.contains t }
  ({ p with got := p.got ++ got.map fun t => t.held cl },
   (fresh.filter fun t => !got.contains t).foldl (fun s t => s.placeTask q cl t) s)

/-- The shards of the member devices, after the own ones: ascending devid from the device's own, wrapping (R436). -/
def State.farVictims (s : State) (q : Quarry) : List Nat :=
  (List.range 63).flatMap fun k =>
    let d := (s.regs.devid + k + 1) % 64
    if (s.membersOf q).any fun m => m.dev == d then allClusters.map (farShard d) else []

/-- The victims of a pop in order (R364, R436). -/
def State.victimsOf (s : State) (cl : Nat) (q : Quarry) : List Nat := victims cl ++ s.farVictims q

/-- A victim's tasks of the quarry: an own shard's, or a member device's. -/
def State.victimShard (s : State) (q : Quarry) (v : Nat) : Shard :=
  if v < 288 then s.shard v
  else
    let far := fun (m : Member) =>
      if m.at_ v then (m.chip.filter fun t => t.1 == v % 288).map fun t => { t.2 with q := q.id } else []
    { Shard.empty with chip := (s.membersOf q).flatMap far }

/-- Tasks leave a victim. -/
def State.takeFrom (s : State) (q : Quarry) (v : Nat) (got : List QTask) : State :=
  if v < 288 then s.setShard v { s.shard v with chip := (s.shard v).chip.filter fun t => !got.contains t }
  else s.mapMembers q fun m =>
    if m.at_ v then { m with chip := m.chip.filter fun t => !(t.1 == v % 288 && got.contains { t.2 with q := q.id }) } else m

/-- The next shard, from place `i` of the victim order, that a steal takes something from. -/
def State.popNext (s : State) (cl : Nat) (q : Quarry) (i : Nat) : Option (Nat × Nat) :=
  (((s.victimsOf cl q).zipIdx).drop i).find? fun v => !((s.victimShard q v.1).within q (s.reach cl q)).isEmpty

/-- What a pop delivers (R373): task i to the i-th taker, all results together; the task of a thread that has exited
ends (R374). -/
def State.popDeliver (s : State) (u id : Nat) (a : Access) (p : Pop) (yield quiet : Bool) : State :=
  let ps := p.takers.zip p.got
  let wr := wordWrites p.d 3 (ps.map fun x =>
    (x.1, [BitVec.ofNat 32 x.2.pay, BitVec.ofNat 32 (x.2.pay / 2 ^ 32), BitVec.ofNat 32 x.2.key]))
  let st := ps.length + 2 ^ 30 * b2n yield + 2 ^ 31 * b2n quiet
  let pw := match p.pq with | some n => [RegWrite.p n a.parts (maskOf (ps.map (·.1)))] | none => []
  let s := s.modWarp u fun w =>
    { w with tasks := w.tasks ++ (ps.filter fun x => has w.live x.1).map fun x => { x.2 with thread := x.1 } }
  s.ready u id (wr ++ [.s p.sb (BitVec.ofNat 32 st)] ++ pw)

/-- A task goes back to its home shard (R374), on a member device where it came from there (R436). -/
def State.sendHome (s : State) (q : Quarry) (k : Task) : State :=
  if k.home < 288 then s.queueTask q k
  else
    let t : QTask := { q := q.id, pay := k.pay, key := k.key, slot := k.slot, stamp := s.nextId }
    s.fresh.mapMembers q fun m => if m.at_ k.home then { m with chip := m.chip ++ [(k.home % 288, t)] } else m

/-- The pop goes on to its next victim, or delivers; once a stop is in force it delivers nothing, and what it has gathered
goes back (R367). -/
def State.popGoOn (s : State) (w : Warp) (a : Access) (q : Quarry) (p : Pop) (quiet : Bool) (i : Nat) : State :=
  if w.stop then
    (p.got.foldl (fun s k => s.sendHome q k) s).popDeliver w.uid a.id a { p with takers := [], got := [] } true quiet
  else if p.takers.length ≤ p.got.length || (s.popNext w.cluster q i).isNone then s.popDeliver w.uid a.id a p false quiet
  else s.setPop w.uid a.id { p with at_ := some (quiet, i) }

/-- A pop is served (R364, R367): by its own shard first. -/
def State.popServe (s : State) (w : Warp) (a : Access) (p : Pop) : State :=
  match s.quarry? w.ctx p.n with
  | none => s.popDeliver w.uid a.id a { p with takers := [] } w.stop true
  | some q =>
    match p.at_ with
    | some (quiet, i) => s.popGoOn w a q p quiet i
    | none =>
      if w.stop then s.popDeliver w.uid a.id a { p with takers := [] } true q.quiet
      else
        let ts := (threads a.parts).filter fun t => !w.tasks.any fun k => k.q == q.id && k.thread == t
        let (p, s) := s.popOwn w.cluster q { p with takers := ts }
        s.popGoOn w a q p q.quiet 0

/-- Have the warp's earlier store-queue entries performed, and its earlier shard commands been served (R377)? -/
def Warp.shardTurn (w : Warp) (seq : Nat) : Bool :=
  !(w.sq.any fun e => e.seq < seq) && !w.accs.any fun a => a.seq < seq && match a.kind with
    | .shard _ => true
    | .qyinit _ _ _ => true
    | _ => false

/-- Does a command wait to be served by its cluster's shard: a pop that visits other shards and a QYQUIET.WAIT do not? -/
def Warp.atShard (w : Warp) (a : Access) : Bool :=
  w.shardTurn a.seq && match a.kind with
    | .shard (.pop _ _ _ _ _ _ (some _)) => false
    | .shard (.quiet n d) => !w.slots.any fun sl => sl.wait == some (.quiet n d a.id)
    | .shard _ => true
    | _ => false

/-- Have cores of the shard's own cluster a command for it: it goes before a steal (R365)? -/
def State.shardAsked (s : State) (cl : Nat) : Bool := s.warps.any fun w => w.cluster == cl && w.accs.any w.atShard

/-- Is it the turn of a warp's core at its shard: the core numbered after the one last served goes first (R365)? -/
def State.coreTurn (s : State) (w : Warp) : Bool :=
  let far := fun (x : Warp) => (x.core + 3 - (s.shard w.cluster).last) % 4
  !s.warps.any fun x => x.cluster == w.cluster && far x < far w && x.accs.any x.atShard

/-- The shard has served a core. -/
def State.servedCore (s : State) (w : Warp) : State :=
  s.setShard w.cluster { s.shard w.cluster with last := w.core % 4 }

/-- STEAL (R364): the pop's next victim, if it is this one, gives up to half of its on-chip tasks within the thief's
reach. -/
def execSteal (u id victim : Nat) (s : State) : Host.Outcome State Fault Refusal :=
  match s.warp? u with
  | none => .next s
  | some w =>
    match w.accs.find? fun a => a.id == id with
    | none => .next s
    | some a =>
      match a.pop with
      | none => .next s
      | some p =>
        match p.at_, s.quarry? w.ctx p.n with
        | some (quiet, i), some q =>
          match s.popNext w.cluster q i with
          | none => .next s
          | some (v, j) =>
            if v != victim || (v < 288 && s.shardAsked v) then .next s
            else
              let c := (s.victimShard q v).within q (s.reach w.cluster q)
              let got := c.take (min (p.takers.length - p.got.length) ((c.length + 1) / 2))
              let s := s.takeFrom q v got
              let p := { p with got := p.got ++ got.map fun t => t.held v }
              .next ((s.setPop u id p).popGoOn w a q p quiet (j + 1))
        | _, _ => .next s

/-- A shard form under way: the access that its result or completion ends. -/
def State.shardForm (s : State) (c : Issue) (h : Hdr) (w : Warp) (cmd : ShardCmd) (marks : List Nat) (parts : Mask)
    (dst pdst : List Nat) : State :=
  let w := (w.markAlone c marks parts).addAccess (c.access w s.nextId (.shard cmd) .glob 0 dst pdst parts [] true)
  (s.fresh.setWarp w).endWord h .self

/-- QYPOP (R373). -/
def execQypop (h : Hdr) (d a b : BitVec 7) (s : State) : Host.Outcome State Fault Refusal :=
  match s.cur with
  | none => noWarp
  | some (c, w) =>
    let parts := (c.src w).participants c.slot h
    if (s.quarry? w.ctx a.toNat).isNone then
      .next (s.notLive c h parts w)
    else
      let pd := match pqOf h with | some n => if n = 0 then [] else [n] | none => []
      .next (s.shardForm c h w (.pop a.toNat d.toNat (b.toNat - 64) (pqOf h) [] [] none) (markCodes h 127 127) parts
        (dstCodes d.toNat 3 ++ dstCodes b.toNat 1) pd)

/-! QYDONE and QYYIELD (R374). -/

/-- Each participant's in-flight task ends, or goes back to its home shard in ascending thread. -/
def State.endTasks (s : State) (w : Warp) (a : Access) (n : Nat) (back : Bool) : State :=
  let s := s.modWarp w.uid fun w => w.dropAccess a.id
  match s.quarry? w.ctx n with
  | none => s
  | some q =>
    let mine := fun (k : Task) => k.q == q.id && has a.parts k.thread
    let ks := (threads a.parts).flatMap fun t => w.tasks.filter fun k => k.q == q.id && k.thread == t
    let s := s.modWarp w.uid fun w => { w with tasks := w.tasks.filter fun k => !mine k }
    if back then ks.foldl (fun s k => s.sendHome q k) s else s

/-- QYDONE and QYYIELD at issue. -/
def State.endForm (s : State) (h : Hdr) (a : BitVec 7) (cmd : Nat → Nat → ShardCmd) : Host.Outcome State Fault Refusal :=
  match s.cur with
  | none => noWarp
  | some (c, w) =>
    let parts := (c.src w).participants c.slot h
    match s.quarry? w.ctx a.toNat with
    | none => .next (s.notLive c h parts w)
    | some q =>
      if parts == 0 then .next (s.endWord h .self)
      else .next (s.shardForm c h w (cmd a.toNat q.id) (markCodes h 127 127) parts [] [])

/-- QYDONE (R374). -/
def execQydone (h : Hdr) (_d a _b : BitVec 7) (s : State) : Host.Outcome State Fault Refusal := s.endForm h a fun n _ => .done n
/-- QYYIELD (R374). -/
def execQyyield (h : Hdr) (_d a _b : BitVec 7) (s : State) : Host.Outcome State Fault Refusal :=
  s.endForm h a fun n id => .giveBack n id

/-! QYQUIET, QYFLOOR, QYSTAT (R375, R376). -/

/-- The status word of QYQUIET; a quarry that has been retired since was quiet then. -/
def State.quietWord (s : State) (w : Warp) (n : Nat) : Word :=
  let quiet := match s.quarry? w.ctx n with | some q => q.quiet | none => true
  BitVec.ofNat 32 (b2n quiet + 2 * b2n w.stop)

/-- QUIET_WAIT_RELEASE (R375). -/
def execQuietWaitRelease (u k : Nat) (s : State) : Host.Outcome State Fault Refusal :=
  match s.warp? u with
  | none => .next s
  | some w =>
    match (w.slot k).wait with
    | some (.quiet n d id) =>
      match w.accs.find? fun a => a.id == id with
      | none => .next (s.wakeSlot u k)
      | some a =>
        let v := s.quietWord w n
        if w.shardTurn a.seq && v != 0 then .next ((s.ready u id [.s d v]).wakeSlot u k) else .next s
    | _ => .next s

/-- QYQUIET (R375): with `.WAIT` the slot waits. -/
def execQyquiet (h : Hdr) (d a b : BitVec 7) (s : State) : Host.Outcome State Fault Refusal :=
  match s.cur with
  | none => noWarp
  | some (c, w) =>
    let parts := (w.slot c.slot).mask
    let k := d.toNat - 64
    if (s.quarry? w.ctx a.toNat).isNone then .next (s.illegal c h parts w)
    else
      let w := if b = 1 then w.await c.slot (.quiet a.toNat k s.nextId) else w
      .next (s.shardForm c h w (.quiet a.toNat k) (markCodes h 127 127) parts (dstCodes d.toNat 1) [])

/-- A pair of words read at grant. -/
def State.pairForm (s : State) (h : Hdr) (d : BitVec 7) (v : Warp → Nat) : Host.Outcome State Fault Refusal :=
  match s.cur with
  | none => noWarp
  | some (c, w) =>
    let parts := (w.slot c.slot).mask
    let k := d.toNat - 64
    let wr := [RegWrite.s k (BitVec.ofNat 32 (v w)), RegWrite.s (k + 1) (BitVec.ofNat 32 (v w / 2 ^ 32))]
    let w := (w.markAlone c (markCodes h 127 127) parts).addAccess (c.scalarAccess w s.nextId (.result wr) d.toNat 2 parts)
    .next ((s.fresh.setWarp w).endWord h .no)

/-- QYFLOOR (R375). -/
def execQyfloor (h : Hdr) (d a _b : BitVec 7) (s : State) : Host.Outcome State Fault Refusal :=
  s.pairForm h d fun w => match s.quarry? w.ctx a.toNat with
    | none => 0
    | some q => s.view w.cluster q.id % 2 ^ 32 + 2 ^ 32 * b2n q.quiet

/-- QYSTAT (R376). -/
def execQystat (h : Hdr) (d a _b : BitVec 7) (s : State) : Host.Outcome State Fault Refusal :=
  s.pairForm h d fun w => match s.quarry? w.ctx a.toNat with
    | none => 0
    | some q =>
      1 + 2 * b2n q.quiet + 4 * b2n q.link + 8 * b2n w.stop +
        256 * ((s.shard w.cluster).chip.filter fun t => t.q == q.id).length + 2 ^ 32 * (s.usedSlots q.id w.cluster).length

/-! QYINIT (R371). -/

/-- Bytes within a line as a `.CG` load reads them (R243). -/
def State.cgRead (s : State) (core ctx va : Nat) (p : Phys) (n : Nat) : List Byte :=
  (List.range n).map fun i =>
    match s.l1Line? core ctx va with
    | some l => if bit l.dirty ((va % 128 + i) / 16) then l.data.getD (va % 128 + i) 0 else s.homeByte { p with pa := p.pa + i }
    | none => s.homeByte { p with pa := p.pa + i }

/-- A descriptor (R354): none when it is ill-formed. -/
def quarryOf (bs : List Byte) (ctx n : Nat) : Option Quarry :=
  let spbase := leNat (bs.take 8)
  let seg := leNat ((bs.drop 8).take 4)
  let w := leNat ((bs.drop 12).take 4)
  if spbase % 4096 != 0 || seg < 8 || 16777216 < seg || seg % 8 != 0 || fld w 22 10 != 0 || leNat (bs.drop 16) != 0 then none
  else some { id := 0, ctx, n, spbase, seg, span := fld w 0 16, bw := fld w 16 5, link := bit w 21, lgid := 0, ldev := 0,
              members := [], pages := [], quiet := true, pushes := 0, pass := none }

/-- QYINIT meets a walk fault at an address: it is handled as a load's or, for the spoil area, as a store's (R371). -/
def State.qyFault (s : State) (w : Warp) (a : Access) (st : Bool) (r : WalkRes) (va : Nat) : State :=
  let f : WFault := { perm := r.isPerm, cause := r.cause, va, mask := a.parts }
  s.modWarp w.uid fun w => w.setAccess { a with kind := if st then .engine true else a.kind, fault := some f }

/-- QYINIT ends with a status. -/
def State.qyStatus (s : State) (w : Warp) (a : Access) (d st : Nat) : State :=
  (s.ready w.uid a.id [.s d (BitVec.ofNat 32 st)]).modWarp w.uid Warp.settleBnds

/-- The case of a descriptor that has been read (R371). -/
def State.qyInit (s : State) (w : Warp) (a : Access) (d n : Nat) (bs : List Byte) : State :=
  let old := s.quarry? w.ctx n
  match quarryOf bs w.ctx n with
  | none => s.qyStatus w a d 2
  | some q =>
    if (match old with | some o => !o.quiet | none => false) then s.qyStatus w a d 1
    else if old.isNone && 16 ≤ s.quarries.length then s.qyStatus w a d 3
    else
      let last := q.spbase + 288 * q.seg * 16 - 1
      match s.leaves (some w.core) w.cluster w.ctx .store a.priv last (288 * q.seg * 16 / 32768 + 2) q.spbase [] with
      | (.inl (r, va), s) => s.qyFault w a true r va
      | (.inr ls, s) =>
        match ls.find? fun l => l.2.2.1.tgt != 0 with
        | some l => s.qyFault w a true .perm (max l.1 q.spbase)
        | none =>
          let (lgid, ldev) := match look w.ctx s.ctxs with | some c => (c.lgid, c.ldev) | none => (0, 0)
          let s := match old with | some o => s.retireQuarry o.id | none => s
          let ms := (s.env.members.filter fun m =>
            q.link && m.lgid == lgid && m.n == n && bit ldev m.dev && m.dev != s.regs.devid).map (·.dev)
          let q := { q with id := s.nextId, pages := ls.map fun l => (l.1, l.2.1, l.2.2.1.pa), lgid, ldev, members := ms }
          { s.fresh with quarries := s.quarries ++ [q] }.qyStatus w a d 0

/-- QYINIT is served (R371). -/
def State.qyServe (s : State) (w : Warp) (a : Access) (d n adr : Nat) : State :=
  if adr = 0 then
    match s.quarry? w.ctx n with
    | none => s.qyStatus w a d 4
    | some q => if q.quiet then (s.retireQuarry q.id).qyStatus w a d 4 else s.qyStatus w a d 1
  else
    match s.access (some w.core) w.cluster w.die w.ctx adr .load a.priv true with
    | (.ok p _ _ _ _, s) =>
      if !s.reaches p 0 then s.ctxFatal w.ctx w.die (w.core % 128) codeLink a.fpc.toNat
      else match s.hostCame w.ctx [p] with
        | (false, s) => s
        | (true, s) => (s.fillAt p 32).qyInit w a d n (s.cgRead w.core w.ctx adr p 32)
    | (r, s) => s.qyFault w a false r adr

/-- QYINIT (R371). -/
def execQyinit (h : Hdr) (d a b : BitVec 7) (s : State) : Host.Outcome State Fault Refusal :=
  match s.cur with
  | none => noWarp
  | some (c, w) =>
    let parts := (w.slot c.slot).mask
    let adr := (c.src w).wide a.toNat 0 2
    if adr % 32 != 0 then .next (s.trapWord c h (c.trapOf 3 parts adr Acc.load.code (w.seq + 1)))
    else
      let w := (w.markAlone c (markCodes h a.toNat 127) parts).addAccess
        (c.access w s.nextId (.qyinit (d.toNat - 64) b.toNat adr) .glob 0 (dstCodes d.toNat 1) [] parts [] false)
      .next ((s.fresh.setWarp w).endWord h .self)

/-- A shard serves a command. -/
def State.serveCmd (s : State) (w : Warp) (a : Access) : State :=
  match a.kind with
  | .shard (.done n) => s.endTasks w a n false
  | .shard (.giveBack n _) => s.endTasks w a n true
  | .shard (.quiet n d) => s.ready w.uid a.id [.s d (s.quietWord w n)]
  | _ => match a.pop with
    | some p => s.popServe w a p
    | none => s

/-- POP_SERVE (R364, R365, R377): a command of a warp is served by its shard. -/
def execPopServe (u id : Nat) (s : State) : Host.Outcome State Fault Refusal :=
  match s.warp? u with
  | none => .next s
  | some w =>
    match w.accs.find? fun a => a.id == id with
    | none => .next s
    | some a =>
      if !w.shardTurn a.seq then .next s
      else match a.kind with
        | .qyinit d n adr => if a.fault.isSome then .next s else .next (s.qyServe w a d n adr)
        | .shard (.pop _ _ _ _ _ _ (some _)) => .next (s.serveCmd w a)
        | _ => if w.atShard a && s.coreTurn w then .next ((s.serveCmd w a).servedCore w) else .next s

/-! The floor and termination. -/

/-- FLOOR_WAVE (R358). -/
def execFloorWave (ctx n : Nat) (s : State) : Host.Outcome State Fault Refusal :=
  match s.quarry? ctx n with
  | none => .next s
  | some q =>
    match s.floorOf q with
    | none => .next s
    | some f => .next ((allClusters.foldl (fun s cl => if s.view cl q.id < f then s.setView cl q.id f else s) s).mapMembers q
      fun m => { m with view := max m.view f })

/-- Is every shard of a quarry empty in the sense of R366? -/
def State.emptyQuarry (s : State) (q : Quarry) : Bool :=
  (s.clusters.all fun p => (p.2.shard.keys q.id).isEmpty) && (s.inFlight q.id).isEmpty && (s.inTransit q.id).isEmpty &&
    (s.membersOf q).all fun m => m.keys.isEmpty && !m.transit

/-- TERMINATION_PASS (R366): the second of two passes that find every shard empty and the same count of pushes. -/
def execTerminationPass (ctx n : Nat) (s : State) : Host.Outcome State Fault Refusal :=
  match s.quarry? ctx n with
  | none => .next s
  | some q =>
    if !s.emptyQuarry q then .next (s.setQuarry { q with pass := none })
    else if q.pass = some (s.pushCount q) then .next (s.setQuarry { q with quiet := true })
    else .next (s.setQuarry { q with pass := some (s.pushCount q) })

end Sys2Proof.Machine
end

