-- ==== Sys2Proof/Machine/Dispatch.lean ====
section
/-! DEFINITION. One arm per instruction form and per step of another agent. -/

namespace Sys2Proof.Machine

def exec (i : Instr) (s : State) : Host.Outcome State Fault Refusal :=
  match i with
  | .iaddS32 h d a b => Sys2Proof.Machine.execIaddS32 h d a b s
  | .iaddN32 h d a b => Sys2Proof.Machine.execIaddN32 h d a b s
  | .isubS32 h d a b => Sys2Proof.Machine.execIsubS32 h d a b s
  | .isubN32 h d a b => Sys2Proof.Machine.execIsubN32 h d a b s
  | .iaddc h d a b => Sys2Proof.Machine.execIaddc h d a b s
  | .iabs h d a b => Sys2Proof.Machine.execIabs h d a b s
  | .iminS32 h d a b => Sys2Proof.Machine.execIminS32 h d a b s
  | .iminN32 h d a b => Sys2Proof.Machine.execIminN32 h d a b s
  | .imaxS32 h d a b => Sys2Proof.Machine.execImaxS32 h d a b s
  | .imaxN32 h d a b => Sys2Proof.Machine.execImaxN32 h d a b s
  | .imul h d a b => Sys2Proof.Machine.execImul h d a b s
  | .imulhiS32 h d a b => Sys2Proof.Machine.execImulhiS32 h d a b s
  | .imulhiN32 h d a b => Sys2Proof.Machine.execImulhiN32 h d a b s
  | .imad h d a b => Sys2Proof.Machine.execImad h d a b s
  | .imadwS32 h d a b => Sys2Proof.Machine.execImadwS32 h d a b s
  | .imadwN32 h d a b => Sys2Proof.Machine.execImadwN32 h d a b s
  | .and h d a b => Sys2Proof.Machine.execAnd h d a b s
  | .or h d a b => Sys2Proof.Machine.execOr h d a b s
  | .xor h d a b => Sys2Proof.Machine.execXor h d a b s
  | .lop3 h d a b => Sys2Proof.Machine.execLop3 h d a b s
  | .shl h d a b => Sys2Proof.Machine.execShl h d a b s
  | .shr h d a b => Sys2Proof.Machine.execShr h d a b s
  | .sar h d a b => Sys2Proof.Machine.execSar h d a b s
  | .shf h d a b => Sys2Proof.Machine.execShf h d a b s
  | .bfxS32 h d a b => Sys2Proof.Machine.execBfxS32 h d a b s
  | .bfxN32 h d a b => Sys2Proof.Machine.execBfxN32 h d a b s
  | .bfi h d a b => Sys2Proof.Machine.execBfi h d a b s
  | .popc h d a b => Sys2Proof.Machine.execPopc h d a b s
  | .clz h d a b => Sys2Proof.Machine.execClz h d a b s
  | .brev h d a b => Sys2Proof.Machine.execBrev h d a b s
  | .prmt h d a b => Sys2Proof.Machine.execPrmt h d a b s
  | .sel h d a b => Sys2Proof.Machine.execSel h d a b s
  | .mov h d a b => Sys2Proof.Machine.execMov h d a b s
  | .lea h d a b => Sys2Proof.Machine.execLea h d a b s
  | .add64 h d a b => Sys2Proof.Machine.execAdd64 h d a b s
  | .movi h d a imm => Sys2Proof.Machine.execMovi h d a imm s
  | .iaddImm h d a imm => Sys2Proof.Machine.execIaddImm h d a imm s
  | .imulImm h d a imm => Sys2Proof.Machine.execImulImm h d a imm s
  | .andImm h d a imm => Sys2Proof.Machine.execAndImm h d a imm s
  | .orImm h d a imm => Sys2Proof.Machine.execOrImm h d a imm s
  | .xorImm h d a imm => Sys2Proof.Machine.execXorImm h d a imm s
  | .shlImm h d a imm => Sys2Proof.Machine.execShlImm h d a imm s
  | .shrImm h d a imm => Sys2Proof.Machine.execShrImm h d a imm s
  | .sarImm h d a imm => Sys2Proof.Machine.execSarImm h d a imm s
  | .fadd h d a b => Sys2Proof.Machine.execFadd h d a b s
  | .fmul h d a b => Sys2Proof.Machine.execFmul h d a b s
  | .ffma h d a b => Sys2Proof.Machine.execFfma h d a b s
  | .fmin h d a b => Sys2Proof.Machine.execFmin h d a b s
  | .fmax h d a b => Sys2Proof.Machine.execFmax h d a b s
  | .frnd h d a b => Sys2Proof.Machine.execFrnd h d a b s
  | .fclass h d a b => Sys2Proof.Machine.execFclass h d a b s
  | .frcp h d a b => Sys2Proof.Machine.execFrcp h d a b s
  | .frsq h d a b => Sys2Proof.Machine.execFrsq h d a b s
  | .fsqrt h d a b => Sys2Proof.Machine.execFsqrt h d a b s
  | .fexp2 h d a b => Sys2Proof.Machine.execFexp2 h d a b s
  | .flog2 h d a b => Sys2Proof.Machine.execFlog2 h d a b s
  | .fsin h d a b => Sys2Proof.Machine.execFsin h d a b s
  | .fcos h d a b => Sys2Proof.Machine.execFcos h d a b s
  | .dadd h d a b => Sys2Proof.Machine.execDadd h d a b s
  | .dmul h d a b => Sys2Proof.Machine.execDmul h d a b s
  | .dfma h d a b => Sys2Proof.Machine.execDfma h d a b s
  | .hadd2 h d a b => Sys2Proof.Machine.execHadd2 h d a b s
  | .hmul2 h d a b => Sys2Proof.Machine.execHmul2 h d a b s
  | .hfma2 h d a b => Sys2Proof.Machine.execHfma2 h d a b s
  | .bfma2 h d a b => Sys2Proof.Machine.execBfma2 h d a b s
  | .cvt h d a imm => Sys2Proof.Machine.execCvt h d a imm s
  | .pack h d a imm => Sys2Proof.Machine.execPack h d a imm s
  | .unpk h d a imm => Sys2Proof.Machine.execUnpk h d a imm s
  | .dp4E4m3 h d a b => Sys2Proof.Machine.execDp4E4m3 h d a b s
  | .dp4E5m2 h d a b => Sys2Proof.Machine.execDp4E5m2 h d a b s
  | .dp4E3m2 h d a b => Sys2Proof.Machine.execDp4E3m2 h d a b s
  | .dp4E2m3 h d a b => Sys2Proof.Machine.execDp4E2m3 h d a b s
  | .dp4S8 h d a b => Sys2Proof.Machine.execDp4S8 h d a b s
  | .dp4N8 h d a b => Sys2Proof.Machine.execDp4N8 h d a b s
  | .dp4S8n8 h d a b => Sys2Proof.Machine.execDp4S8n8 h d a b s
  | .dp8E2m1 h d a b => Sys2Proof.Machine.execDp8E2m1 h d a b s
  | .dp8S4 h d a b => Sys2Proof.Machine.execDp8S4 h d a b s
  | .dp8N4 h d a b => Sys2Proof.Machine.execDp8N4 h d a b s
  | .dp8S4n4 h d a b => Sys2Proof.Machine.execDp8S4n4 h d a b s
  | .fsclF32 h d a b => Sys2Proof.Machine.execFsclF32 h d a b s
  | .fsclF64 h d a b => Sys2Proof.Machine.execFsclF64 h d a b s
  | .icmpEq h d a b => Sys2Proof.Machine.execIcmpEq h d a b s
  | .icmpNe h d a b => Sys2Proof.Machine.execIcmpNe h d a b s
  | .icmpLtS32 h d a b => Sys2Proof.Machine.execIcmpLtS32 h d a b s
  | .icmpLeS32 h d a b => Sys2Proof.Machine.execIcmpLeS32 h d a b s
  | .icmpLtN32 h d a b => Sys2Proof.Machine.execIcmpLtN32 h d a b s
  | .icmpLeN32 h d a b => Sys2Proof.Machine.execIcmpLeN32 h d a b s
  | .fcmpEq h d a b => Sys2Proof.Machine.execFcmpEq h d a b s
  | .fcmpNe h d a b => Sys2Proof.Machine.execFcmpNe h d a b s
  | .fcmpLt h d a b => Sys2Proof.Machine.execFcmpLt h d a b s
  | .fcmpLe h d a b => Sys2Proof.Machine.execFcmpLe h d a b s
  | .fcmpUn h d a b => Sys2Proof.Machine.execFcmpUn h d a b s
  | .fcmpNeu h d a b => Sys2Proof.Machine.execFcmpNeu h d a b s
  | .fcmpLtu h d a b => Sys2Proof.Machine.execFcmpLtu h d a b s
  | .fcmpLeu h d a b => Sys2Proof.Machine.execFcmpLeu h d a b s
  | .fcmpEqF64 h d a b => Sys2Proof.Machine.execFcmpEqF64 h d a b s
  | .fcmpNeF64 h d a b => Sys2Proof.Machine.execFcmpNeF64 h d a b s
  | .fcmpLtF64 h d a b => Sys2Proof.Machine.execFcmpLtF64 h d a b s
  | .fcmpLeF64 h d a b => Sys2Proof.Machine.execFcmpLeF64 h d a b s
  | .fcmpUnF64 h d a b => Sys2Proof.Machine.execFcmpUnF64 h d a b s
  | .fcmpNeuF64 h d a b => Sys2Proof.Machine.execFcmpNeuF64 h d a b s
  | .fcmpLtuF64 h d a b => Sys2Proof.Machine.execFcmpLtuF64 h d a b s
  | .fcmpLeuF64 h d a b => Sys2Proof.Machine.execFcmpLeuF64 h d a b s
  | .plop h d a b => Sys2Proof.Machine.execPlop h d a b s
  | .pmov h d a b => Sys2Proof.Machine.execPmov h d a b s
  | .bra h disp => Sys2Proof.Machine.execBra h disp s
  | .call h disp => Sys2Proof.Machine.execCall h disp s
  | .brx h d a b => Sys2Proof.Machine.execBrx h d a b s
  | .callx h d a b => Sys2Proof.Machine.execCallx h d a b s
  | .ret h d a b => Sys2Proof.Machine.execRet h d a b s
  | .exit h d a b => Sys2Proof.Machine.execExit h d a b s
  | .nop h d a b => Sys2Proof.Machine.execNop h d a b s
  | .rjenr h d a b => Sys2Proof.Machine.execRjenr h d a b s
  | .rjpark h d a b => Sys2Proof.Machine.execRjpark h d a b s
  | .rjstrk h d a b => Sys2Proof.Machine.execRjstrk h d a b s
  | .rjrd h d a b => Sys2Proof.Machine.execRjrd h d a b s
  | .wmask h d a b => Sys2Proof.Machine.execWmask h d a b s
  | .shflPick h d a b => Sys2Proof.Machine.execShflPick h d a b s
  | .shflLag h d a b => Sys2Proof.Machine.execShflLag h d a b s
  | .shflLead h d a b => Sys2Proof.Machine.execShflLead h d a b s
  | .shflMirr h d a b => Sys2Proof.Machine.execShflMirr h d a b s
  | .voteEvery h d a b => Sys2Proof.Machine.execVoteEvery h d a b s
  | .voteSome h d a b => Sys2Proof.Machine.execVoteSome h d a b s
  | .voteSame h d a b => Sys2Proof.Machine.execVoteSame h d a b s
  | .ballot h d a b => Sys2Proof.Machine.execBallot h d a b s
  | .reduxSum h d a b => Sys2Proof.Machine.execReduxSum h d a b s
  | .reduxLeastS32 h d a b => Sys2Proof.Machine.execReduxLeastS32 h d a b s
  | .reduxLeastN32 h d a b => Sys2Proof.Machine.execReduxLeastN32 h d a b s
  | .reduxMostS32 h d a b => Sys2Proof.Machine.execReduxMostS32 h d a b s
  | .reduxMostN32 h d a b => Sys2Proof.Machine.execReduxMostN32 h d a b s
  | .reduxBand h d a b => Sys2Proof.Machine.execReduxBand h d a b s
  | .reduxBor h d a b => Sys2Proof.Machine.execReduxBor h d a b s
  | .reduxBxor h d a b => Sys2Proof.Machine.execReduxBxor h d a b s
  | .matchPeers h d a b => Sys2Proof.Machine.execMatchPeers h d a b s
  | .matchUnif h d a b => Sys2Proof.Machine.execMatchUnif h d a b s
  | .xsw h d a b => Sys2Proof.Machine.execXsw h d a b s
  | .bar h d a b => Sys2Proof.Machine.execBar h d a b s
  | .bara h d a b => Sys2Proof.Machine.execBara h d a b s
  | .barw h d a b => Sys2Proof.Machine.execBarw h d a b s
  | .yield h d a b => Sys2Proof.Machine.execYield h d a b s
  | .lnch h d a b => Sys2Proof.Machine.execLnch h d a b s
  | .rdsr h d a imm => Sys2Proof.Machine.execRdsr h d a imm s
  | .wrsr h d a imm => Sys2Proof.Machine.execWrsr h d a imm s
  | .ldN8 h d a b => Sys2Proof.Machine.execLdN8 h d a b s
  | .ldS8 h d a b => Sys2Proof.Machine.execLdS8 h d a b s
  | .ldN16 h d a b => Sys2Proof.Machine.execLdN16 h d a b s
  | .ldS16 h d a b => Sys2Proof.Machine.execLdS16 h d a b s
  | .ldB32 h d a b => Sys2Proof.Machine.execLdB32 h d a b s
  | .ldB64 h d a b => Sys2Proof.Machine.execLdB64 h d a b s
  | .ldB128 h d a b => Sys2Proof.Machine.execLdB128 h d a b s
  | .stB8 h d a b => Sys2Proof.Machine.execStB8 h d a b s
  | .stB16 h d a b => Sys2Proof.Machine.execStB16 h d a b s
  | .stB32 h d a b => Sys2Proof.Machine.execStB32 h d a b s
  | .stB64 h d a b => Sys2Proof.Machine.execStB64 h d a b s
  | .stB128 h d a b => Sys2Proof.Machine.execStB128 h d a b s
  | .atomAddB32 h d a b => Sys2Proof.Machine.execAtomAddB32 h d a b s
  | .atomMinS32 h d a b => Sys2Proof.Machine.execAtomMinS32 h d a b s
  | .atomMinN32 h d a b => Sys2Proof.Machine.execAtomMinN32 h d a b s
  | .atomMaxS32 h d a b => Sys2Proof.Machine.execAtomMaxS32 h d a b s
  | .atomMaxN32 h d a b => Sys2Proof.Machine.execAtomMaxN32 h d a b s
  | .atomAndB32 h d a b => Sys2Proof.Machine.execAtomAndB32 h d a b s
  | .atomOrB32 h d a b => Sys2Proof.Machine.execAtomOrB32 h d a b s
  | .atomXorB32 h d a b => Sys2Proof.Machine.execAtomXorB32 h d a b s
  | .atomExchB32 h d a b => Sys2Proof.Machine.execAtomExchB32 h d a b s
  | .atomCasB32 h d a b => Sys2Proof.Machine.execAtomCasB32 h d a b s
  | .atomAddF32 h d a b => Sys2Proof.Machine.execAtomAddF32 h d a b s
  | .atomExchB64 h d a b => Sys2Proof.Machine.execAtomExchB64 h d a b s
  | .atomCasB64 h d a b => Sys2Proof.Machine.execAtomCasB64 h d a b s
  | .atomAddB64 h d a b => Sys2Proof.Machine.execAtomAddB64 h d a b s
  | .atomCasB128 h d a b => Sys2Proof.Machine.execAtomCasB128 h d a b s
  | .atomAddF64 h d a b => Sys2Proof.Machine.execAtomAddF64 h d a b s
  | .redAddB32 h d a b => Sys2Proof.Machine.execRedAddB32 h d a b s
  | .redMinS32 h d a b => Sys2Proof.Machine.execRedMinS32 h d a b s
  | .redMinN32 h d a b => Sys2Proof.Machine.execRedMinN32 h d a b s
  | .redMaxS32 h d a b => Sys2Proof.Machine.execRedMaxS32 h d a b s
  | .redMaxN32 h d a b => Sys2Proof.Machine.execRedMaxN32 h d a b s
  | .redAddF32 h d a b => Sys2Proof.Machine.execRedAddF32 h d a b s
  | .redAddB64 h d a b => Sys2Proof.Machine.execRedAddB64 h d a b s
  | .redAddF64 h d a b => Sys2Proof.Machine.execRedAddF64 h d a b s
  | .redAndB32 h d a b => Sys2Proof.Machine.execRedAndB32 h d a b s
  | .redOrB32 h d a b => Sys2Proof.Machine.execRedOrB32 h d a b s
  | .redXorB32 h d a b => Sys2Proof.Machine.execRedXorB32 h d a b s
  | .fence h d a b => Sys2Proof.Machine.execFence h d a b s
  | .cinv h d a b => Sys2Proof.Machine.execCinv h d a b s
  | .cwb h d a b => Sys2Proof.Machine.execCwb h d a b s
  | .pref h d a b => Sys2Proof.Machine.execPref h d a b s
  | .probe h d a b => Sys2Proof.Machine.execProbe h d a b s
  | .unpin h d a b => Sys2Proof.Machine.execUnpin h d a b s
  | .cpy h d a b => Sys2Proof.Machine.execCpy h d a b s
  | .fenceXp h d a b => Sys2Proof.Machine.execFenceXp h d a b s
  | .ldDir h d a b => Sys2Proof.Machine.execLdDir h d a b s
  | .stDir h d a b => Sys2Proof.Machine.execStDir h d a b s
  | .mxacq h d a b => Sys2Proof.Machine.execMxacq h d a b s
  | .mxrel h d a b => Sys2Proof.Machine.execMxrel h d a b s
  | .mxown h d a b => Sys2Proof.Machine.execMxown h d a b s
  | .mxq h d a b => Sys2Proof.Machine.execMxq h d a b s
  | .mxwait h d a b => Sys2Proof.Machine.execMxwait h d a b s
  | .mxrd h d a b => Sys2Proof.Machine.execMxrd h d a b s
  | .mxwr h d a b => Sys2Proof.Machine.execMxwr h d a b s
  | .mxzero h d a b => Sys2Proof.Machine.execMxzero h d a b s
  | .mxstat h d a b => Sys2Proof.Machine.execMxstat h d a b s
  | .qdopen h d a b => Sys2Proof.Machine.execQdopen h d a b s
  | .qdnext h d a b => Sys2Proof.Machine.execQdnext h d a b s
  | .qdsplit h d a b => Sys2Proof.Machine.execQdsplit h d a b s
  | .qdsave h d a b => Sys2Proof.Machine.execQdsave h d a b s
  | .qdload h d a b => Sys2Proof.Machine.execQdload h d a b s
  | .qdclose h d a b => Sys2Proof.Machine.execQdclose h d a b s
  | .qdstat h d a b => Sys2Proof.Machine.execQdstat h d a b s
  | .qdprobe h d a b => Sys2Proof.Machine.execQdprobe h d a b s
  | .qyinit h d a b => Sys2Proof.Machine.execQyinit h d a b s
  | .qypush h d a b => Sys2Proof.Machine.execQypush h d a b s
  | .qypop h d a b => Sys2Proof.Machine.execQypop h d a b s
  | .qydone h d a b => Sys2Proof.Machine.execQydone h d a b s
  | .qyfloor h d a b => Sys2Proof.Machine.execQyfloor h d a b s
  | .qyquiet h d a b => Sys2Proof.Machine.execQyquiet h d a b s
  | .qyyield h d a b => Sys2Proof.Machine.execQyyield h d a b s
  | .qystat h d a b => Sys2Proof.Machine.execQystat h d a b s
  | .trap h d a b => Sys2Proof.Machine.execTrap h d a b s
  | .rett h d a b => Sys2Proof.Machine.execRett h d a b s
  | .region h d a b => Sys2Proof.Machine.execRegion h d a b s
  | .brk h d a b => Sys2Proof.Machine.execBrk h d a b s
  | .rdtr h d a b => Sys2Proof.Machine.execRdtr h d a b s
  | .vrdx h d a b => Sys2Proof.Machine.execVrdx h d a b s
  | .vwrx h d a b => Sys2Proof.Machine.execVwrx h d a b s
  | .patch h n tool => Sys2Proof.Machine.execPatch h n tool s
  | .trmp h disp => Sys2Proof.Machine.execTrmp h disp s
  | .memoryReply w id => Sys2Proof.Machine.execMemoryReply w id s
  | .switchMarkerRelease w => Sys2Proof.Machine.execSwitchMarkerRelease w s
  | .grantCountRotation w => Sys2Proof.Machine.execGrantCountRotation w s
  | .allocationRelease lane => Sys2Proof.Machine.execAllocationRelease lane s
  | .laneSpill lane => Sys2Proof.Machine.execLaneSpill lane s
  | .spillRestore w => Sys2Proof.Machine.execSpillRestore w s
  | .warpEnd w => Sys2Proof.Machine.execWarpEnd w s
  | .barrierPhaseComplete w scope id => Sys2Proof.Machine.execBarrierPhaseComplete w scope id s
  | .xswPairComplete w w2 => Sys2Proof.Machine.execXswPairComplete w w2 s
  | .lnchRecordRead w => Sys2Proof.Machine.execLnchRecordRead w s
  | .timerTrap w slot => Sys2Proof.Machine.execTimerTrap w slot s
  | .trapEntry w slot => Sys2Proof.Machine.execTrapEntry w slot s
  | .translationWalk w id => Sys2Proof.Machine.execTranslationWalk w id s
  | .walkFault w slot => Sys2Proof.Machine.execWalkFault w slot s
  | .faultRecordWrite => Sys2Proof.Machine.execFaultRecordWrite s
  | .regionBoundary w slot => Sys2Proof.Machine.execRegionBoundary w slot s
  | .storeEntryPerform w => Sys2Proof.Machine.execStoreEntryPerform w s
  | .coalesceRequestSend lane => Sys2Proof.Machine.execCoalesceRequestSend lane s
  | .l1Fill core => Sys2Proof.Machine.execL1Fill core s
  | .homeSliceServe slice idx => Sys2Proof.Machine.execHomeSliceServe slice idx s
  | .l2MemoryReply slice => Sys2Proof.Machine.execL2MemoryReply slice s
  | .baseDieService stack => Sys2Proof.Machine.execBaseDieService stack s
  | .directPacketSend w => Sys2Proof.Machine.execDirectPacketSend w s
  | .directReply w => Sys2Proof.Machine.execDirectReply w s
  | .fenceComplete w => Sys2Proof.Machine.execFenceComplete w s
  | .cacheMaintComplete w => Sys2Proof.Machine.execCacheMaintComplete w s
  | .fenceXpComplete w => Sys2Proof.Machine.execFenceXpComplete w s
  | .copyLineOperation core ent => Sys2Proof.Machine.execCopyLineOperation core ent s
  | .copyTranslationFault core ent => Sys2Proof.Machine.execCopyTranslationFault core ent s
  | .copyRetire core ent => Sys2Proof.Machine.execCopyRetire core ent s
  | .mxPassSelect cl => Sys2Proof.Machine.execMxPassSelect cl s
  | .mxStep cl => Sys2Proof.Machine.execMxStep cl s
  | .mxPassComplete cl => Sys2Proof.Machine.execMxPassComplete cl s
  | .mxzeroRun cl => Sys2Proof.Machine.execMxzeroRun cl s
  | .mxacqBind w slot => Sys2Proof.Machine.execMxacqBind w slot s
  | .mxrelReturn w slot => Sys2Proof.Machine.execMxrelReturn w slot s
  | .mxownFlip w slot => Sys2Proof.Machine.execMxownFlip w slot s
  | .mxwaitReport w slot => Sys2Proof.Machine.execMxwaitReport w slot s
  | .mxRowAccess w slot => Sys2Proof.Machine.execMxRowAccess w slot s
  | .tokenArrive die tok => Sys2Proof.Machine.execTokenArrive die tok s
  | .tokenIdleMove die tok => Sys2Proof.Machine.execTokenIdleMove die tok s
  | .burstEnd cl => Sys2Proof.Machine.execBurstEnd cl s
  | .qdCommandServe cl idx => Sys2Proof.Machine.execQdCommandServe cl idx s
  | .qdStreamFault cl idx => Sys2Proof.Machine.execQdStreamFault cl idx s
  | .pushComplete w => Sys2Proof.Machine.execPushComplete w s
  | .spoilRefill cl => Sys2Proof.Machine.execSpoilRefill cl s
  | .popServe w id => Sys2Proof.Machine.execPopServe w id s
  | .steal w id victim => Sys2Proof.Machine.execSteal w id victim s
  | .floorWave ctx n => Sys2Proof.Machine.execFloorWave ctx n s
  | .terminationPass ctx n => Sys2Proof.Machine.execTerminationPass ctx n s
  | .quietWaitRelease w slot => Sys2Proof.Machine.execQuietWaitRelease w slot s
  | .headRecordRead q => Sys2Proof.Machine.execHeadRecordRead q s
  | .waitSignalRead q => Sys2Proof.Machine.execWaitSignalRead q s
  | .placementDecision => Sys2Proof.Machine.execPlacementDecision s
  | .launchComplete lnch => Sys2Proof.Machine.execLaunchComplete lnch s
  | .queueTailWrite q v => Sys2Proof.Machine.execQueueTailWrite q v s
  | .queueEnable q => Sys2Proof.Machine.execQueueEnable q s
  | .queueDisable q => Sys2Proof.Machine.execQueueDisable q s
  | .queueErrorClear q bits => Sys2Proof.Machine.execQueueErrorClear q bits s
  | .stop ch => Sys2Proof.Machine.execStop ch s
  | .drain ch => Sys2Proof.Machine.execDrain ch s
  | .resume ch => Sys2Proof.Machine.execResume ch s
  | .fresetClear ch => Sys2Proof.Machine.execFresetClear ch s
  | .graceExpiry ch => Sys2Proof.Machine.execGraceExpiry ch s
  | .deadlineExpiry ch => Sys2Proof.Machine.execDeadlineExpiry ch s
  | .stopCopyEngine ch gang => Sys2Proof.Machine.execStopCopyEngine ch gang s
  | .stopCoordinateEngine ch gang => Sys2Proof.Machine.execStopCoordinateEngine ch gang s
  | .stopWarps ch gang => Sys2Proof.Machine.execStopWarps ch gang s
  | .stopMatrixEngine ch gang => Sys2Proof.Machine.execStopMatrixEngine ch gang s
  | .stopFlushSave ch gang => Sys2Proof.Machine.execStopFlushSave ch gang s
  | .gangRestore ch => Sys2Proof.Machine.execGangRestore ch s
  | .faultAnswerResume seq => Sys2Proof.Machine.execFaultAnswerResume seq s
  | .faultAnswerFatal seq => Sys2Proof.Machine.execFaultAnswerFatal seq s
  | .faultRingEnable => Sys2Proof.Machine.execFaultRingEnable s
  | .faultRingDisable => Sys2Proof.Machine.execFaultRingDisable s
  | .faultRingErrorClear bits => Sys2Proof.Machine.execFaultRingErrorClear bits s
  | .invalidateGo => Sys2Proof.Machine.execInvalidateGo s
  | .invalidateDone => Sys2Proof.Machine.execInvalidateDone s
  | .invalidateErrorClear => Sys2Proof.Machine.execInvalidateErrorClear s
  | .bar2Read off n => Sys2Proof.Machine.execBar2Read off n s
  | .bar2Write off bytes => Sys2Proof.Machine.execBar2Write off bytes s
  | .winerrClear => Sys2Proof.Machine.execWinerrClear s
  | .registerWrite off size v => Sys2Proof.Machine.execRegisterWrite off size v s
  | .heldWriteTake => Sys2Proof.Machine.execHeldWriteTake s
  | .flitRoute idx => Sys2Proof.Machine.execFlitRoute idx s
  | .linkPowerDown l => Sys2Proof.Machine.execLinkPowerDown l s
  | .linkOff l => Sys2Proof.Machine.execLinkOff l s
  | .linkWake l => Sys2Proof.Machine.execLinkWake l s
  | .linkActive l => Sys2Proof.Machine.execLinkActive l s
  | .virvisPortUpChange k up far => Sys2Proof.Machine.execVirvisPortUpChange k up far s
  | .pdupClear k => Sys2Proof.Machine.execPdupClear k s
  | .peerRequest src op addr bytes => Sys2Proof.Machine.execPeerRequest src op addr bytes s
  | .pcieCompletion tag status => Sys2Proof.Machine.execPcieCompletion tag status s
  | .pcieCompletionTimeout tag => Sys2Proof.Machine.execPcieCompletionTimeout tag s
  | .deviceReset cause => Sys2Proof.Machine.execDeviceReset cause s
  | .bootVerify => Sys2Proof.Machine.execBootVerify s
  | .selfTestPass fn => Sys2Proof.Machine.execSelfTestPass fn s
  | .selfTestFail fn => Sys2Proof.Machine.execSelfTestFail fn s
  | .firmwareVerify => Sys2Proof.Machine.execFirmwareVerify s
  | .firmwareVerifyDone => Sys2Proof.Machine.execFirmwareVerifyDone s
  | .getVersion => Sys2Proof.Machine.execGetVersion s
  | .getCapabilities => Sys2Proof.Machine.execGetCapabilities s
  | .negotiateAlgorithms => Sys2Proof.Machine.execNegotiateAlgorithms s
  | .getMeasurements idx => Sys2Proof.Machine.execGetMeasurements idx s
  | .spdmUnsupported code => Sys2Proof.Machine.execSpdmUnsupported code s
  | .eccCorrected hbm unit addr => Sys2Proof.Machine.execEccCorrected hbm unit addr s
  | .eccUncorrectable hbm unit addr ctx => Sys2Proof.Machine.execEccUncorrectable hbm unit addr ctx s
  | .hbmScrub stack => Sys2Proof.Machine.execHbmScrub stack s
  | .eccCounterWrite hbm unit which v => Sys2Proof.Machine.execEccCounterWrite hbm unit which v s
  | .powerLimitWrite v => Sys2Proof.Machine.execPowerLimitWrite v s
  | .throttleSet die temp => Sys2Proof.Machine.execThrottleSet die temp s
  | .throttleClear die temp => Sys2Proof.Machine.execThrottleClear die temp s
  | .thermalShutdown die temp => Sys2Proof.Machine.execThermalShutdown die temp s
  | .d3hotEnter => Sys2Proof.Machine.execD3hotEnter s
  | .d3hotExit => Sys2Proof.Machine.execD3hotExit s
  | .powerRemoval => Sys2Proof.Machine.execPowerRemoval s
  | .illegalInstruction fpc word => Sys2Proof.Machine.execIllegalInstruction fpc word s
  | .msixVectorUnmask v => Sys2Proof.Machine.execMsixVectorUnmask v s
  | .linkedContextEnd lgid => Sys2Proof.Machine.execLinkedContextEnd lgid s

end Sys2Proof.Machine
end

