-- ==== Sys2Proof/Machine/Eligible.lean ====
section
/-! DEFINITION. When a slot's next instruction is eligible (01 R22, R24; 07 R144, R162; and the waits that other rules
name: R185, R219, R251, R256, R261, R270, R283, R298, R299, R303, R314, R387, R409, R410). -/

namespace Sys2Proof.Machine

/-! The slot. -/

/-- Is the warp parked, for any reason (R24, R147, R158, R159, R251, R388)? -/
def Warp.parkedAny (w : Warp) : Bool :=
  w.park.marker || w.park.alloc != 0 || w.park.restore || !w.park.faults.isEmpty || !w.pend.isEmpty || w.tagWait

/-- May slot `k` be granted at all: it holds threads, nothing of it waits, and neither a trap nor a walk fault of it has
to be handled first (R146, R185, R388, R390)? -/
def Warp.slotOpen (w : Warp) (k : Nat) : Bool :=
  (w.slot k).mask != 0 && (w.slot k).wait.isNone && (w.slot k).trap.isNone && !w.frozen k && (w.faulted k).isEmpty

/-- May the warp be granted (R162, R166, R410)? -/
def State.warpOpen (s : State) (w : Warp) : Bool := !w.parkedAny && !s.stopped w && w.grants < 256

/-! The scoreboard (R22). -/

/-- Predicates that field `o` reads, or writes. -/
def predRead (o : Opd) (c : BitVec 7) : List Nat := if o == .psrc then [c.toNat] else []
def predWritten (o : Opd) (c : BitVec 7) : List Nat := if o == .pdst then [c.toNat] else []

/-- The predicates that an instruction writes; reads or writes. -/
def predDsts (fm : Form) (h : Hdr) (x : BitVec 24) : List Nat :=
  predWritten fm.d (fD x) ++ predWritten fm.a (fA x) ++ (if fm.fmt == .k then [] else predWritten fm.b (fB x)) ++
    (if fm.ih == .pq && bit h.ih 7 then [h.ih % 128] else [])
def predCodes (fm : Form) (h : Hdr) (x : BitVec 24) : List Nat :=
  [h.ext.gp.toNat] ++ predRead fm.d (fD x) ++ predRead fm.a (fA x) ++ (if fm.fmt == .k then [] else predRead fm.b (fB x)) ++
    predRead fm.ts h.ext.ts ++ predDsts fm h x

/-- Is the form VRDX, VWRX (R395)? -/
def Form.isVrdx (fm : Form) : Bool := fm.major == 60 && fm.f == 5
def Form.isVwrx (fm : Form) : Bool := fm.major == 60 && fm.f == 6

/-- CALL and CALLX write s62 (R106). -/
def linkCodes (fm : Form) : List Nat := if fm.major == 33 || (fm.major == 34 && fm.f == 1) then [126] else []

/-- What VWRX's indices name: registers, and predicates as 128 above (R399). -/
def Warp.indexedCodes (w : Warp) (a : Nat) (parts : Mask) : List Nat :=
  (threads parts).map fun t => (w.reg a t).toNat % 256

/-- Predicates that have a result outstanding. -/
def Warp.outstandingP (w : Warp) : List Nat := w.accs.flatMap (·.pdst)

/-- Has a register or predicate that the instruction reads or writes a result outstanding (R22, R399)? -/
def Warp.blocked (w : Warp) (k : Nat) (fm : Form) (h : Hdr) (x : BitVec 24) : Bool :=
  let out := w.outstanding
  let outP := w.outstandingP
  ((readCodes fm h x ++ writeCodes fm h x ++ linkCodes fm).any fun c => out.contains c) ||
    ((predCodes fm h x).any fun n => outP.contains n) ||
    (fm.isVrdx && !(out.isEmpty && outP.isEmpty)) ||
    (fm.isVwrx && (w.indexedCodes (fA x).toNat (w.participants k h)).any fun c =>
      if c < 128 then out.contains c else outP.contains (c - 128))

/-! Fences and maintenance (R256, R261, R303). -/

/-- How a form stands to the parts of an earlier fence. -/
inductive FenceUse where
  /-- Not held. -/
  | no
  /-- As a load, as a store (R256, R346, R377). -/
  | load | store
  /-- By a release part alone (log entry 10). -/
  | rel
  deriving DecidableEq, Repr

def fenceUse (fm : Form) : FenceUse :=
  match fm.major, fm.f with
  | 44, _ => .load
  | 45, _ | 46, _ | 47, _ | 48, _ => .store
  | 49, 1 | 49, 2 | 49, 5 => .store
  | 49, 3 | 49, 4 => .load
  | 51, 0 => .load
  | 51, _ => .store
  | 42, 7 => .store
  | 42, 3 | 42, 4 => .rel
  | 56, 5 | 56, 6 => .no
  | 56, _ => .store
  | 58, 1 => .store
  | 58, 4 | 58, 7 => .no
  | 58, _ => .load
  | _, _ => .no

/-- Does a fence or maintenance form in progress hold the form? -/
def FenceRec.holds (f : FenceRec) (fm : Form) : Bool :=
  match f.what with
  | 0 =>
    match fenceUse fm with
    | .no => false
    | .load => !f.acqDone || (f.order == 3 && !f.relDone)
    | .store => !f.acqDone || !f.relDone
    | .rel => !f.relDone
  | 1 | 2 => fm.pipe == .m
  | 3 => fm.xk == .cpy
  | _ => false

/-! Other waits of a form. -/

/-- The form takes a store-queue entry (R270). -/
def Form.takesEntry (fm : Form) : Bool :=
  fm.xk == .st || fm.xk == .atom || fm.xk == .stDir || (fm.major == 58 && fm.f == 1)

/-- Does the workgroup hold all its copy-queue entries (R299)? -/
def State.copyFull (s : State) (w : Warp) : Bool :=
  let n := match s.gang? w.gang with | some g => g.lrec.copyq | none => 0
  n != 0 && n ≤ ((s.core w.core).copy.filter fun e => e.gang == w.gang && e.wg == w.wgid).length

/-- Has the stop walk of the warp's context begun a stage at the engine that the form sends its command to (R409)? -/
def State.engineStopped (s : State) (w : Warp) (p : Port) : Bool :=
  let begun := fun (n k : Nat) => s.chans.any fun c => c.state == 2 && c.ctx == w.ctx && c.begun.contains (n, k)
  match p with
  | .copy => begun 2 w.core
  | .coord => begun 3 w.cluster
  | .matrix => begun 5 w.cluster
  | _ => false

/-- Do the scratchpad accesses that an MXOWN.THR of the warp is to come before wait (R283)? -/
def Warp.takesBack (w : Warp) : Bool :=
  w.slots.any fun sl => match sl.wait with | some (.mxown false _ _ _) => true | _ => false

/-- The format block of an MXQ (R314): its place, when the descriptor gives one. -/
def State.mxqBlock (s : State) (w : Warp) (h : Hdr) : Option MxLoc :=
  let v := (w.reg h.ext.ts.toNat 0).toNat
  if dscBad v then none else s.mxLoc w v

/-- Does the warp-scalar load of the format block wait: for a copy, for an entry of the queue that is not forwarded, or
for an MXOWN.THR (R269, R283, R298)? -/
def State.blockWaits (s : State) (w : Warp) (k : Nat) (h : Hdr) : Bool :=
  match s.mxqBlock w h, lowest (w.participants k h) with
  | some l, some rep =>
    w.takesBack || (List.range 32).any fun i =>
      let a := tilePlace l.tiles (l.off + i)
      ((s.core l.core).writePending.contains (a / 16)) ||
        match forward w.sq (.scr l.core) rep a with
        | some (_, none) => true
        | _ => false
  | _, _ => false

/-- Is the form MXQ, MXZERO (R323)? They take a reservation-table entry (R314). -/
def Form.isMxq (fm : Form) : Bool := fm.xk == .mxq
def Form.takesMx (fm : Form) : Bool := fm.major == 52 && (fm.f == 3 || fm.f == 7)

/-- Has the form something to wait for besides its registers? -/
def State.formWaits (s : State) (w : Warp) (k : Nat) (fm : Form) (h : Hdr) (x : BitVec 24) : Bool :=
  (w.fences.any fun f => f.holds fm) ||
    (fm.takesEntry && 16 ≤ w.sq.length) ||
    (fm.pipe == .m && !((look w.lane (s.core w.core).windows).getD []).isEmpty) ||
    (fm.major == 42 && fm.f == 2 && w.xsw.isSome) ||
    (fm.xk == .cpy && s.copyFull w) ||
    (fm.port != .no && s.engineStopped w fm.port) ||
    (fm.takesMx && 32 ≤ (s.cluster w.cluster).mx.entries.length) ||
    (fm.isMxq && s.blockWaits w k h) ||
    ((fm.xk == .ld || fm.xk == .st || fm.xk == .atom) && (memCode (fB x)).sp == 1 && w.takesBack)

/-! Region boundaries (R386, R387). -/

/-- Is an instruction granted only once every earlier access of the warp has passed translation (R387; a guard on BRX,
CALLX or RET is read as R387's "guarded": log entry 10)? -/
def gated (fm : Form) (h : Hdr) (x : BitVec 24) : Bool :=
  h.w ||
  match fm.bnd with
  | .self => true
  | .after => !(fm.major == 49 && fm.f == 0 && (fA x).toNat == 0)
  | .split =>
    let guarded := h.ext.gp != 0 || h.ext.gn
    if fm.major == 34 && fm.f ≤ 2 then guarded || (fA x).toNat < 64
    else if fm.major == 34 then true
    else guarded
  | _ => false

end Sys2Proof.Machine

namespace Sys2Proof

open Machine

/-- Fields of a decoded piece. -/
def Piece.hdr (p : Piece) : Hdr := match Raw.of p.instr with | some r => r.h | none => Hdr.plain
def Piece.x (p : Piece) : BitVec 24 := match Raw.of p.instr with | some r => r.x | none => 0

/-- Is a word of the group gated? -/
def Group.gated (g : Group) : Bool := g.pieces.any fun p => Machine.gated p.form p.hdr p.x

/-- The forms that make accesses and are no boundary: LD, ST and PREF. -/
def Group.accesses (g : Group) : Bool := g.pieces.any fun p => p.form.xk == .ld || p.form.xk == .st || p.form.xk == .pref

end Sys2Proof

namespace Sys2Proof.Machine

/-- Is the other slot's next instruction a boundary that this slot's accesses must let pass (R387)? -/
def State.yields (s : State) (w : Warp) (k : Nat) : Bool :=
  w.slotOpen (1 - k) &&
    match (s.fetch w (1 - k)).1 with
    | .inr (.ok g) => g.gated || w.selfBound g
    | _ => false

/-- Is the group in slot `k` eligible, but for what its effect needs (R158, R298)? -/
def State.groupReady (s : State) (w : Warp) (k : Nat) (g : Group) : Bool :=
  (g.pieces.all fun p => !w.blocked k p.form p.hdr p.x && !s.formWaits w k p.form p.hdr p.x) &&
    !(g.gated && w.unwalked (w.seq + 1)) && !(g.accesses && !g.gated && s.yields w k)

/-! What is known once the effect is: allocation (R158) and the range scoreboard (R298). -/

/-- Do the scratchpad accesses that were granted as number `n` touch granules that a copy has marked? -/
def State.marked (s : State) (w : Warp) (n : Nat) : Bool :=
  (w.accs.any fun a => a.seq == n && match a.space, a.kind with
    | .scr c, .load _ _ _ _ => a.spans.any fun x => x.meets (s.core c).writePending
    | _, _ => false) ||
  w.sq.any fun e => e.seq == n && match e.space, e.kind with
    | .scr c, .atom _ _ _ _ => e.spans.any fun x => x.meets (s.core c).writePending || x.meets (s.core c).readPending
    | _, _ => false

end Sys2Proof.Machine
end

