-- ==== Sys2Proof/Machine/Grant.lean ====
section
/-! DEFINITION. The grant of a slot (01 R16 to R19, R24; 03 R68, R70; 07 R145, R158; 19 R383, R386, R400): fetch, decode,
the checks that may hold it back, and the words of the instruction or chain in order. -/

namespace Sys2Proof.Machine

/-! The words. -/

/-- The issue record of slot `k`'s group at its grant. -/
def Issue.start (w : Warp) (k : Nat) (g : Group) : Issue :=
  let pc := (w.slot k).pc
  let pkt := packetOf w.cb pc
  let before := g.pieces.dropLast
  { uid := w.uid, slot := k, pkt, npc := afterSlot pkt g.next, wslot := packetSlot w.cb pc, word := 0,
    snap := if before.isEmpty then none else some w, flags := [], trap := none,
    marker := g.pieces.any fun p => p.hdr.w,
    bound := before.any fun p => p.form.bnd == .self || (p.form.bnd == .after && Machine.gated p.form p.hdr p.x) }

/-- The class of the trap that a word of a chain would raise, by itself. -/
def State.trial (s : State) (p : Piece) : Option Nat :=
  match Raw.of p.instr with
  | none => none
  | some r =>
    match rowOf r.major r.f with
    | none => none
    | some row =>
      match exec (row.build { r.h with c := true } r.x) s with
      | .next s' => (s'.issue.bind fun c => c.trap).map fun t => t.cls
      | _ => none

/-- What a word writes, by code of R62, or 128 above it a predicate's, for participants `parts`. -/
def pieceWrites (p : Piece) (r : Warp) (parts : Mask) : List (Nat × Mask) :=
  ((writeCodes p.form p.hdr p.x ++ linkCodes p.form).map fun c => (c, parts)) ++
    ((predDsts p.form p.hdr p.x).map fun n => (128 + n, parts)) ++
    (if p.form.isVwrx then (threads parts).map fun t => ((r.reg (fA p.x).toNat t).toNat % 256, maskOf [t]) else [])

/-- The writes of a word of a chain stand before those that results of its earlier words, still outstanding, make (R19):
`n` is the grant number of the chain. -/
def Warp.overwritten (w : Warp) (k n : Nat) (l : List (Nat × Mask)) : Warp :=
  { w with accs := w.accs.map fun a => if a.slot == k && a.seq == n then { a with late := a.late ++ l } else a
           sq := w.sq.map fun e => if e.slot == k && e.seq == n then { e with late := e.late ++ l } else e }

/-- The same for word `p` of the chain that issues, if the word takes effect. -/
def State.overwrite (s : State) (c : Issue) (p : Piece) : State :=
  match c.snap with
  | none => s
  | some r =>
    let parts := r.participants c.slot p.hdr
    let cls := s.trial p
    if parts == 0 || (cls.isSome && cls != some 2) || (c.trap.isSome && p.form.ct) then s
    else s.modWarp c.uid fun w => w.overwritten c.slot r.seq (pieceWrites p r parts)

/-- Does a command hold slot `k` of warp `u`? -/
def State.holding (s : State) (u k : Nat) : Bool := (s.warp? u).any fun w => (w.slot k).wait.isSome

/-- The words of a group, in slot order: each sees what the words before it have done to the issue, and reads its sources
from the record's copy of the warp (R19). A word that holds its slot lets the others of its chain follow once it is
complete, for it may trap (R322, R347). -/
def State.runPieces (s : State) : List Piece → Host.Outcome State Fault Refusal
  | [] => .next { s with issue := none }
  | p :: ps =>
    match s.issue with
    | none => .next s
    | some c =>
      let c := { c with wslot := p.slot, word := p.word }
      let s := { s with issue := some c }
      match exec p.instr (s.overwrite c p) with
      | .next s' =>
        match s'.issue, ps with
        | some c', _ :: _ =>
          if s'.holding c.uid c.slot then .next { s' with issue := none, paused := s'.paused ++ [(c', ps)] }
          else s'.runPieces ps
        | _, _ => s'.runPieces ps
      | o => o

/-- A chain whose command has let go of the slot goes on. -/
def State.resumeChain (s : State) (u k : Nat) : Host.Outcome State Fault Refusal :=
  match takeFirst (fun p => p.1.uid == u && p.1.slot == k) s.paused with
  | none => .next s
  | some ((c, ps), rest) =>
    if s.holding u k then .next s else { s with issue := some c, paused := rest }.runPieces ps

/-- The marks of a chain, applied before any of its results (R68): those of the words that take effect (R383). `stop` is
whether an earlier word traps. -/
def State.chainMarks (s : State) (w : Warp) (k : Nat) : Bool → List Piece → Warp → Warp
  | _, [], w' => w'
  | stop, p :: ps, w' =>
    let cls := s.trial p
    let none_ := (cls.isSome && cls != some 2) || (stop && p.form.ct) || w.participants k p.hdr == 0
    let w' := if none_ then w' else (markCodes p.hdr (fA p.x).toNat (fB p.x).toNat).foldl Warp.free w'
    s.chainMarks w k (stop || cls.isSome) ps w'

/-- The group of slot `k` issues: a boundary at the instruction itself first (R386), then the marks of a chain, then its
words. -/
def State.issueGroup (s : State) (w : Warp) (k : Nat) (g : Group) : Host.Outcome State Fault Refusal :=
  let w := { w with lastIns := { w.lastIns with parked := 0 } }
  let w := if w.selfBound g then w.boundary w.seq k (w.slot k).pc (w.slot k).mask else w
  let s := { s.setWarp w with issue := some (Issue.start w k g) }
  let s := if 1 < g.pieces.length && g.pieces.any fun p => p.hdr.e2.isSome then s.setWarp (s.chainMarks w k false g.pieces w)
    else s
  s.runPieces g.pieces

/-! The grant. -/

/-- The encoding failure of slot `k`'s next instruction (R70): no operand is read. -/
def State.issueReject (s : State) (w : Warp) (k : Nat) (r : Reject) : Host.Outcome State Fault Refusal :=
  let pkt := packetOf w.cb (w.slot k).pc
  let c : Issue :=
    { uid := w.uid, slot := k, pkt, npc := s.afterReject w k r, wslot := r.slot, word := r.word, snap := none,
      flags := [], trap := none, marker := false, bound := false }
  execIllegalInstruction (pkt + BitVec.ofNat 64 (4 * r.slot)) r.word
    { s.setWarp { w with lastIns := { w.lastIns with parked := 0 } } with issue := some c }

/-- What withholds a grant whose effect would be `o`: a marked granule (R298), or physical registers that the pool does
not hold, which park the warp on allocation (R158). -/
def State.withheld (s : State) (w : Warp) (o : Host.Outcome State Fault Refusal) : Option State :=
  match o with
  | .next s' =>
    match s'.warp? w.uid with
    | none => none
    | some w' =>
      if s.marked w' w.seq then some s
      else if w.claims < w'.claims && !s.poolHolds w w'.claims then
        some (s.setWarp { w with park := { w.park with alloc := w'.claims } })
      else none
  | _ => none

/-- The grant of slot `k` of warp `u`: nothing happens when the slot or its next instruction is not eligible (R162). -/
def State.grant (s : State) (u k : Nat) : Host.Outcome State Fault Refusal :=
  match s.warp? u with
  | none => .next s
  | some w =>
    if 2 ≤ k || !(s.warpOpen w && w.slotOpen k) then .next s
    else
      match s.fetch w k with
      | (.inl (.fault r, va), s) => .next (s.fetchFault w k r va)
      | (.inl (.line, _), s) => .next s
      | (.inr (.error r), s') =>
        if s'.timerDue w then execTimerTrap u k s' else s'.issueReject w k r
      | (.inr (.ok g), s') =>
        if !s'.groupReady w k g then .next s
        else
          let o := s'.issueGroup w k g
          match s'.withheld w o with
          | some t => .next t
          | none => if s'.timerDue w then execTimerTrap u k s' else o

/-! The lane (R161). -/

/-- The slots of a warp, the one granted less recently first. -/
def Warp.slotOrder (w : Warp) : List Nat := if (w.slot 1).last < (w.slot 0).last then [1, 0] else [0, 1]

/-- The slots of a lane in the order in which it considers them: warps oldest first. -/
def State.laneSlots (s : State) (core lane : Nat) : List (Nat × Nat) :=
  (s.laneWarps core lane).flatMap fun w => w.slotOrder.map fun k => (w.uid, k)

/-- Would a grant of the slot do anything: is its next instruction eligible? -/
def State.grantable (s : State) (p : Nat × Nat) : Bool :=
  match s.grant p.1 p.2 with
  | .next s' => s' != s && !s'.unready
  | _ => true

/-- The slots that a lane has granted in this cycle. -/
def State.grantedNow (s : State) (core lane : Nat) : List (Nat × Nat) :=
  match look lane (s.core core).granted with
  | some (t, l) => if t = s.now then l else []
  | none => []

/-- A lane's grant of slot `k` of warp `u` (R161, R167): at most two in a cycle, one a slot, and none while a slot that the
lane considers before it is eligible and finds its pipes, banks and ports free. -/
def State.laneGrant (s : State) (u k : Nat) (busy : List (Nat × Nat)) : Host.Outcome State Fault Refusal :=
  match s.warp? u with
  | none => .next s
  | some w =>
    let done := s.grantedNow w.core w.lane
    let before := (s.laneSlots w.core w.lane).takeWhile fun p => p != (u, k)
    if 2 ≤ done.length || done.contains (u, k) ||
        (before.any fun p => !busy.contains p && !done.contains p && s.grantable p) then .next s
    else
      match s.grant u k with
      | .next s' =>
        let c := s'.core w.core
        .next (if s' = s then s
          else s'.setCore w.core { c with granted := put w.lane (s.now, done ++ [(u, k)]) c.granted })
      | o => o

end Sys2Proof.Machine
end

