-- ==== Sys2Proof/Machine/Sched.lean ====
section
/-! DEFINITION. What happens next when the agenda says nothing (log entry 2): the steps that the agents could make, the
grants that the lanes could make (07 R161), and a choice among them that lets every agent have its turn. -/

namespace Sys2Proof.Machine

/-- A step that may be made. -/
abbrev Move := State → Host.Outcome State Fault Refusal

/-- A list turned by `n` places. -/
def turned {β : Type} (n : Nat) (l : List β) : List β :=
  let k := n % l.length
  l.drop k ++ l.take k

/-! Warps. -/

/-- The barriers of a warp on which an arrival is pending (R185). -/
def Warp.pendingBarriers (w : Warp) : List (Nat × Nat) :=
  (List.range 3).flatMap fun scope => (List.range 16).filterMap fun id =>
    if w.arrived scope id == 0 then none else some (scope, id)

/-- The moves of a warp's accesses. -/
def State.accessMoves (s : State) (w : Warp) : List Move :=
  w.accs.flatMap fun a =>
    execMemoryReply w.uid a.id ::
      match a.kind with
      | .shard (.pop _ _ _ _ _ _ _) => execPopServe w.uid a.id :: ((s.clusters.map (·.1)) ++ s.quarries.flatMap s.farVictims).map fun v => execSteal w.uid a.id v
      | .shard _ | .qyinit _ _ _ => [execPopServe w.uid a.id]
      | _ => []

/-- The translations that a warp's accesses and entries wait for. -/
def Warp.walkMoves (w : Warp) : List Move :=
  (w.accs.map fun a => (execTranslationWalk w.uid a.id : Move)) ++ w.sq.map fun e => (execTranslationWalk w.uid e.id : Move)

/-- The moves of a warp. -/
def State.warpMoves (s : State) (w : Warp) : List Move :=
  let u := w.uid
  s.accessMoves w ++
    ([0, 1].flatMap fun k =>
      ([execTrapEntry u k, execWalkFault u k, execRegionBoundary u k, execMxacqBind u k, execMxrelReturn u k,
        execMxownFlip u k, execMxwaitReport u k, execMxRowAccess u k, execQuietWaitRelease u k] : List Move)) ++
    (w.pendingBarriers.map fun b => execBarrierPhaseComplete u b.1 b.2) ++
    (match w.xsw with | some x => [execXswPairComplete u x.partner] | none => []) ++
    ([execStoreEntryPerform u, execPushComplete u, execDirectPacketSend u, execDirectReply u, execFenceComplete u,
      execCacheMaintComplete u, execFenceXpComplete u, execLnchRecordRead u, execSwitchMarkerRelease u,
      execGrantCountRotation u, execSpillRestore u, execWarpEnd u] : List Move)

/-! Cores, clusters, memory. -/

/-- The moves of a core. -/
def coreMoves (k : Nat) (c : Core) : List Move :=
  (execL1Fill k : Move) :: (c.windows.map fun p => (execCoalesceRequestSend (16 * k + p.1) : Move)) ++
    (c.lanes.flatMap fun p => ([execAllocationRelease (16 * k + p.1), execLaneSpill (16 * k + p.1)] : List Move)) ++
    (c.copy.flatMap fun e =>
      ([execCopyLineOperation k e.num, execCopyTranslationFault k e.num, execCopyRetire k e.num] : List Move))

/-- The moves of a cluster; tokens move while its engine asks for one (R318). -/
def State.clusterMoves (s : State) (k : Nat) (c : Cluster) : List Move :=
  ([execMxPassSelect k, execMxStep k, execMxPassComplete k, execMxzeroRun k, execBurstEnd k, execSpoilRefill k] : List Move) ++
    ((List.range c.qd.cmds.length).flatMap fun i => ([execQdCommandServe k i, execQdStreamFault k i] : List Move)) ++
    (if c.mx.run.isSome && c.mx.tok.isNone then
      (s.die (clusterDie k)).ring.flatMap fun t =>
        ([execTokenArrive (clusterDie k) t.1, execTokenIdleMove (clusterDie k) t.1] : List Move)
    else [])

/-- The moves of the memory system. -/
def State.memoryMoves (s : State) : List Move :=
  (s.slices.flatMap fun p =>
    ((List.range p.2.queue.length).map fun i => (execHomeSliceServe p.1 i : Move)) ++ [(execL2MemoryReply p.1 : Move)]) ++
    (s.hbm.map fun p => (execBaseDieService p.1 : Move)) ++
    ((List.range s.mesh.length).map fun i => (execFlitRoute i : Move)) ++
    (if s.mesh.isEmpty then [] else s.links.flatMap fun l => ([execLinkWake l.1, execLinkActive l.1] : List Move)) ++
    (s.env.hostReqs.map fun r => (execPcieCompletion r.tag 0 : Move)) ++
    ((List.range s.env.posted.length).map fun i s => .next (s.land i))

/-- The moves of the parts that work on what has been issued. -/
def State.engineMoves (s : State) : List Move :=
  (s.warps.flatMap s.warpMoves) ++ (s.cores.flatMap fun p => coreMoves p.1 p.2) ++
    (s.paused.map fun p s => s.resumeChain p.1.uid p.1.slot) ++ (s.clusters.flatMap fun p => s.clusterMoves p.1 p.2) ++
    (s.quarries.flatMap fun q => ([execFloorWave q.ctx q.n, execTerminationPass q.ctx q.n] : List Move))

/-! Dispatch, pre-emption, the host interface and bring-up. -/

/-- The moves of a pre-emption channel. -/
def State.chanMoves (s : State) (k : Nat) : List Move :=
  ([execGraceExpiry k, execDeadlineExpiry k, execGangRestore k] : List Move) ++
    (s.chan k).walk.flatMap fun x =>
      ([execStopCopyEngine k x.1, execStopCoordinateEngine k x.1, execStopWarps k x.1, execStopMatrixEngine k x.1,
        execStopFlushSave k x.1] : List Move)

/-- The moves that bring the part up (R450, R464): every function passes its self-test. -/
def State.bootMoves (s : State) : List Move :=
  if s.regs.bootst = 0 then [execBootVerify]
  else if s.regs.bootst = 1 then
    ((List.range 34 ++ (List.range 288).map fun c => 64 + c).filter s.testing).map fun fn =>
      (execSelfTestPass fn : Move)
  else []

/-- The moves of everything round the lanes. -/
def State.systemMoves (s : State) : List Move :=
  s.bootMoves ++ ((List.range 64).flatMap fun q =>
      if (s.queue q).en then ([execHeadRecordRead q, execWaitSignalRead q] : List Move) else []) ++
    ([execPlacementDecision] : List Move) ++ (s.disp.launches.map fun l => (execLaunchComplete l.id : Move)) ++
    ([execFaultRecordWrite, execInvalidateDone, execHeldWriteTake, execFirmwareVerifyDone] : List Move) ++
    (List.range 4).flatMap s.chanMoves

/-! Grants. -/

/-- The grants that the lanes could make, in each lane in its order (R161); the lanes take turns. -/
def State.grantMoves (s : State) : List Move :=
  let lanes := s.cores.flatMap fun p => p.2.lanes.map fun l => (p.1, l.1)
  (turned (s.now / 8) lanes).flatMap fun p => (s.laneSlots p.1 p.2).map fun q s => s.laneGrant q.1 q.2 []

/-! The choice. -/

/-- The first move that does something. -/
def State.firstMove (s : State) (l : List Move) : Option (Host.Outcome State Fault Refusal) :=
  firstSome (fun m => match m s with
    | .next s' => if s' = s || s'.unready then none else some (.next s')
    | o => some o) l

/-- The first of the moves in lists, tried in order. -/
def State.firstOf (s : State) (l : List (State → List Move)) : Option (Host.Outcome State Fault Refusal) :=
  firstSome (fun f => s.firstMove (f s)) l

/-- The move when the agenda says nothing, if there is one: the memory system has the first choice every second turn, else the
engines, the lanes and the rest of the part in turn, and what the first cannot use goes to the others, to translations late; no
lane grants while a base die holds the first request of an idle stack back (R287). -/
def State.pick (s : State) : Option (Host.Outcome State Fault Refusal) :=
  let mem := State.memoryMoves
  let eng := State.engineMoves
  let sys := State.systemMoves
  let walks := fun (s : State) => s.warps.flatMap Warp.walkMoves
  let lanes := if s.hbm.any fun p => p.2.came.isSome then [] else [State.grantMoves]
  s.firstOf (match s.now % 8 with
    | 0 => [eng, mem, walks] ++ lanes ++ [sys]
    | 2 => lanes ++ [mem, eng, walks, sys]
    | 4 => [eng, mem] ++ lanes ++ [walks, sys]
    | 6 => [sys, mem, eng] ++ lanes ++ [walks]
    | _ => [mem, eng] ++ lanes ++ [walks, sys])

/-- What happens when the agenda says nothing; with nothing to do, time passes. -/
def State.auto (s : State) : Host.Outcome State Fault Refusal := s.pick.getD (.next s)

end Sys2Proof.Machine
end

