-- ==== Sys2Proof/Machine/Place.lean ====
section
/-! DEFINITION. One turn of the machine, and how a program that the outside has loaded comes to run next (log entries 2, 3,
4). -/

namespace Sys2Proof.Machine

/-- Time passes: by one cycle, or by what the pace says (log entry 3). No access of the new turn waits yet. -/
def State.tick (s : State) : State :=
  match s.pace with
  | [] => { s with now := s.now + 1, unready := false }
  | d :: rest => { s with now := s.now + d, pace := rest, unready := false }

/-- Is it an instruction form, an encoding failure or a timer trap, which only the grant of a slot runs? -/
def granted (i : Instr) : Bool :=
  (Raw.of i).isSome || match i with
    | .illegalInstruction _ _ => true
    | .timerTrap _ _ => true
    | _ => false

/-- What moves next (log entry 2): the head of the agenda, or what the agents choose. -/
def State.turn (s : State) : Host.Outcome State Fault Refusal :=
  match s.agenda with
  | [] => s.auto
  | .run i :: rest => if granted i then .next { s with agenda := rest } else exec i { s with agenda := rest }
  | .land i :: rest => .next ({ s with agenda := rest }.land i)
  | .config c :: rest => .next ({ s with agenda := rest }.configWrite c)
  | .grant u k busy :: rest =>
    let s := { s with agenda := rest }
    if s.paused.any fun p => p.1.uid == u && p.1.slot == k then s.resumeChain u k else s.laneGrant u k busy

/-- A turn in which the part's own access finds its place not ready is not made yet (R451): the access waits. -/
def held (s : State) (o : Host.Outcome State Fault Refusal) : Host.Outcome State Fault Refusal :=
  match o with
  | .next t => if t.unready then .next { s with agenda := s.agenda.drop 1 } else o
  | o => o

/-- An address outside memory that the turn has reached stops the machine. -/
def noHole (o : Host.Outcome State Fault Refusal) : Host.Outcome State Fault Refusal :=
  match o with
  | .next s => match s.bad with
    | none => o
    | some pa => .fault (.outsideMemory pa)
  | o => o

/-! A loaded word (log entry 4). -/

/-- Where a loaded packet stands: its page, virtual and physical. -/
def loadPage : Nat := 0x8000

/-- The launch record that a loaded packet runs under: code at the page, one warp, no resource. -/
def loadRec : LRec :=
  { cb := loadPage, entry := 0, ngang := 1, copyq := 0, args := 0, nwarp := 1, nwg := 1, floor := 1, stiles := 0,
    atiles := 0, fuse := false, prio := 0, csig := 0xFFFF, psize := 0, waits := List.replicate 4 0xFFFF, clear := true,
    shape := 0 }

/-- The gang and the context of a loaded packet's warp: none that stands in the state. -/
def loadGang (uid : Nat) : Gang :=
  { uid, lnch := 0, ctx := 0, queue := 0, gangid := 0, lrec := loadRec, cluster := 0, cores := [0], tiles := [[]],
    share := [], names := [] }
def loadCtx : Ctx :=
  { sigbase := 0, ppool := 0, sigcnt := 0, pmax := 0, uroot := 0, kroot := 0, svbase := 0, ldev := 0, lgid := 0,
    clear := true }

/-- The core's code cache holding the loaded line `bs`, the loaded page at the front of its TLB, and its lane 0 free to
grant in this cycle. -/
def Core.load (c : Core) (bs : List Byte) : Core :=
  { c.dropCode with
           code := [(loadPage, bs)], granted := del 0 c.granted,
           tlb := { ctx := 0, base := loadPage, size := 32768, phys := ⟨0, loadPage⟩, w := false, x := true, pins := 0 } :: c.tlb }

/-- A packet's bytes stand in memory, a warp of all 32 threads stands at it on core 0, and its slot 0 is granted next. -/
def State.loadPacket (s : State) (bs : List Byte) : State :=
  let u := s.disp.nextUid
  let s := { s.homeWrite ⟨0, loadPage⟩ bs with unready := s.unready }
  let s := s.setCore 0 ((s.core 0).load (s.homeRead ⟨0, loadPage⟩ 128))
  let slot := (s.freeSlots8 0 0).headD 0
  let w := newWarp u (loadGang (u + 1)) loadRec loadCtx 0 0 0 slot s.now
  { { s with disp := { s.disp with nextUid := u + 2 } }.enterLane w with
    agenda := .grant u 0 (s.laneSlots 0 0) :: s.agenda }

end Sys2Proof.Machine
end

