-- ==== Sys2Proof/Machine/Step.lean ====
section
/-! DEFINITION. The step. -/

namespace Sys2Proof.Machine

/-- One step: time passes and one agent acts. -/
def step (s : State) : Host.Outcome State Fault Refusal := noHole (held s.tick s.tick.turn)

/-- The state with an instruction of `nbits` bits `w` loaded where the next step fetches (log entry 4). -/
def State.withFetchWord (s : State) (nbits w : Nat) : State := s.loadPacket (leBytes 12 (w % 2 ^ nbits))

end Sys2Proof.Machine
end

