-- ==== Sys2Proof/Safety.lean ====
section
/-! DEFINITION. The terms claims are made in: a warp that issues a word with nothing else due, what a word leaves as it
was, and the invariants of the machine. -/

namespace Sys2Proof.Machine

/-! What issues. -/

/-- The entries of the divergence stack that a pop leaves alone: those below the handler's (R391). -/
def Warp.stackBase (w : Warp) : Nat := match w.handler with | some h => h.base | none => 0

/-- Nothing but the instruction of slot `k` is due in the warp (R148): the slot stands and is active, no group waits to be
pushed, none can be popped, no rejoin register is complete, and the handler's slot is active. Every step leaves a warp so
unless a fault of its own stack parks it (R149). -/
def Warp.calm (w : Warp) (k : Nat) : Bool :=
  k < w.slots.length && (w.slot k).mask != 0 && w.pend.isEmpty &&
    (w.depth ≤ w.stackBase || !(w.slotFree 0 || w.slotFree 1)) && (w.rj.all fun r => !r.complete) &&
    match w.handler with
    | some h => (w.slot h.slot).mask != 0
    | none => true

/-- A warp's register files have their sizes (R11, R15, R146, R150), v-registers their 32 threads' values. -/
def VReg.sized (r : VReg) : Bool := match r with | .general l => l.length == 32 | _ => true
def Warp.sized (w : Warp) : Bool :=
  w.v.length == 63 && (w.v.all VReg.sized) && w.s.length == 63 && w.p.length == 127 && w.fsr.length == 32 &&
    w.slots.length == 2 && w.rj.length == 8

/-- The word that issues in state `s` is `c`'s, in warp `w`; `chain` is its C bit. Unless the chain goes on after it, the
warp is calm; no earlier word of the chain has trapped. -/
structure Issuing (s : State) (c : Issue) (w : Warp) (chain : Bool) : Prop where
  issue : s.issue = some c
  warp : s.warp? c.uid = some w
  sized : w.sized = true
  calm : chain = true ∨ w.calm c.slot = true
  sound : c.trap = none

/-! What a word leaves. -/

/-- The flags that thread `t` has gathered in the instruction or chain (R111). -/
def Issue.flagsOf (c : Issue) (t : Nat) : Nat :=
  c.flags.foldl (fun a p => if p.1 = t then Nat.lor a p.2 else a) 0

/-- Everything but the warps and the issue record is as before, and so is every warp but `uid`. -/
def State.onlyWarp (s t : State) (uid : Nat) : Prop :=
  t = { s with warps := t.warps, issue := t.issue } ∧ ∀ u, u ≠ uid → t.warp? u = s.warp? u

/-- Slot `k` of the warp keeps its threads, and what it waits for; the other slot keeps its pc too. -/
def Warp.sameSlots (w w' : Warp) (k : Nat) : Prop :=
  ∀ j, (w'.slot j).mask = (w.slot j).mask ∧ (w'.slot j).wait = (w.slot j).wait ∧ (w'.slot j).trap = (w.slot j).trap ∧
    (j ≠ k → (w'.slot j).pc = (w.slot j).pc)

/-- The store queue holds the entries it held, some of them released perhaps (R387). -/
def Warp.sameQueue (w w' : Warp) : Prop :=
  w'.sq.map (fun e => { e with held := false }) = w.sq.map (fun e => { e with held := false })

/-- A word of slot `c.slot` is done, alone or in a chain that goes on after it; `w` is the warp with the word's own effect.
Only what retiring advances (R17, R24, R387) differs, and the pc, which stands at the next instruction unless the chain goes
on. -/
structure Advanced (c : Issue) (w w' : Warp) (chain : Bool) : Prop where
  frame : w' = { w with fsr := w'.fsr, slots := w'.slots, lastIns := w'.lastIns, seq := w'.seq, grants := w'.grants,
                        lastSlot := w'.lastSlot, bnds := w'.bnds, sq := w'.sq, park := w'.park }
  slots : w.sameSlots w' c.slot
  queue : w.sameQueue w'
  park : w'.park = if chain then w.park else { w.park with marker := w.park.marker || c.marker }
  pc : (w'.slot c.slot).pc = if chain then (w.slot c.slot).pc else c.npc

/-- A word has run (R17, R111): `t` is `s` but for the issuing warp, which is now `w'` and was `w` once the word had had its
own effect on it; each thread has gathered the flags `fl` in the chain, which its fsr holds once the chain has ended. -/
structure Ran (s t : State) (c : Issue) (w w' : Warp) (chain : Bool) (fl : Nat → Nat) : Prop where
  others : s.onlyWarp t c.uid
  warp : t.warp? c.uid = some w'
  adv : Advanced c w w' chain
  flags : if chain then w'.fsr = w.fsr ∧ ∃ c', t.issue = some c' ∧ c' = { c with flags := c'.flags } ∧
      ∀ t, t < 32 → c'.flagsOf t = Nat.lor (c.flagsOf t) (fl t)
    else t.issue = none ∧ ∀ t, t < 32 → nth w'.fsr t = nth w.fsr t ||| BitVec.ofNat 32 (Nat.lor (c.flagsOf t) (fl t) % 32)

/-- The thread whose value reaches thread `t` in the register a code names: itself in v-space, the lowest participant in
s-space (R63). -/
def valueThread (code : Nat) (parts : Mask) (t : Nat) : Nat := if code < 64 then t else (lowest parts).getD 0

/-- The marks that a word applies itself: none in a chain, whose marks the grant has applied, and none with no participant
(R68). -/
def marksOf (c : Issue) (codes : List Nat) (parts : Mask) : List Nat := if c.snap.isSome || parts == 0 then [] else codes

/-- The word raises no flag whose trap is enabled, or runs at handler privilege (R111, R193, R391). -/
def noFlagTrap (r : Warp) (parts : Mask) (fl : Nat → Nat) : Prop :=
  r.handler.isSome = true ∨ ∀ t, has parts t = true → Nat.land (fl t) r.enables = 0

/-- The registers of a word that writes `n` of them from code `d`, `val` being the value of each thread's result: participants
find it there, but in v63 and s63, which discard it (R11); marked registers are freed; every other register, and the
destination in every other live thread, reads as before. -/
structure Filled (w w' : Warp) (d n : Nat) (marks : List Nat) (parts : Mask) (val : Nat → Nat) : Prop where
  value : ∀ i th, i < n → th < 32 → (has parts th = true ∨ (64 ≤ d ∧ parts ≠ 0)) → d + i ≠ 63 → d + i < 127 →
    w'.reg (d + i) th = BitVec.ofNat 32 (val (valueThread d parts th) / 2 ^ (32 * i))
  kept : ∀ code th, has w.live th = true → code ∉ marks →
    (code < d ∨ d + n ≤ code ∨ parts = 0 ∨ (d < 64 ∧ has parts th = false)) → w'.reg code th = w.reg code th
  freed : ∀ code th, code ∈ marks → code < 63 → (code < d ∨ d + n ≤ code) → w'.reg code th = 0

/-- The registers and predicates of a word that writes predicate `pd`, `val` being the truth of each participant; p0 discards it
(R11). -/
structure FilledPred (w w' : Warp) (pd : Nat) (marks : List Nat) (parts : Mask) (val : Nat → Bool) : Prop where
  value : ∀ th, has parts th = true → pd ≠ 0 → w'.pred pd th = val th
  kept : ∀ n th, (n ≠ pd ∨ has parts th = false) → w'.pred n th = w.pred n th
  regs : ∀ code th, w'.reg code th = if code ∈ marks ∧ code < 63 then 0 else w.reg code th

/-- A word has run that writes `n` registers from code `d`, the value and flags of each thread's result being `val` and
`fl`; every predicate stays. -/
structure Gives (s t : State) (c : Issue) (w w' : Warp) (h : Hdr) (d n : Nat) (marks : List Nat) (parts : Mask)
    (val fl : Nat → Nat) : Prop where
  ran : Ran s t c { w with v := w'.v, s := w'.s } w' h.c fun th => if has parts th then fl (valueThread d parts th) else 0
  file : Filled w w' d n marks parts val

/-- A word has run that writes predicate `pd`, the truth and flags of each participant being `val` and `fl`. -/
structure GivesPred (s t : State) (c : Issue) (w w' : Warp) (h : Hdr) (pd : Nat) (marks : List Nat) (parts : Mask)
    (val : Nat → Bool) (fl : Nat → Nat) : Prop where
  ran : Ran s t c { w with v := w'.v, p := w'.p } w' h.c fun th => if has parts th then fl th else 0
  file : FilledPred w w' pd marks parts val

/-- A transfer has run (R17, R147): `t` is `s` but for the issuing warp, which was `w` once the transfer had had its other
effect and is now `w'`: slot `c.slot` holds the threads `here.2` at `here.1`, and the other slot the group `there`, which
begins a region, or what it held. -/
structure Took (s t : State) (c : Issue) (w w' : Warp) (here : DWord × Mask) (there : Option (DWord × Mask)) : Prop where
  others : s.onlyWarp t c.uid
  issue : t.issue = none
  warp : t.warp? c.uid = some w'
  frame : w' = { w with fsr := w'.fsr, slots := w'.slots, lastIns := w'.lastIns, seq := w'.seq, grants := w'.grants,
                        lastSlot := w'.lastSlot, bnds := w'.bnds, sq := w'.sq, park := w'.park }
  flags : ∀ t, t < 32 → nth w'.fsr t = nth w.fsr t ||| BitVec.ofNat 32 (c.flagsOf t % 32)
  queue : w.sameQueue w'
  park : w'.park = { w.park with marker := w.park.marker || c.marker }
  waits : ∀ j, (w'.slot j).wait = (w.slot j).wait ∧ (w'.slot j).trap = (w.slot j).trap
  here : (w'.slot c.slot).mask = here.2 ∧ (here.2 ≠ 0 → (w'.slot c.slot).pc = here.1)
  there : match there with
    | none => (w'.slot (1 - c.slot)).mask = (w.slot (1 - c.slot)).mask ∧ (w'.slot (1 - c.slot)).pc = (w.slot (1 - c.slot)).pc
    | some g => (w'.slot (1 - c.slot)).mask = g.2 ∧ (w'.slot (1 - c.slot)).pc = g.1

/-- The word of slot `c.slot` raises the trap `tr`, which the slot holds in `t`; nothing else of the warp's own effect has
taken place, and the state `t'` is what taking the trap makes of `t` (R17, R384, R390). -/
structure Raised (s t t' : State) (c : Issue) (w w' : Warp) (tr : TrapReq) : Prop where
  others : s.onlyWarp t c.uid
  issue : t.issue = none
  warp : t.warp? c.uid = some w'
  frame : w' = { w with fsr := w'.fsr, slots := w'.slots, lastIns := w'.lastIns, seq := w'.seq, grants := w'.grants,
                        lastSlot := w'.lastSlot, park := w'.park }
  park : w'.park = { w.park with marker := w.park.marker || c.marker }
  slots : ∀ j, (w'.slot j).mask = (w.slot j).mask ∧ (w'.slot j).pc = (w.slot j).pc ∧ (w'.slot j).epc = (w.slot j).epc ∧
    (w'.slot j).emask = (w.slot j).emask ∧ (w'.slot j).wait = (w.slot j).wait ∧ (j ≠ c.slot → (w'.slot j).trap = (w.slot j).trap)
  trap : (w'.slot c.slot).trap = some tr
  taken : t' = t.takeTrap c.uid c.slot

/-- The trap of a word whose flags `fl` are enabled: it names the participants that raised an enabled flag, and holds the
enabled flags raised (R111, R394). -/
def flagTrap (c : Issue) (r : Warp) (parts : Mask) (fl : Nat → Nat) (seq : Nat) : TrapReq :=
  c.trapOf 2 (maskWhere fun t => has parts t && Nat.land (fl t) r.enables != 0) 0
    ((threads parts).foldl (fun a t => Nat.lor a (Nat.land (fl t) r.enables)) 0) seq

/-- A word has run and raises the trap `tr` (R17, R19, R111): it is as in `Ran`, but within a chain the issue record keeps the
trap until the chain ends, and alone the slot holds it at the word, in `t`, and taking it gives `t'`. -/
structure RanTrap (s t t' : State) (c : Issue) (w w' : Warp) (chain : Bool) (fl : Nat → Nat) (tr : TrapReq) : Prop where
  others : s.onlyWarp t c.uid
  warp : t.warp? c.uid = some w'
  rest : if chain then w' = w ∧ t' = t ∧ ∃ c', t.issue = some c' ∧ c' = { c with flags := c'.flags, trap := some tr } ∧
      ∀ t, t < 32 → c'.flagsOf t = Nat.lor (c.flagsOf t) (fl t)
    else Raised s t t' c w w' tr ∧
      ∀ t, t < 32 → nth w'.fsr t = nth w.fsr t ||| BitVec.ofNat 32 (Nat.lor (c.flagsOf t) (fl t) % 32)

/-! Invariants. -/

/-- Memory is in its canonical form. -/
def State.memWf (s : State) : Prop := Memory.wf s.mem = true

end Sys2Proof.Machine
end

