-- ==== Sys2Proof/Certificates/Slice0/Obligations.lean ====
section
/-! DEFINITION. The statements for the provers, and the words they are put in. -/

namespace Sys2Proof.Claims

open Machine

/-! What a thread reads. -/

/-- Register `x` of thread `t`, in the warp that sources are read from. -/
abbrev reg (r : Warp) (x : BitVec 7) (t : Nat) : Word := r.reg x.toNat t
/-- A pair (R13). -/
def pair (r : Warp) (x : BitVec 7) (t : Nat) : DWord := r.reg (x.toNat + 1) t ++ r.reg x.toNat t
/-- The third source, 0 where no kind-00 word stands (R65). -/
def third (r : Warp) (h : Hdr) (t : Nat) : Word := match h.e0 with | some e => reg r e.ts t | none => 0
def thirdPair (r : Warp) (h : Hdr) (t : Nat) : DWord := match h.e0 with | some e => pair r e.ts t | none => 0
/-- The third source as a predicate, pt where no kind-00 word stands (R65). -/
def thirdPred (r : Warp) (h : Hdr) (t : Nat) : Bool := match h.e0 with | some e => r.pred e.ts.toNat t | none => true
/-- The immediate of a K form, sign- or zero-extended, or with the 22 bits of a kind-01 word above it (R64). -/
def immWord (h : Hdr) (imm : BitVec 10) (sx : Bool) : Word :=
  match h.e1 with
  | some v => v ++ imm
  | none => if sx then imm.signExtend 32 else imm.setWidth 32
/-- The word whose bit j is `f j`. -/
def wordOf (f : Nat → Bool) : Word := (List.range 32).foldr (fun j a => if f j then a ||| 1#32 <<< j else a) 0
/-- An integer kept within S32, within N32 (R32). -/
def satS (x : Int) : Word := BitVec.ofInt 32 (max (-2 ^ 31) (min x (2 ^ 31 - 1)))
def satN (x : Int) : Word := BitVec.ofInt 32 (max 0 (min x (2 ^ 32 - 1)))

/-! What a form does. -/

/-- The participants of the issuing word (R172). -/
def parts (c : Issue) (w : Warp) (h : Hdr) : Mask := (c.src w).participants c.slot h

/-- `i`, whose fields are `h`, runs in every state in which it issues, alone or in a chain, and writes `n` registers from code
`d`: `val` and `fl` give each thread's value and flags from the warp as read, and `codes` are the registers that its marks
name. A pair begins at an even register (R14). A flag whose trap is enabled traps once the results are written (R111). -/
def Writes (i : Instr) (h : Hdr) (d : BitVec 7) (n : Nat) (codes : List Nat) (val fl : Issue → Warp → Nat → Nat) : Prop :=
  ∀ (s : State) (c : Issue) (w : Warp), Issuing s c w h.c → d.toNat % n = 0 →
    let r := c.src w
    let ps := parts c w h
    let flag := fun t => fl c r (valueThread d.toNat ps t)
    (noFlagTrap r ps flag → ∃ t w', exec i s = .next t ∧
      Gives s t c w w' h d.toNat n (marksOf c codes ps) ps (val c r) (fl c r)) ∧
    (¬noFlagTrap r ps flag → ∃ t t' w', exec i s = .next t' ∧
      RanTrap s t t' c { w with v := w'.v, s := w'.s } w' h.c (fun t => if has ps t then flag t else 0)
        (flagTrap c r ps flag (r.seq + 1)) ∧
      Filled w w' d.toNat n (marksOf c codes ps) ps (val c r))

/-- The same for a form that raises no flag and whose value depends on what the thread reads only. -/
def Computes (i : Instr) (h : Hdr) (d : BitVec 7) (n : Nat) (codes : List Nat) (val : Warp → Nat → Nat) : Prop :=
  Writes i h d n codes (fun _ => val) fun _ _ _ => 0

/-- A form that computes values and flags. -/
def Floats (i : Instr) (h : Hdr) (d : BitVec 7) (n : Nat) (codes : List Nat) (val : Warp → Nat → Nat × Nat) : Prop :=
  Writes i h d n codes (fun _ r t => (val r t).1) fun _ r t => (val r t).2

/-- A form that writes predicate `pd`. -/
def Compares (i : Instr) (h : Hdr) (pd : BitVec 7) (codes : List Nat) (val : Warp → Nat → Bool × Nat) : Prop :=
  ∀ (s : State) (c : Issue) (w : Warp), Issuing s c w h.c →
    let r := c.src w
    let ps := parts c w h
    let flag := fun t => (val r t).2
    (noFlagTrap r ps flag → ∃ t w', exec i s = .next t ∧
      GivesPred s t c w w' h pd.toNat (marksOf c codes ps) ps (fun t => (val r t).1) flag) ∧
    (¬noFlagTrap r ps flag → ∃ t t' w', exec i s = .next t' ∧
      RanTrap s t t' c { w with v := w'.v, p := w'.p } w' h.c (fun t => if has ps t then flag t else 0)
        (flagTrap c r ps flag (r.seq + 1)) ∧
      FilledPred w w' pd.toNat (marksOf c codes ps) ps (fun t => (val r t).1))

/-- `i` completes in every state in which it issues and that meets `pre`, alone or in a chain: the issuing warp takes the
effect `eff` and the rest of the state the effect `next`; nothing else changes. -/
def Ends (i : Instr) (h : Hdr) (pre : State → Issue → Warp → Prop) (next : State → Issue → Warp → State)
    (eff : State → Issue → Warp → Warp) : Prop :=
  ∀ (s : State) (c : Issue) (w : Warp), Issuing s c w h.c → pre s c w →
    ∃ t w', exec i s = .next t ∧ Ran (next s c w) t c (eff s c w) w' h.c fun _ => 0

/-- The same for a form that acts on the warp only. -/
def Does (i : Instr) (h : Hdr) (pre : State → Issue → Warp → Prop) (eff : State → Issue → Warp → Warp) : Prop :=
  Ends i h pre (fun s _ _ => s) eff

/-- The same for a form that numbers `k` new records with the state's next numbers. -/
def Starts (k : Nat) (i : Instr) (h : Hdr) (pre : State → Issue → Warp → Prop) (eff : State → Issue → Warp → Warp) : Prop :=
  Ends i h pre (fun s _ _ => { s with nextId := s.nextId + k }) eff

/-- No condition. -/
def always : State → Issue → Warp → Prop := fun _ _ _ => True

/-- The new access of the issuing instruction: numbered, granted at the warp's own count, at handler privilege or not. -/
def newAccess (s : State) (c : Issue) (w : Warp) (kind : AKind) (space : Space) (co : Nat) (dst pdst : List Nat) (ps : Mask)
    (spans : List Span) (walked : Bool) : Access :=
  { id := s.nextId, slot := c.slot, seq := w.seq, kind, space, co, priv := w.handler.isSome, dst, pdst, parts := ps, spans,
    walked, fault := none, fpc := c.pkt + BitVec.ofNat 64 (4 * c.wslot), npc := c.npc, wslot := c.wslot, sent := false }
def withAccess (w : Warp) (a : Access) : Warp := { w with accs := w.accs ++ [a] }
/-- Registers `d` to `d + n - 1` but v63 and s63 (R11). -/
def dsts (d n : Nat) : List Nat := ((List.range n).map (d + ·)).filter fun k => k ≠ 63 ∧ k ≠ 127
/-- The writes of a reply that gives 64 bits to the pair at code `d`: to each thread of `ps` its own, or, in s-space, the
lowest one's (R63). -/
def pairTo (d : Nat) (ps : Mask) (val : Nat → DWord) : List RegWrite :=
  let lo := fun t => (val t).setWidth 32
  let hi := fun t => (val t >>> 32).setWidth 32
  if d < 64 then [.v d ((threads ps).map fun t => (t, lo t)), .v (d + 1) ((threads ps).map fun t => (t, hi t))]
  else [.s (d - 64) (lo ((lowest ps).getD 0)), .s (d - 63) (hi ((lowest ps).getD 0))]

/-- The marks of a form of fields A and B, or of A only (R67). -/
def marksAB (h : Hdr) (a b : BitVec 7) : List Nat := markCodes h a.toNat b.toNat
def marksA (h : Hdr) (a : BitVec 7) : List Nat := markCodes h a.toNat 0

end Sys2Proof.Claims

open Sys2Proof Sys2Proof.Machine Sys2Proof.Claims

/-- R88: what the integer arithmetic forms compute, in register and immediate form. -/
def Obligations.IntegerArithmetic : Prop := ∀ (h : Hdr) (d a b : BitVec 7) (imm : BitVec 10),
  Computes (.iaddS32 h d a b) h d 1 (marksAB h a b) (fun r t =>
    (if h.ext.sat then satS ((reg r a t).toInt + (reg r b t).toInt) else reg r a t + reg r b t).toNat) ∧
  Computes (.iaddN32 h d a b) h d 1 (marksAB h a b) (fun r t =>
    (if h.ext.sat then satN (((reg r a t).toNat : Int) + (reg r b t).toNat) else reg r a t + reg r b t).toNat) ∧
  Computes (.isubS32 h d a b) h d 1 (marksAB h a b) (fun r t =>
    (if h.ext.sat then satS ((reg r a t).toInt - (reg r b t).toInt) else reg r a t - reg r b t).toNat) ∧
  Computes (.isubN32 h d a b) h d 1 (marksAB h a b) (fun r t =>
    (if h.ext.sat then satN (((reg r a t).toNat : Int) - (reg r b t).toNat) else reg r a t - reg r b t).toNat) ∧
  Computes (.iaddImm h d a imm) h d 1 (marksA h a) (fun r t =>
    (if h.ext.sat then satS ((reg r a t).toInt + (immWord h imm true).toInt) else reg r a t + immWord h imm true).toNat) ∧
  Computes (.iabs h d a b) h d 1 (marksA h a) (fun r t =>
    (if h.ext.sat then satS |(reg r a t).toInt| else BitVec.ofInt 32 |(reg r a t).toInt|).toNat) ∧
  Computes (.iaddc h d a b) h d 2 (marksAB h a b) (fun r t =>
    (reg r a t).toNat + (reg r b t).toNat + (third r h t).toNat % 2) ∧
  Computes (.iminS32 h d a b) h d 1 (marksAB h a b) (fun r t =>
    (if (reg r b t).slt (reg r a t) then reg r b t else reg r a t).toNat) ∧
  Computes (.iminN32 h d a b) h d 1 (marksAB h a b) (fun r t => min (reg r a t).toNat (reg r b t).toNat) ∧
  Computes (.imaxS32 h d a b) h d 1 (marksAB h a b) (fun r t =>
    (if (reg r a t).slt (reg r b t) then reg r b t else reg r a t).toNat) ∧
  Computes (.imaxN32 h d a b) h d 1 (marksAB h a b) (fun r t => max (reg r a t).toNat (reg r b t).toNat) ∧
  Computes (.imul h d a b) h d 1 (marksAB h a b) (fun r t => (reg r a t * reg r b t).toNat) ∧
  Computes (.imulImm h d a imm) h d 1 (marksA h a) (fun r t => (reg r a t * immWord h imm true).toNat) ∧
  Computes (.imulhiS32 h d a b) h d 1 (marksAB h a b) (fun r t =>
    (((reg r a t).signExtend 64 * (reg r b t).signExtend 64).extractLsb' 32 32).toNat) ∧
  Computes (.imulhiN32 h d a b) h d 1 (marksAB h a b) (fun r t =>
    (((reg r a t).setWidth 64 * (reg r b t).setWidth 64).extractLsb' 32 32).toNat) ∧
  Computes (.imad h d a b) h d 1 (marksAB h a b) (fun r t => (reg r a t * reg r b t + third r h t).toNat) ∧
  Computes (.imadwS32 h d a b) h d 2 (marksAB h a b) (fun r t =>
    ((reg r a t).signExtend 64 * (reg r b t).signExtend 64 + (third r h t).signExtend 64).toNat) ∧
  Computes (.imadwN32 h d a b) h d 2 (marksAB h a b) (fun r t =>
    ((reg r a t).setWidth 64 * (reg r b t).setWidth 64 + (third r h t).setWidth 64).toNat)

/-- R90: what the logic, shift and bitfield forms compute, in register and immediate form. -/
def Obligations.LogicShiftsBitfields : Prop := ∀ (h : Hdr) (d a b : BitVec 7) (imm : BitVec 10),
  Computes (.and h d a b) h d 1 (marksAB h a b) (fun r t => (reg r a t &&& reg r b t).toNat) ∧
  Computes (.or h d a b) h d 1 (marksAB h a b) (fun r t => (reg r a t ||| reg r b t).toNat) ∧
  Computes (.xor h d a b) h d 1 (marksAB h a b) (fun r t => (reg r a t ^^^ reg r b t).toNat) ∧
  Computes (.andImm h d a imm) h d 1 (marksA h a) (fun r t => (reg r a t &&& immWord h imm true).toNat) ∧
  Computes (.orImm h d a imm) h d 1 (marksA h a) (fun r t => (reg r a t ||| immWord h imm true).toNat) ∧
  Computes (.xorImm h d a imm) h d 1 (marksA h a) (fun r t => (reg r a t ^^^ immWord h imm true).toNat) ∧
  Computes (.lop3 h d a b) h d 1 (marksAB h a b) (fun r t =>
    (wordOf fun j => h.ih.testBit (((reg r a t).getLsbD j).toNat + 2 * ((reg r b t).getLsbD j).toNat +
      4 * ((third r h t).getLsbD j).toNat)).toNat) ∧
  Computes (.shl h d a b) h d 1 (marksAB h a b) (fun r t => (reg r a t <<< (reg r b t).toNat).toNat) ∧
  Computes (.shr h d a b) h d 1 (marksAB h a b) (fun r t => (reg r a t >>> (reg r b t).toNat).toNat) ∧
  Computes (.sar h d a b) h d 1 (marksAB h a b) (fun r t => ((reg r a t).sshiftRight (reg r b t).toNat).toNat) ∧
  Computes (.shlImm h d a imm) h d 1 (marksA h a) (fun r t => (reg r a t <<< (immWord h imm false).toNat).toNat) ∧
  Computes (.shrImm h d a imm) h d 1 (marksA h a) (fun r t => (reg r a t >>> (immWord h imm false).toNat).toNat) ∧
  Computes (.sarImm h d a imm) h d 1 (marksA h a) (fun r t => ((reg r a t).sshiftRight (immWord h imm false).toNat).toNat) ∧
  Computes (.shf h d a b) h d 1 (marksAB h a b) (fun r t =>
    (((reg r b t ++ reg r a t : DWord) >>> ((third r h t).toNat % 64)).setWidth 32).toNat) ∧
  Computes (.bfxN32 h d a b) h d 1 (marksAB h a b) (fun r t =>
    let pos := min ((reg r b t).toNat % 256) 32
    let len := min ((reg r b t).toNat / 256 % 256) 32
    (reg r a t).toNat / 2 ^ pos % 2 ^ len) ∧
  Computes (.bfxS32 h d a b) h d 1 (marksAB h a b) (fun r t =>
    let pos := min ((reg r b t).toNat % 256) 32
    let len := min ((reg r b t).toNat / 256 % 256) 32
    let f : Int := (reg r a t).toInt / 2 ^ pos % 2 ^ len
    (BitVec.ofInt 32 (if 0 < len ∧ 2 ^ (len - 1) ≤ f then f - 2 ^ len else f)).toNat) ∧
  Computes (.bfi h d a b) h d 1 (marksAB h a b) (fun r t =>
    let pos := min ((reg r b t).toNat % 256) 32
    let len := min ((reg r b t).toNat / 256 % 256) 32
    (wordOf fun j => if pos ≤ j ∧ j < pos + len then (reg r a t).getLsbD (j - pos) else (third r h t).getLsbD j).toNat) ∧
  Computes (.popc h d a b) h d 1 (marksA h a) (fun r t => ((List.range 32).filter fun j => (reg r a t).getLsbD j).length) ∧
  Computes (.clz h d a b) h d 1 (marksA h a) (fun r t => if reg r a t = 0 then 32 else 31 - Nat.log2 (reg r a t).toNat) ∧
  Computes (.brev h d a b) h d 1 (marksA h a) (fun r t => (wordOf fun j => (reg r a t).getLsbD (31 - j)).toNat) ∧
  Computes (.prmt h d a b) h d 1 (marksAB h a b) (fun r t =>
    (wordOf fun j =>
      let sel := (reg r b t).toNat / 2 ^ (4 * (j / 8)) % 16
      let k := sel % 8
      let byte := fun n => if k < 4 then (reg r a t).getLsbD (8 * k + n) else (third r h t).getLsbD (8 * (k - 4) + n)
      if sel < 8 then byte (j % 8) else byte 7).toNat)

/-- R85, R92: what the move, select and 64-bit address forms compute. The sums of LEA and ADD64 stand outstanding, as loads
do, until a reply writes them (`LoadResults`); that they are held general then follows log entry 38. -/
def Obligations.MovesAndAddresses : Prop := ∀ (h : Hdr) (d a b : BitVec 7) (imm : BitVec 10),
  Computes (.mov h d a b) h d 1 (marksA h a) (fun r t => (reg r a t).toNat) ∧
  Computes (.movi h d a imm) h d 1 (markCodes h 0 0) (fun _ _ => (immWord h imm true).toNat) ∧
  Computes (.sel h d a b) h d 1 (marksAB h a b) (fun r t => (if thirdPred r h t then reg r a t else reg r b t).toNat) ∧
  (let sums := fun (i : Instr) (val : Warp → Nat → DWord) =>
     Does i h (fun _ c w => parts c w h = 0) (fun _ _ w => w) ∧
     Starts 1 i h (fun _ c w => parts c w h ≠ 0) fun s c w =>
       withAccess (w.markAlone c (marksAB h a b) (parts c w h))
         (newAccess s c w (.result (pairTo d.toNat (parts c w h) (val (c.src w)))) .glob 0 (dsts d.toNat 2) [] (parts c w h) [] true)
   sums (.lea h d a b) (fun r t =>
     let b64 : DWord := if h.ih.testBit 3 then (reg r b t).setWidth 64 else (reg r b t).signExtend 64
     pair r a t + b64 <<< (h.ih % 8)) ∧
   sums (.add64 h d a b) fun r t => pair r a t + pair r b t)

/-- R94: what the integer compares and predicate forms compute. -/
def Obligations.IntegerCompares : Prop := ∀ (h : Hdr) (d a b : BitVec 7),
  Compares (.icmpEq h d a b) h d (marksAB h a b) (fun r t => (reg r a t == reg r b t && thirdPred r h t, 0)) ∧
  Compares (.icmpNe h d a b) h d (marksAB h a b) (fun r t => (reg r a t != reg r b t && thirdPred r h t, 0)) ∧
  Compares (.icmpLtS32 h d a b) h d (marksAB h a b) (fun r t => ((reg r a t).slt (reg r b t) && thirdPred r h t, 0)) ∧
  Compares (.icmpLeS32 h d a b) h d (marksAB h a b) (fun r t => ((reg r a t).sle (reg r b t) && thirdPred r h t, 0)) ∧
  Compares (.icmpLtN32 h d a b) h d (marksAB h a b) (fun r t => ((reg r a t).ult (reg r b t) && thirdPred r h t, 0)) ∧
  Compares (.icmpLeN32 h d a b) h d (marksAB h a b) (fun r t => ((reg r a t).ule (reg r b t) && thirdPred r h t, 0)) ∧
  Compares (.plop h d a b) h d (markCodes h 0 0) (fun r t =>
    (h.ih.testBit ((r.pred a.toNat t).toNat + 2 * (r.pred b.toNat t).toNat + 4 * (thirdPred r h t).toNat), 0)) ∧
  Compares (.pmov h d a b) h d (markCodes h 0 0) (fun r t => (r.pred a.toNat t, 0))

namespace Sys2Proof.Claims

/-! Floating-point values, as rationals. -/

/-- (-1)^n × m × 2^x. -/
def dyadic (n : Bool) (m : Nat) (x : Int) : ℚ := (if n then -1 else 1) * (m : ℚ) * 2 ^ x
/-- The value of a finite operand (R34). -/
def finQ (v : Fv) : Option ℚ := match v with | .fin n m x => some (dyadic n m x) | _ => none
/-- The value of an exact result that is given without a sticky bit. -/
def exQ (e : Ex) : Option ℚ := match e with | .zero _ => some 0 | .num n m x false => some (dyadic n m x) | _ => none
/-- An operand as read under `.FTZ` (R44). -/
def operand (f : Fp) (ftz : Bool) (a : Nat) : Fv := ftzIn f ftz (f.decode a)

/-- Sign and magnitude of a code of `e` + `f` bits below its sign, a subnormal magnitude being 0 under `.FTZ` (R44). -/
def signOf (f : Fp) (a : Nat) : Bool := a.testBit (f.e + f.f)
def magOf (f : Fp) (ftz : Bool) (a : Nat) : Nat :=
  let m := a % 2 ^ (f.e + f.f)
  if ftz && decide (m < 2 ^ f.f) then 0 else m
/-- Is a code of a format with infinities a NaN, a signalling NaN (R33, R35)? -/
def isNaN (f : Fp) (a : Nat) : Bool := decide ((2 ^ f.e - 1) * 2 ^ f.f < a % 2 ^ (f.e + f.f))
def isSig (f : Fp) (a : Nat) : Bool := isNaN f a && !a.testBit (f.f - 1)
/-- The place of a code that is no NaN in the order of values, zeros equal, and with -0 below +0. -/
def rank (f : Fp) (ftz : Bool) (a : Nat) : Int := if signOf f a then -(magOf f ftz a : Int) else magOf f ftz a
def rankZ (f : Fp) (ftz : Bool) (a : Nat) : Int := if signOf f a then -(magOf f ftz a : Int) - 1 else magOf f ftz a

/-- The mode, `.SAT` and `.FTZ` of an instruction. -/
def modeOf (h : Hdr) : Rm := Rm.of h.ext.rm.toNat

/-- FCLASS (R117). -/
def classMask (a : Word) : Nat :=
  let e := a.toNat / 2 ^ 23 % 256
  let t := a.toNat % 2 ^ 23
  if e = 255 then (if t = 0 then (if a.msb then 1 else 128) else if t < 2 ^ 22 then 256 else 512)
  else if e = 0 then (if t = 0 then (if a.msb then 8 else 16) else if a.msb then 4 else 32)
  else if a.msb then 2 else 64

/-- FMIN and FMAX of two operands (R115): `pick` chooses by order. -/
def minMax (ftz : Bool) (pick : Int → Int → Bool) (a b : Nat) : Nat × Nat :=
  let out := fun x => (if signOf .fp32 x then 2 ^ 31 else 0) + magOf .fp32 ftz x
  let fl := if isSig .fp32 a || isSig .fp32 b then 1 else 0
  if isNaN .fp32 a && isNaN .fp32 b then (0x7FC00000, fl)
  else if isNaN .fp32 a then (out b, fl)
  else if isNaN .fp32 b then (out a, fl)
  else (if pick (rankZ .fp32 ftz a) (rankZ .fp32 ftz b) then out a else out b, fl)

/-- A condition of FCMP (R118): `ord` on ordered operands, `un` on unordered ones; `any` if every NaN sets IV. -/
def compare (f : Fp) (ftz : Bool) (any un : Bool) (ord : Int → Int → Bool) (a b : Nat) : Bool × Nat :=
  if isNaN f a || isNaN f b then (un, if any || isSig f a || isSig f b then 1 else 0)
  else (ord (rank f ftz a) (rank f ftz b), 0)

/-- x rounded to an integer under a mode (R40, R48). -/
def roundQ (mode : Rm) (x : ℚ) : Int :=
  match mode with
  | .rn => if x - ⌊x⌋ < 1 / 2 ∨ (x - ⌊x⌋ = 1 / 2 ∧ ⌊x⌋ % 2 = 0) then ⌊x⌋ else ⌊x⌋ + 1
  | .rz => if 0 ≤ x then ⌊x⌋ else ⌈x⌉
  | .ru => ⌈x⌉
  | .rd => ⌊x⌋

/-- The exponent of the grid's step at v, and v rounded onto the grid of the format extended upward (R41 step 2). -/
def gridExp (f : Fp) (v : ℚ) : Int := max (Int.log 2 |v|) (1 - (f.bias : Int)) - f.f
def onGrid (f : Fp) (m : Rm) (v : ℚ) : ℚ := (roundQ m (v / 2 ^ gridExp f v) : ℚ) * 2 ^ gridExp f v
/-- The largest value of a format (R33), and what an overflow gives (R43). -/
def topQ (f : Fp) : ℚ := (finQ (f.decode f.largest)).getD 0
def overflowOf (f : Fp) (m : Rm) (sat neg : Bool) : Nat :=
  let big := f.signed neg f.largest
  let away := if f = .e4m3 then 0x7F else f.inf neg
  if sat = true ∨ f ∈ [Fp.e3m2, .e2m3, .e2m1] then big
  else match m with
    | .rn => away
    | .rz => big
    | .ru => if neg then big else away
    | .rd => if neg then away else big
/-- `c` is the code of the value y, and has the sign `neg`, but for E2M1's zero, which is +0 (R41 step 5). -/
def Codes (f : Fp) (neg : Bool) (y : ℚ) (c : Nat) : Prop :=
  finQ (f.decode c) = some y ∧ c < 2 ^ f.width ∧ signOf f c = (neg && !(f == .e2m1 && y == 0))
/-- The code and flags `r` are round(v, mode, f), for a nonzero v (R41): OF and IX on an overflow, whose result is R43's; a tiny
result is flushed under `.FTZ`, with UF and IX (R44), else UF and IX are set when it differs from v; any other result sets IX
when it differs from v. -/
def IsRound (f : Fp) (m : Rm) (sat ftz : Bool) (v : ℚ) (r : Nat × Nat) : Prop :=
  let neg := decide (v < 0)
  let y := onGrid f m v
  if topQ f < |y| then r = (overflowOf f m sat neg, 20)
  else if |y| < 2 ^ (1 - (f.bias : Int)) then
    (if ftz then Codes f neg 0 r.1 ∧ r.2 = 24 else Codes f neg y r.1 ∧ r.2 = if y = v then 0 else 24)
  else Codes f neg y r.1 ∧ r.2 = if y = v then 0 else 16
/-- The exact result `e` stands for the nonzero value v: it is v, or, with the sticky bit, it brackets v more finely than the
grid of the format. -/
def StandsFor (f : Fp) (e : Ex) (v : ℚ) : Prop :=
  match e with
  | .num n m x false => m ≠ 0 ∧ v = dyadic n m x
  | .num n m x true => n = decide (v < 0) ∧ (m : ℚ) * 2 ^ x < |v| ∧ |v| < ((m : ℚ) + 1) * 2 ^ x ∧ x < gridExp f v
  | _ => False

/-- One FP form on FP32 operands, and on pairs: `f` gives the code and flags. -/
def fp1 (r : Warp) (a : BitVec 7) (t : Nat) : Nat := (reg r a t).toNat
def fp2 (r : Warp) (a : BitVec 7) (t : Nat) : Nat := (pair r a t).toNat

end Sys2Proof.Claims

/-- R113, R114, R121: the arithmetic forms complete, and each thread's value and flags are those of the one rounding of its
own operands, which `SumsAndProductsAreExact` and `RoundingIsToTheGrid` describe. -/
def Obligations.FloatArithmeticCompletes : Prop := ∀ (h : Hdr) (d a b : BitVec 7),
  let m := modeOf h
  let sat := h.ext.sat
  let ftz := h.ext.ftz
  Floats (.fadd h d a b) h d 1 (marksAB h a b) (fun r t => fpAdd .fp32 m sat ftz (fp1 r a t) (fp1 r b t)) ∧
  Floats (.fmul h d a b) h d 1 (marksAB h a b) (fun r t => fpMul .fp32 m sat ftz (fp1 r a t) (fp1 r b t)) ∧
  Floats (.ffma h d a b) h d 1 (marksAB h a b) (fun r t =>
    fpFma .fp32 m sat ftz (fp1 r a t) (fp1 r b t) (third r h t).toNat) ∧
  Floats (.dadd h d a b) h d 2 (marksAB h a b) (fun r t => fpAdd .fp64 m sat ftz (fp2 r a t) (fp2 r b t)) ∧
  Floats (.dmul h d a b) h d 2 (marksAB h a b) (fun r t => fpMul .fp64 m sat ftz (fp2 r a t) (fp2 r b t)) ∧
  Floats (.dfma h d a b) h d 2 (marksAB h a b) (fun r t =>
    fpFma .fp64 m sat ftz (fp2 r a t) (fp2 r b t) (thirdPair r h t).toNat) ∧
  Floats (.fsclF32 h d a b) h d 1 (marksAB h a b) (fun r t => fpScale .fp32 m sat ftz (fp1 r a t) (fp1 r b t)) ∧
  Floats (.fsclF64 h d a b) h d 2 (marksAB h a b) (fun r t => fpScale .fp64 m sat ftz (fp2 r a t) (fp1 r b t)) ∧
  Floats (.hadd2 h d a b) h d 1 (marksAB h a b) (fun r t =>
    let e := fun i => fpAdd .fp16 m sat ftz (fp1 r a t / 2 ^ (16 * i) % 2 ^ 16) (fp1 r b t / 2 ^ (16 * i) % 2 ^ 16)
    ((e 0).1 + 2 ^ 16 * (e 1).1, Nat.lor (e 0).2 (e 1).2)) ∧
  Floats (.hmul2 h d a b) h d 1 (marksAB h a b) (fun r t =>
    let e := fun i => fpMul .fp16 m sat ftz (fp1 r a t / 2 ^ (16 * i) % 2 ^ 16) (fp1 r b t / 2 ^ (16 * i) % 2 ^ 16)
    ((e 0).1 + 2 ^ 16 * (e 1).1, Nat.lor (e 0).2 (e 1).2)) ∧
  Floats (.hfma2 h d a b) h d 1 (marksAB h a b) (fun r t =>
    let e := fun i => fpFma .fp16 m sat ftz (fp1 r a t / 2 ^ (16 * i) % 2 ^ 16) (fp1 r b t / 2 ^ (16 * i) % 2 ^ 16)
      ((third r h t).toNat / 2 ^ (16 * i) % 2 ^ 16)
    ((e 0).1 + 2 ^ 16 * (e 1).1, Nat.lor (e 0).2 (e 1).2)) ∧
  Floats (.bfma2 h d a b) h d 1 (marksAB h a b) (fun r t =>
    let e := fun i => fpFma .bf16 m sat ftz (fp1 r a t / 2 ^ (16 * i) % 2 ^ 16) (fp1 r b t / 2 ^ (16 * i) % 2 ^ 16)
      ((third r h t).toNat / 2 ^ (16 * i) % 2 ^ 16)
    ((e 0).1 + 2 ^ 16 * (e 1).1, Nat.lor (e 0).2 (e 1).2))

/-- R42, R114: what the arithmetic forms round is the exact sum, product or product and sum of their operands, in every
format, mode and setting of `.SAT` and `.FTZ`; an exact zero has the sign of R42; a NaN operand, an infinity times zero and
opposite infinities give the canonical NaN, with IV unless every NaN is quiet (R35, R36, R45); an infinity that meets none of
these stays, or under `.SAT` is the largest value, with no flag (R43). -/
def Obligations.SumsAndProductsAreExact : Prop := ∀ (f : Fp) (m : Rm) (sat ftz : Bool) (a b c : Nat),
  let A := operand f ftz a
  let B := operand f ftz b
  let C := operand f ftz c
  let inf := fun (n : Bool) => (if sat then f.signed n f.largest else f.inf n, 0)
  let nanIf := fun (sig : Bool) => (f.cnan, if sig then 1 else 0)
  (∀ x y, finQ A = some x → finQ B = some y →
    (∃ e, exQ e = some (x + y) ∧ fpAdd f m sat ftz a b = roundTo f m sat ftz e ∧
      (x + y = 0 → e = .zero (if x = 0 ∧ A.neg = B.neg then A.neg else m == .rd))) ∧
    (∃ e, exQ e = some (x * y) ∧ fpMul f m sat ftz a b = roundTo f m sat ftz e ∧ (x * y = 0 → e = .zero (A.neg != B.neg))) ∧
    ∀ z, finQ C = some z → ∃ e, exQ e = some (x * y + z) ∧ fpFma f m sat ftz a b c = roundTo f m sat ftz e ∧
      (x * y + z = 0 → e = .zero (if z = 0 ∧ (A.neg != B.neg) = C.neg then C.neg else m == .rd))) ∧
  (A.isNan ∨ B.isNan → fpAdd f m sat ftz a b = (f.cnan, if A.snan || B.snan then 1 else 0) ∧
    fpMul f m sat ftz a b = (f.cnan, if A.snan || B.snan then 1 else 0) ∧
    fpFma f m sat ftz a b c = (f.cnan, if A.snan || B.snan || C.snan then 1 else 0)) ∧
  ((∃ n, A = .inf n ∧ B = .inf !n) → fpAdd f m sat ftz a b = (f.cnan, 1)) ∧
  ((A.isInf ∧ B.isZero) ∨ (A.isZero ∧ B.isInf) → fpMul f m sat ftz a b = (f.cnan, 1) ∧ fpFma f m sat ftz a b c = (f.cnan, 1)) ∧
  (∀ n, (A = .inf n ∧ (B = .inf n ∨ ∃ y, finQ B = some y)) ∨ (B = .inf n ∧ ∃ x, finQ A = some x) → fpAdd f m sat ftz a b = inf n) ∧
  (¬A.isNan → ¬B.isNan → (A.isInf ∨ B.isInf) → ¬A.isZero → ¬B.isZero →
    fpMul f m sat ftz a b = inf (A.neg != B.neg) ∧
    ((∃ z, finQ C = some z) ∨ C = .inf (A.neg != B.neg) → fpFma f m sat ftz a b c = inf (A.neg != B.neg)) ∧
    (C = .inf !(A.neg != B.neg) → fpFma f m sat ftz a b c = nanIf true)) ∧
  (∀ x y n, finQ A = some x → finQ B = some y → C = .inf n → fpFma f m sat ftz a b c = inf n) ∧
  (¬A.isNan → ¬B.isNan → ¬(A.isInf ∧ B.isZero) → ¬(A.isZero ∧ B.isInf) → C.isNan → fpFma f m sat ftz a b c = nanIf C.snan)

/-- R40, R41, R43, R44: the one rounding function, in every format, mode and setting of `.SAT` and `.FTZ`: a nonzero value, exact or
known more finely than the format's grid, gives the code and the flags of `IsRound`: the value of the grid that the mode asks for, v itself where v
is one; an exact zero keeps its sign, an infinity stays, or is the largest value under `.SAT` or where there is none, and neither
sets a flag; a value rounded is a neighbour of v among the format's values. -/
def Obligations.RoundingIsToTheGrid : Prop := ∀ (f : Fp) (m : Rm) (sat ftz : Bool),
  (∀ (e : Ex) (v : ℚ), v ≠ 0 → StandsFor f e v → IsRound f m sat ftz v (roundTo f m sat ftz e)) ∧
  (∀ n, Codes f n 0 (roundTo f m sat ftz (.zero n)).1 ∧ (roundTo f m sat ftz (.zero n)).2 = 0 ∧
    roundTo f m sat ftz (.inf n) = (if sat = true ∨ f ∈ [Fp.e4m3, .e3m2, .e2m3, .e2m1] then f.signed n f.largest else f.inf n, 0)) ∧
  ∀ (n : Bool) (k : Nat) (x : Int), k ≠ 0 →
    let v := dyadic n k x
    let r := roundTo f m false false (.num n k x false)
    ((∃ c, finQ (f.decode c) = some v) → finQ (f.decode r.1) = some v ∧ r.2 = 0) ∧
    (r.2.testBit 2 = false →
      ∃ y, finQ (f.decode r.1) = some y ∧ (r.2.testBit 4 = true ↔ y ≠ v) ∧
        (r.2.testBit 3 = true ↔ y ≠ v ∧ |y| < 2 ^ (1 - (f.bias : Int))) ∧
        (∀ c z, finQ (f.decode c) = some z → ¬(min y v < z ∧ z < max y v)) ∧
        (m = .rz → |y| ≤ |v|) ∧ (m = .ru → v ≤ y) ∧ (m = .rd → y ≤ v) ∧
        (m = .rn → ∀ c z, finQ (f.decode c) = some z → |y - v| ≤ |z - v| ∧ (z ≠ y → |y - v| = |z - v| → r.1 % 2 = 0)))

/-- R115, R116, R117: FMIN, FMAX, FCLASS and FRND complete. FRND rounds a finite operand to an integer under the mode, with its
own sign, and sets no flag; an infinity stays, and a NaN gives the canonical NaN, with IV when it is signalling. -/
def Obligations.FloatMinMaxClassRound : Prop :=
  (∀ (h : Hdr) (d a b : BitVec 7),
    Floats (.fmin h d a b) h d 1 (marksAB h a b) (fun r t =>
      minMax h.ext.ftz (fun x y => decide (x ≤ y)) (fp1 r a t) (fp1 r b t)) ∧
    Floats (.fmax h d a b) h d 1 (marksAB h a b) (fun r t =>
      minMax h.ext.ftz (fun x y => decide (y ≤ x)) (fp1 r a t) (fp1 r b t)) ∧
    Computes (.fclass h d a b) h d 1 (marksA h a) (fun r t => classMask (reg r a t)) ∧
    Floats (.frnd h d a b) h d 1 (marksA h a) (fun r t => fpRound (modeOf h) h.ext.ftz (fp1 r a t))) ∧
  ∀ (m : Rm) (ftz : Bool) (a : Word),
    (∀ x, finQ (operand .fp32 ftz a.toNat) = some x →
      finQ (Fp.fp32.decode (fpRound m ftz a.toNat).1) = some ((roundQ m x : Int) : ℚ) ∧
      (fpRound m ftz a.toNat).1.testBit 31 = a.msb ∧ (fpRound m ftz a.toNat).2 = 0) ∧
    ((operand .fp32 ftz a.toNat).isInf → fpRound m ftz a.toNat = (a.toNat, 0)) ∧
    ((operand .fp32 ftz a.toNat).isNan → fpRound m ftz a.toNat = (0x7FC00000, if isSig .fp32 a.toNat then 1 else 0))

/-- R118: the floating-point compares, on FP32 operands and on FP64 pairs. -/
def Obligations.FloatCompares : Prop := ∀ (h : Hdr) (d a b : BitVec 7),
  let z := h.ext.ftz
  let on := fun (x : Bool × Nat) (r : Warp) (t : Nat) => (x.1 && thirdPred r h t, x.2)
  let lt : Int → Int → Bool := fun x y => decide (x < y)
  let le : Int → Int → Bool := fun x y => decide (x ≤ y)
  let s := fun (any un : Bool) (o : Int → Int → Bool) (r : Warp) (t : Nat) =>
    on (compare .fp32 z any un o (fp1 r a t) (fp1 r b t)) r t
  let w := fun (any un : Bool) (o : Int → Int → Bool) (r : Warp) (t : Nat) =>
    on (compare .fp64 z any un o (fp2 r a t) (fp2 r b t)) r t
  Compares (.fcmpEq h d a b) h d (marksAB h a b) (s false false (· == ·)) ∧
  Compares (.fcmpNe h d a b) h d (marksAB h a b) (s false false (· != ·)) ∧
  Compares (.fcmpLt h d a b) h d (marksAB h a b) (s true false lt) ∧
  Compares (.fcmpLe h d a b) h d (marksAB h a b) (s true false le) ∧
  Compares (.fcmpUn h d a b) h d (marksAB h a b) (s false true fun _ _ => false) ∧
  Compares (.fcmpNeu h d a b) h d (marksAB h a b) (s false true (· != ·)) ∧
  Compares (.fcmpLtu h d a b) h d (marksAB h a b) (s false true lt) ∧
  Compares (.fcmpLeu h d a b) h d (marksAB h a b) (s false true le) ∧
  Compares (.fcmpEqF64 h d a b) h d (marksAB h a b) (w false false (· == ·)) ∧
  Compares (.fcmpNeF64 h d a b) h d (marksAB h a b) (w false false (· != ·)) ∧
  Compares (.fcmpLtF64 h d a b) h d (marksAB h a b) (w true false lt) ∧
  Compares (.fcmpLeF64 h d a b) h d (marksAB h a b) (w true false le) ∧
  Compares (.fcmpUnF64 h d a b) h d (marksAB h a b) (w false true fun _ _ => false) ∧
  Compares (.fcmpNeuF64 h d a b) h d (marksAB h a b) (w false true (· != ·)) ∧
  Compares (.fcmpLtuF64 h d a b) h d (marksAB h a b) (w false true lt) ∧
  Compares (.fcmpLeuF64 h d a b) h d (marksAB h a b) (w false true le)

/-- R120: the root and transcendental forms complete, and special operands give the results of the table. -/
def Obligations.RootsAndTranscendentals : Prop :=
  (∀ (h : Hdr) (d a b : BitVec 7),
    Floats (.frcp h d a b) h d 1 (marksA h a) (fun r t => fpRcp h.ext.ftz (fp1 r a t)) ∧
    Floats (.frsq h d a b) h d 1 (marksA h a) (fun r t => fpRsq h.ext.ftz (fp1 r a t)) ∧
    Floats (.fsqrt h d a b) h d 1 (marksA h a) (fun r t => fpSqrt (modeOf h) h.ext.ftz (fp1 r a t)) ∧
    Floats (.fexp2 h d a b) h d 1 (marksA h a) (fun r t => fpExp2 h.ext.ftz (fp1 r a t)) ∧
    Floats (.flog2 h d a b) h d 1 (marksA h a) (fun r t => fpLog2 h.ext.ftz (fp1 r a t)) ∧
    Floats (.fsin h d a b) h d 1 (marksA h a) (fun r t => fpTrig false h.ext.ftz (fp1 r a t)) ∧
    Floats (.fcos h d a b) h d 1 (marksA h a) (fun r t => fpTrig true h.ext.ftz (fp1 r a t))) ∧
  ∀ (z : Bool) (m : Rm),
    (let n := 0x7FC00000
     let row := fun (g : Nat → Nat × Nat) (l : List (Nat × Nat)) =>
       [0xFF800000, 0x80000000, 0, 0x7F800000].map g = l ∧
       ∀ a : Word, isNaN .fp32 a.toNat → g a.toNat = (n, if isSig .fp32 a.toNat then 1 else 0)
     row (fpRcp z) [(0x80000000, 0), (0xFF800000, 2), (0x7F800000, 2), (0, 0)] ∧
     row (fpRsq z) [(n, 1), (0xFF800000, 2), (0x7F800000, 2), (0, 0)] ∧
     row (fpSqrt m z) [(n, 1), (0x80000000, 0), (0, 0), (0x7F800000, 0)] ∧
     row (fpExp2 z) [(0, 0), (0x3F800000, 0), (0x3F800000, 0), (0x7F800000, 0)] ∧
     row (fpLog2 z) [(n, 1), (0xFF800000, 2), (0xFF800000, 2), (0x7F800000, 0)] ∧
     row (fpTrig false z) [(n, 1), (0x80000000, 0), (0, 0), (n, 1)] ∧
     row (fpTrig true z) [(n, 1), (0x3F800000, 0), (0x3F800000, 0), (n, 1)] ∧
     ∀ a : Word, a.msb = true → (∃ x, finQ (operand .fp32 z a.toNat) = some x ∧ x < 0) →
       fpRsq z a.toNat = (n, 1) ∧ fpSqrt m z a.toNat = (n, 1) ∧ fpLog2 z a.toNat = (n, 1))

/-- R119: FRCP and FRSQ give one of the two FP32 values that bracket the exact value, and that value itself where it is an FP32
value; FSQRT is correctly rounded: exact where the root is an FP32 value, else the bracketing value that the mode asks for, under
RN the nearer. IX is set when the result is not the exact value. Which of the two FRCP and FRSQ give is the part's (log entry 6). -/
def Obligations.RootsBracketTheExactValue : Prop := ∀ (m : Rm) (a : Word) (x : ℚ), finQ (Fp.fp32.decode a.toNat) = some x →
  let values := fun (z : ℚ) => ∃ c, finQ (Fp.fp32.decode c) = some z
  (x ≠ 0 → (fpRcp false a.toNat).2.testBit 2 = false →
    ∃ y, finQ (Fp.fp32.decode (fpRcp false a.toNat).1) = some y ∧
      (∀ z, values z → ¬(min y x⁻¹ < z ∧ z < max y x⁻¹)) ∧ (values x⁻¹ → y = x⁻¹) ∧
      ((fpRcp false a.toNat).2.testBit 4 = true ↔ ¬values x⁻¹)) ∧
  (x ≠ 0 → (fpRcp false a.toNat).2.testBit 2 = true → (∀ z, values z → |z| < |x⁻¹|) ∧ fpRcp false a.toNat = (Fp.fp32.inf a.msb, 20)) ∧
  (0 < x →
    (∃ y, finQ (Fp.fp32.decode (fpRsq false a.toNat).1) = some y ∧ 0 < y ∧
      (∀ z, values z → 0 < z → ¬(y < z ∧ z ^ 2 * x < 1) ∧ ¬(z < y ∧ 1 < z ^ 2 * x) ∧ (z ^ 2 * x = 1 → y = z)) ∧
      ((fpRsq false a.toNat).2.testBit 4 = true ↔ y ^ 2 * x ≠ 1)) ∧
    ∃ y, finQ (Fp.fp32.decode (fpSqrt m false a.toNat).1) = some y ∧ 0 < y ∧
      (∀ z, values z → 0 < z → ¬(y < z ∧ z ^ 2 < x) ∧ ¬(z < y ∧ x < z ^ 2) ∧ (z ^ 2 = x → y = z)) ∧
      (m = .rz ∨ m = .rd → y ^ 2 ≤ x) ∧ (m = .ru → x ≤ y ^ 2) ∧
      (m = .rn → ∀ z, values z → 0 < z → (y < z → 4 * x ≤ (y + z) ^ 2) ∧ (z < y → (y + z) ^ 2 ≤ 4 * x)) ∧
      ((fpSqrt m false a.toNat).2 = if y ^ 2 = x then 0 else 16))

/-- R119: FEXP2 and FLOG2 give the exact value where it is an FP32 value, with no flag, and set IX elsewhere; FEXP2 of 128 and more
overflows. Their results, and those of FSIN and FCOS of operands up to 3/2, lie within 2.01 × 2^-23 of the exact value relative to
it, or 2.01 × 2^-149 where that is more: R119's two units in the last place, widened by a hundredth. Beyond 2^20 FSIN and
FCOS stay in [-1, 1]. Which value within the bound they give is the part's (log entry 6). -/
def Obligations.TranscendentalBounds : Prop := ∀ (a : Word) (x : ℚ), finQ (Fp.fp32.decode a.toNat) = some x → x ≠ 0 →
  let near := fun (r : Nat × Nat) (v : ℝ) => ∃ y, finQ (Fp.fp32.decode r.1) = some y ∧
    |(y : ℝ) - v| ≤ 201 / 100 * max (2 ^ (-23 : Int) * |v|) (2 ^ (-149 : Int))
  let exact := fun (r : Nat × Nat) (v : ℚ) => finQ (Fp.fp32.decode r.1) = some v ∧ r.2 = 0
  let inexact := fun (r : Nat × Nat) => r.2.testBit 4 = true
  (let r := fpExp2 false a.toNat
   (128 ≤ x → r = (0x7F800000, 20)) ∧
   (∀ n : Int, x = n → -149 ≤ n → n < 128 → exact r (2 ^ n)) ∧
   (x < 128 → r.2.testBit 2 = false → near r ((2 : ℝ) ^ (x : ℝ))) ∧
   ((∀ n : Int, x ≠ n) → inexact r)) ∧
  (let r := fpLog2 false a.toNat
   0 < x → (∀ n : Int, x = 2 ^ n → exact r n) ∧ near r (Real.logb 2 x) ∧ ((∀ n : Int, x ≠ 2 ^ n) → inexact r)) ∧
  (∀ co : Bool,
    let r := fpTrig co false a.toNat
    inexact r ∧ (|x| ≤ 3 / 2 → near r (if co then Real.cos x else Real.sin x)) ∧
    (2 ^ 20 < |x| → ∃ y, finQ (Fp.fp32.decode r.1) = some y ∧ |y| ≤ 1))

/-- R46 to R49, R122: CVT completes for every pair of formats that is not reserved, its registers being as wide as the formats. Between
floating-point formats the value, a subnormal being 0 under `.FTZ` (R44), is rounded once; NaNs and infinities follow the table of
R47. To an integer format it is rounded to an integer and kept within the format, with the flags of R48. An integer is
rounded once, and between integer formats wrapped, or kept within the format under `.SAT`. -/
def Obligations.Conversions : Prop :=
  (∀ (h : Hdr) (d a : BitVec 7) (imm : BitVec 10) (dst src : NumFmt), numFmt (imm.toNat % 32) = some dst →
    numFmt (imm.toNat / 32) = some src →
    let n := numRegs (imm.toNat % 32)
    let k := numRegs (imm.toNat / 32)
    Floats (.cvt h d a imm) h d n (marksA h a) (fun r t =>
      convert dst src (modeOf h) h.ext.sat h.ext.ftz (if k = 2 then fp2 r a t else fp1 r a t))) ∧
  (∀ (f g : Fp) (m : Rm) (sat ftz : Bool) (c : Nat), ¬(f = .e2m1 ∧ c % 16 = 8) →
    let r := convert (.fp g) (.fp f) m sat ftz c
    let read := if ftz = true ∧ (f = g ∨ f ∈ [Fp.fp64, .fp32, .fp16, .bf16]) ∧ magOf f true c = 0 then some 0 else finQ (f.decode c)
    (read = some 0 → Codes g (signOf f c) 0 r.1 ∧ r.2 = 0) ∧
    (∀ v, v ≠ 0 → read = some v → IsRound g m sat ftz v r) ∧
    (∀ sig, f.decode c = .nan sig →
      r = (if g ∈ [Fp.e3m2, .e2m3, .e2m1] then 0 else g.cnan, if sig = true ∨ g ∈ [Fp.e3m2, .e2m3, .e2m1] then 1 else 0)) ∧
    (∀ n, f.decode c = .inf n →
      r = if sat then (g.signed n g.largest, 0) else if g = .e4m3 then (0x7F, 1)
        else if g ∈ [Fp.e3m2, .e2m3, .e2m1] then (g.signed n g.largest, 1) else (g.inf n, 0))) ∧
  (∀ (g : Fp) (m : Rm) (sat ftz : Bool) (c : Nat), c % 16 = 8 →
    convert (.fp g) (.fp .e2m1) m sat ftz c = (if g ∈ [Fp.e3m2, .e2m3, .e2m1] then 0 else g.cnan, 1) ∧
    ∀ sg w, convert (.int sg w) (.fp .e2m1) m sat ftz c = (0, 1)) ∧
  (∀ (f : Fp) (sg : Bool) (w : Nat) (m : Rm) (sat ftz : Bool) (c : Nat), w ∈ [4, 8, 16, 32, 64] →
    let lo : Int := if sg then -2 ^ (w - 1) else 0
    let hi : Int := if sg then 2 ^ (w - 1) - 1 else 2 ^ w - 1
    let bits := fun (v : Int) => (v % 2 ^ (if w = 64 then 64 else 32)).toNat
    let r := convert (.int sg w) (.fp f) m sat ftz c
    ¬(f = .e2m1 ∧ c % 16 = 8) →
    ((f.decode c).isNan → r = (0, 1)) ∧
    (f.decode c = .inf true → r = (bits lo, 1)) ∧ (f.decode c = .inf false → r = (bits hi, 1)) ∧
    ∀ x, finQ (operand f ftz c) = some x →
      r = if roundQ m x < lo then (bits lo, 1) else if hi < roundQ m x then (bits hi, 1)
        else (bits (roundQ m x), if (roundQ m x : ℚ) = x then 0 else 16)) ∧
  ∀ (sg : Bool) (w : Nat) (m : Rm) (sat ftz : Bool) (c : Nat), w ∈ [4, 8, 16, 32, 64] →
    let v : Int := if sg then (BitVec.ofNat w c).toInt else (BitVec.ofNat w c).toNat
    (∀ g : Fp, (v = 0 → convert (.fp g) (.int sg w) m sat ftz c = (0, 0)) ∧
      (v ≠ 0 → IsRound g m sat ftz v (convert (.fp g) (.int sg w) m sat ftz c))) ∧
    ∀ (sg' : Bool) (w' : Nat), w' ∈ [4, 8, 16, 32, 64] →
      let lo : Int := if sg' then -2 ^ (w' - 1) else 0
      let hi : Int := if sg' then 2 ^ (w' - 1) - 1 else 2 ^ w' - 1
      let y := if sat then max lo (min v hi) else if sg' then (BitVec.ofInt w' v).toInt else (BitVec.ofInt w' v).toNat
      convert (.int sg' w') (.int sg w) m sat ftz c = ((y % 2 ^ (if w' = 64 then 64 else 32)).toNat, 0)

namespace Sys2Proof.Claims

/-- PACK's two words of thread `t` (R127), low word first, and the flags of its block. -/
def packed (h : Hdr) (imm : Nat) (ps : Mask) (x : Nat → Word) (t : Nat) : Nat × Nat :=
  let len := blockLen imm
  let first := t / len * len
  let e := encodeBlock (blockFmt imm) (imm / 64 % 8) (modeOf h)
    ((List.range len).map fun i => if has ps (first + i) then Fp.fp32.decode (x (first + i)).toNat else .fin false 0 0)
  let j := ((List.range t).filter fun u => first ≤ u && has ps u).length
  let out := if j < e.outs.length then e.outs.getD j 0 + 2 ^ 16 * j + 2 ^ 19 else 0
  (e.codes.getD (t % len) 0 + 2 ^ 16 * e.hdr + 2 ^ 32 * out, e.flags)

/-- UNPK's element and outlier words of thread `t`: 0 in a thread that has exited (R128). -/
def elWord (r : Warp) (a : BitVec 7) (t : Nat) : Nat := if has r.exited t then 0 else (reg r a t).toNat
def outWord (r : Warp) (h : Hdr) (t : Nat) : Nat := if has r.exited t then 0 else (third r h t).toNat
/-- The header and codes of the block that holds thread `t`, its outliers, and whether it is ill-formed (R55, R128). -/
def blockHdrOf (imm : Nat) (r : Warp) (a : BitVec 7) (t : Nat) : Nat :=
  elWord r a (t / blockLen imm * blockLen imm) / 2 ^ 16
def blockCodes (imm : Nat) (r : Warp) (a : BitVec 7) (t : Nat) : List Nat :=
  (List.range (blockLen imm)).map fun i => elWord r a (t / blockLen imm * blockLen imm + i) % 256
def blockBad (imm : Nat) (r : Warp) (a : BitVec 7) (t : Nat) : Bool :=
  illFormed (blockFmt imm) (blockHdrOf imm r a t) (blockCodes imm r a t)
/-- UNPK's result and flags in thread `t` (R128). -/
def unpacked (h : Hdr) (imm : Nat) (r : Warp) (a : BitVec 7) (t : Nat) : Nat × Nat :=
  let first := t / blockLen imm * blockLen imm
  let outs := (List.range 7).map fun j => outWord r h (first + j) % 2 ^ 16
  match (blockVals (blockFmt imm) (blockHdrOf imm r a t) outs (blockCodes imm r a t)).getD (t % blockLen imm) (.fin false 0 0) with
  | .nan sig => (0x7FC00000, if sig then 1 else 0)
  | v => roundTo .fp32 (modeOf h) h.ext.sat h.ext.ftz v.ex

end Sys2Proof.Claims

namespace Sys2Proof.Claims

/-- Element `i` of a word, `w` bits wide (R38), and what it is worth: an integer of either signedness, or a value, where E2M1's 0x8 is
a signalling NaN (R124). -/
def element (w x i : Nat) : Nat := x / 2 ^ (w * i) % 2 ^ w
def signedEl (w x : Nat) : Int := (BitVec.ofNat w x).toInt
def unsignedEl (_ x : Nat) : Int := x
def dotEl (f : Fp) (w x i : Nat) : Fv := if f = .e2m1 ∧ element w x i = 8 then .nan true else f.decode (element w x i)
/-- `r` is the code in `f`, and the flags, of the one rounding of the exact sum of the addend `C` and the products of the pairs `prs`
(R57): a NaN, an infinity times zero and opposite infinities give the canonical NaN, with IV unless only quiet NaNs do, or a NaN
addend that `sigC` does not call signalling; an infinity stands; a sum of 0 is signed as its terms are, or as the mode says. -/
def IsDot (f : Fp) (m : Rm) (prs : List (Fv × Fv)) (C : Fv) (sigC : Prop) (r : Nat × Nat) : Prop :=
  let isNan := C.isNan = true ∨ ∃ p ∈ prs, p.1.isNan = true ∨ p.2.isNan = true
  let sig := sigC ∨ ∃ p ∈ prs, p.1.snan = true ∨ p.2.snan = true
  let bad := ∃ p ∈ prs, p.1.isInf = true ∧ p.2.isZero = true ∨ p.1.isZero = true ∧ p.2.isInf = true
  let infs := fun (neg : Bool) => C = .inf neg ∨ ∃ p ∈ prs, p.1.isNan = false ∧ p.2.isNan = false ∧ p.1.isZero = false ∧
    p.2.isZero = false ∧ (p.1.isInf = true ∨ p.2.isInf = true) ∧ (p.1.neg != p.2.neg) = neg
  let against := infs true ∧ infs false
  let top := 2 ^ (f.e + f.f)
  let q := fun (v : Fv) => (finQ v).getD 0
  (isNan ∨ bad ∨ against → r.1 = f.cnan ∧ (sig ∨ bad ∨ against → r.2 = 1) ∧ (¬(sig ∨ bad ∨ against) → r.2 = 0)) ∧
  (¬isNan → ¬bad → ¬against → ∀ neg, infs neg → r = (f.inf neg, 0)) ∧
  ∀ z, (∀ p ∈ prs, (finQ p.1).isSome = true ∧ (finQ p.2).isSome = true) → finQ C = some z →
    let v := z + (prs.map fun p => q p.1 * q p.2).sum
    (v ≠ 0 → IsRound f m false false v r) ∧
    (v = 0 → let zeros := fun (neg : Bool) => C.isZero = true ∧ C.neg = neg ∧ ∀ p ∈ prs, q p.1 * q p.2 = 0 ∧ (p.1.neg != p.2.neg) = neg
      r.2 = 0 ∧ (zeros true → r.1 = top) ∧ (zeros false → r.1 = 0) ∧
      (¬zeros true → ¬zeros false → r.1 = if m = .rd then top else 0))
/-- An integer dot product: the exact sum of TS and `n` products, wrapped (R58, R124). -/
def dotInts (h : Hdr) (a b : BitVec 7) (n w : Nat) (va vb : Nat → Nat → Int) (r : Warp) (t : Nat) : Nat :=
  (BitVec.ofInt 32 ((third r h t).toInt +
    ((List.range n).map fun i => va w (element w (fp1 r a t) i) * vb w (element w (fp1 r b t) i)).sum)).toNat
/-- A floating-point dot product, which `DotProducts` describes. -/
def dotFloats (h : Hdr) (a b : BitVec 7) (f : Fp) (n w : Nat) (r : Warp) (t : Nat) : Nat × Nat :=
  dotFp f n w (modeOf h) (fp1 r a t) (fp1 r b t) (third r h t).toNat

end Sys2Proof.Claims

/-- R57, R58, R123, R124: the dot products: each of the eleven forms completes in every state in which it issues. The integer forms add
the exact products to TS and wrap; the float forms round the exact sum of TS and the products once, in every mode; NaNs, an
infinity times zero and opposite infinities give the canonical NaN, with IV but for quiet NaNs alone. That opposite
infinities raise IV beside a quiet NaN is the model's reading (log entry 43). -/
def Obligations.DotProducts : Prop :=
  (∀ (h : Hdr) (d a b : BitVec 7),
    Computes (.dp4S8 h d a b) h d 1 (marksAB h a b) (dotInts h a b 4 8 signedEl signedEl) ∧
    Computes (.dp4N8 h d a b) h d 1 (marksAB h a b) (dotInts h a b 4 8 unsignedEl unsignedEl) ∧
    Computes (.dp4S8n8 h d a b) h d 1 (marksAB h a b) (dotInts h a b 4 8 signedEl unsignedEl) ∧
    Computes (.dp8S4 h d a b) h d 1 (marksAB h a b) (dotInts h a b 8 4 signedEl signedEl) ∧
    Computes (.dp8N4 h d a b) h d 1 (marksAB h a b) (dotInts h a b 8 4 unsignedEl unsignedEl) ∧
    Computes (.dp8S4n4 h d a b) h d 1 (marksAB h a b) (dotInts h a b 8 4 signedEl unsignedEl) ∧
    Floats (.dp4E4m3 h d a b) h d 1 (marksAB h a b) (dotFloats h a b .e4m3 4 8) ∧
    Floats (.dp4E5m2 h d a b) h d 1 (marksAB h a b) (dotFloats h a b .e5m2 4 8) ∧
    Floats (.dp4E3m2 h d a b) h d 1 (marksAB h a b) (dotFloats h a b .e3m2 4 8) ∧
    Floats (.dp4E2m3 h d a b) h d 1 (marksAB h a b) (dotFloats h a b .e2m3 4 8) ∧
    Floats (.dp8E2m1 h d a b) h d 1 (marksAB h a b) (dotFloats h a b .e2m1 8 4)) ∧
  ∀ (f : Fp) (n w : Nat) (m : Rm) (a b c : Nat), f.width ≤ w →
    IsDot .fp32 m ((List.range n).map fun i => (dotEl f w a i, dotEl f w b i)) (Fp.fp32.decode c) ((Fp.fp32.decode c).snan = true)
      (dotFp f n w m a b c)

namespace Sys2Proof.Claims

/-! Forms whose effect is on the warp itself. -/

/-- `i` traps in every state in which it issues and that meets `pre`: `cls`, the threads, VA and INFO of the trap. In a
chain the trap waits for the chain's end. -/
def Traps (i : Instr) (h : Hdr) (pre : State → Issue → Warp → Prop) (cls : Nat)
    (tr : State → Issue → Warp → Mask × Nat × Nat) : Prop :=
  ∀ (s : State) (c : Issue) (w : Warp), Issuing s c w h.c → pre s c w →
    let x := c.trapOf cls (tr s c w).1 (tr s c w).2.1 (tr s c w).2.2 (w.seq + 1)
    if h.c then exec i s = .next { s with issue := some { c with trap := some x } }
    else ∃ t t' w', exec i s = .next t' ∧ Raised s t t' c w w' x

/-- A control transfer that no thread's target stops: when all the threads have one next PC they go there; when they have
two, and the other slot takes a group, the lowest thread's group stays and the other one goes to that slot (R147, R173).
`target` is a participant's next PC, `eff` what a taken transfer does besides. -/
def Transfers (i : Instr) (h : Hdr) (codes : List Nat) (bad : Warp → Nat → Bool) (target : Issue → Warp → Nat → DWord)
    (eff : Issue → Warp → Warp) : Prop :=
  ∀ (s : State) (c : Issue) (w : Warp), Issuing s c w false → (∀ t, has (parts c w h) t = true → bad (c.src w) t = false) →
    let m := ((c.src w).slot c.slot).mask
    let next := fun t => if has (parts c w h) t then target c (c.src w) t else c.npc
    let w1 := if parts c w h = 0 then w else eff c (w.markAlone c codes (parts c w h))
    (∀ p, m ≠ 0 → (∀ t, has m t = true → next t = p) → ∃ t w', exec i s = .next t ∧ Took s t c w1 w' (p, m) none) ∧
    ∀ p q a, p ≠ q → lowest a = lowest m → a &&& m = a → a ≠ 0 → a ≠ m → w.slotFree (1 - c.slot) = true →
      (∀ t, has m t = true → next t = if has a t then p else q) →
      ∃ t w', exec i s = .next t ∧ Took s t c w1 w' (p, a) (some (q, m &&& ~~~a))

/-- The displacement of BRA and CALL: 24 bits signed, or 46 with the 22 of a kind-01 word above them (R64). -/
def dispOf (h : Hdr) (disp : BitVec 24) : Int := match h.e1 with | some v => (v ++ disp).toInt | none => disp.toInt

/-- A register offset from cb, a thread's (R105). -/
def cbPlus (a : BitVec 7) (_ : Issue) (r : Warp) (t : Nat) : DWord := r.cb + (reg r a t).setWidth 64
def notPacket (a : BitVec 7) (r : Warp) (t : Nat) : Bool := decide ((reg r a t).toNat % 12 ≠ 0)
/-- The link (R106). -/
def withLink (c : Issue) (w : Warp) : Warp := { w with s := w.s.set 62 ((c.pkt + 12 - w.cb).setWidth 32) }

end Sys2Proof.Claims

/-- R17, R105, R106, R147, R173, R418: where control transfers go, and the link; a register target that is no packet start traps
for the threads whose target it is, and no thread moves. -/
def Obligations.ControlTransfers : Prop := ∀ (h : Hdr) (d a b : BitVec 7) (disp : BitVec 24),
  let none_ : Warp → Nat → Bool := fun _ _ => false
  let rel := fun (c : Issue) (_ : Warp) (_ : Nat) => c.pkt + BitVec.ofInt 64 (12 * dispOf h disp)
  let stay := fun (_ : Issue) (w : Warp) => w
  Transfers (.bra h disp) h (markCodes h 0 0) none_ rel stay ∧
  Transfers (.call h disp) h (markCodes h 0 0) none_ rel withLink ∧
  Transfers (.brx h d a b) h (marksA h a) (notPacket a) (cbPlus a) stay ∧
  Transfers (.callx h d a b) h (marksA h a) (notPacket a) (cbPlus a) withLink ∧
  Transfers (.ret h d a b) h (marksA h a) (notPacket a) (cbPlus a) stay ∧
  Transfers (.trmp h disp) h (markCodes h 0 0) none_
    (fun _ r _ => r.cb + BitVec.ofNat 64 (12 * (h.ih * 2 ^ 24 + disp.toNat))) stay ∧
  (let some_ := fun (_ : State) (c : Issue) (w : Warp) => ∃ t, has (parts c w h) t = true ∧ notPacket a (c.src w) t = true
   let tr := fun (_ : State) (c : Issue) (w : Warp) =>
     (wordOf fun t => has (parts c w h) t && notPacket a (c.src w) t, 0, c.word.toNat)
   Traps (.brx h d a b) h some_ 1 tr ∧ Traps (.callx h d a b) h some_ 1 tr ∧ Traps (.ret h d a b) h some_ 1 tr)

/-- R107, R147, R150: EXIT ends the participants, strikes them from every rejoin register and ends their tasks, but for those
a QYYIELD is giving back; the others go on. The slot empties when none is left. -/
def Obligations.ExitEndsThreads : Prop := ∀ (h : Hdr) (d a b : BitVec 7) (s : State) (c : Issue) (w : Warp),
  Issuing s c w false →
  let m := ((c.src w).slot c.slot).mask
  let ps := parts c w h
  let rest := m &&& ~~~ps
  let w1 : Warp := if ps = 0 then w else
    { w.markAlone c (markCodes h 0 0) ps with
      exited := w.exited ||| ps
      rj := w.rj.map fun (r : Rejoin) => { en := r.en &&& ~~~ps, ar := r.ar &&& ~~~ps, rp := r.rp }
      tasks := w.tasks.filter fun k => !has ps k.thread || w.yielding k }
  (∀ r ∈ w1.rj, ¬(r.ar ≠ 0 ∧ r.en &&& ~~~r.ar = 0)) →
  (rest ≠ 0 → ∃ t w', exec (.exit h d a b) s = .next t ∧ Took s t c w1 w' (c.npc, rest) none) ∧
  (rest = 0 → w.handler = none → w.depth = 0 →
    ((w.slot (1 - c.slot)).mask ≠ 0 ∨ (w.slotFree (1 - c.slot) = true ∧ w1.exited = BitVec.allOnes 32 ∧ ∀ r ∈ w1.rj, r.ar = 0)) →
    ∃ t w', exec (.exit h d a b) s = .next t ∧ Took s t c w1 w' (c.npc, 0) none)

/-- R150, R151, R174: enrolling, parking and striking; a thread that is not enrolled passes RJPARK. Once every enrolled thread has
arrived, those that arrived leave as one group: into the other slot when it takes one, and into their own when the last ones to
park leave it empty; the register is cleared. -/
def Obligations.RejoinRegisters : Prop :=
  (∀ (h : Hdr) (d a b : BitVec 7),
    let at_ := fun (w : Warp) => w.rj.getD a.toNat ⟨0, 0, 0⟩
    let set := fun (w : Warp) (r : Rejoin) => { w with rj := w.rj.set a.toNat r }
    Does (.rjenr h d a b) h always (fun _ c w => set w { at_ w with en := (at_ w).en ||| parts c w h }) ∧
    Does (.rjstrk h d a b) h
      (fun _ c w => (at_ w).ar &&& ~~~parts c w h = 0 ∨ (at_ w).en &&& ~~~parts c w h &&& ~~~((at_ w).ar &&& ~~~parts c w h) ≠ 0)
      (fun _ c w => set w { at_ w with en := (at_ w).en &&& ~~~parts c w h, ar := (at_ w).ar &&& ~~~parts c w h }) ∧
    ∀ (s : State) (c : Issue) (w : Warp), Issuing s c w false →
      let p := parts c w h &&& (at_ w).en
      let m := (w.slot c.slot).mask
      let r : Rejoin := { en := (at_ w).en, ar := (at_ w).ar ||| p, rp := if (at_ w).ar = 0 ∧ p ≠ 0 then c.pkt + 12 else (at_ w).rp }
      (r.ar = 0 ∨ r.en &&& ~~~r.ar ≠ 0) →
      (m &&& ~~~p ≠ 0 → ∃ t w', exec (.rjpark h d a b) s = .next t ∧ Took s t c (set w r) w' (c.npc, m &&& ~~~p) none) ∧
      (m &&& ~~~p = 0 → w.handler = none → w.depth = 0 → (w.slot (1 - c.slot)).mask ≠ 0 →
        ∃ t w', exec (.rjpark h d a b) s = .next t ∧ Took s t c (set w r) w' (c.npc, 0) none)) ∧
  ∀ (h : Hdr) (d a b : BitVec 7) (s : State) (c : Issue) (w : Warp),
    Issuing s c w false → a.toNat < 8 →
    let at_ := w.rj.getD a.toNat ⟨0, 0, 0⟩
    let clear : Warp := { w with rj := w.rj.set a.toNat ⟨0, 0, 0⟩ }
    (let en := at_.en &&& ~~~parts c w h
     let ar := at_.ar &&& ~~~parts c w h
     h.c = false → ar ≠ 0 → en &&& ~~~ar = 0 → w.slotFree (1 - c.slot) = true →
     ∃ t w', exec (.rjstrk h d a b) s = .next t ∧
       Took s t c clear w' (c.npc, (w.slot c.slot).mask) (some (at_.rp, ar))) ∧
    (let p := parts c w h &&& at_.en
     let ar := at_.ar ||| p
     (w.slot c.slot).mask &&& ~~~p = 0 → p ≠ 0 → at_.en &&& ~~~ar = 0 → w.handler = none → w.depth = 0 →
     (w.slot c.slot).wait = none → ((w.slot (1 - c.slot)).mask ≠ 0 ∨ c.slot = 0) →
     ∃ t w', exec (.rjpark h d a b) s = .next t ∧
       Took s t c clear w' (if at_.ar = 0 then c.pkt + 12 else at_.rp, ar) none)

namespace Sys2Proof.Claims

/-- The registers and predicates of `w` changed by a word that writes v-registers and predicates, marks included. -/
def ShufflesBy (i : Instr) (h : Hdr) (d a b : BitVec 7) (from_ : Nat → Nat → Option Nat) : Prop :=
  ∀ (s : State) (c : Issue) (w : Warp), Issuing s c w h.c → d.toNat < 64 →
    let r := c.src w
    let ps := parts c w h
    let marks := marksOf c (marksAB h a b) ps
    let src := fun t => (from_ t (reg r b t).toNat).filter fun u => has ps u
    ∃ t w', exec i s = .next t ∧ Ran s t c { w with v := w'.v, p := w'.p } w' h.c (fun _ => 0) ∧
      (∀ t, has ps t = true → d.toNat ≠ 63 → w'.reg d.toNat t = reg r a ((src t).getD t)) ∧
      (∀ code t, has w.live t = true → code ∉ marks → (code ≠ d.toNat ∨ has ps t = false) → w'.reg code t = w.reg code t) ∧
      (∀ code t, code ∈ marks → code < 63 → (code ≠ d.toNat ∨ ps = 0) → w'.reg code t = 0) ∧
      (∀ t, h.ih.testBit 7 = true → h.ih % 128 ≠ 0 → has ps t = true → w'.pred (h.ih % 128) t = (src t).isSome) ∧
      ∀ n t, (h.ih.testBit 7 = false ∨ n ≠ h.ih % 128 ∨ has ps t = false) → w'.pred n t = w.pred n t

/-- A vote: `f` gives the one truth from what the participants hold. -/
def Votes (i : Instr) (h : Hdr) (d : BitVec 7) (f : Warp → List Nat → Bool) : Prop :=
  ∀ (s : State) (c : Issue) (w : Warp), Issuing s c w h.c →
    ∃ t w', exec i s = .next t ∧
      GivesPred s t c w w' h d.toNat [] (parts c w h) (fun _ => f (c.src w) (threads (parts c w h))) (fun _ => 0)

/-- A form that gives one value, found from what the participants hold (R171). -/
def Collects (i : Instr) (h : Hdr) (d a : BitVec 7) (f : Warp → List Nat → Nat) : Prop :=
  Writes i h d 1 (marksA h a) (fun c r _ => f r (threads (r.participants c.slot h))) fun _ _ _ => 0

end Sys2Proof.Claims

/-- R176: the shuffles. -/
def Obligations.ShuffleForms : Prop := ∀ (h : Hdr) (d a b : BitVec 7),
  ShufflesBy (.shflPick h d a b) h d a b (fun _ v => some (v % 32)) ∧
  ShufflesBy (.shflLag h d a b) h d a b (fun t v => if v ≤ t then some (t - v) else none) ∧
  ShufflesBy (.shflLead h d a b) h d a b (fun t v => if t + v ≤ 31 then some (t + v) else none) ∧
  ShufflesBy (.shflMirr h d a b) h d a b (fun t v => some (Nat.xor t (v % 32)))

/-- R178, R179, R180: the votes, the ballot, the reductions and the matches. -/
def Obligations.VotesReductionsMatches : Prop := ∀ (h : Hdr) (d a b : BitVec 7),
  Votes (.voteEvery h d a b) h d (fun r ps => ps.all fun t => r.pred a.toNat t) ∧
  Votes (.voteSome h d a b) h d (fun r ps => ps.any fun t => r.pred a.toNat t) ∧
  Votes (.voteSame h d a b) h d (fun r ps => ps.all fun t => ps.all fun u => r.pred a.toNat t == r.pred a.toNat u) ∧
  Collects (.ballot h d a b) h d a (fun r ps => (wordOf fun t => ps.contains t && r.pred a.toNat t).toNat) ∧
  Collects (.reduxSum h d a b) h d a (fun r ps => (ps.foldl (fun x t => x + reg r a t) 0).toNat) ∧
  Collects (.reduxLeastS32 h d a b) h d a (fun r ps =>
    (ps.foldl (fun (x : Word) t => if (reg r a t).slt x then reg r a t else x) 0x7FFFFFFF).toNat) ∧
  Collects (.reduxLeastN32 h d a b) h d a (fun r ps =>
    (ps.foldl (fun (x : Word) t => if reg r a t < x then reg r a t else x) 0xFFFFFFFF).toNat) ∧
  Collects (.reduxMostS32 h d a b) h d a (fun r ps =>
    (ps.foldl (fun (x : Word) t => if x.slt (reg r a t) then reg r a t else x) 0x80000000).toNat) ∧
  Collects (.reduxMostN32 h d a b) h d a (fun r ps =>
    (ps.foldl (fun (x : Word) t => if x < reg r a t then reg r a t else x) 0).toNat) ∧
  Collects (.reduxBand h d a b) h d a (fun r ps => (ps.foldl (fun x t => x &&& reg r a t) 0xFFFFFFFF).toNat) ∧
  Collects (.reduxBor h d a b) h d a (fun r ps => (ps.foldl (fun x t => x ||| reg r a t) 0).toNat) ∧
  Collects (.reduxBxor h d a b) h d a (fun r ps => (ps.foldl (fun x t => x ^^^ reg r a t) 0).toNat) ∧
  Collects (.matchUnif h d a b) h d a (fun r ps =>
    if ps.all fun t => ps.all fun u => reg r a t == reg r a u then (wordOf fun t => ps.contains t).toNat else 0) ∧
  Writes (.matchPeers h d a b) h d 1 (marksA h a) (fun c r t =>
    (wordOf fun u => has (r.participants c.slot h) u && reg r a u == reg r a t).toNat) fun _ _ _ => 0

namespace Sys2Proof.Claims

/-- The value of a scale code (R52), and order by magnitude. -/
def scaleQ (c : Nat) : ℚ := 2 ^ ((c / 2 : Nat) - 127 : Int) * (1 + (c % 2 : Nat) / 2)
def absLt (a b : Fv) : Prop :=
  (a.isInf = false ∧ b.isInf = true) ∨ ∃ x y, finQ a = some x ∧ finQ b = some y ∧ |x| < |y|
/-- x ÷ scalevalue(c) does not lie beyond the largest value of the format (R56). -/
def fits (f : Fp) (c : Nat) (v : Fv) : Prop := ∃ x, finQ v = some x ∧ |x| ≤ topQ f * scaleQ c
/-- The block `e` that R56 builds of the values `xs`: `out` says which elements are outliers, `fl` the flags of each rounding. -/
structure Encodes (f : Fp) (lim : Nat) (m : Rm) (xs : List Fv) (e : BlockEnc) (out : Nat → Bool) (fl : Nat → Nat) : Prop where
  few : ((List.range xs.length).filter out).length = min lim (xs.filter fun x => !x.isZero).length
  large : ∀ (i j : Nat) (x y : Fv), xs[i]? = some x → xs[j]? = some y → out i = true → out j = false → absLt y x ∨ (¬absLt x y ∧ i < j)
  outs : e.outs = ((List.range xs.length).filter out).map fun i => (roundTo .bf16 m false false (xs.getD i (.fin false 0 0)).ex).1
  flags : e.flags = (List.range xs.length).foldl (fun a i => a ||| fl i) 0
  outliers : ∀ (i : Nat) (x : Fv), xs[i]? = some x → out i = true →
    e.codes[i]? = some 8 ∧ fl i = (roundTo .bf16 m false false x.ex).2
  zero : (∀ (i : Nat) (x : Fv), xs[i]? = some x → out i = false → x.isZero = true) →
    e.hdr = 512 * min lim (xs.filter fun x => !x.isZero).length ∧
    ∀ (i : Nat) (x : Fv), xs[i]? = some x → out i = false → e.codes[i]? = some 0 ∧ fl i = 0
  scaled : (∃ (i : Nat) (x : Fv), xs[i]? = some x ∧ out i = false ∧ x.isZero = false) →
    ∃ c, 1 ≤ c ∧ c ≤ 0x1FE ∧ e.hdr = 512 * min lim (xs.filter fun x => !x.isZero).length + c ∧
      (∀ k, 1 ≤ k → k < c → ∃ (i : Nat) (x : Fv), xs[i]? = some x ∧ out i = false ∧ ¬fits f k x) ∧
      (c < 0x1FE → ∀ (i : Nat) (x : Fv), xs[i]? = some x → out i = false → fits f c x) ∧
      ∀ (i : Nat) (x : Fv), xs[i]? = some x → out i = false → ∃ code, e.codes[i]? = some code ∧
        (∀ n, x = .inf n → code = f.signed n f.largest ∧ fl i = 0) ∧
        (x.isZero = true → Codes f x.neg 0 code ∧ fl i = 0) ∧
        ∀ v, finQ x = some v → v ≠ 0 → IsRound f m true false (v / scaleQ c) (code, fl i)

end Sys2Proof.Claims

/-- R53 to R56, R112, R127, R128: PACK, with its results in v-registers, completes, and UNPK where no block is ill-formed; an ill-formed block,
whichever threads take part, raises a format data fault that names the first thread of each ill-formed block. How values are
encoded into a block, when a block is ill-formed, and what its elements are worth. With `.FTZ`, UNPK of a subnormal outlier
follows log entry 42. -/
def Obligations.BlockPackingAndUnpacking : Prop :=
  (∀ (h : Hdr) (d a : BitVec 7) (imm : BitVec 10), d.toNat < 64 →
  Writes (.pack h d a imm) h d 2 (marksA h a)
    (fun c r t => (packed h imm.toNat (r.participants c.slot h) (reg r a) t).1)
    (fun c r t => (packed h imm.toNat (r.participants c.slot h) (reg r a) t).2) ∧
  (∀ (s : State) (c : Issue) (w : Warp), Issuing s c w h.c → (∀ t, t < 32 → blockBad imm.toNat (c.src w) a t = false) →
     let r := c.src w
     let ps := parts c w h
     let marks := marksOf c (marksA h a) ps
     let val := fun t => (unpacked h imm.toNat r a t).1
     let flag := fun t => (unpacked h imm.toNat r a t).2
     (noFlagTrap r ps flag → ∃ t w', exec (.unpk h d a imm) s = .next t ∧
       Gives s t c w w' h d.toNat 1 marks ps val flag) ∧
     (¬noFlagTrap r ps flag → ∃ t t' w', exec (.unpk h d a imm) s = .next t' ∧
       RanTrap s t t' c { w with v := w'.v, s := w'.s } w' h.c (fun t => if has ps t then flag t else 0)
         (flagTrap c r ps flag (r.seq + 1)) ∧
       Filled w w' d.toNat 1 marks ps val)) ∧
  let bad := fun (c : Issue) (w : Warp) (t : Nat) => t % blockLen imm.toNat == 0 && blockBad imm.toNat (c.src w) a t
  Traps (.unpk h d a imm) h (fun _ c w => parts c w h ≠ 0 ∧ ∃ t, t < 32 ∧ bad c w t = true) 8
    fun _ c w => (wordOf (bad c w), 0, 0)) ∧
  (∀ (f : Fp) (lim : Nat) (m : Rm) (xs : List Fv), f ∈ [Fp.e4m3, .e5m2, .e3m2, .e2m3, .e2m1] → lim ≤ 7 → (f ≠ .e2m1 → lim = 0) →
    ((∃ x ∈ xs, x.isNan = true) → encodeBlock f lim m xs = ⟨0x1FF, List.replicate xs.length 0, [], 1⟩) ∧
    ((∀ x ∈ xs, x.isNan = false) → ∃ out fl, Encodes f lim m xs (encodeBlock f lim m xs) out fl)) ∧
  ∀ (f : Fp) (hdr : Nat) (outs codes : List Nat), f ∈ [Fp.e4m3, .e5m2, .e3m2, .e2m3, .e2m1] → hdr < 2 ^ 16 →
    let escapes := (codes.filter fun c => c % 16 = 8).length
    let ocnt := hdr / 512 % 8
    (illFormed f hdr codes = true ↔ hdr / 4096 ≠ 0 ∨ (f ≠ .e2m1 ∧ ocnt ≠ 0) ∨ (f = .e2m1 ∧ escapes ≠ ocnt)) ∧
    (blockVals f hdr outs codes).length = codes.length ∧
    ∀ (i c : Nat) (v : Fv), codes[i]? = some c → (blockVals f hdr outs codes)[i]? = some v →
      let escape := f = .e2m1 ∧ c % 16 = 8
      let scale := hdr % 512
      (scale = 0x1FF → v = .nan false) ∧
      (scale ≠ 0x1FF → escape → v = Fp.bf16.decode (outs.getD ((codes.take i).filter fun c => c % 16 = 8).length 0)) ∧
      (scale = 0 → ¬escape → v.isZero = true ∧ v.neg = false) ∧
      (scale ≠ 0 → scale ≠ 0x1FF → ¬escape →
        (∀ x, finQ (f.decode c) = some x → finQ v = some (x * scaleQ scale) ∧ v.neg = (f.decode c).neg) ∧
        ((f.decode c).isNan = true ∨ (f.decode c).isInf = true → v = f.decode c))

namespace Sys2Proof.Claims

/-- The system registers of a warp but tn and fsr, by code, and whether each is a pair (R192). -/
def sysTable (s : State) (r : Warp) : List (Nat × Bool × Nat) :=
  let g := s.disp.gangs.find? fun g => g.uid == r.gang
  let rec_ := fun (f : Gang → Nat) => (g.map f).getD 0
  let core := r.core % 4
  let cluster := r.core / 4 % 32
  [ (0x01, false, r.wn), (0x02, false, r.wgid), (0x03, false, rec_ (·.lrec.nwarp)), (0x04, false, rec_ (·.lrec.nwg)),
    (0x05, false, rec_ (·.gangid)), (0x06, false, rec_ (·.lnch)), (0x07, false, r.lane), (0x08, false, r.wslot),
    (0x09, false, core), (0x0A, false, cluster), (0x0B, false, r.core / 128), (0x0C, false, s.regs.devid),
    (0x0D, false, r.ctx), (0x0E, false, r.wslot + 8 * r.lane + 128 * core + 512 * cluster),
    (0x0F, false, if r.stop then 1 else 0), (0x10, true, r.cb.toNat), (0x11, true, r.pvbase.toNat), (0x12, false, r.psize),
    (0x13, true, s.now % 2 ^ 64), (0x14, true, s.wtime r), (0x15, true, r.wtcmp.toNat),
    (0x16, true, ((r.pvbase.toNat + 32 * r.psize) % 2 ^ 64 + 8768) % 2 ^ 64), (0x17, false, r.tvec.toNat),
    (0x18, false, r.tmask.toNat) ]

/-- The warp `w` after WRSR has written register A of the participants `ps`, read from `r` (R15, R192, R193). -/
def wrote (r : Warp) (ps : Mask) (a : BitVec 7) (code : Nat) (w : Warp) : Option Warp :=
  let lo := (lowest ps).getD 0
  match code with
  | 0x15 => some { w with wtcmp := pair r a lo }
  | 0x17 => if (reg r a lo).toNat % 12 = 0 then some { w with tvec := reg r a lo } else none
  | 0x18 => some { w with tmask := reg r a lo &&& 0x11F#32 }
  | 0x19 => some { w with fsr := (List.range 32).map fun t => if has ps t then reg r a t &&& 0x1F#32 else nth w.fsr t }
  | _ => none

/-- Threads of a warp that have arrived at barrier `id` of a scope (R184). -/
def arrivals (w : Warp) (scope id : Nat) : Mask := (if scope = 0 then w.barW else if scope = 1 then w.barG else w.barX).getD id 0
def withArrivals (w : Warp) (scope id : Nat) (m : Mask) : Warp :=
  if scope = 0 then { w with barW := w.barW.set id m }
  else if scope = 1 then { w with barG := w.barG.set id m } else { w with barX := w.barX.set id m }
/-- No later word of its chain has written a destination of access or entry `id` (R19). -/
def onTime (w : Warp) (id : Nat) : Prop := (∀ a ∈ w.accs, a.id = id → a.late = []) ∧ ∀ e ∈ w.sq, e.id = id → e.late = []
/-- Slot `k` waits. -/
def waiting (w : Warp) (k : Nat) (x : Wait) : Warp := { w with slots := w.slots.set k { w.slot k with wait := some x } }

/-- The new entry of the store queue, held until its region's accesses have passed translation (R281, R387). -/
def newEntry (s : State) (c : Issue) (w : Warp) (kind : SKind) (space : Space) (co : Nat) (ps : Mask) (spans : List Span)
    (walked : Bool) : SqEntry :=
  { id := s.nextId, slot := c.slot, seq := w.seq, held := true, kind, space, co, priv := w.handler.isSome, parts := ps, spans,
    walked, fault := none, fpc := c.pkt + BitVec.ofNat 64 (4 * c.wslot), npc := c.npc, wslot := c.wslot, next := 0, busy := false }
def withEntry (w : Warp) (e : SqEntry) : Warp := { w with sq := w.sq ++ [e] }
end Sys2Proof.Claims

/-- R15, R174, R175, R189 to R193, R398: RDSR of every register of the table completes, tn and fsr by thread, every other one value;
WRSR writes wtcmp, tvec, tmask, whose reserved bits stay 0, and fsr by participant; nothing is written with no participant, and a
tvec that is no packet start traps. RJRD, RDTR and WMASK complete and give an enrolment, a trap register or a mask to every
participant. -/
def Obligations.SystemRegisters : Prop :=
  (∀ (h : Hdr) (d a : BitVec 7) (imm : BitVec 10) (s : State) (c : Issue) (w : Warp),
    Issuing s c w h.c →
    let marks := marksOf c (markCodes h 0 0) (parts c w h)
    let gives := fun (n : Nat) (val : Nat → Nat) => ∃ t w', exec (.rdsr h d a imm) s = .next t ∧
      Gives s t c w w' h d.toNat n marks (parts c w h) val fun _ => 0
    (imm.toNat % 512 = 0 → gives 1 fun t => t) ∧
    (imm.toNat % 512 = 0x19 → gives 1 fun t => (nth (c.src w).fsr t).toNat) ∧
    ∀ x ∈ sysTable s (c.src w), imm.toNat % 512 = x.1 → d.toNat % 2 = 0 ∨ x.2.1 = false →
      gives (if x.2.1 then 2 else 1) fun _ => x.2.2) ∧
  (∀ (h : Hdr) (d a : BitVec 7) (imm : BitVec 10),
    let code := imm.toNat % 512
    Does (.wrsr h d a imm) h (fun _ c w => parts c w h = 0) (fun _ _ w => w) ∧
    Does (.wrsr h d a imm) h (fun _ c w => parts c w h ≠ 0 ∧ (wrote (c.src w) (parts c w h) a code w).isSome = true)
      (fun _ c w => (wrote (c.src w) (parts c w h) a code (w.markAlone c (marksA h a) (parts c w h))).getD w) ∧
    Traps (.wrsr h d a imm) h
      (fun _ c w => code = 0x17 ∧ parts c w h ≠ 0 ∧ (reg (c.src w) a ((lowest (parts c w h)).getD 0)).toNat % 12 ≠ 0)
      1 (fun _ c w => (parts c w h, 0, c.word.toNat))) ∧
  ∀ (h : Hdr) (d a b : BitVec 7),
    let codes := markCodes h 0 0
    Computes (.rjrd h d a b) h d 1 codes (fun r _ => (r.rj.getD a.toNat ⟨0, 0, 0⟩).en.toNat) ∧
    Computes (.rdtr h d a b) h d 2 codes (fun r _ => (r.trapRegs.getD a.toNat 0).toNat) ∧
    Writes (.wmask h d a b) h d 1 codes (fun c r _ =>
      match a.toNat with
      | 0 => (r.slot c.slot).mask.toNat
      | 1 => (r.slot (1 - c.slot)).mask.toNat
      | 2 => (~~~r.exited).toNat
      | _ => (wordOf fun t => r.rj.any fun x => x.ar.getLsbD t).toNat) fun _ _ _ => 0

/-- R399: VRDX reads the register or predicate that each participant's A names, VWRX writes B there: with one index for the
warp, in s-space the highest participant's value stands. An index with a bit of [31:8] set traps. -/
def Obligations.IndexedRegisters : Prop := ∀ (h : Hdr) (d a b : BitVec 7),
  let bad := fun (r : Warp) (t : Nat) => decide (256 ≤ (reg r a t).toNat)
  let allGood := fun (_ : State) (c : Issue) (w : Warp) => ∀ t, has (parts c w h) t = true → bad (c.src w) t = false
  let at_ := fun (r : Warp) (t : Nat) => (reg r a t).toNat % 128
  let isP := fun (r : Warp) (t : Nat) => (reg r a t).toNat.testBit 7
  (∀ (s : State) (c : Issue) (w : Warp), Issuing s c w h.c → d.toNat < 64 → allGood s c w →
    ∃ t w', exec (.vrdx h d a b) s = .next t ∧
      Gives s t c w w' h d.toNat 1 (marksOf c (marksA h a) (parts c w h)) (parts c w h)
        (fun t => if isP (c.src w) t then ((c.src w).pred (at_ (c.src w) t) t).toNat
          else ((c.src w).reg (at_ (c.src w) t) t).toNat) fun _ => 0) ∧
  (∀ (s : State) (c : Issue) (w : Warp), Issuing s c w h.c → allGood s c w →
    let r := c.src w
    let ps := parts c w h
    let marks := marksOf c (marksAB h a b) ps
    let hits := fun (code t : Nat) => has ps t && !isP r t && at_ r t == code
    ∃ t w', exec (.vwrx h d a b) s = .next t ∧ Ran s t c { w with v := w'.v, s := w'.s, p := w'.p } w' h.c (fun _ => 0) ∧
      (∀ code t, code < 63 → hits code t = true → w'.reg code t = reg r b t) ∧
      (∀ code, 64 ≤ code → code < 127 → ∀ u, hits code u = true → (∀ t, u < t → hits code t = false) →
        ∀ t, w'.reg code t = reg r b u) ∧
      (∀ code t, has w.live t = true → code ∉ marks → (code < 64 → hits code t = false) →
        (64 ≤ code → ∀ u, hits code u = false) → w'.reg code t = w.reg code t) ∧
      (∀ code t, has w.live t = true → code ∈ marks → code < 63 → hits code t = false → w'.reg code t = 0) ∧
      (∀ n t, has ps t = true → isP r t = true → at_ r t = n → n ≠ 0 → w'.pred n t = (reg r b t).getLsbD 0) ∧
      ∀ n t, ¬(has ps t = true ∧ isP r t = true ∧ at_ r t = n) → w'.pred n t = w.pred n t) ∧
  (let some_ := fun (_ : State) (c : Issue) (w : Warp) => ∃ t, has (parts c w h) t = true ∧ bad (c.src w) t = true
   let who := fun (_ : State) (c : Issue) (w : Warp) => (wordOf fun t => has (parts c w h) t && bad (c.src w) t, 0, c.word.toNat)
   Traps (.vrdx h d a b) h some_ 1 who ∧ Traps (.vwrx h d a b) h some_ 1 who)

/-- R184 to R186: BAR and BARA make every active thread arrive, and BAR's slot waits; BARW's slot waits while an arrival of an active
thread is pending. A thread that has arrived already traps, and then none arrives. A phase completes when every thread of the unit
that has not exited has arrived, and one has: its arrivals are cleared and the slots that wait for it go on; before that nothing
happens. -/
def Obligations.Barriers : Prop :=
  (∀ (h : Hdr) (d a b : BitVec 7),
    let m := fun (c : Issue) (w : Warp) => (w.slot c.slot).mask
    let pend := fun (w : Warp) => arrivals w b.toNat a.toNat
    let once := fun (_ : State) (c : Issue) (w : Warp) => m c w &&& pend w = 0
    let come := fun (c : Issue) (w : Warp) => withArrivals w b.toNat a.toNat (pend w ||| m c w)
    let wait := fun (c : Issue) (w : Warp) => waiting w c.slot (.barrier b.toNat a.toNat)
    Does (.bara h d a b) h once (fun _ c w => come c w) ∧
    Does (.bar h d a b) h once (fun _ c w => wait c (come c w)) ∧
    Does (.barw h d a b) h once (fun _ _ w => w) ∧
    (∀ (s : State) (c : Issue) (w : Warp), Issuing s c w h.c → m c w &&& arrivals w b.toNat a.toNat ≠ 0 →
      (∃ t w', exec (.barw h d a b) s = .next t ∧ Ran s t c (wait c w) w' h.c fun _ => 0)) ∧
    (let twice := fun (_ : State) (c : Issue) (w : Warp) => m c w &&& pend w ≠ 0
     let who := fun (_ : State) (c : Issue) (w : Warp) => (m c w &&& pend w, 0, c.word.toNat)
     Traps (.bar h d a b) h twice 1 who ∧ Traps (.bara h d a b) h twice 1 who)) ∧
  ∀ (u scope id : Nat) (s : State) (w : Warp), s.warp? u = some w → scope < 3 →
    let unit := fun (x : Warp) =>
      if scope = 0 then x.uid = u else x.gang = w.gang ∧ (scope = 1 → x.wgid = w.wgid)
    let done := (∀ x ∈ s.warps, unit x → ~~~x.exited &&& ~~~arrivals x scope id = 0) ∧
      ∃ x ∈ s.warps, unit x ∧ arrivals x scope id ≠ 0
    (done → ∃ t, exec (.barrierPhaseComplete u scope id) s = .next t ∧ t = { s with warps := t.warps } ∧
      t.warps.length = s.warps.length ∧ ∀ (n : Nat) (x : Warp), s.warps[n]? = some x →
        (¬unit x → t.warps[n]? = some x) ∧
        (unit x → t.warps[n]? = some { withArrivals x scope id 0 with
          slots := x.slots.map fun (sl : Slot) =>
            { sl with wait := if sl.wait = some (Wait.barrier scope id) then none else sl.wait } })) ∧
    (¬done → exec (.barrierPhaseComplete u scope id) s = .next s)

/-- R187, R165, R166: YIELD completes; unless no thread participates, it makes its warp the youngest of its lane and restarts its
count; so does a switch marker once no result is outstanding, and so do 256 grants. -/
def Obligations.AgeOrder : Prop :=
  let aged := fun (s t : State) (w w' : Warp) =>
    let l := (look w.lane (s.core w.core).lanes).getD []
    t = { s with cores := t.cores, warps := t.warps } ∧ t.warp? w.uid = some w' ∧
      w' = { w with grants := 0, park := w'.park } ∧ (∀ v, v ≠ w.uid → t.warp? v = s.warp? v) ∧
      (∀ k, k ≠ w.core → t.core k = s.core k) ∧
      t.core w.core = { s.core w.core with lanes := (t.core w.core).lanes } ∧
      look w.lane (t.core w.core).lanes = some ((l.filter (· ≠ w.uid)) ++ [w.uid]) ∧
      ∀ k, k ≠ w.lane → look k (t.core w.core).lanes = look k (s.core w.core).lanes
  (∀ (h : Hdr) (d a b : BitVec 7), Does (.yield h d a b) h (fun _ c w => parts c w h = 0) (fun _ _ w => w)) ∧
  (∀ (h : Hdr) (d a b : BitVec 7) (s : State) (c : Issue) (w : Warp), Issuing s c w h.c → parts c w h ≠ 0 →
    ∃ t1 t w1 w', exec (.yield h d a b) s = .next t ∧ Ran s t1 c w w1 h.c (fun _ => 0) ∧
      w'.park = w1.park ∧ aged t1 t w1 w') ∧
  (∀ (s : State) (u : Nat) (w : Warp), s.warp? u = some w → w.park.marker = true →
    (∀ a ∈ w.accs, a.dst = [] ∧ a.pdst = []) → (∀ e ∈ w.sq, e.kind = .store ∨ (∃ q l, e.kind = .push q l) ∨
      ∃ o n sc, e.kind = .atom o n sc none) →
    ∃ t w', exec (.switchMarkerRelease u) s = .next t ∧
      w'.park = { w.park with marker := false } ∧ aged s t w w') ∧
  ∀ (s : State) (u : Nat) (w : Warp), s.warp? u = some w → 256 ≤ w.grants →
    ∃ t w', exec (.grantCountRotation u) s = .next t ∧ w'.park = w.park ∧ aged s t w w'

/-- R181 to R183: XSW notes its partner, the warp that stands under the identity B names, and waits; its own A values are read
at once. With no such warp, or one of another context, its result is that of an unpaired exchange. An identity that is none, or
of the warp's own cluster, traps. When two warps' exchanges name each other, each side's participants whose number is a participant
of the other side take the other's value and read 1 in pq; its other participants keep D and read 0. -/
def Obligations.Exchanges : Prop :=
  (∀ (h : Hdr) (d a b : BitVec 7),
    let id := fun (c : Issue) (w : Warp) => (reg (c.src w) b 0).toNat
    let good := fun (c : Issue) (w : Warp) => parts c w h ≠ 0 ∧ id c w < 2 ^ 14 ∧ id c w / 512 ≠ w.core / 4 % 32
    let stands := fun (s : State) (c : Issue) (w : Warp) => s.warps.find? fun (x : Warp) => decide (x.die = w.die ∧ x.xid = id c w)
    let pq := if h.ih.testBit 7 then some (h.ih % 128) else none
    let pd := if h.ih.testBit 7 ∧ h.ih % 128 ≠ 0 then [h.ih % 128] else []
    let none_ := fun (c : Issue) (w : Warp) => RegWrite.v d.toNat [] :: (match pq with | some n => [RegWrite.p n (parts c w h) 0] | none => [])
    let acc := fun (s : State) (c : Issue) (w : Warp) (k : AKind) =>
      newAccess s c w k .glob 0 (dsts d.toNat 1) pd (parts c w h) [] true
    let mk := fun (c : Issue) (w : Warp) => w.markAlone c (marksAB h a b) (parts c w h)
    Does (.xsw h d a b) h (fun _ c w => parts c w h = 0) (fun _ _ w => w) ∧
    Starts 1 (.xsw h d a b) h (fun s c w => good c w ∧ ∃ q, stands s c w = some q ∧ q.ctx = w.ctx)
      (fun s c w => { withAccess (mk c w) (acc s c w (.engine false)) with
        xsw := some { id := s.nextId, slot := c.slot, partner := ((stands s c w).map (·.uid)).getD 0, d := d.toNat, pq,
                      parts := parts c w h, vals := (List.range 32).map fun t => reg (c.src w) a t } }) ∧
    Starts 1 (.xsw h d a b) h (fun s c w => good c w ∧ ∀ q, stands s c w = some q → q.ctx ≠ w.ctx)
      (fun s c w => withAccess (mk c w) (acc s c w (.result (none_ c w)))) ∧
    Traps (.xsw h d a b) h (fun _ c w => parts c w h ≠ 0 ∧ ¬(id c w < 2 ^ 14 ∧ id c w / 512 ≠ w.core / 4 % 32)) 1
      (fun _ c w => (parts c w h, 0, c.word.toNat))) ∧
  ∀ (u u2 : Nat) (s : State) (w w2 : Warp) (x y : XswRec),
    s.warp? u = some w → s.warp? u2 = some w2 → w.sized = true → w2.sized = true → w.xsw = some x → w2.xsw = some y → u ≠ u2 →
    x.partner = u2 → y.partner = u → onTime w x.id → onTime w2 y.id → x.d < 63 → y.d < 63 → (∀ n, x.pq = some n ∨ y.pq = some n → n < 128) →
    let side := fun (a b : Warp) (x y : XswRec) => b.xsw = none ∧ b.accs = a.accs.filter (fun z => z.id ≠ x.id) ∧
      b = { a with v := b.v, p := b.p, accs := b.accs, xsw := none } ∧
      (∀ t, has a.live t = true → b.reg x.d t = if has x.parts t && has y.parts t then nth y.vals t else a.reg x.d t) ∧
      (∀ code t, has a.live t = true → code ≠ x.d → b.reg code t = a.reg code t) ∧
      (∀ n t, n ≠ 0 → has a.live t = true → b.pred n t = if x.pq = some n ∧ has x.parts t = true then has y.parts t else a.pred n t)
    ∃ t w' w2', exec (.xswPairComplete u u2) s = .next t ∧ t = { s with warps := t.warps } ∧ t.warp? u = some w' ∧
      t.warp? u2 = some w2' ∧ (∀ v, v ≠ u → v ≠ u2 → t.warp? v = s.warp? v) ∧ side w w' x y ∧ side w2 w2' y x

namespace Sys2Proof.Claims

/-! Memory forms. -/

/-- The byte offset of an address (R96). -/
def offOf (h : Hdr) : Int := match h.e1 with | some v => v.toInt | none => 0

/-- The address of thread `t`'s access, or its offset in the scratchpad allocation or the private memory (R96). -/
def adrOf (h : Hdr) (a b : BitVec 7) (c : Issue) (r : Warp) (t : Nat) : Int :=
  match (memCode b).sp with
  | 0 => ((pair r a t).toNat + offOf h) % 2 ^ 64
  | 3 => (c.pkt.toNat + (reg r a t).toInt + offOf h) % 2 ^ 64
  | _ => (reg r a t).toNat + offOf h

/-- The tiles that a scratchpad access reaches: none when the core it names has no workgroup of the gang (R96, R216). -/
def tilesAt (s : State) (w : Warp) (b : BitVec 7) : Option (List Nat) := (s.wgOn w (memCode b)).map fun j => s.tilesOf w j

/-- Does an access fail a check of R102: its bounds or space, its tile's owner? -/
def outside (s : State) (w : Warp) (b : BitVec 7) (size : Nat) (write : Bool) (x : Int) : Bool :=
  match (memCode b).sp with
  | 1 => match tilesAt s w b with | none => true | some l => decide (x < 0 ∨ 4096 * (l.length : Int) < x + size)
  | 2 => decide (x < 0 ∨ (w.psize : Int) < x + size)
  | 3 => write
  | _ => false
def engineOwned (s : State) (w : Warp) (b : BitVec 7) (x : Int) : Bool :=
  (memCode b).sp == 1 && (s.core (memCore w (memCode b))).engine.contains (((tilesAt s w b).getD []).getD (x.toNat / 4096) 0)

/-- What the memory forms do at issue (R95 to R102), `ts` being the threads they access for: nothing with no participant;
the first check that fails traps, with the threads that fail it and the lowest one's address; else `eff` enters the access,
from the registers as read, with the bytes' places by thread. -/
def Accesses (i : Instr) (h : Hdr) (a b : BitVec 7) (size : Nat) (write atomic scalar : Bool) (data : Warp → Nat → List Byte)
    (eff : State → Issue → Warp → Mask → List Span → Warp) : Prop :=
  let ts := fun (c : Issue) (w : Warp) => if scalar then (threads (parts c w h)).take 1 else threads (parts c w h)
  let adr := fun (c : Issue) (w : Warp) => adrOf h a b c (c.src w)
  let mis := fun (c : Issue) (w : Warp) (t : Nat) => decide (adr c w t % size ≠ 0)
  let out := fun (s : State) (c : Issue) (w : Warp) (t : Nat) => outside s w b size write (adr c w t)
  let eng := fun (s : State) (c : Issue) (w : Warp) (t : Nat) => engineOwned s w b (adr c w t)
  let tr := fun (p : State → Issue → Warp → Nat → Bool) (s : State) (c : Issue) (w : Warp) =>
    let bad := (ts c w).filter (p s c w)
    (wordOf fun t => bad.contains t, (adr c w (bad.headD 0) % 2 ^ 64).toNat, if atomic then 2 else if write then 1 else 0)
  Does i h (fun _ c w => parts c w h = 0) (fun _ _ w => w) ∧
  Starts 1 i h
    (fun s c w => parts c w h ≠ 0 ∧ ∀ t ∈ ts c w, mis c w t = false ∧ out s c w t = false ∧ eng s c w t = false)
    (fun s c w => eff s c (w.markAlone c (marksA h a) (parts c w h)) (wordOf fun t => (ts c w).contains t)
      ((ts c w).flatMap fun t =>
        placeSpans w (memCode b) ((tilesAt s w b).getD []) atomic t size (adr c w t) (data (c.src w) t))) ∧
  Traps i h (fun _ c w => ∃ t ∈ ts c w, mis c w t = true) 3 (tr fun _ => mis) ∧
  Traps i h (fun s c w => (∀ t ∈ ts c w, mis c w t = false) ∧ ∃ t ∈ ts c w, out s c w t = true)
    (if (memCode b).sp = 1 then 4 else 12) (tr out) ∧
  Traps i h (fun s c w => (∀ t ∈ ts c w, mis c w t = false ∧ out s c w t = false) ∧ ∃ t ∈ ts c w, eng s c w t = true) 5 (tr eng)

/-- A load of `size` bytes into `n` registers: an access that awaits its bytes, but for those that the thread's own store
queue gives (R97, R269). -/
def Loads (i : Instr) (h : Hdr) (d a b : BitVec 7) (size n : Nat) (sx : Bool) : Prop :=
  let m := memCode b
  let scalar := decide (64 ≤ d.toNat)
  Accesses i h a b size false false scalar (fun _ _ => []) fun s c w ps spans =>
    withAccess w (newAccess s c w (.load size sx scalar d.toNat) (spaceOf w m) m.co (dsts d.toNat n) [] ps
      (spans.map fun x => x.forwarded w.sq (spaceOf w m)) (m.sp == 1))

/-- A store, atomic or reduction: an entry of the store queue that holds its data. -/
def Queues (i : Instr) (h : Hdr) (a b : BitVec 7) (size : Nat) (atomic : Bool) (kind : SKind)
    (data : Warp → Nat → List Byte) : Prop :=
  let m := memCode b
  Accesses i h a b size true atomic false data fun s c w ps spans =>
    withEntry w (newEntry s c w kind (spaceOf w m) m.co ps spans (m.sp == 1))

/-- The first `m` bytes of the registers from code `x`. -/
def bytesOf (r : Warp) (x m t : Nat) : List Byte :=
  (List.range m).map fun j => (r.reg (x + j / 4) t).extractLsb' (8 * (j % 4)) 8
/-- The first `m` bytes of the third source. -/
def thirdBytes (r : Warp) (h : Hdr) (m t : Nat) : List Byte :=
  match h.e0 with | some e => bytesOf r e.ts.toNat m t | none => List.replicate m 0

/-- A record in a warp of a fence, a CINV or CWB, or a wait of LNCH. -/
def newFence (id : Nat) (c : Issue) (w : Warp) (what order scope : Nat) : FenceRec :=
  { id, slot := c.slot, seq := w.seq, what, order, scope, fpc := c.pkt + BitVec.ofNat 64 (4 * c.wslot), acqDone := false,
    relDone := false, started := false, todo := [], wbs := [], lines := [], acc := none, l2 := false, all := false, zlr := 0 }
def withFence (w : Warp) (f : FenceRec) : Warp := { w with fences := w.fences ++ [f] }
/-- The cluster after UNPIN of `n` bytes from `lo` in context `ctx`: one pin fewer on each TLB entry that meets them (R266). -/
def unpinned (k : Cluster) (ctx lo n : Nat) : Cluster :=
  { k with tlb := k.tlb.map fun (e : TlbEnt) =>
      if e.ctx = ctx ∧ e.pins ≠ 0 ∧ n ≠ 0 ∧ e.base < lo + n ∧ lo < e.base + e.size then { e with pins := e.pins - 1 } else e }
/-- A span of `n` bytes at an address of thread `t`. -/
def spanAt (t va n : Nat) (data : List Byte) : Span :=
  { t, va, at_ := 0, len := n, phys := none, data, got := List.replicate n none, dep := none }

end Sys2Proof.Claims

/-- R95 to R99, R102: each load and store completes at issue, by leaving an access or an entry of the queue. A load into s-space is
made for the lowest participant. -/
def Obligations.LoadsAndStoresAtIssue : Prop := ∀ (h : Hdr) (d a b : BitVec 7),
  let st := fun (i : Instr) (size : Nat) => Queues i h a b size false .store fun r t => bytesOf r d.toNat size t
  (Loads (.ldN8 h d a b) h d a b 1 1 false ∧ Loads (.ldS8 h d a b) h d a b 1 1 true ∧
    Loads (.ldN16 h d a b) h d a b 2 1 false ∧ Loads (.ldS16 h d a b) h d a b 2 1 true ∧
    Loads (.ldB32 h d a b) h d a b 4 1 false ∧ Loads (.ldB64 h d a b) h d a b 8 2 false ∧
    Loads (.ldB128 h d a b) h d a b 16 4 false) ∧
  st (.stB8 h d a b) 1 ∧ st (.stB16 h d a b) 2 ∧ st (.stB32 h d a b) 4 ∧ st (.stB64 h d a b) 8 ∧ st (.stB128 h d a b) 16

/-- R100 to R102: the atomics and reductions at issue; a compare-and-swap takes a block of twice its width. -/
def Obligations.AtomicsAtIssue : Prop := ∀ (h : Hdr) (d a b : BitVec 7),
  let scope := h.ext.scope.toNat
  let at_ := fun (i : Instr) (op : AtomOp) (size n : Nat) =>
    Queues i h a b size true (.atom op size scope (some d.toNat)) fun r t => thirdBytes r h n t
  let red := fun (i : Instr) (op : AtomOp) (size : Nat) =>
    Queues i h a b size true (.atom op size scope none) fun r t => bytesOf r d.toNat size t
  at_ (.atomAddB32 h d a b) .add 4 4 ∧ at_ (.atomMinS32 h d a b) .minS 4 4 ∧ at_ (.atomMinN32 h d a b) .minN 4 4 ∧
  at_ (.atomMaxS32 h d a b) .maxS 4 4 ∧ at_ (.atomMaxN32 h d a b) .maxN 4 4 ∧ at_ (.atomAndB32 h d a b) .and 4 4 ∧
  at_ (.atomOrB32 h d a b) .or 4 4 ∧ at_ (.atomXorB32 h d a b) .xor 4 4 ∧ at_ (.atomExchB32 h d a b) .exch 4 4 ∧
  at_ (.atomCasB32 h d a b) .cas 4 8 ∧ at_ (.atomAddF32 h d a b) .fadd 4 4 ∧ at_ (.atomExchB64 h d a b) .exch 8 8 ∧
  at_ (.atomCasB64 h d a b) .cas 8 16 ∧ at_ (.atomAddB64 h d a b) .add 8 8 ∧ at_ (.atomCasB128 h d a b) .cas 16 32 ∧
  at_ (.atomAddF64 h d a b) .fadd 8 8 ∧
  red (.redAddB32 h d a b) .add 4 ∧ red (.redMinS32 h d a b) .minS 4 ∧ red (.redMinN32 h d a b) .minN 4 ∧
  red (.redMaxS32 h d a b) .maxS 4 ∧ red (.redMaxN32 h d a b) .maxN 4 ∧ red (.redAddF32 h d a b) .fadd 4 ∧
  red (.redAddB64 h d a b) .add 8 ∧ red (.redAddF64 h d a b) .fadd 8 ∧ red (.redAndB32 h d a b) .and 4 ∧
  red (.redOrB32 h d a b) .or 4 ∧ red (.redXorB32 h d a b) .xor 4

/-- R28, R96: where each byte of a thread's access lies: byte j of a private access at offset o at pvbase + (32 × ((o + j)
div 4) + t) × 4 + (o + j) mod 4, a scratchpad byte in the tile of its 4,096 bytes, and any other byte at its own address. -/
def Obligations.PlacesOfBytes : Prop := ∀ (w : Warp) (m : MemCode) (tiles : List Nat) (t size o j : Nat) (data : List Byte),
  size ∈ [1, 2, 4, 8, 16] → o % size = 0 → j < size → data.length = size →
  let spans := placeSpans w m tiles false t size o data
  let place := if m.sp = 2 then (w.pvbase.toNat + (32 * ((o + j) / 4) + t) * 4 + (o + j) % 4) % 2 ^ 64
    else if m.sp = 1 then 4096 * tiles.getD ((o + j) / 4096) 0 + (o + j) % 4096 else o + j
  (∃ x ∈ spans, x.t = t ∧ x.at_ ≤ j ∧ j < x.at_ + x.len ∧ x.data[j - x.at_]? = data[j]? ∧
    (m.sp = 2 → (x.va + (j - x.at_)) % 2 ^ 64 = place) ∧ (m.sp ≠ 2 → x.va + (j - x.at_) = place)) ∧
  ∀ x ∈ spans, ∀ y ∈ spans, x.at_ ≤ j → j < x.at_ + x.len → y.at_ ≤ j → j < y.at_ + y.len → x = y

/-- R100: the new value that an atomic leaves: at the widths of integers the wrapped sum, the least or greatest by signedness,
the bits, the operand, or on equality with the lower half of the operand its upper half. -/
def Obligations.AtomicValues : Prop := ∀ (n : Nat) (old x : Nat), n ∈ [4, 8, 16] → old < 2 ^ (8 * n) →
  let o := BitVec.ofNat (8 * n) old
  let v := BitVec.ofNat (8 * n) x
  (x < 2 ^ (8 * n) →
    AtomOp.add.apply n old x = (o + v).toNat ∧ AtomOp.minS.apply n old x = (if v.slt o then v else o).toNat ∧
    AtomOp.maxS.apply n old x = (if o.slt v then v else o).toNat ∧ AtomOp.minN.apply n old x = (if v < o then v else o).toNat ∧
    AtomOp.maxN.apply n old x = (if o < v then v else o).toNat ∧ AtomOp.and.apply n old x = (o &&& v).toNat ∧
    AtomOp.or.apply n old x = (o ||| v).toNat ∧ AtomOp.xor.apply n old x = (o ^^^ v).toNat ∧
    AtomOp.exch.apply n old x = v.toNat) ∧
  ∀ y, y < 2 ^ (8 * n) → x < 2 ^ (8 * n) → AtomOp.cas.apply n old (x + 2 ^ (8 * n) * y) = if o = v then y else old

/-- R248, R249, R253: the direct accesses at issue: global, aligned to their size; one of ST.DIR is an entry of the queue. -/
def Obligations.DirectAccessesAtIssue : Prop := ∀ (h : Hdr) (d a b : BitVec 7),
  let n := 2 ^ (b.toNat % 4)
  let st := h.ih % 128
  let adr := fun (c : Issue) (w : Warp) (t : Nat) => (pair (c.src w) a t).toNat
  let good := fun (_ : State) (c : Issue) (w : Warp) => parts c w h ≠ 0 ∧ ∀ t, has (parts c w h) t = true → adr c w t % (4 * n) = 0
  let bad := fun (_ : State) (c : Issue) (w : Warp) => ∃ t, has (parts c w h) t = true ∧ adr c w t % (4 * n) ≠ 0
  let tr := fun (kind : Nat) (_ : State) (c : Issue) (w : Warp) =>
    let l := (threads (parts c w h)).filter fun t => decide (adr c w t % (4 * n) ≠ 0)
    (wordOf fun t => l.contains t, adr c w (l.headD 0), kind)
  let spans := fun (c : Issue) (w : Warp) (data : Nat → List Byte) =>
    (threads (parts c w h)).map fun t => spanAt t (adr c w t) (4 * n) (data t)
  let mk := fun (c : Issue) (w : Warp) => w.markAlone c (marksA h a) (parts c w h)
  let idle := fun (i : Instr) => Does i h (fun _ c w => parts c w h = 0) (fun _ _ w => w)
  idle (.ldDir h d a b) ∧ idle (.stDir h d a b) ∧
  Starts 1 (.ldDir h d a b) h good (fun s c w =>
    withAccess (mk c w) (newAccess s c w (.direct (4 * n) d.toNat st) .glob 0 (dsts d.toNat n ++ dsts st 1) [] (parts c w h)
      (spans c w fun _ => []) false)) ∧
  Starts 1 (.stDir h d a b) h good (fun s c w =>
    withEntry (mk c w) (newEntry s c w (.direct (4 * n) st) .glob 0 (parts c w h)
      (spans c w fun t => bytesOf (c.src w) d.toNat (4 * n) t) false)) ∧
  Traps (.ldDir h d a b) h bad 3 (tr 0) ∧ Traps (.stDir h d a b) h bad 3 (tr 1)

/-- R255, R261, R263, R303: fences, cache maintenance and prefetches at issue: each leaves a record that the steps of its
completion serve; those of lines name the participants' lines once each. A scope that is not written is `.PKG`. -/
def Obligations.FencesAndMaintenanceAtIssue : Prop := ∀ (h : Hdr) (d a b : BitVec 7),
  let scope := if h.ext.scope = 0 then 4 else h.ext.scope.toNat
  let some_ := fun (_ : State) (c : Issue) (w : Warp) => parts c w h ≠ 0
  let adr := fun (c : Issue) (w : Warp) (t : Nat) => (((pair (c.src w) a t).toNat + offOf h) % 2 ^ 64).toNat
  let spans := fun (c : Issue) (w : Warp) => (threads (parts c w h)).map fun t => spanAt t (adr c w t) 1 []
  let line := fun (i : Instr) (what : Nat) =>
    let l2 := b.toNat.testBit 0
    let all := b.toNat.testBit 1
    Does i h (fun _ c w => parts c w h = 0) (fun _ _ w => w) ∧
    Starts 2 i h some_ fun s c w =>
      let w1 := withFence (w.markAlone c (markCodes h (if all then 127 else a.toNat) 0) (parts c w h))
        { newFence s.nextId c w what 0 4 with
          l2, all
          lines := if all then [] else ((threads (parts c w h)).map fun t => adr c w t / 128 * 128).eraseDups
          acc := if l2 then some (s.nextId + 1) else none }
      if l2 then withAccess w1 { newAccess s c w (.line (what == 1) true all) .glob 0 [] [] (parts c w h)
        (if all then [] else spans c w) false with id := s.nextId + 1 } else w1
  Starts 1 (.fence h d a b) h always (fun s c w => withFence w
    { newFence s.nextId c w 0 a.toNat scope with acqDone := a.toNat == 1, relDone := a.toNat == 0 }) ∧
  Starts 1 (.fenceXp h d a b) h always (fun s c w => withFence w (newFence s.nextId c w 3 0 4)) ∧
  line (.cinv h d a b) 1 ∧ line (.cwb h d a b) 2 ∧
  Does (.pref h d a b) h (fun _ c w => parts c w h = 0) (fun _ _ w => w) ∧
  Starts 1 (.pref h d a b) h some_ (fun s c w => withAccess (w.markAlone c (marksA h a) (parts c w h))
    (newAccess s c w (.pref (b.toNat.testBit 0)) .glob 0 [] [] (parts c w h) (spans c w) false))

/-- R264 to R266: PROBE and UNPIN take a range from the warp's registers. An empty range is pinned at once, a range beyond the
top of the address space is a permission fault; UNPIN takes one pin from each entry of the cluster's TLB that holds a page of
the range in the warp's context. -/
def Obligations.ProbeAndUnpinAtIssue : Prop := ∀ (h : Hdr) (d a b : BitVec 7),
  let lo := fun (c : Issue) (w : Warp) => (pair (c.src w) a 0).toNat
  let n := fun (c : Issue) (w : Warp) => (reg (c.src w) b 0).toNat
  let m := fun (c : Issue) (w : Warp) => (w.slot c.slot).mask
  let mk := fun (c : Issue) (w : Warp) => w.markAlone c (marksAB h a b) (m c w)
  let acc := fun (s : State) (c : Issue) (w : Warp) (k : AKind) (walked : Bool) =>
    withAccess (mk c w) (newAccess s c w k .glob 0 (dsts d.toNat 1) [] (m c w) [] walked)
  let beyond := fun (_ : State) (c : Issue) (w : Warp) => n c w ≠ 0 ∧ 2 ^ 64 < lo c w + n c w
  Starts 1 (.probe h d a b) h (fun _ c w => n c w = 0)
    (fun s c w => acc s c w (.result [.s (d.toNat - 64) 0x80000]) true) ∧
  Starts 1 (.probe h d a b) h (fun _ c w => n c w ≠ 0 ∧ lo c w + n c w ≤ 2 ^ 64)
    (fun s c w => acc s c w (.probe (d.toNat - 64) (lo c w) (n c w)) false) ∧
  Ends (.unpin h d a b) h (fun s c w => ¬beyond s c w)
    (fun s c w => s.setCluster (w.core / 4) (unpinned (s.cluster (w.core / 4)) w.ctx (lo c w) (n c w)))
    (fun _ c w => mk c w) ∧
  (let tr := fun (_ : State) (c : Issue) (w : Warp) => (m c w, lo c w, 7)
   Traps (.probe h d a b) h beyond 12 tr ∧ Traps (.unpin h d a b) h beyond 12 tr)

/-- R188, R289 to R291: LNCH and CPY at issue. LNCH waits for the warp's earlier stores with a record of its own; a copy enters
its core's queue under the lowest free number. A launch without a copy queue, and a misaligned record, trap; so do a copy's sides
that are misaligned, lie outside the allocation or in an engine's tile, in this order, the record naming the destination's address
where it fails and the source's else.
The order of LNCH's checks follows log entry 16. -/
def Obligations.LaunchesAndCopiesAtIssue : Prop := ∀ (h : Hdr) (d a b : BitVec 7),
  let scalar := decide (64 ≤ d.toNat)
  let ts := fun (c : Issue) (w : Warp) => if scalar then (threads (parts c w h)).take 1 else threads (parts c w h)
  let adr := fun (c : Issue) (w : Warp) (t : Nat) => (pair (c.src w) a t).toNat
  let mk := fun (c : Issue) (w : Warp) => w.markAlone c (marksAB h a b) (parts c w h)
  let copyq := fun (s : State) (w : Warp) => ((s.disp.gangs.find? fun g => g.uid == w.gang).map fun g => g.lrec.copyq).getD 0
  let size := 4 * 2 ^ (h.ih % 4)
  let dir := h.ih / 4 % 4
  let side := fun (glob : Bool) (x : BitVec 7) (c : Issue) (w : Warp) (t : Nat) =>
    if glob then (pair (c.src w) x t).toNat else (reg (c.src w) x t).toNat
  let tiles := fun (s : State) (w : Warp) => s.tilesOf w w.wgid
  let place := fun (s : State) (glob : Bool) (x : BitVec 7) (c : Issue) (w : Warp) (t : Nat) =>
    if glob then side glob x c w t else tilePlace (tiles s w) (side glob x c w t)
  let mis := fun (_ : State) (glob : Bool) (x : BitVec 7) (c : Issue) (w : Warp) (t : Nat) =>
    decide (side glob x c w t % size ≠ 0)
  let out := fun (s : State) (glob : Bool) (x : BitVec 7) (c : Issue) (w : Warp) (t : Nat) =>
    !glob && decide (4096 * (tiles s w).length < side glob x c w t + size)
  let own := fun (s : State) (glob : Bool) (x : BitVec 7) (c : Issue) (w : Warp) (t : Nat) =>
    !glob && (s.core w.core).engine.contains (tilePlace (tiles s w) (side glob x c w t) / 4096)
  let fails := fun (p : State → Bool → BitVec 7 → Issue → Warp → Nat → Bool) (s : State) (c : Issue) (w : Warp) =>
    (threads (parts c w h)).filter fun t => p s (dir != 0) a c w t || p s (dir != 1) b c w t
  let tr := fun (p : State → Bool → BitVec 7 → Issue → Warp → Nat → Bool) (s : State) (c : Issue) (w : Warp) =>
    let l := fails p s c w
    let t := l.headD 0
    (wordOf fun t => l.contains t,
      if p s (dir != 0) a c w t then side (dir != 0) a c w t else side (dir != 1) b c w t,
      if p s (dir != 0) a c w t then 5 else 4)
  Does (.lnch h d a b) h (fun _ c w => parts c w h = 0) (fun _ _ w => w) ∧
  Starts 2 (.lnch h d a b) h (fun _ c w => parts c w h ≠ 0 ∧ ∀ t ∈ ts c w, adr c w t % 64 = 0)
    (fun s c w => withAccess (withFence (mk c w) { newFence s.nextId c w 4 1 4 with acc := some (s.nextId + 1) })
      { newAccess s c w (.lnch d.toNat scalar ((ts c w).map fun t => (t, adr c w t, (reg (c.src w) b t).toNat))) .glob 1
          (dsts d.toNat 1) [] (wordOf fun t => (ts c w).contains t) ((ts c w).map fun t => spanAt t (adr c w t) 64 []) false with
        id := s.nextId + 1 }) ∧
  Traps (.lnch h d a b) h (fun _ c w => ∃ t ∈ ts c w, adr c w t % 64 ≠ 0) 3 (fun _ c w =>
    let l := (ts c w).filter fun t => decide (adr c w t % 64 ≠ 0)
    (wordOf fun t => l.contains t, adr c w (l.headD 0), 0)) ∧
  Does (.cpy h d a b) h (fun s c w => copyq s w ≠ 0 ∧ parts c w h = 0) (fun _ _ w => w) ∧
  Ends (.cpy h d a b) h
    (fun s c w => copyq s w ≠ 0 ∧ parts c w h ≠ 0 ∧ fails mis s c w = [] ∧ fails out s c w = [] ∧ fails own s c w = [])
    (fun s c w =>
      let k := s.core w.core
      let e : CopyEnt :=
        { num := ((List.range 64).find? fun n => k.copy.all fun e => decide (e.num ≠ n)).getD 0, w := w.uid, ctx := w.ctx,
          gang := w.gang, wg := w.wgid, seq := w.seq, acc := s.nextId, fpc := c.pkt + BitVec.ofNat 64 (4 * c.wslot),
          priv := w.handler.isSome, sz := h.ih % 4, dir, d := d.toNat,
          reads := lineOps (dir != 1) size (place s (dir != 1) b c w) (threads (parts c w h)),
          writes := lineOps (dir != 0) size (place s (dir != 0) a c w) (threads (parts c w h)),
          data := [], ce := 0, fault := none, parked := none }
      { s with nextId := s.nextId + 1 }.setCore w.core { k with copy := k.copy ++ [e] })
    (fun s c w => withAccess (mk c w) (newAccess s c w (.engine false) .glob 0 [d.toNat] [] (parts c w h) [] true)) ∧
  Traps (.cpy h d a b) h (fun s _ w => copyq s w = 0) 1 (fun _ c w => ((w.slot c.slot).mask, 0, c.word.toNat)) ∧
  Traps (.cpy h d a b) h (fun s c w => copyq s w ≠ 0 ∧ fails mis s c w ≠ []) 3 (tr mis) ∧
  Traps (.cpy h d a b) h (fun s c w => copyq s w ≠ 0 ∧ fails mis s c w = [] ∧ fails out s c w ≠ []) 4 (tr out) ∧
  Traps (.cpy h d a b) h (fun s c w => copyq s w ≠ 0 ∧ fails mis s c w = [] ∧ fails out s c w = [] ∧ fails own s c w ≠ []) 5
    (tr own)

namespace Sys2Proof.Claims

/-! Engine forms. -/

/-- A form whose slot waits for `x`: it is done at issue but for the wait, which the step `ev` ends, at once where it can. -/
def Holds (i : Instr) (h : Hdr) (pre : State → Issue → Warp → Prop) (next : State → Issue → Warp → State)
    (eff : State → Issue → Warp → Warp) (x : State → Issue → Warp → Wait) (ev : Nat → Nat → Instr) : Prop :=
  ∀ (s : State) (c : Issue) (w : Warp), Issuing s c w h.c → pre s c w →
    ∃ t1 t w', exec i s = .next t ∧ exec (ev c.uid c.slot) t1 = .next t ∧
      Ran (next s c w) t1 c (waiting (eff s c w) c.slot (x s c w)) w' h.c fun _ => 0

/-- The slot's threads, for the forms that every active thread takes part in. -/
def active (c : Issue) (w : Warp) : Mask := (w.slot c.slot).mask
/-- An illegal-instruction trap of those threads (R382, R394). -/
def illegalActive : State → Issue → Warp → Mask × Nat × Nat := fun _ c w => (active c w, 0, c.word.toNat)
def illegalParts (h : Hdr) : State → Issue → Warp → Mask × Nat × Nat := fun _ c w => (parts c w h, 0, c.word.toNat)
/-- The state with one number taken. -/
def numbered (s : State) : State := { s with nextId := s.nextId + 1 }
/-- An access whose result is the two words of `v` in the s-register pair, or the one word in the s-register, `d`. -/
def result2 (s : State) (c : Issue) (w : Warp) (d v : Nat) : Access :=
  newAccess s c w (.result [.s (d - 64) (BitVec.ofNat 32 v), .s (d - 64 + 1) (BitVec.ofNat 32 (v / 2 ^ 32))]) .glob 0 (dsts d 2)
    [] (active c w) [] true

/-- The matrix engine of the warp's cluster with the entry or row access `e` added, or with tile `p` no longer held. -/
def withMxEntry (s : State) (w : Warp) (e : MxEntry) : State :=
  (numbered s).setMx w.cluster { s.mx w.cluster with entries := (s.mx w.cluster).entries ++ [e] }
def withMxRow (s : State) (w : Warp) (x : MxRw) : State :=
  (numbered s).setMx w.cluster { s.mx w.cluster with rws := (s.mx w.cluster).rws ++ [x] }

/-- The coordinate command of the issuing instruction. -/
def newQd (s : State) (c : Issue) (w : Warp) (name : Nat) (kind : QdKind) : QdCmd :=
  { id := s.nextId, w := w.uid, slot := c.slot, core := w.core, ctx := w.ctx, gang := w.gang, name, kind, word := c.word.toNat,
    fault := none, parked := none }
/-- A coordinate form (R340): its command joins those of the cluster's engine, and its slot waits. `adrs` are its records'
addresses by thread, `ps` its threads, `all` whether one record stands for all of them. -/
def QdSends (i : Instr) (h : Hdr) (name : Nat) (kind : QdKind) (marks : List Nat) (ps : Issue → Warp → Mask)
    (adrs : Issue → Warp → List (Nat × Nat)) (all st : Bool) (dst pdst : List Nat) : Prop :=
  let bad := fun (c : Issue) (w : Warp) => (adrs c w).filter fun p => decide (p.2 % 64 ≠ 0)
  Does i h (fun _ c w => ps c w = 0) (fun _ _ w => w) ∧
  Ends i h (fun _ c w => ps c w ≠ 0 ∧ ∀ p ∈ adrs c w, p.2 % 64 = 0)
    (fun s c w => (numbered s).setQd w.cluster { s.qd w.cluster with cmds := (s.qd w.cluster).cmds ++ [newQd s c w name kind] })
    (fun s c w => waiting (withAccess (w.markAlone c marks (ps c w))
      (newAccess s c w (.engine st) .glob 0 dst pdst (ps c w) ((adrs c w).map fun p => spanAt p.1 p.2 64 []) (adrs c w).isEmpty))
      c.slot (.engine s.nextId)) ∧
  Traps i h (fun _ c w => ps c w ≠ 0 ∧ bad c w ≠ []) 3 fun _ c w =>
    (if all then ps c w else wordOf fun t => (bad c w).any fun p => p.1 == t, ((bad c w).headD (0, 0)).2, if st then 1 else 0)

/-- Is quarry `n` of the warp's context live (R351)? -/
def liveQuarry (s : State) (w : Warp) (n : Nat) : Option Quarry := s.quarries.find? fun q => decide (q.ctx = w.ctx ∧ q.n = n)
/-- The access of a command to the cluster's shard. -/
def shardAccess (s : State) (c : Issue) (w : Warp) (cmd : ShardCmd) (dst pdst : List Nat) (ps : Mask) : Access :=
  newAccess s c w (.shard cmd) .glob 0 dst pdst ps [] true
/-- The optional predicate destination, and the predicates it takes (R369). -/
def pqOpt (h : Hdr) : Option Nat := if h.ih.testBit 7 then some (h.ih % 128) else none
def pqDst (h : Hdr) : List Nat := if h.ih.testBit 7 ∧ h.ih % 128 ≠ 0 then [h.ih % 128] else []

end Sys2Proof.Claims

/-- R322, R323, R325, R328: the matrix-engine forms on tiles: acquiring, releasing, waiting and flipping hold the slot; a status
is read at grant; a tile that the gang does not hold, and a launch without tiles, trap.
Names that are not held follow log entry 17. -/
def Obligations.MatrixTilesAtIssue : Prop := ∀ (h : Hdr) (d a b : BitVec 7),
  let n := a.toNat
  let atiles := fun (s : State) (w : Warp) => ((s.disp.gangs.find? fun g => g.uid == w.gang).map fun g => g.lrec.atiles).getD 0
  let held := fun (s : State) (_ : Issue) (w : Warp) => (s.mxHeld w n).isSome = true
  let notHeld := fun (s : State) (_ : Issue) (w : Warp) => s.mxHeld w n = none
  let p := fun (s : State) (w : Warp) => (s.mxHeld w n).getD 0
  let v := fun (c : Issue) (w : Warp) => (reg (c.src w) a 0).toNat
  let off := fun (c : Issue) (w : Warp) => v c w % 2 ^ 18
  let loc := fun (s : State) (c : Issue) (w : Warp) => (s.mxLoc w (v c w)).getD ⟨0, [], 0⟩
  let fits := fun (s : State) (c : Issue) (w : Warp) =>
    (s.mxLoc w (v c w)).isSome = true ∧ (b = 0 ∨ off c w + 4096 * b.toNat ≤ 4096 * (loc s c w).tiles.length)
  Holds (.mxacq h d a b) h (fun s _ w => atiles s w ≠ 0) (fun s _ _ => s) (fun _ _ w => w) (fun _ _ _ => .mxacq n) .mxacqBind ∧
  Traps (.mxacq h d a b) h (fun s _ w => atiles s w = 0) 1 illegalActive ∧
  Holds (.mxrel h d a b) h held
    (fun s _ w => (numbered s).setMx w.cluster
      ((s.mx w.cluster).setTile (p s w) { (s.mx w.cluster).tile (p s w) with held := false }))
    (fun _ _ w => w) (fun s _ _ => .mxrel n s.nextId) .mxrelReturn ∧
  Traps (.mxrel h d a b) h notHeld 1 illegalActive ∧
  Holds (.mxwait h d a b) h held (fun s _ _ => numbered s)
    (fun s c w => withAccess w (newAccess s c w (.engine false) .glob 0 (dsts d.toNat 1) [] (active c w) [] true))
    (fun s _ _ => .mxwait n (d.toNat - 64) s.nextId) .mxwaitReport ∧
  Traps (.mxwait h d a b) h notHeld 1 illegalActive ∧
  Starts 1 (.mxstat h d a b) h held (fun s c w => withAccess w
    (newAccess s c w (.result [.s (d.toNat - 64) (BitVec.ofNat 32 ((s.mx w.cluster).status (p s w)))]) .glob 0 (dsts d.toNat 1) []
      (active c w) [] true)) ∧
  Traps (.mxstat h d a b) h notHeld 1 illegalActive ∧
  Ends (.mxzero h d a b) h held
    (fun s _ w => withMxEntry s w
      { num := s.nextId, ctx := w.ctx, gang := w.gang, prio := 0, tiles := [p s w], zero := true, rows := List.range 64,
        a := ⟨0, [], 0⟩, b := ⟨0, [], 0⟩, blk := [], used := [], next := 0, missed := 0 })
    (fun _ _ w => w) ∧
  Traps (.mxzero h d a b) h notHeld 1 illegalActive ∧
  ∀ e : BitVec 7,
    let i := Instr.mxown h e a b
    Holds i h (fun s c w => v c w < 2 ^ 21 ∧ off c w % 4096 = 0 ∧ fits s c w) (fun s _ _ => numbered s)
      (fun _ c w => w.markAlone c (marksA h a) (active c w))
      (fun s c w => .mxown (e == 1) (loc s c w).core ((List.range b.toNat).map fun k => (loc s c w).tiles.getD (off c w / 4096 + k) 0)
        s.nextId) .mxownFlip ∧
    Traps i h (fun _ c w => 2 ^ 21 ≤ v c w) 1 illegalActive ∧
    Traps i h (fun _ c w => v c w < 2 ^ 21 ∧ off c w % 4096 ≠ 0) 3 (fun _ c w => (active c w, off c w, 0)) ∧
    Traps i h (fun s c w => v c w < 2 ^ 21 ∧ off c w % 4096 = 0 ∧ ¬fits s c w) 4 (fun _ c w => (active c w, off c w, 0))

/-- R326, R327: MXRD and MXWR: a row access of the participants' elements, for which the slot waits; MXWR's values are read at
once. A position with a reserved bit, or of four elements at a column that is no multiple of 4, traps, and so does a tile
that the gang does not hold. That the slot is held for MXWR too is the model's reading (log entry 17). -/
def Obligations.MatrixRowsAtIssue : Prop := ∀ (h : Hdr) (d a b : BitVec 7),
  let tile := b.toNat % 32
  let n := if b.toNat / 32 = 1 then 4 else 1
  let pos := fun (c : Issue) (w : Warp) (t : Nat) => reg (c.src w) a t
  let bad := fun (c : Issue) (w : Warp) (t : Nat) =>
    decide ((pos c w t).extractLsb' 6 2 ≠ 0 ∨ (pos c w t).extractLsb' 14 18 ≠ 0 ∨
      (n = 4 ∧ (pos c w t).extractLsb' 8 2 ≠ 0))
  let some_ := fun (c : Issue) (w : Warp) => parts c w h ≠ 0
  let held := fun (s : State) (w : Warp) => (s.mxHeld w tile).isSome = true
  let good := fun (s : State) (c : Issue) (w : Warp) =>
    some_ c w ∧ held s w ∧ ∀ t, has (parts c w h) t = true → bad c w t = false
  let row := fun (write : Bool) (s : State) (c : Issue) (w : Warp) =>
    ({ num := s.nextId, w := w.uid, slot := c.slot, tile := (s.mxHeld w tile).getD 0, write, d := d.toNat, n
       items := (threads (parts c w h)).map fun t =>
         (t, ((pos c w t).extractLsb' 0 6).toNat, ((pos c w t).extractLsb' 8 6).toNat)
       data := if write then (threads (parts c w h)).map fun t => (t, (List.range n).map fun j => (c.src w).reg (d.toNat + j) t)
         else []
       freed := ((marksA h a).filter (· < 63)).map fun k => (k, (c.src w).vreg k) } : MxRw)
  let mk := fun (c : Issue) (w : Warp) => w.markAlone c (marksA h a) (parts c w h)
  let acts := fun (i : Instr) (write : Bool) (eff : State → Issue → Warp → Warp) =>
    Does i h (fun _ c w => parts c w h = 0) (fun _ _ w => w) ∧
    Holds i h good (fun s c w => withMxRow s w (row write s c w)) eff (fun s _ _ => .mxrw s.nextId) .mxRowAccess ∧
    Traps i h (fun s c w => some_ c w ∧ ¬held s w) 1 (illegalParts h) ∧
    Traps i h (fun s c w => some_ c w ∧ held s w ∧ ∃ t, has (parts c w h) t = true ∧ bad c w t = true) 1
      (fun _ c w => (wordOf fun t => has (parts c w h) t && bad c w t, 0, c.word.toNat))
  acts (.mxwr h d a b) true (fun _ c w => mk c w) ∧
  acts (.mxrd h d a b) false (fun s c w => withAccess (mk c w)
    (newAccess s c w (.engine false) .glob 0 (dsts d.toNat n) [] (parts c w h) [] true))

/-- R312 to R314: an MXQ that passes the checks of the table enters the reservation table, with its own copy of the format block,
its tiles, operands and rows; one that does not raises the first failing check's trap and enters nothing. The first checks:
the name, reserved bits of a descriptor, the format block's alignment and bounds. -/
def Obligations.MatrixCommandsAtIssue : Prop := ∀ (h : Hdr) (d a b : BitVec 7),
  let i := Instr.mxq h d a b
  let row := if h.ih.testBit 7 then some (h.ih % 128) else none
  let val := fun (c : Issue) (w : Warp) (x : BitVec 7) => (reg (c.src w) x 0).toNat
  let vf := fun (c : Issue) (w : Warp) => val c w h.ext.ts
  let check := fun (s : State) (c : Issue) (w : Warp) =>
    s.mxqCheck w (c.src w) d.toNat (val c w a) (val c w b) (vf c w) row (parts c w h)
  let some_ := fun (c : Issue) (w : Warp) => parts c w h ≠ 0
  let ok := fun (s : State) (c : Issue) (w : Warp) => some_ c w ∧ (s.mxHeld w d.toNat).isSome = true
  let clean := fun (c : Issue) (w : Warp) => val c w a < 2 ^ 21 ∧ val c w b < 2 ^ 21 ∧ vf c w < 2 ^ 21
  Does i h (fun _ c w => parts c w h = 0) (fun _ _ w => w) ∧
  (∀ (s : State) (c : Issue) (w : Warp) (e : MxEntry), Issuing s c w h.c → some_ c w → check s c w = .inr e →
    (∃ t w', exec i s = .next t ∧
      Ran (withMxEntry s w e) t c (w.markAlone c (marksAB h a b) (parts c w h)) w' h.c fun _ => 0) ∧
    (s.mxHeld w d.toNat).isSome = true ∧ clean c w ∧ vf c w % 2 ^ 18 % 32 = 0 ∧ e.num = s.nextId ∧ e.gang = w.gang ∧ e.ctx = w.ctx ∧
    e.zero = false ∧ e.next = 0 ∧ e.tiles.head? = s.mxHeld w d.toNat ∧ blkLegal e.blk = true ∧ e.rows.Nodup ∧
    (row = none → e.rows = (threads (parts c w h)).flatMap fun t => [t, t + 32]) ∧
    e.a.off % 128 = 0 ∧ e.b.off % 128 = 0 ∧ ∀ q ∈ e.used, (s.core q.1).engine.contains q.2 = true) ∧
  (∀ (s : State) (c : Issue) (w : Warp) (cls : Nat) (m : Mask) (o : Nat), Issuing s c w false → some_ c w →
    check s c w = .inl (cls, m, o) → cls ∈ [1, 3, 4, 5] ∧
    ∃ t t' w', exec i s = .next t' ∧ (h.c = false →
      Raised s t t' c w w' (c.trapOf cls m o (if cls = 1 then c.word.toNat else 0) (w.seq + 1)))) ∧
  Traps i h (fun s c w => some_ c w ∧ s.mxHeld w d.toNat = none) 1 (illegalParts h) ∧
  Traps i h (fun s c w => ok s c w ∧ ¬clean c w) 1 (illegalParts h) ∧
  Traps i h (fun s c w => ok s c w ∧ clean c w ∧ vf c w % 2 ^ 18 % 32 ≠ 0) 3 (fun _ c w => (parts c w h, vf c w % 2 ^ 18, 0)) ∧
  Traps i h (fun s c w => ok s c w ∧ clean c w ∧ vf c w % 2 ^ 18 % 32 = 0 ∧
    ∀ l, s.mxLoc w (vf c w) = some l → 4096 * l.tiles.length < vf c w % 2 ^ 18 + 32) 4
    (fun _ c w => (parts c w h, vf c w % 2 ^ 18, 0))

/-- R339 to R345: the coordinate forms at issue; QDSTAT reads its status at grant. A record that is not aligned to 64 bytes
traps. When a record's alignment is checked is the model's reading (log entry 15). -/
def Obligations.CoordinateFormsAtIssue : Prop := ∀ (h : Hdr) (d a b : BitVec 7),
  let one := fun (c : Issue) (w : Warp) => [((lowest (active c w)).getD 0, (pair (c.src w) a 0).toNat)]
  let none_ := fun (_ : Issue) (_ : Warp) => ([] : List (Nat × Nat))
  let bare := markCodes h 127 127
  let onA := markCodes h a.toNat 127
  QdSends (.qdopen h d a b) h d.toNat (.openCur (b == 1)) onA active one true false [] [] ∧
  QdSends (.qdload h d a b) h d.toNat .load onA active one true false [] [] ∧
  QdSends (.qdsave h d a b) h d.toNat .save onA active one true true [] [] ∧
  QdSends (.qdnext h d a b) h a.toNat (.next d.toNat (b.toNat - 64) (pqOpt h)) bare (fun c w => parts c w h) none_ false false
    (dsts d.toNat 3 ++ dsts b.toNat 1) (pqDst h) ∧
  QdSends (.qdsplit h d a b) h d.toNat (.split (b == 1)) onA (fun c w => parts c w h)
    (fun c w => (threads (parts c w h)).map fun t => (t, (pair (c.src w) a t).toNat)) false true [] [] ∧
  QdSends (.qdclose h d a b) h d.toNat .close bare active none_ false false [] [] ∧
  QdSends (.qdprobe h d a b) h a.toNat (.probe (d.toNat - 64)) bare active none_ false false (dsts d.toNat 1) [] ∧
  Starts 1 (.qdstat h d a b) h always (fun s c w => withAccess (w.markAlone c bare (active c w))
    (result2 s c w d.toNat (s.qdStatus w.cluster w.gang a.toNat)))

/-- R371 to R376: the worklist forms at issue. A push reserves the lowest free slots of the home shard's segment for its
participants in ascending thread, and overflows where there are too few; its quarry is not quiet while it is in transit (R366).
A form that names a quarry that is not live traps, whoever takes part (R370), but for QYINIT, QYFLOOR and QYSTAT; QYQUIET.WAIT
holds its slot. Every form completes on a live quarry. -/
def Obligations.WorklistFormsAtIssue : Prop := ∀ (h : Hdr) (d a b : BitVec 7),
  let bare := markCodes h 127 127
  let some_ := fun (c : Issue) (w : Warp) => parts c w h ≠ 0
  let live := fun (n : Nat) (s : State) (w : Warp) => (liveQuarry s w n).isSome = true
  let idOf := fun (n : Nat) (s : State) (w : Warp) => ((liveQuarry s w n).map (·.id)).getD 0
  let idle := fun (i : Instr) (n : Nat) => Does i h (fun s c w => parts c w h = 0 ∧ live n s w) (fun _ _ w => w)
  let dead := fun (i : Instr) (n : Nat) => Traps i h (fun s _ w => ¬live n s w) 1
    (fun _ c w => (if parts c w h = 0 then active c w else parts c w h, 0, c.word.toNat))
  let used := fun (s : State) (w : Warp) => s.usedSlots (idOf d.toNat s w) w.cluster
  let room := fun (s : State) (c : Issue) (w : Warp) =>
    (used s w).length + (threads (parts c w h)).length ≤ ((liveQuarry s w d.toNat).map (·.seg)).getD 0
  let ends := fun (i : Instr) (cmd : Nat → ShardCmd) =>
    idle i a.toNat ∧
    Starts 1 i h (fun s c w => some_ c w ∧ live a.toNat s w) (fun s c w =>
      withAccess (w.markAlone c bare (parts c w h)) (shardAccess s c w (cmd (idOf a.toNat s w)) [] [] (parts c w h))) ∧
    dead i a.toNat
  let both := fun (i : Instr) (v : State → Warp → Nat) =>
    Starts 1 i h always fun s c w => withAccess (w.markAlone c bare (active c w)) (result2 s c w d.toNat (v s w))
  idle (.qypush h d a b) d.toNat ∧
  Ends (.qypush h d a b) h (fun s c w => some_ c w ∧ live d.toNat s w ∧ room s c w)
    (fun s _ w => { s with
      nextId := s.nextId + 1
      quarries := s.quarries.map fun (x : Quarry) => if x.id = idOf d.toNat s w then
        ((liveQuarry s w d.toNat).map fun (q : Quarry) => { q with quiet := false }).getD x else x }) (fun s c w =>
    let q := idOf d.toNat s w
    let ts := threads (parts c w h)
    let free := (List.range ((used s w).length + ts.length)).filter fun k => !(used s w).contains k
    withEntry (w.markAlone c (marksAB h a b) (parts c w h))
      (newEntry s c w (.push q ((ts.zip free).map fun p =>
        { q, thread := p.1, pay := (pair (c.src w) a p.1).toNat, key := (reg (c.src w) b p.1).toNat, home := w.core / 4, slot := p.2 }))
        .glob 0 (parts c w h) [] true)) ∧
  dead (.qypush h d a b) d.toNat ∧
  Traps (.qypush h d a b) h (fun s c w => some_ c w ∧ live d.toNat s w ∧ ¬room s c w) 7
    (fun _ c w => (parts c w h, 0, d.toNat)) ∧
  Starts 1 (.qypop h d a b) h (fun s _ w => live a.toNat s w) (fun s c w =>
    withAccess (w.markAlone c bare (parts c w h)) (shardAccess s c w
      (.pop a.toNat d.toNat (b.toNat - 64) (pqOpt h) [] [] none) (dsts d.toNat 3 ++ dsts b.toNat 1) (pqDst h) (parts c w h))) ∧
  dead (.qypop h d a b) a.toNat ∧
  ends (.qydone h d a b) (fun _ => .done a.toNat) ∧ ends (.qyyield h d a b) (.giveBack a.toNat) ∧
  Starts 1 (.qyquiet h d a b) h (fun s _ w => live a.toNat s w) (fun s c w =>
    let w1 := withAccess (w.markAlone c bare (active c w))
      (shardAccess s c w (.quiet a.toNat (d.toNat - 64)) (dsts d.toNat 1) [] (active c w))
    if b = 1 then waiting w1 c.slot (.quiet a.toNat (d.toNat - 64) s.nextId) else w1) ∧
  Traps (.qyquiet h d a b) h (fun s _ w => ¬live a.toNat s w) 1 illegalActive ∧
  both (.qyfloor h d a b) (fun s w => match liveQuarry s w a.toNat with
    | none => 0
    | some q => s.view (w.core / 4) q.id % 2 ^ 32 + 2 ^ 32 * q.quiet.toNat) ∧
  both (.qystat h d a b) (fun s w => match liveQuarry s w a.toNat with
    | none => 0
    | some q => 1 + 2 * q.quiet.toNat + 4 * q.link.toNat + 8 * w.stop.toNat +
        2 ^ 8 * ((s.shard (w.core / 4)).chip.filter fun t => t.q == q.id).length + 2 ^ 32 * (s.usedSlots q.id (w.core / 4)).length) ∧
  Starts 1 (.qyinit h d a b) h (fun _ c w => (pair (c.src w) a 0).toNat % 32 = 0) (fun s c w =>
    withAccess (w.markAlone c (markCodes h a.toNat 127) (active c w))
      (newAccess s c w (.qyinit (d.toNat - 64) b.toNat (pair (c.src w) a 0).toNat) .glob 0 (dsts d.toNat 1) [] (active c w) [] false)) ∧
  Traps (.qyinit h d a b) h (fun _ c w => (pair (c.src w) a 0).toNat % 32 ≠ 0) 3
    (fun _ c w => (active c w, (pair (c.src w) a 0).toNat, 0))

namespace Sys2Proof.Claims

/-! Traps. -/

/-- The threads that a trap of a slot finds there: those of its region when it replays, else the active ones (R390). -/
def found (sl : Slot) (tr : TrapReq) : Mask := if tr.replay then sl.emask else sl.mask
/-- The threads of a slot that run the handler of its trap: those of MASK, or all where none of them stands there (log entry
9); the others are bystanders (R390). -/
def handling (sl : Slot) (tr : TrapReq) : Mask :=
  if found sl tr &&& tr.mask = 0 then found sl tr else found sl tr &&& tr.mask
/-- The doublewords of the trap record (R393, R394). -/
def recordOf (w : Warp) (k : Nat) (tr : TrapReq) (info : Nat) : List Nat :=
  let sl := w.slot k
  let o := w.slot (1 - k)
  [ tr.cls + 2 ^ 8 * k + 2 ^ 9 * tr.replay.toNat + 2 ^ 10 * tr.word + 2 ^ 32 * tr.mask.toNat, tr.fpc.toNat, tr.npc.toNat,
    tr.rpc.toNat, tr.bpc.toNat, (found sl tr &&& ~~~handling sl tr).toNat + 2 ^ 32 * sl.emask.toNat, sl.epc.toNat, tr.va, info, o.pc.toNat,
    o.mask.toNat, 0, 0, 0, 0, 0 ]
/-- Memory takes the record, and the depth of the divergence stack before it, at the lane's addresses (R149, R393): the part's
own writes, in order, none of which faults. -/
def recorded (s : State) (w : Warp) (words : List Nat) (t : State) : Prop :=
  s.laneWrites w [((w.pvbase.toNat + 32 * w.psize) % 2 ^ 64 + 480, leBytes 4 w.depth),
    (((w.pvbase.toNat + 32 * w.psize) % 2 ^ 64 + 8768) % 2 ^ 64, words.flatMap (leBytes 8))] = (true, t)

end Sys2Proof.Claims

/-- R70, R74, R108, R382, R393, R394, R396, R397: NOP, REGION and PATCH only retire; TRAP and BRK raise their traps for the participants,
with their code, and with none only retire; an encoding that fails traps for every active thread, with the word that the failure
is laid at. Which word some failures name is the model's reading (log entry 12). -/
def Obligations.TrapsAtIssue : Prop :=
  (∀ (h : Hdr) (d a b : BitVec 7) (n : BitVec 2) (tool : BitVec 22),
    let stay := fun (_ : State) (_ : Issue) (w : Warp) => w
    let none_ := fun (_ : State) (c : Issue) (w : Warp) => parts c w h = 0
    let some_ := fun (_ : State) (c : Issue) (w : Warp) => parts c w h ≠ 0
    let tr := fun (_ : State) (c : Issue) (w : Warp) => (parts c w h, 0, a.toNat)
    Does (.nop h d a b) h always stay ∧ Does (.region h d a b) h always stay ∧ Does (.patch h n tool) h always stay ∧
    (h.c = false → Does (.trap h d a b) h none_ stay ∧ Does (.brk h d a b) h none_ stay) ∧
    Traps (.trap h d a b) h some_ 9 tr ∧ Traps (.brk h d a b) h some_ 10 tr) ∧
  ∀ (fpc : DWord) (word : Word) (s : State) (c : Issue) (w : Warp), Issuing s c w false →
    ∃ t t' w', exec (.illegalInstruction fpc word) s = .next t' ∧ Raised s t t' c w w'
      { cls := 1, mask := active c w, fpc, npc := c.npc, rpc := fpc, bpc := fpc, word := ((fpc - c.pkt).toInt % 12).toNat / 4, va := 0,
        info := word.toNat, replay := false, seq := w.seq + 1 }

/-- R384, R387, R390 to R394: once every access of the warp has passed translation, the trap of a slot of a warp at user privilege
whose handler is installed is taken: held entries of the warp are released, the record is written, the threads of MASK that the
slot holds run at cb + tvec in a new region, at handler privilege, the trap registers hold the record, and a timer trap clears
WTE. Before that it waits with its slot; so it does in a frozen slot, and slot 1's while slot 0's can be taken. With no handler
installed, and at handler privilege, it ends the context. Where no thread of MASK stands in the slot, the handler threads are the
model's choice (log entry 9). -/
def Obligations.TrapIsTaken : Prop :=
  ∀ (s : State) (u k : Nat) (w : Warp) (tr : TrapReq), s.warp? u = some w → (w.slot k).trap = some tr →
    let due := w.unwalked tr.seq = false ∧ w.unwalked (w.seq + 1) = false ∧ s.stopped w = false ∧ w.pend = [] ∧
      (w.slot k).wait = none ∧ (∀ h, w.handler = some h → h.slot = k) ∧
      (k = 0 ∨ (w.slot 0).trap = none ∨ (w.slot 0).wait.isSome = true ∨ ∃ h, w.handler = some h ∧ h.slot ≠ 0)
    let m := handling (w.slot k) tr
    let rel : Warp := { w with sq := w.sq.map fun (e : SqEntry) => if e.seq < w.seq + 1 then { e with held := false } else e }
    let words := recordOf w k tr (if tr.cls = 11 then s.wtime w else tr.info)
    (due → w.sized = true → k < 2 → w.handler = none → w.tvec ≠ 0 → m ≠ 0 → w.bnds = [] → ∀ s1, recorded s rel words s1 →
      let slot : Slot :=
        { w.slot k with pc := w.cb + w.tvec.setWidth 64, mask := m, epc := w.cb + w.tvec.setWidth 64, emask := m, trap := none }
      exec (.trapEntry u k) s = .next (s1.setWarp
        { rel with handler := some { slot := k, threads := m, base := w.depth }, trapRegs := words.map (BitVec.ofNat 64),
                   tmask := if tr.cls = 11 then w.tmask &&& ~~~0x100#32 else w.tmask, slots := w.slots.set k slot })) ∧
    (due → (w.handler ≠ none ∨ w.tvec = 0) →
      exec (.trapEntry u k) s = .next (s.ctxFatal w.ctx w.die (w.core % 128) tr.cls tr.fpc.toNat)) ∧
    (¬due → exec (.trapEntry u k) s = .next s)

/-- R396: RETT: the handler threads resume at T, the warp leaves handler privilege, and the bystanders join them when they stand
at T. Outside a handler it is an illegal instruction. -/
def Obligations.ReturnFromTrap : Prop := ∀ (h : Hdr) (d a b : BitVec 7),
  (h.c = false → ∀ (s : State) (c : Issue) (w : Warp) (hd : Handler), Issuing s c w false → w.handler = some hd →
    let m := active c w
    let target := match a.toNat with
      | 0 => (c.src w).trapRegs.getD 3 0
      | 1 => (c.src w).trapRegs.getD 2 0
      | _ => pair (c.src w) b 0
    let bm : Mask := (w.trapRegs.getD 5 0).setWidth 32 &&& ~~~w.exited
    target.toNat % 4 = 0 → m = hd.threads &&& ~~~w.exited →
    (w.depth = 0 ∨ (w.slot (1 - c.slot)).mask ≠ 0) → (w.slot (1 - c.slot)).trap = none → (bm = 0 ∨ w.trapRegs.getD 4 0 = target) →
    ∃ t w', exec (.rett h d a b) s = .next t ∧ Took s t c { w with handler := none } w' (target, m ||| bm) none) ∧
  Traps (.rett h d a b) h (fun _ _ w => w.handler = none) 1 illegalActive

/-- R391, R393, R400: the timer trap stands in place of the first grant of a slot once wtime has reached wtcmp: the slot's threads
trap at the instruction, which has not taken effect, with the address after it and its chain as NPC. Before that, at handler
privilege, and while the warp's timer trap is pending already, nothing happens. -/
def Obligations.TimerTraps : Prop := ∀ (s : State) (u k : Nat) (w : Warp), s.warp? u = some w → w.sized = true → k < 2 →
  let due := w.tmask.getLsbD 8 = true ∧ w.handler = none ∧ w.wtcmp.toNat ≤ s.wtime w ∧
    ∀ sl ∈ w.slots, ∀ t, sl.trap = some t → t.cls ≠ 11
  (¬due → exec (.timerTrap u k) s = .next s) ∧
  (due → (w.slot k).mask ≠ 0 → (w.slot k).trap = none → (w.slot k).wait = none → ∀ g s1, s.fetch w k = (.inr g, s1) →
    let pc := (w.slot k).pc
    let off := ((pc - w.cb).toInt % 12).toNat
    let pkt := pc - BitVec.ofNat 64 off
    let npc := match g with
      | .ok g => if g.next < 3 then pkt + BitVec.ofNat 64 (4 * g.next) else pkt + 12
      | .error r => s1.afterReject w k r
    let tr : TrapReq :=
      { cls := 11, mask := (w.slot k).mask, fpc := pc, npc, rpc := pc, bpc := pc, word := off / 4, va := 0,
        info := 0, replay := false, seq := w.seq + 1 }
    exec (.timerTrap u k) s = .next ((s1.modWarp u fun (x : Warp) =>
      { x with slots := x.slots.set k { x.slot k with trap := some tr } }).takeTrap u k))

/-- R60 to R68, with the words that the spec writes out: each decodes to the form it stands for, with its fields. -/
def Obligations.DecodesWrittenWords : Prop :=
  let p := Hdr.plain
  (∀ x ∈ [ (0x100C1028, Instr.fadd p 6 4 5), (0x22001400, .brx p 0 5 0), (0x22000004, .nop p 0 0 0), (0x23000C01, .rjpark p 0 3 0),
           (0x2A000C0B, .bar p 0 3 1), (0x2A000015, .barw p 0 0 2), (0x2A000006, .yield p 0 0 0), (0x2B020000, .rdsr p 1 0 0),
           (0x2B011618, .wrsr p 0 69 0x218), (0x2C080844, .ldB32 p 4 2 8), (0x2D182802, .stB32 p 12 10 0),
           (0x3C000002, .region p 0 0 0), (0x34000004 + 0x20000 * 64 + 0x400 * 3, .mxwait p 64 3 0),
           (0x38000005 + 0x20000 * 2, .qdclose p 2 0 0) ],
    decodeTableWord 32 x.1 = some x.2) ∧
  -- an extension word first: the third source of FFMA v5, v6, v7, v8 (R65)
  decodeTableWord 64 ((0x3F000000 + 8 * 8) + 2 ^ 32 * (0x10000002 + 0x20000 * 5 + 0x400 * 6 + 8 * 7)) =
    some (.ffma { p with e0 := some { gp := 0, gn := false, rm := 0, sat := false, ftz := false, ts := 8, scope := 0 } } 5 6 7) ∧
  -- reserved majors, a reserved kind, a field out of range
  decodeTableWord 32 0x0 = none ∧ decodeTableWord 32 0x3FC00000 = none ∧ decodeTableWord 32 0x2C000007 = none

/-- R16, R60 to R72: the words of every well-formed instruction that fits a packet decode to it, with every field at its value, and as
one instruction unless its C bit chains it. -/
def Obligations.DecodeOfEncode : Prop := ∀ (i : Instr) (rest : List Word), wellFormed i = true →
  (encode i).length + covered i ≤ 3 →
  (∃ p, decodeOne false none 0 Exts.none (encode i ++ rest) = .ok (p, (encode i).length + covered i) ∧ p.instr = i ∧
    p.first = 0 ∧ p.slot + 1 = (encode i).length) ∧
  (chains i = false → ∃ p, p.instr = i ∧ decode (encode i ++ rest) 0 = .ok ⟨[p], (encode i).length + covered i⟩)

/-- R16 to R19, R161: a step that grants a slot whose words decode to one instruction runs exactly that instruction, on the state
after the fetch with the slot's issue record: what it gives is the next state, in which the lane has noted its grant, unless a
marked granule or the register pool holds the grant back (R158, R298). The lane grants at most two slots in a cycle, and none
while one that comes before it can be granted. A step of another agent runs that step, and one in which the part's own access
finds its place not ready is not made (R451).
That a step is one grant, or one step that the agenda names, is the model's choice (log entry 2). -/
def Obligations.StepRunsDecoded : Prop :=
  (∀ (s s1 s2 : State) (u k : Nat) (busy : List (Nat × Nat)) (rest : List Agendum) (w w' : Warp) (ws : List Word) (g : Group)
    (p : Piece), s.agenda = .grant u k busy :: rest → (∀ x ∈ s.paused, x.1.uid = u → x.1.slot ≠ k) →
    let s0 : State := { s.tick with agenda := rest }
    s0.warp? u = some w → k < 2 → s0.warpOpen w = true → w.slotOpen k = true →
    let noted := s0.grantedNow w.core w.lane
    noted.length < 2 → noted.contains (u, k) = false →
    (∀ x ∈ (s0.laneSlots w.core w.lane).takeWhile (fun y => y != (u, k)),
      busy.contains x = true ∨ noted.contains x = true ∨ s0.grantable x = false) →
    let pc := (w.slot k).pc
    let off := ((pc - w.cb).toInt % 12).toNat
    let pkt := pc - BitVec.ofNat 64 off
    s0.fetchPacket w pkt.toNat 3 [] = (.inr ws, s1) → decode ws (off / 4) = .ok g → g.pieces = [p] →
    s1.groupReady w k g = true → s1.timerDue w = false → w.selfBound g = false →
    let c : Issue :=
      { uid := w.uid, slot := k, pkt, npc := if g.next < 3 then pkt + BitVec.ofNat 64 (4 * g.next) else pkt + 12, wslot := p.slot,
        word := p.word, snap := none, flags := [], trap := none, marker := p.hdr.w, bound := false }
    exec p.instr { s1.setWarp { w with lastIns := { w.lastIns with parked := 0 } } with issue := some c } = .next s2 →
    s2.warp? w.uid = some w' → s1.marked w' w.seq = false → w'.claims ≤ w.claims ∨ s1.poolHolds w w'.claims = true →
    let t : State := { s2 with issue := none }
    let k' := t.core w.core
    let out := if t = s0 then s0
      else t.setCore w.core { k' with granted := put w.lane (s0.now, noted ++ [(u, k)]) k'.granted }
    (t.unready = false → t.bad = none → step s = .next out) ∧
    (∀ pa, t.unready = false → t.bad = some pa → step s = .fault (.outsideMemory pa)) ∧
    (t.unready = true → s.bad = none → step s = .next s0)) ∧
  (∀ (s : State) (rest : List Agendum) (i : Instr), s.agenda = .run i :: rest → Raw.of i = none →
    (∀ fpc word, i ≠ .illegalInstruction fpc word) → (∀ u k, i ≠ .timerTrap u k) →
    let s0 : State := { s.tick with agenda := rest }
    ∀ t, exec i s0 = .next t →
      (t.unready = false → t.bad = none → step s = .next t) ∧ (t.unready = true → s.bad = none → step s = .next s0)) ∧
  ∀ s : State, (∀ d r, s.pace = d :: r → s.tick = { s with now := s.now + d, pace := r, unready := false }) ∧
    (s.pace = [] → s.tick = { s with now := s.now + 1, unready := false })

/-- R16, R17: no form stops the machine. Of every form and every step of another agent there is a next state: of a form whenever a warp
issues it, whatever its operands and the state (a form that waits, traps or ends a context is in a next state too), of a step of
another agent always. -/
def Obligations.EveryFormAnswersNext : Prop := ∀ (i : Instr) (s : State),
  (∀ c w, s.issue = some c → s.warp? c.uid = some w → ∃ t, exec i s = .next t) ∧
  (Raw.of i = none → (∀ fpc word, i ≠ .illegalInstruction fpc word) → ∃ t, exec i s = .next t)

/-- Memory as data (log entry 1 for what an unlisted byte reads): a byte written reads back and every other byte stays; writing keeps
the canonical form, in which memories that read alike are equal. -/
def Obligations.MemoryCells : Prop :=
  (∀ (m : List Host.Cell) (a b : Nat) (v : Byte), Memory.wf m = true →
    Memory.wf (cellWrite m a v) = true ∧ cellRead (cellWrite m a v) b = if b = a then v else cellRead m b) ∧
  (∀ (m : List Host.Cell) (a b : Nat) (bs : List Byte), Memory.wf m = true →
    Memory.wf (cellsWrite m a bs) = true ∧
    cellRead (cellsWrite m a bs) b = if a ≤ b then (bs[b - a]?).getD (cellRead m b) else cellRead m b) ∧
  ∀ m n : List Host.Cell, Memory.wf m = true → Memory.wf n = true → (∀ a, cellRead m a = cellRead n a) → m = n

/-- Every step keeps local memory in its canonical form, from every state in which it has it (log entry 1). -/
def Obligations.StepKeepsMemoryForm : Prop := ∀ s t : State, s.memWf → step s = .next t → t.memWf

/-- After reset memory is in its canonical form, nothing is resident, queued or cached, every channel is idle, and the registers read
what the spec gives: R199, R403, R440, R442, R443, R449, R453, R454. Every die's bore log holds the record of the reset (R458, R459);
that its SEQ and its cause are 0 is the model's choice (log entry 5). -/
def Obligations.ResetState : Prop :=
  let s := State.reset
  s.memWf ∧ s.mem = [] ∧ s.warps = [] ∧ s.cores = [] ∧ s.clusters = [] ∧ s.slices = [] ∧ s.mesh = [] ∧ s.quarries = [] ∧
  s.issue = none ∧ s.disp.gangs = [] ∧ s.disp.launches = [] ∧ s.disp.queues.length = 64 ∧ s.chans.length = 4 ∧
  (∀ c ∈ s.chans, c.state = 0 ∧ c.deadline = 2000 ∧ c.grace = 0) ∧ (∀ q ∈ s.disp.queues, q.en = false ∧ q.head = 0 ∧ q.tail = 0) ∧
  s.regs.bootst = 0 ∧ s.regs.rdyHost = false ∧ s.regs.ring.en = false ∧ s.regs.inval.busy = false ∧ s.regs.plimit = 2200 ∧
  (∀ d, d < 9 → (s.die d).ith = 2048 ∧ (s.die d).pden = true ∧ (s.die d).ceth = 0x1000 ∧ (s.die d).clready = 0) ∧
  (∀ d, d < 9 → (s.die d).wrseq = 1 ∧ ∃ bs, (s.die d).log = [(0, bs)] ∧ bs.length = 32 ∧ leNat (bs.take 4) = 0 ∧
    leNat ((bs.drop 4).take 2) = 0x01 ∧ leNat ((bs.drop 6).take 2) = d ∧ leNat ((bs.drop 14).take 2) = 0xFFFF ∧ leNat (bs.drop 16) = 0) ∧
  ∀ l ∈ s.links, l.2.state = 0

namespace Sys2Proof.Claims

/-! Accesses after issue. -/

/-- The bytes that stand in a line's valid sectors fixed for an access (R221, R243), its other bytes as they were. -/
def fixedFrom (w : Warp) (id line : Nat) (data : List Byte) (mask : Nat) : Warp :=
  { w with accs := w.accs.map fun a => if a.id == id then a.capture line (lineReader data mask) else a }
/-- A later word of the access's chain has written the register or predicate that `code` names in thread `t` (R19). -/
def laterWrite (late : List (Nat × Mask)) (code t : Nat) : Prop := ∃ x ∈ late, x.1 = code ∧ has x.2 t = true
/-- The access that holds an atomic's old values, which go to the registers from `d` (R100). -/
def oldValues (e : SqEntry) (size d : Nat) : Access :=
  let at_ := fun (i th : Nat) => BitVec.ofNat 32 (leNat (((gather e.spans th).drop (4 * i)).take 4))
  { id := e.id, slot := e.slot, seq := e.seq,
    kind := .result ((List.range (size / 4)).map fun i => .v (d + i) (e.threads.map fun th => (th, at_ i th))),
    space := e.space, co := 0, priv := e.priv, dst := dsts d (size / 4), pdst := [], parts := e.parts, spans := [],
    walked := true, fault := none, fpc := e.fpc, npc := e.npc, wslot := e.wslot, sent := true, late := e.late }
/-- The warp with entry `e` in the place of the entry of its number; once its last part has performed the entry leaves, and an
atomic's old values become a result. -/
def putBack (w : Warp) (e : SqEntry) : Warp :=
  if e.next < e.parts' then w.setEntry e
  else
    let gone : Warp := { w with sq := w.sq.filter fun x => x.id != e.id }
    match e.kind with
    | .atom _ size _ (some d) => withAccess gone (oldValues e size d)
    | _ => gone
/-- Tag `t` is core `k`'s lowest free one and the home slice of the line, on the core's own die, has a free request slot; no
request can leave now (R224, R235). -/
def canAsk (s : State) (k t line : Nat) : Prop :=
  (s.core k).freeTag = some t ∧ (coreDie k = sliceDie (homeOf line) → (s.slice (homeOf line)).queue.length < 2048)
def cannotAsk (s : State) (k line : Nat) : Prop :=
  (s.core k).freeTag = none ∨ (coreDie k = sliceDie (homeOf line) ∧ 2048 ≤ (s.slice (homeOf line)).queue.length)
/-- The request that tag `t` of core `k` stands for, for a place `p` (R218, R224). -/
def asked (k t ctx va : Nat) (p : Phys) (kind : HKind) (sectors : Nat) (bytes : List (Nat × Byte)) (nt : Bool) : HReq :=
  { core := k, tag := t, ctx, va := lineVa va, tgt := p.tgt, line := p.pa / 128, kind, sectors, bytes, nt, pending := [], phase := 0, ce := 0 }
/-- Core `k` has taken tag `t` for `use`, and the request has left for the home slice of its line (R224, R234). -/
def asking (s : State) (k t : Nat) (use : TagUse) (r : HReq) : State :=
  let c := s.core k
  (s.setCore k { c with tags := c.tags ++ [{ tag := t, use }] }).send (coreDie k) (sliceDie (homeOf r.line)) (.home (homeOf r.line) r)
/-- Window `lane` of core `core` with `rest` in it (R218). -/
def window (s : State) (core lane : Nat) (rest : List LineReq) : State := s.setWindow core lane rest
/-- A slice's queue without the request that has been served, whose reply has left for its core (R272). -/
def replied (s : State) (sl idx : Nat) (r : HReq) (t : State) (sectors : Nat) (data : List Byte) : Prop :=
  t = ((s.dropReq sl idx).send (sliceDie sl) (coreDie r.core) (.core r.core { tag := r.tag, line := r.line, ok := true, sectors, data }))
/-- Request `idx` of slice `sl` is `r`, no earlier one is for its line, and the die has passed its self-test (R272, R451). -/
def firstOf (s : State) (sl idx : Nat) (r : HReq) : Prop :=
  (s.slice sl).queue[idx]? = some r ∧ (∀ q ∈ (s.slice sl).queue.take idx, q.line ≠ r.line) ∧ bit s.regs.rdyDie (sliceDie sl) = true

end Sys2Proof.Claims

/-- R19, R22, R97, R107, R269: a load whose addresses have been translated and whose bytes are fixed writes each of its threads' bytes,
sign- or zero-extended below a word, to the thread's registers from D, or to s-registers what its one thread read; every other
register stays, and so do threads that have exited and what a later word of the load's chain has written. A load from scratchpad
fixes the bytes that its store queue has not given it from the scratchpad then, unless it has to wait for an earlier access. A
result that is known is written the same way. -/
def Obligations.LoadResults : Prop :=
  (∀ (s : State) (u id : Nat) (w : Warp) (a : Access) (size d : Nat) (sx : Bool),
    s.warp? u = some w → w.sized = true → w.accs.find? (fun a => a.id == id) = some a → a.walked = true →
    (size = 1 ∨ size = 2 ∨ size = 4 ∨ size = 8 ∨ size = 16) →
    let b := s.readScratch w a
    let n := (size + 3) / 4
    let at_ := fun (th i : Nat) =>
      let bs := gather b.spans th
      if size < 4 ∧ sx = true then (BitVec.ofNat (8 * size) (leNat bs)).signExtend 32
      else BitVec.ofNat 32 (leNat ((bs.drop (4 * i)).take 4))
    (∀ x ∈ b.spans, ∀ g ∈ x.got, g.isSome = true) → (∀ x ∈ b.spans, x.t < 32 ∧ (gather b.spans x.t).length = size) →
    (a.kind = .load size sx false d → d + n ≤ 64 → ∃ w', exec (.memoryReply u id) s = .next (s.setWarp w') ∧
      w' = { w with accs := w.accs.filter fun a => a.id != id, v := w'.v } ∧
      (∀ x ∈ b.spans, has w.exited x.t = false → ∀ i, i < n → d + i ≠ 63 → ¬laterWrite a.late (d + i) x.t →
        w'.reg (d + i) x.t = at_ x.t i) ∧
      ∀ code th, th < 32 → (has w.exited th = true ∨ code < d ∨ d + n ≤ code ∨ (∀ x ∈ b.spans, x.t ≠ th) ∨
        laterWrite a.late code th) → w'.reg code th = w.reg code th) ∧
    (a.kind = .load size sx true d → 64 ≤ d → d + n ≤ 128 → ∀ x rest, b.spans = x :: rest →
      ∃ w', exec (.memoryReply u id) s = .next (s.setWarp w') ∧ w' = { w with accs := w.accs.filter fun a => a.id != id, s := w'.s } ∧
      (∀ i th, i < n → d + i ≠ 127 → (∀ t, ¬laterWrite a.late (d + i) t) → w'.reg (d + i) th = at_ x.t i) ∧
      ∀ code th, (code < d ∨ d + n ≤ code ∨ ∃ t, laterWrite a.late code t) → w'.reg code th = w.reg code th)) ∧
  (∀ (s : State) (w : Warp) (a : Access) (k : Nat), a.space = .scr k →
    (s.loadReady w a = true → ∀ (i : Nat) (x : Span), a.spans[i]? = some x → ∃ y : Span, (s.readScratch w a).spans[i]? = some y ∧ y = { x with got := y.got } ∧
      ∀ (j : Nat) (g : Option Byte), x.got[j]? = some g → y.got[j]? = some (some (g.getD (cellRead (s.core k).scratch (x.va + j))))) ∧
    (s.loadReady w a = false → s.readScratch w a = a)) ∧
  ∀ (s : State) (u id : Nat) (w : Warp) (a : Access) (wr : List RegWrite), s.warp? u = some w → w.sized = true →
    w.accs.find? (fun a => a.id == id) = some a → a.kind = .result wr →
    (wr.map fun (x : RegWrite) => match x with | .v c _ => c | .s c _ => 64 + c | .p c _ _ => 128 + c).Nodup →
    (∀ x ∈ wr, match x with
      | .v c l => c < 64 ∧ (l.map (·.1)).Nodup ∧ ∀ y ∈ l, y.1 < 32
      | .s c _ => c < 64
      | .p c _ _ => c < 128) →
    ∃ w', exec (.memoryReply u id) s = .next (s.setWarp w') ∧
      w' = { w with accs := w.accs.filter fun a => a.id != id, v := w'.v, s := w'.s, p := w'.p } ∧
      (∀ c l, RegWrite.v c l ∈ wr → c ≠ 63 → ∀ y ∈ l, has w.exited y.1 = false → ¬laterWrite a.late c y.1 → w'.reg c y.1 = y.2) ∧
      (∀ c v, RegWrite.s c v ∈ wr → c ≠ 63 → (∀ t, ¬laterWrite a.late (64 + c) t) → ∀ th, w'.reg (64 + c) th = v) ∧
      (∀ c m v th, RegWrite.p c m v ∈ wr → c ≠ 0 → has m th = true → has w.exited th = false → ¬laterWrite a.late (128 + c) th →
        w'.pred c th = has v th) ∧
      (∀ c th, c < 64 → th < 32 → (has w.exited th = true ∨ laterWrite a.late c th ∨
        ∀ l, RegWrite.v c l ∈ wr → ∀ y ∈ l, y.1 ≠ th) → w'.reg c th = w.reg c th) ∧
      (∀ c th, ((∃ t, laterWrite a.late (64 + c) t) ∨ ∀ v, RegWrite.s c v ∉ wr) → w'.reg (64 + c) th = w.reg (64 + c) th) ∧
      ∀ c th, (has w.exited th = true ∨ laterWrite a.late (128 + c) th ∨ ∀ m v, RegWrite.p c m v ∈ wr → has m th = false) →
        w'.pred c th = w.pred c th

/-- R218, R219, R229, R384, R388: an access all of whose addresses are translated has passed translation, and a load's line requests
stand in its lane's window, once the window is empty and no earlier load of the warp has still to enter it, in the order of the
lowest thread that touches each line; one that fails meets its walk fault. The walk fault of a slot's earliest failing access,
once those before it have been walked, sets the slot to its region's entry without the entries that the region holds, the row
accesses of the matrix engine and the rest of a chain that it discards: a permission fault raises its replaying trap there, a translation fault parks the
warp on its record. The oldest waiting record goes to the ring while it has room.
Which accesses of the slot a walk fault discards is the model's reading (log entry 22). -/
def Obligations.TranslationAndWalkFaults : Prop :=
  (∀ (s s1 : State) (u id : Nat) (w : Warp) (a : Access) (xs : List Span) (size d : Nat) (sx sc : Bool),
    s.warp? u = some w → w.accs.find? (fun a => a.id == id && !a.walked && a.fault.isNone && a.kind.walks) = some a →
    a.kind = .load size sx sc d →
    (s.windowTaken w a = true → exec (.translationWalk u id) s = .next s) ∧
    (s.windowTaken w a = false → ∀ fs, s.walkSpans w a.priv (if a.space = .code then .fetch else .load) true false a.spans = ((xs, fs), s1) →
    let next := fun (a' : Access) => s1.modWarp u fun (w : Warp) => w.setAccess a'
    (fs = [] →
      let a' := { a with spans := xs, walked := true, sent := true }
      let c := (next a').core w.core
      let reqs := (spanLines xs).map fun l =>
        ({ w := w.uid, acc := a.id, va := l.1, tgt := l.2.1.tgt, line := l.2.1.pa / 128, sectors := l.2.2 } : LineReq)
      ∃ t, exec (.translationWalk u id) s = .next (t.modWarp u Warp.settleBnds) ∧
        t = (next a').setCore w.core { c with windows := put w.lane ((look w.lane c.windows).getD [] ++ reqs) c.windows }) ∧
    ∀ th va r rest, fs = (th, va, r) :: rest →
      exec (.translationWalk u id) s = .next ((next { a with fault := wfaultOf fs, sent := false }).modWarp u Warp.settleBnds))) ∧
  (∀ (s s1 : State) (u id : Nat) (w : Warp) (e : SqEntry) (xs : List Span), s.warp? u = some w →
    w.accs.find? (fun a => a.id == id && !a.walked && a.fault.isNone && a.kind.walks) = none →
    w.sq.find? (fun e => e.id == id && !e.walked && e.fault.isNone) = some e →
    s.walkSpans w e.priv e.kind.acc e.kind.hostOk e.kind.isDirect e.spans = ((xs, []), s1) →
    exec (.translationWalk u id) s = .next ((s1.modWarp u fun (w : Warp) => w.setEntry { e with spans := xs, walked := true }).modWarp u
      Warp.settleBnds)) ∧
  (∀ (s : State) (u k : Nat) (w : Warp) (f : Faulted), s.warp? u = some w → earliest (w.faulted k) = some f → w.unsettled k f.seq = false →
    let w' := (w.replay k f.seq).settleBnds
    let gone := fun (n : Nat) => w.accs.any fun a => a.slot == k && decide (f.seq ≤ a.seq) && a.id == n
    let cl := s.cluster (w.core / 4)
    let s0 : State := { s.setCluster (w.core / 4) { cl with mx := { cl.mx with rws := cl.mx.rws.filter fun r => !gone r.num } } with
      paused := s.paused.filter fun p => !(p.1.uid == w.uid && p.1.slot == k) }
    ((w.replay k f.seq).slot k = { w.slot k with pc := (w.slot k).epc, mask := (w.slot k).emask, trap := none, wait := none } ∨ w.slots.length ≤ k) ∧
    (w.replay k f.seq).sq = w.sq.filter (fun (e : SqEntry) => !(e.slot == k && (e.held || f.seq ≤ e.seq))) ∧
    (f.fault.perm = true →
      let tr : TrapReq :=
        { cls := 13, mask := f.fault.mask, fpc := f.fpc, npc := f.npc, rpc := (w'.slot k).epc, bpc := (w'.slot k).epc, word := f.wslot,
          va := f.fault.va, info := f.acc.code, replay := true, seq := f.seq }
      exec (.walkFault u k) s = .next ((s0.setWarp { w' with slots := w'.slots.set k { w'.slot k with trap := some tr } }).takeTrap u k)) ∧
    (f.fault.perm = false → s.regs.ring.en = true →
      let x : FaultRec := { id := s.regs.ring.next, ctx := w.ctx, who := .warp u k, va := f.fault.va, cause := f.fault.cause, kind := f.acc.code,
                            die := w.die, xid := w.xid, agent := 0, seq := 0, written := false, answered := false }
      let ring := { s.regs.ring with next := s.regs.ring.next + 1, recs := s.regs.ring.recs ++ [x] }
      let parked := { w'.park with faults := w'.park.faults ++ [s.regs.ring.next] }
      exec (.walkFault u k) s = .next ({ s0 with regs := { s.regs with ring } }.setWarp { w' with park := parked }))) ∧
  (∀ (s : State) (x : FaultRec), s.regs.ring.recs.find? (fun x => !x.written) = some x → s.regs.ring.en = true →
    (s.regs.ring.wrcnt + 2 ^ 32 - s.regs.ring.rdcnt) % 2 ^ 32 ≠ 2 ^ s.regs.ring.log2 → exec .faultRecordWrite s = .next (s.writeRecord x)) ∧
  ∀ (s s1 : State) (u k : Nat) (w : Warp) (g : Group), s.warp? u = some w → w.settleBnds.bnds = [] →
    w.settleBnds.unwalked (w.settleBnds.seq + 1) = false → (w.settleBnds.slot k).mask ≠ 0 →
    ((w.settleBnds.slot k).epc ≠ (w.settleBnds.slot k).pc ∨ ∃ e ∈ w.settleBnds.sq, e.held = true) →
    (s.setWarp w.settleBnds).fetch w.settleBnds k = (.inr (.ok g), s1) → w.settleBnds.selfBound g = true →
    exec (.regionBoundary u k) s = .next (s1.modWarp u fun (x : Warp) =>
      x.boundary (x.seq + 1) k (w.settleBnds.slot k).pc (w.settleBnds.slot k).mask)

/-- R100, R218, R221 to R224, R242 to R246, R263, R268, R270, R271: the lane's window sends its first request that is ready: a load that
hits takes its bytes from the L1's valid sectors, one that misses takes a miss tag and asks the home slice for the missing sectors;
`.CG` and `.NT` loads take dirty sectors from the L1 and the others from the home slice. A warp's oldest store-queue entry,
released, translated and after the warp's earlier loads, performs part by part: on scratchpad thread by thread, in the L1 run by
run, where written sectors become dirty, or through a request to the home slice; a finished part lets the next one perform, and a
finished entry leaves, an atomic's old values going to D. With no tag or slot free nothing is sent.
Which copies hold an entry, whether `.NT` loads hit, and in which parts stores perform are the model's readings (log entries 11,
37, 49). -/
def Obligations.CoreMemorySteps : Prop :=
  (∀ (s : State) (lane : Nat) (before after : List LineReq) (r : LineReq) (w : Warp) (a : Access),
    (look (lane % 16) (s.core (lane / 16)).windows).getD [] = before ++ r :: after → (∀ q ∈ before, s.reqReady q = false) →
    s.warp? r.w = some w → w.accs.find? (fun a => a.id == r.acc) = some a →
    let k := lane / 16
    let line := r.line
    let pl : Phys := ⟨r.tgt, r.line * 128⟩
    let sends := fun (t : State) => exec (.coalesceRequestSend lane) s = .next (window t k (lane % 16) (before ++ after))
    let waits := exec (.coalesceRequestSend lane) s = .next s
    let got := fun (s : State) (data : List Byte) (mask : Nat) => s.modWarp w.uid fun (w : Warp) => fixedFrom w a.id r.va data mask
    let ask := fun (s : State) (tag : Nat) (use : TagUse) (m : Nat) (nt : Bool) =>
      asking s w.core tag use (asked w.core tag w.ctx r.va pl .read m [] nt)
    -- a `.CG` or `.NT` load, or one that finds no room in the L1
    let through := fun (s : State) (nt : Bool) =>
      let (data, dirty) := match s.l1Line? w.core w.ctx r.va with | some l => (l.data, l.dirty) | none => ([], 0)
      let need := smDiff r.sectors dirty
      let s1 := got s data dirty
      (need = 0 → sends s1) ∧
      (need ≠ 0 → (∀ tag, canAsk s1 w.core tag line → sends (ask s1 tag (.through w.uid a.id r.va) need nt)) ∧
        (cannotAsk s1 w.core line → waits))
    -- a `.CA` load
    let cached :=
      (∀ l, s.l1Line? w.core w.ctx r.va = some l →
        let need := smDiff r.sectors l.valid
        let s1 := got (s.l1Put w.core l) l.data l.valid
        (need = 0 → sends s1) ∧
        (need ≠ 0 → (∀ tag, canAsk s1 w.core tag line → sends (ask s1 tag (.fill w.uid a.id w.ctx r.va need true) need false)) ∧
          (cannotAsk s1 w.core line → waits))) ∧
      (s.l1Line? w.core w.ctx r.va = none → ∀ s1,
        (s.makeRoom w.core w.ctx r.va = (.ok, s1) →
          (∀ tag, canAsk s1 w.core tag line → sends (ask s1 tag (.fill w.uid a.id w.ctx r.va r.sectors true) r.sectors false)) ∧
          (cannotAsk s1 w.core line → waits)) ∧
        (s.makeRoom w.core w.ctx r.va = (.bypass, s1) → through s1 false) ∧
        (s.makeRoom w.core w.ctx r.va = (.wait, s1) → waits))
    (∀ size d sx sc, a.kind = .load size sx sc d → s.loadReady w a = true →
      (a.space = .glob → a.co = 0 → cached) ∧
      (a.space = .glob → a.co = 1 → through s false) ∧
      (a.space = .glob → a.co = 2 → (∀ l, s.l1Line? w.core w.ctx r.va = some l → smDiff r.sectors l.valid ≠ 0) → through s true) ∧
      (a.space = .code →
        (∀ bs, s.codeLine w.core r.va = some bs → sends (got s bs 255)) ∧
        (s.codeLine w.core r.va = none →
          (∀ tag, canAsk s w.core tag line → sends (ask s tag (.code (some (w.uid, a.id)) (lineVa r.va) true) 255 false)) ∧
          (cannotAsk s w.core line → waits)))) ∧
    (a.kind = .pref true → (∀ tag, canAsk s w.core tag line → sends (ask s tag (.pref w.uid a.id) 255 false)) ∧
      (cannotAsk s w.core line → sends s))) ∧
  (∀ (s : State) (u : Nat) (w : Warp) (e : SqEntry) (rest : List SqEntry), s.warp? u = some w → w.sq = e :: rest → e.held = false →
    e.busy = false → e.walked = true → e.fault = none → w.loadsFixed e = true → s.passed w e = false →
    let t := e.threads.getD e.next 0
    let xs := e.spans.filter fun x => x.t == t
    let done := fun (e : SqEntry) => ({ e with next := e.next + 1, busy := false } : SqEntry)
    let old := fun (e : SqEntry) (bs : List Byte) => ({ e with spans := e.spans.map fun (x : Span) =>
      if x.t == t then { x with got := ((bs.drop x.at_).take x.len).map some } else x } : SqEntry)
    let performs := fun (t : State) => exec (.storeEntryPerform u) s = .next t
    let waits := performs s
    let busy := fun (t : State) => t.setWarp (w.setEntry { e with busy := true })
    let fills := fun (s1 : State) (va line : Nat) (pl : Phys) (need : Nat) =>
      (∀ tag, canAsk s1 w.core tag line → performs (busy (asking s1 w.core tag (.fill w.uid e.id w.ctx va need true)
        (asked w.core tag w.ctx va pl .read need [] false)))) ∧
      (cannotAsk s1 w.core line → performs s1)
    let through := fun (s1 : State) (va line : Nat) (pl : Phys) (m : Nat) (bytes : List (Nat × Byte)) (nt : Bool) =>
      (∀ tag, canAsk s1 w.core tag line → performs (busy ((asking s1 w.core tag (.stored w.uid e.id w.ctx va)
        (asked w.core tag w.ctx va pl (.write false) m bytes nt)).unkeep w.core w.ctx va))) ∧
      (cannotAsk s1 w.core line → performs s1)
    -- on scratchpad, unless a copy's mark stands on a granule of it
    (∀ k x, e.space = .scr k → xs = [x] →
      let c := s.core k
      let cs := { c with copy := c.copy.filter fun (x : CopyEnt) => !(x.w == w.uid && decide (e.seq < x.seq)) }
      let free := x.meets (Core.writePending cs) = false ∧ x.meets (Core.readPending cs) = false
      (¬free → waits) ∧
      (free → e.kind = .store → performs ((s.setCore k { c with scratch := cellsWrite c.scratch x.va x.data }).setWarp (putBack w (done e)))) ∧
      (free → ∀ op size sc d, e.kind = .atom op size sc d → x.len = size →
        let was := cellsRead c.scratch x.va size
        performs ((s.setCore k { c with
          scratch := cellsWrite c.scratch x.va (leBytes size (op.apply size (leNat was) (leNat x.data))) }).setWarp
            (putBack w (done (old e was)))))) ∧
    -- a `.CA` store: a run of threads in one line
    (∀ x run, e.space = .glob → e.kind = .store → e.co = 0 → (spanRuns e.spans)[e.next]? = some (x :: run) →
      let p := x.phys.getD ⟨0, 0⟩
      let va := lineVa x.va
      let line := p.pa / 128
      let pl : Phys := ⟨p.tgt, line * 128⟩
      let mine := lineBytes (x :: run)
      let all := lineBytes (e.spans.filter fun y => lineVa y.va == va)
      ∀ s1, (s.makeRoom w.core w.ctx va = (.ok, s1) →
          let l := (s1.l1Line? w.core w.ctx va).getD (L1Line.empty w.ctx va)
          let need := smDiff (smDiff (sectorsOf all) (fullSectors all)) l.valid
          (need = 0 → performs ((s1.l1Put w.core { l with
            valid := smOr l.valid (sectorsOf mine), dirty := smOr l.dirty (sectorsOf mine),
            data := patch l.data (runBytes all mine l.valid) }).setWarp (putBack w (done e)))) ∧
          (need ≠ 0 → fills s1 va line pl need)) ∧
        (s.makeRoom w.core w.ctx va = (.bypass, s1) → through s1 va line pl (sectorsOf mine) mine false) ∧
        (s.makeRoom w.core w.ctx va = (.wait, s1) → waits)) ∧
    -- a `.CG` or `.NT` store: a line
    (∀ va p m, e.space = .glob → e.kind = .store → e.co ≠ 0 → (spanLines e.spans)[e.next]? = some (va, p, m) →
      through s va (p.pa / 128) ⟨p.tgt, p.pa / 128 * 128⟩ m (lineBytes (e.spans.filter fun x => lineVa x.va == va)) (e.co == 2)) ∧
    -- an atomic at the home slice, once its line's dirty sectors there are on their way to it and gone from the L1
    (∀ op size sc d x p m, e.space = .glob → e.kind = .atom op size sc d → sc ≠ 1 → xs = [x] → x.phys = some p →
      spanLines xs = [(lineVa x.va, p, m)] →
      let goes := fun (s1 : State) =>
        (∀ tag, canAsk s1 w.core tag (p.pa / 128) → performs (busy (asking s1 w.core tag (.atom w.uid e.id)
          (asked w.core tag w.ctx x.va p (.atom op size [(p, x.len)] x.data) m [] false)))) ∧
        (cannotAsk s1 w.core (p.pa / 128) → performs s1)
      (s.l1Line? w.core w.ctx (lineVa x.va) = none → goes (s.unkeep w.core w.ctx (lineVa x.va))) ∧
      ∀ l, s.l1Line? w.core w.ctx (lineVa x.va) = some l →
        (l.held = true → performs (s.ctxFatal w.ctx w.die (w.core % 128) 0x82 e.fpc.toNat)) ∧
        (l.held = false → s.storing w.core w.ctx (lineVa x.va) = true → waits) ∧
        (l.held = false → s.storing w.core w.ctx (lineVa x.va) = false →
          (Nat.land l.dirty m = 0 → goes (s.l1Invalidate w.core w.ctx (lineVa x.va) m)) ∧
          ∀ k tag s1, Nat.land l.dirty m ≠ 0 → s.writeBack w.core l (Nat.land l.dirty m) = (.sent k tag, s1) →
            goes (s1.l1Invalidate w.core w.ctx (lineVa x.va) m))) ∧
    -- an atomic at `.WG` scope, in the L1
    (∀ op size d x, e.space = .glob → e.kind = .atom op size 1 d → xs = [x] → x.va % 128 + x.len ≤ 128 →
      (∀ l, s.l1Line? w.core w.ctx x.va = some l → (∀ y ∈ spanLines xs, y.1 = lineVa x.va ∧ smDiff y.2.2 l.valid = 0) →
        let was := (l.data.drop (x.va % 128)).take x.len
        let new := (leBytes size (op.apply size (leNat was) (leNat x.data))).take x.len
        let bytes := new.zipIdx.map fun b => (x.va % 128 + b.2, b.1)
        performs ((s.l1Put w.core { l with
          dirty := smOr l.dirty (sectorsOf bytes), data := patch l.data bytes }).setWarp (putBack w (done (old e was))))) ∧
      ∀ p m s1, spanLines xs = [(lineVa x.va, p, m)] →
        let need := smDiff m (match s.l1Line? w.core w.ctx (lineVa x.va) with | some l => l.valid | none => 0)
        need ≠ 0 → s.makeRoom w.core w.ctx (lineVa x.va) = (.ok, s1) →
          fills s1 (lineVa x.va) (p.pa / 128) ⟨p.tgt, p.pa / 128 * 128⟩ need)) ∧
  ∀ (s : State) (core : Nat) (r : HReply) (rest : List HReply) (tg : MissTag), (s.core core).inbox = r :: rest →
    (s.core core).tags.find? (fun t => t.tag == r.tag) = some tg →
    let c := s.core core
    let s1 := s.setCore core { c with inbox := rest, tags := c.tags.filter fun x => x.tag != r.tag }
    let takes := fun (t : State) => exec (.l1Fill core) s = .next t
    let got := fun (s : State) (u id va : Nat) (data : List Byte) (mask : Nat) => s.modWarp u fun (w : Warp) => fixedFrom w id va data mask
    let unbusy := fun (s : State) (u id : Nat) => s.modWarp u fun (w : Warp) =>
      { w with sq := w.sq.map fun (e : SqEntry) => if e.id == id then { e with busy := false } else e }
    let acked := fun (f : FenceRec) => ({ f with wbs := f.wbs.filter fun p => p != (core, r.tag) } : FenceRec)
    let ackedOne := fun (n : Nat) (f : FenceRec) => if f.id == n then acked f else f
    (∀ u id va, tg.use = .through u id va → takes (got s1 u id va r.data r.sectors)) ∧
    (∀ u id ctx va m, tg.use = .fill u id ctx va m true → ∀ s2, s1.makeRoom core ctx va = (.ok, s2) →
      let l := (s2.l1Line? core ctx va).getD (L1Line.empty ctx va)
      let new := smDiff m l.valid
      let l' := { l with valid := smOr l.valid new, data := mergeSectors l.data r.data new }
      lineVa va = va → takes (unbusy (got (got (s2.l1Put core l') u id va l'.data (Nat.land l'.valid m)) u id va r.data m) u id)) ∧
    (∀ u id ctx va m, tg.use = .fill u id ctx va m false → takes (unbusy (got s1 u id va r.data m) u id)) ∧
    (∀ who va keep, tg.use = .code who va keep →
      let c1 := s1.core core
      let s2 := if keep then s1.setCore core { c1 with code := put va r.data c1.code } else s1
      takes (match who with | some x => got s2 x.1 x.2 va r.data 255 | none => s2)) ∧
    (∀ u id, tg.use = .pref u id ∨ tg.use = .dead → takes s1) ∧
    (tg.use = .wback → takes { s1 with warps := s1.warps.map fun (w : Warp) => { w with fences := w.fences.map acked } }) ∧
    (∀ u f, tg.use = .clean u f → takes (s1.modWarp u fun (w : Warp) => { w with fences := w.fences.map (ackedOne f) })) ∧
    ∀ u ent w e, s1.warp? u = some w → w.sq.find? (fun e => e.id == ent) = some e →
      (∀ ctx va, tg.use = .stored u ent ctx va → takes (s1.setWarp (putBack w { e with next := e.next + 1, busy := false }))) ∧
      (tg.use = .atom u ent → takes (s1.setWarp (putBack w { e with
        next := e.next + 1, busy := false
        spans := e.spans.map fun (x : Span) =>
          if x.t == e.threads.getD e.next 0 then { x with got := ((r.data.drop x.at_).take x.len).map some } else x })))

/-- R234, R235, R237 to R241, R243, R245, R250 to R253, R272, R287, R431 to R434: the oldest request to a line is served at its home
slice once its sectors are valid, which base-die reads fill; a write merges its bytes and makes its sectors dirty, an atomic reads
and writes in one step; a write to host or peer memory is accepted and on its way, a read of host memory waits for its PCIe
completion, and a peer that has no route or refuses ends the context. A base die serves one eligible request, none on an idle
stack in the 8 cycles after one has come to its empty queue, merges a write's bytes under its mask, and replies with the status
word. A direct packet takes the warp's lowest free tag, or parks the warp; its reply is written to D and st and frees the tag.
Which requests reach a base die follows log entry 13. -/
def Obligations.HomeAndBaseDieSteps : Prop :=
  (∀ (s : State) (sl idx : Nat) (r : HReq), firstOf s sl idx r →
    let valid := match (s.slice sl).line? r.line with | some l => l.valid | none => 0
    let t := s.dropReq sl idx
    let place : Phys := ⟨r.tgt, r.line * 128⟩
    let serves := fun (t : State) => exec (.homeSliceServe sl idx) s = .next t
    let accepted := fun (wb : Bool) =>
      let t1 : State := { t with env := { t.env with posted := t.env.posted ++
        [{ tgt := r.tgt, line := r.line, bytes := r.bytes, ctx := r.ctx, core := r.core, data1 := t.blame r }] } }
      ((if wb then t1 else t1.patchL1 r.core r.ctx r.va r.bytes).answer sl r r.sectors [])
    let refused := (t.ctxFatal r.ctx (coreDie r.core) (r.core % 128) 0x84 (s.blame r)).answer sl r 0 []
    (r.tgt = 0 → r.kind = .read → smDiff r.sectors valid = 0 →
      let t' := match (t.slice (homeOf r.line)).line? r.line with | some l => t.l2Put l r.nt | none => t
      serves (t'.answer sl r r.sectors (t.homeRead place 128))) ∧
    (r.tgt = 0 → ∀ wb, r.kind = .write wb → smDiff (smDiff (sectorsOf r.bytes) (fullSectors r.bytes)) valid = 0 →
      let t' := t.l2Write r.line r.bytes r.nt
      serves ((if wb then t' else t'.patchL1 r.core r.ctx r.va r.bytes).answer sl r r.sectors [])) ∧
    (r.tgt = 0 → ∀ op size p n opnd, r.kind = .atom op size [(p, n)] opnd → smDiff r.sectors valid = 0 →
      let was := t.homeRead p n
      serves ((t.homeWrite p ((leBytes size (op.apply size (leNat was) (leNat opnd))).take n)).answer sl r r.sectors was)) ∧
    (r.tgt = 0 → r.pending = [] → ∀ need, need ≠ 0 →
      ((r.kind = .read ∨ ∃ op size ps opnd, r.kind = .atom op size ps opnd) ∧ need = smDiff r.sectors valid ∨
        (∃ wb, r.kind = .write wb) ∧ need = smDiff (smDiff (sectorsOf r.bytes) (fullSectors r.bytes)) valid) →
      serves (s.fetchSectors sl idx r need) ∧
      ∀ k, k < 4 → (∀ j, j < 4 → ((bit need (2 * j) || bit need (2 * j + 1)) = true ↔ j = k)) →
        let c := s.slice sl
        serves (((s.setSlice sl { c with rtag := (c.rtag + 1) % 65536 }).sendDie (sliceDie sl)
          { by_ := .slice sl, pa := r.line * 128 + 32 * k, n := 1, write := false, bmask := 0, data := [], passed := 0, rtag := c.rtag,
            rid := 2 ^ 19 * sliceDie sl + sl }).setReq sl idx { r with pending := [c.rtag] })) ∧
    (r.tgt = 0 → ∀ drop, r.kind = .clean drop →
      (r.phase = 0 → serves ((s.cleanLine r drop).setReq sl idx { r with phase := 1 })) ∧
      (r.phase ≠ 0 → s.writing r.line = false → serves ((s.answer sl r 0 []).dropReq sl idx))) ∧
    (r.tgt = 0 → r.kind = .void → serves (t.answer sl r r.sectors [])) ∧
    ((r.tgt = 1 ∨ r.tgt = 2) → (r.kind = .void ∨ ∃ drop, r.kind = .clean drop) → serves (t.answer sl r 0 [])) ∧
    (r.tgt = 1 → (r.kind = .read ∨ ∃ op size ps opnd, r.kind = .atom op size ps opnd) → r.pending = [] →
      let ask : HostReq := { tag := s.env.nextTag, ctx := r.ctx, ask := .slice sl r }
      serves { s.setReq sl idx { r with pending := [s.env.nextTag] } with
        env := { s.env with nextTag := s.env.nextTag + 1, hostReqs := s.env.hostReqs ++ [ask] } }) ∧
    (r.tgt = 1 → ∀ wb, r.kind = .write wb → serves (accepted wb)) ∧
    (r.tgt = 2 → ∀ wb, r.kind = .write wb →
      (s.routed (r.line * 128 / 2 ^ 40 % 64) r.line = true → serves (accepted wb)) ∧
      (s.routed (r.line * 128 / 2 ^ 40 % 64) r.line = false → serves refused)) ∧
    (r.tgt = 2 → r.kind = .read →
      let t1 := t.landAll fun x => x.tgt == 2 && x.line == r.line
      (s.reaches place 0 = true → serves (t1.answer sl r r.sectors (t1.homeRead place 128))) ∧
      (s.reaches place 0 = false → serves refused))) ∧
  (∀ (s : State) (sl : Nat) (r : DieReply) (rest : List DieReply), (s.slice sl).replies = r :: rest →
    let c := s.slice sl
    let s1 := s.setSlice sl { c with replies := rest }
    let waiting := fun (q : HReq) => q.tgt == 0 && q.line == r.pa / 128 && q.pending.contains r.rtag
    ((r.write = true ∨ ∀ q ∈ c.queue, waiting q = false) → exec (.l2MemoryReply sl) s = .next s1) ∧
    (r.write = false → (∃ q ∈ c.queue, waiting q = true) →
      (bit r.status 18 = true → exec (.l2MemoryReply sl) s =
        .next ((((c.queue.filter waiting).map (·.ctx)).eraseDups).foldl
          (fun s x => s.ctxFatal x (sliceDie sl) (stackOf r.pa) 0x81 r.pa) s1)) ∧
      (bit r.status 18 = false →
        let line := r.pa / 128
        let k := r.pa % 128 / 32
        let l := (c.line? line).getD { tgt := 0, line, valid := 0, dirty := 0, data := List.replicate 128 0 }
        let new := smDiff (3 * 4 ^ k) l.valid
        let q := c.queue.map fun (q : HReq) => if waiting q then { q with
          pending := q.pending.filter fun x => x != r.rtag
          ce := if bit r.status 17 then Nat.lor q.ce (2 ^ k) else q.ce } else q
        let l' := { l with valid := smOr l.valid new, data := mergeSectors l.data (List.replicate (32 * k) 0 ++ r.data) new }
        exec (.l2MemoryReply sl) s = .next ((s1.setSlice sl { s1.slice sl with queue := q }).l2Put l' false)))) ∧
  (∀ (s : State) (k : Nat), (bit s.regs.rdyStack k = false ∨ ∃ t, (s.stack k).came = some t ∧ s.now < t + 8) →
    exec (.baseDieService k) s = .next s) ∧
  (∀ (s : State) (k i : Nat) (r : DieReq), bit s.regs.rdyStack k = true → pickDie (s.stack k) = some i → (s.stack k).queue[i]? = some r →
    (∀ t, (s.stack k).came = some t → t + 8 ≤ s.now ∧ s.moreComing k = false) →
    let st := s.stack k
    let q := (st.queue.take i).map (fun (x : DieReq) => { x with passed := x.passed + 1 }) ++ st.queue.drop (i + 1)
    let rows := if q.isEmpty then [] else put (bankOf (stackAddr r.pa)) (rowOfAddr (stackAddr r.pa)) st.rows
    let s1 := s.setStack k { st with queue := q, rows, seq := (st.seq + 1) % 4096, came := none }
    let status := 16 * st.seq + 65536 * (if r.write && r.bmask != 2 ^ 32 - 1 then 1 else 0) + 2 ^ 20 * k
    let rep : DieReply := { rtag := r.rtag, rid := r.rid, pa := r.pa, n := r.n, write := r.write,
                            data := if r.write then [] else cellsRead s.mem r.pa (32 * r.n), status }
    ∃ t : State, (∀ a, s.memWf → cellRead t.mem a =
        if r.write = true ∧ r.pa ≤ a ∧ a < r.pa + 32 ∧ bit r.bmask (a - r.pa) = true then r.data.getD (a - r.pa) 0 else cellRead s.mem a) ∧
      t = { s1 with mem := t.mem } ∧
      (∀ sl, r.by_ = .slice sl → exec (.baseDieService k) s = .next (t.send (stackDie k) (sliceDie sl) (.slice sl rep))) ∧
      ∀ u pkt w, r.by_ = .direct u pkt → s.warp? u = some w →
        exec (.baseDieService k) s = .next (t.send (stackDie k) w.die (.direct u pkt rep))) ∧
  (∀ (st : Stack) (i : Nat) (r : DieReq), st.queue[i]? = some r → eligibleDie st.queue i = true →
    (16 ≤ r.passed → ∃ j q, j ≤ i ∧ pickDie st = some j ∧ st.queue[j]? = some q ∧ 16 ≤ q.passed) ∧
    (∃ j, pickDie st = some j ∧ eligibleDie st.queue j = true) ∧
    let opened := fun (q : DieReq) => look (bankOf (stackAddr q.pa)) st.rows = some (rowOfAddr (stackAddr q.pa))
    ((∀ q ∈ st.queue, q.passed < 16) → opened r → ∃ j q, j ≤ i ∧ pickDie st = some j ∧ st.queue[j]? = some q ∧ opened q) ∧
    ((∀ q ∈ st.queue, q.passed < 16 ∧ ¬opened q) → ∃ j, j ≤ i ∧ pickDie st = some j)) ∧
  (∀ (s : State) (u : Nat) (w : Warp) (e : SqEntry) (rest : List SqEntry) (size st : Nat), s.warp? u = some w → w.sq = e :: rest →
    e.space = .glob → e.kind = .direct size st → e.held = false → e.busy = false → e.walked = true → e.fault = none →
    w.loadsFixed e = true → s.passed w e = false →
    let ps := e.spans.zipIdx.map fun x =>
      ({ id := s.nextId + x.2, acc := e.id, t := x.1.t, write := true, phys := x.1.phys.getD ⟨0, 0⟩, size, data := x.1.data, d := 0, st,
         tag := none, reply := none } : DirPkt)
    exec (.storeEntryPerform u) s = .next ({ s with nextId := s.nextId + ps.length }.setWarp
      { w.setEntry { e with busy := true } with dir := w.dir ++ ps })) ∧
  (∀ (s : State) (u : Nat) (w : Warp) (before after : List DirPkt) (p : DirPkt), s.warp? u = some w → w.dir = before ++ p :: after →
    let leaves := fun (q : DirPkt) => q.tag = none ∧ q.reply = none ∧
      (q.write = true ∨ ∀ a, w.accs.find? (fun a => a.id == q.acc) = some a → ∀ e ∈ w.sq, a.seq ≤ e.seq)
    (∀ q ∈ before, ¬leaves q) → leaves p →
    (∀ t, t < 8 → (∀ q ∈ w.dir, q.tag ≠ some t) → (∀ j, j < t → ∃ q ∈ w.dir, q.tag = some j) →
      let dir := w.dir.map fun (x : DirPkt) => if x.id == p.id then { x with tag := some t } else x
      let more := dir.any fun x => x.acc == p.acc && x.tag.isNone
      exec (.directPacketSend u) s =
        .next ((s.setWarp { w with dir, park := { w.park with tag := w.park.tag && more } }).sendDie w.die
          { by_ := .direct u p.id, pa := p.phys.pa / 32 * 32, n := 1, write := p.write,
            bmask := if p.write then (2 ^ p.size - 1) * 2 ^ (p.phys.pa % 32) else 0,
            data := if p.write then List.replicate (p.phys.pa % 32) 0 ++ p.data ++ List.replicate (32 - p.phys.pa % 32 - p.size) 0 else [],
            passed := 0, rtag := t, rid := 2 ^ 23 + 2 ^ 19 * w.die + w.xid })) ∧
    ((∀ t, t < 8 → ∃ q ∈ w.dir, q.tag = some t) → exec (.directPacketSend u) s = .next s ∧ w.parkedAny = true)) ∧
  ∀ (s : State) (u : Nat) (w : Warp) (p : DirPkt) (data : List Byte) (status tag : Nat), s.warp? u = some w → w.sized = true →
    w.dir.find? (fun p => p.reply.isSome) = some p → p.reply = some (data, status) → p.tag = some tag → p.t < 32 →
    (bit status 18 = true →
      exec (.directReply u) s = .next (s.ctxFatal w.ctx w.die (stackOf p.phys.pa) 0x81 p.phys.pa)) ∧
    (bit status 18 = false → onTime w p.acc →
      let rest := w.dir.filter fun x => x.id != p.id
      ∃ w', exec (.directReply u) s = .next (s.setWarp w') ∧
        w' = { w with v := w'.v, dir := rest, accs := w'.accs, sq := w'.sq, park := { w.park with tag := w.tagWait } } ∧
        ((∃ x ∈ rest, x.acc = p.acc) → w'.accs = w.accs ∧ w'.sq = w.sq) ∧
        ((∀ x ∈ rest, x.acc ≠ p.acc) →
          w'.accs = w.accs.filter (fun a => a.id != p.acc) ∧ w'.sq = w.sq.filter fun e => e.id != p.acc) ∧
        (has w.exited p.t = false → p.st < 63 → w'.reg p.st p.t = BitVec.ofNat 32 (status + tag)) ∧
        (has w.exited p.t = false → p.write = false → p.d + p.size / 4 ≤ 64 → (p.st < p.d ∨ p.d + p.size / 4 ≤ p.st) →
          ∀ i, i < p.size / 4 → p.d + i ≠ 63 →
          w'.reg (p.d + i) p.t = BitVec.ofNat 32 (leNat ((((data.drop (p.phys.pa % 32)).take p.size).drop (4 * i)).take 4))) ∧
        ∀ code th, th < 32 → (has w.exited th = true ∨ th ≠ p.t ∨
          (code ≠ p.st ∧ (p.write = true ∨ code < p.d ∨ p.d + p.size / 4 ≤ code))) → w'.reg code th = w.reg code th)

namespace Sys2Proof.Claims

/-- Slot `k` of warp `u` waits for nothing any more. -/
def woken (s : State) (u k : Nat) : State := s.modWarp u fun (w : Warp) => { w with slots := w.slots.set k { w.slot k with wait := none } }
/-- The result of access `id` of warp `u` stands ready to be written (R22). -/
def resulted (s : State) (u id : Nat) (wr : List RegWrite) : State :=
  s.modWarp u fun (w : Warp) => { w with accs := w.accs.map fun (a : Access) => if a.id == id then { a with kind := .result wr, walked := true } else a }
/-- Fence `f` in the place of the fence of its number; fences with no part left are gone (R256, R303). -/
def fenced (s : State) (w : Warp) (f : FenceRec) : State := (s.setWarp (w.setFence f)).modWarp w.uid Warp.dropDone
/-- What a release part comes to, `goes t` being that its step gives `t` (R257, R259, R303, R434): it lists the dirty lines, unless
one stands held, writes them back, waits for the acknowledgements, and at `.SYS` for a zero-length read of host memory and for the
writes to peers that are on their way. -/
def Releases (s : State) (w : Warp) (f : FenceRec) (goes : State → Prop) : Prop :=
  let none_ := f.scope ≤ 1 ∨ (f.scope = 2 ∧ s.fusedAt w.core = true)
  let fatal := fun (s : State) => (s.ctxFatal w.ctx w.die (w.core % 128) 0x82 f.fpc.toNat).modWarp w.uid Warp.dropDone
  let held := ∃ p ∈ s.l1Lines w.core, p.2.held = true
  (f.started = false → 2 ≤ f.scope → held → goes (fatal s)) ∧
  (f.started = false → (f.scope < 2 ∨ ¬held) →
    (none_ → goes (fenced s w { f with started := true, todo := [], wbs := s.wbTags w.core })) ∧
    (¬none_ → goes (fenced s w { f with
      started := true, wbs := s.wbTags w.core
      todo := ((s.l1Lines w.core).filter fun p => p.2.dirty != 0).map fun p => (p.1, p.2.ctx, p.2.va) }))) ∧
  (f.started = true → f.todo ≠ [] →
    (∀ g t, s.runTodo w.core f.todo f = (some g, t) →
      goes ((t.modWarp w.uid fun (w : Warp) => w.setFence g).modWarp w.uid Warp.dropDone)) ∧
    ∀ t, s.runTodo w.core f.todo f = (none, t) → goes (fatal t)) ∧
  (f.started = true → f.todo = [] → f.wbs = [] →
    (f.scope ≠ 5 → goes (fenced s w { f with relDone := true })) ∧
    (f.scope = 5 → f.zlr = 0 →
      let ask : HostReq := { tag := s.env.nextTag, ctx := w.ctx, ask := .fence w.uid f.id }
      goes (fenced { s with env := { s.env with nextTag := s.env.nextTag + 1, hostReqs := s.env.hostReqs ++ [ask] } } w
        { f with zlr := 1 })) ∧
    (f.scope = 5 → f.zlr = 2 → (∀ x ∈ s.env.posted, x.tgt ≠ 2) → goes (fenced s w { f with relDone := true })))
/-- Is it a member device's part of the quarry (R435)? And `f` done to each of those parts. -/
def ofQuarry (q : Quarry) (m : Member) : Bool := q.members.contains m.dev && m.lgid == q.lgid && m.n == q.n
def onMembers (s : State) (q : Quarry) (f : Member → Member) : State :=
  { s with env := { s.env with members := s.env.members.map fun m => if ofQuarry q m then f m else m } }
/-- What shard 288 x (devid + 1) + cluster of the member devices holds on chip of the quarry (R436). -/
def farPart (s : State) (q : Quarry) (v : Nat) : Shard :=
  let tasks := fun (m : Member) => (m.chip.filter fun t => t.1 == v % 288).map fun t => { t.2 with q := q.id }
  { Shard.empty with chip := (s.env.members.filter (ofQuarry q)).flatMap fun m => if m.dev == v / 288 - 1 then tasks m else [] }
/-- Those tasks gone from it; a task back in it, as its newest (R374, R436). -/
def leftFar (s : State) (q : Quarry) (v : Nat) (got : List QTask) : State :=
  onMembers s q fun m => if m.dev == v / 288 - 1 then
    { m with chip := m.chip.filter fun t => !(t.1 == v % 288 && got.contains { t.2 with q := q.id }) } else m
def returnedFar (s : State) (q : Quarry) (k : Task) : State :=
  let t : QTask := ⟨q.id, k.pay, k.key, k.slot, s.nextId⟩
  onMembers { s with nextId := s.nextId + 1 } q fun m =>
    if m.dev == k.home / 288 - 1 then { m with chip := m.chip ++ [(k.home % 288, t)] } else m

end Sys2Proof.Claims

/-- R223, R256, R257, R259, R261, R262, R277, R303, R434: the acquire part of a fence waits for earlier loads, an `.SC` one for its own
release part too, and invalidates the L1's clean sectors, none at `.WG` nor in a fused cache at `.GANG`; its release part, or
FENCE.XP's, waits for earlier stores, lists the dirty lines, writes them back and waits for their acknowledgements. CINV and CWB
act line by line after earlier stores: a dirty line is written back, CINV drops it, and `.L2` has the home slice do the same; they
end when all is acknowledged. -/
def Obligations.FenceSteps : Prop :=
  (∀ (s : State) (u : Nat) (w : Warp) (f : FenceRec) (rest : List FenceRec), s.warp? u = some w → w.fences = f :: rest → f.what = 0 →
    (f.acqDone = false → w.loadsOpen f.seq = false → (f.order ≠ 3 ∨ f.relDone = true) →
      let kept := f.scope ≤ 1 ∨ (f.scope = 2 ∧ s.fusedAt w.core = true)
      let next := fun (s : State) => (s.modWarp u fun (w : Warp) => w.setFence { f with acqDone := true }).modWarp u Warp.dropDone
      (kept → exec (.fenceComplete u) s = .next (next s)) ∧
      (¬kept → exec (.fenceComplete u) s = .next (next (s.l1Acquire w.core)))) ∧
    ((f.acqDone = true ∨ f.order = 3) → f.relDone = false → w.loadsOpen f.seq = false → w.storesOpen f.seq = false →
      w.maintOpen f.seq = false → f.zlr ≠ 1 → Releases s w f fun t => exec (.fenceComplete u) s = .next t)) ∧
  (∀ (s : State) (u : Nat) (w : Warp) (f : FenceRec), s.warp? u = some w → w.fences.find? (fun f => f.what == 3) = some f →
    (w.storesOpen f.seq = true → exec (.fenceXpComplete u) s = .next s) ∧
    (w.storesOpen f.seq = false → Releases s w f fun t => exec (.fenceXpComplete u) s = .next t)) ∧
  -- the lines that are listed, one after another
  (∀ (s : State) (core k ctx va : Nat) (rest : List (Nat × Nat × Nat)) (f : FenceRec),
    s.runTodo core [] f = (some { f with todo := [] }, s) ∧
    ((∀ l, s.l1Line? k ctx va = some l → l.dirty = 0) →
      s.runTodo core ((k, ctx, va) :: rest) f = s.runTodo core rest { f with wbs := (f.wbs ++ s.wbTags core).eraseDups }) ∧
    ∀ l, s.l1Line? k ctx va = some l → l.dirty ≠ 0 →
      (s.storing k ctx va = true → s.runTodo core ((k, ctx, va) :: rest) f = (some { f with todo := (k, ctx, va) :: rest }, s)) ∧
      (s.storing k ctx va = false → ∀ s1,
        (∀ k' t, s.writeBack k l l.dirty = (.sent k' t, s1) →
          s.runTodo core ((k, ctx, va) :: rest) f = s1.runTodo core rest { f with wbs := f.wbs ++ [(k', t)] }) ∧
        (s.writeBack k l l.dirty = (.noTag, s1) →
          s.runTodo core ((k, ctx, va) :: rest) f = (some { f with todo := (k, ctx, va) :: rest }, s1)) ∧
        (s.writeBack k l l.dirty = (.fault, s1) → s.runTodo core ((k, ctx, va) :: rest) f = (none, s1)))) ∧
  -- a write-back of the sectors `m` of a line
  (∀ (s s1 : State) (k m : Nat) (l : L1Line),
    let k' := s.l1Core k l.va
    (∀ p, s.wbPlace k' l.ctx l.va = (some p, s1) →
      (∀ t, canAsk s1 k' t (p.pa / 128) → s.writeBack k l m = (.sent k' t,
        (asking s1 k' t .wback (asked k' t l.ctx l.va p (.write true) m (sectorBytes l.data m) false)).l1Put k
          { l with dirty := smDiff l.dirty m, held := false })) ∧
      (cannotAsk s1 k' (p.pa / 128) → s.writeBack k l m = (.noTag, s1))) ∧
    (s.wbPlace k' l.ctx l.va = (none, s1) → s.writeBack k l m = (.fault, s1.l1Put k { l with held := true }))) ∧
  ∀ (s : State) (u : Nat) (w : Warp) (f : FenceRec) (acc : Option Access), s.warp? u = some w →
    w.fences.find? (fun f => f.what == 1 || f.what == 2) = some f → w.storesOpen f.seq = false →
    (match f.acc with | none => none | some id => w.accs.find? fun a => a.id == id) = acc → (∀ a, acc = some a → a.walked = true) →
    (f.started = false →
      exec (.cacheMaintComplete u) s = .next (s.setWarp (w.setFence { f with
        started := true, wbs := s.wbTags w.core,
        todo := if f.all then (s.l1Lines w.core).map fun p => (p.1, p.2.ctx, p.2.va) else f.lines.map fun va => (w.core, w.ctx, va) }))) ∧
    (f.started = true → ∀ k ctx va rest, f.todo = (k, ctx, va) :: rest →
      -- what follows the L1's part: the home slice's, for `.L2`
      let then_ := fun (t : State) (f : FenceRec) =>
        let dropped := if f.what = 1 then t.l1Invalidate k ctx va 255 else t
        let ends := fun (t : State) (f : FenceRec) =>
          exec (.cacheMaintComplete u) s = .next (t.modWarp u fun (w : Warp) => w.setFence f)
        match acc.bind fun a => a.spans.find? fun x => lineVa x.va == va with
        | none => ends dropped { f with todo := rest }
        | some x =>
          let p := x.phys.getD ⟨0, 0⟩
          let pl : Phys := ⟨p.tgt, p.pa / 128 * 128⟩
          (∀ tag, canAsk dropped w.core tag (p.pa / 128) →
            ends (asking dropped w.core tag (.clean w.uid f.id) (asked w.core tag w.ctx va pl (.clean (f.what == 1)) 0 [] false))
              { f with wbs := f.wbs ++ [(w.core, tag)], todo := rest }) ∧
          (cannotAsk dropped w.core (p.pa / 128) → ends dropped f)
      ((∀ l, s.l1Line? k ctx va = some l → l.dirty = 0) → then_ s f) ∧
      ∀ l, s.l1Line? k ctx va = some l → l.dirty ≠ 0 →
        (s.storing k ctx va = true → exec (.cacheMaintComplete u) s = .next s) ∧
        (s.storing k ctx va = false → ∀ s1,
          (∀ k' t, s.writeBack k l l.dirty = (.sent k' t, s1) → then_ s1 { f with wbs := f.wbs ++ [(k', t)] }) ∧
          (s.writeBack k l l.dirty = (.noTag, s1) → exec (.cacheMaintComplete u) s = .next s1) ∧
          (s.writeBack k l l.dirty = (.fault, s1) →
            exec (.cacheMaintComplete u) s = .next (s1.ctxFatal w.ctx w.die (w.core % 128) 0x82 f.fpc.toNat)))) ∧
    (f.started = true → f.todo = [] → f.wbs = [] → exec (.cacheMaintComplete u) s = .next (s.setWarp { w with
      fences := w.fences.filter fun x => x.id != f.id
      accs := match f.acc with | some id => w.accs.filter fun a => a.id != id | none => w.accs }))

namespace Sys2Proof.Claims

/-- Tile `p` of the matrix engine of cluster `cl` holds this element (R306). -/
def tileAt (s : State) (cl p r c : Nat) : Word := ((s.mx cl).tile p).get r c
/-- What a command's rows take for group `g` where no block is ill-formed (R57, R58, R315): each owned row's elements are the exact sums
with the group's products, rounded once or wrapped, the flags of the roundings are added to the tile's, and other rows stay. -/
def GroupApplied (s : State) (cl : Nat) (e : MxEntry) (g : Nat) (av bv : Nat → List Fv) (t : State) : Prop :=
  let A := opA e.blk e.a
  let B := opB e.blk e.b
  let acc := fld (blkW e.blk 0) 16 2
  let mode := Rm.of (fld (blkW e.blk 0) 18 2)
  let keeps := fun (p : Nat) => ∀ r c, r ∉ e.rows → c < 64 → tileAt t cl p r c = tileAt s cl p r c
  let flagged := fun (p : Nat) (fl : Nat → Nat → Nat) => ∀ (i b : Nat), (i, b) ∈ [(0, 0), (1, 2), (2, 3), (3, 4)] →
    (bit ((t.mx cl).tile p).flags i = true ↔ bit ((s.mx cl).tile p).flags i = true ∨ ∃ r ∈ e.rows, ∃ c < 64, bit (fl r c) b = true)
  ∃ fl : Nat → Nat → Nat,
    (acc = 1 → ∀ p, e.tiles = [p] → keeps p ∧ ∀ r ∈ e.rows, ∀ c < 64, tileAt t cl p r c =
      BitVec.ofInt 32 ((tileAt s cl p r c).toInt + (((s.mxInts A r g).zip (s.mxInts B c g)).map fun x => x.1 * x.2).sum)) ∧
    (acc ≠ 1 → acc ≠ 2 → ∀ p, e.tiles = [p] → keeps p ∧ flagged p fl ∧ ∀ r ∈ e.rows, ∀ c < 64,
      IsDot .fp32 mode ((av r).zip (bv c)) (Fp.fp32.decode (tileAt s cl p r c).toNat) False ((tileAt t cl p r c).toNat, fl r c)) ∧
    (acc = 2 → ∀ p p', e.tiles = [p, p'] → p ≠ p' → keeps p ∧ keeps p' ∧ flagged p fl ∧ ∀ r ∈ e.rows, ∀ c < 64,
      IsDot .fp64 mode ((av r).zip (bv c)) (Fp.fp64.decode ((tileAt s cl p r c).toNat + 2 ^ 32 * (tileAt s cl p' r c).toNat)) False
        ((tileAt t cl p r c).toNat + 2 ^ 32 * (tileAt t cl p' r c).toNat, fl r c))

end Sys2Proof.Claims

/-- R291 to R296, R298, R300: a copy makes its reads and then its writes line by line, each after the operations of earlier entries that
touch its bytes at the same place, and after its warp's earlier scratchpad stores. A line on scratchpad is read or written then; a global
one is translated and goes to its home slice with a miss tag, a fault parking the entry; the reply ends the operation, with the
participants whose bytes had a corrected error. When every write has performed the statuses are written and the entry leaves.
R316 to R322, R325, R327, R328, R462: the matrix engine drops ready commands of a tile that a format fault stopped, chooses the aged
or else the highest ready command and those that join it, and applies group after group under a token: an owned row's elements are the
exact sums with the group's products, rounded once, and an ill-formed block stops its command. MXZERO clears its tile, MXACQ binds
one, MXREL returns it, MXOWN flips the bits, MXWAIT reports or traps, row accesses follow older entries of their rows. A token goes to a
waiting station, moves on from others, and leaves after a burst; tokens are added and retired there. Corners of the matrix engine
follow log entry 17. -/
def Obligations.EngineSteps : Prop :=
  (∀ (s : State) (core n : Nat) (e : CopyEnt) (write : Bool) (i : Nat) (o : CopyOp),
    (s.core core).copy.find? (fun e => e.num == n) = some e → e.nextOp = some (write, i, o) → e.fault = none → e.parked = none →
    (o.glob = false → ∀ w, s.warp? e.w = some w → ∀ x ∈ w.sq, x.seq < e.seq → ∀ n, x.space ≠ .scr n) →
    let meets := fun (p : CopyOp) => ∃ x ∈ p.parts, ∃ y ∈ o.parts, x.2.1 < y.2.1 + y.2.2 ∧ y.2.1 < x.2.1 + x.2.2
    let held := ∃ x ∈ (s.core core).copy.takeWhile (fun e => e.num != n), ∃ p ∈ x.writes ++ (if write then x.reads else []),
      p.state ≠ 2 ∧ meets p ∧ s.opSpot core x p = s.opSpot core e o
    let does := fun (t : State) => exec (.copyLineOperation core n) s = .next t
    (held → does s) ∧
    (¬held → o.glob = false →
      (write = false → does (s.modCopy core n fun (e : CopyEnt) => e.opDone i false (cellsRead (s.core core).scratch o.base 128) 0)) ∧
      (write = true → does (((e.bytesFor o).foldl (fun s b => s.scrWrite core (o.base + b.1) [b.2]) s).modCopy core n fun (e : CopyEnt) =>
        e.opDone i true [] 0))) ∧
    (¬held → o.glob = true → ∀ th off len rest s1, o.parts = (th, off, len) :: rest →
      let asks := fun (x : WalkRes) => s.access (some core) (coreCluster core) (coreDie core) e.ctx (o.base + off)
        (if write then .copyWrite else .copyRead) e.priv true = (x, s1)
      (∀ p wr x base size, asks (.ok p wr x base size) →
        (∀ tag, canAsk s1 core tag (p.pa / 128) →
          does ((asking s1 core tag (.copy core n i write) (asked core tag e.ctx o.base ⟨p.tgt, p.pa / 128 * 128⟩
            (if write then .write true else .read) o.sectors (if write then e.bytesFor o else []) false)).modCopy core n fun (e : CopyEnt) =>
              e.started i write)) ∧
        (cannotAsk s1 core (p.pa / 128) → does s1)) ∧
      (∀ cause, asks (.fault cause) → does (s1.modCopy core n fun (e : CopyEnt) => { e with fault := some (cause, o.base + off, write) })) ∧
      (asks .perm → does (s1.ctxFatal e.ctx (coreDie core) (core % 128) 13 e.fpc.toNat)))) ∧
  -- the bytes that come with the end of an operation, and the corrected codewords
  (∀ (e : CopyEnt) (i : Nat) (line : List Byte) (ce : Nat) (o : CopyOp),
    let ended := fun (o : CopyOp) => ({ o with state := 2 } : CopyOp)
    let noted := fun (e' : CopyEnt) => ∀ th, th < 32 → (has e'.ce th = true ↔ has e.ce th = true ∨ ∃ p ∈ o.parts, p.1 = th ∧
      ∃ k < 4, bit ce k = true ∧ p.2.1 < 32 * k + 32 ∧ 32 * k < p.2.1 + p.2.2)
    (e.writes[i]? = some o → let e' := e.opDone i true line ce
      e' = { e with ce := e'.ce, writes := e.writes.modify i ended } ∧ noted e') ∧
    (e.reads[i]? = some o → let e' := e.opDone i false line ce
      e' = { e with
        ce := e'.ce, reads := e.reads.modify i ended, data := e.data ++ o.parts.map fun p => (p.1, (line.drop p.2.1).take p.2.2) } ∧ noted e')) ∧
  (∀ (s : State) (core n i : Nat) (write : Bool) (r : HReply) (rest : List HReply) (tg : MissTag), (s.core core).inbox = r :: rest →
    (s.core core).tags.find? (fun t => t.tag == r.tag) = some tg → tg.use = .copy core n i write →
    let c := s.core core
    exec (.l1Fill core) s = .next ((s.setCore core { c with inbox := rest, tags := c.tags.filter fun x => x.tag != r.tag }).modCopy core n
      fun (e : CopyEnt) => e.opDone i write r.data r.ce)) ∧
  (∀ (s : State) (core n cause va : Nat) (write : Bool) (e : CopyEnt), (s.core core).copy.find? (fun e => e.num == n) = some e →
    e.fault = some (cause, va, write) → s.regs.ring.en = true →
    let x : FaultRec := { id := s.regs.ring.next, ctx := e.ctx, who := .copy core n, va, cause, kind := if write then 5 else 4, die := coreDie core,
                          xid := 512 * (coreCluster core % 32), agent := 1, seq := 0, written := false, answered := false }
    let ring := { s.regs.ring with next := s.regs.ring.next + 1, recs := s.regs.ring.recs ++ [x] }
    exec (.copyTranslationFault core n) s = .next ({ s with regs := { s.regs with ring } }.modCopy core n fun (e : CopyEnt) =>
      { e with fault := none, parked := some s.regs.ring.next })) ∧
  (∀ (s : State) (core n : Nat) (e : CopyEnt), (s.core core).copy.find? (fun e => e.num == n) = some e →
    ((∃ o ∈ e.writes, o.state ≠ 2) → exec (.copyRetire core n) s = .next s) ∧
    ((∀ o ∈ e.writes, o.state = 2) →
      let c := s.core core
      let ts := e.writes.flatMap fun o => o.parts.map fun p => p.1
      let status := fun (t : Nat) => BitVec.ofNat 32 (e.sz + 4 * e.dir + 16 * (if has e.ce t then 1 else 0) + 256 * e.num + 2 ^ 31)
      exec (.copyRetire core n) s =
        .next ((s.setCore core { c with copy := c.copy.filter fun x => x.num != n }).modWarp e.w fun (w : Warp) =>
          let w' := w.reply e.acc [.v e.d (ts.map fun t => (t, status t))]
          { w' with accs := w'.accs.filter fun a => a.id != e.acc }))) ∧
  -- readiness, what a format fault drops, the leader and those that join it
  (∀ (m : Matrix) (e : MxEntry), m.ready e = true ↔
    (∀ x ∈ m.entries, x.num < e.num → (∃ p ∈ x.tiles, p ∈ e.tiles) → ∀ r ∈ x.rows, r ∉ e.rows) ∧
    ∀ x ∈ m.rws, x.num < e.num → x.tile ∈ e.tiles → ∀ i ∈ x.items, i.2.1 ∉ e.rows) ∧
  (∀ (m : Matrix) (e : MxEntry), e ∈ m.readyCmds ↔ e ∈ m.entries ∧ e.zero = false ∧ m.ready e = true ∧ e.ctx ∉ m.halted) ∧
  (∀ m : Matrix,
    let m' := m.dropFaulted
    let stopped := fun (e : MxEntry) => ∃ p ∈ e.tiles, (m.tile p).fdf ≠ none
    m' = { m with entries := m'.entries } ∧ List.Sublist m'.entries m.entries ∧ (∀ e ∈ m'.readyCmds, ¬stopped e) ∧
    ∀ e ∈ m.entries, e ∉ m'.entries → ∃ x ∈ m.entries, x.num = e.num ∧ x.zero = false ∧ stopped x) ∧
  (∀ (es : List MxEntry) (l : MxEntry), leaderOf es = some l → ∃ before after, es = before ++ l :: after ∧
    (16 ≤ l.missed ∧ (∀ x ∈ before, x.missed < 16) ∨
      (∀ x ∈ es, x.missed < 16) ∧ (∀ x ∈ before, x.prio < l.prio) ∧ ∀ x ∈ after, x.prio ≤ l.prio)) ∧
  (∀ (l e : MxEntry) (es : List MxEntry) (n : Nat),
    let joins := e.num ≠ l.num ∧ e.b = l.b ∧ (∀ i, i < 8 → i ≠ 2 → i ≠ 3 → i ≠ 6 → blkW e.blk i = blkW l.blk i) ∧ n + e.rows.length ≤ 64
    gatherPass l [] n = [] ∧ (joins → gatherPass l (e :: es) n = e :: gatherPass l es (n + e.rows.length)) ∧
    (¬joins → gatherPass l (e :: es) n = gatherPass l es n)) ∧
  (∀ (s : State) (cl : Nat) (l : MxEntry), (s.mx cl).run = none → leaderOf (s.mx cl).dropFaulted.readyCmds = some l →
    let m := (s.mx cl).dropFaulted
    let ns := (l :: gatherPass l m.readyCmds l.rows.length).map fun e => e.num
    exec (.mxPassSelect cl) s = .next (s.setMx cl { m with
      run := some ns,
      entries := m.entries.map fun (e : MxEntry) =>
        if e.num ∈ ns then { e with missed := 0 }
        else if e.num ∈ m.readyCmds.map (fun e => e.num) then { e with missed := e.missed + 1 } else e })) ∧
  -- groups: the next of a command, the least of a pass, and what one does
  (∀ (s : State) (e : MxEntry) (g : Nat),
    let bits := fun (x : MxOp) (k : Nat) => x.bm = false ∨
      bit (cellRead (s.core x.loc.core).scratch (tilePlace x.loc.tiles (x.bmb + k / 8))).toNat (k % 8) = true
    let both := fun (k : Nat) => bits (opA e.blk e.a) k ∧ bits (opB e.blk e.b) k
    s.nextGroup e = some g ↔ e.next ≤ g ∧ g < blkKg e.blk ∧ both g ∧ ∀ k, e.next ≤ k → k < g → ¬both k) ∧
  (∀ (s : State) (cl g tok : Nat), s.stepGroup cl = some g → (s.mx cl).tok = some tok → (s.mx cl).burst < 4096 →
    (∀ e ∈ (s.mx cl).members, ∀ k, s.nextGroup e = some k → g ≤ k) ∧
    let t := ((s.mx cl).members.filter fun e => s.nextGroup e == some g).foldl (fun s e => s.mxApply cl e g) s
    exec (.mxStep cl) s = .next (t.setMx cl { t.mx cl with burst := (s.mx cl).burst + 1 })) ∧
  (∀ (s : State) (x : MxOp) (r g : Nat), x.fmt < 8 → x.len = 0 → x.bm = false →
    s.mxVals x r g = some ((List.range x.grp).map fun j => (fpOf x.fmt).decode (leNat ((List.range (memWidth x.fmt / 8)).map fun k =>
      cellRead (s.core x.loc.core).scratch
        (tilePlace x.loc.tiles (x.loc.off + (r * (x.grp * x.kg) + g * x.grp + j) * (memWidth x.fmt / 8) + k)))))) ∧
  (∀ (s : State) (cl : Nat) (e : MxEntry) (g : Nat),
    let m := s.mx cl
    let t := s.mxApply cl e g
    let fp := fld (blkW e.blk 0) 16 2 ≠ 1
    let av := fun (r : Nat) => s.mxVals (opA e.blk e.a) r g
    let bv := fun (c : Nat) => s.mxVals (opB e.blk e.b) c g
    let goesOn := fun (m : Matrix) (k : Nat) =>
      ({ m with entries := m.entries.map fun (x : MxEntry) => if x.num == e.num then { e with next := k } else x } : Matrix)
    let stops := fun (p : Nat) (side : Bool) => t = s.setMx cl (goesOn (m.setTile p { m.tile p with fdf := some (side, g) }) (blkKg e.blk))
    (∀ p rest, e.tiles = p :: rest → fp → ∀ r ∈ e.rows, av r = none → stops p false) ∧
    (∀ p rest, e.tiles = p :: rest → fp → (∀ r ∈ e.rows, av r ≠ none) → ∀ c < 64, bv c = none → stops p true) ∧
    ((fp → (∀ r ∈ e.rows, av r ≠ none) ∧ ∀ c < 64, bv c ≠ none) →
      (t.mx cl).entries = (goesOn m (g + 1)).entries ∧ GroupApplied s cl e g (fun r => (av r).getD []) (fun c => (bv c).getD []) t)) ∧
  (∀ (s : State) (cl : Nat) (ns : List Nat), (s.mx cl).run = some ns → s.stepGroup cl = none →
    exec (.mxPassComplete cl) s =
      .next (s.setMx cl { s.mx cl with entries := (s.mx cl).entries.filter fun e => !ns.contains e.num, run := none })) ∧
  (∀ (s : State) (cl p : Nat) (e : MxEntry), (s.mx cl).entries.find? (fun e => e.zero && (s.mx cl).ready e && !(s.mx cl).halted.contains e.ctx) = some e →
    e.tiles = [p] →
    let m := { s.mx cl with entries := (s.mx cl).entries.filter fun x => x.num != e.num }
    exec (.mxzeroRun cl) s = .next (s.setMx cl (m.setTile p { m.tile p with flags := 0, fdf := none, elems := [] }))) ∧
  -- waits
  (∀ (s : State) (u k n p : Nat) (w : Warp) (g : Gang), s.warp? u = some w → (w.slot k).wait = some (.mxacq n) → s.gang? w.gang = some g →
    (g.share.filter fun p => !g.names.any fun x => x.2 == p).head? = some p → look n g.names = none → g.names.length < g.lrec.atiles →
    exec (.mxacqBind u k) s =
      .next (woken ((s.setMx w.cluster ((s.mx w.cluster).setTile p { ctx := w.ctx, held := true, flags := 0, fdf := none, elems := [] })).modGang g.uid
        fun (g : Gang) => { g with names := put n p g.names }) u k)) ∧
  (∀ (s : State) (u k n id p : Nat) (w : Warp), s.warp? u = some w → s.mxName w n = some p →
    let m := s.mx w.cluster
    let busy := (∃ e ∈ m.entries, e.num < id ∧ p ∈ e.tiles) ∨ ∃ r ∈ m.rws, r.num < id ∧ r.tile = p
    let st := m.status p
    ((w.slot k).wait = some (.mxrel n id) →
      (busy → exec (.mxrelReturn u k) s = .next s) ∧
      (¬busy → exec (.mxrelReturn u k) s = .next (woken ((s.setMx w.cluster { m with tiles := del p m.tiles }).modGang w.gang
        fun (g : Gang) => { g with names := del n g.names }) u k))) ∧
    ∀ d, (w.slot k).wait = some (.mxwait n d id) →
      (busy → exec (.mxwaitReport u k) s = .next s) ∧
      (¬busy → bit st 6 = false → exec (.mxwaitReport u k) s = .next (woken (resulted s u id [.s d (BitVec.ofNat 32 st)]) u k)) ∧
      -- a format data fault is cleared and raised, unless the form's chain is still being issued
      ∀ a, ¬busy → bit st 6 = true → w.accs.find? (fun a => a.id == id) = some a → a.slot = k →
        (∀ c ∈ s.issue, c.uid = u → c.slot ≠ k) → (∀ c ∈ s.paused, c.1.uid = u → c.1.slot ≠ k) →
        let w1 := w.reply id [.s d (BitVec.ofNat 32 st)]
        let w2 := (w1.dropAccess id).settleBnds
        let sl := w1.slot k
        let tr : TrapReq := { cls := 8, mask := a.parts, fpc := a.fpc, npc := a.npc, rpc := a.npc, bpc := a.npc, word := a.wslot, va := 0,
                              info := st, replay := false, seq := a.seq }
        exec (.mxwaitReport u k) s = .next (((s.setMx w.cluster (m.setTile p { m.tile p with fdf := none })).setWarp (w2.setSlot k { sl with
          wait := none, epc := sl.prev, emask := sl.mask, trap := some (sl.trap.getD tr) })).takeTrap u k)) ∧
  (∀ (s : State) (u k core id : Nat) (eng : Bool) (tiles : List Nat) (w : Warp), s.warp? u = some w → (w.slot k).wait = some (.mxown eng core tiles id) →
    let c := s.core core
    let rest := c.engine.filter fun t => !tiles.contains t
    let cl := s.cluster w.cluster
    let may := (∀ g ∈ c.writePending ++ c.readPending, g / 256 ∉ tiles) ∧
      (eng = true → ∀ e ∈ w.sq, e.id < id → ∀ n, e.space ≠ .scr n) ∧
      (eng = false → (∀ e ∈ cl.mx.entries, ∀ p ∈ e.used, p.1 = core → p.2 ∉ tiles) ∧
        ∀ e ∈ cl.qd.cursors, ∀ p ∈ e.tiles, p.1 = core → p.2 ∉ tiles)
    (may → exec (.mxownFlip u k) s = .next (woken (s.setCore core { c with engine := if eng then rest ++ tiles else rest }) u k)) ∧
    (¬may → exec (.mxownFlip u k) s = .next s)) ∧
  (∀ (s : State) (u k id : Nat) (w : Warp) (r : MxRw), s.warp? u = some w → (w.slot k).wait = some (.mxrw id) →
    (s.mx w.cluster).rws.find? (fun r => r.num == id) = some r →
    let m := { s.mx w.cluster with rws := (s.mx w.cluster).rws.filter fun x => x.num != id }
    let t := (s.mx w.cluster).tile r.tile
    let waits := (∃ e ∈ (s.mx w.cluster).entries, e.num < id ∧ r.tile ∈ e.tiles ∧ ∃ i ∈ r.items, i.2.1 ∈ e.rows) ∨
      ∃ x ∈ (s.mx w.cluster).rws, x.w = u ∧ x.num < id
    (waits → exec (.mxRowAccess u k) s = .next s) ∧
    (¬waits → r.write = true → exec (.mxRowAccess u k) s = .next (woken (s.setMx w.cluster (m.setTile r.tile (r.writes t))) u k)) ∧
    (¬waits → r.write = false → exec (.mxRowAccess u k) s =
      .next (resulted (woken (s.setMx w.cluster m) u k) u id (wordWrites r.d r.n (r.items.map fun i =>
        (i.1, (List.range r.n).map fun j => t.get i.2.1 (i.2.2 + j))))))) ∧
  (∀ (t : MxTile) (r c c' r' : Nat) (v : Word), c < 64 → c' < 64 →
    (t.set r c v).get r' c' = (if r' = r ∧ c' = c then v else t.get r' c')) ∧
  -- tokens
  (∀ (s : State) (die tok st : Nat), look tok (s.die die).ring = some st → s.holderOf die tok = none →
    let cl := 32 * die + st
    let waits := (s.mx cl).tok = none ∧ s.wantsToken cl = true
    (waits → exec (.tokenArrive die tok) s = .next (s.setMx cl { s.mx cl with tok := some tok, burst := 0 })) ∧
    (¬waits → exec (.tokenIdleMove die tok) s = .next (s.setDie die { s.die die with
      ring := (s.die die).ring.map fun p => if p.1 == tok then (p.1, (p.2 + 1) % 32) else p }))) ∧
  ∀ (s : State) (cl tok : Nat), (s.mx cl).tok = some tok →
    (((s.mx cl).burst < 4096 ∧ s.wantsToken cl = true) → exec (.burstEnd cl) s = .next s) ∧
    ((4096 ≤ (s.mx cl).burst ∨ s.wantsToken cl = false) →
      let d := clusterDie cl
      let n := (s.die d).ring.length
      let s1 := s.setMx cl { s.mx cl with tok := none, burst := 0 }
      let moved := (s.die d).ring.map fun p => if p.1 == tok then (p.1, (p.2 + 1) % 32) else p
      (n = (s.die d).target → exec (.burstEnd cl) s = .next (s1.setDie d { s1.die d with ring := moved })) ∧
      (n < (s.die d).target → ∃ added : List (Nat × Nat), added.length = (s.die d).target - n ∧ (∀ p ∈ added, p.2 = 0 ∧ ∀ q ∈ moved, q.1 ≠ p.1) ∧
        (added.map fun p => p.1).Nodup ∧
        exec (.burstEnd cl) s = .next ((s1.setDie d { s1.die d with ring := moved ++ added }).boreTokens d n)) ∧
      ((s.die d).target < n → exec (.burstEnd cl) s =
        .next ((s1.setDie d { s1.die d with ring := (s1.die d).ring.filter fun p => p.1 != tok }).boreTokens d n)))

namespace Sys2Proof.Claims

/-- The command has left the engine of cluster `cl`; its form is over (R340); the cursor `x` in the place of the one of its name. -/
def cmdGone (cl : Nat) (c : QdCmd) (s : State) : State := s.setQd cl { s.qd cl with cmds := (s.qd cl).cmds.filter fun x => x.id != c.id }
def formOver (cl : Nat) (c : QdCmd) (s : State) : State :=
  (woken (cmdGone cl c s) c.w c.slot).modWarp c.w fun (w : Warp) => ({ w with accs := w.accs.filter fun a => a.id != c.id } : Warp).settleBnds
def withCursor (cl : Nat) (x : Cursor) (s : State) : State := s.setQd cl { s.qd cl with
  cursors := (s.qd cl).cursors.map fun y => if y.gang == x.gang && y.name == x.name then x else y }
/-- The trap of a command at its form (R347, R348). -/
def cmdTrap (cl : Nat) (c : QdCmd) (a : Access) (cls va info : Nat) (s : State) : State := (cmdGone cl c s).engineTrap c.w a cls a.parts va info c.word false
/-- What a command that could not be answered comes to, `goes t` being that its step gives `t` (R347, R348, R431). -/
def Unanswered {β : Type} (cl : Nat) (c : QdCmd) (a : Access) (x : Cursor) (r : QRun β × State) (goes : State → Prop) : Prop :=
  let s := r.2
  (∀ side unit, r.1 = .order side unit → goes (cmdTrap cl c a 6 0 ((if side then 1 else 0) + 2 ^ 32 * unit) (withCursor cl { x with oflt := some (side, unit) } s))) ∧
  (∀ cause va, r.1 = .fault cause va → goes (s.setCmd cl { c with fault := some (cause, va, 6) })) ∧
  (∀ va, r.1 = .perm va → goes (cmdTrap cl c a 13 va 6 s)) ∧
  (r.1 = .wait → goes s) ∧
  (r.1 = .link → goes (s.ctxFatal c.ctx (coreDie c.core) (c.core % 128) 0x84 a.fpc.toNat))
/-- Task `b` comes before task `a` in the order of R363: a lower bench, or the same and queued earlier. -/
def comesBefore (q : Quarry) (b a : QTask) : Prop := q.bench b.key < q.bench a.key ∨ q.bench b.key = q.bench a.key ∧ b.stamp < a.stamp
/-- What a task's slot held when it was spilled, and what a task does that becomes queued or goes home (R355, R360, R374, R436). -/
def spilledAs (t : QTask) : SpTask := { q := t.q, key := t.key, slot := t.slot, stamp := t.stamp }
def reread (s : State) (q : Quarry) (cl : Nat) (t : SpTask) : QTask :=
  let bs := s.homeRead (q.slotPhys cl t.slot) 12
  { q := t.q, pay := leNat (bs.take 8), key := leNat (bs.drop 8), slot := t.slot, stamp := t.stamp }
def queued (s : State) (q : Quarry) (k : Task) : State :=
  { s with nextId := s.nextId + 1 }.placeTask q k.home { q := q.id, pay := k.pay, key := k.key, slot := k.slot, stamp := s.nextId }
def goesHome (q : Quarry) (s : State) (k : Task) : State := if k.home < 288 then queued s q k else returnedFar s q k
/-- The quarry's tasks that a victim holds on chip (R364, R436). -/
def victimOf (s : State) (q : Quarry) (v : Nat) : Shard := if v < 288 then s.shard v else farPart s q v

end Sys2Proof.Claims

/-- R335, R337, R340 to R342, R345, R347, R348, R431: the coordinate engine serves a command that nothing earlier on its cursor holds:
with its results its wait ends; on an unbound name it traps, as a binding does on a bound one or an ill-formed record; lines are
translated as they are first read, and a command that cannot be answered traps, waits or parks on its record.
R355, R359 to R367, R371 to R375, R377, R435, R436: a shard queues a push, which lowers the VIEWs above it and spills what then lies
outside a window, refills a spilled task by the key its slot holds, and serves commands core by core: a pop from its own tasks in
reach first, lowest bench and oldest first, then by steals of up to half of a victim's, once the victim's own cores wait for nothing;
under a stop what it has gathered goes home. QYDONE and QYYIELD end the participants' tasks, QYINIT checks its descriptor, and with
address 0 retires a quiet quarry; a floor wave raises every VIEW to the floor; the second of two passes that find every shard empty
and no push between them makes the quarry quiet, and ends the waits for that. A linked quarry's parts on other devices count too (log
entry 34). The order in which shards serve cores at first and the corners of the coordinate engine follow log entries 14, 15 and 51. -/
def Obligations.CoordinateAndWorklistSteps : Prop :=
  (∀ (s : State) (cl idx : Nat) (c : QdCmd) (w : Warp) (a : Access), (s.qd cl).cmds[idx]? = some c → s.cmdAccess c = some (w, a) →
    s.qdTurn cl idx c w a = true →
    let q := s.qd cl
    let does := fun (t : State) => exec (.qdCommandServe cl idx) s = .next t
    let lost := does (s.ctxFatal c.ctx (coreDie c.core) (c.core % 128) 0x84 a.fpc.toNat)
    let may := ∀ sp ∈ a.spans, s.reaches (sp.phys.getD ⟨0, 0⟩) 1 = true
    ((c.kind = .close ∨ c.kind = .save ∨ (∃ d, c.kind = .probe d) ∨ (∃ d sb pq, c.kind = .next d sb pq) ∨ ∃ crd, c.kind = .split crd) →
      q.find c.gang c.name = none → does (cmdTrap cl c a 1 0 0 s)) ∧
    (∀ x, q.find c.gang c.name = some x →
      (c.kind = .close → does (formOver cl c ((s.setQd cl { q with
        cursors := q.cursors.filter fun y => !(y.gang == x.gang && y.name == x.name) }).unpinAll cl x.ctx x.pins))) ∧
      (∀ sp, c.kind = .save → a.spans = [sp] →
        (may → does (formOver cl c (withCursor cl { x with oflt := none } (s.cgWrite c.core c.ctx sp.va (sp.phys.getD ⟨0, 0⟩) x.cr.bytes)))) ∧
        (¬may → lost)) ∧
      (∀ d sb pq, c.kind = .next d sb pq →
        let r := s.qdRun cl x.ctx a.priv x.la x.lb (fun q => q.deliver qTurns (threads a.parts).length x.cr []) x.cr.lines []
        Unanswered cl c a x r does ∧
        ∀ o, r.1 = .ok o → does (resulted (woken (cmdGone cl c (withCursor cl { x with cr := o.1, exh := o.2.2, oflt := none } r.2)) c.w c.slot)
          c.w c.id (nextWrites d sb pq a.parts o))) ∧
      (∀ crd, c.kind = .split crd →
        let r := s.qdRun cl x.ctx a.priv x.la x.lb (fun q => q.split x.cr crd a.spans.length) x.cr.lines []
        Unanswered cl c a x r does ∧
        ∀ rs, r.1 = .ok rs → (∀ sp ∈ a.spans, r.2.reaches (sp.phys.getD ⟨0, 0⟩) 1 = true) →
          does (formOver cl c (withCursor cl { x with oflt := none } ((a.spans.zip rs).foldl
            (fun t p => t.cgWrite c.core c.ctx p.1.va (p.1.phys.getD ⟨0, 0⟩) p.2.bytes) r.2)))) ∧
      (∀ d, c.kind = .probe d → (∀ y ∈ x.cr.streams, y.sp = true) →
        let y := { x with pins := [], prb := false, plim := false }
        does (resulted (woken (cmdGone cl c (withCursor cl { y with oflt := none } (withCursor cl y (s.unpinAll cl x.ctx x.pins)))) c.w c.slot)
          c.w c.id [.s d 0x80000]))) ∧
    ∀ sp, (c.kind = .openCur false ∨ c.kind = .openCur true ∨ c.kind = .load) → a.spans = [sp] →
      let p := sp.phys.getD ⟨0, 0⟩
      (16 ≤ q.cursors.length → does s) ∧
      (q.cursors.length < 16 → s.reaches p 0 = false → lost) ∧
      (q.cursors.length < 16 → s.reaches p 0 = true → ∀ s1,
        (s.hostCame c.ctx [p] = (false, s1) → does s1) ∧
        (s.hostCame c.ctx [p] = (true, s1) →
          does ((s1.fillAt p 64).qdBind cl c w a (s1.homeRead p 64) (c.kind == .load) (c.kind == .openCur true))))) ∧
  -- a binding, whose streams are global ones
  (∀ (s : State) (cl : Nat) (c : QdCmd) (w : Warp) (a : Access) (bs : List Byte) (load probe : Bool),
    let r := curOf bs load
    let x : Cursor := { ctx := c.ctx, gang := c.gang, name := c.name, cr := r, oflt := none, pins := [], prb := false, plim := false,
                        exh := false, tiles := [], la := none, lb := none, again := false, parked := none }
    let gives := fun (t : State) => s.qdBind cl c w a bs load probe = t
    ((s.qd cl).find c.gang c.name ≠ none → gives (cmdTrap cl c a 1 0 0 s)) ∧
    ((s.qd cl).find c.gang c.name = none → curBad bs load = true → gives (cmdTrap cl c a 8 0 0 s)) ∧
    ((s.qd cl).find c.gang c.name = none → curBad bs load = false → ∀ y, r.streams.find? (fun y => y.start % y.align != 0) = some y →
      gives (cmdTrap cl c a 3 y.start 6 s)) ∧
    ((s.qd cl).find c.gang c.name = none → curBad bs load = false → probe = false → (∀ y ∈ r.streams, y.sp = false ∧ y.start % y.align = 0) →
      gives (formOver cl c (s.setQd cl { s.qd cl with cursors := (s.qd cl).cursors ++ [x] })))) ∧
  -- a run through streams: each line that is missing is translated once
  (∀ (s : State) (cl ctx : Nat) (priv : Bool) (la lb : Option MxLoc) (f : QView → Except QErr QOut) (n : Nat) (tr : List (Nat × Phys)),
    let runs := s.qdRun cl ctx priv la lb f (n + 1) tr
    (∀ o, f ⟨s, tr, la, lb⟩ = .ok o → runs = (.ok o, s.hostUsed ctx (tr.map fun l => l.2))) ∧
    (∀ side unit, f ⟨s, tr, la, lb⟩ = .error (.order side unit) → runs = (.order side unit, s.hostUsed ctx (tr.map fun l => l.2))) ∧
    ∀ va s1, f ⟨s, tr, la, lb⟩ = .error (.need va) →
      (∀ cause, s.access none cl (clusterDie cl) ctx va .index priv true = (.fault cause, s1) → runs = (.fault cause va, s1)) ∧
      (s.access none cl (clusterDie cl) ctx va .index priv true = (.perm, s1) → runs = (.perm va, s1)) ∧
      ∀ p wr ex base size, s.access none cl (clusterDie cl) ctx va .index priv true = (.ok p wr ex base size, s1) →
        (s1.reaches p 0 = false → runs = (.link, s1)) ∧
        (s1.reaches p 0 = true → ∀ s2, (s1.hostSeen ctx [p] = (false, s2) → runs = (.wait, s2)) ∧
          (s1.hostSeen ctx [p] = (true, s2) → runs = (s2.fillAt p 128).qdRun cl ctx priv la lb f n (put va p tr)))) ∧
  (∀ (s : State) (cl idx cause va kind : Nat) (c : QdCmd), (s.qd cl).cmds[idx]? = some c → c.fault = some (cause, va, kind) → s.regs.ring.en = true →
    let x : FaultRec := { id := s.regs.ring.next, ctx := c.ctx, who := .coord cl c.id, va, cause, kind, die := clusterDie cl,
                          xid := 512 * (cl % 32), agent := 2, seq := 0, written := false, answered := false }
    let ring := { s.regs.ring with next := s.regs.ring.next + 1, recs := s.regs.ring.recs ++ [x] }
    exec (.qdStreamFault cl idx) s = .next ({ s with regs := { s.regs with ring } }.setCmd cl { c with fault := none, parked := some s.regs.ring.next })) ∧
  -- pushes, and where a queued task stands
  (∀ (s : State) (u id : Nat) (w : Warp) (e : SqEntry) (rest : List SqEntry) (ts : List Task) (k : Task) (q : Quarry), s.warp? u = some w →
    w.sq = e :: rest → e.kind = .push id ts → e.busy = true → ts[e.next]? = some k → s.quarryId? id = some q →
    let w' := if e.next + 1 < ts.length then w.setEntry { e with next := e.next + 1 } else { w with sq := w.sq.filter fun x => x.id != e.id }
    let t := s.setWarp w'
    let t := if q.bench k.key < t.view k.home q.id then t.lowerViews q (q.bench k.key) else t
    exec (.pushComplete u) s = .next ((queued t q k).setQuarry { q with quiet := false, pushes := q.pushes + 1 })) ∧
  (∀ (s : State) (q : Quarry) (b cl : Nat), cl < 288 →
    let t := s.lowerViews q b
    t.view cl q.id = min (s.view cl q.id) b ∧
    (b < s.view cl q.id → (∀ x ∈ (t.shard cl).chip, x ∈ (s.shard cl).chip ∧ (x.q = q.id → b ≤ q.bench x.key ∧ q.bench x.key < b + 64)) ∧
      ∀ x ∈ (s.shard cl).chip, x ∈ (t.shard cl).chip ∨ spilledAs x ∈ (t.shard cl).spilled)) ∧
  (∀ (s : State) (q : Quarry) (cl : Nat) (t : QTask),
    let x := s.shard cl
    let inside := s.view cl q.id ≤ q.bench t.key ∧ q.bench t.key < s.view cl q.id + 64
    let spill := fun (s : State) (t : QTask) =>
      let s := s.homeWrite (q.slotPhys cl t.slot) (leBytes 8 t.pay ++ leBytes 4 t.key ++ leBytes 4 0)
      s.setShard cl { s.shard cl with spilled := (s.shard cl).spilled ++ [spilledAs t] }
    let onChip := fun (s : State) => s.setShard cl { s.shard cl with chip := (s.shard cl).chip ++ [t] }
    let higher := fun (u : QTask) => u ∈ x.chip ∧ u.q = q.id ∧ q.bench t.key < q.bench u.key
    (¬inside → s.placeTask q cl t = spill s t) ∧
    (inside → x.chip.length < 4096 → s.placeTask q cl t = onChip s) ∧
    (inside → 4096 ≤ x.chip.length → (∀ u, ¬higher u) → s.placeTask q cl t = spill s t) ∧
    (inside → 4096 ≤ x.chip.length → (∃ u, higher u) → ∃ v, higher v ∧ (∀ u, higher u → ¬comesBefore q v u) ∧
      s.placeTask q cl t = onChip (spill (s.setShard cl { x with chip := x.chip.filter fun u => u != v }) v))) ∧
  (∀ (s : State) (cl : Nat) (q : Quarry) (t : SpTask), s.nextRefill cl = some (q, t) →
    (t ∈ (s.shard cl).spilled ∧ s.quarryId? t.q = some q ∧ s.view cl q.id ≤ q.bench t.key ∧ q.bench t.key < s.view cl q.id + 64 ∧ ∀ t' ∈ (s.shard cl).spilled, ∀ q', s.quarryId? t'.q = some q' →
      s.view cl q'.id ≤ q'.bench t'.key → q'.bench t'.key < s.view cl q'.id + 64 →
        q.bench t.key ≤ q'.bench t'.key ∧ (q.bench t.key = q'.bench t'.key → t.stamp ≤ t'.stamp)) ∧
    (4096 ≤ (s.shard cl).chip.length → exec (.spoilRefill cl) s = .next s) ∧
    ((s.shard cl).chip.length < 4096 →
      let s1 := s.fillAt (q.slotPhys cl t.slot) 12
      exec (.spoilRefill cl) s = .next ((s1.setShard cl { s1.shard cl with
        spilled := (s1.shard cl).spilled.filter fun u => u != t }).placeTask q cl (reread s q cl t)))) ∧
  -- commands at a shard
  (∀ (s : State) (u id : Nat) (w : Warp) (a : Access), s.warp? u = some w → w.accs.find? (fun a => a.id == id) = some a → w.shardTurn a.seq = true →
    let far := fun (x : Warp) => (x.core + 3 - (s.shard w.cluster).last) % 4
    let turn := ∀ x ∈ s.warps, x.cluster = w.cluster → far x < far w → ∀ b ∈ x.accs, x.atShard b = false
    let serves := fun (t : State) => exec (.popServe u id) s = .next (t.setShard w.cluster { t.shard w.cluster with last := w.core % 4 })
    let ended := fun (q : Quarry) => s.modWarp u fun (w : Warp) => { w with
      accs := w.accs.filter fun a => a.id != id, tasks := w.tasks.filter fun k => !(k.q == q.id && has a.parts k.thread) }
    (∀ n q, a.kind = .shard (.done n) → s.quarry? w.ctx n = some q → (turn → serves (ended q)) ∧ (¬turn → exec (.popServe u id) s = .next s)) ∧
    (∀ n n' q, a.kind = .shard (.giveBack n n') → s.quarry? w.ctx n = some q → turn →
      serves (((threads a.parts).flatMap fun t => w.tasks.filter fun k => k.q == q.id && k.thread == t).foldl (goesHome q) (ended q))) ∧
    (∀ n d, a.kind = .shard (.quiet n d) → (∀ sl ∈ w.slots, sl.wait ≠ some (.quiet n d id)) → turn →
      serves (resulted s u id [.s d (s.quietWord w n)])) ∧
    (∀ d n adr, a.kind = .qyinit d n adr → a.fault = none →
      let status := fun (t : State) (st : Nat) => exec (.popServe u id) s = .next ((resulted t u id [.s d (BitVec.ofNat 32 st)]).modWarp u Warp.settleBnds)
      (adr = 0 → (s.quarry? w.ctx n = none → status s 4) ∧
        ∀ q, s.quarry? w.ctx n = some q → (q.quiet = true → status (s.retireQuarry q.id) 4) ∧ (q.quiet = false → status s 1)) ∧
      (adr ≠ 0 → ∀ p wr ex base size s1 s2, s.access (some w.core) w.cluster w.die w.ctx adr .load a.priv true = (.ok p wr ex base size, s1) →
        s1.reaches p 0 = true → s1.hostCame w.ctx [p] = (true, s2) →
          exec (.popServe u id) s = .next ((s2.fillAt p 32).qyInit w a d n (s2.cgRead w.core w.ctx adr p 32)))) ∧
    (∀ n d sb pq q, a.kind = .shard (.pop n d sb pq [] [] none) → s.quarry? w.ctx n = some q → turn →
      let ts := (threads a.parts).filter fun t => !w.tasks.any fun k => k.q == q.id && k.thread == t
      let r := s.popOwn w.cluster q ⟨n, d, sb, pq, ts, [], none⟩
      (w.stop = true → serves (s.popDeliver u id a ⟨n, d, sb, pq, [], [], none⟩ true q.quiet)) ∧
      (w.stop = false → serves (r.2.popGoOn w a q r.1 q.quiet 0)))) ∧
  -- a descriptor that QYINIT has read
  (∀ (s : State) (w : Warp) (a : Access) (d n : Nat) (bs : List Byte),
    let ends := fun (t : State) (st : Nat) =>
      s.qyInit w a d n bs = (resulted t w.uid a.id [.s d (BitVec.ofNat 32 st)]).modWarp w.uid Warp.settleBnds
    (quarryOf bs w.ctx n = none → ends s 2) ∧
    ∀ q, quarryOf bs w.ctx n = some q →
      (∀ o, s.quarry? w.ctx n = some o → o.quiet = false → ends s 1) ∧
      (s.quarry? w.ctx n = none → 16 ≤ s.quarries.length → ends s 3) ∧
      (s.quarry? w.ctx n = none → s.quarries.length < 16 → q.link = false → ∀ ls s1 lg,
        s.leaves (some w.core) w.cluster w.ctx .store a.priv (q.spbase + 288 * q.seg * 16 - 1) (288 * q.seg * 16 / 32768 + 2) q.spbase []
          = (.inr ls, s1) → (∀ l ∈ ls, l.2.2.1.tgt = 0) → (match look w.ctx s1.ctxs with | some c => (c.lgid, c.ldev) | none => (0, 0)) = lg →
        ends { s1 with nextId := s1.nextId + 1, quarries := s1.quarries ++
          [{ q with id := s1.nextId, pages := ls.map fun l => (l.1, l.2.1, l.2.2.1.pa), lgid := lg.1, ldev := lg.2, members := [] }] } 0)) ∧
  -- pops
  (∀ (x : Shard) (q : Quarry) (reach : Nat), (x.within q reach).Perm (x.chip.filter fun t => t.q == q.id && decide (q.bench t.key ≤ reach)) ∧
    (x.within q reach).Pairwise fun a b => ¬comesBefore q b a) ∧
  (∀ (s : State) (cl : Nat) (q : Quarry) (p : Pop),
    let reach := s.view cl q.id + q.span
    let x := s.shard cl
    let again := (x.spilled.filter fun t => t.q == q.id && decide (q.bench t.key ≤ reach)).map (reread s q cl)
    let found := (({ x with chip := x.chip ++ again } : Shard).within q reach).take (p.takers.length - p.got.length)
    (s.popOwn cl q p).1 = { p with got := p.got ++ found.map fun t => ⟨t.q, 0, t.pay, t.key, cl, t.slot⟩ }) ∧
  (∀ cl j, cl < 288 → j < 287 →
    (victims cl)[j]? = some (if j < 31 then 32 * (cl / 32) + (cl + j + 1) % 32 else 32 * ((cl / 32 + (j - 31) / 32 + 1) % 9) + (j - 31) % 32)) ∧
  (∀ (s : State) (cl i v j : Nat) (q : Quarry), s.popNext cl q i = some (v, j) →
    i ≤ j ∧ (s.victimsOf cl q)[j]? = some v ∧ (victimOf s q v).within q (s.view cl q.id + q.span) ≠ [] ∧
    ∀ j' v', i ≤ j' → j' < j → (s.victimsOf cl q)[j']? = some v' → (victimOf s q v').within q (s.view cl q.id + q.span) = []) ∧
  (∀ (s : State) (w : Warp) (a : Access) (q : Quarry) (p : Pop) (quiet : Bool) (i : Nat),
    let more := p.got.length < p.takers.length ∧ s.popNext w.cluster q i ≠ none
    (w.stop = true → s.popGoOn w a q p quiet i =
      (p.got.foldl (goesHome q) s).popDeliver w.uid a.id a { p with takers := [], got := [] } true quiet) ∧
    (w.stop = false → ¬more → s.popGoOn w a q p quiet i = s.popDeliver w.uid a.id a p false quiet) ∧
    (w.stop = false → more → s.popGoOn w a q p quiet i = s.setPop w.uid a.id { p with at_ := some (quiet, i) })) ∧
  (∀ (s : State) (u id : Nat) (a : Access) (p : Pop) (yield quiet : Bool),
    let ps := p.takers.zip p.got
    s.popDeliver u id a p yield quiet = resulted (s.modWarp u fun (w : Warp) =>
        { w with tasks := w.tasks ++ (ps.filter fun x => has w.live x.1).map fun x => { x.2 with thread := x.1 } }) u id
      (wordWrites p.d 3 (ps.map fun x => (x.1, [BitVec.ofNat 32 x.2.pay, BitVec.ofNat 32 (x.2.pay / 2 ^ 32), BitVec.ofNat 32 x.2.key])) ++
        [.s p.sb (BitVec.ofNat 32 (ps.length + (if yield then 2 ^ 30 else 0) + if quiet then 2 ^ 31 else 0))] ++
        (match p.pq with | some n => [.p n a.parts (maskOf (ps.map fun x => x.1))] | none => []))) ∧
  (∀ (s : State) (u id v j i : Nat) (quiet : Bool) (w : Warp) (a : Access) (p : Pop) (q : Quarry), s.warp? u = some w →
    w.accs.find? (fun a => a.id == id) = some a → a.pop = some p → p.at_ = some (quiet, i) → s.quarry? w.ctx p.n = some q →
    s.popNext w.cluster q i = some (v, j) →
    let asked := v < 288 ∧ ∃ x ∈ s.warps, x.cluster = v ∧ ∃ b ∈ x.accs, x.atShard b = true
    let c := (victimOf s q v).within q (s.view w.cluster q.id + q.span)
    let got := c.take (min (p.takers.length - p.got.length) ((c.length + 1) / 2))
    let s1 := if v < 288 then s.setShard v { s.shard v with chip := (s.shard v).chip.filter fun t => !got.contains t } else leftFar s q v got
    let p1 := { p with got := p.got ++ got.map fun t => ⟨t.q, 0, t.pay, t.key, v, t.slot⟩ }
    (asked → exec (.steal u id v) s = .next s) ∧
    (¬asked → exec (.steal u id v) s = .next ((s1.setPop u id p1).popGoOn w a q p1 quiet (j + 1)))) ∧
  (∀ (s : State) (ctx n f : Nat) (q : Quarry), s.quarry? ctx n = some q → s.floorOf q = some f →
    ∃ t, exec (.floorWave ctx n) s = .next t ∧ t = onMembers { s with clusters := t.clusters } q (fun m => { m with view := max m.view f }) ∧
      (∀ cl, cl < 288 → t.view cl q.id = max (s.view cl q.id) f) ∧
      ∀ cl, (t.cluster cl).mx = (s.cluster cl).mx ∧ (t.shard cl).chip = (s.shard cl).chip ∧ (t.shard cl).spilled = (s.shard cl).spilled) ∧
  (∀ (s : State) (ctx n : Nat) (q : Quarry), s.quarry? ctx n = some q →
    let far := s.env.members.filter (ofQuarry q)
    let empty := (∀ p ∈ s.clusters, p.2.shard.keys q.id = []) ∧ s.inFlight q.id = [] ∧ s.inTransit q.id = [] ∧
      ∀ m ∈ far, m.chip = [] ∧ m.rest = [] ∧ m.transit = false
    let count := q.pushes + (far.map (·.pushes)).sum
    let next := fun (q' : Quarry) => { s with quarries := s.quarries.map fun x => if x.id == q.id then q' else x }
    (¬empty → exec (.terminationPass ctx n) s = .next (next { q with pass := none })) ∧
    (empty → q.pass = some count → exec (.terminationPass ctx n) s = .next (next { q with quiet := true })) ∧
    (empty → q.pass ≠ some count → exec (.terminationPass ctx n) s = .next (next { q with pass := some count }))) ∧
  ∀ (s : State) (u k n d id : Nat) (w : Warp) (a : Access), s.warp? u = some w → (w.slot k).wait = some (.quiet n d id) →
    w.accs.find? (fun a => a.id == id) = some a →
    (w.shardTurn a.seq = true → s.quietWord w n ≠ 0 → exec (.quietWaitRelease u k) s = .next (woken (resulted s u id [.s d (s.quietWord w n)]) u k)) ∧
    (w.shardTurn a.seq = false ∨ s.quietWord w n = 0 → exec (.quietWaitRelease u k) s = .next s)

namespace Sys2Proof.Claims

/-- Queue `q`'s block with `x` in it. -/
def inQueue (s : State) (q : Nat) (x : Queue) : State := { s with disp := { s.disp with queues := s.disp.queues.set q x } }
/-- Channel `k` with `c` in it. -/
def inChan (s : State) (k : Nat) (c : Chan) : State := { s with chans := s.chans.set k c }
/-- The step `i` stands for the host's write of `v`, `size` bytes at BAR0 offset `off`, which comes to `taken` when its block is ready
and no write held earlier can be taken; else it is held, and a full list does not accept it (R452). Nothing is written while
the device sleeps or has no power (R461). -/
def HostWrites (s : State) (i : Instr) (off size v : Nat) (taken : State) : Prop :=
  let b := (blockOf off).1
  let now := b.early = true ∨ s.blockReady b = true ∧ ∀ x ∈ s.regs.heldW, s.blockReady (blockOf x.1).1 = false
  (s.regs.power ≠ 0 → exec i s = .next s) ∧
  (s.regs.power = 0 → now → exec i s = .next taken) ∧
  (s.regs.power = 0 → ¬now → 256 ≤ s.regs.heldW.length → exec i s = .next s) ∧
  (s.regs.power = 0 → ¬now → s.regs.heldW.length < 256 →
    exec i s = .next { s with regs := { s.regs with heldW := s.regs.heldW ++ [(off, size, v)] } })
/-- A TAIL that is taken gives the launches between the counts their lnchids (R201, R205). -/
def tailMoves (s : State) (q : Nat) (x : Queue) (v : Nat) : State :=
  let n := (v + 2 ^ 32 - x.tail) % 2 ^ 32
  let t := inQueue s q { x with tail := v, ids := x.ids ++ (List.range n).map fun k => (s.disp.nextLnch + k) % 2 ^ 32 }
  { t with disp := { t.disp with nextLnch := (s.disp.nextLnch + n) % 2 ^ 32 } }

end Sys2Proof.Claims

/-- R142, R158, R159, R188, R197 to R214, R441: the dispatcher reads a head record and its wait signals, chooses a candidate whose gang
fits, and places that gang at the first place in search order; a launch whose gangs have ended writes its lines back, releases at
`.SYS` and adds 1 to its signal. TAIL writes are taken within the ring, EN is set only on a legal ring; LNCH submits its records in
ascending thread. A lane releases the warp that its pool can hold, spills the youngest when all are parked, and restores; a warp that
is over leaves its lane and the last of a gang ends it.
Orders that R188 and R199 to R213 leave open follow log entry 16. -/
def Obligations.DispatchSteps : Prop :=
  (∀ (s : State) (q : Nat), s.regs.rdyHost = true → (s.queue q).en = true → (s.queue q).stopped = false →
    (s.queue q).head % 2 ^ 32 ≠ (s.queue q).tail % 2 ^ 32 → (s.queue q).head < 2 ^ 32 → q < 64 →
    let x := s.queue q
    let does := fun (t : State) => exec (.headRecordRead q) s = .next t
    (s.regs.ctxcnt ≤ x.ctx → does (inQueue s q { x with rflt := true })) ∧
    (x.ctx < s.regs.ctxcnt → x.cur ≠ none → does s) ∧
    (x.ctx < s.regs.ctxcnt → x.cur = none →
      let gone := { x with head := (x.head + 1) % 2 ^ 32, cur := none, met := [], ready := none, skip := 0, ids := x.ids.drop 1 }
      let reads := fun (r : WalkRes) (t : State) => (s.readCtx x.ctx).2.dispAccess x.ctx ((x.rbase + 64 * (x.head % 2 ^ x.rlog2)) % 2 ^ 64) .load = (r, t)
      (∀ r s1, reads r s1 → (∀ p w e b z, r ≠ .ok p w e b z) → does (inQueue s1 q { gone with rflt := true })) ∧
      ∀ p w e b z s1, reads (.ok p w e b z) s1 →
        (s1.reaches p 0 = false → does (s1.ctxFatal x.ctx 0 0 0x84 p.pa)) ∧
        (s1.reaches p 0 = true → ∀ s2, s1.hostCame x.ctx [p] = (false, s2) → does s2) ∧
        (s1.reaches p 0 = true → ∀ s2, s1.hostCame x.ctx [p] = (true, s2) →
          let r := lrecOf (s2.homeRead p 64)
          let t := s2.fillAt p 64
          let l : Launch := { id := x.ids.headD 0, queue := q, ctx := x.ctx, count := x.head, lrec := r, placed := 0, ended := 0, cores := [],
                              abandoned := false }
          let headed := inQueue { t with disp := { t.disp with launches := t.disp.launches ++ [l] } } q
            { x with cur := some l.id, met := [], ready := none, ids := x.ids.drop 1 }
          (r.good (s.readCtx x.ctx).1 = false → does (inQueue t q { gone with ill := true })) ∧
          (r.good (s.readCtx x.ctx).1 = true → does (if r.conds = [] then headed.makeReady q else headed))))) ∧
  (∀ (s : State) (q id : Nat) (l : Launch), s.regs.rdyHost = true → (s.queue q).en = true → (s.queue q).stopped = false →
    (s.queue q).cur = some id → (s.queue q).ready = none → s.launch? id = some l → (s.queue q).ctx < s.regs.ctxcnt →
    let x := s.queue q
    let c := (s.readCtx x.ctx).1
    let does := fun (t : State) => exec (.waitSignalRead q) s = .next t
    let places := (s.readCtx x.ctx).2.signalPlaces x.ctx c.sigbase (l.lrec.conds.filter fun w => !x.met.contains w.1)
    (∀ s1, places = (none, s1) → does (inQueue s1 q { x with sflt := true })) ∧
    ∀ ps s1, places = (some ps, s1) →
      (∀ p, ps.find? (fun p => !s1.reaches p.2.2 0) = some p → does (s1.ctxFatal x.ctx 0 0 0x84 p.2.2.pa)) ∧
      ((∀ p ∈ ps, s1.reaches p.2.2 0 = true) → ∀ ks s2, s1.readSignals x.ctx ps = (ks, s2) →
        let met := x.met ++ ks
        ((∃ w ∈ l.lrec.conds, w.1 ∉ met) → does (inQueue s2 q { x with met })) ∧
        ((∀ w ∈ l.lrec.conds, w.1 ∈ met) → does ((inQueue s2 q { x with met }).makeReady q)))) ∧
  (∀ (s s1 s2 : State) (ctx k v : Nat) (p : Phys) (rest : List (Nat × Nat × Phys)) (here : Bool) (ks : List Nat), s.hostCame ctx [p] = (here, s1) →
    (s1.fillAt p 8).readSignals ctx rest = (ks, s2) →
    s.readSignals ctx ((k, v, p) :: rest) = (if here = true ∧ v ≤ leNat (s1.homeRead p 8) then k :: ks else ks, s2)) ∧
  -- candidates, the one that a decision chooses, and the place of its gang
  (∀ (s : State) (x : Cand), x ∈ s.candidates ↔ ∃ y, s.disp.queues[x.q]? = some y ∧ y.en = true ∧ y.stopped = false ∧ y.ready = some x.ready ∧
    (∃ id, y.cur = some id ∧ s.launch? id = some x.l) ∧ x.l.placed < x.l.lrec.ngang ∧ s.heldCtx x.l.ctx = false ∧ y.ctx < s.regs.ctxcnt ∧
    x.place = s.findPlace x.l.ctx x.l.lrec) ∧
  (∀ (s : State) (cs : List Cand) (x : Cand), s.chooseCand cs = some x →
    let aged := fun (y : Cand) => 64 ≤ (s.queue y.q).skip
    x ∈ cs ∧ x.place ≠ none ∧
    ((∃ y ∈ cs, aged y) → aged x ∧ ∀ y ∈ cs, aged y → x.ready ≤ y.ready) ∧
    ((∀ y ∈ cs, ¬aged y) → ∀ y ∈ cs, y.place ≠ none → s.launchPrio y.l ≤ s.launchPrio x.l ∧
      (s.launchPrio y.l = s.launchPrio x.l → servedBefore (s.queue y.q).served (s.queue x.q).served = false))) ∧
  (∀ (s : State) (ctx i : Nat) (r : LRec) (cores : List Nat) (sw : Bool), s.findPlace ctx r = some (i, cores, sw) →
    s.clusterFits (searchCluster i) ctx r sw = some cores ∧
    (∃ k < 288, i = (s.disp.search + k) % 288 ∧ ∀ k' < k, s.clusterFits (searchCluster ((s.disp.search + k') % 288)) ctx r sw = none) ∧
    (sw = true → ∀ j < 288, s.clusterFits (searchCluster j) ctx r false = none)) ∧
  (∀ (s : State) (cl ctx : Nat) (r : LRec) (sw : Bool) (cores : List Nat), s.clusterFits cl ctx r sw = some cores →
    cores.length = r.nwg ∧ bit (s.die (clusterDie cl)).clready (cl % 32) = true ∧ bit s.regs.rdyDie (clusterDie cl) = true ∧
    r.atiles ≤ (s.freeAcc cl).length ∧ (sw = false → (s.cluster cl).fused = r.fuse) ∧ (sw = true → s.gangsOn cl = []) ∧
    ∀ k ∈ cores, k / 4 = cl ∧ (∀ w ∈ s.warps, w.core = k → w.ctx = ctx) ∧ r.stiles ≤ (s.core k).freeTiles.length ∧ r.copyq + s.copyHeld k ≤ 64 ∧
      ∀ i < min r.nwarp 16, r.onLane i ≤ (s.freeSlots8 k i).length ∧ s.admits k i r.floor (r.onLane i) = true) ∧
  (∀ (s : State) (x : Cand) (i : Nat) (cores : List Nat) (sw : Bool), s.regs.deviceFatal = false → s.regs.rdyHost = true →
    s.chooseCand s.candidates = some x → x.place = some (i, cores, sw) →
    let c := (s.readCtx x.l.ctx).1
    (c.clear = false → exec .placementDecision s = .next ((s.readCtx x.l.ctx).2.ctxFatal x.l.ctx 0 0 0x85 (s.regs.ctxtab + 128 * x.l.ctx))) ∧
    (c.clear = true → ∀ s1, (s.readCtx x.l.ctx).2.prepare (searchCluster i) x.l.ctx cores x.l.lrec.fuse sw = some s1 → (s1.launch? x.l.id).isSome = true →
      let t := s1.countSkips s.candidates x
      let t := { t with disp := { t.disp with clock := t.disp.clock + 1, search := (i + 1) % 288 } }
      exec .placementDecision s = .next ((t.placeGang x.l c (searchCluster i) cores).afterPlace x.q x.l.id))) ∧
  -- a launch that completes
  (∀ (s : State) (n : Nat) (l : Launch), s.launch? n = some l → l.abandoned = false → l.lrec.ngang ≤ l.ended →
    let does := fun (t : State) => exec (.launchComplete n) s = .next t
    let ks := (l.cores.flatMap fun k => if s.fusedAt k then coresOf (coreCluster k) else [k]).eraseDups
    let busy := ∃ k ∈ ks, ∃ t ∈ (s.core k).tags, t.use = .wback ∨ ∃ u e ctx va, t.use = .stored u e ctx va
    (busy → does s) ∧
    (¬busy →
      let t := ks.foldl (fun s k => s.flushL1 k (some l.ctx) false) s
      (t.launch? n = none → does t) ∧
      (t.launch? n ≠ none →
        let dropped := { t with disp := { t.disp with launches := t.disp.launches.filter fun x => x.id != l.id } }
        let asks := { t.disp with launches := t.disp.launches.map fun (x : Launch) => if x.id == l.id then { x with zlr := 1 } else x }
        let ask : HostReq := { tag := t.env.nextTag, ctx := l.ctx, ask := .launch l.id }
        (l.zlr = 0 → does { t with disp := asks, env := { t.env with nextTag := t.env.nextTag + 1, hostReqs := t.env.hostReqs ++ [ask] } }) ∧
        ((l.zlr = 1 ∨ l.zlr ≠ 0 ∧ ∃ x ∈ t.env.posted, x.tgt = 2) → does t) ∧
        (l.zlr ≠ 0 → l.zlr ≠ 1 → (∀ x ∈ t.env.posted, x.tgt ≠ 2) →
          let goes := fun (r : WalkRes) (s1 : State) => (dropped.readCtx l.ctx).2.dispAccess l.ctx
            (((dropped.readCtx l.ctx).1.sigbase + 8 * l.lrec.csig) % 2 ^ 64) .atomic = (r, s1)
          (l.lrec.csig = 0xFFFF → does dropped) ∧
          (l.lrec.csig ≠ 0xFFFF →
            (∀ r s1, goes r s1 → (∀ p w e b z, r ≠ .ok p w e b z) → does (inQueue s1 l.queue { s1.queue l.queue with sflt := true })) ∧
            ∀ p w e b z s1, goes (.ok p w e b z) s1 →
              (s1.reaches p 2 = false → does (s1.ctxFatal l.ctx 0 0 0x84 p.pa)) ∧
              (s1.reaches p 2 = true →
                let t := (s1.fillAt p 8).homeWrite p (leBytes 8 (leNat (s1.homeRead p 8) + 1))
                does (if (t.queue l.queue).irq then t.raise l.queue else t))))))) ∧
  (∀ (s : State) (core : Nat) (l : L1Line),
    (l.dirty = 0 → s.flushLine core l = s) ∧
    (l.dirty ≠ 0 → l.held = true → s.flushLine core l = s.ctxFatal l.ctx (coreDie core) (core % 128) 0x82 l.va) ∧
    (l.dirty ≠ 0 → l.held = false → ∀ s1,
      (s.wbPlace core l.ctx l.va = (none, s1) → s.flushLine core l = s1.ctxFatal l.ctx (coreDie core) (core % 128) 0x82 l.va) ∧
      ∀ p, s.wbPlace core l.ctx l.va = (some p, s1) →
        (s1.reaches p 1 = false → s.flushLine core l = s1.ctxFatal l.ctx 0 0 0x84 p.pa) ∧
        (s1.reaches p 1 = true → s.flushLine core l = s1.homeWriteLine p.tgt (p.pa / 128) (sectorBytes l.data l.dirty) false))) ∧
  -- the queue's registers
  (∀ (s : State) (q v bits : Nat), q < 64 →
    let x := s.queue q
    let ahead := (v + 2 ^ 32 - x.head) % 2 ^ 32
    let legal := 1 ≤ x.rlog2 ∧ x.rlog2 ≤ 16 ∧ x.rbase % 64 = 0
    let within := (x.tail + 2 ^ 32 - x.head) % 2 ^ 32 ≤ ahead ∧ ahead ≤ 2 ^ x.rlog2
    (v < 2 ^ 32 → ∃ t, HostWrites s (.queueTailWrite q v) (4096 + 32 * q + 12) 4 v t ∧
      (x.src = true ∨ s.regs.deviceFatal = true → t = s) ∧
      (x.src = false → s.regs.deviceFatal = false → ¬within → t = inQueue s q { x with tbad := true }) ∧
      (x.src = false → s.regs.deviceFatal = false → within → t = tailMoves s q x v)) ∧
    (legal → HostWrites s (.queueEnable q) (4096 + 32 * q) 0 1 (inQueue s q { x with en := true })) ∧
    (¬legal → HostWrites s (.queueEnable q) (4096 + 32 * q) 0 1 (inQueue s q { x with cfg := true })) ∧
    HostWrites s (.queueDisable q) (4096 + 32 * q) 0 0 (inQueue s q { x with en := false }) ∧
    HostWrites s (.queueErrorClear q bits) (4096 + 32 * q + 20) 4 bits (inQueue s q { x with
      ill := x.ill && !bit bits 0, tbad := x.tbad && !bit bits 1, rflt := x.rflt && !bit bits 2, ctxf := x.ctxf && !bit bits 3,
      sflt := x.sflt && !bit bits 4, cfg := x.cfg && !bit bits 5 })) ∧
  -- LNCH
  (∀ (s : State) (u d : Nat) (sc : Bool) (w : Warp) (f : FenceRec) (a : Access) (qs : List (Nat × Nat × Nat)), s.warp? u = some w →
    w.fences.find? (fun f => f.what == 4) = some f → w.accs.find? (fun a => some a.id == f.acc) = some a → a.kind = .lnch d sc qs →
    let does := fun (t : State) => exec (.lnchRecordRead u) s = .next t
    (f.relDone = false → w.storesOpen f.seq = true → does s) ∧
    (f.relDone = false → w.storesOpen f.seq = false → does (s.release w f)) ∧
    (f.relDone = true → a.walked = false → does s) ∧
    (f.relDone = true → a.walked = true →
      let ps := (qs.zip a.spans).map fun x => (x.1.1, x.1.2.1, x.1.2.2, x.2.phys.getD ⟨0, 0⟩)
      (∀ p, ps.find? (fun p => !s.reaches p.2.2.2 0) = some p → does (s.ctxFatal w.ctx w.die (w.core % 128) 0x84 p.2.2.2.pa)) ∧
      ((∀ p ∈ ps, s.reaches p.2.2.2 0 = true) → ∀ s1, s.hostCame w.ctx (ps.map fun p => p.2.2.2) = (false, s1) → does s1) ∧
      ((∀ p ∈ ps, s.reaches p.2.2.2 0 = true) → ∀ s1 r s2, s.hostCame w.ctx (ps.map fun p => p.2.2.2) = (true, s1) → s1.submitAll w.ctx ps = (r, s2) →
        does (resulted (s2.modWarp u fun (w : Warp) => { w with fences := w.fences.filter fun x => x.id != f.id }) u a.id
          (if sc then r.map fun x => .s (d - 64) x.2 else [.v d r]))))) ∧
  (∀ (s : State) (ctx q : Nat) (p : Phys),
    let x := s.queue q
    let s1 := (s.readCtx ctx).2
    let bs := s1.homeRead p 64
    let s2 := s1.fillAt p 64
    let open_ := q < 64 ∧ x.ctx = ctx ∧ x.src = true ∧ x.en = true ∧ x.stopped = false ∧ s.regs.deviceFatal = false
    let good := (lrecOf bs).good (s.readCtx ctx).1 = true
    let full := 2 ^ x.rlog2 ≤ (x.tail + 2 ^ 32 - x.head) % 2 ^ 32
    (¬open_ → s.submit ctx q p = (2, s)) ∧
    (open_ → ¬good → s.submit ctx q p = (3, s2)) ∧
    (open_ → good → full → s.submit ctx q p = (1, s2)) ∧
    ∀ dst w e b z s3, open_ → good → ¬full →
      s2.dispAccess ctx ((x.rbase + 64 * (x.tail % 2 ^ x.rlog2)) % 2 ^ 64) .store = (.ok dst w e b z, s3) →
      s.submit ctx q p = (0, tailMoves (s3.homeWrite dst bs) q x ((x.tail + 1) % 2 ^ 32))) ∧
  (∀ (s s1 s2 : State) (ctx t adr q st : Nat) (p : Phys) (rest : List (Nat × Nat × Nat × Phys)) (r : List (Nat × Word)), s.submit ctx q p = (st, s1) →
    s1.submitAll ctx rest = (r, s2) → s.submitAll ctx ((t, adr, q, p) :: rest) = ((t, BitVec.ofNat 32 st) :: r, s2)) ∧
  -- lanes, and the end of a warp
  (∀ (s : State) (lane : Nat) (w : Warp), (s.laneWarps (lane / 16) (lane % 16)).find? (fun w => w.park.alloc != 0 && !w.park.restore) = some w →
    (s.poolHolds w w.park.alloc = true → exec (.allocationRelease lane) s = .next (s.setWarp { w with park := { w.park with alloc := 0 } })) ∧
    (s.poolHolds w w.park.alloc = false → exec (.allocationRelease lane) s = .next s)) ∧
  (∀ (s s1 : State) (lane : Nat) (o w : Warp) (rest : List Warp), s.laneWarps (lane / 16) (lane % 16) = o :: rest →
    (∀ x ∈ o :: rest, x.park.alloc ≠ 0) → s.poolHolds o o.park.alloc = false →
    rest.reverse.find? (fun w => !w.toSpill.isEmpty && w.park.faults.isEmpty) = some w →
    s.laneWrite w (w.control + 480) (leBytes 4 w.depth) = (true, s1) →
    exec (.laneSpill lane) s =
      .next ((s1.modWarp w.uid fun (w : Warp) => { w with park := { w.park with restore := true } }).spillAll w.uid w.toSpill)) ∧
  (∀ (s s1 : State) (u : Nat) (w : Warp) (rs : List (Nat × VReg)), s.warp? u = some w → w.park.restore = true → w.park.faults = [] →
    s.spilledRegs w w.spilled = (.inr rs, s1) →
    let n := rs.foldl (fun n p => n + p.2.cost) w.claims
    (s1.poolHolds w n = false → exec (.spillRestore u) s = .next s1) ∧
    ∀ s2, s1.poolHolds w n = true → s1.laneWrites w (rs.map fun p => (w.control + 8704 + p.1, [0])) = (true, s2) →
      exec (.spillRestore u) s = .next (s2.modWarp u fun (x : Warp) =>
        { x with v := rs.foldl (fun v p => v.set p.1 p.2) x.v, spilled := [], park := { x.park with restore := false } })) ∧
  ∀ (s : State) (u : Nat) (w : Warp), s.warp? u = some w →
    let t := (s.unpair u).removeWarp w
    (s.warpOver w = false → exec (.warpEnd u) s = .next s) ∧
    ∀ g, s.warpOver w = true → t.gang? w.gang = some g →
      ((∃ x ∈ t.warps, x.gang = g.uid ∧ x.wgid = w.wgid) → exec (.warpEnd u) s = .next t) ∧
      ((∃ x ∈ t.warps, x.gang = g.uid) → (∀ x ∈ t.warps, x.gang = g.uid → x.wgid ≠ w.wgid) → exec (.warpEnd u) s = .next (t.endWg g w.wgid)) ∧
      ((∀ x ∈ t.warps, x.gang ≠ g.uid) → exec (.warpEnd u) s = .next ((t.endWg g w.wgid).endGang g).settleChans)

/-- R403 to R416: STOP and DRAIN are accepted in IDLE; the grace and the deadline are counted in microseconds; the walk takes each gang
through its stages, from whose begin no command reaches the engine, saves its matrix entries and tiles in stage 5 and the rest in stage
6, and frees its place, NSAVED growing by one; RESUME brings the saved gangs back in order, each once it fits.
The stages of a gang, and what of a saved gang lies in memory, follow log entry 20. -/
def Obligations.PreemptionSteps : Prop :=
  (∀ (s : State) (ch : Nat), ch < 4 →
    let c := s.chan ch
    let at_ := 8192 + 32 * ch
    let accepted := fun (cmd : Nat) =>
      let t := inChan s ch { c with cmd, state := 1, since := s.now, elapsed := 0, nsaved := 0, saved := [], walk := [], begun := [], ents := [] }
      { t with warps := s.warps.map fun (w : Warp) => if w.ctx == c.ctx then { w with stop := true } else w }.settleChan ch
    let idle := c.state = 0 ∧ ∀ x ∈ s.chans, x.ctx = c.ctx → x.state = 0
    (idle → HostWrites s (.stop ch) at_ 0 1 (accepted 1) ∧ HostWrites s (.drain ch) at_ 0 2 (accepted 2)) ∧
    (¬idle → HostWrites s (.stop ch) at_ 0 1 s ∧ HostWrites s (.drain ch) at_ 0 2 s) ∧
    ((c.state = 3 ∨ c.state = 4) → HostWrites s (.resume ch) at_ 0 3
      { inChan s ch { c with cmd := 3, state := if c.saved = [] then 0 else 5, ready := s.disp.clock } with
        disp := { s.disp with clock := s.disp.clock + 1 } }) ∧
    (c.state = 6 → HostWrites s (.resume ch) at_ 0 3 (inChan s ch { c with cmd := 3, state := 0 })) ∧
    (c.state ∉ [3, 4, 6] → HostWrites s (.resume ch) at_ 0 3 s) ∧
    HostWrites s (.fresetClear ch) (at_ + 16) 4 1 (inChan s ch { c with freset := false }) ∧
    let gs := s.disp.gangs.filter fun g => g.ctx == c.ctx
    let started := c.state = 1 ∧ c.cmd = 1 ∧ c.grace ≤ (s.now - c.since) / 1000 ∧ gs ≠ []
    (started → exec (.graceExpiry ch) s = .next (inChan s ch { c with
      state := 2, walk := gs.map fun g => (g.uid, 2), begun := gs.flatMap fun g => g.cores.map fun k => (2, k) })) ∧
    (¬started → exec (.graceExpiry ch) s = .next s) ∧
    let over_ := (c.state = 1 ∨ c.state = 2) ∧ (if c.deadline = 0 then 2000 else c.deadline) ≤ (s.now - c.since) / 1000
    (over_ → let t := s.ctxFatal c.ctx 0 0 0x83 0
      exec (.deadlineExpiry ch) s = .next (inChan t ch { t.chan ch with freset := true })) ∧
    (¬over_ → exec (.deadlineExpiry ch) s = .next s)) ∧
  -- what waits while an engine's stage has begun
  (∀ (s : State) (w : Warp),
    let begun := fun (n k : Nat) => ∃ c ∈ s.chans, c.state = 2 ∧ c.ctx = w.ctx ∧ (n, k) ∈ c.begun
    (s.engineStopped w .copy = true ↔ begun 2 w.core) ∧ (s.engineStopped w .coord = true ↔ begun 3 w.cluster) ∧
    (s.engineStopped w .matrix = true ↔ begun 5 w.cluster)) ∧
  -- the walk
  (∀ (s : State) (ch gang : Nat) (g : Gang), (s.chan ch).state = 2 → s.gang? gang = some g → g.uid = gang →
    let c := s.chan ch
    let passes := fun (s : State) (n : Nat) =>
      inChan s ch { s.chan ch with
        walk := (s.chan ch).walk.map fun x => if x.1 == gang then (gang, n) else x, begun := (s.chan ch).begun ++ [(n, g.cluster)] }
    let v := s.stripe g.ctx g.cluster
    ((gang, 2) ∈ c.walk →
      ((∀ k ∈ g.cores, ∀ e ∈ (s.core k).copy, e.ctx ≠ g.ctx) → exec (.stopCopyEngine ch gang) s = .next (passes s 3)) ∧
      ((∃ k ∈ g.cores, ∃ e ∈ (s.core k).copy, e.ctx = g.ctx) → exec (.stopCopyEngine ch gang) s = .next s)) ∧
    ((gang, 3) ∈ c.walk →
      let working := ∃ c ∈ (s.qd g.cluster).cmds, c.ctx = g.ctx ∧ s.cmdAccess c ≠ none
      (working → exec (.stopCoordinateEngine ch gang) s = .next s) ∧
      (¬working → exec (.stopCoordinateEngine ch gang) s = .next (passes s 4))) ∧
    ((gang, 4) ∈ c.walk →
      let t := (s.warps.filter fun w => w.gang == g.uid).foldl (fun s w => s.halt w.uid) s
      let ws := t.warps.filter fun w => w.gang == g.uid
      ((∃ w ∈ ws, w.quiet = false) → exec (.stopWarps ch gang) s = .next t) ∧
      ∀ t1, (∀ w ∈ ws, w.quiet = true) →
        (t.saveWarps ws = (true, t1) → exec (.stopWarps ch gang) s = .next (passes t1 5)) ∧
        (t.saveWarps ws = (false, t1) → exec (.stopWarps ch gang) s = .next t1)) ∧
    ((gang, 5) ∈ c.walk → s.saveParked ch = false →
      let m := s.mx g.cluster
      let mine := fun (n : Nat) => ∃ e ∈ m.entries, e.ctx = g.ctx ∧ e.num = n
      let es := m.entries.filter fun e => e.ctx == g.ctx && !(c.ents.any fun x => x.1 == g.cluster && x.2.2.2.num == e.num)
      let used := (c.savedOn g.cluster).flatMap (fun x => x.entries.map fun e => e.1) ++ (c.ents.filter fun x => x.1 == g.cluster).map fun x => x.2.1
      let ents := ((lowestFree used 32 es.length).zip es).zipIdx.map fun x => (g.cluster, x.1.1, s.free + 256 * x.2, x.1.2)
      ∃ run, (∀ ns, run = some ns → ns ≠ [] ∧ ∃ old, m.run = some old ∧ ∀ n, n ∈ ns ↔ n ∈ old ∧ ¬mine n) ∧
        (run = none → ∀ old, m.run = some old → ∀ n ∈ old, mine n) ∧
        let m1 := { m with run, halted := (m.halted ++ [g.ctx]).eraseDups }
        let runs := g.names.flatMap (fun n =>
            [(v + 1048576 + 16384 * n.2, (m1.tile n.2).bytes), (v + 1648640 + 4 * n.2, leBytes 4 (m1.status n.2))]) ++
          ents.map fun x => (v + 1572864 + 256 * x.2.1, (List.range 256).map fun k => Config.freeByte (x.2.2.1 + k))
        ∀ t, ((s.setMx g.cluster m1).saveRunsAt ch g.cluster g.ctx runs = (true, t) → exec (.stopMatrixEngine ch gang) s = .next
            (passes (inChan { t with free := t.free + 256 * ents.length } ch { c with ents := c.ents ++ ents }) 6)) ∧
          ((s.setMx g.cluster m1).saveRunsAt ch g.cluster g.ctx runs = (false, t) → exec (.stopMatrixEngine ch gang) s = .next t)) ∧
    ((gang, 6) ∈ c.walk → (s.saveParked ch = true ∨ s.drained g = false) → exec (.stopFlushSave ch gang) s = .next s) ∧
    ((gang, 6) ∈ c.walk → s.saveParked ch = false → s.drained g = true →
      let old := c.savedOn g.cluster
      let ws := s.warps.filter fun w => w.gang == g.uid
      let g1 := { g with tiles := g.tiles.zipIdx.map fun x => if ws.any fun w => w.wgid == x.2 then x.1 else [] }
      let idx := (lowestFree (old.map fun x => x.idx) 512 1).headD 0
      let ents := (c.ents.filter fun x => x.1 == g.cluster && x.2.2.2.gang == g.uid).map fun x => x.2
      let xs := (s.qd g.cluster).cursors.filter fun x => x.gang == g.uid
      let curs := (lowestFree (old.flatMap fun x => x.cursors.map fun c => c.1) 16 xs.length).zip xs
      let runs :=
        ((g.cores.zip g1.tiles).flatMap fun x => x.2.map fun t =>
          (v + 262144 * (x.1 % 4) + 4096 * t, cellsRead (s.core x.1).scratch (4096 * t) 4096)) ++
        (curs.map fun x => (v + 1581056 + 128 * x.1, cursorBytes x.2 (s.qdStatus g.cluster g.uid x.2.name) idx)) ++
        [(v + 1583104 + 128 * idx,
          gangRecord g1 ((g.cores.zip g1.tiles).map fun x => x.2.filter fun t => (s.core x.1).engine.contains t))]
      ∀ t, (s.saveRunsAt ch g.cluster g.ctx runs = (false, t) → exec (.stopFlushSave ch gang) s = .next t) ∧
        (s.saveRunsAt ch g.cluster g.ctx runs = (true, t) →
          let t1 := (t.leftCores g1).foldl (fun s k => s.flushL1 k none true) t
          (t1.gang? gang = none → exec (.stopFlushSave ch gang) s = .next t1) ∧
          (t1.gang? gang ≠ none → exec (.stopFlushSave ch gang) s = .next (t1.leave ch g1
            { stripe := g.cluster, idx, gang := g1, warps := ws.map Warp.saved, entries := ents, cursors := curs }))))) ∧
  -- a saved warp's block
  (∀ (w : Warp) (wtime : Nat),
    let f := fun (o n : Nat) => leNat (((saveBlock w wtime).drop (o - 8896)).take n)
    let a := w.slot 0
    let b := w.slot 1
    (saveBlock w wtime).length = 1376 ∧ f 8896 8 = a.pc.toNat ∧ f 8904 4 = a.mask.toNat ∧ f 8912 8 = b.pc.toNat ∧ f 8920 4 = b.mask.toNat ∧
    bit (f 8908 4) 0 = w.handler.isSome ∧ bit (f 8908 4) 2 = w.heldTrap.isSome ∧
    (∀ k < 8, let r := w.rj.getD k Rejoin.none
      f (8928 + 16 * k) 4 = r.en.toNat ∧ f (8932 + 16 * k) 4 = r.ar.toNat ∧ f (8936 + 16 * k) 8 = r.rp.toNat) ∧
    (∀ k < 63, f (9056 + 4 * k) 4 = (nth w.s k).toNat) ∧ (∀ t < 32, ∀ k < 128, bit (f (9312 + 16 * t) 16) k = w.pred k t) ∧
    (∀ t < 32, f (9824 + 4 * t) 4 = (nth w.fsr t).toNat) ∧
    (∀ k < 16, f (9952 + 4 * k) 4 = (w.barW.getD k 0).toNat ∧ f (10016 + 4 * k) 4 = (w.barG.getD k 0).toNat ∧
      f (10080 + 4 * k) 4 = (w.barX.getD k 0).toNat) ∧
    (∀ k < 11, f (10176 + 8 * k) 8 = (w.trapRegs.getD k 0).toNat) ∧
    f 10144 8 = wtime % 2 ^ 64 ∧ f 10152 8 = w.wtcmp.toNat ∧ f 10160 4 = w.tvec.toNat ∧ f 10164 4 = w.tmask.toNat) ∧
  -- restoring
  ∀ (s : State) (ch : Nat),
    let c := s.chan ch
    let does := fun (t : State) => exec (.gangRestore ch) s = .next t
    let may := s.restoreTurn c = true ∧ s.saveParked ch = false ∧ s.regs.deviceFatal = false ∧ s.regs.rdyHost = true
    (s.restoreTurn c = true ↔ c.state = 5 ∧ s.restoring = some c.ready ∧ ∀ x ∈ s.candidates, 64 ≤ (s.queue x.q).skip → c.ready ≤ x.ready) ∧
    (∀ x, c.nextSaved = some x → x ∈ c.saved ∧ ∀ y ∈ c.saved, x.stripe ≤ y.stripe ∧ (x.stripe = y.stripe → x.idx ≤ y.idx)) ∧
    (¬may → does s) ∧
    ∀ x, may → c.nextSaved = some x →
      (s.restoreFits x = none → does s) ∧
      ∀ sw, s.restoreFits x = some sw →
        let g := x.gang
        let d := (s.readCtx g.ctx).1
        (d.clear = false → does ((s.readCtx g.ctx).2.ctxFatal g.ctx 0 0 0x85 (s.regs.ctxtab + 128 * g.ctx))) ∧
        (d.clear = true → (s.readCtx g.ctx).2.prepare g.cluster g.ctx g.cores g.lrec.fuse sw = none → does s) ∧
        (d.clear = true → ∀ s1, (s.readCtx g.ctx).2.prepare g.cluster g.ctx g.cores g.lrec.fuse sw = some s1 →
          let v := s1.stripe g.ctx g.cluster
          let read := s1.readParts g.cluster g.ctx ([(v + 1583104 + 128 * x.idx, 128)] :: x.runs v)
          (∀ r va s2, read = (.inl (r, va), s2) → does (s2.saveFault ch g.cluster g.ctx va 0 r)) ∧
          ∀ rec_ parts s2, read = (.inr (rec_ :: parts), s2) →
            (x.intact parts = false → does ({ s2 with free := s2.free + 1 }.ctxFatal g.ctx (clusterDie g.cluster) (4 * (g.cluster % 32))
              (Config.freeWord s2.free).toNat v)) ∧
            (x.intact parts = true →
              let t := s2.restoreSkips s2.candidates g
              let t := { t with disp := { t.disp with clock := t.disp.clock + 1 } }
              let t := inChan t ch ((t.chan ch).restored x)
              does ((SavedGang.setOwner (t.restoreGang x parts) x rec_).testBarriers g)))

namespace Sys2Proof.Claims

/-- The fault ring, the invalidation block, the Virvis port `k`, the host's answers: the state with one of them changed. -/
def inRing (s : State) (r : FaultRing) : State := { s with regs := { s.regs with ring := r } }
def inInval (s : State) (i : Inval) : State := { s with regs := { s.regs with inval := i } }
def inPort (s : State) (k : Nat) (p : VPort) : State := { s with regs := { s.regs with vlport := s.regs.vlport.set k p } }
def inMsix (s : State) (v : Nat) (m : MsixVec) : State := { s with regs := { s.regs with msix := s.regs.msix.set v m } }
def inLinks (s : State) (l st : Nat) (k : Link) : State := { s with links := put l { k with state := st, since := s.now } s.links }
/-- The bytes of an access lie in local memory, on dies and stacks that are ready, or beyond it, and the device is awake (R439, R451,
R461). -/
def reachable (s : State) (pa n : Nat) : Prop :=
  s.regs.power = 0 ∧ ∀ i, i < n → pa + i < memTop →
    bit s.regs.rdyDie (sliceDie (homeOf ((pa + i) / 128))) = true ∧ bit s.regs.rdyStack (stackOf (pa + i)) = true
/-- A peer's request has been answered with `bs`, or refused (R432). -/
def toPeer (s : State) (src : Nat) (bs : Option (List Byte)) : State := { s with out := { s.out with peer := s.out.peer ++ [(src, bs)] } }
/-- PCIe request `tag` is no longer outstanding (R434). -/
def returned (s : State) (tag : Nat) : State := { s with env := { s.env with hostReqs := s.env.hostReqs.filter fun y => y.tag != tag } }
/-- The writes on their way to host memory have reached it, in their order (R433, R434). -/
def behindWrites (s : State) : State := { s with env := { s.env with
  hostMem := (s.env.posted.filter fun x => x.tgt == 1).foldl (fun m x => x.bytes.foldl (fun m p => cellWrite m (x.line * 128 + p.1) p.2) m) s.env.hostMem
  posted := s.env.posted.filter fun x => x.tgt != 1 } }
/-- A vector's message has been sent (R446). -/
def sent (s : State) (v : Nat) (m : MsixVec) : State := { s with out := { s.out with msgs := s.out.msgs ++ [(v, m.addr, m.data)] } }

end Sys2Proof.Claims

/-- R230, R231, R430 to R446, R452: what the host, the peers and the links do to the package: answers to fault records, the fault ring's
switch, invalidation, which ends once the lines that stores left dirty are written back too, accesses through BAR2 and to registers,
which wait for their function, MSI-X messages, inbound requests, writes that reach the host and peers, PCIe completions behind them,
and a port that trains or falls, which ends the contexts of linked quarries that it cuts off. The numbers that name operations of
inbound requests and error bits are the model's (log entry 25); what the environment holds, faults that wait for a peer, and PCIe's
configuration space follow log entries 7, 21, 33 and 41. -/
def Obligations.HostSteps : Prop :=
  -- which accesses to BAR0 are made now
  (∀ (s : State) (off : Nat),
    let b := (blockOf off).1
    (s.blockReady b = true ↔ b = .ident ∨ b = .staging ∨ s.regs.bootst = 1 ∧
      (s.regs.rdyHost = true ∨ (∀ q, b ≠ .queue q) ∧ (∀ c, b ≠ .chan c) ∧ b ≠ .ring ∧ b ≠ .inval)) ∧
    (b.early = true ↔ b = .ident ∨ b = .staging) ∧
    (∀ q < 64, (blockOf (4096 + 32 * q)).1 = .queue q) ∧ (∀ c < 4, (blockOf (8192 + 32 * c)).1 = .chan c) ∧
    (blockOf 0x3000).1 = .ring ∧ (blockOf 0x3100).1 = .inval ∧ (blockOf 0x1000010).1 = .ident ∧
    ∀ size, (size = 4 ∨ size = 8) → off % size = 0 →
      (b.early = false → s.regs.bootst ≠ 1 → s.readRegister off size = 0) ∧
      let part := fun (v : Nat) => if size = 8 then v else v / 2 ^ (8 * (off % 8)) % 2 ^ 32
      (s.blockReady b = true → s.readRegister off size = part (s.blockDword b (blockOf off).2)) ∧
      (s.regs.bootst = 1 → s.blockReady b = false → s.readRegister off size = part (State.reset.blockDword b (blockOf off).2))) ∧
  (∀ (s : State) (off size v : Nat),
    let good := (size = 4 ∨ size = 8) ∧ off % size = 0 ∧ (blockOf off).1 ≠ .none
    (¬good → exec (.registerWrite off size v) s = .next s) ∧
    (good → HostWrites s (.registerWrite off size v) off size v (s.applyWrite off size v))) ∧
  (∀ (s : State) (xs ys : List (Nat × Nat × Nat)) (off size v : Nat), s.regs.heldW = xs ++ (off, size, v) :: ys →
    (∀ x ∈ xs, s.blockReady (blockOf x.1).1 = false) → s.blockReady (blockOf off).1 = true →
    exec .heldWriteTake s = .next ({ s with regs := { s.regs with heldW := xs ++ ys } }.applyWrite off size v)) ∧
  -- fault records
  (∀ (s : State) (seq : Nat),
    let r := s.regs.ring
    let n := seq % 2 ^ 32
    (∀ x, r.recs.find? (fun x => x.written && x.seq == n) = some x →
      let t := inRing s { r with recs := r.recs.filter fun y => y.id != x.id }
      HostWrites s (.faultAnswerResume seq) 0x3018 8 (n + 2 ^ 32) (t.unpark x) ∧
      HostWrites s (.faultAnswerFatal seq) 0x3018 8 (n + 2 * 2 ^ 32) (t.ctxFatal x.ctx x.die (x.xid / 512 % 32) 0x80 x.va)) ∧
    (r.recs.find? (fun x => x.written && x.seq == n) = none →
      HostWrites s (.faultAnswerResume seq) 0x3018 8 (n + 2 ^ 32) (inRing s { r with anserr := true }) ∧
      HostWrites s (.faultAnswerFatal seq) 0x3018 8 (n + 2 * 2 ^ 32) (inRing s { r with anserr := true }))) ∧
  (∀ (s : State) (x : FaultRec),
    (∀ u k, x.who = .warp u k → s.unpark x = s.modWarp u fun (w : Warp) =>
      { w with park := { w.park with faults := w.park.faults.filter fun n => n != x.id } }) ∧
    (∀ core n, x.who = .copy core n → s.unpark x = s.modCopy core n fun (e : CopyEnt) =>
      if e.parked == some x.id then { e with parked := none } else e) ∧
    (∀ cl id c, x.who = .coord cl id → (s.qd cl).cmds.find? (fun c => c.id == id) = some c →
      s.unpark x = s.setCmd cl { c with parked := none }) ∧
    ∀ ch, x.who = .save ch → s.unpark x = s) ∧
  (∀ (s : State) (x : FaultRec),
    let r := s.regs.ring
    let t := behindWrites s
    let bytes := faultBytes x.va x.ctx x.cause x.kind x.die r.wrcnt x.xid x.agent
    s.writeRecord x = ({ t with
      env := { t.env with hostMem := cellsWrite t.env.hostMem (r.base + 32 * (r.wrcnt % 2 ^ r.log2)) bytes }
      regs := { s.regs with ring := { r with wrcnt := (r.wrcnt + 1) % 2 ^ 32, recs := r.recs.map fun (y : FaultRec) =>
        if y.id == x.id then { y with written := true, seq := r.wrcnt } else y } } } : State).raise 68) ∧
  (∀ (s : State) (bits : Nat),
    let r := s.regs.ring
    let legal := 4 ≤ r.log2 ∧ r.log2 ≤ 15 ∧ r.base % (32 * 2 ^ r.log2) = 0
    (r.en = true → HostWrites s .faultRingEnable 0x3000 0 1 s) ∧
    (r.en = false → legal → HostWrites s .faultRingEnable 0x3000 0 1 (inRing s { r with en := true })) ∧
    (r.en = false → ¬legal → HostWrites s .faultRingEnable 0x3000 0 1 (inRing s { r with cfgerr := true })) ∧
    HostWrites s .faultRingDisable 0x3000 0 0 ((r.recs.filter fun x => !x.written).foldl (fun s x => s.fatalRecord x)
      (inRing s { r with en := false, recs := r.recs.filter fun x => x.written })) ∧
    HostWrites s (.faultRingErrorClear bits) 0x3000 0 (2 + bits)
      (inRing s { r with cfgerr := r.cfgerr && !bit bits 0, anserr := r.anserr && !bit bits 1 })) ∧
  -- invalidation
  (∀ s : State,
    let i := s.regs.inval
    let keep := fun (l : List TlbEnt) => l.filter fun e => !i.hits e.ctx e.base e.size
    (i.busy = true → HostWrites s .invalidateGo 0x3100 0 1 (inInval s { i with ierr := true })) ∧
    (i.busy = false → ∃ wait tags lines,
      (∀ w ∈ s.warps, (∀ a ∈ w.accs, a.walked = true → (∃ x ∈ a.spans, x.phys.isSome = true ∧ i.hits w.ctx x.va x.len = true) → a.id ∈ wait) ∧
        ∀ e ∈ w.sq, e.walked = true → (∃ x ∈ e.spans, x.phys.isSome = true ∧ i.hits w.ctx x.va x.len = true) → e.id ∈ wait) ∧
      (∀ p ∈ s.cores, ∀ t ∈ p.2.tags, (p.1, t.tag) ∈ tags) ∧
      (∀ p ∈ s.cores, ∀ l ∈ p.2.l1, l.dirty ≠ 0 → i.hits l.ctx l.va 128 = true → (p.1, l.ctx, l.va) ∈ lines) ∧
      let regs := { s.regs with inval := { i with busy := true, wait, tags, lines } }
      let cores := s.cores.map fun p => (p.1, { p.2 with tlb := keep p.2.tlb })
      let clusters := s.clusters.map fun p => (p.1, { p.2 with tlb := keep p.2.tlb })
      let dies := s.dies.map fun p => (p.1, { p.2 with walk := [] })
      HostWrites s .invalidateGo 0x3100 0 1 { s with regs, cores, clusters, dies }) ∧
    let closed := (∀ w ∈ s.warps, (∀ a ∈ w.accs, a.id ∉ i.wait) ∧ ∀ e ∈ w.sq, e.id ∉ i.wait) ∧
      (∀ t ∈ i.tags, ∀ x ∈ (s.core t.1).tags, x.tag ≠ t.2) ∧
      ∀ t ∈ i.lines, ∀ l ∈ (s.core t.1).l1, l.ctx = t.2.1 → l.va = t.2.2 → l.dirty = 0
    (i.busy = true → closed → exec .invalidateDone s = .next (inInval s { i with busy := false, wait := [], tags := [], lines := [] })) ∧
    (¬(i.busy = true ∧ closed) → exec .invalidateDone s = .next s) ∧
    HostWrites s .invalidateErrorClear 0x3100 0 0 (inInval s { i with ierr := false })) ∧
  (∀ (i : Inval) (ctx base size : Nat),
    let k := min 63 (max 15 i.isize)
    let lo := i.iva % 2 ^ 64 / 2 ^ k * 2 ^ k
    i.hits ctx base size = true ↔ ctx = i.ictx ∧ (i.iall = true ∨ base < lo + 2 ^ k ∧ lo < base + size)) ∧
  -- BAR2
  (∀ (s : State) (off n : Nat) (bytes : List Byte),
    let pa := s.regs.winbase + off
    let flagged := { s with regs := { s.regs with winerr := true } }
    let inside := fun (n : Nat) => off + n ≤ 2 ^ s.regs.bar2
    (inside n → reachable s pa n →
      (pa + n ≤ memTop → exec (.bar2Read off n) s = .next { s with out := { s.out with bar2 := s.homeRead ⟨0, pa⟩ n } }) ∧
      (memTop < pa + n → exec (.bar2Read off n) s = .next { flagged with out := { s.out with bar2 := List.replicate n 0xFF } })) ∧
    (¬(inside n ∧ reachable s pa n) → exec (.bar2Read off n) s = .next s) ∧
    (inside bytes.length → reachable s pa bytes.length →
      (pa + bytes.length ≤ memTop → exec (.bar2Write off bytes) s = .next (s.homeWrite ⟨0, pa⟩ bytes)) ∧
      (memTop < pa + bytes.length → exec (.bar2Write off bytes) s = .next flagged)) ∧
    (¬(inside bytes.length ∧ reachable s pa bytes.length) → exec (.bar2Write off bytes) s = .next s) ∧
    HostWrites s .winerrClear 0x20 4 1 { s with regs := { s.regs with winerr := false } }) ∧
  -- MSI-X
  (∀ (s : State) (v : Nat) (m : MsixVec), s.regs.msix[v]? = some m →
    let open_ := s.regs.msixOn = true ∧ s.regs.msixMask = false
    let t := inMsix s v { m with masked := false }
    (m.masked = false → open_ → s.raise v = sent s v m) ∧
    (¬(m.masked = false ∧ open_) → s.raise v = inMsix s v { m with pending := true }) ∧
    (m.pending = true → open_ →
      HostWrites s (.msixVectorUnmask v) (0x10000 + 16 * v + 12) 4 0 (sent (inMsix s v { m with masked := false, pending := false }) v m)) ∧
    (¬(m.pending = true ∧ open_) → HostWrites s (.msixVectorUnmask v) (0x10000 + 16 * v + 12) 4 0 t)) ∧
  -- Virvis ports, and what they cut off
  (∀ (s : State) (k far : Nat) (up : Bool) (p : VPort), s.regs.vlport[k]? = some p →
    HostWrites s (.pdupClear k) (0x4000 + 8 * (128 + k)) 0 0 (inPort s k { p with pdup := false }) ∧
    (up = true → p.en = false → exec (.virvisPortUpChange k up far) s = .next s) ∧
    (up = true → p.en = true → far % 64 = s.regs.devid → exec (.virvisPortUpChange k up far) s = .next (inPort s k { p with pdup := true })) ∧
    (up ≠ p.up → (up = false ∨ p.en = true ∧ far % 64 ≠ s.regs.devid) → exec (.virvisPortUpChange k up far) s =
      .next (((inPort s k { p with up, far := if up then far % 64 else 0 }).bore 0 0x41 k 0xFFFF k (if up then 1 else 0)).raise 69).endCutOff)) ∧
  (∀ s : State, ∃ cs : List Nat, s.endCutOff = cs.foldl (fun s c => s.ctxFatal c 0 0 0x84 0) s ∧ cs.Nodup ∧ ∀ c, c ∈ cs ↔
    ∃ q ∈ s.quarries, q.link = true ∧ q.ctx = c ∧ ∃ d ∈ q.members, let route := s.regs.vlroute.getD d 0
      bit route 16 = false ∨ ∀ k p, k < 16 → bit route k = true → s.regs.vlport[k]? = some p → p.en = false ∨ p.up = false) ∧
  -- peers and the host's memory
  (∀ (s : State) (src op addr : Nat) (bytes : List Byte),
    let acl := s.regs.vlacl.getD src 0
    let n := bytes.length
    let does := fun (t : State) => exec (.peerRequest src op addr bytes) s = .next t
    (¬reachable s addr n → does s) ∧
    (reachable s addr n → (bit acl (min op 2) = false ∨ memTop < addr + n) → does (toPeer s src none)) ∧
    (reachable s addr n → addr + n ≤ memTop →
      (bit acl 0 = true → op = 0 → does (toPeer s src (some (s.homeRead ⟨0, addr⟩ n)))) ∧
      (bit acl 1 = true → op = 1 → does (toPeer (s.homeWrite ⟨0, addr⟩ bytes) src (some []))) ∧
      (bit acl 2 = true → 2 ≤ op → atomOps[op - 2]? = none → does (toPeer s src none)) ∧
      ∀ a, bit acl 2 = true → 2 ≤ op → atomOps[op - 2]? = some a →
        let size := if a = .cas then n / 2 else n
        does (toPeer (s.homeAtom a size [(⟨0, addr⟩, size)] bytes).2 src (some (s.homeAtom a size [(⟨0, addr⟩, size)] bytes).1)))) ∧
  (∀ (s : State) (rest : List Agendum) (i : Nat) (x : Posted), s.agenda = .land i :: rest → s.env.posted[i]? = some x →
    (∀ y ∈ s.env.posted.take i, y.tgt = x.tgt → x.tgt ≠ 1 ∧ y.line ≠ x.line) →
    let t := { s.tick with agenda := rest, env := { s.env with posted := s.env.posted.eraseIdx i } }
    let put_ := fun (m : List Host.Cell) (base : Nat) => x.bytes.foldl (fun m p => cellWrite m (base + p.1) p.2) m
    (x.tgt = 1 → s.bad = none → step s = .next { t with env := { t.env with hostMem := put_ s.env.hostMem (x.line * 128) } }) ∧
    (x.tgt = 2 → s.bad = none → s.reaches ⟨2, x.line * 128⟩ 1 = true → step s = .next { t with env := { t.env with peers := s.env.peers.map fun q =>
      if q.dev == x.line * 128 / 2 ^ 40 % 64 then { q with mem := put_ q.mem (x.line * 128 % 2 ^ 40) } else q } })) ∧
  (∀ (s : State) (tag status : Nat) (x : HostReq), s.env.hostReqs.find? (fun x => x.tag == tag) = some x →
    let t := behindWrites (returned s tag)
    let r := returned s tag
    let done := fun (t : State) => exec (.pcieCompletion tag 0) s = .next t
    let fails := fun (t : State) => (status ≠ 0 → exec (.pcieCompletion tag status) s = .next t) ∧ exec (.pcieCompletionTimeout tag) s = .next t
    (∀ u f, x.ask = .fence u f → done (t.modWarp u fun (w : Warp) =>
      { w with fences := w.fences.map fun (y : FenceRec) => if y.id == f then { y with zlr := 2 } else y })) ∧
    (∀ n, x.ask = .launch n → done { t with disp := { t.disp with launches := t.disp.launches.map fun (y : Launch) =>
      if y.id == n then { y with zlr := 2 } else y } }) ∧
    (∀ line, x.ask = .own line → done { t with env := { t.env with came := t.env.came ++ [(x.ctx, line)] } } ∧
      fails (r.ctxFatal x.ctx 0 0 0x84 (line * 128))) ∧
    (∀ sl q y i, x.ask = .slice sl q → (s.slice sl).queue[i]? = some y → y.tgt = 1 → x.tag ∈ y.pending →
      (∀ z ∈ (s.slice sl).queue.take i, z.tgt ≠ 1 ∨ x.tag ∉ z.pending) →
      let served := (t.dropReq sl i).serveReq y
      done (served.2.answer sl y y.sectors served.1)) ∧
    (∀ sl q, x.ask = .slice sl q →
      let open_ := ∃ y ∈ (s.slice sl).queue, y.tgt = 1 ∧ x.tag ∈ y.pending ∧ y.kind ≠ .void
      (open_ → fails (r.ctxFatal x.ctx (coreDie q.core) (q.core % 128) 0x84 (s.blame q))) ∧ (¬open_ → fails r)) ∧
    (∀ u f w y, x.ask = .fence u f → s.warp? u = some w → w.fences.find? (fun y => y.id == f) = some y →
      fails (r.ctxFatal x.ctx w.die (w.core % 128) 0x84 y.fpc.toNat)) ∧
    ∀ n l, x.ask = .launch n → s.launch? n = some l →
      fails (r.ctxFatal x.ctx 0 0 0x84 ((match look l.ctx s.ctxs with | some c => c.sigbase | none => 0) + 8 * l.lrec.csig))) ∧
  ∀ (s : State) (lgid : Nat), ∃ cs : List Nat, exec (.linkedContextEnd lgid) s = .next (cs.foldl (fun s c => s.ctxFatal c 0 0 0x84 0) s) ∧
    cs.Nodup ∧ ∀ c, c ∈ cs ↔ ∃ q ∈ s.quarries, q.link = true ∧ q.lgid = lgid ∧ q.ctx = c

namespace Sys2Proof.Claims

/-- Two packets that R427 keeps in order. -/
def alike (f g : Flit) : Prop := g.src = f.src ∧ g.dst = f.dst ∧ g.chan = f.chan ∧ g.key = f.key
/-- `g` is the packet that packet `idx` of the mesh follows (R427). -/
def follows (s : State) (idx : Nat) (f g : Flit) : Prop :=
  ∃ i, i < idx ∧ s.mesh[i]? = some g ∧ alike f g ∧ ∀ j h, i < j → j < idx → s.mesh[j]? = some h → ¬alike f h
/-- The links that two dies are apart (R423, R425). -/
def hops (a b : Nat) : Nat := (max (a % 3) (b % 3) - min (a % 3) (b % 3)) + (max (a / 3) (b / 3) - min (a / 3) (b / 3))
/-- Every die has recorded a reset (R459). -/
def resetTold (s : State) (cause : Nat) : State := (List.range 9).foldl (fun s d => s.bore d 0x01 d 0xFFFF cause 0) s
/-- A soft error more, up to all ones (R456). -/
def more (n : Nat) : Nat := min (n + 1) 0xFFFFFFFF
/-- A count that has just reached its threshold is recorded (R459). -/
def crossed (s : State) (d unit old th : Nat) : State :=
  if old < th ∧ th ≤ more old then s.bore d 0x10 unit 0xFFFF (more old) 0 else s
/-- A device-fatal fault whose code is an open value (log entry 6). -/
def fatal (s : State) : State := { s with free := s.free + 1 }.deviceFatal (Config.freeWord s.free).toNat 0
/-- The firmware's answer to an attestation request, which the counter counts (R465). -/
def spoken (s : State) (l : List Nat) : State :=
  { s with out := { s.out with spdm := s.out.spdm ++ [l] }, regs := { s.regs with attest := (s.regs.attest + 1) % 2 ^ 64 } }

end Sys2Proof.Claims

/-- R401, R402, R425 to R428, R449, R450, R453 to R459, R461 to R465: a packet of the mesh moves one link on; links fall asleep and wake; the
package resets, boots, tests itself and takes firmware; soft errors are counted, recorded and reported in replies; power is limited,
throttled and taken away. The codes of attestation answers (log entry 26), what a reset leaves of memory and where events are recorded
(24), the numbers of functions and the units of their records (25), what ends with a device-fatal fault (27), a packet of several
flits that moves as one (29), the records of cleared bits (6) and the facts of an image (31) are the model's. -/
def Obligations.BringUpAndPowerSteps : Prop :=
  -- the mesh
  (∀ (s : State) (idx e : Nat) (f : Flit), s.mesh[idx]? = some f → s.nextHop idx f = some e →
    let l := linkAt f.at_ (portTo f.at_ e)
    let full := ∃ sl r, f.msg = .home sl r ∧ 2048 ≤ (s.slice sl).queue.length
    (e = f.dst → full → exec (.flitRoute idx) s = .next s) ∧
    ∀ k, look l s.links = some k →
      let t := { s with links := put l { k with used := s.now } s.links }
      (e ≠ f.dst → exec (.flitRoute idx) s = .next { t with mesh := s.mesh.set idx { f with at_ := e, path := f.path ++ [e] } }) ∧
      (e = f.dst → ¬full → exec (.flitRoute idx) s = .next ({ t with mesh := s.mesh.eraseIdx idx }.deliver f.msg))) ∧
  (∀ (s : State) (idx e : Nat) (f : Flit), s.nextHop idx f = some e →
    f.msg.flits ≤ s.room f.at_ (portTo f.at_ e) f.chan ∧
    (∀ g, follows s idx f g → ∃ before after, f.at_ ∉ before ∧ g.path = before ++ f.at_ :: e :: after) ∧
    ((∀ g ∈ s.mesh.take idx, ¬alike f g) →
      ∃ p ∈ avail f.src f.at_ f.dst, neighbour f.at_ p = some e ∧ s.linkUp (linkAt f.at_ p) = true ∧
        ∀ p' ∈ avail f.src f.at_ f.dst, s.room f.at_ p' f.chan ≤ s.room f.at_ p f.chan ∧
          (s.room f.at_ p' f.chan = s.room f.at_ p f.chan → p' % 2 = 1 → p % 2 = 1))) ∧
  (∀ src c dst, src < 9 → c < 9 → dst < 9 → c ≠ dst → avail src c dst ≠ [] ∧
    ∀ p ∈ avail src c dst, ∃ e, neighbour c p = some e ∧ e < 9 ∧ hops e dst + 1 = hops c dst ∧ portTo c e = p ∧
      (linkEnds (linkAt c p) = (c, e) ∨ linkEnds (linkAt c p) = (e, c))) ∧
  (∀ (s : State) (l : Nat) (k : Link), look l s.links = some k →
    let ends := linkEnds l
    let idle := fun (d : Nat) => max 64 (s.die d).ith
    (k.state = 0 → (s.die ends.1).pden = true → (s.die ends.2).pden = true → s.linkBusy l = false →
      max (idle ends.1) (idle ends.2) ≤ s.now - max k.used k.since → exec (.linkPowerDown l) s = .next (inLinks s l 1 k)) ∧
    (k.state = 0 → s.linkBusy l = true → exec (.linkPowerDown l) s = .next s) ∧
    (k.state = 1 → 8 ≤ s.now - k.since → exec (.linkOff l) s = .next (inLinks s l 2 k)) ∧
    (k.state = 2 → s.linkWanted l = true → exec (.linkWake l) s = .next (inLinks s l 3 k)) ∧
    (k.state = 3 → 32 ≤ s.now - k.since → exec (.linkActive l) s = .next (inLinks s l 0 k))) ∧
  (∀ (s : State) (idx l : Nat) (f : Flit), s.mesh[idx]? = some f →
    (∀ g before after e, follows s idx f g → f.at_ ∉ before → g.path = before ++ f.at_ :: e :: after →
      s.linkWanted (linkAt f.at_ (portTo f.at_ e)) = true) ∧
    ((∀ g ∈ s.mesh.take idx, ¬alike f g) → (∀ p ∈ avail f.src f.at_ f.dst, s.linkUp (linkAt f.at_ p) = false) →
      ∀ p, avail f.src f.at_ f.dst = [p] → s.linkWanted (linkAt f.at_ p) = true) ∧
    (s.mesh = [f] → s.linkWanted l = true → ∃ p ∈ avail f.src f.at_ f.dst, l = linkAt f.at_ p ∧ s.linkUp l = false)) ∧
  -- reset and bring-up
  (∀ (s : State) (cause : Nat),
    let r := s.afterReset
    let x := s.regs
    let kept := { Regs.reset with form := x.form, step := x.step, minsvn := x.minsvn, attest := x.attest, keys := x.keys }
    (cause = 0 → exec (.deviceReset cause) s = .next (resetTold s.powerLost 0)) ∧
    (cause ≠ 0 → s.regs.power ≠ 2 → exec (.deviceReset cause) s = .next (resetTold r cause)) ∧
    (cause ≠ 0 → s.regs.power = 2 → exec (.deviceReset cause) s = .next s) ∧
    (r.warps = [] ∧ r.disp.gangs = [] ∧ r.disp.launches = [] ∧ r.quarries = [] ∧ r.slices = [] ∧ r.cores = [] ∧ r.issue = none ∧
      r.regs = kept ∧
      r.env.stored = (match s.env.accepted with | some i => i | none => s.env.stored) ∧ r.env.accepted = none ∧ r.env.hostReqs = [] ∧
      ∀ d, d < 9 → (r.die d).log = (s.die d).log ∧ (r.die d).wrseq = (s.die d).wrseq ∧ (r.die d).lclk0 = (s.die d).lclk0 ∧ (r.die d).clready = 0) ∧
    (∀ d, d < 9 → (s.powerLost.die d).log = [] ∧ (s.powerLost.die d).wrseq = 0 ∧ (s.powerLost.die d).lclk0 = s.now) ∧
    exec .powerRemoval s = .next { s.powerLost with regs := { s.powerLost.regs with power := 2 } }) ∧
  (∀ s : State, s.regs.bootst = 0 → s.regs.power = 0 →
    let i := s.env.stored
    (i.signed = true ∧ s.regs.minsvn ≤ i.svn →
      exec .bootVerify s = .next { s with regs := { s.regs with bootst := 1, fwver := i.ver, fwsvn := i.svn } }) ∧
    (¬(i.signed = true ∧ s.regs.minsvn ≤ i.svn) → exec .bootVerify s = .next { s with regs := { s.regs with bootst := 2 } })) ∧
  (∀ (s : State) (fn : Nat),
    let due := s.regs.bootst = 1 ∧ s.regs.power = 0 ∧ (fn < 34 ∨ 64 ≤ fn ∧ fn < 352) ∧ s.isReady fn = false ∧ fn ∉ s.regs.failed
    let unit := if fn < 9 then fn else if fn < 21 then fn - 9 else if fn < 33 then fn - 21 else if fn = 33 then 0 else (fn - 64) % 32
    let failed := { s with regs := { s.regs with fail := true, failed := s.regs.failed ++ [fn] } }
    (¬due → exec (.selfTestPass fn) s = .next s ∧ exec (.selfTestFail fn) s = .next s) ∧
    (due →
      (fn < 34 → exec (.selfTestPass fn) s = .next ((s.setReady fn).bore (functionDie fn) 0x02 unit 0xFFFF fn 0)) ∧
      (64 ≤ fn → exec (.selfTestPass fn) s = .next (s.setReady fn)) ∧ (s.setReady fn).isReady fn = true ∧
      exec (.selfTestFail fn) s = .next (fatal (failed.bore (functionDie fn) 0x03 unit 0xFFFF (if fn < 34 then fn else 34) 0)))) ∧
  -- firmware and attestation
  (∀ s : State,
    let i := s.env.staged
    let good := i.signed = true ∧ s.regs.minsvn ≤ i.svn
    let told := fun (n : Nat) (t : State) => ({ t with regs := { s.regs with fwst := n } } : State).bore 0 0x40 0 0xFFFF n i.ver
    HostWrites s .firmwareVerify 0x1000010 4 1 { s with regs := { s.regs with fwst := 1 } } ∧
    (s.regs.fwst = 1 → good → exec .firmwareVerifyDone s = .next (told 2 { s with env := { s.env with accepted := some i } })) ∧
    (s.regs.fwst = 1 → ¬good → exec .firmwareVerifyDone s = .next (told 3 s)) ∧
    (s.regs.fwst ≠ 1 → exec .firmwareVerifyDone s = .next s)) ∧
  (∀ (s : State) (idx code : Nat),
    let n := (s.regs.attest + 1) % 2 ^ 64
    let signed := if s.regs.keys < hssKeys then { s with regs := { s.regs with keys := s.regs.keys + 1 } } else s
    let answer := exec (.getMeasurements idx) s
    exec .getVersion s = .next (spoken s [0x04, 0x12]) ∧ exec .getCapabilities s = .next (spoken s [0x61, 1]) ∧
    exec .negotiateAlgorithms s = .next (spoken s [0x63, 2, 0]) ∧ exec (.spdmUnsupported code) s = .next (spoken s [0x7F, 7]) ∧
    (idx = 0 → answer = .next (spoken s [0x60, 0, 5])) ∧
    (idx = 2 → answer = .next (spoken s [0x60, 2, s.regs.fwsvn, s.regs.minsvn])) ∧
    (idx ∈ [1, 3, 5] → ∃ x, answer = .next (spoken s [0x60, idx, x])) ∧
    (idx = 4 → hssKeys ≤ s.regs.keys → answer = .next (spoken signed [0x60, 4, n])) ∧
    (idx = 4 → s.regs.keys < hssKeys → ∃ x, answer = .next (spoken signed [0x60, 4, n, x])) ∧
    (idx = 0xFF → ∃ a b c ks, ks.length ≤ 1 ∧
      answer = .next (spoken signed ([0x60, 0xFF, 1, a, 2, s.regs.fwsvn, s.regs.minsvn, 3, b, 4, n] ++ ks ++ [5, c]))) ∧
    (5 < idx → idx ≠ 0xFF → answer = .next (spoken s [0x7F, 7]))) ∧
  -- soft errors
  (∀ (s : State) (k i : Nat) (r : DieReq) (err : Nat), (s.stack k).queue[i]? = some r → (err = 1 ∨ err = 2) →
    let st := s.stack k
    let q := (st.queue.take i).map (fun (x : DieReq) => { x with passed := x.passed + 1 }) ++ st.queue.drop (i + 1)
    let rows := if q.isEmpty then [] else put (bankOf (stackAddr r.pa)) (rowOfAddr (stackAddr r.pa)) st.rows
    let rmw := if r.write && r.bmask != 2 ^ 32 - 1 then 1 else 0
    let rep : DieReply := { rtag := r.rtag, rid := r.rid, pa := r.pa, n := r.n, write := r.write,
                            data := if r.write then [] else cellsRead s.mem r.pa (32 * r.n),
                            status := 16 * st.seq + 65536 * rmw + (if err = 1 then 2 ^ 17 else 2 ^ 18) + 2 ^ 20 * k }
    ∃ t : State, (∀ a, s.memWf → cellRead t.mem a =
        if r.write = true ∧ err = 1 ∧ r.pa ≤ a ∧ a < r.pa + 32 ∧ bit r.bmask (a - r.pa) = true then r.data.getD (a - r.pa) 0
        else cellRead s.mem a) ∧
      t = { s.setStack k { st with queue := q, rows, seq := (st.seq + 1) % 4096, came := none } with mem := t.mem } ∧
      (∀ sl, r.by_ = .slice sl → s.serveDie k i err = t.send (stackDie k) (sliceDie sl) (.slice sl rep)) ∧
      ∀ u pkt w, r.by_ = .direct u pkt → s.warp? u = some w → s.serveDie k i err = t.send (stackDie k) w.die (.direct u pkt rep)) ∧
  (∀ (s : State) (unit addr : Nat) (owner : Option Nat),
    let found := fun (t : State) (i : Nat) (r : DieReq) => t.dieNext unit = some i ∧ (t.stack unit).queue[i]? = some r ∧ r.pa ≤ addr ∧
      addr < r.pa + 32 * r.n ∧ (r.write = false ∨ r.bmask ≠ 2 ^ 32 - 1)
    let counts := fun (t : State) => crossed (t.setStack unit { t.stack unit with hce := more (t.stack unit).hce }) (stackDie unit) unit
      (t.stack unit).hce (t.stack unit).hceth
    (∀ i r, found s i r → exec (.eccCorrected true unit addr) s = .next (counts (s.serveDie unit i 1))) ∧
    ((∀ i r, ¬found s i r) → exec (.eccCorrected true unit addr) s = .next (counts s)) ∧
    let u := (Config.freeWord s.free).toNat % 65536
    let d := s.die unit
    let one : State := { s with free := s.free + 1 }
    exec (.eccCorrected false unit addr) s = .next (crossed (one.setDie unit { d with sce := more d.sce }) unit u d.sce d.ceth) ∧
    let ended := fun (die u : Nat) (t : State) => match owner with
      | some c => t.ctxFatal c die u 0x81 addr
      | none => t.deviceFatal 0x81 addr
    exec (.eccUncorrectable false unit addr owner) s = .next (ended unit u
      ((one.setDie unit { d with sue := more d.sue }).bore unit 0x11 u (owner.getD 0xFFFF) addr 0)) ∧
    let told := (s.setStack unit { s.stack unit with hue := more (s.stack unit).hue }).bore (stackDie unit) 0x11 unit (owner.getD 0xFFFF) addr 0
    ((∀ i r, ¬found told i r) → exec (.eccUncorrectable true unit addr owner) s = .next (ended (stackDie unit) unit told)) ∧
    (∀ i r, found told i r →
      let told_by_reply := r.write = false ∨ ∃ w p, r.by_ = .direct w p
      (told_by_reply → exec (.eccUncorrectable true unit addr owner) s = .next (told.serveDie unit i 2)) ∧
      (¬told_by_reply → exec (.eccUncorrectable true unit addr owner) s = .next (ended (stackDie unit) unit (told.serveDie unit i 2)))) ∧
    exec (.hbmScrub unit) s = .next s) ∧
  (∀ (s : State) (unit v : Nat), v < 2 ^ 32 →
    let st := s.stack unit
    let d := s.die unit
    let ofStack := fun (n : Nat) => HostWrites s (.eccCounterWrite true unit n v) (0x1000800 + 16 * unit + 4 * n) 4 v
    let ofDie := fun (n : Nat) => HostWrites s (.eccCounterWrite false unit n v) (0x100040C + 64 * unit + 4 * n) 4 v
    ofStack 0 (s.setStack unit { st with hce := v }) ∧ ofStack 1 (s.setStack unit { st with hue := v }) ∧
    ofStack 2 (s.setStack unit { st with hceth := v }) ∧ ofDie 0 (s.setDie unit { d with sce := v }) ∧
    ofDie 1 (s.setDie unit { d with sue := v }) ∧ ofDie 2 (s.setDie unit { d with ceth := v })) ∧
  -- power
  (∀ (s : State) (v d : Nat),
    let p := min 2200 (max 800 (v % 65536))
    HostWrites s (.powerLimitWrite v) 0x1000200 4 v ((List.range 9).foldl State.retarget { s with regs := { s.regs with plimit := p } }) ∧
    let x := s.die d
    let full := 20 * (s.regs.plimit - 500) / 1700
    let x1 := { x with target := if x.throt = true then max 1 (full / 2) else full }
    let n := x1.addTokens.ring.length
    let burst := ∃ c, c < 32 ∧ (s.mx (32 * d + c)).tok ≠ none
    (burst → s.retarget d = s.setDie d x1) ∧ x1.addTokens.target = x1.target ∧ n = max x1.target x.ring.length ∧
    (¬burst → n = x.ring.length → s.retarget d = s.setDie d x1.addTokens) ∧
    (¬burst → n ≠ x.ring.length → s.retarget d = (s.setDie d x1.addTokens).bore d 0x30 d 0xFFFF n x.ring.length)) ∧
  (∀ (s : State) (d temp : Nat) (i : Instr), temp < 65536 → i ∈ [Instr.throttleSet d temp, .throttleClear d temp, .thermalShutdown d temp] →
    let x := s.die d
    let follows_ := if x.throt = false ∧ 16 * 95 < temp then
        ((s.setDie d { x with temp, throt := true }).bore d 0x31 d 0xFFFF temp 0).retarget d
      else if x.throt = true ∧ temp < 16 * 90 then (s.setDie d { x with temp, throt := false }).retarget d
      else s.setDie d { x with temp }
    (temp < 16 * 110 → exec i s = .next follows_) ∧ (16 * 110 ≤ x.temp → exec i s = .next follows_) ∧
    (x.temp < 16 * 110 → 16 * 110 ≤ temp → exec i s = .next (fatal (follows_.bore d 0x32 d 0xFFFF temp 0)))) ∧
  (∀ s : State, s.regs.power = 0 →
    let t := s.landAll fun _ => true
    let t := t.workingCtxs.foldl (fun s c => s.endCtx c) t
    ∃ t' : State, exec .d3hotEnter s = .next t' ∧ t'.regs = { t.regs with power := 1 } ∧ t'.mem = t.settledMem ∧
      (∀ d, (t'.die d).log = (t.die d).log ∧ (t'.die d).wrseq = (t.die d).wrseq) ∧ t'.cores = [] ∧ t'.slices = [] ∧ t'.mesh = [] ∧
      t'.env.hostReqs = [] ∧ t'.env.posted = [] ∧ ∀ c ∈ t'.chans, c.saved = [] ∧ c.walk = []) ∧
  (∀ (s : State) (c : Nat), c ∈ s.workingCtxs ↔ (∃ w ∈ s.warps, w.ctx = c) ∨ (∃ g ∈ s.disp.gangs, g.ctx = c) ∨
    (∃ l ∈ s.disp.launches, l.ctx = c) ∨ (∃ q ∈ s.quarries, q.ctx = c) ∨ (∃ q ∈ s.disp.queues, q.count ≠ 0 ∧ q.ctx = c) ∨
    ∃ x ∈ s.chans, x.saved ≠ [] ∧ x.ctx = c) ∧
  ∀ s : State, s.regs.power = 1 →
    let lost := (List.range 34).filter s.isReady ++ (if s.regs.fail = true then [34] else [])
    let tell := fun (t : State) (fn : Nat) => ({ t with free := t.free + 1 } : State).bore (if fn = 34 then 0 else functionDie fn)
      ((Config.freeWord t.free).toNat % 65536) (if fn = 34 then 0 else functionUnit fn) 0xFFFF fn 0
    let regs := { s.regs with power := 0, bootst := 0, rdyDie := 0, rdyStack := 0, rdyLink := 0, rdyHost := false, fail := false, failed := [] }
    exec .d3hotExit s = .next (lost.foldl tell { s with regs, dies := s.dies.map fun p => (p.1, { p.2 with clready := 0 }) })
end

