-- ==== Sys2Proof/Laws/Masks.lean ====
section
/-! SUPPORT. Thread masks and lists of threads (R5). -/

namespace Sys2Proof.Machine

theorem has_lt {m : Mask} {t : Nat} (h : has m t = true) : t < 32 := BitVec.lt_of_getLsbD h

@[simp] theorem has_zero (t : Nat) : has 0#32 t = false := by simp [has]
@[simp] theorem has_or (m n : Mask) (t : Nat) : has (m ||| n) t = (has m t || has n t) := by simp [has]
@[simp] theorem has_and (m n : Mask) (t : Nat) : has (m &&& n) t = (has m t && has n t) := by simp [has]
theorem has_not (m : Mask) (t : Nat) : has (~~~m) t = (decide (t < 32) && !has m t) := by simp [has]

/-- Two masks of the same threads are equal. -/
theorem mask_ext {m n : Mask} (h : ∀ t, t < 32 → has m t = has n t) : m = n :=
  BitVec.eq_of_getLsbD_eq fun i hi => h i hi

theorem has_bit (t u : Nat) : has ((1 : Mask) <<< t) u = (decide (u = t) && decide (u < 32)) := by
  simp only [has, BitVec.getLsbD_shiftLeft]
  by_cases h : u = t
  · subst h; simp
  · by_cases h2 : u < t
    · simp [h, h2]
    · simp [h, h2]; omega

theorem has_foldl_or (ts : List Nat) (m : Mask) (t : Nat) :
    has (ts.foldl (fun m t => m ||| ((1 : Mask) <<< t)) m) t = (has m t || (decide (t ∈ ts) && decide (t < 32))) := by
  induction ts generalizing m with
  | nil => simp
  | cons u us ih =>
    simp only [List.foldl_cons, ih, has_or, has_bit, List.mem_cons]
    by_cases h : t = u <;> simp [h]
    cases has m u <;> simp

/-- A list's mask holds the threads of the list. -/
@[simp] theorem has_maskOf (ts : List Nat) (t : Nat) : has (maskOf ts) t = (decide (t ∈ ts) && decide (t < 32)) := by
  rw [maskOf, has_foldl_or]; simp

@[simp] theorem has_maskWhere (p : Nat → Bool) (t : Nat) : has (maskWhere p) t = (decide (t < 32) && p t) := by
  simp only [maskWhere, has_maskOf, List.mem_filter, List.mem_range]
  by_cases h : t < 32 <;> simp [h]

@[simp] theorem mem_threads (m : Mask) (t : Nat) : t ∈ threads m ↔ has m t = true := by
  simp only [threads, List.mem_filter, List.mem_range]
  exact ⟨fun h => h.2, fun h => ⟨has_lt h, h⟩⟩

theorem threads_eq_nil {m : Mask} : threads m = [] ↔ m = 0 := by
  constructor
  · intro h
    refine mask_ext fun t ht => ?_
    by_contra hc
    have : t ∈ threads m := by rw [mem_threads]; cases hh : has m t <;> simp_all
    simp [h] at this
  · rintro rfl; simp [threads]

/-- No participant: the mask is empty. -/
theorem lowest_eq_none {m : Mask} : lowest m = none ↔ m = 0 := by
  simp [lowest, threads_eq_nil]

theorem lowest_has {m : Mask} {t : Nat} (h : lowest m = some t) : has m t = true := by
  have := List.mem_of_mem_head? (l := threads m) (a := t) (by simpa [lowest] using h)
  simpa using this

@[simp] theorem lowest_zero : lowest 0 = none := lowest_eq_none.2 rfl

theorem lowest_isSome {m : Mask} (h : m ≠ 0) : ∃ t, lowest m = some t := by
  cases hl : lowest m with
  | none => exact absurd (lowest_eq_none.1 hl) h
  | some t => exact ⟨t, rfl⟩

theorem ne_zero_of_has {m : Mask} {t : Nat} (h : has m t = true) : m ≠ 0 := by
  rintro rfl; simp at h

theorem nth_map_range (f : Nat → Word) {t : Nat} (ht : t < 32) : nth ((List.range 32).map f) t = f t := by
  simp [nth, ht]

theorem nth_replicate (v : Word) {t : Nat} (ht : t < 32) : nth (List.replicate 32 v) t = v := by
  simp only [nth, List.getD_eq_getElem?_getD, List.getElem?_replicate, ht]; rfl

end Sys2Proof.Machine
end

