-- ==== Sys2Proof/Laws/Warps.lean ====
section
/-! SUPPORT. Looking up and replacing warps, and the fields that the updates of a warp leave. -/

namespace Sys2Proof.Machine

theorem warp?_uid {s : State} {u : Nat} {w : Warp} (h : s.warp? u = some w) : w.uid = u := by
  have := List.find?_some h
  simpa using this

theorem find?_map_uid (l : List Warp) (f : Warp → Warp) (hf : ∀ x, (f x).uid = x.uid) (u : Nat) :
    (l.map f).find? (fun w => w.uid == u) = (l.find? fun w => w.uid == u).map f := by
  induction l with
  | nil => rfl
  | cons x xs ih =>
    simp only [List.map_cons, List.find?_cons, hf]
    cases x.uid == u <;> simp [ih]

theorem setWarp_uid (w x : Warp) : (if x.uid == w.uid then w else x).uid = x.uid := by
  by_cases h : x.uid = w.uid <;> simp [h]

/-- Reading a warp after replacing one. -/
theorem warp?_setWarp {s : State} {u : Nat} {w0 w : Warp} (h : s.warp? u = some w0) (hu : w.uid = u) :
    (s.setWarp w).warp? u = some w := by
  simp only [State.warp?, State.setWarp] at *
  rw [find?_map_uid _ _ (setWarp_uid w), h]
  have := List.find?_some h
  simp only [beq_iff_eq] at this
  simp [this, hu]

theorem warp?_setWarp_ne (s : State) {u : Nat} {w : Warp} (h : w.uid ≠ u) : (s.setWarp w).warp? u = s.warp? u := by
  simp only [State.warp?, State.setWarp]
  rw [find?_map_uid _ _ (setWarp_uid w)]
  cases hl : s.warps.find? fun x => x.uid == u with
  | none => rfl
  | some x =>
    have := List.find?_some hl
    simp only [beq_iff_eq] at this
    have hx : ¬ x.uid = w.uid := by omega
    simp [hx]

theorem setWarp_setWarp (s : State) {w w' : Warp} (h : w.uid = w'.uid) : (s.setWarp w).setWarp w' = s.setWarp w' := by
  simp only [State.setWarp, List.map_map]
  congr 1
  apply List.map_congr_left
  intro x _
  by_cases hx : x.uid = w'.uid
  · simp [h, hx]
  · simp [h, hx]

/-- A change that leaves the warp of that number as it is. -/
theorem modWarp_setWarp (s : State) {u : Nat} {w : Warp} (f : Warp → Warp) (hu : w.uid = u) :
    (s.setWarp w).modWarp u f = { s with warps := s.warps.map fun x => if x.uid == u then f w else x } := by
  simp only [State.modWarp, State.setWarp, List.map_map]
  congr 1
  apply List.map_congr_left
  intro x _
  by_cases h' : x.uid = u <;> simp [h', hu]

theorem modWarp_setWarp_id (s : State) {u : Nat} {w : Warp} (f : Warp → Warp) (hu : w.uid = u) (hf : f w = w) :
    (s.setWarp w).modWarp u f = s.setWarp w := by
  rw [modWarp_setWarp s f hu, hf]; subst hu; rfl

theorem cur_eq {s : State} {c : Issue} {w : Warp} (hi : s.issue = some c) (hw : s.warp? c.uid = some w) :
    s.cur = some (c, w) := by
  simp [State.cur, hi, hw]

end Sys2Proof.Machine
end

