-- ==== Sys2Proof/Laws/Retire.lean ====
section
/-! SUPPORT. Retiring in a calm warp (R17, R148): nothing but the issuing slot moves. -/

namespace Sys2Proof.Machine

/-! Slots. -/

@[simp] theorem setSlot_length (w : Warp) (k : Nat) (x : Slot) : (w.setSlot k x).slots.length = w.slots.length := by
  simp [Warp.setSlot]
theorem slot_setSlot (w : Warp) {k : Nat} (x : Slot) (h : k < w.slots.length) (j : Nat) :
    (w.setSlot k x).slot j = if j = k then x else w.slot j := by
  simp only [Warp.slot, Warp.setSlot, List.getD_eq_getElem?_getD, List.getElem?_set]
  by_cases hj : k = j
  · subst hj; simp [h]
  · simp [hj, Ne.symm hj]
theorem setSlot_frame (w : Warp) (k : Nat) (x : Slot) : w.setSlot k x = { w with slots := (w.setSlot k x).slots } := rfl

/-- Two warps whose slots hold the same threads, pcs, waits and traps, and that agree but for regions and released
entries. -/
structure SameWarp (w w' : Warp) : Prop where
  frame : w' = { w with slots := w'.slots, sq := w'.sq, bnds := w'.bnds }
  length : w'.slots.length = w.slots.length
  mask : ∀ j, (w'.slot j).mask = (w.slot j).mask
  pc : ∀ j, (w'.slot j).pc = (w.slot j).pc
  wait : ∀ j, (w'.slot j).wait = (w.slot j).wait
  trap : ∀ j, (w'.slot j).trap = (w.slot j).trap
  queue : w.sameQueue w'

theorem SameWarp.rfl' (w : Warp) : SameWarp w w := ⟨rfl, rfl, fun _ => rfl, fun _ => rfl, fun _ => rfl, fun _ => rfl, rfl⟩

theorem SameWarp.trans {a b c : Warp} (h : SameWarp a b) (g : SameWarp b c) : SameWarp a c := by
  refine ⟨?_, g.length.trans h.length, fun j => (g.mask j).trans (h.mask j), fun j => (g.pc j).trans (h.pc j),
    fun j => (g.wait j).trans (h.wait j), fun j => (g.trap j).trans (h.trap j), g.queue.trans h.queue⟩
  rw [g.frame, h.frame]

theorem SameWarp.bnds (w : Warp) (l : List Boundary) : SameWarp w { w with bnds := l } :=
  ⟨rfl, rfl, fun _ => rfl, fun _ => rfl, fun _ => rfl, fun _ => rfl, rfl⟩

theorem SameWarp.release (w : Warp) (n : Nat) : SameWarp w (w.release n) := by
  refine ⟨rfl, rfl, fun _ => rfl, fun _ => rfl, fun _ => rfl, fun _ => rfl, ?_⟩
  simp only [Warp.sameQueue, Warp.release, List.map_map]
  apply List.map_congr_left
  intro e _
  by_cases h : e.seq < n <;> simp [h]

theorem SameWarp.region (w : Warp) (k : Nat) (r : Option (DWord × Mask)) : SameWarp w (w.region k r) := by
  unfold Warp.region
  split
  · exact .rfl' w
  · rename_i pc m
    have key : ∀ (f : Slot → Mask × DWord × Option Wait × Option TrapReq)
        (_ : ∀ sl : Slot, f { sl with epc := pc, emask := m } = f sl) (j : Nat),
        f ((w.setSlot k { w.slot k with epc := pc, emask := m }).slot j) = f (w.slot j) := by
      intro f hf j
      by_cases hk : k < w.slots.length
      · rw [slot_setSlot w _ hk]
        by_cases hj : j = k
        · subst hj; simp [hf]
        · simp [hj]
      · simp [Warp.slot, Warp.setSlot, List.set_eq_of_length_le (by omega : w.slots.length ≤ k)]
    have k2 := key (fun sl => (sl.mask, sl.pc, sl.wait, sl.trap)) (fun _ => rfl)
    simp only [Prod.mk.injEq] at k2
    exact ⟨rfl, by simp, fun j => (k2 j).1, fun j => (k2 j).2.1, fun j => (k2 j).2.2.1, fun j => (k2 j).2.2.2, rfl⟩

theorem SameWarp.applyBnds (l : List Boundary) (w : Warp) : SameWarp w (w.applyBnds l) := by
  induction l generalizing w with
  | nil => exact .bnds w []
  | cons b bs ih =>
    unfold Warp.applyBnds
    split
    · exact .bnds w _
    · exact (((SameWarp.release w _).trans (.region _ 0 _)).trans (.region _ 1 _)).trans (ih _)

theorem SameWarp.boundary (w : Warp) (n k : Nat) (pc : DWord) (m : Mask) : SameWarp w (w.boundary n k pc m) := by
  unfold Warp.boundary
  exact (SameWarp.bnds w _).trans (.applyBnds _ _)

theorem SameWarp.settleBnds (w : Warp) : SameWarp w w.settleBnds := .applyBnds _ _

/-! Nothing is due in a calm warp. -/

theorem calm_iff {w : Warp} {k : Nat} : w.calm k = true ↔
    k < w.slots.length ∧ (w.slot k).mask ≠ 0 ∧ w.pend = [] ∧
      (w.depth ≤ w.stackBase ∨ (w.slotFree 0 = false ∧ w.slotFree 1 = false)) ∧
      (∀ r ∈ w.rj, r.complete = false) ∧ (∀ h, w.handler = some h → (w.slot h.slot).mask ≠ 0) := by
  unfold Warp.calm
  cases w.handler <;> simp [and_assoc]

/-- What makes a warp calm does not depend on its regions, released entries, pcs and registers. -/
theorem calm_of {w w' : Warp} {k : Nat} (h : w.calm k = true) (hl : w'.slots.length = w.slots.length)
    (hm : ∀ j, (w'.slot j).mask = (w.slot j).mask) (hw : ∀ j, (w'.slot j).wait = (w.slot j).wait)
    (hp : w'.pend = w.pend) (hd : w'.depth = w.depth) (hr : w'.rj = w.rj) (hh : w'.handler = w.handler) :
    w'.calm k = true := by
  rw [calm_iff] at *
  obtain ⟨h1, h2, h3, h4, h5, h6⟩ := h
  have hf : ∀ j, w'.slotFree j = w.slotFree j := fun j => by simp [Warp.slotFree, Warp.frozen, hm, hw, hh]
  refine ⟨by omega, by rwa [hm], by rw [hp, h3], ?_, by rwa [hr], fun h he => by rw [hm]; exact h6 h (hh ▸ he)⟩
  rw [hf, hf, hd]
  simpa [Warp.stackBase, hh] using h4

theorem testRejoins_calm {w : Warp} {k : Nat} (h : w.calm k = true) : w.testRejoins = w := by
  have h5 := (calm_iff.1 h).2.2.2.2.1
  have hn : ∀ j, (w.rj.getD j Rejoin.none).complete = false := by
    intro j
    rw [List.getD_eq_getElem?_getD]
    cases hj : w.rj[j]? with
    | none => simp [Rejoin.none, Rejoin.complete]
    | some r => simpa using h5 r (List.mem_of_getElem? hj)
  unfold Warp.testRejoins
  generalize List.range 8 = l
  induction l with
  | nil => rfl
  | cons j js ih => rw [List.foldl_cons]; simp only [hn j]; exact ih

theorem stackStep_calm {s : State} {u k : Nat} {w : Warp} (hw : s.warp? u = some w) (h : w.calm k = true) :
    s.stackStep u = none := by
  obtain ⟨_, _, h3, h4, _, _⟩ := calm_iff.1 h
  simp only [State.stackStep, hw, h3]
  rcases h4 with h4 | ⟨h4, h4'⟩
  · cases hh : w.handler <;> simp only [hh, Warp.stackBase] at h4 ⊢ <;> split <;> first | rfl | exact if_pos h4
  · simp [h4, h4']

theorem stackFault_calm {s : State} {u k : Nat} {w : Warp} (hw : s.warp? u = some w) (h : w.calm k = true) :
    s.stackFault u = s := by
  obtain ⟨_, _, h3, h4, _, _⟩ := calm_iff.1 h
  simp only [State.stackFault, hw, h3]
  rw [if_neg]
  rcases h4 with h4 | ⟨h4, h4'⟩
  · cases hh : w.handler <;> simp only [hh, Warp.stackBase] at h4 ⊢ <;> simp <;> omega
  · simp [h4, h4']

theorem stackLoop_calm {s : State} {u k : Nat} {w : Warp} (hw : s.warp? u = some w) (h : w.calm k = true) (n : Nat) :
    s.stackLoop u n = s := by
  cases n with
  | zero => rfl
  | succ n => simp only [State.stackLoop, stackStep_calm hw h, stackFault_calm hw h]

theorem endHandler_calm {w : Warp} {k : Nat} (h : w.calm k = true) : w.endHandler = w := by
  unfold Warp.endHandler
  split
  · rfl
  · rename_i hd he
    have h6 : (w.slot hd.slot).mask ≠ 0#32 := (calm_iff.1 h).2.2.2.2.2 hd he
    rw [if_neg]
    simp [h6]

theorem deadPark_calm {s : State} {u k : Nat} {w : Warp} (hw : s.warp? u = some w) (h : w.calm k = true) (hk : k < 2) :
    s.deadPark u = s := by
  obtain ⟨_, h2, _, _, _, _⟩ := calm_iff.1 h
  have h2' : (w.slot k).mask ≠ 0#32 := h2
  simp only [State.deadPark, hw]
  rw [if_neg]
  have : k = 0 ∨ k = 1 := by omega
  rcases this with rfl | rfl <;> simp [h2']

/-- Nothing more is due after a calm warp has been put in place. -/
theorem settle_calm {s : State} {w w0 : Warp} {k : Nat} (hw : s.warp? w.uid = some w0) (h : w.calm k = true) (hk : k < 2) :
    (s.setWarp w).settle w.uid = s.setWarp w := by
  have hg := warp?_setWarp hw rfl
  unfold State.settle
  simp only [stackLoop_calm hg h, modWarp_setWarp_id s _ rfl (endHandler_calm h), deadPark_calm hg h hk]

/-! Retiring. -/

/-- What retiring has done to the issuing warp when it has gone on to the next instruction. -/
structure Retired (c : Issue) (w w' : Warp) : Prop where
  frame : w' = { w with fsr := (w.orFlags c.flags).fsr, slots := w'.slots, lastIns := w'.lastIns, seq := w.seq + 1,
                        grants := w.grants + 1, lastSlot := c.slot, bnds := w'.bnds, sq := w'.sq, park := w'.park }
  length : w'.slots.length = w.slots.length
  mask : ∀ j, (w'.slot j).mask = (w.slot j).mask
  pc : ∀ j, (w'.slot j).pc = if j = c.slot then c.npc else (w.slot j).pc
  wait : ∀ j, (w'.slot j).wait = (w.slot j).wait
  trap : ∀ j, (w'.slot j).trap = (w.slot j).trap
  queue : w.sameQueue w'
  park : w'.park = { w.park with marker := w.park.marker || c.marker }

/-- The switch marker as it stands after a word that carries `m` (R24). -/
theorem marked_eq (w : Warp) (m : Bool) :
    (if m then { w with park := { w.park with marker := true } } else w) = { w with park := { w.park with marker := w.park.marker || m } } := by
  cases m <;> simp

/-- A chain that ends without a trap in a calm warp: its threads go on at the next instruction, and nothing else of the
state moves. -/
theorem retire_calm {s : State} {c : Issue} {w : Warp} (hi : s.issue = some c) (hw : s.warp? c.uid = some w)
    (hc : w.calm c.slot = true) (h2 : c.slot < 2) (ht : c.trap = none) (bnd : Bnd) :
    ∃ w', s.retire bnd none = { s with issue := none }.setWarp w' ∧ w'.uid = w.uid ∧ Retired c w w' := by
  obtain ⟨hlen, _⟩ := calm_iff.1 hc
  have huid : w.uid = c.uid := warp?_uid hw
  -- the warp before boundaries
  let w1 : Warp := { w.orFlags c.flags with
    seq := w.seq + 1, grants := w.grants + 1, lastSlot := c.slot, lastIns := ⟨c.slot, c.fpc, c.npc, c.wslot, c.word, w.lastIns.parked⟩ }
  let w2 : Warp := w1.setSlot c.slot { w.slot c.slot with last := w.seq + 1, prev := (w.slot c.slot).pc }
  let w2m : Warp := if c.marker then { w2 with park := { w2.park with marker := true } } else w2
  have hm : w2m = { w2 with park := { w.park with marker := w.park.marker || c.marker } } := marked_eq w2 c.marker
  let w3 : Warp := w2m.setSlot c.slot { w2m.slot c.slot with pc := c.npc, mask := (w.slot c.slot).mask }
  have hl1 : c.slot < w1.slots.length := hlen
  have hl2 : c.slot < w2m.slots.length := by rw [hm]; show c.slot < (w1.setSlot _ _).slots.length; rw [setSlot_length]; exact hlen
  have s2 : ∀ j, w2m.slot j = if j = c.slot then { w.slot c.slot with last := w.seq + 1, prev := (w.slot c.slot).pc } else w.slot j :=
    fun j => by rw [hm]; exact slot_setSlot w1 _ hl1 j
  have s3 : ∀ j, w3.slot j = if j = c.slot then { w2m.slot c.slot with pc := c.npc, mask := (w.slot c.slot).mask } else w2m.slot j :=
    fun j => slot_setSlot w2m _ hl2 j
  have f3 : w3 = { w with fsr := (w.orFlags c.flags).fsr, slots := w3.slots, lastIns := w3.lastIns, seq := w.seq + 1,
                          grants := w.grants + 1, lastSlot := c.slot,
                          park := { w.park with marker := w.park.marker || c.marker } } := by
    simp only [w3, hm]; rfl
  let w4 : Warp := if c.marker || c.bound || bnd == .after || bnd == .self then w3.boundary (w.seq + 1) c.slot c.npc (w.slot c.slot).mask else w3
  have h4 : SameWarp w3 w4 := by
    by_cases hb : (c.marker || c.bound || bnd == .after || bnd == .self) = true
    · simp only [w4, hb, if_true]; exact .boundary _ _ _ _ _
    · simp only [w4, hb]; exact .rfl' _
  have hR : Retired c w w4 := by
    refine ⟨?_, ?_, fun j => ?_, fun j => ?_, fun j => ?_, fun j => ?_, ?_, ?_⟩
    · rw [h4.frame, f3]
    · rw [h4.length]; simp [w3, hm, w2, w1, Warp.orFlags]
    · rw [h4.mask, s3]; by_cases hj : j = c.slot <;> simp [hj, s2]
    · rw [h4.pc, s3]; by_cases hj : j = c.slot <;> simp [hj, s2]
    · rw [h4.wait, s3]; by_cases hj : j = c.slot <;> simp [hj, s2]
    · rw [h4.trap, s3]; by_cases hj : j = c.slot <;> simp [hj, s2]
    · have := h4.queue; rw [Warp.sameQueue, f3] at this; exact this
    · rw [h4.frame, f3]
  have hcalm : w4.calm c.slot = true := calm_of hc hR.length hR.mask hR.wait (by rw [hR.frame]) (by rw [hR.frame])
    (by rw [hR.frame]) (by rw [hR.frame])
  have hu4 : w4.uid = c.uid := by rw [hR.frame]; exact huid
  refine ⟨w4, ?_, by rw [hu4, huid], hR⟩
  have hcur := cur_eq hi hw
  have hgo : s.retire bnd none =
      (({ s with issue := none }.setWarp w4).modWarp c.uid Warp.testRejoins).settle c.uid := by
    have hsp : (([(c.npc, (w.slot c.slot).mask)] : List (DWord × Mask)).length != 1 ||
        ([(c.npc, (w.slot c.slot).mask)] : List (DWord × Mask)).foldl (fun m g => m ||| g.2) (0 : Mask) != (w.slot c.slot).mask) = false := by
      simp
    have e1 : (w.orFlags c.flags).slot c.slot = w.slot c.slot := rfl
    unfold State.retire
    simp only [hcur, ht, Option.getD_none, e1, hsp]
    rfl
  rw [hgo, modWarp_setWarp_id _ _ hu4 (testRejoins_calm hcalm), ← hu4]
  have hw0 : ({ s with issue := none } : State).warp? w4.uid = some w := by rw [hu4]; exact hw
  exact settle_calm hw0 hcalm h2

/-- A word or chain that ends with a trap in a calm warp: the slot holds the trap, and it is taken from there; the switch
marker stands as without it. -/
theorem retire_trap {s : State} {c : Issue} {w : Warp} {tr : TrapReq} (hi : s.issue = some c) (hw : s.warp? c.uid = some w)
    (hc : w.calm c.slot = true) (h2 : c.slot < 2) (ht : c.trap = some tr) (bnd : Bnd) (gs : Option (List (DWord × Mask))) :
    ∃ w', s.retire bnd gs = ({ s with issue := none }.setWarp w').takeTrap c.uid c.slot ∧ w'.uid = w.uid ∧
      w' = { w with fsr := (w.orFlags c.flags).fsr, slots := w'.slots, lastIns := w'.lastIns, seq := w.seq + 1,
                    grants := w.grants + 1, lastSlot := c.slot, park := { w.park with marker := w.park.marker || c.marker } } ∧
      (∀ j, (w'.slot j).mask = (w.slot j).mask ∧ (w'.slot j).pc = (w.slot j).pc ∧ (w'.slot j).epc = (w.slot j).epc ∧
        (w'.slot j).emask = (w.slot j).emask ∧ (w'.slot j).wait = (w.slot j).wait ∧
        (j ≠ c.slot → (w'.slot j).trap = (w.slot j).trap)) ∧ (w'.slot c.slot).trap = some tr := by
  obtain ⟨hlen, _⟩ := calm_iff.1 hc
  have huid : w.uid = c.uid := warp?_uid hw
  let w1 : Warp := { w.orFlags c.flags with
    seq := w.seq + 1, grants := w.grants + 1, lastSlot := c.slot, lastIns := ⟨c.slot, c.fpc, c.npc, c.wslot, c.word, w.lastIns.parked⟩ }
  let w2 : Warp := w1.setSlot c.slot { w.slot c.slot with last := w.seq + 1, prev := (w.slot c.slot).pc }
  let w2m : Warp := if c.marker then { w2 with park := { w2.park with marker := true } } else w2
  have hm : w2m = { w2 with park := { w.park with marker := w.park.marker || c.marker } } := marked_eq w2 c.marker
  let w3 : Warp := w2m.setSlot c.slot { w2m.slot c.slot with trap := some tr }
  have hl2 : c.slot < w2m.slots.length := by rw [hm]; show c.slot < (w1.setSlot _ _).slots.length; rw [setSlot_length]; exact hlen
  have s2 : ∀ j, w2m.slot j = if j = c.slot then { w.slot c.slot with last := w.seq + 1, prev := (w.slot c.slot).pc } else w.slot j :=
    fun j => by rw [hm]; exact slot_setSlot w1 _ hlen j
  have s3 : ∀ j, w3.slot j = if j = c.slot then { w2m.slot c.slot with trap := some tr } else w2m.slot j :=
    fun j => slot_setSlot w2m _ hl2 j
  have f3 : w3 = { w with fsr := (w.orFlags c.flags).fsr, slots := w3.slots, lastIns := w3.lastIns, seq := w.seq + 1,
                          grants := w.grants + 1, lastSlot := c.slot,
                          park := { w.park with marker := w.park.marker || c.marker } } := by
    simp only [w3, hm]; rfl
  have h3l : w3.slots.length = w.slots.length := by simp [w3, hm, w2, w1, Warp.orFlags]
  have hs : ∀ j, (w3.slot j).mask = (w.slot j).mask ∧ (w3.slot j).pc = (w.slot j).pc ∧ (w3.slot j).epc = (w.slot j).epc ∧
      (w3.slot j).emask = (w.slot j).emask ∧ (w3.slot j).wait = (w.slot j).wait ∧
      (j ≠ c.slot → (w3.slot j).trap = (w.slot j).trap) := by
    intro j
    rw [s3]
    by_cases hj : j = c.slot <;> simp [hj, s2]
  have hcalm : w3.calm c.slot = true :=
    calm_of hc h3l (fun j => (hs j).1) (fun j => (hs j).2.2.2.2.1) (by rw [f3]) (by rw [f3]) (by rw [f3]) (by rw [f3])
  have hcur := cur_eq hi hw
  have hgo : s.retire bnd gs =
      ((({ s with issue := none }.setWarp w3).modWarp c.uid Warp.testRejoins).settle c.uid).takeTrap c.uid c.slot := by
    unfold State.retire
    simp only [hcur, ht]
    rfl
  refine ⟨w3, ?_, by rw [f3], f3.trans rfl, hs, by rw [s3]; simp⟩
  have hw0 : ({ s with issue := none } : State).warp? w3.uid = some w := by
    rw [f3]; show s.warp? w.uid = some w; rw [huid]; exact hw
  have hu3 : w3.uid = c.uid := by rw [f3]; exact huid
  rw [hgo, modWarp_setWarp_id _ _ hu3 (testRejoins_calm hcalm), ← hu3, settle_calm hw0 hcalm h2]

end Sys2Proof.Machine
end

