-- ==== Sys2Proof/Laws/Registers.lean ====
section
/-! SUPPORT. What a register reads after a write (R11, R13, R153 to R156). -/

namespace Sys2Proof.Machine

/-! One v-register. -/

/-- The values have the shape that is claimed of them (R154). -/
def Shape.fits (sh : Shape) (vals : List Word) : Prop :=
  match sh with
  | .uni => ∀ t, t < 32 → nth vals t = nth vals 0
  | .aff => ∀ t, t < 32 → nth vals t = nth vals 0 + (nth vals 1 - nth vals 0) * BitVec.ofNat 32 t
  | .gen => True

theorem has_compl_and {live cover : Mask} {t : Nat} (h : live &&& ~~~cover = 0) (hl : has live t = true) :
    has cover t = true := by
  have := congrArg (fun m => has m t) h
  simp [has_not, hl, has_lt hl] at this
  exact this

theorem read_write_covered (old : VReg) {sh : Shape} {cover live : Mask} {vals : List Word} (hf : sh.fits vals) {t : Nat}
    (ht : t < 32) (hc : has cover t = true) : (old.write sh cover live vals).read t = nth vals t := by
  unfold VReg.write
  cases sh with
  | gen => simp [VReg.read, nth_map_range _ ht, hc]
  | uni =>
    by_cases hl : live &&& ~~~cover = 0
    · have hl' : live &&& ~~~cover = 0#32 := hl
      simp [VReg.read, hl', hf t ht]
    · have hl' : ¬ live &&& ~~~cover = 0#32 := hl
      simp [VReg.read, hl', nth_map_range _ ht, hc]
  | aff =>
    by_cases hl : live &&& ~~~cover = 0
    · have hl' : live &&& ~~~cover = 0#32 := hl
      by_cases hst : nth vals 1 - nth vals 0 = 0
      · have := hf t ht
        rw [hst] at this
        have hst' : nth vals 1 - nth vals 0 = 0#32 := hst
        simp [VReg.read, hl', hst', this]
      · have hst' : ¬ nth vals 1 - nth vals 0 = 0#32 := hst
        simp [VReg.read, hl', hst', hf t ht]
    · have hl' : ¬ live &&& ~~~cover = 0#32 := hl
      simp [VReg.read, hl', nth_map_range _ ht, hc]

theorem read_write_uncovered (old : VReg) (sh : Shape) {cover live : Mask} (vals : List Word) {t : Nat}
    (hl : has live t = true) (hc : has cover t = false) : (old.write sh cover live vals).read t = old.read t := by
  have h : ¬ live &&& ~~~cover = 0 := fun h => by have := has_compl_and h hl; simp [hc] at this
  have h' : ¬ live &&& ~~~cover = 0#32 := h
  simp [VReg.write, h', VReg.read, nth_map_range _ (has_lt hl), hc]

/-! The register files. -/

theorem sized_iff {w : Warp} : w.sized = true ↔ w.v.length = 63 ∧ (∀ r ∈ w.v, r.sized = true) ∧ w.s.length = 63 ∧
    w.p.length = 127 ∧ w.fsr.length = 32 ∧ w.slots.length = 2 ∧ w.rj.length = 8 := by
  simp [Warp.sized, and_assoc]

theorem write_sized (old : VReg) (sh : Shape) (cover live : Mask) (vals : List Word) :
    (old.write sh cover live vals).sized = true := by
  unfold VReg.write
  split
  · simp only
    split <;> rfl
  · simp [VReg.sized]

theorem writeV_frame (w : Warp) (k : Nat) (sh : Shape) (cover : Mask) (vals : List Word) :
    w.writeV k sh cover vals = { w with v := (w.writeV k sh cover vals).v } := by
  unfold Warp.writeV; split <;> rfl

theorem writeV_sized {w : Warp} (h : w.sized = true) (k : Nat) (sh : Shape) (cover : Mask) (vals : List Word) :
    (w.writeV k sh cover vals).sized = true := by
  rw [sized_iff] at *
  unfold Warp.writeV
  split
  · exact h
  · refine ⟨by simpa using h.1, fun r hr => ?_, h.2.2⟩
    obtain ⟨i, hi, rfl⟩ := List.mem_iff_getElem.1 hr
    rw [List.getElem_modify]
    split
    · exact write_sized ..
    · exact h.2.1 _ (List.getElem_mem _)

theorem vreg_modify {w : Warp} (k : Nat) (f : VReg → VReg) (j : Nat) :
    Warp.vreg { w with v := w.v.modify k f } j = if j = k ∧ k < w.v.length then f (w.vreg k) else w.vreg j := by
  simp only [Warp.vreg, List.getD_eq_getElem?_getD, List.getElem?_modify]
  by_cases hj : k = j
  · subst hj
    by_cases hk : k < w.v.length
    · simp [hk]
    · simp [hk]
  · simp [hj, Ne.symm hj]

/-- A register after a write in v-space. -/
theorem reg_writeV {w : Warp} (h : w.sized = true) (k : Nat) (sh : Shape) (cover : Mask) (vals : List Word) (code t : Nat) :
    (w.writeV k sh cover vals).reg code t =
      if code = k ∧ k < 63 ∧ cover ≠ 0 then ((w.vreg k).write sh cover w.live vals).read t else w.reg code t := by
  have hl := (sized_iff.1 h).1
  unfold Warp.writeV
  by_cases hc : cover = 0
  · simp [hc]
  · have hc' : ¬ cover = 0#32 := hc
    simp only [beq_iff_eq, hc, if_false, Warp.reg, vreg_modify, hl]
    by_cases h1 : code = k
    · subst h1
      by_cases h2 : code < 63 <;> simp [h2, hc']
    · simp [h1]

theorem writeS_sized {w : Warp} (h : w.sized = true) (k : Nat) (v : Word) : (w.writeS k v).sized = true := by
  rw [sized_iff] at *
  simpa [Warp.writeS] using h

/-- A register after a write in s-space. -/
theorem reg_writeS {w : Warp} (h : w.sized = true) (k : Nat) (v : Word) (code t : Nat) :
    (w.writeS k v).reg code t = if code = k + 64 ∧ k < 63 then v else w.reg code t := by
  have hl := (sized_iff.1 h).2.2.1
  simp only [Warp.reg, Warp.writeS, Warp.vreg, nth, List.getD_eq_getElem?_getD, List.getElem?_set]
  by_cases h1 : code = k + 64
  · subst h1
    by_cases h2 : k < 63
    · simp [hl, h2, show k + 64 < 127 by omega]
    · simp [h2, show ¬ k + 64 < 127 by omega]
  · by_cases h2 : code < 127
    · by_cases h3 : code < 64
      · simp [h1, show ∀ x y z : Word, (if code < 63 then x else if code = 63 then y else z) = (if code < 63 then x else y) by
          intro x y z; by_cases h4 : code < 63 <;> by_cases h5 : code = 63 <;> simp [h4, h5]; omega]
      · simp [h1, show ¬ k = code - 64 by omega]
    · simp [h1, h2]

theorem writeCode_frame (w : Warp) (code : Nat) (sh : Shape) (cover : Mask) (vals : List Word) :
    w.writeCode code sh cover vals =
      { w with v := (w.writeCode code sh cover vals).v, s := (w.writeCode code sh cover vals).s } := by
  unfold Warp.writeCode
  split
  · rw [writeV_frame]
  · split <;> rfl

theorem writeCode_sized {w : Warp} (h : w.sized = true) (code : Nat) (sh : Shape) (cover : Mask) (vals : List Word) :
    (w.writeCode code sh cover vals).sized = true := by
  unfold Warp.writeCode
  split
  · exact writeV_sized h ..
  · split
    · exact h
    · exact writeS_sized h ..

/-- A register after a write of one register: other registers read as before. -/
theorem reg_writeCode_ne {w : Warp} (h : w.sized = true) {code : Nat} (sh : Shape) (cover : Mask) (vals : List Word)
    {j : Nat} (hj : j ≠ code) (t : Nat) : (w.writeCode code sh cover vals).reg j t = w.reg j t := by
  unfold Warp.writeCode
  split
  · rw [reg_writeV h]; simp [hj]
  · split
    · rfl
    · rw [reg_writeS h, if_neg]; omega

theorem reg_writeCode_covered {w : Warp} (h : w.sized = true) {code : Nat} {sh : Shape} {cover : Mask} {vals : List Word}
    (hf : code < 64 → sh.fits vals) (h63 : code ≠ 63) (h127 : code < 127) {t : Nat} (hc : has cover t = true) :
    (w.writeCode code sh cover vals).reg code t = nth vals (valueThread code cover t) := by
  have hne := ne_zero_of_has hc
  have hne' : ¬ cover = 0#32 := hne
  unfold Warp.writeCode valueThread
  by_cases h1 : code < 64
  · simp only [h1, if_true]
    rw [reg_writeV h, if_pos ⟨rfl, by omega, hne⟩, read_write_covered _ (hf h1) (has_lt hc) hc]
  · obtain ⟨r, hr⟩ := lowest_isSome hne
    simp only [h1, if_false, hr, Option.getD_some]
    rw [reg_writeS h, if_pos (by omega)]

theorem reg_writeCode_uncovered {w : Warp} (h : w.sized = true) {code : Nat} (sh : Shape) {cover : Mask} (vals : List Word)
    (h1 : code < 64) {t : Nat} (hl : has w.live t = true) (hc : has cover t = false) :
    (w.writeCode code sh cover vals).reg code t = w.reg code t := by
  unfold Warp.writeCode
  simp only [h1, if_true]
  rw [reg_writeV h]
  split
  · rename_i hx
    rw [read_write_uncovered _ _ _ hl hc]
    simp [Warp.reg, hx.2.1]
  · rfl

/-- Nothing is written for no thread. -/
theorem writeCode_none (w : Warp) (code : Nat) (sh : Shape) (vals : List Word) : w.writeCode code sh 0 vals = w := by
  unfold Warp.writeCode Warp.writeV
  split
  · rfl
  · have : lowest (0 : Mask) = none := lowest_zero
    rw [this]

/-! Several registers. -/

theorem files_trans {a b c : Warp} (h : b = { a with v := b.v, s := b.s }) (g : c = { b with v := c.v, s := c.s }) :
    c = { a with v := c.v, s := c.s } := by
  rw [g, h]

theorem writeWide_frame (w : Warp) (code : Nat) (sh : Shape) (cover : Mask) (n : Nat) (vals : List Nat) :
    w.writeWide code sh cover n vals =
      { w with v := (w.writeWide code sh cover n vals).v, s := (w.writeWide code sh cover n vals).s } := by
  induction n generalizing w code vals with
  | zero => rfl
  | succ n ih => exact files_trans (writeCode_frame ..) (ih ..)

theorem writeWide_sized {w : Warp} (h : w.sized = true) (code : Nat) (sh : Shape) (cover : Mask) (n : Nat) (vals : List Nat) :
    (w.writeWide code sh cover n vals).sized = true := by
  induction n generalizing w code vals with
  | zero => exact h
  | succ n ih => exact ih (writeCode_sized h ..) ..

theorem writeWide_live (w : Warp) (code : Nat) (sh : Shape) (cover : Mask) (n : Nat) (vals : List Nat) :
    (w.writeWide code sh cover n vals).live = w.live := by
  rw [writeWide_frame]; rfl

theorem reg_writeWide_other {w : Warp} (h : w.sized = true) (code : Nat) (sh : Shape) (cover : Mask) (n : Nat)
    (vals : List Nat) {j : Nat} (hj : j < code ∨ code + n ≤ j) (t : Nat) :
    (w.writeWide code sh cover n vals).reg j t = w.reg j t := by
  induction n generalizing w code vals with
  | zero => rfl
  | succ n ih =>
    unfold Warp.writeWide
    rw [ih (writeCode_sized h ..) _ _ (by omega), reg_writeCode_ne h _ _ _ (by omega)]

/-- Word `i` of the values. -/
def wordVals (i : Nat) (vals : List Nat) : List Word := vals.map fun v => BitVec.ofNat 32 (v / 2 ^ (32 * i))

theorem wordVals_succ (i : Nat) (vals : List Nat) : wordVals i (vals.map fun v => v / 2 ^ 32) = wordVals (i + 1) vals := by
  simp only [wordVals, List.map_map]
  apply List.map_congr_left
  intro v _
  rw [Function.comp, Nat.div_div_eq_div_mul, ← pow_add, show 32 + 32 * i = 32 * (i + 1) by ring]

theorem wordVals_zero (vals : List Nat) : (vals.map fun v => BitVec.ofNat 32 v) = wordVals 0 vals := by
  simp [wordVals]

/-- A register of a wide write, as a covered thread reads it. -/
theorem reg_writeWide {w : Warp} (h : w.sized = true) {code : Nat} {sh : Shape} {cover : Mask} {n : Nat} {vals : List Nat}
    (hf : code < 64 → ∀ i, i < n → sh.fits (wordVals i vals)) (hd : code + n ≤ 64 ∨ 64 ≤ code) {i : Nat} (hi : i < n)
    (h63 : code + i ≠ 63) (h127 : code + i < 127) {t : Nat} (hc : has cover t = true) :
    (w.writeWide code sh cover n vals).reg (code + i) t = nth (wordVals i vals) (valueThread code cover t) := by
  induction n generalizing w code vals i with
  | zero => omega
  | succ n ih =>
    unfold Warp.writeWide
    rw [wordVals_zero]
    cases i with
    | zero =>
      simp only [Nat.add_zero] at h63 h127 ⊢
      rw [reg_writeWide_other (writeCode_sized h ..) _ _ _ _ _ (by omega),
        reg_writeCode_covered h (fun hx => hf hx 0 (by omega)) (by omega) (by omega) hc]
    | succ i =>
      have := ih (w := w.writeCode code sh cover (wordVals 0 vals)) (writeCode_sized h ..) (code := code + 1)
        (vals := vals.map fun v => v / 2 ^ 32) (i := i)
        (fun hx i hi => by rw [wordVals_succ]; exact hf (by omega) _ (by omega)) (by omega) (by omega) (by omega) (by omega)
      rw [show code + (i + 1) = code + 1 + i by omega, this, wordVals_succ]
      congr 1
      unfold valueThread
      by_cases h1 : code < 64
      · simp [h1, show code + 1 < 64 by omega]
      · simp [h1, show ¬ code + 1 < 64 by omega]

/-- A register of a wide write in v-space, as a thread that is not covered reads it. -/
theorem reg_writeWide_uncovered {w : Warp} (h : w.sized = true) {code : Nat} (sh : Shape) {cover : Mask} (n : Nat)
    (vals : List Nat) (hd : code + n ≤ 64) {t : Nat} (hl : has w.live t = true) (hc : has cover t = false) (j : Nat) :
    (w.writeWide code sh cover n vals).reg j t = w.reg j t := by
  induction n generalizing w code vals with
  | zero => rfl
  | succ n ih =>
    unfold Warp.writeWide
    rw [ih (writeCode_sized h ..) _ (by omega) (by rw [writeCode_frame]; exact hl)]
    by_cases hj : j = code
    · subst hj; exact reg_writeCode_uncovered h _ _ (by omega) hl hc
    · exact reg_writeCode_ne h _ _ _ hj _

theorem writeWide_none (w : Warp) (code : Nat) (sh : Shape) (n : Nat) (vals : List Nat) :
    w.writeWide code sh 0 n vals = w := by
  induction n generalizing w code vals with
  | zero => rfl
  | succ n ih => unfold Warp.writeWide; rw [writeCode_none, ih]

/-! Last-read marks. -/

theorem free_sized {w : Warp} (h : w.sized = true) (k : Nat) : (w.free k).sized = true := by
  rw [sized_iff] at *
  refine ⟨by simpa [Warp.free] using h.1, fun r hr => ?_, h.2.2⟩
  rcases List.mem_or_eq_of_mem_set hr with h1 | h1
  · exact h.2.1 r h1
  · subst h1; rfl

theorem reg_free {w : Warp} (h : w.sized = true) (k code t : Nat) :
    (w.free k).reg code t = if code = k ∧ k < 63 then 0 else w.reg code t := by
  have hl := (sized_iff.1 h).1
  simp only [Warp.reg, Warp.free, Warp.vreg, List.getD_eq_getElem?_getD, List.getElem?_set]
  by_cases h1 : code = k
  · subst h1
    by_cases h2 : code < 63
    · simp [hl, h2, VReg.read]
    · simp [h2]
  · simp [h1, Ne.symm h1]

theorem frees_frame (w : Warp) (l : List Nat) : l.foldl Warp.free w = { w with v := (l.foldl Warp.free w).v } := by
  induction l generalizing w with
  | nil => rfl
  | cons k ks ih => rw [List.foldl_cons, ih]; rfl

theorem frees_sized {w : Warp} (h : w.sized = true) (l : List Nat) : (l.foldl Warp.free w).sized = true := by
  induction l generalizing w with
  | nil => exact h
  | cons k ks ih => exact ih (free_sized h k)

theorem reg_frees {w : Warp} (h : w.sized = true) (l : List Nat) (code t : Nat) :
    (l.foldl Warp.free w).reg code t = if code ∈ l ∧ code < 63 then 0 else w.reg code t := by
  induction l generalizing w with
  | nil => simp
  | cons k ks ih =>
    rw [List.foldl_cons, ih (free_sized h k), reg_free h]
    by_cases h1 : code = k
    · subst h1
      by_cases h2 : code < 63 <;> simp [h2]
    · simp [h1]

theorem markAlone_eq (w : Warp) (c : Issue) (codes : List Nat) (parts : Mask) :
    w.markAlone c codes parts = (marksOf c codes parts).foldl Warp.free w := by
  unfold Warp.markAlone marksOf; split <;> rfl

/-! Predicates. -/

theorem writeP_sized {w : Warp} (h : w.sized = true) (n : Nat) (cover vals : Mask) : (w.writeP n cover vals).sized = true := by
  rw [sized_iff] at *
  unfold Warp.writeP
  split
  · exact h
  · simpa using h

theorem writeP_frame (w : Warp) (n : Nat) (cover vals : Mask) :
    w.writeP n cover vals = { w with p := (w.writeP n cover vals).p } := by
  unfold Warp.writeP; split <;> rfl

/-- A predicate after a write: p0 reads 1 (R11). -/
theorem pred_writeP {w : Warp} (h : w.sized = true) {n : Nat} (hn : n < 128) (cover vals : Mask) (m t : Nat) :
    (w.writeP n cover vals).pred m t =
      if m = n ∧ n ≠ 0 ∧ has cover t = true then has vals t else w.pred m t := by
  have hl := (sized_iff.1 h).2.2.2.1
  unfold Warp.writeP Warp.pred
  by_cases h0 : n = 0
  · simp [h0]
  · by_cases hm : m = 0
    · subst hm; simp [h0, Ne.symm h0]
    · simp only [h0, hm, if_false, List.getD_eq_getElem?_getD, List.getElem?_modify]
      by_cases h1 : m = n
      · subst h1
        simp only [if_true, show m - 1 < w.p.length by omega, List.getElem?_eq_getElem, Option.map_eq_map, Option.map_some, Option.getD_some,
          has_or, has_and]
        by_cases hc : has cover t = true
        · simp [hc, h0, has_not]
        · have ht : t < 32 ∨ ¬ t < 32 := by omega
          rcases ht with ht | ht
          · simp [hc, has_not, ht]
          · have hz : ∀ m : Mask, has m t = false := fun m => by
              cases hh : has m t with
              | false => rfl
              | true => exact absurd (has_lt hh) ht
            simp [hz]
      · simp [h1, show ¬ n - 1 = m - 1 by omega]

end Sys2Proof.Machine
end

