-- ==== Sys2Proof/Laws/Compute.lean ====
section
/-! SUPPORT. What the shared operations of computing words do: one lemma for every form that writes registers (R18, R63,
R68, R154, R155), one for those that write a predicate. -/

namespace Sys2Proof.Machine

/-! Flags. -/

theorem nth_modify (l : List Word) (k : Nat) (f : Word → Word) {j : Nat} (hj : j < l.length) :
    nth (l.modify k f) j = if j = k then f (nth l j) else nth l j := by
  simp only [nth, List.getD_eq_getElem?_getD, List.getElem?_modify]
  by_cases h : k = j
  · subst h; simp [hj]
  · simp [h, Ne.symm h]

theorem ofNat_lor_mod (a b : Nat) : BitVec.ofNat 32 (Nat.lor a b % 32) = BitVec.ofNat 32 (a % 32) ||| BitVec.ofNat 32 (b % 32) := by
  have : Nat.lor a b % 32 = Nat.lor (a % 32) (b % 32) := by
    have := @Nat.or_mod_two_pow a b 5
    simpa using this
  rw [this]
  apply BitVec.eq_of_toNat_eq
  simp only [BitVec.toNat_ofNat, BitVec.toNat_or]
  have := @Nat.or_mod_two_pow (a % 32) (b % 32) 32
  simpa using this

theorem foldl_flags (l : List (Nat × Nat)) (t a : Nat) :
    l.foldl (fun a p => if p.1 = t then Nat.lor a p.2 else a) a =
      Nat.lor a (l.foldl (fun a p => if p.1 = t then Nat.lor a p.2 else a) 0) := by
  induction l generalizing a with
  | nil => exact (Nat.or_zero a).symm
  | cons p ps ih =>
    simp only [List.foldl_cons]
    rw [ih, ih (if p.1 = t then Nat.lor 0 p.2 else 0)]
    by_cases h : p.1 = t
    · simp only [h, if_true]
      show (a ||| p.2) ||| _ = a ||| ((0 ||| p.2) ||| _)
      simp [Nat.or_assoc]
    · simp only [h, if_false]
      show a ||| _ = a ||| (0 ||| _)
      simp

/-- What `flagsOf` gathers from a list. -/
def gathered (l : List (Nat × Nat)) (t : Nat) : Nat := l.foldl (fun a p => if p.1 = t then Nat.lor a p.2 else a) 0

theorem flagsOf_eq (c : Issue) (t : Nat) : c.flagsOf t = gathered c.flags t := rfl

theorem gathered_append (l m : List (Nat × Nat)) (t : Nat) : gathered (l ++ m) t = Nat.lor (gathered l t) (gathered m t) := by
  unfold gathered; rw [List.foldl_append, foldl_flags]

theorem gathered_cons (p : Nat × Nat) (l : List (Nat × Nat)) (t : Nat) :
    gathered (p :: l) t = if p.1 = t then Nat.lor p.2 (gathered l t) else gathered l t := by
  unfold gathered
  rw [List.foldl_cons, foldl_flags]
  by_cases h : p.1 = t
  · simp only [h, if_true]; show (0 ||| p.2) ||| _ = _; simp
  · simp only [h, if_false]; show 0 ||| _ = _; simp

theorem orFlags_frame (w : Warp) (l : List (Nat × Nat)) : w.orFlags l = { w with fsr := (w.orFlags l).fsr } := rfl

theorem orFlags_length (w : Warp) (l : List (Nat × Nat)) : (w.orFlags l).fsr.length = w.fsr.length := by
  unfold Warp.orFlags
  simp only
  generalize w.fsr = f
  induction l generalizing f with
  | nil => rfl
  | cons p ps ih => rw [List.foldl_cons, ih]; simp

/-- Each thread's fsr holds what it held and what the list gives it (R111). -/
theorem nth_orFlags (w : Warp) (l : List (Nat × Nat)) {t : Nat} (ht : t < w.fsr.length) :
    nth (w.orFlags l).fsr t = nth w.fsr t ||| BitVec.ofNat 32 (gathered l t % 32) := by
  unfold Warp.orFlags
  simp only
  generalize w.fsr = f at ht ⊢
  induction l generalizing f with
  | nil => simp [gathered]
  | cons p ps ih =>
    rw [List.foldl_cons, ih _ (by simpa using ht), nth_modify _ _ _ ht, gathered_cons]
    by_cases h : p.1 = t
    · simp only [h, if_true, ofNat_lor_mod]
      rw [BitVec.or_assoc]
    · simp [h, Ne.symm h]

/-- Flags given to the threads of a mask, none elsewhere. -/
theorem gathered_threads (parts : Mask) (f : Nat → Nat) (t : Nat) :
    gathered (((threads parts).map fun u => (u, f u)).filter fun p => p.2 != 0) t = if has parts t then f t else 0 := by
  have key : ∀ l : List Nat, l.Nodup →
      gathered ((l.map fun u => (u, f u)).filter fun p => p.2 != 0) t = if t ∈ l then f t else 0 := by
    intro l hl
    induction l with
    | nil => simp [gathered]
    | cons u us ih =>
      have hu := (List.nodup_cons.1 hl)
      rw [List.map_cons, List.filter_cons]
      by_cases h0 : f u = 0
      · simp only [h0, bne_self_eq_false, Bool.false_eq_true, if_false, ih hu.2]
        by_cases h : t = u
        · subst h; simp [h0]
        · simp [h]
      · have h0' : (f u != 0) = true := by simpa using h0
        simp only [h0', if_true]
        rw [gathered_cons, ih hu.2]
        by_cases h : t = u
        · subst h
          have : ¬ t ∈ us := hu.1
          simp only [this, if_true, if_false, List.mem_cons, true_or]
          exact Nat.or_zero _
        · simp [h, Ne.symm h]
  have hn : (threads parts).Nodup := (List.nodup_range).filter _
  rw [key _ hn]
  simp

/-! Ending a word. -/

theorem reg_congr {w w' : Warp} (hv : w'.v = w.v) (hs : w'.s = w.s) (code t : Nat) : w'.reg code t = w.reg code t := by
  simp [Warp.reg, Warp.vreg, hv, hs]

theorem pred_congr {w w' : Warp} (hp : w'.p = w.p) (n t : Nat) : w'.pred n t = w.pred n t := by
  simp [Warp.pred, hp]

theorem Issuing.slot_lt {s : State} {c : Issue} {w : Warp} (h : Issuing s c w false) : c.slot < 2 := by
  have h1 := (calm_iff.1 (h.calm.resolve_left (by simp))).1
  rw [(sized_iff.1 h.sized).2.2.2.2.2.1] at h1
  exact h1

theorem onlyWarp_setWarp (s : State) (w : Warp) (i : Option Issue) {u : Nat} (hu : w.uid = u) :
    s.onlyWarp { s.setWarp w with issue := i } u :=
  ⟨rfl, fun v hv => by
    have : (s.setWarp w).warp? v = s.warp? v := warp?_setWarp_ne s (by rw [hu]; exact Ne.symm hv)
    exact this⟩

/-- A word that has had its own effect, which leaves the issuing warp as `w1`, ends. -/
theorem endWord_ran {s s1 : State} {c c1 : Issue} {w1 : Warp} {h : Hdr} {fl : Nat → Nat}
    (ho : s.onlyWarp s1 c.uid) (hi : s1.issue = some c1) (hg : s1.warp? c.uid = some w1) (hz : w1.sized = true)
    (hcalm : h.c = true ∨ w1.calm c.slot = true) (hs : c.trap = none) (hc : c1 = { c with flags := c1.flags })
    (hf : ∀ t, t < 32 → c1.flagsOf t = Nat.lor (c.flagsOf t) (fl t)) (bnd : Bnd) :
    ∃ w', Ran s (s1.endWord h bnd) c w1 w' h.c fl := by
  have hu1 : w1.uid = c.uid := warp?_uid hg
  have hcu : c1.uid = c.uid := by rw [hc]
  have hcs : c1.slot = c.slot := by rw [hc]
  have hcm : c1.marker = c.marker := by rw [hc]
  have hcn : c1.npc = c.npc := by rw [hc]
  have hct : c1.trap = none := by rw [hc]; exact hs
  have hg' : s1.warp? c1.uid = some w1 := by rw [hcu]; exact hg
  unfold State.endWord
  by_cases hch : h.c = true
  · rw [if_pos hch]
    refine ⟨w1, ⟨ho, hg, ⟨rfl, fun j => ⟨rfl, rfl, rfl, fun _ => rfl⟩, rfl, (if_pos hch).symm, by simp [hch]⟩, ?_⟩⟩
    rw [if_pos hch]; exact ⟨rfl, c1, hi, hc, hf⟩
  · rw [if_neg hch]
    have hcalm1 : w1.calm c1.slot = true := by rw [hcs]; exact hcalm.resolve_left hch
    have h2 : c1.slot < 2 := by
      have h1 := (calm_iff.1 hcalm1).1
      rwa [(sized_iff.1 hz).2.2.2.2.2.1] at h1
    obtain ⟨w', he, hu', hR⟩ := retire_calm hi hg' hcalm1 h2 hct bnd
    have hu'' : w'.uid = c.uid := by rw [hu', hu1]
    rw [he]
    refine ⟨w', ⟨⟨?_, ?_⟩, warp?_setWarp (s := { s1 with issue := none }) hg hu'', ⟨?_, ?_, hR.queue, by rw [hR.park, if_neg hch, hcm], ?_⟩, ?_⟩⟩
    · rw [ho.1]; rfl
    · intro u hu
      have : ({ s1 with issue := none }.setWarp w').warp? u = ({ s1 with issue := none } : State).warp? u :=
        warp?_setWarp_ne _ (by rw [hu'']; exact Ne.symm hu)
      rw [this]
      exact ho.2 u hu
    · rw [hR.frame]
    · intro j
      exact ⟨hR.mask j, hR.wait j, hR.trap j, fun hj => by rw [hR.pc, if_neg (by rw [hcs]; exact hj)]⟩
    · rw [hR.pc, if_pos hcs.symm, hcn, if_neg hch]
    · rw [if_neg hch]
      refine ⟨rfl, fun t ht => ?_⟩
      have hl : w1.fsr.length = 32 := (sized_iff.1 hz).2.2.2.2.1
      have : nth w'.fsr t = nth w1.fsr t ||| BitVec.ofNat 32 (gathered c1.flags t % 32) := by
        rw [hR.frame]; exact nth_orFlags w1 c1.flags (by omega)
      rw [this, ← flagsOf_eq, hf t ht]

/-- A change of registers and predicates leaves a warp calm. -/
theorem calm_regs {w w1 : Warp} {b : Bool} {k : Nat} (h : b = true ∨ w.calm k = true)
    (hw : w1 = { w with v := w1.v, s := w1.s, p := w1.p }) : b = true ∨ w1.calm k = true := by
  refine h.imp_right fun hc => calm_of hc ?_ (fun j => ?_) (fun j => ?_) ?_ ?_ ?_ ?_ <;> rw [hw] <;> rfl

/-- The end of a word that raises a trap (R17, R111, R383). -/
theorem endWord_trap {s s1 : State} {c c1 : Issue} {w1 : Warp} {h : Hdr} {fl : Nat → Nat} {tr : TrapReq}
    (ho : s.onlyWarp s1 c.uid) (hi : s1.issue = some c1) (hg : s1.warp? c.uid = some w1) (hz : w1.sized = true)
    (hcalm : h.c = true ∨ w1.calm c.slot = true) (hc : c1 = { c with flags := c1.flags, trap := some tr })
    (hf : ∀ t, t < 32 → c1.flagsOf t = Nat.lor (c.flagsOf t) (fl t)) (bnd : Bnd) :
    ∃ t t' w', s1.endWord h bnd = t' ∧ RanTrap s t t' c w1 w' h.c fl tr := by
  have hu1 : w1.uid = c.uid := warp?_uid hg
  have hcu : c1.uid = c.uid := by rw [hc]
  have hcs : c1.slot = c.slot := by rw [hc]
  have hcm : c1.marker = c.marker := by rw [hc]
  have hct : c1.trap = some tr := by rw [hc]
  have hg' : s1.warp? c1.uid = some w1 := by rw [hcu]; exact hg
  unfold State.endWord
  by_cases hch : h.c = true
  · rw [if_pos hch]
    exact ⟨s1, s1, w1, rfl, ho, hg, by rw [if_pos hch]; exact ⟨rfl, rfl, c1, hi, hc, hf⟩⟩
  · rw [if_neg hch]
    have hcalm1 : w1.calm c1.slot = true := by rw [hcs]; exact hcalm.resolve_left hch
    have h2 : c1.slot < 2 := by
      have h1 := (calm_iff.1 hcalm1).1
      rwa [(sized_iff.1 hz).2.2.2.2.2.1] at h1
    obtain ⟨w', he, hu', hfr, hs, htr⟩ := retire_trap hi hg' hcalm1 h2 hct bnd none
    have hu'' : w'.uid = c.uid := by rw [hu', hu1]
    have hwq : ({ s1 with issue := none }.setWarp w').warp? c.uid = some w' :=
      warp?_setWarp (s := { s1 with issue := none }) hg hu''
    have hon : s.onlyWarp ({ s1 with issue := none }.setWarp w') c.uid := by
      refine ⟨by rw [ho.1]; rfl, fun u hu => ?_⟩
      have : ({ s1 with issue := none }.setWarp w').warp? u = ({ s1 with issue := none } : State).warp? u :=
        warp?_setWarp_ne _ (by rw [hu'']; exact Ne.symm hu)
      rw [this]
      exact ho.2 u hu
    refine ⟨{ s1 with issue := none }.setWarp w', _, w', rfl, hon, hwq, ?_⟩
    rw [if_neg hch]
    refine ⟨⟨hon, rfl, hwq, by rw [hfr], by rw [hfr, hcm], fun j => ?_, by rw [← hcs]; exact htr, by rw [he, hcu, hcs]⟩, fun t ht => ?_⟩
    · have := hs j; rwa [hcs] at this
    · have hl : w1.fsr.length = 32 := (sized_iff.1 hz).2.2.2.2.1
      have : nth w'.fsr t = nth w1.fsr t ||| BitVec.ofNat 32 (gathered c1.flags t % 32) := by
        rw [hfr]; exact nth_orFlags w1 c1.flags (by omega)
      rw [this, ← flagsOf_eq, hf t ht]

/-- What it leaves of a warp that has had other registers written. -/
theorem ran_files {s t : State} {c : Issue} {w w1 w' : Warp} {b : Bool} {fl : Nat → Nat} (h : Ran s t c w1 w' b fl)
    (hw : w1 = { w with v := w1.v, s := w1.s, p := w1.p }) :
    w'.v = w1.v ∧ w'.s = w1.s ∧ w'.p = w1.p ∧ w1 = { w with v := w'.v, s := w'.s, p := w'.p } := by
  have hf := h.adv.frame
  have h1 : w'.v = w1.v := by rw [hf]
  have h2 : w'.s = w1.s := by rw [hf]
  have h3 : w'.p = w1.p := by rw [hf]
  exact ⟨h1, h2, h3, by rw [h1, h2, h3]; exact hw⟩

/-- The files that a word with a trap leaves. -/
theorem ranTrap_files {s t t' : State} {c : Issue} {w1 w' : Warp} {b : Bool} {fl : Nat → Nat} {tr : TrapReq}
    (h : RanTrap s t t' c w1 w' b fl tr) : w'.v = w1.v ∧ w'.s = w1.s := by
  have hr := h.rest
  by_cases hb : b = true
  · rw [if_pos hb] at hr; rw [hr.1]; exact ⟨rfl, rfl⟩
  · rw [if_neg hb] at hr; rw [hr.1.frame]; exact ⟨rfl, rfl⟩

theorem onlyWarp_refl (s : State) (u : Nat) : s.onlyWarp s u := ⟨rfl, fun _ _ => rfl⟩

/-! Flags of a word. -/

theorem addFlags_quiet {c : Issue} {r : Warp} {parts : Mask} {fl : Nat → Nat} (h : noFlagTrap r parts fl) (hs : c.trap = none) :
    c.addFlags r ((threads parts).map fun t => (t, fl t)) =
      { c with flags := c.flags ++ (((threads parts).map fun t => (t, fl t)).filter fun p => p.2 != 0) } := by
  unfold Issue.addFlags
  have : (trapThreads r (((threads parts).map fun t => (t, fl t)).filter fun p => p.2 != 0) == 0 || r.handler.isSome) = true := by
    rcases h with h | h
    · simp [h]
    · have : trapThreads r (((threads parts).map fun t => (t, fl t)).filter fun p => p.2 != 0) = 0 := by
        unfold trapThreads
        have : ((((threads parts).map fun t => (t, fl t)).filter fun p => p.2 != 0).filter
            fun p => Nat.land p.2 r.enables != 0) = [] := by
          rw [List.filter_eq_nil_iff]
          intro p hp
          obtain ⟨t, ht, rfl⟩ := List.mem_map.1 (List.mem_of_mem_filter hp)
          simpa using h t ((mem_threads _ _).1 ht)
        rw [this]; rfl
      simp [this]
  simp only [this, if_true, hs]

theorem addFlags_flags (c : Issue) (r : Warp) (parts : Mask) (fl : Nat → Nat) :
    (c.addFlags r ((threads parts).map fun t => (t, fl t))).flags =
      c.flags ++ (((threads parts).map fun t => (t, fl t)).filter fun p => p.2 != 0) := rfl

theorem flagsOf_addFlags (c : Issue) (r : Warp) (parts : Mask) (fl : Nat → Nat) (t : Nat) :
    (c.addFlags r ((threads parts).map fun t => (t, fl t))).flagsOf t =
      Nat.lor (c.flagsOf t) (if has parts t then fl t else 0) := by
  rw [flagsOf_eq, addFlags_flags, gathered_append, gathered_threads]
  rfl

/-- The threads that raised an enabled flag, and those flags. -/
theorem trapThreads_eq (r : Warp) (parts : Mask) (fl : Nat → Nat) :
    trapThreads r (((threads parts).map fun t => (t, fl t)).filter fun p => p.2 != 0) =
      maskWhere fun t => has parts t && Nat.land (fl t) r.enables != 0 := by
  refine mask_ext fun t ht => ?_
  rw [trapThreads, has_maskOf, has_maskWhere]
  simp only [ht, decide_true, Bool.true_and, Bool.and_true]
  rw [Bool.eq_iff_iff]
  simp only [decide_eq_true_eq, List.mem_map, List.mem_filter, mem_threads, Bool.and_eq_true, bne_iff_ne, ne_eq]
  constructor
  · rintro ⟨p, ⟨⟨⟨u, hu, rfl⟩, _⟩, h2⟩, rfl⟩; exact ⟨hu, h2⟩
  · rintro ⟨h1, h2⟩
    refine ⟨(t, fl t), ⟨⟨⟨t, h1, rfl⟩, ?_⟩, h2⟩, rfl⟩
    intro h0; simp only at h0; rw [h0] at h2; exact h2 (Nat.zero_and _)

theorem trapFlags_eq (r : Warp) (parts : Mask) (fl : Nat → Nat) :
    trapFlags r (((threads parts).map fun t => (t, fl t)).filter fun p => p.2 != 0) =
      (threads parts).foldl (fun a t => Nat.lor a (Nat.land (fl t) r.enables)) 0 := by
  unfold trapFlags
  suffices hs : ∀ (l : List Nat) (a : Nat),
      ((l.map fun t => (t, fl t)).filter fun p => p.2 != 0).foldl (fun a p => Nat.lor a (Nat.land p.2 r.enables)) a =
        l.foldl (fun a t => Nat.lor a (Nat.land (fl t) r.enables)) a from hs _ 0
  intro l a
  induction l generalizing a with
  | nil => rfl
  | cons u us ih =>
    simp only [List.map_cons, List.filter_cons, List.foldl_cons]
    by_cases h : fl u = 0
    · simp only [h, bne_self_eq_false, Bool.false_eq_true, if_false]
      rw [ih, show Nat.land 0 r.enables = 0 from Nat.zero_and _, show Nat.lor a 0 = a from Nat.or_zero a]
    · have : (fl u != 0) = true := by simp [h]
      simp only [this, if_true, List.foldl_cons]
      exact ih _

theorem addFlags_loud {c : Issue} {r : Warp} {parts : Mask} {fl : Nat → Nat} (h : ¬noFlagTrap r parts fl) (hs : c.trap = none) :
    c.addFlags r ((threads parts).map fun t => (t, fl t)) =
      { c with flags := (c.addFlags r ((threads parts).map fun t => (t, fl t))).flags,
               trap := some (flagTrap c r parts fl (r.seq + 1)) } := by
  unfold noFlagTrap at h
  simp only [not_or, not_forall] at h
  obtain ⟨hh, t, ht, hn⟩ := h
  have hm : (maskWhere fun t => has parts t && Nat.land (fl t) r.enables != 0) ≠ 0 := by
    refine ne_zero_of_has (t := t) ?_
    rw [has_maskWhere]
    have hb : (Nat.land (fl t) r.enables != 0) = true := by simpa only [bne_iff_ne, ne_eq] using hn
    simp only [has_lt ht, ht, hb, decide_true, Bool.and_self]
  have hcond : (trapThreads r (((threads parts).map fun t => (t, fl t)).filter fun p => p.2 != 0) == 0 || r.handler.isSome) = false := by
    rw [trapThreads_eq]
    simp only [Bool.or_eq_false_iff, beq_eq_false_iff_ne, ne_eq]
    exact ⟨hm, by simpa using hh⟩
  rw [trapThreads_eq] at hcond
  simp only [Issue.addFlags, trapThreads_eq, trapFlags_eq, hs, Option.getD_none, flagTrap]
  rw [hcond]; rfl

/-! Words that write registers. -/

theorem markAlone_frame (w : Warp) (c : Issue) (codes : List Nat) (parts : Mask) :
    w.markAlone c codes parts = { w with v := (w.markAlone c codes parts).v } := by
  rw [markAlone_eq]; exact frees_frame _ _

theorem markAlone_sized {w : Warp} (h : w.sized = true) (c : Issue) (codes : List Nat) (parts : Mask) :
    (w.markAlone c codes parts).sized = true := by
  rw [markAlone_eq]; exact frees_sized h _

/-- A wide write after the marks: where a participant finds its value, and what every other register reads. -/
theorem marked_write {w w1 : Warp} (hz : w.sized = true) {c : Issue} {codes : List Nat} {parts : Mask} {d n : Nat}
    {sh : Shape} {vals : List Nat} (hd : d + n ≤ 64 ∨ 64 ≤ d) (hp : parts ≠ 0)
    (hf : d < 64 → ∀ i, i < n → sh.fits (wordVals i vals))
    (hw : w1 = (w.markAlone c codes parts).writeWide d sh parts n vals) :
    w1 = { w with v := w1.v, s := w1.s, p := w1.p } ∧ w1.p = w.p ∧ w1.sized = true ∧
    (∀ i th, i < n → th < 32 → (has parts th = true ∨ (64 ≤ d ∧ parts ≠ 0)) → d + i ≠ 63 → d + i < 127 →
      w1.reg (d + i) th = nth (wordVals i vals) (valueThread d parts th)) ∧
    (∀ code th, has w.live th = true → code ∉ marksOf c codes parts →
      (code < d ∨ d + n ≤ code ∨ parts = 0 ∨ (d < 64 ∧ has parts th = false)) → w1.reg code th = w.reg code th) ∧
    (∀ code th, code ∈ marksOf c codes parts → code < 63 → (code < d ∨ d + n ≤ code) → w1.reg code th = 0) := by
  have hm := markAlone_sized hz c codes parts
  have hreg : ∀ code th, (w.markAlone c codes parts).reg code th =
      if code ∈ marksOf c codes parts ∧ code < 63 then 0 else w.reg code th := by
    intro code th; rw [markAlone_eq]; exact reg_frees hz _ _ _
  have hlive : (w.markAlone c codes parts).live = w.live := by rw [markAlone_frame]; rfl
  refine ⟨?_, ?_, ?_, ?_, ?_, ?_⟩
  · rw [hw, writeWide_frame, markAlone_frame]
  · rw [hw, writeWide_frame, markAlone_frame]
  · rw [hw]; exact writeWide_sized hm ..
  · intro i th hi hth hc h63 h127
    rw [hw]
    rcases hc with hc | ⟨h64, _⟩
    · exact reg_writeWide hm hf hd hi h63 h127 hc
    · obtain ⟨r, hr⟩ := lowest_isSome hp
      have hS : ∀ t, ((w.markAlone c codes parts).writeWide d sh parts n vals).reg (d + i) t =
          ((w.markAlone c codes parts).writeWide d sh parts n vals).reg (d + i) r := by
        intro t; simp [Warp.reg, show ¬ d + i < 63 by omega, show ¬ d + i = 63 by omega]
      rw [hS, reg_writeWide hm hf hd hi h63 h127 (lowest_has hr)]
      simp [valueThread, show ¬ d < 64 by omega]
  · intro code th hl hmk hx
    have hk : (w.markAlone c codes parts).reg code th = w.reg code th := by rw [hreg, if_neg (fun h => hmk h.1)]
    rw [hw, ← hk]
    rcases hx with hx | hx | hx | ⟨hx, hc⟩
    · exact reg_writeWide_other hm _ _ _ _ _ (.inl hx) _
    · exact reg_writeWide_other hm _ _ _ _ _ (.inr hx) _
    · exact absurd hx hp
    · exact reg_writeWide_uncovered hm _ _ _ (by omega) (by rw [hlive]; exact hl) hc _
  · intro code th hmk h63 hx
    rw [hw, reg_writeWide_other hm _ _ _ _ _ hx, hreg, if_pos ⟨hmk, h63⟩]

/-- A word with no participant does nothing but end. -/
theorem gives_none {s : State} {c : Issue} {w : Warp} {h : Hdr} (I : Issuing s c w h.c) {d n : Nat} {codes : List Nat}
    {val fl : Nat → Nat} (bnd : Bnd) :
    ∃ w', Gives s (s.endWord h bnd) c w w' h d n (marksOf c codes 0) 0 val fl := by
  obtain ⟨w', hR⟩ := endWord_ran (fl := fun _ => 0) (onlyWarp_refl s _) I.issue I.warp I.sized I.calm I.sound rfl
    (fun t _ => (Nat.or_zero _).symm) bnd
  obtain ⟨hv, hs, hp, he⟩ := ran_files hR (w := w) rfl
  have hm : marksOf c codes 0 = [] := by simp [marksOf]
  refine ⟨w', ⟨?_, ?_, ?_, ?_⟩⟩
  · rw [hv, hs]; simpa using hR
  · intro i th _ _ hc; simp at hc
  · intro code th _ _ _; exact reg_congr hv hs _ _
  · intro code th hc; rw [hm] at hc; simp at hc

/-- A filled register file is one after other fields of the warp have moved. -/
theorem Filled.congr {w w1 w' : Warp} {d n : Nat} {marks : List Nat} {parts : Mask} {val : Nat → Nat}
    (h : Filled w w1 d n marks parts val) (hv : w'.v = w1.v) (hs : w'.s = w1.s) : Filled w w' d n marks parts val :=
  ⟨fun i th h1 h2 h3 h4 h5 => by rw [reg_congr hv hs]; exact h.value i th h1 h2 h3 h4 h5,
   fun code th h1 h2 h3 => by rw [reg_congr hv hs]; exact h.kept code th h1 h2 h3,
   fun code th h1 h2 h3 => by rw [reg_congr hv hs]; exact h.freed code th h1 h2 h3⟩

/-- What `State.compute` does before the word ends, when a thread participates. -/
theorem compute_fills {s : State} {c : Issue} {w : Warp} {h : Hdr} (I : Issuing s c w h.c) {a b d n : Nat}
    {shape : Issue → Warp → Shape} {f : Issue → Warp → Nat → Nat × Nat} (hd : d + n ≤ 64 ∨ 64 ≤ d)
    (huni : d < 64 → shape c (c.src w) = .uni → ∀ t u, has ((c.src w).participants c.slot h) t = true →
      has ((c.src w).participants c.slot h) u = true → f c (c.src w) t = f c (c.src w) u)
    (haff : d < 64 → shape c (c.src w) = .aff → n = 1 ∧ Shape.aff.fits ((List.range 32).map fun t =>
      BitVec.ofNat 32 (f c (c.src w) t).1))
    (hp : (c.src w).participants c.slot h ≠ 0) :
    ∃ w1, s.compute h a b d n shape f = .next ({ s.setWarp w1 with
        issue := some (c.addFlags (c.src w) ((threads ((c.src w).participants c.slot h)).map fun t =>
          (t, (f c (c.src w) (valueThread d ((c.src w).participants c.slot h) t)).2))) }.endWord h .no) ∧
      w1 = { w with v := w1.v, s := w1.s } ∧ w1.sized = true ∧
      Filled w w1 d n (marksOf c (markCodes h a b) ((c.src w).participants c.slot h)) ((c.src w).participants c.slot h)
        fun th => (f c (c.src w) th).1 := by
  have hcur := cur_eq I.issue I.warp
  unfold State.compute
  simp only [hcur]
  generalize hr : c.src w = r at *
  generalize hparts : r.participants c.slot h = parts at *
  cases hl : lowest parts with
  | none => exact absurd (lowest_eq_none.1 hl) hp
  | some rep =>
    have hrep := lowest_has hl
    simp only
    generalize hsh : shape c r = sh at *
    generalize houts : results (decide (64 ≤ d) || sh == .uni) rep (f c r) = outs
    -- what each thread's result is
    have hout : ∀ th, th < 32 → outs[th]? = some (f c r (if (decide (64 ≤ d) || sh == .uni) = true then rep else th)) := by
      intro th hth
      rw [← houts]
      unfold results
      by_cases ho : (decide (64 ≤ d) || sh == .uni) = true
      · simp only [ho, if_true, List.getElem?_replicate, hth]
      · simp [ho, hth]
    have hval : ∀ th, has parts th = true →
        f c r (if (decide (64 ≤ d) || sh == .uni) = true then rep else th) = f c r (valueThread d parts th) := by
      intro th hth
      unfold valueThread
      by_cases h64 : d < 64
      · simp only [h64, if_true]
        by_cases hu : sh = .uni
        · simp only [hu, beq_self_eq_true, Bool.or_true, if_true]
          exact huni h64 hu _ _ hrep hth
        · simp [hu, show ¬ 64 ≤ d by omega]
      · simp [h64, hl, show 64 ≤ d by omega]
    have hnth : ∀ i th, th < 32 → nth (wordVals i (outs.map (·.1))) th =
        BitVec.ofNat 32 ((f c r (if (decide (64 ≤ d) || sh == .uni) = true then rep else th)).1 / 2 ^ (32 * i)) := by
      intro i th hth
      simp only [nth, wordVals, List.getD_eq_getElem?_getD, List.getElem?_map, hout th hth, Option.map_some, Option.getD_some]
    have hfit : d < 64 → ∀ i, i < n → sh.fits (wordVals i (outs.map (·.1))) := by
      intro h64 i hi
      cases sh with
      | gen => trivial
      | uni => intro th hth; rw [hnth i th hth, hnth i 0 (by omega)]; simp
      | aff =>
        obtain ⟨hn, hfa⟩ := haff h64 rfl
        have hi0 : i = 0 := by omega
        subst hi0
        have h64' : ¬ 64 ≤ d := by omega
        intro th hth
        have := hfa th hth
        rw [nth_map_range _ hth, nth_map_range _ (by omega), nth_map_range _ (by omega)] at this
        rw [hnth 0 th hth, hnth 0 0 (by omega), hnth 0 1 (by omega)]
        simpa [h64'] using this
    generalize hw1 : (w.markAlone c (markCodes h a b) parts).writeWide d sh parts n (outs.map (·.1)) = w1
    obtain ⟨hfr, hpp, hz1, hv1, hk1, hf1⟩ := marked_write I.sized hd hp hfit hw1.symm
    have hu1 : w1.uid = c.uid := by rw [hfr]; exact (warp?_uid I.warp :)
    have hflist : ((threads parts).map fun t => (t, (outs.getD t (0, 0)).2)) =
        (threads parts).map fun t => (t, (f c r (valueThread d parts t)).2) := by
      apply List.map_congr_left
      intro t ht
      have ht' := (mem_threads _ _).1 ht
      rw [List.getD_eq_getElem?_getD, hout t (has_lt ht'), Option.getD_some, hval t ht']
    rw [hflist]
    refine ⟨w1, rfl, by conv_lhs => rw [hfr, hpp], hz1, ⟨?_, ?_, ?_⟩⟩
    · intro i th hi hth hc h63 h127
      rw [hv1 i th hi hth hc h63 h127]
      have hvt : valueThread d parts th < 32 := by
        unfold valueThread
        split
        · exact hth
        · rw [hl]; exact has_lt hrep
      rw [hnth i _ hvt]
      by_cases h64 : d < 64
      · have hc' : has parts th = true := by rcases hc with hc | hc; exact hc; omega
        have hx : valueThread d parts th = th := by simp [valueThread, h64]
        have := hval th hc'
        rw [hx] at this ⊢
        rw [this]
      · simp [valueThread, h64, hl, show 64 ≤ d by omega]
    · exact hk1
    · exact hf1


/-- What `State.compute` does. -/
theorem compute_gives {s : State} {c : Issue} {w : Warp} {h : Hdr} (I : Issuing s c w h.c) {a b d n : Nat}
    {shape : Issue → Warp → Shape} {f : Issue → Warp → Nat → Nat × Nat} (hd : d + n ≤ 64 ∨ 64 ≤ d)
    (huni : d < 64 → shape c (c.src w) = .uni → ∀ t u, has ((c.src w).participants c.slot h) t = true →
      has ((c.src w).participants c.slot h) u = true → f c (c.src w) t = f c (c.src w) u)
    (haff : d < 64 → shape c (c.src w) = .aff → n = 1 ∧ Shape.aff.fits ((List.range 32).map fun t =>
      BitVec.ofNat 32 (f c (c.src w) t).1))
    (hq : noFlagTrap (c.src w) ((c.src w).participants c.slot h)
      fun t => (f c (c.src w) (valueThread d ((c.src w).participants c.slot h) t)).2) :
    ∃ t w', s.compute h a b d n shape f = .next t ∧
      Gives s t c w w' h d n (marksOf c (markCodes h a b) ((c.src w).participants c.slot h))
        ((c.src w).participants c.slot h) (fun th => (f c (c.src w) th).1) (fun th => (f c (c.src w) th).2) := by
  by_cases hp : (c.src w).participants c.slot h = 0
  · obtain ⟨w', hg⟩ := gives_none (d := d) (n := n) (codes := markCodes h a b) (val := fun th => (f c (c.src w) th).1)
      (fl := fun th => (f c (c.src w) th).2) I .no
    unfold State.compute
    simp only [cur_eq I.issue I.warp, hp, lowest_zero]
    exact ⟨_, w', rfl, hg⟩
  · obtain ⟨w1, he, hfr, hz, hF⟩ := compute_fills (a := a) (b := b) I hd huni haff hp
    have hu1 : w1.uid = c.uid := by rw [hfr]; exact (warp?_uid I.warp :)
    obtain ⟨w', hR⟩ := endWord_ran (h := h) (s1 := { s.setWarp w1 with issue := some _ }) (onlyWarp_setWarp s w1 _ hu1) rfl
      (warp?_setWarp I.warp hu1) hz (calm_regs I.calm (by rw [hfr])) I.sound (by rw [addFlags_quiet hq I.sound])
      (fun t _ => flagsOf_addFlags _ _ _ _ t) .no
    have hf' := hR.adv.frame
    refine ⟨_, w', he, ⟨?_, hF.congr (by rw [hf']) (by rw [hf'])⟩⟩
    have : w1 = { w with v := w'.v, s := w'.s } := by rw [hf']; exact hfr
    rw [← this]; exact hR

/-- What `State.compute` does where a flag's trap is enabled (R111). -/
theorem compute_traps {s : State} {c : Issue} {w : Warp} {h : Hdr} (I : Issuing s c w h.c) {a b d n : Nat}
    {shape : Issue → Warp → Shape} {f : Issue → Warp → Nat → Nat × Nat} (hd : d + n ≤ 64 ∨ 64 ≤ d)
    (huni : d < 64 → shape c (c.src w) = .uni → ∀ t u, has ((c.src w).participants c.slot h) t = true →
      has ((c.src w).participants c.slot h) u = true → f c (c.src w) t = f c (c.src w) u)
    (haff : d < 64 → shape c (c.src w) = .aff → n = 1 ∧ Shape.aff.fits ((List.range 32).map fun t =>
      BitVec.ofNat 32 (f c (c.src w) t).1))
    (hq : ¬noFlagTrap (c.src w) ((c.src w).participants c.slot h)
      fun t => (f c (c.src w) (valueThread d ((c.src w).participants c.slot h) t)).2) :
    ∃ t t' w', s.compute h a b d n shape f = .next t' ∧
      RanTrap s t t' c { w with v := w'.v, s := w'.s } w' h.c
        (fun th => if has ((c.src w).participants c.slot h) th then
          (f c (c.src w) (valueThread d ((c.src w).participants c.slot h) th)).2 else 0)
        (flagTrap c (c.src w) ((c.src w).participants c.slot h)
          (fun t => (f c (c.src w) (valueThread d ((c.src w).participants c.slot h) t)).2) ((c.src w).seq + 1)) ∧
      Filled w w' d n (marksOf c (markCodes h a b) ((c.src w).participants c.slot h)) ((c.src w).participants c.slot h)
        fun th => (f c (c.src w) th).1 := by
  have hp : (c.src w).participants c.slot h ≠ 0 := by
    intro h0; refine hq (.inr fun t ht => ?_); rw [h0] at ht; simp at ht
  obtain ⟨w1, he, hfr, hz, hF⟩ := compute_fills (a := a) (b := b) I hd huni haff hp
  have hu1 : w1.uid = c.uid := by rw [hfr]; exact (warp?_uid I.warp :)
  obtain ⟨t, t', w', he', hR⟩ := endWord_trap (h := h) (s1 := { s.setWarp w1 with issue := some _ })
    (onlyWarp_setWarp s w1 _ hu1) rfl (warp?_setWarp I.warp hu1) hz (calm_regs I.calm (by rw [hfr]))
    (addFlags_loud hq I.sound) (fun t _ => flagsOf_addFlags _ _ _ _ t) .no
  obtain ⟨hv, hs⟩ := ranTrap_files hR
  refine ⟨t, t', w', by rw [he, he'], ?_, hF.congr hv hs⟩
  have : w1 = { w with v := w'.v, s := w'.s } := by rw [hv, hs]; exact hfr
  rw [← this]; exact hR

/-! Shapes of sources. -/

theorem reg_of_uni {w : Warp} {code : Nat} (h : w.shape code = .uni) (t u : Nat) : w.reg code t = w.reg code u := by
  unfold Warp.shape at h
  unfold Warp.reg
  by_cases h1 : code < 63
  · simp only [h1, if_true] at h ⊢
    cases hv : w.vreg code with
    | unalloc => rfl
    | uniform x => rfl
    | affine b s => simp [hv] at h
    | general l => simp [hv] at h
  · simp only [h1, if_false]

theorem reg_of_aff {w : Warp} {code : Nat} (h : w.shape code = .aff) :
    ∃ b s : Word, ∀ t, w.reg code t = b + s * BitVec.ofNat 32 t := by
  unfold Warp.shape at h
  by_cases h1 : code < 63
  · simp only [h1, if_true] at h
    cases hv : w.vreg code with
    | unalloc => simp [hv] at h
    | uniform x => simp [hv] at h
    | affine b s => exact ⟨b, s, fun t => by simp [Warp.reg, h1, hv, VReg.read]⟩
    | general l => simp [hv] at h
  · simp [h1] at h

theorem wide_of_uni {w : Warp} {code n : Nat} (h : ∀ i, i < n → w.shape (code + i) = .uni) (t u : Nat) :
    w.wide code t n = w.wide code u n := by
  induction n generalizing code with
  | zero => rfl
  | succ n ih =>
    unfold Warp.wide
    have h0 : w.shape code = .uni := h 0 (by omega)
    rw [reg_of_uni h0 t u, ih fun i hi => by rw [show code + 1 + i = code + (i + 1) by omega]; exact h _ (by omega)]

/-- A uniform source has one value. -/
theorem val_of_uni {w : Warp} {x : Src} (h : x.shape w = .uni) (t u : Nat) : x.val w t = x.val w u := by
  cases x with
  | imm v => rfl
  | pred n =>
    unfold Src.shape at h
    by_cases h0 : n = 0
    · simp [Src.val, h0, Warp.pred]
    · simp [h0] at h
  | reg code n =>
    unfold Src.val
    unfold Src.shape at h
    by_cases h1 : n = 1
    · subst h1
      exact wide_of_uni (fun i hi => by rw [show i = 0 by omega]; simpa using h) t u
    · simp only [h1, if_false] at h
      have h2 : ((regSpan code n).all fun c => w.shape c == .uni) = true := by
        by_contra hc; simp [hc] at h
      refine wide_of_uni (fun i hi => ?_) t u
      have h3 := (List.all_eq_true.1 h2) (code + i) (by simp only [regSpan, List.mem_map, List.mem_range]; exact ⟨i, hi, by omega⟩)
      simpa using h3

theorem vals_of_uni {w : Warp} {cls : OpClass} {srcs : List Src} (h : resultShape cls (srcs.map (Src.shape w)) = .uni)
    (t u : Nat) : srcs.map (Src.val w t) = srcs.map (Src.val w u) := by
  unfold resultShape at h
  by_cases hg : (cls == .gen) = true
  · simp [hg] at h
  · simp only [hg, Bool.false_eq_true, if_false] at h
    by_cases ha : ((srcs.map (Src.shape w)).all fun x => x == .uni) = true
    · apply List.map_congr_left
      intro x hx
      have := (List.all_eq_true.1 ha) (x.shape w) (List.mem_map_of_mem hx)
      exact val_of_uni (by simpa using this) t u
    · simp only [ha, Bool.false_eq_true, if_false] at h
      split at h <;> simp at h

theorem plain_not_aff (l : List Shape) : resultShape .plain l ≠ .aff := by
  unfold resultShape
  simp only [show (OpClass.plain == OpClass.gen) = false from rfl, Bool.false_eq_true, if_false]
  split <;> simp

/-- What a form of class "uniform when every source is" does (R86, R112, R154). -/
theorem alu_gives {s : State} {c : Issue} {w : Warp} {h : Hdr} (I : Issuing s c w h.c) {cls : OpClass} {a b d n : Nat}
    {srcs : List Src} {f : List Nat → Nat × Nat} (hd : d + n ≤ 64 ∨ 64 ≤ d)
    (haff : d < 64 → resultShape cls (srcs.map (Src.shape (c.src w))) = .aff → n = 1 ∧
      Shape.aff.fits ((List.range 32).map fun t => BitVec.ofNat 32 (f (srcs.map (Src.val (c.src w) t))).1))
    (hq : noFlagTrap (c.src w) ((c.src w).participants c.slot h) fun t =>
      (f (srcs.map (Src.val (c.src w) (valueThread d ((c.src w).participants c.slot h) t)))).2) :
    ∃ t w', s.alu cls h a b d n srcs f = .next t ∧
      Gives s t c w w' h d n (marksOf c (markCodes h a b) ((c.src w).participants c.slot h))
        ((c.src w).participants c.slot h) (fun th => (f (srcs.map (Src.val (c.src w) th))).1)
        (fun th => (f (srcs.map (Src.val (c.src w) th))).2) :=
  compute_gives I hd (fun _ hu t u _ _ => by
    show f _ = f _
    rw [vals_of_uni hu t u]) haff hq

/-- The same for a form without flags. -/
theorem alu0_gives {s : State} {c : Issue} {w : Warp} {h : Hdr} (I : Issuing s c w h.c) {cls : OpClass} {a b d n : Nat}
    {srcs : List Src} {f : List Nat → Nat} (hd : d + n ≤ 64 ∨ 64 ≤ d)
    (haff : d < 64 → resultShape cls (srcs.map (Src.shape (c.src w))) = .aff → n = 1 ∧
      Shape.aff.fits ((List.range 32).map fun t => BitVec.ofNat 32 (f (srcs.map (Src.val (c.src w) t))))) :
    ∃ t w', s.alu0 cls h a b d n srcs f = .next t ∧
      Gives s t c w w' h d n (marksOf c (markCodes h a b) ((c.src w).participants c.slot h))
        ((c.src w).participants c.slot h) (fun th => f (srcs.map (Src.val (c.src w) th))) (fun _ => 0) :=
  alu_gives (f := fun l => (f l, 0)) I hd haff (.inr fun _ _ => Nat.zero_and _)

theorem alu0_plain_gives {s : State} {c : Issue} {w : Warp} {h : Hdr} (I : Issuing s c w h.c) {a b d n : Nat}
    {srcs : List Src} {f : List Nat → Nat} (hd : d + n ≤ 64 ∨ 64 ≤ d) :
    ∃ t w', s.alu0 .plain h a b d n srcs f = .next t ∧
      Gives s t c w w' h d n (marksOf c (markCodes h a b) ((c.src w).participants c.slot h))
        ((c.src w).participants c.slot h) (fun th => f (srcs.map (Src.val (c.src w) th))) (fun _ => 0) :=
  alu0_gives I hd fun _ ha => absurd ha (plain_not_aff _)

/-- A form that gives one value for the warp (R153, R171). -/
theorem one_value_gives {s : State} {c : Issue} {w : Warp} {h : Hdr} (I : Issuing s c w h.c) {a b d n : Nat}
    {f : Issue → Warp → Nat} (hd : d + n ≤ 64 ∨ 64 ≤ d) :
    ∃ t w', s.compute h a b d n (fun _ _ => .uni) (fun c r _ => (f c r, 0)) = .next t ∧
      Gives s t c w w' h d n (marksOf c (markCodes h a b) ((c.src w).participants c.slot h))
        ((c.src w).participants c.slot h) (fun _ => f c (c.src w)) (fun _ => 0) :=
  compute_gives (f := fun c r _ => (f c r, 0)) I hd (fun _ _ _ _ _ _ => rfl) (fun _ h => by simp at h)
    (.inr fun _ _ => Nat.zero_and _)

/-- Values b + s × tn have the affine shape. -/
theorem fits_aff {g : Nat → Word} {b s : Word} (h : ∀ t, g t = b + s * BitVec.ofNat 32 t) :
    Shape.aff.fits ((List.range 32).map g) := by
  intro t ht
  rw [nth_map_range _ ht, nth_map_range _ (by omega), nth_map_range _ (by omega), h t, h 0, h 1]
  have h0 : s * BitVec.ofNat 32 0 = 0 := by simp
  have h1 : s * BitVec.ofNat 32 1 = s := by simp
  rw [h0, h1]
  have : b + s - (b + 0) = s := by simp [BitVec.add_comm b s]
  rw [this]; simp

/-! Words that write a predicate. -/

/-- A filled predicate file is one after other fields of the warp have moved. -/
theorem FilledPred.congr {w w1 w' : Warp} {pd : Nat} {marks : List Nat} {parts : Mask} {val : Nat → Bool}
    (h : FilledPred w w1 pd marks parts val) (hv : w'.v = w1.v) (hs : w'.s = w1.s) (hp : w'.p = w1.p) :
    FilledPred w w' pd marks parts val :=
  ⟨fun th h1 h2 => by rw [pred_congr hp]; exact h.value th h1 h2,
   fun n th h1 => by rw [pred_congr hp]; exact h.kept n th h1,
   fun code th => by rw [reg_congr hv hs]; exact h.regs code th⟩

/-- What `State.cmp` does before the word ends, when a thread participates. -/
theorem cmp_fills {s : State} {c : Issue} {w : Warp} {h : Hdr} (I : Issuing s c w h.c) {a b pd : Nat} {srcs : List Src}
    {f : List Nat → Bool × Nat} (hpd : pd < 128) (hp : (c.src w).participants c.slot h ≠ 0) :
    ∃ w1, s.cmp h a b pd srcs f = .next ({ s.setWarp w1 with
        issue := some (c.addFlags (c.src w) ((threads ((c.src w).participants c.slot h)).map fun t =>
          (t, (f (srcs.map (Src.val (c.src w) t))).2))) }.endWord h .no) ∧
      w1 = { w with v := w1.v, p := w1.p } ∧ w1.sized = true ∧
      FilledPred w w1 pd (marksOf c (markCodes h a b) ((c.src w).participants c.slot h)) ((c.src w).participants c.slot h)
        fun th => (f (srcs.map (Src.val (c.src w) th))).1 := by
  have hcur := cur_eq I.issue I.warp
  unfold State.cmp
  simp only [hcur]
  generalize hr : c.src w = r at *
  generalize hparts : r.participants c.slot h = parts at *
  have hp0 : (parts == 0) = false := by simpa using hp
  simp only [hp0, Bool.false_eq_true, if_false]
  have hout : ∀ th, th < 32 → (((List.range 32).map fun t => f (srcs.map (Src.val r t))).getD th (false, 0)) =
      f (srcs.map (Src.val r th)) := by
    intro th hth; simp [hth]
  have hflist : ((threads parts).map fun t => (t, (((List.range 32).map fun t => f (srcs.map (Src.val r t))).getD t (false, 0)).2)) =
      (threads parts).map fun t => (t, (f (srcs.map (Src.val r t))).2) := by
    apply List.map_congr_left
    intro t ht
    rw [hout t (has_lt ((mem_threads _ _).1 ht))]
  rw [hflist]
  generalize hvals : (maskWhere fun t => (((List.range 32).map fun t => f (srcs.map (Src.val r t))).getD t (false, 0)).1) = vals
  have hv1 : ∀ th, th < 32 → has vals th = (f (srcs.map (Src.val r th))).1 := by
    intro th hth; rw [← hvals, has_maskWhere, hout th hth]; simp [hth]
  generalize hw1 : (w.markAlone c (markCodes h a b) parts).writeP pd parts vals = w1
  have hfr : w1 = { w with v := w1.v, s := w1.s, p := w1.p } := by
    rw [← hw1, writeP_frame, markAlone_frame]
  have hu1 : w1.uid = c.uid := by rw [hfr]; exact (warp?_uid I.warp :)
  have hm := markAlone_sized I.sized c (markCodes h a b) parts
  have hs1 : w1.s = w.s := by rw [← hw1, writeP_frame, markAlone_frame]
  have hmp : ∀ n th, (w.markAlone c (markCodes h a b) parts).pred n th = w.pred n th := fun n th =>
    pred_congr (by rw [markAlone_frame]) _ _
  refine ⟨w1, rfl, by conv_lhs => rw [hfr, hs1], by rw [← hw1]; exact writeP_sized hm .., ⟨?_, ?_, ?_⟩⟩
  · intro th hc h0
    rw [← hw1, pred_writeP hm hpd, if_pos ⟨rfl, h0, hc⟩, hv1 th (has_lt hc)]
  · intro n th hx
    rw [← hw1, pred_writeP hm hpd, if_neg, hmp]
    rintro ⟨h1, _, h3⟩
    rcases hx with hx | hx
    · exact hx h1
    · rw [hx] at h3; simp at h3
  · intro code th
    rw [← hw1, reg_congr (w := w.markAlone c (markCodes h a b) parts) (by rw [writeP_frame])
      (by rw [writeP_frame]), markAlone_eq]
    exact reg_frees I.sized _ _ _

/-- What `State.cmp` does. -/
theorem cmp_gives {s : State} {c : Issue} {w : Warp} {h : Hdr} (I : Issuing s c w h.c) {a b pd : Nat} {srcs : List Src}
    {f : List Nat → Bool × Nat} (hpd : pd < 128)
    (hq : noFlagTrap (c.src w) ((c.src w).participants c.slot h) fun t => (f (srcs.map (Src.val (c.src w) t))).2) :
    ∃ t w', s.cmp h a b pd srcs f = .next t ∧
      GivesPred s t c w w' h pd (marksOf c (markCodes h a b) ((c.src w).participants c.slot h))
        ((c.src w).participants c.slot h) (fun th => (f (srcs.map (Src.val (c.src w) th))).1)
        (fun th => (f (srcs.map (Src.val (c.src w) th))).2) := by
  by_cases hp : (c.src w).participants c.slot h = 0
  · have hcur := cur_eq I.issue I.warp
    unfold State.cmp
    simp only [hcur, hp]
    obtain ⟨w', hR⟩ := endWord_ran (fl := fun _ => 0) (onlyWarp_refl s _) I.issue I.warp I.sized I.calm I.sound rfl
      (fun t _ => (Nat.or_zero _).symm) .no
    obtain ⟨hv, hs, hp', he⟩ := ran_files hR (w := w) rfl
    have hm : marksOf c (markCodes h a b) 0 = [] := by simp [marksOf]
    refine ⟨_, w', if_pos (by simp), ⟨by rw [hv, hp']; simpa using hR, ?_, ?_, ?_⟩⟩
    · intro th hc; simp at hc
    · intro n th _; exact pred_congr hp' _ _
    · intro code th; rw [reg_congr hv hs, hm]; simp
  · obtain ⟨w1, he, hfr, hz, hF⟩ := cmp_fills (a := a) (b := b) (srcs := srcs) (f := f) I hpd hp
    have hu1 : w1.uid = c.uid := by rw [hfr]; exact (warp?_uid I.warp :)
    obtain ⟨w', hR⟩ := endWord_ran (h := h) (s1 := { s.setWarp w1 with issue := some _ }) (onlyWarp_setWarp s w1 _ hu1) rfl
      (warp?_setWarp I.warp hu1) hz (calm_regs I.calm (by rw [hfr])) I.sound (by rw [addFlags_quiet hq I.sound])
      (fun t _ => flagsOf_addFlags _ _ _ _ t) .no
    have hf' := hR.adv.frame
    refine ⟨_, w', he, ⟨?_, hF.congr (by rw [hf']) (by rw [hf']) (by rw [hf'])⟩⟩
    have : w1 = { w with v := w'.v, p := w'.p } := by rw [hf']; exact hfr
    rw [← this]; exact hR

/-- What `State.cmp` does where a flag's trap is enabled (R111). -/
theorem cmp_traps {s : State} {c : Issue} {w : Warp} {h : Hdr} (I : Issuing s c w h.c) {a b pd : Nat} {srcs : List Src}
    {f : List Nat → Bool × Nat} (hpd : pd < 128)
    (hq : ¬noFlagTrap (c.src w) ((c.src w).participants c.slot h) fun t => (f (srcs.map (Src.val (c.src w) t))).2) :
    ∃ t t' w', s.cmp h a b pd srcs f = .next t' ∧
      RanTrap s t t' c { w with v := w'.v, p := w'.p } w' h.c
        (fun th => if has ((c.src w).participants c.slot h) th then (f (srcs.map (Src.val (c.src w) th))).2 else 0)
        (flagTrap c (c.src w) ((c.src w).participants c.slot h) (fun t => (f (srcs.map (Src.val (c.src w) t))).2)
          ((c.src w).seq + 1)) ∧
      FilledPred w w' pd (marksOf c (markCodes h a b) ((c.src w).participants c.slot h)) ((c.src w).participants c.slot h)
        fun th => (f (srcs.map (Src.val (c.src w) th))).1 := by
  have hp : (c.src w).participants c.slot h ≠ 0 := by
    intro h0; refine hq (.inr fun t ht => ?_); rw [h0] at ht; simp at ht
  obtain ⟨w1, he, hfr, hz, hF⟩ := cmp_fills (a := a) (b := b) (srcs := srcs) (f := f) I hpd hp
  have hu1 : w1.uid = c.uid := by rw [hfr]; exact (warp?_uid I.warp :)
  obtain ⟨t, t', w', he', hR⟩ := endWord_trap (h := h) (s1 := { s.setWarp w1 with issue := some _ })
    (onlyWarp_setWarp s w1 _ hu1) rfl (warp?_setWarp I.warp hu1) hz (calm_regs I.calm (by rw [hfr]))
    (addFlags_loud hq I.sound) (fun t _ => flagsOf_addFlags _ _ _ _ t) .no
  have hf : w'.v = w1.v ∧ w'.p = w1.p := by
    have hr := hR.rest
    by_cases hb : h.c = true
    · rw [if_pos hb] at hr; rw [hr.1]; exact ⟨rfl, rfl⟩
    · rw [if_neg hb] at hr; rw [hr.1.frame]; exact ⟨rfl, rfl⟩
  obtain ⟨hv, hs⟩ := ranTrap_files hR
  refine ⟨t, t', w', by rw [he, he'], ?_, hF.congr hv hs hf.2⟩
  have : w1 = { w with v := w'.v, p := w'.p } := by rw [hf.1, hf.2]; exact hfr
  rw [← this]; exact hR

end Sys2Proof.Machine
end

