-- ==== Sys2Proof/Laws/Encoding.lean ====
section
/-! SUPPORT. Reading back a field of the layouts of R61 gives what was put there. -/

namespace Sys2Proof.Machine

theorem getLsbD_congr {w : Nat} (x : BitVec w) {i j : Nat} (h : i = j) : x.getLsbD i = x.getLsbD j := h ▸ rfl

@[simp] theorem fD_wT (d a b : BitVec 7) (f : BitVec 3) : fD (wT d a b f) = d := by
  apply BitVec.eq_of_getLsbD_eq; intro i hi
  simp only [fD, wT, BitVec.getLsbD_extractLsb', BitVec.getLsbD_append, hi]
  repeat' split
  all_goals first | omega | (simp only [decide_true, Bool.true_and]; exact getLsbD_congr _ (by omega))
@[simp] theorem fA_wT (d a b : BitVec 7) (f : BitVec 3) : fA (wT d a b f) = a := by
  apply BitVec.eq_of_getLsbD_eq; intro i hi
  simp only [fA, wT, BitVec.getLsbD_extractLsb', BitVec.getLsbD_append, hi]
  repeat' split
  all_goals first | omega | (simp only [decide_true, Bool.true_and]; exact getLsbD_congr _ (by omega))
@[simp] theorem fB_wT (d a b : BitVec 7) (f : BitVec 3) : fB (wT d a b f) = b := by
  apply BitVec.eq_of_getLsbD_eq; intro i hi
  simp only [fB, wT, BitVec.getLsbD_extractLsb', BitVec.getLsbD_append, hi]
  repeat' split
  all_goals first | omega | (simp only [decide_true, Bool.true_and]; exact getLsbD_congr _ (by omega))
@[simp] theorem fF_wT (d a b : BitVec 7) (f : BitVec 3) : fF (wT d a b f) = f := by
  apply BitVec.eq_of_getLsbD_eq; intro i hi
  simp only [fF, wT, BitVec.getLsbD_extractLsb', BitVec.getLsbD_append, hi]
  repeat' split
  all_goals first | omega | (simp only [decide_true, Bool.true_and]; exact getLsbD_congr _ (by omega))
@[simp] theorem fD_wK (d a : BitVec 7) (m : BitVec 10) : fD (wK d a m) = d := by
  apply BitVec.eq_of_getLsbD_eq; intro i hi
  simp only [fD, wK, BitVec.getLsbD_extractLsb', BitVec.getLsbD_append, hi]
  repeat' split
  all_goals first | omega | (simp only [decide_true, Bool.true_and]; exact getLsbD_congr _ (by omega))
@[simp] theorem fA_wK (d a : BitVec 7) (m : BitVec 10) : fA (wK d a m) = a := by
  apply BitVec.eq_of_getLsbD_eq; intro i hi
  simp only [fA, wK, BitVec.getLsbD_extractLsb', BitVec.getLsbD_append, hi]
  repeat' split
  all_goals first | omega | (simp only [decide_true, Bool.true_and]; exact getLsbD_congr _ (by omega))
@[simp] theorem fImm_wK (d a : BitVec 7) (m : BitVec 10) : fImm (wK d a m) = m := by
  apply BitVec.eq_of_getLsbD_eq; intro i hi
  simp only [fImm, wK, BitVec.getLsbD_extractLsb', BitVec.getLsbD_append, hi]
  repeat' split
  all_goals first | omega | (simp only [decide_true, Bool.true_and]; exact getLsbD_congr _ (by omega))
@[simp] theorem patch_n (n : BitVec 2) (tool : BitVec 22) : (wPatch n tool).extractLsb' 22 2 = n := by
  apply BitVec.eq_of_getLsbD_eq; intro i hi
  simp only [wPatch, BitVec.getLsbD_extractLsb', BitVec.getLsbD_append, hi]
  repeat' split
  all_goals first | omega | (simp only [decide_true, Bool.true_and]; exact getLsbD_congr _ (by omega))
@[simp] theorem patch_tool (n : BitVec 2) (tool : BitVec 22) : (wPatch n tool).extractLsb' 0 22 = tool := by
  apply BitVec.eq_of_getLsbD_eq; intro i hi
  simp only [wPatch, BitVec.getLsbD_extractLsb', BitVec.getLsbD_append, hi]
  repeat' split
  all_goals first | omega | (simp only [decide_true, Bool.true_and]; exact getLsbD_congr _ (by omega))

end Sys2Proof.Machine
end

