-- ==== Sys2Proof/Laws/Exec.lean ====
section
/-! SUPPORT. Each arm of `exec`, so that no proof unfolds the whole of it. -/

namespace Sys2Proof.Machine

theorem exec_iaddS32 (h d a b s) : exec (.iaddS32 h d a b) s = execIaddS32 h d a b s := rfl
theorem exec_iaddN32 (h d a b s) : exec (.iaddN32 h d a b) s = execIaddN32 h d a b s := rfl
theorem exec_isubS32 (h d a b s) : exec (.isubS32 h d a b) s = execIsubS32 h d a b s := rfl
theorem exec_isubN32 (h d a b s) : exec (.isubN32 h d a b) s = execIsubN32 h d a b s := rfl
theorem exec_iaddc (h d a b s) : exec (.iaddc h d a b) s = execIaddc h d a b s := rfl
theorem exec_iabs (h d a b s) : exec (.iabs h d a b) s = execIabs h d a b s := rfl
theorem exec_iminS32 (h d a b s) : exec (.iminS32 h d a b) s = execIminS32 h d a b s := rfl
theorem exec_iminN32 (h d a b s) : exec (.iminN32 h d a b) s = execIminN32 h d a b s := rfl
theorem exec_imaxS32 (h d a b s) : exec (.imaxS32 h d a b) s = execImaxS32 h d a b s := rfl
theorem exec_imaxN32 (h d a b s) : exec (.imaxN32 h d a b) s = execImaxN32 h d a b s := rfl
theorem exec_imul (h d a b s) : exec (.imul h d a b) s = execImul h d a b s := rfl
theorem exec_imulhiS32 (h d a b s) : exec (.imulhiS32 h d a b) s = execImulhiS32 h d a b s := rfl
theorem exec_imulhiN32 (h d a b s) : exec (.imulhiN32 h d a b) s = execImulhiN32 h d a b s := rfl
theorem exec_imad (h d a b s) : exec (.imad h d a b) s = execImad h d a b s := rfl
theorem exec_imadwS32 (h d a b s) : exec (.imadwS32 h d a b) s = execImadwS32 h d a b s := rfl
theorem exec_imadwN32 (h d a b s) : exec (.imadwN32 h d a b) s = execImadwN32 h d a b s := rfl
theorem exec_and (h d a b s) : exec (.and h d a b) s = execAnd h d a b s := rfl
theorem exec_or (h d a b s) : exec (.or h d a b) s = execOr h d a b s := rfl
theorem exec_xor (h d a b s) : exec (.xor h d a b) s = execXor h d a b s := rfl
theorem exec_lop3 (h d a b s) : exec (.lop3 h d a b) s = execLop3 h d a b s := rfl
theorem exec_shl (h d a b s) : exec (.shl h d a b) s = execShl h d a b s := rfl
theorem exec_shr (h d a b s) : exec (.shr h d a b) s = execShr h d a b s := rfl
theorem exec_sar (h d a b s) : exec (.sar h d a b) s = execSar h d a b s := rfl
theorem exec_shf (h d a b s) : exec (.shf h d a b) s = execShf h d a b s := rfl
theorem exec_bfxS32 (h d a b s) : exec (.bfxS32 h d a b) s = execBfxS32 h d a b s := rfl
theorem exec_bfxN32 (h d a b s) : exec (.bfxN32 h d a b) s = execBfxN32 h d a b s := rfl
theorem exec_bfi (h d a b s) : exec (.bfi h d a b) s = execBfi h d a b s := rfl
theorem exec_popc (h d a b s) : exec (.popc h d a b) s = execPopc h d a b s := rfl
theorem exec_clz (h d a b s) : exec (.clz h d a b) s = execClz h d a b s := rfl
theorem exec_brev (h d a b s) : exec (.brev h d a b) s = execBrev h d a b s := rfl
theorem exec_prmt (h d a b s) : exec (.prmt h d a b) s = execPrmt h d a b s := rfl
theorem exec_sel (h d a b s) : exec (.sel h d a b) s = execSel h d a b s := rfl
theorem exec_mov (h d a b s) : exec (.mov h d a b) s = execMov h d a b s := rfl
theorem exec_lea (h d a b s) : exec (.lea h d a b) s = execLea h d a b s := rfl
theorem exec_add64 (h d a b s) : exec (.add64 h d a b) s = execAdd64 h d a b s := rfl
theorem exec_movi (h d a imm s) : exec (.movi h d a imm) s = execMovi h d a imm s := rfl
theorem exec_iaddImm (h d a imm s) : exec (.iaddImm h d a imm) s = execIaddImm h d a imm s := rfl
theorem exec_imulImm (h d a imm s) : exec (.imulImm h d a imm) s = execImulImm h d a imm s := rfl
theorem exec_andImm (h d a imm s) : exec (.andImm h d a imm) s = execAndImm h d a imm s := rfl
theorem exec_orImm (h d a imm s) : exec (.orImm h d a imm) s = execOrImm h d a imm s := rfl
theorem exec_xorImm (h d a imm s) : exec (.xorImm h d a imm) s = execXorImm h d a imm s := rfl
theorem exec_shlImm (h d a imm s) : exec (.shlImm h d a imm) s = execShlImm h d a imm s := rfl
theorem exec_shrImm (h d a imm s) : exec (.shrImm h d a imm) s = execShrImm h d a imm s := rfl
theorem exec_sarImm (h d a imm s) : exec (.sarImm h d a imm) s = execSarImm h d a imm s := rfl
theorem exec_fadd (h d a b s) : exec (.fadd h d a b) s = execFadd h d a b s := rfl
theorem exec_fmul (h d a b s) : exec (.fmul h d a b) s = execFmul h d a b s := rfl
theorem exec_ffma (h d a b s) : exec (.ffma h d a b) s = execFfma h d a b s := rfl
theorem exec_fmin (h d a b s) : exec (.fmin h d a b) s = execFmin h d a b s := rfl
theorem exec_fmax (h d a b s) : exec (.fmax h d a b) s = execFmax h d a b s := rfl
theorem exec_frnd (h d a b s) : exec (.frnd h d a b) s = execFrnd h d a b s := rfl
theorem exec_fclass (h d a b s) : exec (.fclass h d a b) s = execFclass h d a b s := rfl
theorem exec_frcp (h d a b s) : exec (.frcp h d a b) s = execFrcp h d a b s := rfl
theorem exec_frsq (h d a b s) : exec (.frsq h d a b) s = execFrsq h d a b s := rfl
theorem exec_fsqrt (h d a b s) : exec (.fsqrt h d a b) s = execFsqrt h d a b s := rfl
theorem exec_fexp2 (h d a b s) : exec (.fexp2 h d a b) s = execFexp2 h d a b s := rfl
theorem exec_flog2 (h d a b s) : exec (.flog2 h d a b) s = execFlog2 h d a b s := rfl
theorem exec_fsin (h d a b s) : exec (.fsin h d a b) s = execFsin h d a b s := rfl
theorem exec_fcos (h d a b s) : exec (.fcos h d a b) s = execFcos h d a b s := rfl
theorem exec_dadd (h d a b s) : exec (.dadd h d a b) s = execDadd h d a b s := rfl
theorem exec_dmul (h d a b s) : exec (.dmul h d a b) s = execDmul h d a b s := rfl
theorem exec_dfma (h d a b s) : exec (.dfma h d a b) s = execDfma h d a b s := rfl
theorem exec_hadd2 (h d a b s) : exec (.hadd2 h d a b) s = execHadd2 h d a b s := rfl
theorem exec_hmul2 (h d a b s) : exec (.hmul2 h d a b) s = execHmul2 h d a b s := rfl
theorem exec_hfma2 (h d a b s) : exec (.hfma2 h d a b) s = execHfma2 h d a b s := rfl
theorem exec_bfma2 (h d a b s) : exec (.bfma2 h d a b) s = execBfma2 h d a b s := rfl
theorem exec_cvt (h d a imm s) : exec (.cvt h d a imm) s = execCvt h d a imm s := rfl
theorem exec_pack (h d a imm s) : exec (.pack h d a imm) s = execPack h d a imm s := rfl
theorem exec_unpk (h d a imm s) : exec (.unpk h d a imm) s = execUnpk h d a imm s := rfl
theorem exec_dp4E4m3 (h d a b s) : exec (.dp4E4m3 h d a b) s = execDp4E4m3 h d a b s := rfl
theorem exec_dp4E5m2 (h d a b s) : exec (.dp4E5m2 h d a b) s = execDp4E5m2 h d a b s := rfl
theorem exec_dp4E3m2 (h d a b s) : exec (.dp4E3m2 h d a b) s = execDp4E3m2 h d a b s := rfl
theorem exec_dp4E2m3 (h d a b s) : exec (.dp4E2m3 h d a b) s = execDp4E2m3 h d a b s := rfl
theorem exec_dp4S8 (h d a b s) : exec (.dp4S8 h d a b) s = execDp4S8 h d a b s := rfl
theorem exec_dp4N8 (h d a b s) : exec (.dp4N8 h d a b) s = execDp4N8 h d a b s := rfl
theorem exec_dp4S8n8 (h d a b s) : exec (.dp4S8n8 h d a b) s = execDp4S8n8 h d a b s := rfl
theorem exec_dp8E2m1 (h d a b s) : exec (.dp8E2m1 h d a b) s = execDp8E2m1 h d a b s := rfl
theorem exec_dp8S4 (h d a b s) : exec (.dp8S4 h d a b) s = execDp8S4 h d a b s := rfl
theorem exec_dp8N4 (h d a b s) : exec (.dp8N4 h d a b) s = execDp8N4 h d a b s := rfl
theorem exec_dp8S4n4 (h d a b s) : exec (.dp8S4n4 h d a b) s = execDp8S4n4 h d a b s := rfl
theorem exec_fsclF32 (h d a b s) : exec (.fsclF32 h d a b) s = execFsclF32 h d a b s := rfl
theorem exec_fsclF64 (h d a b s) : exec (.fsclF64 h d a b) s = execFsclF64 h d a b s := rfl
theorem exec_icmpEq (h d a b s) : exec (.icmpEq h d a b) s = execIcmpEq h d a b s := rfl
theorem exec_icmpNe (h d a b s) : exec (.icmpNe h d a b) s = execIcmpNe h d a b s := rfl
theorem exec_icmpLtS32 (h d a b s) : exec (.icmpLtS32 h d a b) s = execIcmpLtS32 h d a b s := rfl
theorem exec_icmpLeS32 (h d a b s) : exec (.icmpLeS32 h d a b) s = execIcmpLeS32 h d a b s := rfl
theorem exec_icmpLtN32 (h d a b s) : exec (.icmpLtN32 h d a b) s = execIcmpLtN32 h d a b s := rfl
theorem exec_icmpLeN32 (h d a b s) : exec (.icmpLeN32 h d a b) s = execIcmpLeN32 h d a b s := rfl
theorem exec_fcmpEq (h d a b s) : exec (.fcmpEq h d a b) s = execFcmpEq h d a b s := rfl
theorem exec_fcmpNe (h d a b s) : exec (.fcmpNe h d a b) s = execFcmpNe h d a b s := rfl
theorem exec_fcmpLt (h d a b s) : exec (.fcmpLt h d a b) s = execFcmpLt h d a b s := rfl
theorem exec_fcmpLe (h d a b s) : exec (.fcmpLe h d a b) s = execFcmpLe h d a b s := rfl
theorem exec_fcmpUn (h d a b s) : exec (.fcmpUn h d a b) s = execFcmpUn h d a b s := rfl
theorem exec_fcmpNeu (h d a b s) : exec (.fcmpNeu h d a b) s = execFcmpNeu h d a b s := rfl
theorem exec_fcmpLtu (h d a b s) : exec (.fcmpLtu h d a b) s = execFcmpLtu h d a b s := rfl
theorem exec_fcmpLeu (h d a b s) : exec (.fcmpLeu h d a b) s = execFcmpLeu h d a b s := rfl
theorem exec_fcmpEqF64 (h d a b s) : exec (.fcmpEqF64 h d a b) s = execFcmpEqF64 h d a b s := rfl
theorem exec_fcmpNeF64 (h d a b s) : exec (.fcmpNeF64 h d a b) s = execFcmpNeF64 h d a b s := rfl
theorem exec_fcmpLtF64 (h d a b s) : exec (.fcmpLtF64 h d a b) s = execFcmpLtF64 h d a b s := rfl
theorem exec_fcmpLeF64 (h d a b s) : exec (.fcmpLeF64 h d a b) s = execFcmpLeF64 h d a b s := rfl
theorem exec_fcmpUnF64 (h d a b s) : exec (.fcmpUnF64 h d a b) s = execFcmpUnF64 h d a b s := rfl
theorem exec_fcmpNeuF64 (h d a b s) : exec (.fcmpNeuF64 h d a b) s = execFcmpNeuF64 h d a b s := rfl
theorem exec_fcmpLtuF64 (h d a b s) : exec (.fcmpLtuF64 h d a b) s = execFcmpLtuF64 h d a b s := rfl
theorem exec_fcmpLeuF64 (h d a b s) : exec (.fcmpLeuF64 h d a b) s = execFcmpLeuF64 h d a b s := rfl
theorem exec_plop (h d a b s) : exec (.plop h d a b) s = execPlop h d a b s := rfl
theorem exec_pmov (h d a b s) : exec (.pmov h d a b) s = execPmov h d a b s := rfl
theorem exec_bra (h disp s) : exec (.bra h disp) s = execBra h disp s := rfl
theorem exec_call (h disp s) : exec (.call h disp) s = execCall h disp s := rfl
theorem exec_brx (h d a b s) : exec (.brx h d a b) s = execBrx h d a b s := rfl
theorem exec_callx (h d a b s) : exec (.callx h d a b) s = execCallx h d a b s := rfl
theorem exec_ret (h d a b s) : exec (.ret h d a b) s = execRet h d a b s := rfl
theorem exec_exit (h d a b s) : exec (.exit h d a b) s = execExit h d a b s := rfl
theorem exec_nop (h d a b s) : exec (.nop h d a b) s = execNop h d a b s := rfl
theorem exec_rjenr (h d a b s) : exec (.rjenr h d a b) s = execRjenr h d a b s := rfl
theorem exec_rjpark (h d a b s) : exec (.rjpark h d a b) s = execRjpark h d a b s := rfl
theorem exec_rjstrk (h d a b s) : exec (.rjstrk h d a b) s = execRjstrk h d a b s := rfl
theorem exec_rjrd (h d a b s) : exec (.rjrd h d a b) s = execRjrd h d a b s := rfl
theorem exec_wmask (h d a b s) : exec (.wmask h d a b) s = execWmask h d a b s := rfl
theorem exec_shflPick (h d a b s) : exec (.shflPick h d a b) s = execShflPick h d a b s := rfl
theorem exec_shflLag (h d a b s) : exec (.shflLag h d a b) s = execShflLag h d a b s := rfl
theorem exec_shflLead (h d a b s) : exec (.shflLead h d a b) s = execShflLead h d a b s := rfl
theorem exec_shflMirr (h d a b s) : exec (.shflMirr h d a b) s = execShflMirr h d a b s := rfl
theorem exec_voteEvery (h d a b s) : exec (.voteEvery h d a b) s = execVoteEvery h d a b s := rfl
theorem exec_voteSome (h d a b s) : exec (.voteSome h d a b) s = execVoteSome h d a b s := rfl
theorem exec_voteSame (h d a b s) : exec (.voteSame h d a b) s = execVoteSame h d a b s := rfl
theorem exec_ballot (h d a b s) : exec (.ballot h d a b) s = execBallot h d a b s := rfl
theorem exec_reduxSum (h d a b s) : exec (.reduxSum h d a b) s = execReduxSum h d a b s := rfl
theorem exec_reduxLeastS32 (h d a b s) : exec (.reduxLeastS32 h d a b) s = execReduxLeastS32 h d a b s := rfl
theorem exec_reduxLeastN32 (h d a b s) : exec (.reduxLeastN32 h d a b) s = execReduxLeastN32 h d a b s := rfl
theorem exec_reduxMostS32 (h d a b s) : exec (.reduxMostS32 h d a b) s = execReduxMostS32 h d a b s := rfl
theorem exec_reduxMostN32 (h d a b s) : exec (.reduxMostN32 h d a b) s = execReduxMostN32 h d a b s := rfl
theorem exec_reduxBand (h d a b s) : exec (.reduxBand h d a b) s = execReduxBand h d a b s := rfl
theorem exec_reduxBor (h d a b s) : exec (.reduxBor h d a b) s = execReduxBor h d a b s := rfl
theorem exec_reduxBxor (h d a b s) : exec (.reduxBxor h d a b) s = execReduxBxor h d a b s := rfl
theorem exec_matchPeers (h d a b s) : exec (.matchPeers h d a b) s = execMatchPeers h d a b s := rfl
theorem exec_matchUnif (h d a b s) : exec (.matchUnif h d a b) s = execMatchUnif h d a b s := rfl
theorem exec_xsw (h d a b s) : exec (.xsw h d a b) s = execXsw h d a b s := rfl
theorem exec_bar (h d a b s) : exec (.bar h d a b) s = execBar h d a b s := rfl
theorem exec_bara (h d a b s) : exec (.bara h d a b) s = execBara h d a b s := rfl
theorem exec_barw (h d a b s) : exec (.barw h d a b) s = execBarw h d a b s := rfl
theorem exec_yield (h d a b s) : exec (.yield h d a b) s = execYield h d a b s := rfl
theorem exec_lnch (h d a b s) : exec (.lnch h d a b) s = execLnch h d a b s := rfl
theorem exec_rdsr (h d a imm s) : exec (.rdsr h d a imm) s = execRdsr h d a imm s := rfl
theorem exec_wrsr (h d a imm s) : exec (.wrsr h d a imm) s = execWrsr h d a imm s := rfl
theorem exec_ldN8 (h d a b s) : exec (.ldN8 h d a b) s = execLdN8 h d a b s := rfl
theorem exec_ldS8 (h d a b s) : exec (.ldS8 h d a b) s = execLdS8 h d a b s := rfl
theorem exec_ldN16 (h d a b s) : exec (.ldN16 h d a b) s = execLdN16 h d a b s := rfl
theorem exec_ldS16 (h d a b s) : exec (.ldS16 h d a b) s = execLdS16 h d a b s := rfl
theorem exec_ldB32 (h d a b s) : exec (.ldB32 h d a b) s = execLdB32 h d a b s := rfl
theorem exec_ldB64 (h d a b s) : exec (.ldB64 h d a b) s = execLdB64 h d a b s := rfl
theorem exec_ldB128 (h d a b s) : exec (.ldB128 h d a b) s = execLdB128 h d a b s := rfl
theorem exec_stB8 (h d a b s) : exec (.stB8 h d a b) s = execStB8 h d a b s := rfl
theorem exec_stB16 (h d a b s) : exec (.stB16 h d a b) s = execStB16 h d a b s := rfl
theorem exec_stB32 (h d a b s) : exec (.stB32 h d a b) s = execStB32 h d a b s := rfl
theorem exec_stB64 (h d a b s) : exec (.stB64 h d a b) s = execStB64 h d a b s := rfl
theorem exec_stB128 (h d a b s) : exec (.stB128 h d a b) s = execStB128 h d a b s := rfl
theorem exec_atomAddB32 (h d a b s) : exec (.atomAddB32 h d a b) s = execAtomAddB32 h d a b s := rfl
theorem exec_atomMinS32 (h d a b s) : exec (.atomMinS32 h d a b) s = execAtomMinS32 h d a b s := rfl
theorem exec_atomMinN32 (h d a b s) : exec (.atomMinN32 h d a b) s = execAtomMinN32 h d a b s := rfl
theorem exec_atomMaxS32 (h d a b s) : exec (.atomMaxS32 h d a b) s = execAtomMaxS32 h d a b s := rfl
theorem exec_atomMaxN32 (h d a b s) : exec (.atomMaxN32 h d a b) s = execAtomMaxN32 h d a b s := rfl
theorem exec_atomAndB32 (h d a b s) : exec (.atomAndB32 h d a b) s = execAtomAndB32 h d a b s := rfl
theorem exec_atomOrB32 (h d a b s) : exec (.atomOrB32 h d a b) s = execAtomOrB32 h d a b s := rfl
theorem exec_atomXorB32 (h d a b s) : exec (.atomXorB32 h d a b) s = execAtomXorB32 h d a b s := rfl
theorem exec_atomExchB32 (h d a b s) : exec (.atomExchB32 h d a b) s = execAtomExchB32 h d a b s := rfl
theorem exec_atomCasB32 (h d a b s) : exec (.atomCasB32 h d a b) s = execAtomCasB32 h d a b s := rfl
theorem exec_atomAddF32 (h d a b s) : exec (.atomAddF32 h d a b) s = execAtomAddF32 h d a b s := rfl
theorem exec_atomExchB64 (h d a b s) : exec (.atomExchB64 h d a b) s = execAtomExchB64 h d a b s := rfl
theorem exec_atomCasB64 (h d a b s) : exec (.atomCasB64 h d a b) s = execAtomCasB64 h d a b s := rfl
theorem exec_atomAddB64 (h d a b s) : exec (.atomAddB64 h d a b) s = execAtomAddB64 h d a b s := rfl
theorem exec_atomCasB128 (h d a b s) : exec (.atomCasB128 h d a b) s = execAtomCasB128 h d a b s := rfl
theorem exec_atomAddF64 (h d a b s) : exec (.atomAddF64 h d a b) s = execAtomAddF64 h d a b s := rfl
theorem exec_redAddB32 (h d a b s) : exec (.redAddB32 h d a b) s = execRedAddB32 h d a b s := rfl
theorem exec_redMinS32 (h d a b s) : exec (.redMinS32 h d a b) s = execRedMinS32 h d a b s := rfl
theorem exec_redMinN32 (h d a b s) : exec (.redMinN32 h d a b) s = execRedMinN32 h d a b s := rfl
theorem exec_redMaxS32 (h d a b s) : exec (.redMaxS32 h d a b) s = execRedMaxS32 h d a b s := rfl
theorem exec_redMaxN32 (h d a b s) : exec (.redMaxN32 h d a b) s = execRedMaxN32 h d a b s := rfl
theorem exec_redAddF32 (h d a b s) : exec (.redAddF32 h d a b) s = execRedAddF32 h d a b s := rfl
theorem exec_redAddB64 (h d a b s) : exec (.redAddB64 h d a b) s = execRedAddB64 h d a b s := rfl
theorem exec_redAddF64 (h d a b s) : exec (.redAddF64 h d a b) s = execRedAddF64 h d a b s := rfl
theorem exec_redAndB32 (h d a b s) : exec (.redAndB32 h d a b) s = execRedAndB32 h d a b s := rfl
theorem exec_redOrB32 (h d a b s) : exec (.redOrB32 h d a b) s = execRedOrB32 h d a b s := rfl
theorem exec_redXorB32 (h d a b s) : exec (.redXorB32 h d a b) s = execRedXorB32 h d a b s := rfl
theorem exec_fence (h d a b s) : exec (.fence h d a b) s = execFence h d a b s := rfl
theorem exec_cinv (h d a b s) : exec (.cinv h d a b) s = execCinv h d a b s := rfl
theorem exec_cwb (h d a b s) : exec (.cwb h d a b) s = execCwb h d a b s := rfl
theorem exec_pref (h d a b s) : exec (.pref h d a b) s = execPref h d a b s := rfl
theorem exec_probe (h d a b s) : exec (.probe h d a b) s = execProbe h d a b s := rfl
theorem exec_unpin (h d a b s) : exec (.unpin h d a b) s = execUnpin h d a b s := rfl
theorem exec_cpy (h d a b s) : exec (.cpy h d a b) s = execCpy h d a b s := rfl
theorem exec_fenceXp (h d a b s) : exec (.fenceXp h d a b) s = execFenceXp h d a b s := rfl
theorem exec_ldDir (h d a b s) : exec (.ldDir h d a b) s = execLdDir h d a b s := rfl
theorem exec_stDir (h d a b s) : exec (.stDir h d a b) s = execStDir h d a b s := rfl
theorem exec_mxacq (h d a b s) : exec (.mxacq h d a b) s = execMxacq h d a b s := rfl
theorem exec_mxrel (h d a b s) : exec (.mxrel h d a b) s = execMxrel h d a b s := rfl
theorem exec_mxown (h d a b s) : exec (.mxown h d a b) s = execMxown h d a b s := rfl
theorem exec_mxq (h d a b s) : exec (.mxq h d a b) s = execMxq h d a b s := rfl
theorem exec_mxwait (h d a b s) : exec (.mxwait h d a b) s = execMxwait h d a b s := rfl
theorem exec_mxrd (h d a b s) : exec (.mxrd h d a b) s = execMxrd h d a b s := rfl
theorem exec_mxwr (h d a b s) : exec (.mxwr h d a b) s = execMxwr h d a b s := rfl
theorem exec_mxzero (h d a b s) : exec (.mxzero h d a b) s = execMxzero h d a b s := rfl
theorem exec_mxstat (h d a b s) : exec (.mxstat h d a b) s = execMxstat h d a b s := rfl
theorem exec_qdopen (h d a b s) : exec (.qdopen h d a b) s = execQdopen h d a b s := rfl
theorem exec_qdnext (h d a b s) : exec (.qdnext h d a b) s = execQdnext h d a b s := rfl
theorem exec_qdsplit (h d a b s) : exec (.qdsplit h d a b) s = execQdsplit h d a b s := rfl
theorem exec_qdsave (h d a b s) : exec (.qdsave h d a b) s = execQdsave h d a b s := rfl
theorem exec_qdload (h d a b s) : exec (.qdload h d a b) s = execQdload h d a b s := rfl
theorem exec_qdclose (h d a b s) : exec (.qdclose h d a b) s = execQdclose h d a b s := rfl
theorem exec_qdstat (h d a b s) : exec (.qdstat h d a b) s = execQdstat h d a b s := rfl
theorem exec_qdprobe (h d a b s) : exec (.qdprobe h d a b) s = execQdprobe h d a b s := rfl
theorem exec_qyinit (h d a b s) : exec (.qyinit h d a b) s = execQyinit h d a b s := rfl
theorem exec_qypush (h d a b s) : exec (.qypush h d a b) s = execQypush h d a b s := rfl
theorem exec_qypop (h d a b s) : exec (.qypop h d a b) s = execQypop h d a b s := rfl
theorem exec_qydone (h d a b s) : exec (.qydone h d a b) s = execQydone h d a b s := rfl
theorem exec_qyfloor (h d a b s) : exec (.qyfloor h d a b) s = execQyfloor h d a b s := rfl
theorem exec_qyquiet (h d a b s) : exec (.qyquiet h d a b) s = execQyquiet h d a b s := rfl
theorem exec_qyyield (h d a b s) : exec (.qyyield h d a b) s = execQyyield h d a b s := rfl
theorem exec_qystat (h d a b s) : exec (.qystat h d a b) s = execQystat h d a b s := rfl
theorem exec_trap (h d a b s) : exec (.trap h d a b) s = execTrap h d a b s := rfl
theorem exec_rett (h d a b s) : exec (.rett h d a b) s = execRett h d a b s := rfl
theorem exec_region (h d a b s) : exec (.region h d a b) s = execRegion h d a b s := rfl
theorem exec_brk (h d a b s) : exec (.brk h d a b) s = execBrk h d a b s := rfl
theorem exec_rdtr (h d a b s) : exec (.rdtr h d a b) s = execRdtr h d a b s := rfl
theorem exec_vrdx (h d a b s) : exec (.vrdx h d a b) s = execVrdx h d a b s := rfl
theorem exec_vwrx (h d a b s) : exec (.vwrx h d a b) s = execVwrx h d a b s := rfl
theorem exec_patch (h n tool s) : exec (.patch h n tool) s = execPatch h n tool s := rfl
theorem exec_trmp (h disp s) : exec (.trmp h disp) s = execTrmp h disp s := rfl
theorem exec_memoryReply (w id s) : exec (.memoryReply w id) s = execMemoryReply w id s := rfl
theorem exec_switchMarkerRelease (w s) : exec (.switchMarkerRelease w) s = execSwitchMarkerRelease w s := rfl
theorem exec_grantCountRotation (w s) : exec (.grantCountRotation w) s = execGrantCountRotation w s := rfl
theorem exec_allocationRelease (lane s) : exec (.allocationRelease lane) s = execAllocationRelease lane s := rfl
theorem exec_laneSpill (lane s) : exec (.laneSpill lane) s = execLaneSpill lane s := rfl
theorem exec_spillRestore (w s) : exec (.spillRestore w) s = execSpillRestore w s := rfl
theorem exec_warpEnd (w s) : exec (.warpEnd w) s = execWarpEnd w s := rfl
theorem exec_barrierPhaseComplete (w scope id s) : exec (.barrierPhaseComplete w scope id) s = execBarrierPhaseComplete w scope id s := rfl
theorem exec_xswPairComplete (w w2 s) : exec (.xswPairComplete w w2) s = execXswPairComplete w w2 s := rfl
theorem exec_lnchRecordRead (w s) : exec (.lnchRecordRead w) s = execLnchRecordRead w s := rfl
theorem exec_timerTrap (w slot s) : exec (.timerTrap w slot) s = execTimerTrap w slot s := rfl
theorem exec_trapEntry (w slot s) : exec (.trapEntry w slot) s = execTrapEntry w slot s := rfl
theorem exec_translationWalk (w id s) : exec (.translationWalk w id) s = execTranslationWalk w id s := rfl
theorem exec_walkFault (w slot s) : exec (.walkFault w slot) s = execWalkFault w slot s := rfl
theorem exec_faultRecordWrite (s) : exec (.faultRecordWrite) s = execFaultRecordWrite s := rfl
theorem exec_regionBoundary (w slot s) : exec (.regionBoundary w slot) s = execRegionBoundary w slot s := rfl
theorem exec_storeEntryPerform (w s) : exec (.storeEntryPerform w) s = execStoreEntryPerform w s := rfl
theorem exec_coalesceRequestSend (lane s) : exec (.coalesceRequestSend lane) s = execCoalesceRequestSend lane s := rfl
theorem exec_l1Fill (core s) : exec (.l1Fill core) s = execL1Fill core s := rfl
theorem exec_homeSliceServe (slice idx s) : exec (.homeSliceServe slice idx) s = execHomeSliceServe slice idx s := rfl
theorem exec_l2MemoryReply (slice s) : exec (.l2MemoryReply slice) s = execL2MemoryReply slice s := rfl
theorem exec_baseDieService (stack s) : exec (.baseDieService stack) s = execBaseDieService stack s := rfl
theorem exec_directPacketSend (w s) : exec (.directPacketSend w) s = execDirectPacketSend w s := rfl
theorem exec_directReply (w s) : exec (.directReply w) s = execDirectReply w s := rfl
theorem exec_fenceComplete (w s) : exec (.fenceComplete w) s = execFenceComplete w s := rfl
theorem exec_cacheMaintComplete (w s) : exec (.cacheMaintComplete w) s = execCacheMaintComplete w s := rfl
theorem exec_fenceXpComplete (w s) : exec (.fenceXpComplete w) s = execFenceXpComplete w s := rfl
theorem exec_copyLineOperation (core ent s) : exec (.copyLineOperation core ent) s = execCopyLineOperation core ent s := rfl
theorem exec_copyTranslationFault (core ent s) : exec (.copyTranslationFault core ent) s = execCopyTranslationFault core ent s := rfl
theorem exec_copyRetire (core ent s) : exec (.copyRetire core ent) s = execCopyRetire core ent s := rfl
theorem exec_mxPassSelect (cl s) : exec (.mxPassSelect cl) s = execMxPassSelect cl s := rfl
theorem exec_mxStep (cl s) : exec (.mxStep cl) s = execMxStep cl s := rfl
theorem exec_mxPassComplete (cl s) : exec (.mxPassComplete cl) s = execMxPassComplete cl s := rfl
theorem exec_mxzeroRun (cl s) : exec (.mxzeroRun cl) s = execMxzeroRun cl s := rfl
theorem exec_mxacqBind (w slot s) : exec (.mxacqBind w slot) s = execMxacqBind w slot s := rfl
theorem exec_mxrelReturn (w slot s) : exec (.mxrelReturn w slot) s = execMxrelReturn w slot s := rfl
theorem exec_mxownFlip (w slot s) : exec (.mxownFlip w slot) s = execMxownFlip w slot s := rfl
theorem exec_mxwaitReport (w slot s) : exec (.mxwaitReport w slot) s = execMxwaitReport w slot s := rfl
theorem exec_mxRowAccess (w slot s) : exec (.mxRowAccess w slot) s = execMxRowAccess w slot s := rfl
theorem exec_tokenArrive (die tok s) : exec (.tokenArrive die tok) s = execTokenArrive die tok s := rfl
theorem exec_tokenIdleMove (die tok s) : exec (.tokenIdleMove die tok) s = execTokenIdleMove die tok s := rfl
theorem exec_burstEnd (cl s) : exec (.burstEnd cl) s = execBurstEnd cl s := rfl
theorem exec_qdCommandServe (cl idx s) : exec (.qdCommandServe cl idx) s = execQdCommandServe cl idx s := rfl
theorem exec_qdStreamFault (cl idx s) : exec (.qdStreamFault cl idx) s = execQdStreamFault cl idx s := rfl
theorem exec_pushComplete (w s) : exec (.pushComplete w) s = execPushComplete w s := rfl
theorem exec_spoilRefill (cl s) : exec (.spoilRefill cl) s = execSpoilRefill cl s := rfl
theorem exec_popServe (w id s) : exec (.popServe w id) s = execPopServe w id s := rfl
theorem exec_steal (w id victim s) : exec (.steal w id victim) s = execSteal w id victim s := rfl
theorem exec_floorWave (ctx n s) : exec (.floorWave ctx n) s = execFloorWave ctx n s := rfl
theorem exec_terminationPass (ctx n s) : exec (.terminationPass ctx n) s = execTerminationPass ctx n s := rfl
theorem exec_quietWaitRelease (w slot s) : exec (.quietWaitRelease w slot) s = execQuietWaitRelease w slot s := rfl
theorem exec_headRecordRead (q s) : exec (.headRecordRead q) s = execHeadRecordRead q s := rfl
theorem exec_waitSignalRead (q s) : exec (.waitSignalRead q) s = execWaitSignalRead q s := rfl
theorem exec_placementDecision (s) : exec (.placementDecision) s = execPlacementDecision s := rfl
theorem exec_launchComplete (lnch s) : exec (.launchComplete lnch) s = execLaunchComplete lnch s := rfl
theorem exec_queueTailWrite (q v s) : exec (.queueTailWrite q v) s = execQueueTailWrite q v s := rfl
theorem exec_queueEnable (q s) : exec (.queueEnable q) s = execQueueEnable q s := rfl
theorem exec_queueDisable (q s) : exec (.queueDisable q) s = execQueueDisable q s := rfl
theorem exec_queueErrorClear (q bits s) : exec (.queueErrorClear q bits) s = execQueueErrorClear q bits s := rfl
theorem exec_stop (ch s) : exec (.stop ch) s = execStop ch s := rfl
theorem exec_drain (ch s) : exec (.drain ch) s = execDrain ch s := rfl
theorem exec_resume (ch s) : exec (.resume ch) s = execResume ch s := rfl
theorem exec_fresetClear (ch s) : exec (.fresetClear ch) s = execFresetClear ch s := rfl
theorem exec_graceExpiry (ch s) : exec (.graceExpiry ch) s = execGraceExpiry ch s := rfl
theorem exec_deadlineExpiry (ch s) : exec (.deadlineExpiry ch) s = execDeadlineExpiry ch s := rfl
theorem exec_stopCopyEngine (ch gang s) : exec (.stopCopyEngine ch gang) s = execStopCopyEngine ch gang s := rfl
theorem exec_stopCoordinateEngine (ch gang s) : exec (.stopCoordinateEngine ch gang) s = execStopCoordinateEngine ch gang s := rfl
theorem exec_stopWarps (ch gang s) : exec (.stopWarps ch gang) s = execStopWarps ch gang s := rfl
theorem exec_stopMatrixEngine (ch gang s) : exec (.stopMatrixEngine ch gang) s = execStopMatrixEngine ch gang s := rfl
theorem exec_stopFlushSave (ch gang s) : exec (.stopFlushSave ch gang) s = execStopFlushSave ch gang s := rfl
theorem exec_gangRestore (ch s) : exec (.gangRestore ch) s = execGangRestore ch s := rfl
theorem exec_faultAnswerResume (seq s) : exec (.faultAnswerResume seq) s = execFaultAnswerResume seq s := rfl
theorem exec_faultAnswerFatal (seq s) : exec (.faultAnswerFatal seq) s = execFaultAnswerFatal seq s := rfl
theorem exec_faultRingEnable (s) : exec (.faultRingEnable) s = execFaultRingEnable s := rfl
theorem exec_faultRingDisable (s) : exec (.faultRingDisable) s = execFaultRingDisable s := rfl
theorem exec_faultRingErrorClear (bits s) : exec (.faultRingErrorClear bits) s = execFaultRingErrorClear bits s := rfl
theorem exec_invalidateGo (s) : exec (.invalidateGo) s = execInvalidateGo s := rfl
theorem exec_invalidateDone (s) : exec (.invalidateDone) s = execInvalidateDone s := rfl
theorem exec_invalidateErrorClear (s) : exec (.invalidateErrorClear) s = execInvalidateErrorClear s := rfl
theorem exec_bar2Read (off n s) : exec (.bar2Read off n) s = execBar2Read off n s := rfl
theorem exec_bar2Write (off bytes s) : exec (.bar2Write off bytes) s = execBar2Write off bytes s := rfl
theorem exec_winerrClear (s) : exec (.winerrClear) s = execWinerrClear s := rfl
theorem exec_registerWrite (off size v s) : exec (.registerWrite off size v) s = execRegisterWrite off size v s := rfl
theorem exec_heldWriteTake (s) : exec (.heldWriteTake) s = execHeldWriteTake s := rfl
theorem exec_flitRoute (idx s) : exec (.flitRoute idx) s = execFlitRoute idx s := rfl
theorem exec_linkPowerDown (l s) : exec (.linkPowerDown l) s = execLinkPowerDown l s := rfl
theorem exec_linkOff (l s) : exec (.linkOff l) s = execLinkOff l s := rfl
theorem exec_linkWake (l s) : exec (.linkWake l) s = execLinkWake l s := rfl
theorem exec_linkActive (l s) : exec (.linkActive l) s = execLinkActive l s := rfl
theorem exec_virvisPortUpChange (k up far s) : exec (.virvisPortUpChange k up far) s = execVirvisPortUpChange k up far s := rfl
theorem exec_pdupClear (k s) : exec (.pdupClear k) s = execPdupClear k s := rfl
theorem exec_peerRequest (src op addr bytes s) : exec (.peerRequest src op addr bytes) s = execPeerRequest src op addr bytes s := rfl
theorem exec_pcieCompletion (tag status s) : exec (.pcieCompletion tag status) s = execPcieCompletion tag status s := rfl
theorem exec_pcieCompletionTimeout (tag s) : exec (.pcieCompletionTimeout tag) s = execPcieCompletionTimeout tag s := rfl
theorem exec_deviceReset (cause s) : exec (.deviceReset cause) s = execDeviceReset cause s := rfl
theorem exec_bootVerify (s) : exec (.bootVerify) s = execBootVerify s := rfl
theorem exec_selfTestPass (fn s) : exec (.selfTestPass fn) s = execSelfTestPass fn s := rfl
theorem exec_selfTestFail (fn s) : exec (.selfTestFail fn) s = execSelfTestFail fn s := rfl
theorem exec_firmwareVerify (s) : exec (.firmwareVerify) s = execFirmwareVerify s := rfl
theorem exec_firmwareVerifyDone (s) : exec (.firmwareVerifyDone) s = execFirmwareVerifyDone s := rfl
theorem exec_getVersion (s) : exec (.getVersion) s = execGetVersion s := rfl
theorem exec_getCapabilities (s) : exec (.getCapabilities) s = execGetCapabilities s := rfl
theorem exec_negotiateAlgorithms (s) : exec (.negotiateAlgorithms) s = execNegotiateAlgorithms s := rfl
theorem exec_getMeasurements (idx s) : exec (.getMeasurements idx) s = execGetMeasurements idx s := rfl
theorem exec_spdmUnsupported (code s) : exec (.spdmUnsupported code) s = execSpdmUnsupported code s := rfl
theorem exec_eccCorrected (hbm unit addr s) : exec (.eccCorrected hbm unit addr) s = execEccCorrected hbm unit addr s := rfl
theorem exec_eccUncorrectable (hbm unit addr ctx s) : exec (.eccUncorrectable hbm unit addr ctx) s = execEccUncorrectable hbm unit addr ctx s := rfl
theorem exec_hbmScrub (stack s) : exec (.hbmScrub stack) s = execHbmScrub stack s := rfl
theorem exec_eccCounterWrite (hbm unit which v s) : exec (.eccCounterWrite hbm unit which v) s = execEccCounterWrite hbm unit which v s := rfl
theorem exec_powerLimitWrite (v s) : exec (.powerLimitWrite v) s = execPowerLimitWrite v s := rfl
theorem exec_throttleSet (die temp s) : exec (.throttleSet die temp) s = execThrottleSet die temp s := rfl
theorem exec_throttleClear (die temp s) : exec (.throttleClear die temp) s = execThrottleClear die temp s := rfl
theorem exec_thermalShutdown (die temp s) : exec (.thermalShutdown die temp) s = execThermalShutdown die temp s := rfl
theorem exec_d3hotEnter (s) : exec (.d3hotEnter) s = execD3hotEnter s := rfl
theorem exec_d3hotExit (s) : exec (.d3hotExit) s = execD3hotExit s := rfl
theorem exec_powerRemoval (s) : exec (.powerRemoval) s = execPowerRemoval s := rfl
theorem exec_illegalInstruction (fpc word s) : exec (.illegalInstruction fpc word) s = execIllegalInstruction fpc word s := rfl
theorem exec_msixVectorUnmask (v s) : exec (.msixVectorUnmask v) s = execMsixVectorUnmask v s := rfl
theorem exec_linkedContextEnd (lgid s) : exec (.linkedContextEnd lgid) s = execLinkedContextEnd lgid s := rfl

end Sys2Proof.Machine
end

