-- ==== Sys2Proof/Laws/Memory.lean ====
section
/-! SUPPORT. Byte memories: every operation keeps the canonical form. -/

namespace Sys2Proof.Machine

theorem cellsAbove_weaken {l : Nat} {m : List Host.Cell} (h : cellsAbove (some l) m = true) : cellsAbove none m = true := by
  cases m with
  | nil => rfl
  | cons p r => obtain ⟨x, b⟩ := p; simp_all [cellsAbove]

/-- A write at an address above the bound keeps the form above the bound. -/
theorem cellsAbove_cellWrite {m : List Host.Cell} {lo : Option Nat} (h : cellsAbove lo m = true) {a : Nat}
    (ha : ∀ l, lo = some l → l < a) (v : Byte) : cellsAbove lo (cellWrite m a v) = true := by
  induction m generalizing lo with
  | nil =>
    simp only [cellWrite]
    split
    · simp [cellsAbove]
    · cases lo <;> simp_all [cellsAbove]
  | cons p r ih =>
    obtain ⟨x, b⟩ := p
    simp only [cellsAbove, Bool.and_eq_true] at h
    obtain ⟨⟨hl, hb⟩, hr⟩ := h
    simp only [cellWrite]
    split <;> rename_i hax
    · split
      · simp_all [cellsAbove]
      · cases lo <;> simp_all [cellsAbove]
    · split <;> rename_i he
      · subst he
        split
        · cases r with
          | nil => rfl
          | cons q t =>
            obtain ⟨y, c⟩ := q
            cases lo with
            | none => simp_all [cellsAbove]
            | some l => simp_all [cellsAbove]; omega
        · cases lo <;> simp_all [cellsAbove]
      · have := ih hr (by intro l hl; cases hl; omega)
        simp only [cellsAbove, hl, hb, this, Bool.and_self]

theorem wf_cellWrite {m : List Host.Cell} (h : Memory.wf m = true) (a : Nat) (v : Byte) : Memory.wf (cellWrite m a v) = true :=
  cellsAbove_cellWrite h (by simp) v

theorem wf_cellsWrite {m : List Host.Cell} (h : Memory.wf m = true) (a : Nat) (bs : List Byte) :
    Memory.wf (cellsWrite m a bs) = true := by
  induction bs generalizing m a with
  | nil => exact h
  | cons b bs ih => exact ih (wf_cellWrite h a b) (a + 1)

/-- A fold of writes keeps the form. -/
theorem wf_foldl {α : Type} (f : List Host.Cell → α → List Host.Cell) (hf : ∀ m x, Memory.wf m = true → Memory.wf (f m x) = true)
    (l : List α) {m : List Host.Cell} (h : Memory.wf m = true) : Memory.wf (l.foldl f m) = true := by
  induction l generalizing m with
  | nil => exact h
  | cons x xs ih => exact ih (hf m x h)

theorem wf_maskedWrite {m : List Host.Cell} (h : Memory.wf m = true) (r : DieReq) : Memory.wf (maskedWrite m r) = true :=
  wf_foldl _ (fun m i h => by split; exact wf_cellWrite h _ _; exact h) _ h

/-- Local memory as D3hot keeps it is in its form (R461). -/
theorem wf_settledMem {s : State} (h : s.memWf) : Memory.wf s.settledMem = true := by
  simp only [State.settledMem]
  refine wf_foldl _ (fun m p h => wf_foldl _ (fun m l h => wf_foldl _ (fun m i h => ?_) _ h) _ h) _
    (wf_foldl _ (fun m k h => wf_foldl _ (fun m r h => wf_maskedWrite h r) _ h) _ h)
  split
  · exact wf_cellWrite h _ _
  · exact h

theorem wf_reset : State.reset.memWf := rfl

end Sys2Proof.Machine
end

