-- ==== Sys2Proof/Laws/PerInstr.lean ====
section
/-! SUPPORT. For every instruction: the row of its major and minor opcode rebuilds it from its header and its bits. -/

namespace Sys2Proof.Laws.Rebuild

open Sys2Proof.Machine

/-- The words of an instruction name its own row, and the row reads the instruction back (R71, R73). -/
def Statement (i : Instr) : Prop :=
  ∀ r, Raw.of i = some r → ∃ row, rowOf r.major r.f = some row ∧ row.build r.h r.x = i

/-- A step of another agent has no words. -/
theorem of_none {i : Instr} (h : Raw.of i = none) : Statement i := by intro r hr; rw [h] at hr; cases hr

/-- From the row and what it builds. -/
theorem of_row {i : Instr} {r : Raw} (row : Row) (h : Raw.of i = some r) (hr : rowOf r.major r.f = some row)
    (hb : row.build r.h r.x = i) : Statement i := by
  intro r' h'; rw [h] at h'; cases h'; exact ⟨row, hr, hb⟩

theorem iaddS32 (h d a b) : Statement (.iaddS32 h d a b) := of_row _ rfl rfl (by simp)
theorem iaddN32 (h d a b) : Statement (.iaddN32 h d a b) := of_row _ rfl rfl (by simp)
theorem isubS32 (h d a b) : Statement (.isubS32 h d a b) := of_row _ rfl rfl (by simp)
theorem isubN32 (h d a b) : Statement (.isubN32 h d a b) := of_row _ rfl rfl (by simp)
theorem iaddc (h d a b) : Statement (.iaddc h d a b) := of_row _ rfl rfl (by simp)
theorem iabs (h d a b) : Statement (.iabs h d a b) := of_row _ rfl rfl (by simp)
theorem iminS32 (h d a b) : Statement (.iminS32 h d a b) := of_row _ rfl rfl (by simp)
theorem iminN32 (h d a b) : Statement (.iminN32 h d a b) := of_row _ rfl rfl (by simp)
theorem imaxS32 (h d a b) : Statement (.imaxS32 h d a b) := of_row _ rfl rfl (by simp)
theorem imaxN32 (h d a b) : Statement (.imaxN32 h d a b) := of_row _ rfl rfl (by simp)
theorem imul (h d a b) : Statement (.imul h d a b) := of_row _ rfl rfl (by simp)
theorem imulhiS32 (h d a b) : Statement (.imulhiS32 h d a b) := of_row _ rfl rfl (by simp)
theorem imulhiN32 (h d a b) : Statement (.imulhiN32 h d a b) := of_row _ rfl rfl (by simp)
theorem imad (h d a b) : Statement (.imad h d a b) := of_row _ rfl rfl (by simp)
theorem imadwS32 (h d a b) : Statement (.imadwS32 h d a b) := of_row _ rfl rfl (by simp)
theorem imadwN32 (h d a b) : Statement (.imadwN32 h d a b) := of_row _ rfl rfl (by simp)
theorem and (h d a b) : Statement (.and h d a b) := of_row _ rfl rfl (by simp)
theorem or (h d a b) : Statement (.or h d a b) := of_row _ rfl rfl (by simp)
theorem xor (h d a b) : Statement (.xor h d a b) := of_row _ rfl rfl (by simp)
theorem lop3 (h d a b) : Statement (.lop3 h d a b) := of_row _ rfl rfl (by simp)
theorem shl (h d a b) : Statement (.shl h d a b) := of_row _ rfl rfl (by simp)
theorem shr (h d a b) : Statement (.shr h d a b) := of_row _ rfl rfl (by simp)
theorem sar (h d a b) : Statement (.sar h d a b) := of_row _ rfl rfl (by simp)
theorem shf (h d a b) : Statement (.shf h d a b) := of_row _ rfl rfl (by simp)
theorem bfxS32 (h d a b) : Statement (.bfxS32 h d a b) := of_row _ rfl rfl (by simp)
theorem bfxN32 (h d a b) : Statement (.bfxN32 h d a b) := of_row _ rfl rfl (by simp)
theorem bfi (h d a b) : Statement (.bfi h d a b) := of_row _ rfl rfl (by simp)
theorem popc (h d a b) : Statement (.popc h d a b) := of_row _ rfl rfl (by simp)
theorem clz (h d a b) : Statement (.clz h d a b) := of_row _ rfl rfl (by simp)
theorem brev (h d a b) : Statement (.brev h d a b) := of_row _ rfl rfl (by simp)
theorem prmt (h d a b) : Statement (.prmt h d a b) := of_row _ rfl rfl (by simp)
theorem sel (h d a b) : Statement (.sel h d a b) := of_row _ rfl rfl (by simp)
theorem mov (h d a b) : Statement (.mov h d a b) := of_row _ rfl rfl (by simp)
theorem lea (h d a b) : Statement (.lea h d a b) := of_row _ rfl rfl (by simp)
theorem add64 (h d a b) : Statement (.add64 h d a b) := of_row _ rfl rfl (by simp)
theorem movi (h d a imm) : Statement (.movi h d a imm) := of_row _ rfl rfl (by simp)
theorem iaddImm (h d a imm) : Statement (.iaddImm h d a imm) := of_row _ rfl rfl (by simp)
theorem imulImm (h d a imm) : Statement (.imulImm h d a imm) := of_row _ rfl rfl (by simp)
theorem andImm (h d a imm) : Statement (.andImm h d a imm) := of_row _ rfl rfl (by simp)
theorem orImm (h d a imm) : Statement (.orImm h d a imm) := of_row _ rfl rfl (by simp)
theorem xorImm (h d a imm) : Statement (.xorImm h d a imm) := of_row _ rfl rfl (by simp)
theorem shlImm (h d a imm) : Statement (.shlImm h d a imm) := of_row _ rfl rfl (by simp)
theorem shrImm (h d a imm) : Statement (.shrImm h d a imm) := of_row _ rfl rfl (by simp)
theorem sarImm (h d a imm) : Statement (.sarImm h d a imm) := of_row _ rfl rfl (by simp)
theorem fadd (h d a b) : Statement (.fadd h d a b) := of_row _ rfl rfl (by simp)
theorem fmul (h d a b) : Statement (.fmul h d a b) := of_row _ rfl rfl (by simp)
theorem ffma (h d a b) : Statement (.ffma h d a b) := of_row _ rfl rfl (by simp)
theorem fmin (h d a b) : Statement (.fmin h d a b) := of_row _ rfl rfl (by simp)
theorem fmax (h d a b) : Statement (.fmax h d a b) := of_row _ rfl rfl (by simp)
theorem frnd (h d a b) : Statement (.frnd h d a b) := of_row _ rfl rfl (by simp)
theorem fclass (h d a b) : Statement (.fclass h d a b) := of_row _ rfl rfl (by simp)
theorem frcp (h d a b) : Statement (.frcp h d a b) := of_row _ rfl rfl (by simp)
theorem frsq (h d a b) : Statement (.frsq h d a b) := of_row _ rfl rfl (by simp)
theorem fsqrt (h d a b) : Statement (.fsqrt h d a b) := of_row _ rfl rfl (by simp)
theorem fexp2 (h d a b) : Statement (.fexp2 h d a b) := of_row _ rfl rfl (by simp)
theorem flog2 (h d a b) : Statement (.flog2 h d a b) := of_row _ rfl rfl (by simp)
theorem fsin (h d a b) : Statement (.fsin h d a b) := of_row _ rfl rfl (by simp)
theorem fcos (h d a b) : Statement (.fcos h d a b) := of_row _ rfl rfl (by simp)
theorem dadd (h d a b) : Statement (.dadd h d a b) := of_row _ rfl rfl (by simp)
theorem dmul (h d a b) : Statement (.dmul h d a b) := of_row _ rfl rfl (by simp)
theorem dfma (h d a b) : Statement (.dfma h d a b) := of_row _ rfl rfl (by simp)
theorem hadd2 (h d a b) : Statement (.hadd2 h d a b) := of_row _ rfl rfl (by simp)
theorem hmul2 (h d a b) : Statement (.hmul2 h d a b) := of_row _ rfl rfl (by simp)
theorem hfma2 (h d a b) : Statement (.hfma2 h d a b) := of_row _ rfl rfl (by simp)
theorem bfma2 (h d a b) : Statement (.bfma2 h d a b) := of_row _ rfl rfl (by simp)
theorem cvt (h d a imm) : Statement (.cvt h d a imm) := of_row _ rfl rfl (by simp)
theorem pack (h d a imm) : Statement (.pack h d a imm) := of_row _ rfl rfl (by simp)
theorem unpk (h d a imm) : Statement (.unpk h d a imm) := of_row _ rfl rfl (by simp)
theorem dp4E4m3 (h d a b) : Statement (.dp4E4m3 h d a b) := of_row _ rfl rfl (by simp)
theorem dp4E5m2 (h d a b) : Statement (.dp4E5m2 h d a b) := of_row _ rfl rfl (by simp)
theorem dp4E3m2 (h d a b) : Statement (.dp4E3m2 h d a b) := of_row _ rfl rfl (by simp)
theorem dp4E2m3 (h d a b) : Statement (.dp4E2m3 h d a b) := of_row _ rfl rfl (by simp)
theorem dp4S8 (h d a b) : Statement (.dp4S8 h d a b) := of_row _ rfl rfl (by simp)
theorem dp4N8 (h d a b) : Statement (.dp4N8 h d a b) := of_row _ rfl rfl (by simp)
theorem dp4S8n8 (h d a b) : Statement (.dp4S8n8 h d a b) := of_row _ rfl rfl (by simp)
theorem dp8E2m1 (h d a b) : Statement (.dp8E2m1 h d a b) := of_row _ rfl rfl (by simp)
theorem dp8S4 (h d a b) : Statement (.dp8S4 h d a b) := of_row _ rfl rfl (by simp)
theorem dp8N4 (h d a b) : Statement (.dp8N4 h d a b) := of_row _ rfl rfl (by simp)
theorem dp8S4n4 (h d a b) : Statement (.dp8S4n4 h d a b) := of_row _ rfl rfl (by simp)
theorem fsclF32 (h d a b) : Statement (.fsclF32 h d a b) := of_row _ rfl rfl (by simp)
theorem fsclF64 (h d a b) : Statement (.fsclF64 h d a b) := of_row _ rfl rfl (by simp)
theorem icmpEq (h d a b) : Statement (.icmpEq h d a b) := of_row _ rfl rfl (by simp)
theorem icmpNe (h d a b) : Statement (.icmpNe h d a b) := of_row _ rfl rfl (by simp)
theorem icmpLtS32 (h d a b) : Statement (.icmpLtS32 h d a b) := of_row _ rfl rfl (by simp)
theorem icmpLeS32 (h d a b) : Statement (.icmpLeS32 h d a b) := of_row _ rfl rfl (by simp)
theorem icmpLtN32 (h d a b) : Statement (.icmpLtN32 h d a b) := of_row _ rfl rfl (by simp)
theorem icmpLeN32 (h d a b) : Statement (.icmpLeN32 h d a b) := of_row _ rfl rfl (by simp)
theorem fcmpEq (h d a b) : Statement (.fcmpEq h d a b) := of_row _ rfl rfl (by simp)
theorem fcmpNe (h d a b) : Statement (.fcmpNe h d a b) := of_row _ rfl rfl (by simp)
theorem fcmpLt (h d a b) : Statement (.fcmpLt h d a b) := of_row _ rfl rfl (by simp)
theorem fcmpLe (h d a b) : Statement (.fcmpLe h d a b) := of_row _ rfl rfl (by simp)
theorem fcmpUn (h d a b) : Statement (.fcmpUn h d a b) := of_row _ rfl rfl (by simp)
theorem fcmpNeu (h d a b) : Statement (.fcmpNeu h d a b) := of_row _ rfl rfl (by simp)
theorem fcmpLtu (h d a b) : Statement (.fcmpLtu h d a b) := of_row _ rfl rfl (by simp)
theorem fcmpLeu (h d a b) : Statement (.fcmpLeu h d a b) := of_row _ rfl rfl (by simp)
theorem fcmpEqF64 (h d a b) : Statement (.fcmpEqF64 h d a b) := of_row _ rfl rfl (by simp)
theorem fcmpNeF64 (h d a b) : Statement (.fcmpNeF64 h d a b) := of_row _ rfl rfl (by simp)
theorem fcmpLtF64 (h d a b) : Statement (.fcmpLtF64 h d a b) := of_row _ rfl rfl (by simp)
theorem fcmpLeF64 (h d a b) : Statement (.fcmpLeF64 h d a b) := of_row _ rfl rfl (by simp)
theorem fcmpUnF64 (h d a b) : Statement (.fcmpUnF64 h d a b) := of_row _ rfl rfl (by simp)
theorem fcmpNeuF64 (h d a b) : Statement (.fcmpNeuF64 h d a b) := of_row _ rfl rfl (by simp)
theorem fcmpLtuF64 (h d a b) : Statement (.fcmpLtuF64 h d a b) := of_row _ rfl rfl (by simp)
theorem fcmpLeuF64 (h d a b) : Statement (.fcmpLeuF64 h d a b) := of_row _ rfl rfl (by simp)
theorem plop (h d a b) : Statement (.plop h d a b) := of_row _ rfl rfl (by simp)
theorem pmov (h d a b) : Statement (.pmov h d a b) := of_row _ rfl rfl (by simp)
theorem bra (h disp) : Statement (.bra h disp) := of_row _ rfl rfl (by simp)
theorem call (h disp) : Statement (.call h disp) := of_row _ rfl rfl (by simp)
theorem brx (h d a b) : Statement (.brx h d a b) := of_row _ rfl rfl (by simp)
theorem callx (h d a b) : Statement (.callx h d a b) := of_row _ rfl rfl (by simp)
theorem ret (h d a b) : Statement (.ret h d a b) := of_row _ rfl rfl (by simp)
theorem exit (h d a b) : Statement (.exit h d a b) := of_row _ rfl rfl (by simp)
theorem nop (h d a b) : Statement (.nop h d a b) := of_row _ rfl rfl (by simp)
theorem rjenr (h d a b) : Statement (.rjenr h d a b) := of_row _ rfl rfl (by simp)
theorem rjpark (h d a b) : Statement (.rjpark h d a b) := of_row _ rfl rfl (by simp)
theorem rjstrk (h d a b) : Statement (.rjstrk h d a b) := of_row _ rfl rfl (by simp)
theorem rjrd (h d a b) : Statement (.rjrd h d a b) := of_row _ rfl rfl (by simp)
theorem wmask (h d a b) : Statement (.wmask h d a b) := of_row _ rfl rfl (by simp)
theorem shflPick (h d a b) : Statement (.shflPick h d a b) := of_row _ rfl rfl (by simp)
theorem shflLag (h d a b) : Statement (.shflLag h d a b) := of_row _ rfl rfl (by simp)
theorem shflLead (h d a b) : Statement (.shflLead h d a b) := of_row _ rfl rfl (by simp)
theorem shflMirr (h d a b) : Statement (.shflMirr h d a b) := of_row _ rfl rfl (by simp)
theorem voteEvery (h d a b) : Statement (.voteEvery h d a b) := of_row _ rfl rfl (by simp)
theorem voteSome (h d a b) : Statement (.voteSome h d a b) := of_row _ rfl rfl (by simp)
theorem voteSame (h d a b) : Statement (.voteSame h d a b) := of_row _ rfl rfl (by simp)
theorem ballot (h d a b) : Statement (.ballot h d a b) := of_row _ rfl rfl (by simp)
theorem reduxSum (h d a b) : Statement (.reduxSum h d a b) := of_row _ rfl rfl (by simp)
theorem reduxLeastS32 (h d a b) : Statement (.reduxLeastS32 h d a b) := of_row _ rfl rfl (by simp)
theorem reduxLeastN32 (h d a b) : Statement (.reduxLeastN32 h d a b) := of_row _ rfl rfl (by simp)
theorem reduxMostS32 (h d a b) : Statement (.reduxMostS32 h d a b) := of_row _ rfl rfl (by simp)
theorem reduxMostN32 (h d a b) : Statement (.reduxMostN32 h d a b) := of_row _ rfl rfl (by simp)
theorem reduxBand (h d a b) : Statement (.reduxBand h d a b) := of_row _ rfl rfl (by simp)
theorem reduxBor (h d a b) : Statement (.reduxBor h d a b) := of_row _ rfl rfl (by simp)
theorem reduxBxor (h d a b) : Statement (.reduxBxor h d a b) := of_row _ rfl rfl (by simp)
theorem matchPeers (h d a b) : Statement (.matchPeers h d a b) := of_row _ rfl rfl (by simp)
theorem matchUnif (h d a b) : Statement (.matchUnif h d a b) := of_row _ rfl rfl (by simp)
theorem xsw (h d a b) : Statement (.xsw h d a b) := of_row _ rfl rfl (by simp)
theorem bar (h d a b) : Statement (.bar h d a b) := of_row _ rfl rfl (by simp)
theorem bara (h d a b) : Statement (.bara h d a b) := of_row _ rfl rfl (by simp)
theorem barw (h d a b) : Statement (.barw h d a b) := of_row _ rfl rfl (by simp)
theorem yield (h d a b) : Statement (.yield h d a b) := of_row _ rfl rfl (by simp)
theorem lnch (h d a b) : Statement (.lnch h d a b) := of_row _ rfl rfl (by simp)
theorem rdsr (h d a imm) : Statement (.rdsr h d a imm) := of_row _ rfl rfl (by simp)
theorem wrsr (h d a imm) : Statement (.wrsr h d a imm) := of_row _ rfl rfl (by simp)
theorem ldN8 (h d a b) : Statement (.ldN8 h d a b) := of_row _ rfl rfl (by simp)
theorem ldS8 (h d a b) : Statement (.ldS8 h d a b) := of_row _ rfl rfl (by simp)
theorem ldN16 (h d a b) : Statement (.ldN16 h d a b) := of_row _ rfl rfl (by simp)
theorem ldS16 (h d a b) : Statement (.ldS16 h d a b) := of_row _ rfl rfl (by simp)
theorem ldB32 (h d a b) : Statement (.ldB32 h d a b) := of_row _ rfl rfl (by simp)
theorem ldB64 (h d a b) : Statement (.ldB64 h d a b) := of_row _ rfl rfl (by simp)
theorem ldB128 (h d a b) : Statement (.ldB128 h d a b) := of_row _ rfl rfl (by simp)
theorem stB8 (h d a b) : Statement (.stB8 h d a b) := of_row _ rfl rfl (by simp)
theorem stB16 (h d a b) : Statement (.stB16 h d a b) := of_row _ rfl rfl (by simp)
theorem stB32 (h d a b) : Statement (.stB32 h d a b) := of_row _ rfl rfl (by simp)
theorem stB64 (h d a b) : Statement (.stB64 h d a b) := of_row _ rfl rfl (by simp)
theorem stB128 (h d a b) : Statement (.stB128 h d a b) := of_row _ rfl rfl (by simp)
theorem atomAddB32 (h d a b) : Statement (.atomAddB32 h d a b) := of_row _ rfl rfl (by simp)
theorem atomMinS32 (h d a b) : Statement (.atomMinS32 h d a b) := of_row _ rfl rfl (by simp)
theorem atomMinN32 (h d a b) : Statement (.atomMinN32 h d a b) := of_row _ rfl rfl (by simp)
theorem atomMaxS32 (h d a b) : Statement (.atomMaxS32 h d a b) := of_row _ rfl rfl (by simp)
theorem atomMaxN32 (h d a b) : Statement (.atomMaxN32 h d a b) := of_row _ rfl rfl (by simp)
theorem atomAndB32 (h d a b) : Statement (.atomAndB32 h d a b) := of_row _ rfl rfl (by simp)
theorem atomOrB32 (h d a b) : Statement (.atomOrB32 h d a b) := of_row _ rfl rfl (by simp)
theorem atomXorB32 (h d a b) : Statement (.atomXorB32 h d a b) := of_row _ rfl rfl (by simp)
theorem atomExchB32 (h d a b) : Statement (.atomExchB32 h d a b) := of_row _ rfl rfl (by simp)
theorem atomCasB32 (h d a b) : Statement (.atomCasB32 h d a b) := of_row _ rfl rfl (by simp)
theorem atomAddF32 (h d a b) : Statement (.atomAddF32 h d a b) := of_row _ rfl rfl (by simp)
theorem atomExchB64 (h d a b) : Statement (.atomExchB64 h d a b) := of_row _ rfl rfl (by simp)
theorem atomCasB64 (h d a b) : Statement (.atomCasB64 h d a b) := of_row _ rfl rfl (by simp)
theorem atomAddB64 (h d a b) : Statement (.atomAddB64 h d a b) := of_row _ rfl rfl (by simp)
theorem atomCasB128 (h d a b) : Statement (.atomCasB128 h d a b) := of_row _ rfl rfl (by simp)
theorem atomAddF64 (h d a b) : Statement (.atomAddF64 h d a b) := of_row _ rfl rfl (by simp)
theorem redAddB32 (h d a b) : Statement (.redAddB32 h d a b) := of_row _ rfl rfl (by simp)
theorem redMinS32 (h d a b) : Statement (.redMinS32 h d a b) := of_row _ rfl rfl (by simp)
theorem redMinN32 (h d a b) : Statement (.redMinN32 h d a b) := of_row _ rfl rfl (by simp)
theorem redMaxS32 (h d a b) : Statement (.redMaxS32 h d a b) := of_row _ rfl rfl (by simp)
theorem redMaxN32 (h d a b) : Statement (.redMaxN32 h d a b) := of_row _ rfl rfl (by simp)
theorem redAddF32 (h d a b) : Statement (.redAddF32 h d a b) := of_row _ rfl rfl (by simp)
theorem redAddB64 (h d a b) : Statement (.redAddB64 h d a b) := of_row _ rfl rfl (by simp)
theorem redAddF64 (h d a b) : Statement (.redAddF64 h d a b) := of_row _ rfl rfl (by simp)
theorem redAndB32 (h d a b) : Statement (.redAndB32 h d a b) := of_row _ rfl rfl (by simp)
theorem redOrB32 (h d a b) : Statement (.redOrB32 h d a b) := of_row _ rfl rfl (by simp)
theorem redXorB32 (h d a b) : Statement (.redXorB32 h d a b) := of_row _ rfl rfl (by simp)
theorem fence (h d a b) : Statement (.fence h d a b) := of_row _ rfl rfl (by simp)
theorem cinv (h d a b) : Statement (.cinv h d a b) := of_row _ rfl rfl (by simp)
theorem cwb (h d a b) : Statement (.cwb h d a b) := of_row _ rfl rfl (by simp)
theorem pref (h d a b) : Statement (.pref h d a b) := of_row _ rfl rfl (by simp)
theorem probe (h d a b) : Statement (.probe h d a b) := of_row _ rfl rfl (by simp)
theorem unpin (h d a b) : Statement (.unpin h d a b) := of_row _ rfl rfl (by simp)
theorem cpy (h d a b) : Statement (.cpy h d a b) := of_row _ rfl rfl (by simp)
theorem fenceXp (h d a b) : Statement (.fenceXp h d a b) := of_row _ rfl rfl (by simp)
theorem ldDir (h d a b) : Statement (.ldDir h d a b) := of_row _ rfl rfl (by simp)
theorem stDir (h d a b) : Statement (.stDir h d a b) := of_row _ rfl rfl (by simp)
theorem mxacq (h d a b) : Statement (.mxacq h d a b) := of_row _ rfl rfl (by simp)
theorem mxrel (h d a b) : Statement (.mxrel h d a b) := of_row _ rfl rfl (by simp)
theorem mxown (h d a b) : Statement (.mxown h d a b) := of_row _ rfl rfl (by simp)
theorem mxq (h d a b) : Statement (.mxq h d a b) := of_row _ rfl rfl (by simp)
theorem mxwait (h d a b) : Statement (.mxwait h d a b) := of_row _ rfl rfl (by simp)
theorem mxrd (h d a b) : Statement (.mxrd h d a b) := of_row _ rfl rfl (by simp)
theorem mxwr (h d a b) : Statement (.mxwr h d a b) := of_row _ rfl rfl (by simp)
theorem mxzero (h d a b) : Statement (.mxzero h d a b) := of_row _ rfl rfl (by simp)
theorem mxstat (h d a b) : Statement (.mxstat h d a b) := of_row _ rfl rfl (by simp)
theorem qdopen (h d a b) : Statement (.qdopen h d a b) := of_row _ rfl rfl (by simp)
theorem qdnext (h d a b) : Statement (.qdnext h d a b) := of_row _ rfl rfl (by simp)
theorem qdsplit (h d a b) : Statement (.qdsplit h d a b) := of_row _ rfl rfl (by simp)
theorem qdsave (h d a b) : Statement (.qdsave h d a b) := of_row _ rfl rfl (by simp)
theorem qdload (h d a b) : Statement (.qdload h d a b) := of_row _ rfl rfl (by simp)
theorem qdclose (h d a b) : Statement (.qdclose h d a b) := of_row _ rfl rfl (by simp)
theorem qdstat (h d a b) : Statement (.qdstat h d a b) := of_row _ rfl rfl (by simp)
theorem qdprobe (h d a b) : Statement (.qdprobe h d a b) := of_row _ rfl rfl (by simp)
theorem qyinit (h d a b) : Statement (.qyinit h d a b) := of_row _ rfl rfl (by simp)
theorem qypush (h d a b) : Statement (.qypush h d a b) := of_row _ rfl rfl (by simp)
theorem qypop (h d a b) : Statement (.qypop h d a b) := of_row _ rfl rfl (by simp)
theorem qydone (h d a b) : Statement (.qydone h d a b) := of_row _ rfl rfl (by simp)
theorem qyfloor (h d a b) : Statement (.qyfloor h d a b) := of_row _ rfl rfl (by simp)
theorem qyquiet (h d a b) : Statement (.qyquiet h d a b) := of_row _ rfl rfl (by simp)
theorem qyyield (h d a b) : Statement (.qyyield h d a b) := of_row _ rfl rfl (by simp)
theorem qystat (h d a b) : Statement (.qystat h d a b) := of_row _ rfl rfl (by simp)
theorem trap (h d a b) : Statement (.trap h d a b) := of_row _ rfl rfl (by simp)
theorem rett (h d a b) : Statement (.rett h d a b) := of_row _ rfl rfl (by simp)
theorem region (h d a b) : Statement (.region h d a b) := of_row _ rfl rfl (by simp)
theorem brk (h d a b) : Statement (.brk h d a b) := of_row _ rfl rfl (by simp)
theorem rdtr (h d a b) : Statement (.rdtr h d a b) := of_row _ rfl rfl (by simp)
theorem vrdx (h d a b) : Statement (.vrdx h d a b) := of_row _ rfl rfl (by simp)
theorem vwrx (h d a b) : Statement (.vwrx h d a b) := of_row _ rfl rfl (by simp)
theorem patch (h n tool) : Statement (.patch h n tool) := of_row _ rfl rfl (by simp)
theorem trmp (h disp) : Statement (.trmp h disp) := of_row _ rfl rfl (by simp)
theorem memoryReply (w id) : Statement (.memoryReply w id) := of_none rfl
theorem switchMarkerRelease (w) : Statement (.switchMarkerRelease w) := of_none rfl
theorem grantCountRotation (w) : Statement (.grantCountRotation w) := of_none rfl
theorem allocationRelease (lane) : Statement (.allocationRelease lane) := of_none rfl
theorem laneSpill (lane) : Statement (.laneSpill lane) := of_none rfl
theorem spillRestore (w) : Statement (.spillRestore w) := of_none rfl
theorem warpEnd (w) : Statement (.warpEnd w) := of_none rfl
theorem barrierPhaseComplete (w scope id) : Statement (.barrierPhaseComplete w scope id) := of_none rfl
theorem xswPairComplete (w w2) : Statement (.xswPairComplete w w2) := of_none rfl
theorem lnchRecordRead (w) : Statement (.lnchRecordRead w) := of_none rfl
theorem timerTrap (w slot) : Statement (.timerTrap w slot) := of_none rfl
theorem trapEntry (w slot) : Statement (.trapEntry w slot) := of_none rfl
theorem translationWalk (w id) : Statement (.translationWalk w id) := of_none rfl
theorem walkFault (w slot) : Statement (.walkFault w slot) := of_none rfl
theorem faultRecordWrite : Statement (.faultRecordWrite) := of_none rfl
theorem regionBoundary (w slot) : Statement (.regionBoundary w slot) := of_none rfl
theorem storeEntryPerform (w) : Statement (.storeEntryPerform w) := of_none rfl
theorem coalesceRequestSend (lane) : Statement (.coalesceRequestSend lane) := of_none rfl
theorem l1Fill (core) : Statement (.l1Fill core) := of_none rfl
theorem homeSliceServe (slice idx) : Statement (.homeSliceServe slice idx) := of_none rfl
theorem l2MemoryReply (slice) : Statement (.l2MemoryReply slice) := of_none rfl
theorem baseDieService (stack) : Statement (.baseDieService stack) := of_none rfl
theorem directPacketSend (w) : Statement (.directPacketSend w) := of_none rfl
theorem directReply (w) : Statement (.directReply w) := of_none rfl
theorem fenceComplete (w) : Statement (.fenceComplete w) := of_none rfl
theorem cacheMaintComplete (w) : Statement (.cacheMaintComplete w) := of_none rfl
theorem fenceXpComplete (w) : Statement (.fenceXpComplete w) := of_none rfl
theorem copyLineOperation (core ent) : Statement (.copyLineOperation core ent) := of_none rfl
theorem copyTranslationFault (core ent) : Statement (.copyTranslationFault core ent) := of_none rfl
theorem copyRetire (core ent) : Statement (.copyRetire core ent) := of_none rfl
theorem mxPassSelect (cl) : Statement (.mxPassSelect cl) := of_none rfl
theorem mxStep (cl) : Statement (.mxStep cl) := of_none rfl
theorem mxPassComplete (cl) : Statement (.mxPassComplete cl) := of_none rfl
theorem mxzeroRun (cl) : Statement (.mxzeroRun cl) := of_none rfl
theorem mxacqBind (w slot) : Statement (.mxacqBind w slot) := of_none rfl
theorem mxrelReturn (w slot) : Statement (.mxrelReturn w slot) := of_none rfl
theorem mxownFlip (w slot) : Statement (.mxownFlip w slot) := of_none rfl
theorem mxwaitReport (w slot) : Statement (.mxwaitReport w slot) := of_none rfl
theorem mxRowAccess (w slot) : Statement (.mxRowAccess w slot) := of_none rfl
theorem tokenArrive (die tok) : Statement (.tokenArrive die tok) := of_none rfl
theorem tokenIdleMove (die tok) : Statement (.tokenIdleMove die tok) := of_none rfl
theorem burstEnd (cl) : Statement (.burstEnd cl) := of_none rfl
theorem qdCommandServe (cl idx) : Statement (.qdCommandServe cl idx) := of_none rfl
theorem qdStreamFault (cl idx) : Statement (.qdStreamFault cl idx) := of_none rfl
theorem pushComplete (w) : Statement (.pushComplete w) := of_none rfl
theorem spoilRefill (cl) : Statement (.spoilRefill cl) := of_none rfl
theorem popServe (w id) : Statement (.popServe w id) := of_none rfl
theorem steal (w id victim) : Statement (.steal w id victim) := of_none rfl
theorem floorWave (ctx n) : Statement (.floorWave ctx n) := of_none rfl
theorem terminationPass (ctx n) : Statement (.terminationPass ctx n) := of_none rfl
theorem quietWaitRelease (w slot) : Statement (.quietWaitRelease w slot) := of_none rfl
theorem headRecordRead (q) : Statement (.headRecordRead q) := of_none rfl
theorem waitSignalRead (q) : Statement (.waitSignalRead q) := of_none rfl
theorem placementDecision : Statement (.placementDecision) := of_none rfl
theorem launchComplete (lnch) : Statement (.launchComplete lnch) := of_none rfl
theorem queueTailWrite (q v) : Statement (.queueTailWrite q v) := of_none rfl
theorem queueEnable (q) : Statement (.queueEnable q) := of_none rfl
theorem queueDisable (q) : Statement (.queueDisable q) := of_none rfl
theorem queueErrorClear (q bits) : Statement (.queueErrorClear q bits) := of_none rfl
theorem stop (ch) : Statement (.stop ch) := of_none rfl
theorem drain (ch) : Statement (.drain ch) := of_none rfl
theorem resume (ch) : Statement (.resume ch) := of_none rfl
theorem fresetClear (ch) : Statement (.fresetClear ch) := of_none rfl
theorem graceExpiry (ch) : Statement (.graceExpiry ch) := of_none rfl
theorem deadlineExpiry (ch) : Statement (.deadlineExpiry ch) := of_none rfl
theorem stopCopyEngine (ch gang) : Statement (.stopCopyEngine ch gang) := of_none rfl
theorem stopCoordinateEngine (ch gang) : Statement (.stopCoordinateEngine ch gang) := of_none rfl
theorem stopWarps (ch gang) : Statement (.stopWarps ch gang) := of_none rfl
theorem stopMatrixEngine (ch gang) : Statement (.stopMatrixEngine ch gang) := of_none rfl
theorem stopFlushSave (ch gang) : Statement (.stopFlushSave ch gang) := of_none rfl
theorem gangRestore (ch) : Statement (.gangRestore ch) := of_none rfl
theorem faultAnswerResume (seq) : Statement (.faultAnswerResume seq) := of_none rfl
theorem faultAnswerFatal (seq) : Statement (.faultAnswerFatal seq) := of_none rfl
theorem faultRingEnable : Statement (.faultRingEnable) := of_none rfl
theorem faultRingDisable : Statement (.faultRingDisable) := of_none rfl
theorem faultRingErrorClear (bits) : Statement (.faultRingErrorClear bits) := of_none rfl
theorem invalidateGo : Statement (.invalidateGo) := of_none rfl
theorem invalidateDone : Statement (.invalidateDone) := of_none rfl
theorem invalidateErrorClear : Statement (.invalidateErrorClear) := of_none rfl
theorem bar2Read (off n) : Statement (.bar2Read off n) := of_none rfl
theorem bar2Write (off bytes) : Statement (.bar2Write off bytes) := of_none rfl
theorem winerrClear : Statement (.winerrClear) := of_none rfl
theorem registerWrite (off size v) : Statement (.registerWrite off size v) := of_none rfl
theorem heldWriteTake : Statement (.heldWriteTake) := of_none rfl
theorem flitRoute (idx) : Statement (.flitRoute idx) := of_none rfl
theorem linkPowerDown (l) : Statement (.linkPowerDown l) := of_none rfl
theorem linkOff (l) : Statement (.linkOff l) := of_none rfl
theorem linkWake (l) : Statement (.linkWake l) := of_none rfl
theorem linkActive (l) : Statement (.linkActive l) := of_none rfl
theorem virvisPortUpChange (k up far) : Statement (.virvisPortUpChange k up far) := of_none rfl
theorem pdupClear (k) : Statement (.pdupClear k) := of_none rfl
theorem peerRequest (src op addr bytes) : Statement (.peerRequest src op addr bytes) := of_none rfl
theorem pcieCompletion (tag status) : Statement (.pcieCompletion tag status) := of_none rfl
theorem pcieCompletionTimeout (tag) : Statement (.pcieCompletionTimeout tag) := of_none rfl
theorem deviceReset (cause) : Statement (.deviceReset cause) := of_none rfl
theorem bootVerify : Statement (.bootVerify) := of_none rfl
theorem selfTestPass (fn) : Statement (.selfTestPass fn) := of_none rfl
theorem selfTestFail (fn) : Statement (.selfTestFail fn) := of_none rfl
theorem firmwareVerify : Statement (.firmwareVerify) := of_none rfl
theorem firmwareVerifyDone : Statement (.firmwareVerifyDone) := of_none rfl
theorem getVersion : Statement (.getVersion) := of_none rfl
theorem getCapabilities : Statement (.getCapabilities) := of_none rfl
theorem negotiateAlgorithms : Statement (.negotiateAlgorithms) := of_none rfl
theorem getMeasurements (idx) : Statement (.getMeasurements idx) := of_none rfl
theorem spdmUnsupported (code) : Statement (.spdmUnsupported code) := of_none rfl
theorem eccCorrected (hbm unit addr) : Statement (.eccCorrected hbm unit addr) := of_none rfl
theorem eccUncorrectable (hbm unit addr ctx) : Statement (.eccUncorrectable hbm unit addr ctx) := of_none rfl
theorem hbmScrub (stack) : Statement (.hbmScrub stack) := of_none rfl
theorem eccCounterWrite (hbm unit which v) : Statement (.eccCounterWrite hbm unit which v) := of_none rfl
theorem powerLimitWrite (v) : Statement (.powerLimitWrite v) := of_none rfl
theorem throttleSet (die temp) : Statement (.throttleSet die temp) := of_none rfl
theorem throttleClear (die temp) : Statement (.throttleClear die temp) := of_none rfl
theorem thermalShutdown (die temp) : Statement (.thermalShutdown die temp) := of_none rfl
theorem d3hotEnter : Statement (.d3hotEnter) := of_none rfl
theorem d3hotExit : Statement (.d3hotExit) := of_none rfl
theorem powerRemoval : Statement (.powerRemoval) := of_none rfl
theorem illegalInstruction (fpc word) : Statement (.illegalInstruction fpc word) := of_none rfl
theorem msixVectorUnmask (v) : Statement (.msixVectorUnmask v) := of_none rfl
theorem linkedContextEnd (lgid) : Statement (.linkedContextEnd lgid) := of_none rfl

end Sys2Proof.Laws.Rebuild
end

