-- ==== Sys2Proof/Laws/State.lean ====
section
/-! SUPPORT. What the updates of the state and of a warp leave, one lemma for each field; keyed lists; what an update of a
keyed part gives where it is read. -/

namespace Sys2Proof.Machine

/-! Keyed lists. -/

@[simp] theorem look_put_self {β : Type} (k : Nat) (v : β) (l : List (Nat × β)) : look k (put k v l) = some v := by
  induction l with
  | nil => simp [put, look]
  | cons p r ih =>
    obtain ⟨a, b⟩ := p
    simp only [put]
    split <;> [skip; split] <;> simp_all [look]

theorem look_put_ne {β : Type} {j k : Nat} (h : j ≠ k) (v : β) (l : List (Nat × β)) : look j (put k v l) = look j l := by
  induction l with
  | nil => simp [put, look, h.symm]
  | cons p r ih =>
    obtain ⟨a, b⟩ := p
    simp only [put]
    split <;> [skip; split]
    · simp [look, h.symm]
    · next e => subst e; simp [look, h.symm]
    · simp only [look, ih]

@[simp] theorem put_put {β : Type} (k : Nat) (v u : β) (l : List (Nat × β)) : put k v (put k u l) = put k v l := by
  induction l with
  | nil => simp [put]
  | cons p r ih =>
    obtain ⟨a, b⟩ := p
    simp only [put]
    split <;> [skip; split] <;> simp_all [put]

/-! Parts of the package. -/

@[simp] theorem setCore_core (s : State) (k : Nat) (x : Core) : (s.setCore k x).core k = x := by simp [State.core, State.setCore]
theorem setCore_core_ne (s : State) {j k : Nat} (h : j ≠ k) (x : Core) : (s.setCore k x).core j = s.core j := by
  simp [State.core, State.setCore, look_put_ne h]
@[simp] theorem setCore_setCore (s : State) (k : Nat) (x y : Core) : (s.setCore k x).setCore k y = s.setCore k y := by simp [State.setCore]
@[simp] theorem setCluster_cluster (s : State) (k : Nat) (x : Cluster) : (s.setCluster k x).cluster k = x := by simp [State.cluster, State.setCluster]
theorem setCluster_cluster_ne (s : State) {j k : Nat} (h : j ≠ k) (x : Cluster) : (s.setCluster k x).cluster j = s.cluster j := by
  simp [State.cluster, State.setCluster, look_put_ne h]
@[simp] theorem setCluster_setCluster (s : State) (k : Nat) (x y : Cluster) : (s.setCluster k x).setCluster k y = s.setCluster k y := by simp [State.setCluster]
@[simp] theorem setDie_die (s : State) (k : Nat) (x : Die) : (s.setDie k x).die k = x := by simp [State.die, State.setDie]
theorem setDie_die_ne (s : State) {j k : Nat} (h : j ≠ k) (x : Die) : (s.setDie k x).die j = s.die j := by
  simp [State.die, State.setDie, look_put_ne h]
@[simp] theorem setDie_setDie (s : State) (k : Nat) (x y : Die) : (s.setDie k x).setDie k y = s.setDie k y := by simp [State.setDie]
@[simp] theorem setSlice_slice (s : State) (k : Nat) (x : Slice) : (s.setSlice k x).slice k = x := by simp [State.slice, State.setSlice]
theorem setSlice_slice_ne (s : State) {j k : Nat} (h : j ≠ k) (x : Slice) : (s.setSlice k x).slice j = s.slice j := by
  simp [State.slice, State.setSlice, look_put_ne h]
@[simp] theorem setSlice_setSlice (s : State) (k : Nat) (x y : Slice) : (s.setSlice k x).setSlice k y = s.setSlice k y := by simp [State.setSlice]
@[simp] theorem setStack_stack (s : State) (k : Nat) (x : Stack) : (s.setStack k x).stack k = x := by simp [State.stack, State.setStack]
theorem setStack_stack_ne (s : State) {j k : Nat} (h : j ≠ k) (x : Stack) : (s.setStack k x).stack j = s.stack j := by
  simp [State.stack, State.setStack, look_put_ne h]
@[simp] theorem setStack_setStack (s : State) (k : Nat) (x y : Stack) : (s.setStack k x).setStack k y = s.setStack k y := by simp [State.setStack]

/-! Updates of the state. -/

@[simp] theorem setWarp_cores (s : State) (x : Warp) : (s.setWarp x).cores = s.cores := rfl
@[simp] theorem setWarp_clusters (s : State) (x : Warp) : (s.setWarp x).clusters = s.clusters := rfl
@[simp] theorem setWarp_dies (s : State) (x : Warp) : (s.setWarp x).dies = s.dies := rfl
@[simp] theorem setWarp_slices (s : State) (x : Warp) : (s.setWarp x).slices = s.slices := rfl
@[simp] theorem setWarp_hbm (s : State) (x : Warp) : (s.setWarp x).hbm = s.hbm := rfl
@[simp] theorem setWarp_mesh (s : State) (x : Warp) : (s.setWarp x).mesh = s.mesh := rfl
@[simp] theorem setWarp_links (s : State) (x : Warp) : (s.setWarp x).links = s.links := rfl
@[simp] theorem setWarp_mem (s : State) (x : Warp) : (s.setWarp x).mem = s.mem := rfl
@[simp] theorem setWarp_disp (s : State) (x : Warp) : (s.setWarp x).disp = s.disp := rfl
@[simp] theorem setWarp_chans (s : State) (x : Warp) : (s.setWarp x).chans = s.chans := rfl
@[simp] theorem setWarp_quarries (s : State) (x : Warp) : (s.setWarp x).quarries = s.quarries := rfl
@[simp] theorem setWarp_ctxs (s : State) (x : Warp) : (s.setWarp x).ctxs = s.ctxs := rfl
@[simp] theorem setWarp_regs (s : State) (x : Warp) : (s.setWarp x).regs = s.regs := rfl
@[simp] theorem setWarp_env (s : State) (x : Warp) : (s.setWarp x).env = s.env := rfl
@[simp] theorem setWarp_out (s : State) (x : Warp) : (s.setWarp x).out = s.out := rfl
@[simp] theorem setWarp_issue (s : State) (x : Warp) : (s.setWarp x).issue = s.issue := rfl
@[simp] theorem setWarp_paused (s : State) (x : Warp) : (s.setWarp x).paused = s.paused := rfl
@[simp] theorem setWarp_agenda (s : State) (x : Warp) : (s.setWarp x).agenda = s.agenda := rfl
@[simp] theorem setWarp_pace (s : State) (x : Warp) : (s.setWarp x).pace = s.pace := rfl
@[simp] theorem setWarp_now (s : State) (x : Warp) : (s.setWarp x).now = s.now := rfl
@[simp] theorem setWarp_nextId (s : State) (x : Warp) : (s.setWarp x).nextId = s.nextId := rfl
@[simp] theorem setWarp_free (s : State) (x : Warp) : (s.setWarp x).free = s.free := rfl
@[simp] theorem setWarp_bad (s : State) (x : Warp) : (s.setWarp x).bad = s.bad := rfl
@[simp] theorem setWarp_unready (s : State) (x : Warp) : (s.setWarp x).unready = s.unready := rfl

@[simp] theorem modWarp_cores (s : State) (u : Nat) (f : Warp → Warp) : (s.modWarp u f).cores = s.cores := rfl
@[simp] theorem modWarp_clusters (s : State) (u : Nat) (f : Warp → Warp) : (s.modWarp u f).clusters = s.clusters := rfl
@[simp] theorem modWarp_dies (s : State) (u : Nat) (f : Warp → Warp) : (s.modWarp u f).dies = s.dies := rfl
@[simp] theorem modWarp_slices (s : State) (u : Nat) (f : Warp → Warp) : (s.modWarp u f).slices = s.slices := rfl
@[simp] theorem modWarp_hbm (s : State) (u : Nat) (f : Warp → Warp) : (s.modWarp u f).hbm = s.hbm := rfl
@[simp] theorem modWarp_mesh (s : State) (u : Nat) (f : Warp → Warp) : (s.modWarp u f).mesh = s.mesh := rfl
@[simp] theorem modWarp_links (s : State) (u : Nat) (f : Warp → Warp) : (s.modWarp u f).links = s.links := rfl
@[simp] theorem modWarp_mem (s : State) (u : Nat) (f : Warp → Warp) : (s.modWarp u f).mem = s.mem := rfl
@[simp] theorem modWarp_disp (s : State) (u : Nat) (f : Warp → Warp) : (s.modWarp u f).disp = s.disp := rfl
@[simp] theorem modWarp_chans (s : State) (u : Nat) (f : Warp → Warp) : (s.modWarp u f).chans = s.chans := rfl
@[simp] theorem modWarp_quarries (s : State) (u : Nat) (f : Warp → Warp) : (s.modWarp u f).quarries = s.quarries := rfl
@[simp] theorem modWarp_ctxs (s : State) (u : Nat) (f : Warp → Warp) : (s.modWarp u f).ctxs = s.ctxs := rfl
@[simp] theorem modWarp_regs (s : State) (u : Nat) (f : Warp → Warp) : (s.modWarp u f).regs = s.regs := rfl
@[simp] theorem modWarp_env (s : State) (u : Nat) (f : Warp → Warp) : (s.modWarp u f).env = s.env := rfl
@[simp] theorem modWarp_out (s : State) (u : Nat) (f : Warp → Warp) : (s.modWarp u f).out = s.out := rfl
@[simp] theorem modWarp_issue (s : State) (u : Nat) (f : Warp → Warp) : (s.modWarp u f).issue = s.issue := rfl
@[simp] theorem modWarp_paused (s : State) (u : Nat) (f : Warp → Warp) : (s.modWarp u f).paused = s.paused := rfl
@[simp] theorem modWarp_agenda (s : State) (u : Nat) (f : Warp → Warp) : (s.modWarp u f).agenda = s.agenda := rfl
@[simp] theorem modWarp_pace (s : State) (u : Nat) (f : Warp → Warp) : (s.modWarp u f).pace = s.pace := rfl
@[simp] theorem modWarp_now (s : State) (u : Nat) (f : Warp → Warp) : (s.modWarp u f).now = s.now := rfl
@[simp] theorem modWarp_nextId (s : State) (u : Nat) (f : Warp → Warp) : (s.modWarp u f).nextId = s.nextId := rfl
@[simp] theorem modWarp_free (s : State) (u : Nat) (f : Warp → Warp) : (s.modWarp u f).free = s.free := rfl
@[simp] theorem modWarp_bad (s : State) (u : Nat) (f : Warp → Warp) : (s.modWarp u f).bad = s.bad := rfl
@[simp] theorem modWarp_unready (s : State) (u : Nat) (f : Warp → Warp) : (s.modWarp u f).unready = s.unready := rfl

@[simp] theorem setCore_warps (s : State) (k : Nat) (x : Core) : (s.setCore k x).warps = s.warps := rfl
@[simp] theorem setCore_clusters (s : State) (k : Nat) (x : Core) : (s.setCore k x).clusters = s.clusters := rfl
@[simp] theorem setCore_dies (s : State) (k : Nat) (x : Core) : (s.setCore k x).dies = s.dies := rfl
@[simp] theorem setCore_slices (s : State) (k : Nat) (x : Core) : (s.setCore k x).slices = s.slices := rfl
@[simp] theorem setCore_hbm (s : State) (k : Nat) (x : Core) : (s.setCore k x).hbm = s.hbm := rfl
@[simp] theorem setCore_mesh (s : State) (k : Nat) (x : Core) : (s.setCore k x).mesh = s.mesh := rfl
@[simp] theorem setCore_links (s : State) (k : Nat) (x : Core) : (s.setCore k x).links = s.links := rfl
@[simp] theorem setCore_mem (s : State) (k : Nat) (x : Core) : (s.setCore k x).mem = s.mem := rfl
@[simp] theorem setCore_disp (s : State) (k : Nat) (x : Core) : (s.setCore k x).disp = s.disp := rfl
@[simp] theorem setCore_chans (s : State) (k : Nat) (x : Core) : (s.setCore k x).chans = s.chans := rfl
@[simp] theorem setCore_quarries (s : State) (k : Nat) (x : Core) : (s.setCore k x).quarries = s.quarries := rfl
@[simp] theorem setCore_ctxs (s : State) (k : Nat) (x : Core) : (s.setCore k x).ctxs = s.ctxs := rfl
@[simp] theorem setCore_regs (s : State) (k : Nat) (x : Core) : (s.setCore k x).regs = s.regs := rfl
@[simp] theorem setCore_env (s : State) (k : Nat) (x : Core) : (s.setCore k x).env = s.env := rfl
@[simp] theorem setCore_out (s : State) (k : Nat) (x : Core) : (s.setCore k x).out = s.out := rfl
@[simp] theorem setCore_issue (s : State) (k : Nat) (x : Core) : (s.setCore k x).issue = s.issue := rfl
@[simp] theorem setCore_paused (s : State) (k : Nat) (x : Core) : (s.setCore k x).paused = s.paused := rfl
@[simp] theorem setCore_agenda (s : State) (k : Nat) (x : Core) : (s.setCore k x).agenda = s.agenda := rfl
@[simp] theorem setCore_pace (s : State) (k : Nat) (x : Core) : (s.setCore k x).pace = s.pace := rfl
@[simp] theorem setCore_now (s : State) (k : Nat) (x : Core) : (s.setCore k x).now = s.now := rfl
@[simp] theorem setCore_nextId (s : State) (k : Nat) (x : Core) : (s.setCore k x).nextId = s.nextId := rfl
@[simp] theorem setCore_free (s : State) (k : Nat) (x : Core) : (s.setCore k x).free = s.free := rfl
@[simp] theorem setCore_bad (s : State) (k : Nat) (x : Core) : (s.setCore k x).bad = s.bad := rfl
@[simp] theorem setCore_unready (s : State) (k : Nat) (x : Core) : (s.setCore k x).unready = s.unready := rfl

@[simp] theorem setCluster_warps (s : State) (k : Nat) (x : Cluster) : (s.setCluster k x).warps = s.warps := rfl
@[simp] theorem setCluster_cores (s : State) (k : Nat) (x : Cluster) : (s.setCluster k x).cores = s.cores := rfl
@[simp] theorem setCluster_dies (s : State) (k : Nat) (x : Cluster) : (s.setCluster k x).dies = s.dies := rfl
@[simp] theorem setCluster_slices (s : State) (k : Nat) (x : Cluster) : (s.setCluster k x).slices = s.slices := rfl
@[simp] theorem setCluster_hbm (s : State) (k : Nat) (x : Cluster) : (s.setCluster k x).hbm = s.hbm := rfl
@[simp] theorem setCluster_mesh (s : State) (k : Nat) (x : Cluster) : (s.setCluster k x).mesh = s.mesh := rfl
@[simp] theorem setCluster_links (s : State) (k : Nat) (x : Cluster) : (s.setCluster k x).links = s.links := rfl
@[simp] theorem setCluster_mem (s : State) (k : Nat) (x : Cluster) : (s.setCluster k x).mem = s.mem := rfl
@[simp] theorem setCluster_disp (s : State) (k : Nat) (x : Cluster) : (s.setCluster k x).disp = s.disp := rfl
@[simp] theorem setCluster_chans (s : State) (k : Nat) (x : Cluster) : (s.setCluster k x).chans = s.chans := rfl
@[simp] theorem setCluster_quarries (s : State) (k : Nat) (x : Cluster) : (s.setCluster k x).quarries = s.quarries := rfl
@[simp] theorem setCluster_ctxs (s : State) (k : Nat) (x : Cluster) : (s.setCluster k x).ctxs = s.ctxs := rfl
@[simp] theorem setCluster_regs (s : State) (k : Nat) (x : Cluster) : (s.setCluster k x).regs = s.regs := rfl
@[simp] theorem setCluster_env (s : State) (k : Nat) (x : Cluster) : (s.setCluster k x).env = s.env := rfl
@[simp] theorem setCluster_out (s : State) (k : Nat) (x : Cluster) : (s.setCluster k x).out = s.out := rfl
@[simp] theorem setCluster_issue (s : State) (k : Nat) (x : Cluster) : (s.setCluster k x).issue = s.issue := rfl
@[simp] theorem setCluster_paused (s : State) (k : Nat) (x : Cluster) : (s.setCluster k x).paused = s.paused := rfl
@[simp] theorem setCluster_agenda (s : State) (k : Nat) (x : Cluster) : (s.setCluster k x).agenda = s.agenda := rfl
@[simp] theorem setCluster_pace (s : State) (k : Nat) (x : Cluster) : (s.setCluster k x).pace = s.pace := rfl
@[simp] theorem setCluster_now (s : State) (k : Nat) (x : Cluster) : (s.setCluster k x).now = s.now := rfl
@[simp] theorem setCluster_nextId (s : State) (k : Nat) (x : Cluster) : (s.setCluster k x).nextId = s.nextId := rfl
@[simp] theorem setCluster_free (s : State) (k : Nat) (x : Cluster) : (s.setCluster k x).free = s.free := rfl
@[simp] theorem setCluster_bad (s : State) (k : Nat) (x : Cluster) : (s.setCluster k x).bad = s.bad := rfl
@[simp] theorem setCluster_unready (s : State) (k : Nat) (x : Cluster) : (s.setCluster k x).unready = s.unready := rfl

@[simp] theorem setDie_warps (s : State) (k : Nat) (x : Die) : (s.setDie k x).warps = s.warps := rfl
@[simp] theorem setDie_cores (s : State) (k : Nat) (x : Die) : (s.setDie k x).cores = s.cores := rfl
@[simp] theorem setDie_clusters (s : State) (k : Nat) (x : Die) : (s.setDie k x).clusters = s.clusters := rfl
@[simp] theorem setDie_slices (s : State) (k : Nat) (x : Die) : (s.setDie k x).slices = s.slices := rfl
@[simp] theorem setDie_hbm (s : State) (k : Nat) (x : Die) : (s.setDie k x).hbm = s.hbm := rfl
@[simp] theorem setDie_mesh (s : State) (k : Nat) (x : Die) : (s.setDie k x).mesh = s.mesh := rfl
@[simp] theorem setDie_links (s : State) (k : Nat) (x : Die) : (s.setDie k x).links = s.links := rfl
@[simp] theorem setDie_mem (s : State) (k : Nat) (x : Die) : (s.setDie k x).mem = s.mem := rfl
@[simp] theorem setDie_disp (s : State) (k : Nat) (x : Die) : (s.setDie k x).disp = s.disp := rfl
@[simp] theorem setDie_chans (s : State) (k : Nat) (x : Die) : (s.setDie k x).chans = s.chans := rfl
@[simp] theorem setDie_quarries (s : State) (k : Nat) (x : Die) : (s.setDie k x).quarries = s.quarries := rfl
@[simp] theorem setDie_ctxs (s : State) (k : Nat) (x : Die) : (s.setDie k x).ctxs = s.ctxs := rfl
@[simp] theorem setDie_regs (s : State) (k : Nat) (x : Die) : (s.setDie k x).regs = s.regs := rfl
@[simp] theorem setDie_env (s : State) (k : Nat) (x : Die) : (s.setDie k x).env = s.env := rfl
@[simp] theorem setDie_out (s : State) (k : Nat) (x : Die) : (s.setDie k x).out = s.out := rfl
@[simp] theorem setDie_issue (s : State) (k : Nat) (x : Die) : (s.setDie k x).issue = s.issue := rfl
@[simp] theorem setDie_paused (s : State) (k : Nat) (x : Die) : (s.setDie k x).paused = s.paused := rfl
@[simp] theorem setDie_agenda (s : State) (k : Nat) (x : Die) : (s.setDie k x).agenda = s.agenda := rfl
@[simp] theorem setDie_pace (s : State) (k : Nat) (x : Die) : (s.setDie k x).pace = s.pace := rfl
@[simp] theorem setDie_now (s : State) (k : Nat) (x : Die) : (s.setDie k x).now = s.now := rfl
@[simp] theorem setDie_nextId (s : State) (k : Nat) (x : Die) : (s.setDie k x).nextId = s.nextId := rfl
@[simp] theorem setDie_free (s : State) (k : Nat) (x : Die) : (s.setDie k x).free = s.free := rfl
@[simp] theorem setDie_bad (s : State) (k : Nat) (x : Die) : (s.setDie k x).bad = s.bad := rfl
@[simp] theorem setDie_unready (s : State) (k : Nat) (x : Die) : (s.setDie k x).unready = s.unready := rfl

@[simp] theorem setSlice_warps (s : State) (k : Nat) (x : Slice) : (s.setSlice k x).warps = s.warps := rfl
@[simp] theorem setSlice_cores (s : State) (k : Nat) (x : Slice) : (s.setSlice k x).cores = s.cores := rfl
@[simp] theorem setSlice_clusters (s : State) (k : Nat) (x : Slice) : (s.setSlice k x).clusters = s.clusters := rfl
@[simp] theorem setSlice_dies (s : State) (k : Nat) (x : Slice) : (s.setSlice k x).dies = s.dies := rfl
@[simp] theorem setSlice_hbm (s : State) (k : Nat) (x : Slice) : (s.setSlice k x).hbm = s.hbm := rfl
@[simp] theorem setSlice_mesh (s : State) (k : Nat) (x : Slice) : (s.setSlice k x).mesh = s.mesh := rfl
@[simp] theorem setSlice_links (s : State) (k : Nat) (x : Slice) : (s.setSlice k x).links = s.links := rfl
@[simp] theorem setSlice_mem (s : State) (k : Nat) (x : Slice) : (s.setSlice k x).mem = s.mem := rfl
@[simp] theorem setSlice_disp (s : State) (k : Nat) (x : Slice) : (s.setSlice k x).disp = s.disp := rfl
@[simp] theorem setSlice_chans (s : State) (k : Nat) (x : Slice) : (s.setSlice k x).chans = s.chans := rfl
@[simp] theorem setSlice_quarries (s : State) (k : Nat) (x : Slice) : (s.setSlice k x).quarries = s.quarries := rfl
@[simp] theorem setSlice_ctxs (s : State) (k : Nat) (x : Slice) : (s.setSlice k x).ctxs = s.ctxs := rfl
@[simp] theorem setSlice_regs (s : State) (k : Nat) (x : Slice) : (s.setSlice k x).regs = s.regs := rfl
@[simp] theorem setSlice_env (s : State) (k : Nat) (x : Slice) : (s.setSlice k x).env = s.env := rfl
@[simp] theorem setSlice_out (s : State) (k : Nat) (x : Slice) : (s.setSlice k x).out = s.out := rfl
@[simp] theorem setSlice_issue (s : State) (k : Nat) (x : Slice) : (s.setSlice k x).issue = s.issue := rfl
@[simp] theorem setSlice_paused (s : State) (k : Nat) (x : Slice) : (s.setSlice k x).paused = s.paused := rfl
@[simp] theorem setSlice_agenda (s : State) (k : Nat) (x : Slice) : (s.setSlice k x).agenda = s.agenda := rfl
@[simp] theorem setSlice_pace (s : State) (k : Nat) (x : Slice) : (s.setSlice k x).pace = s.pace := rfl
@[simp] theorem setSlice_now (s : State) (k : Nat) (x : Slice) : (s.setSlice k x).now = s.now := rfl
@[simp] theorem setSlice_nextId (s : State) (k : Nat) (x : Slice) : (s.setSlice k x).nextId = s.nextId := rfl
@[simp] theorem setSlice_free (s : State) (k : Nat) (x : Slice) : (s.setSlice k x).free = s.free := rfl
@[simp] theorem setSlice_bad (s : State) (k : Nat) (x : Slice) : (s.setSlice k x).bad = s.bad := rfl
@[simp] theorem setSlice_unready (s : State) (k : Nat) (x : Slice) : (s.setSlice k x).unready = s.unready := rfl

@[simp] theorem setStack_warps (s : State) (k : Nat) (x : Stack) : (s.setStack k x).warps = s.warps := rfl
@[simp] theorem setStack_cores (s : State) (k : Nat) (x : Stack) : (s.setStack k x).cores = s.cores := rfl
@[simp] theorem setStack_clusters (s : State) (k : Nat) (x : Stack) : (s.setStack k x).clusters = s.clusters := rfl
@[simp] theorem setStack_dies (s : State) (k : Nat) (x : Stack) : (s.setStack k x).dies = s.dies := rfl
@[simp] theorem setStack_slices (s : State) (k : Nat) (x : Stack) : (s.setStack k x).slices = s.slices := rfl
@[simp] theorem setStack_mesh (s : State) (k : Nat) (x : Stack) : (s.setStack k x).mesh = s.mesh := rfl
@[simp] theorem setStack_links (s : State) (k : Nat) (x : Stack) : (s.setStack k x).links = s.links := rfl
@[simp] theorem setStack_mem (s : State) (k : Nat) (x : Stack) : (s.setStack k x).mem = s.mem := rfl
@[simp] theorem setStack_disp (s : State) (k : Nat) (x : Stack) : (s.setStack k x).disp = s.disp := rfl
@[simp] theorem setStack_chans (s : State) (k : Nat) (x : Stack) : (s.setStack k x).chans = s.chans := rfl
@[simp] theorem setStack_quarries (s : State) (k : Nat) (x : Stack) : (s.setStack k x).quarries = s.quarries := rfl
@[simp] theorem setStack_ctxs (s : State) (k : Nat) (x : Stack) : (s.setStack k x).ctxs = s.ctxs := rfl
@[simp] theorem setStack_regs (s : State) (k : Nat) (x : Stack) : (s.setStack k x).regs = s.regs := rfl
@[simp] theorem setStack_env (s : State) (k : Nat) (x : Stack) : (s.setStack k x).env = s.env := rfl
@[simp] theorem setStack_out (s : State) (k : Nat) (x : Stack) : (s.setStack k x).out = s.out := rfl
@[simp] theorem setStack_issue (s : State) (k : Nat) (x : Stack) : (s.setStack k x).issue = s.issue := rfl
@[simp] theorem setStack_paused (s : State) (k : Nat) (x : Stack) : (s.setStack k x).paused = s.paused := rfl
@[simp] theorem setStack_agenda (s : State) (k : Nat) (x : Stack) : (s.setStack k x).agenda = s.agenda := rfl
@[simp] theorem setStack_pace (s : State) (k : Nat) (x : Stack) : (s.setStack k x).pace = s.pace := rfl
@[simp] theorem setStack_now (s : State) (k : Nat) (x : Stack) : (s.setStack k x).now = s.now := rfl
@[simp] theorem setStack_nextId (s : State) (k : Nat) (x : Stack) : (s.setStack k x).nextId = s.nextId := rfl
@[simp] theorem setStack_free (s : State) (k : Nat) (x : Stack) : (s.setStack k x).free = s.free := rfl
@[simp] theorem setStack_bad (s : State) (k : Nat) (x : Stack) : (s.setStack k x).bad = s.bad := rfl
@[simp] theorem setStack_unready (s : State) (k : Nat) (x : Stack) : (s.setStack k x).unready = s.unready := rfl

@[simp] theorem setQd_warps (s : State) (k : Nat) (x : Coord) : (s.setQd k x).warps = s.warps := rfl
@[simp] theorem setQd_cores (s : State) (k : Nat) (x : Coord) : (s.setQd k x).cores = s.cores := rfl
@[simp] theorem setQd_dies (s : State) (k : Nat) (x : Coord) : (s.setQd k x).dies = s.dies := rfl
@[simp] theorem setQd_slices (s : State) (k : Nat) (x : Coord) : (s.setQd k x).slices = s.slices := rfl
@[simp] theorem setQd_hbm (s : State) (k : Nat) (x : Coord) : (s.setQd k x).hbm = s.hbm := rfl
@[simp] theorem setQd_mesh (s : State) (k : Nat) (x : Coord) : (s.setQd k x).mesh = s.mesh := rfl
@[simp] theorem setQd_links (s : State) (k : Nat) (x : Coord) : (s.setQd k x).links = s.links := rfl
@[simp] theorem setQd_mem (s : State) (k : Nat) (x : Coord) : (s.setQd k x).mem = s.mem := rfl
@[simp] theorem setQd_disp (s : State) (k : Nat) (x : Coord) : (s.setQd k x).disp = s.disp := rfl
@[simp] theorem setQd_chans (s : State) (k : Nat) (x : Coord) : (s.setQd k x).chans = s.chans := rfl
@[simp] theorem setQd_quarries (s : State) (k : Nat) (x : Coord) : (s.setQd k x).quarries = s.quarries := rfl
@[simp] theorem setQd_ctxs (s : State) (k : Nat) (x : Coord) : (s.setQd k x).ctxs = s.ctxs := rfl
@[simp] theorem setQd_regs (s : State) (k : Nat) (x : Coord) : (s.setQd k x).regs = s.regs := rfl
@[simp] theorem setQd_env (s : State) (k : Nat) (x : Coord) : (s.setQd k x).env = s.env := rfl
@[simp] theorem setQd_out (s : State) (k : Nat) (x : Coord) : (s.setQd k x).out = s.out := rfl
@[simp] theorem setQd_issue (s : State) (k : Nat) (x : Coord) : (s.setQd k x).issue = s.issue := rfl
@[simp] theorem setQd_paused (s : State) (k : Nat) (x : Coord) : (s.setQd k x).paused = s.paused := rfl
@[simp] theorem setQd_agenda (s : State) (k : Nat) (x : Coord) : (s.setQd k x).agenda = s.agenda := rfl
@[simp] theorem setQd_pace (s : State) (k : Nat) (x : Coord) : (s.setQd k x).pace = s.pace := rfl
@[simp] theorem setQd_now (s : State) (k : Nat) (x : Coord) : (s.setQd k x).now = s.now := rfl
@[simp] theorem setQd_nextId (s : State) (k : Nat) (x : Coord) : (s.setQd k x).nextId = s.nextId := rfl
@[simp] theorem setQd_free (s : State) (k : Nat) (x : Coord) : (s.setQd k x).free = s.free := rfl
@[simp] theorem setQd_bad (s : State) (k : Nat) (x : Coord) : (s.setQd k x).bad = s.bad := rfl
@[simp] theorem setQd_unready (s : State) (k : Nat) (x : Coord) : (s.setQd k x).unready = s.unready := rfl

@[simp] theorem setMx_warps (s : State) (k : Nat) (x : Matrix) : (s.setMx k x).warps = s.warps := rfl
@[simp] theorem setMx_cores (s : State) (k : Nat) (x : Matrix) : (s.setMx k x).cores = s.cores := rfl
@[simp] theorem setMx_dies (s : State) (k : Nat) (x : Matrix) : (s.setMx k x).dies = s.dies := rfl
@[simp] theorem setMx_slices (s : State) (k : Nat) (x : Matrix) : (s.setMx k x).slices = s.slices := rfl
@[simp] theorem setMx_hbm (s : State) (k : Nat) (x : Matrix) : (s.setMx k x).hbm = s.hbm := rfl
@[simp] theorem setMx_mesh (s : State) (k : Nat) (x : Matrix) : (s.setMx k x).mesh = s.mesh := rfl
@[simp] theorem setMx_links (s : State) (k : Nat) (x : Matrix) : (s.setMx k x).links = s.links := rfl
@[simp] theorem setMx_mem (s : State) (k : Nat) (x : Matrix) : (s.setMx k x).mem = s.mem := rfl
@[simp] theorem setMx_disp (s : State) (k : Nat) (x : Matrix) : (s.setMx k x).disp = s.disp := rfl
@[simp] theorem setMx_chans (s : State) (k : Nat) (x : Matrix) : (s.setMx k x).chans = s.chans := rfl
@[simp] theorem setMx_quarries (s : State) (k : Nat) (x : Matrix) : (s.setMx k x).quarries = s.quarries := rfl
@[simp] theorem setMx_ctxs (s : State) (k : Nat) (x : Matrix) : (s.setMx k x).ctxs = s.ctxs := rfl
@[simp] theorem setMx_regs (s : State) (k : Nat) (x : Matrix) : (s.setMx k x).regs = s.regs := rfl
@[simp] theorem setMx_env (s : State) (k : Nat) (x : Matrix) : (s.setMx k x).env = s.env := rfl
@[simp] theorem setMx_out (s : State) (k : Nat) (x : Matrix) : (s.setMx k x).out = s.out := rfl
@[simp] theorem setMx_issue (s : State) (k : Nat) (x : Matrix) : (s.setMx k x).issue = s.issue := rfl
@[simp] theorem setMx_paused (s : State) (k : Nat) (x : Matrix) : (s.setMx k x).paused = s.paused := rfl
@[simp] theorem setMx_agenda (s : State) (k : Nat) (x : Matrix) : (s.setMx k x).agenda = s.agenda := rfl
@[simp] theorem setMx_pace (s : State) (k : Nat) (x : Matrix) : (s.setMx k x).pace = s.pace := rfl
@[simp] theorem setMx_now (s : State) (k : Nat) (x : Matrix) : (s.setMx k x).now = s.now := rfl
@[simp] theorem setMx_nextId (s : State) (k : Nat) (x : Matrix) : (s.setMx k x).nextId = s.nextId := rfl
@[simp] theorem setMx_free (s : State) (k : Nat) (x : Matrix) : (s.setMx k x).free = s.free := rfl
@[simp] theorem setMx_bad (s : State) (k : Nat) (x : Matrix) : (s.setMx k x).bad = s.bad := rfl
@[simp] theorem setMx_unready (s : State) (k : Nat) (x : Matrix) : (s.setMx k x).unready = s.unready := rfl

@[simp] theorem setShard_warps (s : State) (k : Nat) (x : Shard) : (s.setShard k x).warps = s.warps := rfl
@[simp] theorem setShard_cores (s : State) (k : Nat) (x : Shard) : (s.setShard k x).cores = s.cores := rfl
@[simp] theorem setShard_dies (s : State) (k : Nat) (x : Shard) : (s.setShard k x).dies = s.dies := rfl
@[simp] theorem setShard_slices (s : State) (k : Nat) (x : Shard) : (s.setShard k x).slices = s.slices := rfl
@[simp] theorem setShard_hbm (s : State) (k : Nat) (x : Shard) : (s.setShard k x).hbm = s.hbm := rfl
@[simp] theorem setShard_mesh (s : State) (k : Nat) (x : Shard) : (s.setShard k x).mesh = s.mesh := rfl
@[simp] theorem setShard_links (s : State) (k : Nat) (x : Shard) : (s.setShard k x).links = s.links := rfl
@[simp] theorem setShard_mem (s : State) (k : Nat) (x : Shard) : (s.setShard k x).mem = s.mem := rfl
@[simp] theorem setShard_disp (s : State) (k : Nat) (x : Shard) : (s.setShard k x).disp = s.disp := rfl
@[simp] theorem setShard_chans (s : State) (k : Nat) (x : Shard) : (s.setShard k x).chans = s.chans := rfl
@[simp] theorem setShard_quarries (s : State) (k : Nat) (x : Shard) : (s.setShard k x).quarries = s.quarries := rfl
@[simp] theorem setShard_ctxs (s : State) (k : Nat) (x : Shard) : (s.setShard k x).ctxs = s.ctxs := rfl
@[simp] theorem setShard_regs (s : State) (k : Nat) (x : Shard) : (s.setShard k x).regs = s.regs := rfl
@[simp] theorem setShard_env (s : State) (k : Nat) (x : Shard) : (s.setShard k x).env = s.env := rfl
@[simp] theorem setShard_out (s : State) (k : Nat) (x : Shard) : (s.setShard k x).out = s.out := rfl
@[simp] theorem setShard_issue (s : State) (k : Nat) (x : Shard) : (s.setShard k x).issue = s.issue := rfl
@[simp] theorem setShard_paused (s : State) (k : Nat) (x : Shard) : (s.setShard k x).paused = s.paused := rfl
@[simp] theorem setShard_agenda (s : State) (k : Nat) (x : Shard) : (s.setShard k x).agenda = s.agenda := rfl
@[simp] theorem setShard_pace (s : State) (k : Nat) (x : Shard) : (s.setShard k x).pace = s.pace := rfl
@[simp] theorem setShard_now (s : State) (k : Nat) (x : Shard) : (s.setShard k x).now = s.now := rfl
@[simp] theorem setShard_nextId (s : State) (k : Nat) (x : Shard) : (s.setShard k x).nextId = s.nextId := rfl
@[simp] theorem setShard_free (s : State) (k : Nat) (x : Shard) : (s.setShard k x).free = s.free := rfl
@[simp] theorem setShard_bad (s : State) (k : Nat) (x : Shard) : (s.setShard k x).bad = s.bad := rfl
@[simp] theorem setShard_unready (s : State) (k : Nat) (x : Shard) : (s.setShard k x).unready = s.unready := rfl

@[simp] theorem setQuarry_warps (s : State) (x : Quarry) : (s.setQuarry x).warps = s.warps := rfl
@[simp] theorem setQuarry_cores (s : State) (x : Quarry) : (s.setQuarry x).cores = s.cores := rfl
@[simp] theorem setQuarry_clusters (s : State) (x : Quarry) : (s.setQuarry x).clusters = s.clusters := rfl
@[simp] theorem setQuarry_dies (s : State) (x : Quarry) : (s.setQuarry x).dies = s.dies := rfl
@[simp] theorem setQuarry_slices (s : State) (x : Quarry) : (s.setQuarry x).slices = s.slices := rfl
@[simp] theorem setQuarry_hbm (s : State) (x : Quarry) : (s.setQuarry x).hbm = s.hbm := rfl
@[simp] theorem setQuarry_mesh (s : State) (x : Quarry) : (s.setQuarry x).mesh = s.mesh := rfl
@[simp] theorem setQuarry_links (s : State) (x : Quarry) : (s.setQuarry x).links = s.links := rfl
@[simp] theorem setQuarry_mem (s : State) (x : Quarry) : (s.setQuarry x).mem = s.mem := rfl
@[simp] theorem setQuarry_disp (s : State) (x : Quarry) : (s.setQuarry x).disp = s.disp := rfl
@[simp] theorem setQuarry_chans (s : State) (x : Quarry) : (s.setQuarry x).chans = s.chans := rfl
@[simp] theorem setQuarry_ctxs (s : State) (x : Quarry) : (s.setQuarry x).ctxs = s.ctxs := rfl
@[simp] theorem setQuarry_regs (s : State) (x : Quarry) : (s.setQuarry x).regs = s.regs := rfl
@[simp] theorem setQuarry_env (s : State) (x : Quarry) : (s.setQuarry x).env = s.env := rfl
@[simp] theorem setQuarry_out (s : State) (x : Quarry) : (s.setQuarry x).out = s.out := rfl
@[simp] theorem setQuarry_issue (s : State) (x : Quarry) : (s.setQuarry x).issue = s.issue := rfl
@[simp] theorem setQuarry_paused (s : State) (x : Quarry) : (s.setQuarry x).paused = s.paused := rfl
@[simp] theorem setQuarry_agenda (s : State) (x : Quarry) : (s.setQuarry x).agenda = s.agenda := rfl
@[simp] theorem setQuarry_pace (s : State) (x : Quarry) : (s.setQuarry x).pace = s.pace := rfl
@[simp] theorem setQuarry_now (s : State) (x : Quarry) : (s.setQuarry x).now = s.now := rfl
@[simp] theorem setQuarry_nextId (s : State) (x : Quarry) : (s.setQuarry x).nextId = s.nextId := rfl
@[simp] theorem setQuarry_free (s : State) (x : Quarry) : (s.setQuarry x).free = s.free := rfl
@[simp] theorem setQuarry_bad (s : State) (x : Quarry) : (s.setQuarry x).bad = s.bad := rfl
@[simp] theorem setQuarry_unready (s : State) (x : Quarry) : (s.setQuarry x).unready = s.unready := rfl

@[simp] theorem setQueue_warps (s : State) (k : Nat) (x : Queue) : (s.setQueue k x).warps = s.warps := rfl
@[simp] theorem setQueue_cores (s : State) (k : Nat) (x : Queue) : (s.setQueue k x).cores = s.cores := rfl
@[simp] theorem setQueue_clusters (s : State) (k : Nat) (x : Queue) : (s.setQueue k x).clusters = s.clusters := rfl
@[simp] theorem setQueue_dies (s : State) (k : Nat) (x : Queue) : (s.setQueue k x).dies = s.dies := rfl
@[simp] theorem setQueue_slices (s : State) (k : Nat) (x : Queue) : (s.setQueue k x).slices = s.slices := rfl
@[simp] theorem setQueue_hbm (s : State) (k : Nat) (x : Queue) : (s.setQueue k x).hbm = s.hbm := rfl
@[simp] theorem setQueue_mesh (s : State) (k : Nat) (x : Queue) : (s.setQueue k x).mesh = s.mesh := rfl
@[simp] theorem setQueue_links (s : State) (k : Nat) (x : Queue) : (s.setQueue k x).links = s.links := rfl
@[simp] theorem setQueue_mem (s : State) (k : Nat) (x : Queue) : (s.setQueue k x).mem = s.mem := rfl
@[simp] theorem setQueue_chans (s : State) (k : Nat) (x : Queue) : (s.setQueue k x).chans = s.chans := rfl
@[simp] theorem setQueue_quarries (s : State) (k : Nat) (x : Queue) : (s.setQueue k x).quarries = s.quarries := rfl
@[simp] theorem setQueue_ctxs (s : State) (k : Nat) (x : Queue) : (s.setQueue k x).ctxs = s.ctxs := rfl
@[simp] theorem setQueue_regs (s : State) (k : Nat) (x : Queue) : (s.setQueue k x).regs = s.regs := rfl
@[simp] theorem setQueue_env (s : State) (k : Nat) (x : Queue) : (s.setQueue k x).env = s.env := rfl
@[simp] theorem setQueue_out (s : State) (k : Nat) (x : Queue) : (s.setQueue k x).out = s.out := rfl
@[simp] theorem setQueue_issue (s : State) (k : Nat) (x : Queue) : (s.setQueue k x).issue = s.issue := rfl
@[simp] theorem setQueue_paused (s : State) (k : Nat) (x : Queue) : (s.setQueue k x).paused = s.paused := rfl
@[simp] theorem setQueue_agenda (s : State) (k : Nat) (x : Queue) : (s.setQueue k x).agenda = s.agenda := rfl
@[simp] theorem setQueue_pace (s : State) (k : Nat) (x : Queue) : (s.setQueue k x).pace = s.pace := rfl
@[simp] theorem setQueue_now (s : State) (k : Nat) (x : Queue) : (s.setQueue k x).now = s.now := rfl
@[simp] theorem setQueue_nextId (s : State) (k : Nat) (x : Queue) : (s.setQueue k x).nextId = s.nextId := rfl
@[simp] theorem setQueue_free (s : State) (k : Nat) (x : Queue) : (s.setQueue k x).free = s.free := rfl
@[simp] theorem setQueue_bad (s : State) (k : Nat) (x : Queue) : (s.setQueue k x).bad = s.bad := rfl
@[simp] theorem setQueue_unready (s : State) (k : Nat) (x : Queue) : (s.setQueue k x).unready = s.unready := rfl

@[simp] theorem setChan_warps (s : State) (k : Nat) (x : Chan) : (s.setChan k x).warps = s.warps := rfl
@[simp] theorem setChan_cores (s : State) (k : Nat) (x : Chan) : (s.setChan k x).cores = s.cores := rfl
@[simp] theorem setChan_clusters (s : State) (k : Nat) (x : Chan) : (s.setChan k x).clusters = s.clusters := rfl
@[simp] theorem setChan_dies (s : State) (k : Nat) (x : Chan) : (s.setChan k x).dies = s.dies := rfl
@[simp] theorem setChan_slices (s : State) (k : Nat) (x : Chan) : (s.setChan k x).slices = s.slices := rfl
@[simp] theorem setChan_hbm (s : State) (k : Nat) (x : Chan) : (s.setChan k x).hbm = s.hbm := rfl
@[simp] theorem setChan_mesh (s : State) (k : Nat) (x : Chan) : (s.setChan k x).mesh = s.mesh := rfl
@[simp] theorem setChan_links (s : State) (k : Nat) (x : Chan) : (s.setChan k x).links = s.links := rfl
@[simp] theorem setChan_mem (s : State) (k : Nat) (x : Chan) : (s.setChan k x).mem = s.mem := rfl
@[simp] theorem setChan_disp (s : State) (k : Nat) (x : Chan) : (s.setChan k x).disp = s.disp := rfl
@[simp] theorem setChan_quarries (s : State) (k : Nat) (x : Chan) : (s.setChan k x).quarries = s.quarries := rfl
@[simp] theorem setChan_ctxs (s : State) (k : Nat) (x : Chan) : (s.setChan k x).ctxs = s.ctxs := rfl
@[simp] theorem setChan_regs (s : State) (k : Nat) (x : Chan) : (s.setChan k x).regs = s.regs := rfl
@[simp] theorem setChan_env (s : State) (k : Nat) (x : Chan) : (s.setChan k x).env = s.env := rfl
@[simp] theorem setChan_out (s : State) (k : Nat) (x : Chan) : (s.setChan k x).out = s.out := rfl
@[simp] theorem setChan_issue (s : State) (k : Nat) (x : Chan) : (s.setChan k x).issue = s.issue := rfl
@[simp] theorem setChan_paused (s : State) (k : Nat) (x : Chan) : (s.setChan k x).paused = s.paused := rfl
@[simp] theorem setChan_agenda (s : State) (k : Nat) (x : Chan) : (s.setChan k x).agenda = s.agenda := rfl
@[simp] theorem setChan_pace (s : State) (k : Nat) (x : Chan) : (s.setChan k x).pace = s.pace := rfl
@[simp] theorem setChan_now (s : State) (k : Nat) (x : Chan) : (s.setChan k x).now = s.now := rfl
@[simp] theorem setChan_nextId (s : State) (k : Nat) (x : Chan) : (s.setChan k x).nextId = s.nextId := rfl
@[simp] theorem setChan_free (s : State) (k : Nat) (x : Chan) : (s.setChan k x).free = s.free := rfl
@[simp] theorem setChan_bad (s : State) (k : Nat) (x : Chan) : (s.setChan k x).bad = s.bad := rfl
@[simp] theorem setChan_unready (s : State) (k : Nat) (x : Chan) : (s.setChan k x).unready = s.unready := rfl

@[simp] theorem modRing_warps (s : State) (f : FaultRing → FaultRing) : (s.modRing f).warps = s.warps := rfl
@[simp] theorem modRing_cores (s : State) (f : FaultRing → FaultRing) : (s.modRing f).cores = s.cores := rfl
@[simp] theorem modRing_clusters (s : State) (f : FaultRing → FaultRing) : (s.modRing f).clusters = s.clusters := rfl
@[simp] theorem modRing_dies (s : State) (f : FaultRing → FaultRing) : (s.modRing f).dies = s.dies := rfl
@[simp] theorem modRing_slices (s : State) (f : FaultRing → FaultRing) : (s.modRing f).slices = s.slices := rfl
@[simp] theorem modRing_hbm (s : State) (f : FaultRing → FaultRing) : (s.modRing f).hbm = s.hbm := rfl
@[simp] theorem modRing_mesh (s : State) (f : FaultRing → FaultRing) : (s.modRing f).mesh = s.mesh := rfl
@[simp] theorem modRing_links (s : State) (f : FaultRing → FaultRing) : (s.modRing f).links = s.links := rfl
@[simp] theorem modRing_mem (s : State) (f : FaultRing → FaultRing) : (s.modRing f).mem = s.mem := rfl
@[simp] theorem modRing_disp (s : State) (f : FaultRing → FaultRing) : (s.modRing f).disp = s.disp := rfl
@[simp] theorem modRing_chans (s : State) (f : FaultRing → FaultRing) : (s.modRing f).chans = s.chans := rfl
@[simp] theorem modRing_quarries (s : State) (f : FaultRing → FaultRing) : (s.modRing f).quarries = s.quarries := rfl
@[simp] theorem modRing_ctxs (s : State) (f : FaultRing → FaultRing) : (s.modRing f).ctxs = s.ctxs := rfl
@[simp] theorem modRing_env (s : State) (f : FaultRing → FaultRing) : (s.modRing f).env = s.env := rfl
@[simp] theorem modRing_out (s : State) (f : FaultRing → FaultRing) : (s.modRing f).out = s.out := rfl
@[simp] theorem modRing_issue (s : State) (f : FaultRing → FaultRing) : (s.modRing f).issue = s.issue := rfl
@[simp] theorem modRing_paused (s : State) (f : FaultRing → FaultRing) : (s.modRing f).paused = s.paused := rfl
@[simp] theorem modRing_agenda (s : State) (f : FaultRing → FaultRing) : (s.modRing f).agenda = s.agenda := rfl
@[simp] theorem modRing_pace (s : State) (f : FaultRing → FaultRing) : (s.modRing f).pace = s.pace := rfl
@[simp] theorem modRing_now (s : State) (f : FaultRing → FaultRing) : (s.modRing f).now = s.now := rfl
@[simp] theorem modRing_nextId (s : State) (f : FaultRing → FaultRing) : (s.modRing f).nextId = s.nextId := rfl
@[simp] theorem modRing_free (s : State) (f : FaultRing → FaultRing) : (s.modRing f).free = s.free := rfl
@[simp] theorem modRing_bad (s : State) (f : FaultRing → FaultRing) : (s.modRing f).bad = s.bad := rfl
@[simp] theorem modRing_unready (s : State) (f : FaultRing → FaultRing) : (s.modRing f).unready = s.unready := rfl

@[simp] theorem setPort_warps (s : State) (k : Nat) (x : VPort) : (s.setPort k x).warps = s.warps := rfl
@[simp] theorem setPort_cores (s : State) (k : Nat) (x : VPort) : (s.setPort k x).cores = s.cores := rfl
@[simp] theorem setPort_clusters (s : State) (k : Nat) (x : VPort) : (s.setPort k x).clusters = s.clusters := rfl
@[simp] theorem setPort_dies (s : State) (k : Nat) (x : VPort) : (s.setPort k x).dies = s.dies := rfl
@[simp] theorem setPort_slices (s : State) (k : Nat) (x : VPort) : (s.setPort k x).slices = s.slices := rfl
@[simp] theorem setPort_hbm (s : State) (k : Nat) (x : VPort) : (s.setPort k x).hbm = s.hbm := rfl
@[simp] theorem setPort_mesh (s : State) (k : Nat) (x : VPort) : (s.setPort k x).mesh = s.mesh := rfl
@[simp] theorem setPort_links (s : State) (k : Nat) (x : VPort) : (s.setPort k x).links = s.links := rfl
@[simp] theorem setPort_mem (s : State) (k : Nat) (x : VPort) : (s.setPort k x).mem = s.mem := rfl
@[simp] theorem setPort_disp (s : State) (k : Nat) (x : VPort) : (s.setPort k x).disp = s.disp := rfl
@[simp] theorem setPort_chans (s : State) (k : Nat) (x : VPort) : (s.setPort k x).chans = s.chans := rfl
@[simp] theorem setPort_quarries (s : State) (k : Nat) (x : VPort) : (s.setPort k x).quarries = s.quarries := rfl
@[simp] theorem setPort_ctxs (s : State) (k : Nat) (x : VPort) : (s.setPort k x).ctxs = s.ctxs := rfl
@[simp] theorem setPort_env (s : State) (k : Nat) (x : VPort) : (s.setPort k x).env = s.env := rfl
@[simp] theorem setPort_out (s : State) (k : Nat) (x : VPort) : (s.setPort k x).out = s.out := rfl
@[simp] theorem setPort_issue (s : State) (k : Nat) (x : VPort) : (s.setPort k x).issue = s.issue := rfl
@[simp] theorem setPort_paused (s : State) (k : Nat) (x : VPort) : (s.setPort k x).paused = s.paused := rfl
@[simp] theorem setPort_agenda (s : State) (k : Nat) (x : VPort) : (s.setPort k x).agenda = s.agenda := rfl
@[simp] theorem setPort_pace (s : State) (k : Nat) (x : VPort) : (s.setPort k x).pace = s.pace := rfl
@[simp] theorem setPort_now (s : State) (k : Nat) (x : VPort) : (s.setPort k x).now = s.now := rfl
@[simp] theorem setPort_nextId (s : State) (k : Nat) (x : VPort) : (s.setPort k x).nextId = s.nextId := rfl
@[simp] theorem setPort_free (s : State) (k : Nat) (x : VPort) : (s.setPort k x).free = s.free := rfl
@[simp] theorem setPort_bad (s : State) (k : Nat) (x : VPort) : (s.setPort k x).bad = s.bad := rfl
@[simp] theorem setPort_unready (s : State) (k : Nat) (x : VPort) : (s.setPort k x).unready = s.unready := rfl

@[simp] theorem fresh_warps (s : State) : (s.fresh).warps = s.warps := rfl
@[simp] theorem fresh_cores (s : State) : (s.fresh).cores = s.cores := rfl
@[simp] theorem fresh_clusters (s : State) : (s.fresh).clusters = s.clusters := rfl
@[simp] theorem fresh_dies (s : State) : (s.fresh).dies = s.dies := rfl
@[simp] theorem fresh_slices (s : State) : (s.fresh).slices = s.slices := rfl
@[simp] theorem fresh_hbm (s : State) : (s.fresh).hbm = s.hbm := rfl
@[simp] theorem fresh_mesh (s : State) : (s.fresh).mesh = s.mesh := rfl
@[simp] theorem fresh_links (s : State) : (s.fresh).links = s.links := rfl
@[simp] theorem fresh_mem (s : State) : (s.fresh).mem = s.mem := rfl
@[simp] theorem fresh_disp (s : State) : (s.fresh).disp = s.disp := rfl
@[simp] theorem fresh_chans (s : State) : (s.fresh).chans = s.chans := rfl
@[simp] theorem fresh_quarries (s : State) : (s.fresh).quarries = s.quarries := rfl
@[simp] theorem fresh_ctxs (s : State) : (s.fresh).ctxs = s.ctxs := rfl
@[simp] theorem fresh_regs (s : State) : (s.fresh).regs = s.regs := rfl
@[simp] theorem fresh_env (s : State) : (s.fresh).env = s.env := rfl
@[simp] theorem fresh_out (s : State) : (s.fresh).out = s.out := rfl
@[simp] theorem fresh_issue (s : State) : (s.fresh).issue = s.issue := rfl
@[simp] theorem fresh_paused (s : State) : (s.fresh).paused = s.paused := rfl
@[simp] theorem fresh_agenda (s : State) : (s.fresh).agenda = s.agenda := rfl
@[simp] theorem fresh_pace (s : State) : (s.fresh).pace = s.pace := rfl
@[simp] theorem fresh_now (s : State) : (s.fresh).now = s.now := rfl
@[simp] theorem fresh_free (s : State) : (s.fresh).free = s.free := rfl
@[simp] theorem fresh_bad (s : State) : (s.fresh).bad = s.bad := rfl
@[simp] theorem fresh_unready (s : State) : (s.fresh).unready = s.unready := rfl

/-! Updates of a warp. -/

@[simp] theorem setSlot_warp_uid (w : Warp) (k : Nat) (x : Slot) : (w.setSlot k x).uid = w.uid := rfl
@[simp] theorem setSlot_warp_gang (w : Warp) (k : Nat) (x : Slot) : (w.setSlot k x).gang = w.gang := rfl
@[simp] theorem setSlot_warp_ctx (w : Warp) (k : Nat) (x : Slot) : (w.setSlot k x).ctx = w.ctx := rfl
@[simp] theorem setSlot_warp_core (w : Warp) (k : Nat) (x : Slot) : (w.setSlot k x).core = w.core := rfl
@[simp] theorem setSlot_warp_lane (w : Warp) (k : Nat) (x : Slot) : (w.setSlot k x).lane = w.lane := rfl
@[simp] theorem setSlot_warp_wslot (w : Warp) (k : Nat) (x : Slot) : (w.setSlot k x).wslot = w.wslot := rfl
@[simp] theorem setSlot_warp_wn (w : Warp) (k : Nat) (x : Slot) : (w.setSlot k x).wn = w.wn := rfl
@[simp] theorem setSlot_warp_wgid (w : Warp) (k : Nat) (x : Slot) : (w.setSlot k x).wgid = w.wgid := rfl
@[simp] theorem setSlot_warp_v (w : Warp) (k : Nat) (x : Slot) : (w.setSlot k x).v = w.v := rfl
@[simp] theorem setSlot_warp_s (w : Warp) (k : Nat) (x : Slot) : (w.setSlot k x).s = w.s := rfl
@[simp] theorem setSlot_warp_p (w : Warp) (k : Nat) (x : Slot) : (w.setSlot k x).p = w.p := rfl
@[simp] theorem setSlot_warp_fsr (w : Warp) (k : Nat) (x : Slot) : (w.setSlot k x).fsr = w.fsr := rfl
@[simp] theorem setSlot_warp_rj (w : Warp) (k : Nat) (x : Slot) : (w.setSlot k x).rj = w.rj := rfl
@[simp] theorem setSlot_warp_depth (w : Warp) (k : Nat) (x : Slot) : (w.setSlot k x).depth = w.depth := rfl
@[simp] theorem setSlot_warp_pend (w : Warp) (k : Nat) (x : Slot) : (w.setSlot k x).pend = w.pend := rfl
@[simp] theorem setSlot_warp_lastIns (w : Warp) (k : Nat) (x : Slot) : (w.setSlot k x).lastIns = w.lastIns := rfl
@[simp] theorem setSlot_warp_bnds (w : Warp) (k : Nat) (x : Slot) : (w.setSlot k x).bnds = w.bnds := rfl
@[simp] theorem setSlot_warp_exited (w : Warp) (k : Nat) (x : Slot) : (w.setSlot k x).exited = w.exited := rfl
@[simp] theorem setSlot_warp_handler (w : Warp) (k : Nat) (x : Slot) : (w.setSlot k x).handler = w.handler := rfl
@[simp] theorem setSlot_warp_trapRegs (w : Warp) (k : Nat) (x : Slot) : (w.setSlot k x).trapRegs = w.trapRegs := rfl
@[simp] theorem setSlot_warp_cb (w : Warp) (k : Nat) (x : Slot) : (w.setSlot k x).cb = w.cb := rfl
@[simp] theorem setSlot_warp_pvbase (w : Warp) (k : Nat) (x : Slot) : (w.setSlot k x).pvbase = w.pvbase := rfl
@[simp] theorem setSlot_warp_psize (w : Warp) (k : Nat) (x : Slot) : (w.setSlot k x).psize = w.psize := rfl
@[simp] theorem setSlot_warp_wtcmp (w : Warp) (k : Nat) (x : Slot) : (w.setSlot k x).wtcmp = w.wtcmp := rfl
@[simp] theorem setSlot_warp_tvec (w : Warp) (k : Nat) (x : Slot) : (w.setSlot k x).tvec = w.tvec := rfl
@[simp] theorem setSlot_warp_tmask (w : Warp) (k : Nat) (x : Slot) : (w.setSlot k x).tmask = w.tmask := rfl
@[simp] theorem setSlot_warp_stop (w : Warp) (k : Nat) (x : Slot) : (w.setSlot k x).stop = w.stop := rfl
@[simp] theorem setSlot_warp_since (w : Warp) (k : Nat) (x : Slot) : (w.setSlot k x).since = w.since := rfl
@[simp] theorem setSlot_warp_wtime0 (w : Warp) (k : Nat) (x : Slot) : (w.setSlot k x).wtime0 = w.wtime0 := rfl
@[simp] theorem setSlot_warp_barW (w : Warp) (k : Nat) (x : Slot) : (w.setSlot k x).barW = w.barW := rfl
@[simp] theorem setSlot_warp_barG (w : Warp) (k : Nat) (x : Slot) : (w.setSlot k x).barG = w.barG := rfl
@[simp] theorem setSlot_warp_barX (w : Warp) (k : Nat) (x : Slot) : (w.setSlot k x).barX = w.barX := rfl
@[simp] theorem setSlot_warp_sq (w : Warp) (k : Nat) (x : Slot) : (w.setSlot k x).sq = w.sq := rfl
@[simp] theorem setSlot_warp_accs (w : Warp) (k : Nat) (x : Slot) : (w.setSlot k x).accs = w.accs := rfl
@[simp] theorem setSlot_warp_dir (w : Warp) (k : Nat) (x : Slot) : (w.setSlot k x).dir = w.dir := rfl
@[simp] theorem setSlot_warp_fences (w : Warp) (k : Nat) (x : Slot) : (w.setSlot k x).fences = w.fences := rfl
@[simp] theorem setSlot_warp_xsw (w : Warp) (k : Nat) (x : Slot) : (w.setSlot k x).xsw = w.xsw := rfl
@[simp] theorem setSlot_warp_park (w : Warp) (k : Nat) (x : Slot) : (w.setSlot k x).park = w.park := rfl
@[simp] theorem setSlot_warp_grants (w : Warp) (k : Nat) (x : Slot) : (w.setSlot k x).grants = w.grants := rfl
@[simp] theorem setSlot_warp_seq (w : Warp) (k : Nat) (x : Slot) : (w.setSlot k x).seq = w.seq := rfl
@[simp] theorem setSlot_warp_lastSlot (w : Warp) (k : Nat) (x : Slot) : (w.setSlot k x).lastSlot = w.lastSlot := rfl
@[simp] theorem setSlot_warp_floor (w : Warp) (k : Nat) (x : Slot) : (w.setSlot k x).floor = w.floor := rfl
@[simp] theorem setSlot_warp_spilled (w : Warp) (k : Nat) (x : Slot) : (w.setSlot k x).spilled = w.spilled := rfl
@[simp] theorem setSlot_warp_tasks (w : Warp) (k : Nat) (x : Slot) : (w.setSlot k x).tasks = w.tasks := rfl

@[simp] theorem addAccess_warp_uid (w : Warp) (a : Access) : (w.addAccess a).uid = w.uid := rfl
@[simp] theorem addAccess_warp_gang (w : Warp) (a : Access) : (w.addAccess a).gang = w.gang := rfl
@[simp] theorem addAccess_warp_ctx (w : Warp) (a : Access) : (w.addAccess a).ctx = w.ctx := rfl
@[simp] theorem addAccess_warp_core (w : Warp) (a : Access) : (w.addAccess a).core = w.core := rfl
@[simp] theorem addAccess_warp_lane (w : Warp) (a : Access) : (w.addAccess a).lane = w.lane := rfl
@[simp] theorem addAccess_warp_wslot (w : Warp) (a : Access) : (w.addAccess a).wslot = w.wslot := rfl
@[simp] theorem addAccess_warp_wn (w : Warp) (a : Access) : (w.addAccess a).wn = w.wn := rfl
@[simp] theorem addAccess_warp_wgid (w : Warp) (a : Access) : (w.addAccess a).wgid = w.wgid := rfl
@[simp] theorem addAccess_warp_v (w : Warp) (a : Access) : (w.addAccess a).v = w.v := rfl
@[simp] theorem addAccess_warp_s (w : Warp) (a : Access) : (w.addAccess a).s = w.s := rfl
@[simp] theorem addAccess_warp_p (w : Warp) (a : Access) : (w.addAccess a).p = w.p := rfl
@[simp] theorem addAccess_warp_fsr (w : Warp) (a : Access) : (w.addAccess a).fsr = w.fsr := rfl
@[simp] theorem addAccess_warp_slots (w : Warp) (a : Access) : (w.addAccess a).slots = w.slots := rfl
@[simp] theorem addAccess_warp_rj (w : Warp) (a : Access) : (w.addAccess a).rj = w.rj := rfl
@[simp] theorem addAccess_warp_depth (w : Warp) (a : Access) : (w.addAccess a).depth = w.depth := rfl
@[simp] theorem addAccess_warp_pend (w : Warp) (a : Access) : (w.addAccess a).pend = w.pend := rfl
@[simp] theorem addAccess_warp_lastIns (w : Warp) (a : Access) : (w.addAccess a).lastIns = w.lastIns := rfl
@[simp] theorem addAccess_warp_bnds (w : Warp) (a : Access) : (w.addAccess a).bnds = w.bnds := rfl
@[simp] theorem addAccess_warp_exited (w : Warp) (a : Access) : (w.addAccess a).exited = w.exited := rfl
@[simp] theorem addAccess_warp_handler (w : Warp) (a : Access) : (w.addAccess a).handler = w.handler := rfl
@[simp] theorem addAccess_warp_trapRegs (w : Warp) (a : Access) : (w.addAccess a).trapRegs = w.trapRegs := rfl
@[simp] theorem addAccess_warp_cb (w : Warp) (a : Access) : (w.addAccess a).cb = w.cb := rfl
@[simp] theorem addAccess_warp_pvbase (w : Warp) (a : Access) : (w.addAccess a).pvbase = w.pvbase := rfl
@[simp] theorem addAccess_warp_psize (w : Warp) (a : Access) : (w.addAccess a).psize = w.psize := rfl
@[simp] theorem addAccess_warp_wtcmp (w : Warp) (a : Access) : (w.addAccess a).wtcmp = w.wtcmp := rfl
@[simp] theorem addAccess_warp_tvec (w : Warp) (a : Access) : (w.addAccess a).tvec = w.tvec := rfl
@[simp] theorem addAccess_warp_tmask (w : Warp) (a : Access) : (w.addAccess a).tmask = w.tmask := rfl
@[simp] theorem addAccess_warp_stop (w : Warp) (a : Access) : (w.addAccess a).stop = w.stop := rfl
@[simp] theorem addAccess_warp_since (w : Warp) (a : Access) : (w.addAccess a).since = w.since := rfl
@[simp] theorem addAccess_warp_wtime0 (w : Warp) (a : Access) : (w.addAccess a).wtime0 = w.wtime0 := rfl
@[simp] theorem addAccess_warp_barW (w : Warp) (a : Access) : (w.addAccess a).barW = w.barW := rfl
@[simp] theorem addAccess_warp_barG (w : Warp) (a : Access) : (w.addAccess a).barG = w.barG := rfl
@[simp] theorem addAccess_warp_barX (w : Warp) (a : Access) : (w.addAccess a).barX = w.barX := rfl
@[simp] theorem addAccess_warp_sq (w : Warp) (a : Access) : (w.addAccess a).sq = w.sq := rfl
@[simp] theorem addAccess_warp_dir (w : Warp) (a : Access) : (w.addAccess a).dir = w.dir := rfl
@[simp] theorem addAccess_warp_fences (w : Warp) (a : Access) : (w.addAccess a).fences = w.fences := rfl
@[simp] theorem addAccess_warp_xsw (w : Warp) (a : Access) : (w.addAccess a).xsw = w.xsw := rfl
@[simp] theorem addAccess_warp_park (w : Warp) (a : Access) : (w.addAccess a).park = w.park := rfl
@[simp] theorem addAccess_warp_grants (w : Warp) (a : Access) : (w.addAccess a).grants = w.grants := rfl
@[simp] theorem addAccess_warp_seq (w : Warp) (a : Access) : (w.addAccess a).seq = w.seq := rfl
@[simp] theorem addAccess_warp_lastSlot (w : Warp) (a : Access) : (w.addAccess a).lastSlot = w.lastSlot := rfl
@[simp] theorem addAccess_warp_floor (w : Warp) (a : Access) : (w.addAccess a).floor = w.floor := rfl
@[simp] theorem addAccess_warp_spilled (w : Warp) (a : Access) : (w.addAccess a).spilled = w.spilled := rfl
@[simp] theorem addAccess_warp_tasks (w : Warp) (a : Access) : (w.addAccess a).tasks = w.tasks := rfl

@[simp] theorem addEntry_warp_uid (w : Warp) (e : SqEntry) : (w.addEntry e).uid = w.uid := rfl
@[simp] theorem addEntry_warp_gang (w : Warp) (e : SqEntry) : (w.addEntry e).gang = w.gang := rfl
@[simp] theorem addEntry_warp_ctx (w : Warp) (e : SqEntry) : (w.addEntry e).ctx = w.ctx := rfl
@[simp] theorem addEntry_warp_core (w : Warp) (e : SqEntry) : (w.addEntry e).core = w.core := rfl
@[simp] theorem addEntry_warp_lane (w : Warp) (e : SqEntry) : (w.addEntry e).lane = w.lane := rfl
@[simp] theorem addEntry_warp_wslot (w : Warp) (e : SqEntry) : (w.addEntry e).wslot = w.wslot := rfl
@[simp] theorem addEntry_warp_wn (w : Warp) (e : SqEntry) : (w.addEntry e).wn = w.wn := rfl
@[simp] theorem addEntry_warp_wgid (w : Warp) (e : SqEntry) : (w.addEntry e).wgid = w.wgid := rfl
@[simp] theorem addEntry_warp_v (w : Warp) (e : SqEntry) : (w.addEntry e).v = w.v := rfl
@[simp] theorem addEntry_warp_s (w : Warp) (e : SqEntry) : (w.addEntry e).s = w.s := rfl
@[simp] theorem addEntry_warp_p (w : Warp) (e : SqEntry) : (w.addEntry e).p = w.p := rfl
@[simp] theorem addEntry_warp_fsr (w : Warp) (e : SqEntry) : (w.addEntry e).fsr = w.fsr := rfl
@[simp] theorem addEntry_warp_slots (w : Warp) (e : SqEntry) : (w.addEntry e).slots = w.slots := rfl
@[simp] theorem addEntry_warp_rj (w : Warp) (e : SqEntry) : (w.addEntry e).rj = w.rj := rfl
@[simp] theorem addEntry_warp_depth (w : Warp) (e : SqEntry) : (w.addEntry e).depth = w.depth := rfl
@[simp] theorem addEntry_warp_pend (w : Warp) (e : SqEntry) : (w.addEntry e).pend = w.pend := rfl
@[simp] theorem addEntry_warp_lastIns (w : Warp) (e : SqEntry) : (w.addEntry e).lastIns = w.lastIns := rfl
@[simp] theorem addEntry_warp_bnds (w : Warp) (e : SqEntry) : (w.addEntry e).bnds = w.bnds := rfl
@[simp] theorem addEntry_warp_exited (w : Warp) (e : SqEntry) : (w.addEntry e).exited = w.exited := rfl
@[simp] theorem addEntry_warp_handler (w : Warp) (e : SqEntry) : (w.addEntry e).handler = w.handler := rfl
@[simp] theorem addEntry_warp_trapRegs (w : Warp) (e : SqEntry) : (w.addEntry e).trapRegs = w.trapRegs := rfl
@[simp] theorem addEntry_warp_cb (w : Warp) (e : SqEntry) : (w.addEntry e).cb = w.cb := rfl
@[simp] theorem addEntry_warp_pvbase (w : Warp) (e : SqEntry) : (w.addEntry e).pvbase = w.pvbase := rfl
@[simp] theorem addEntry_warp_psize (w : Warp) (e : SqEntry) : (w.addEntry e).psize = w.psize := rfl
@[simp] theorem addEntry_warp_wtcmp (w : Warp) (e : SqEntry) : (w.addEntry e).wtcmp = w.wtcmp := rfl
@[simp] theorem addEntry_warp_tvec (w : Warp) (e : SqEntry) : (w.addEntry e).tvec = w.tvec := rfl
@[simp] theorem addEntry_warp_tmask (w : Warp) (e : SqEntry) : (w.addEntry e).tmask = w.tmask := rfl
@[simp] theorem addEntry_warp_stop (w : Warp) (e : SqEntry) : (w.addEntry e).stop = w.stop := rfl
@[simp] theorem addEntry_warp_since (w : Warp) (e : SqEntry) : (w.addEntry e).since = w.since := rfl
@[simp] theorem addEntry_warp_wtime0 (w : Warp) (e : SqEntry) : (w.addEntry e).wtime0 = w.wtime0 := rfl
@[simp] theorem addEntry_warp_barW (w : Warp) (e : SqEntry) : (w.addEntry e).barW = w.barW := rfl
@[simp] theorem addEntry_warp_barG (w : Warp) (e : SqEntry) : (w.addEntry e).barG = w.barG := rfl
@[simp] theorem addEntry_warp_barX (w : Warp) (e : SqEntry) : (w.addEntry e).barX = w.barX := rfl
@[simp] theorem addEntry_warp_accs (w : Warp) (e : SqEntry) : (w.addEntry e).accs = w.accs := rfl
@[simp] theorem addEntry_warp_dir (w : Warp) (e : SqEntry) : (w.addEntry e).dir = w.dir := rfl
@[simp] theorem addEntry_warp_fences (w : Warp) (e : SqEntry) : (w.addEntry e).fences = w.fences := rfl
@[simp] theorem addEntry_warp_xsw (w : Warp) (e : SqEntry) : (w.addEntry e).xsw = w.xsw := rfl
@[simp] theorem addEntry_warp_park (w : Warp) (e : SqEntry) : (w.addEntry e).park = w.park := rfl
@[simp] theorem addEntry_warp_grants (w : Warp) (e : SqEntry) : (w.addEntry e).grants = w.grants := rfl
@[simp] theorem addEntry_warp_seq (w : Warp) (e : SqEntry) : (w.addEntry e).seq = w.seq := rfl
@[simp] theorem addEntry_warp_lastSlot (w : Warp) (e : SqEntry) : (w.addEntry e).lastSlot = w.lastSlot := rfl
@[simp] theorem addEntry_warp_floor (w : Warp) (e : SqEntry) : (w.addEntry e).floor = w.floor := rfl
@[simp] theorem addEntry_warp_spilled (w : Warp) (e : SqEntry) : (w.addEntry e).spilled = w.spilled := rfl
@[simp] theorem addEntry_warp_tasks (w : Warp) (e : SqEntry) : (w.addEntry e).tasks = w.tasks := rfl

@[simp] theorem setAccess_warp_uid (w : Warp) (a : Access) : (w.setAccess a).uid = w.uid := rfl
@[simp] theorem setAccess_warp_gang (w : Warp) (a : Access) : (w.setAccess a).gang = w.gang := rfl
@[simp] theorem setAccess_warp_ctx (w : Warp) (a : Access) : (w.setAccess a).ctx = w.ctx := rfl
@[simp] theorem setAccess_warp_core (w : Warp) (a : Access) : (w.setAccess a).core = w.core := rfl
@[simp] theorem setAccess_warp_lane (w : Warp) (a : Access) : (w.setAccess a).lane = w.lane := rfl
@[simp] theorem setAccess_warp_wslot (w : Warp) (a : Access) : (w.setAccess a).wslot = w.wslot := rfl
@[simp] theorem setAccess_warp_wn (w : Warp) (a : Access) : (w.setAccess a).wn = w.wn := rfl
@[simp] theorem setAccess_warp_wgid (w : Warp) (a : Access) : (w.setAccess a).wgid = w.wgid := rfl
@[simp] theorem setAccess_warp_v (w : Warp) (a : Access) : (w.setAccess a).v = w.v := rfl
@[simp] theorem setAccess_warp_s (w : Warp) (a : Access) : (w.setAccess a).s = w.s := rfl
@[simp] theorem setAccess_warp_p (w : Warp) (a : Access) : (w.setAccess a).p = w.p := rfl
@[simp] theorem setAccess_warp_fsr (w : Warp) (a : Access) : (w.setAccess a).fsr = w.fsr := rfl
@[simp] theorem setAccess_warp_slots (w : Warp) (a : Access) : (w.setAccess a).slots = w.slots := rfl
@[simp] theorem setAccess_warp_rj (w : Warp) (a : Access) : (w.setAccess a).rj = w.rj := rfl
@[simp] theorem setAccess_warp_depth (w : Warp) (a : Access) : (w.setAccess a).depth = w.depth := rfl
@[simp] theorem setAccess_warp_pend (w : Warp) (a : Access) : (w.setAccess a).pend = w.pend := rfl
@[simp] theorem setAccess_warp_lastIns (w : Warp) (a : Access) : (w.setAccess a).lastIns = w.lastIns := rfl
@[simp] theorem setAccess_warp_bnds (w : Warp) (a : Access) : (w.setAccess a).bnds = w.bnds := rfl
@[simp] theorem setAccess_warp_exited (w : Warp) (a : Access) : (w.setAccess a).exited = w.exited := rfl
@[simp] theorem setAccess_warp_handler (w : Warp) (a : Access) : (w.setAccess a).handler = w.handler := rfl
@[simp] theorem setAccess_warp_trapRegs (w : Warp) (a : Access) : (w.setAccess a).trapRegs = w.trapRegs := rfl
@[simp] theorem setAccess_warp_cb (w : Warp) (a : Access) : (w.setAccess a).cb = w.cb := rfl
@[simp] theorem setAccess_warp_pvbase (w : Warp) (a : Access) : (w.setAccess a).pvbase = w.pvbase := rfl
@[simp] theorem setAccess_warp_psize (w : Warp) (a : Access) : (w.setAccess a).psize = w.psize := rfl
@[simp] theorem setAccess_warp_wtcmp (w : Warp) (a : Access) : (w.setAccess a).wtcmp = w.wtcmp := rfl
@[simp] theorem setAccess_warp_tvec (w : Warp) (a : Access) : (w.setAccess a).tvec = w.tvec := rfl
@[simp] theorem setAccess_warp_tmask (w : Warp) (a : Access) : (w.setAccess a).tmask = w.tmask := rfl
@[simp] theorem setAccess_warp_stop (w : Warp) (a : Access) : (w.setAccess a).stop = w.stop := rfl
@[simp] theorem setAccess_warp_since (w : Warp) (a : Access) : (w.setAccess a).since = w.since := rfl
@[simp] theorem setAccess_warp_wtime0 (w : Warp) (a : Access) : (w.setAccess a).wtime0 = w.wtime0 := rfl
@[simp] theorem setAccess_warp_barW (w : Warp) (a : Access) : (w.setAccess a).barW = w.barW := rfl
@[simp] theorem setAccess_warp_barG (w : Warp) (a : Access) : (w.setAccess a).barG = w.barG := rfl
@[simp] theorem setAccess_warp_barX (w : Warp) (a : Access) : (w.setAccess a).barX = w.barX := rfl
@[simp] theorem setAccess_warp_sq (w : Warp) (a : Access) : (w.setAccess a).sq = w.sq := rfl
@[simp] theorem setAccess_warp_dir (w : Warp) (a : Access) : (w.setAccess a).dir = w.dir := rfl
@[simp] theorem setAccess_warp_fences (w : Warp) (a : Access) : (w.setAccess a).fences = w.fences := rfl
@[simp] theorem setAccess_warp_xsw (w : Warp) (a : Access) : (w.setAccess a).xsw = w.xsw := rfl
@[simp] theorem setAccess_warp_park (w : Warp) (a : Access) : (w.setAccess a).park = w.park := rfl
@[simp] theorem setAccess_warp_grants (w : Warp) (a : Access) : (w.setAccess a).grants = w.grants := rfl
@[simp] theorem setAccess_warp_seq (w : Warp) (a : Access) : (w.setAccess a).seq = w.seq := rfl
@[simp] theorem setAccess_warp_lastSlot (w : Warp) (a : Access) : (w.setAccess a).lastSlot = w.lastSlot := rfl
@[simp] theorem setAccess_warp_floor (w : Warp) (a : Access) : (w.setAccess a).floor = w.floor := rfl
@[simp] theorem setAccess_warp_spilled (w : Warp) (a : Access) : (w.setAccess a).spilled = w.spilled := rfl
@[simp] theorem setAccess_warp_tasks (w : Warp) (a : Access) : (w.setAccess a).tasks = w.tasks := rfl

@[simp] theorem setEntry_warp_uid (w : Warp) (e : SqEntry) : (w.setEntry e).uid = w.uid := rfl
@[simp] theorem setEntry_warp_gang (w : Warp) (e : SqEntry) : (w.setEntry e).gang = w.gang := rfl
@[simp] theorem setEntry_warp_ctx (w : Warp) (e : SqEntry) : (w.setEntry e).ctx = w.ctx := rfl
@[simp] theorem setEntry_warp_core (w : Warp) (e : SqEntry) : (w.setEntry e).core = w.core := rfl
@[simp] theorem setEntry_warp_lane (w : Warp) (e : SqEntry) : (w.setEntry e).lane = w.lane := rfl
@[simp] theorem setEntry_warp_wslot (w : Warp) (e : SqEntry) : (w.setEntry e).wslot = w.wslot := rfl
@[simp] theorem setEntry_warp_wn (w : Warp) (e : SqEntry) : (w.setEntry e).wn = w.wn := rfl
@[simp] theorem setEntry_warp_wgid (w : Warp) (e : SqEntry) : (w.setEntry e).wgid = w.wgid := rfl
@[simp] theorem setEntry_warp_v (w : Warp) (e : SqEntry) : (w.setEntry e).v = w.v := rfl
@[simp] theorem setEntry_warp_s (w : Warp) (e : SqEntry) : (w.setEntry e).s = w.s := rfl
@[simp] theorem setEntry_warp_p (w : Warp) (e : SqEntry) : (w.setEntry e).p = w.p := rfl
@[simp] theorem setEntry_warp_fsr (w : Warp) (e : SqEntry) : (w.setEntry e).fsr = w.fsr := rfl
@[simp] theorem setEntry_warp_slots (w : Warp) (e : SqEntry) : (w.setEntry e).slots = w.slots := rfl
@[simp] theorem setEntry_warp_rj (w : Warp) (e : SqEntry) : (w.setEntry e).rj = w.rj := rfl
@[simp] theorem setEntry_warp_depth (w : Warp) (e : SqEntry) : (w.setEntry e).depth = w.depth := rfl
@[simp] theorem setEntry_warp_pend (w : Warp) (e : SqEntry) : (w.setEntry e).pend = w.pend := rfl
@[simp] theorem setEntry_warp_lastIns (w : Warp) (e : SqEntry) : (w.setEntry e).lastIns = w.lastIns := rfl
@[simp] theorem setEntry_warp_bnds (w : Warp) (e : SqEntry) : (w.setEntry e).bnds = w.bnds := rfl
@[simp] theorem setEntry_warp_exited (w : Warp) (e : SqEntry) : (w.setEntry e).exited = w.exited := rfl
@[simp] theorem setEntry_warp_handler (w : Warp) (e : SqEntry) : (w.setEntry e).handler = w.handler := rfl
@[simp] theorem setEntry_warp_trapRegs (w : Warp) (e : SqEntry) : (w.setEntry e).trapRegs = w.trapRegs := rfl
@[simp] theorem setEntry_warp_cb (w : Warp) (e : SqEntry) : (w.setEntry e).cb = w.cb := rfl
@[simp] theorem setEntry_warp_pvbase (w : Warp) (e : SqEntry) : (w.setEntry e).pvbase = w.pvbase := rfl
@[simp] theorem setEntry_warp_psize (w : Warp) (e : SqEntry) : (w.setEntry e).psize = w.psize := rfl
@[simp] theorem setEntry_warp_wtcmp (w : Warp) (e : SqEntry) : (w.setEntry e).wtcmp = w.wtcmp := rfl
@[simp] theorem setEntry_warp_tvec (w : Warp) (e : SqEntry) : (w.setEntry e).tvec = w.tvec := rfl
@[simp] theorem setEntry_warp_tmask (w : Warp) (e : SqEntry) : (w.setEntry e).tmask = w.tmask := rfl
@[simp] theorem setEntry_warp_stop (w : Warp) (e : SqEntry) : (w.setEntry e).stop = w.stop := rfl
@[simp] theorem setEntry_warp_since (w : Warp) (e : SqEntry) : (w.setEntry e).since = w.since := rfl
@[simp] theorem setEntry_warp_wtime0 (w : Warp) (e : SqEntry) : (w.setEntry e).wtime0 = w.wtime0 := rfl
@[simp] theorem setEntry_warp_barW (w : Warp) (e : SqEntry) : (w.setEntry e).barW = w.barW := rfl
@[simp] theorem setEntry_warp_barG (w : Warp) (e : SqEntry) : (w.setEntry e).barG = w.barG := rfl
@[simp] theorem setEntry_warp_barX (w : Warp) (e : SqEntry) : (w.setEntry e).barX = w.barX := rfl
@[simp] theorem setEntry_warp_accs (w : Warp) (e : SqEntry) : (w.setEntry e).accs = w.accs := rfl
@[simp] theorem setEntry_warp_dir (w : Warp) (e : SqEntry) : (w.setEntry e).dir = w.dir := rfl
@[simp] theorem setEntry_warp_fences (w : Warp) (e : SqEntry) : (w.setEntry e).fences = w.fences := rfl
@[simp] theorem setEntry_warp_xsw (w : Warp) (e : SqEntry) : (w.setEntry e).xsw = w.xsw := rfl
@[simp] theorem setEntry_warp_park (w : Warp) (e : SqEntry) : (w.setEntry e).park = w.park := rfl
@[simp] theorem setEntry_warp_grants (w : Warp) (e : SqEntry) : (w.setEntry e).grants = w.grants := rfl
@[simp] theorem setEntry_warp_seq (w : Warp) (e : SqEntry) : (w.setEntry e).seq = w.seq := rfl
@[simp] theorem setEntry_warp_lastSlot (w : Warp) (e : SqEntry) : (w.setEntry e).lastSlot = w.lastSlot := rfl
@[simp] theorem setEntry_warp_floor (w : Warp) (e : SqEntry) : (w.setEntry e).floor = w.floor := rfl
@[simp] theorem setEntry_warp_spilled (w : Warp) (e : SqEntry) : (w.setEntry e).spilled = w.spilled := rfl
@[simp] theorem setEntry_warp_tasks (w : Warp) (e : SqEntry) : (w.setEntry e).tasks = w.tasks := rfl

@[simp] theorem dropAccess_warp_uid (w : Warp) (n : Nat) : (w.dropAccess n).uid = w.uid := rfl
@[simp] theorem dropAccess_warp_gang (w : Warp) (n : Nat) : (w.dropAccess n).gang = w.gang := rfl
@[simp] theorem dropAccess_warp_ctx (w : Warp) (n : Nat) : (w.dropAccess n).ctx = w.ctx := rfl
@[simp] theorem dropAccess_warp_core (w : Warp) (n : Nat) : (w.dropAccess n).core = w.core := rfl
@[simp] theorem dropAccess_warp_lane (w : Warp) (n : Nat) : (w.dropAccess n).lane = w.lane := rfl
@[simp] theorem dropAccess_warp_wslot (w : Warp) (n : Nat) : (w.dropAccess n).wslot = w.wslot := rfl
@[simp] theorem dropAccess_warp_wn (w : Warp) (n : Nat) : (w.dropAccess n).wn = w.wn := rfl
@[simp] theorem dropAccess_warp_wgid (w : Warp) (n : Nat) : (w.dropAccess n).wgid = w.wgid := rfl
@[simp] theorem dropAccess_warp_v (w : Warp) (n : Nat) : (w.dropAccess n).v = w.v := rfl
@[simp] theorem dropAccess_warp_s (w : Warp) (n : Nat) : (w.dropAccess n).s = w.s := rfl
@[simp] theorem dropAccess_warp_p (w : Warp) (n : Nat) : (w.dropAccess n).p = w.p := rfl
@[simp] theorem dropAccess_warp_fsr (w : Warp) (n : Nat) : (w.dropAccess n).fsr = w.fsr := rfl
@[simp] theorem dropAccess_warp_slots (w : Warp) (n : Nat) : (w.dropAccess n).slots = w.slots := rfl
@[simp] theorem dropAccess_warp_rj (w : Warp) (n : Nat) : (w.dropAccess n).rj = w.rj := rfl
@[simp] theorem dropAccess_warp_depth (w : Warp) (n : Nat) : (w.dropAccess n).depth = w.depth := rfl
@[simp] theorem dropAccess_warp_pend (w : Warp) (n : Nat) : (w.dropAccess n).pend = w.pend := rfl
@[simp] theorem dropAccess_warp_lastIns (w : Warp) (n : Nat) : (w.dropAccess n).lastIns = w.lastIns := rfl
@[simp] theorem dropAccess_warp_bnds (w : Warp) (n : Nat) : (w.dropAccess n).bnds = w.bnds := rfl
@[simp] theorem dropAccess_warp_exited (w : Warp) (n : Nat) : (w.dropAccess n).exited = w.exited := rfl
@[simp] theorem dropAccess_warp_handler (w : Warp) (n : Nat) : (w.dropAccess n).handler = w.handler := rfl
@[simp] theorem dropAccess_warp_trapRegs (w : Warp) (n : Nat) : (w.dropAccess n).trapRegs = w.trapRegs := rfl
@[simp] theorem dropAccess_warp_cb (w : Warp) (n : Nat) : (w.dropAccess n).cb = w.cb := rfl
@[simp] theorem dropAccess_warp_pvbase (w : Warp) (n : Nat) : (w.dropAccess n).pvbase = w.pvbase := rfl
@[simp] theorem dropAccess_warp_psize (w : Warp) (n : Nat) : (w.dropAccess n).psize = w.psize := rfl
@[simp] theorem dropAccess_warp_wtcmp (w : Warp) (n : Nat) : (w.dropAccess n).wtcmp = w.wtcmp := rfl
@[simp] theorem dropAccess_warp_tvec (w : Warp) (n : Nat) : (w.dropAccess n).tvec = w.tvec := rfl
@[simp] theorem dropAccess_warp_tmask (w : Warp) (n : Nat) : (w.dropAccess n).tmask = w.tmask := rfl
@[simp] theorem dropAccess_warp_stop (w : Warp) (n : Nat) : (w.dropAccess n).stop = w.stop := rfl
@[simp] theorem dropAccess_warp_since (w : Warp) (n : Nat) : (w.dropAccess n).since = w.since := rfl
@[simp] theorem dropAccess_warp_wtime0 (w : Warp) (n : Nat) : (w.dropAccess n).wtime0 = w.wtime0 := rfl
@[simp] theorem dropAccess_warp_barW (w : Warp) (n : Nat) : (w.dropAccess n).barW = w.barW := rfl
@[simp] theorem dropAccess_warp_barG (w : Warp) (n : Nat) : (w.dropAccess n).barG = w.barG := rfl
@[simp] theorem dropAccess_warp_barX (w : Warp) (n : Nat) : (w.dropAccess n).barX = w.barX := rfl
@[simp] theorem dropAccess_warp_sq (w : Warp) (n : Nat) : (w.dropAccess n).sq = w.sq := rfl
@[simp] theorem dropAccess_warp_dir (w : Warp) (n : Nat) : (w.dropAccess n).dir = w.dir := rfl
@[simp] theorem dropAccess_warp_fences (w : Warp) (n : Nat) : (w.dropAccess n).fences = w.fences := rfl
@[simp] theorem dropAccess_warp_xsw (w : Warp) (n : Nat) : (w.dropAccess n).xsw = w.xsw := rfl
@[simp] theorem dropAccess_warp_park (w : Warp) (n : Nat) : (w.dropAccess n).park = w.park := rfl
@[simp] theorem dropAccess_warp_grants (w : Warp) (n : Nat) : (w.dropAccess n).grants = w.grants := rfl
@[simp] theorem dropAccess_warp_seq (w : Warp) (n : Nat) : (w.dropAccess n).seq = w.seq := rfl
@[simp] theorem dropAccess_warp_lastSlot (w : Warp) (n : Nat) : (w.dropAccess n).lastSlot = w.lastSlot := rfl
@[simp] theorem dropAccess_warp_floor (w : Warp) (n : Nat) : (w.dropAccess n).floor = w.floor := rfl
@[simp] theorem dropAccess_warp_spilled (w : Warp) (n : Nat) : (w.dropAccess n).spilled = w.spilled := rfl
@[simp] theorem dropAccess_warp_tasks (w : Warp) (n : Nat) : (w.dropAccess n).tasks = w.tasks := rfl

@[simp] theorem writeS_warp_uid (w : Warp) (k : Nat) (v : Word) : (w.writeS k v).uid = w.uid := rfl
@[simp] theorem writeS_warp_gang (w : Warp) (k : Nat) (v : Word) : (w.writeS k v).gang = w.gang := rfl
@[simp] theorem writeS_warp_ctx (w : Warp) (k : Nat) (v : Word) : (w.writeS k v).ctx = w.ctx := rfl
@[simp] theorem writeS_warp_core (w : Warp) (k : Nat) (v : Word) : (w.writeS k v).core = w.core := rfl
@[simp] theorem writeS_warp_lane (w : Warp) (k : Nat) (v : Word) : (w.writeS k v).lane = w.lane := rfl
@[simp] theorem writeS_warp_wslot (w : Warp) (k : Nat) (v : Word) : (w.writeS k v).wslot = w.wslot := rfl
@[simp] theorem writeS_warp_wn (w : Warp) (k : Nat) (v : Word) : (w.writeS k v).wn = w.wn := rfl
@[simp] theorem writeS_warp_wgid (w : Warp) (k : Nat) (v : Word) : (w.writeS k v).wgid = w.wgid := rfl
@[simp] theorem writeS_warp_v (w : Warp) (k : Nat) (v : Word) : (w.writeS k v).v = w.v := rfl
@[simp] theorem writeS_warp_p (w : Warp) (k : Nat) (v : Word) : (w.writeS k v).p = w.p := rfl
@[simp] theorem writeS_warp_fsr (w : Warp) (k : Nat) (v : Word) : (w.writeS k v).fsr = w.fsr := rfl
@[simp] theorem writeS_warp_slots (w : Warp) (k : Nat) (v : Word) : (w.writeS k v).slots = w.slots := rfl
@[simp] theorem writeS_warp_rj (w : Warp) (k : Nat) (v : Word) : (w.writeS k v).rj = w.rj := rfl
@[simp] theorem writeS_warp_depth (w : Warp) (k : Nat) (v : Word) : (w.writeS k v).depth = w.depth := rfl
@[simp] theorem writeS_warp_pend (w : Warp) (k : Nat) (v : Word) : (w.writeS k v).pend = w.pend := rfl
@[simp] theorem writeS_warp_lastIns (w : Warp) (k : Nat) (v : Word) : (w.writeS k v).lastIns = w.lastIns := rfl
@[simp] theorem writeS_warp_bnds (w : Warp) (k : Nat) (v : Word) : (w.writeS k v).bnds = w.bnds := rfl
@[simp] theorem writeS_warp_exited (w : Warp) (k : Nat) (v : Word) : (w.writeS k v).exited = w.exited := rfl
@[simp] theorem writeS_warp_handler (w : Warp) (k : Nat) (v : Word) : (w.writeS k v).handler = w.handler := rfl
@[simp] theorem writeS_warp_trapRegs (w : Warp) (k : Nat) (v : Word) : (w.writeS k v).trapRegs = w.trapRegs := rfl
@[simp] theorem writeS_warp_cb (w : Warp) (k : Nat) (v : Word) : (w.writeS k v).cb = w.cb := rfl
@[simp] theorem writeS_warp_pvbase (w : Warp) (k : Nat) (v : Word) : (w.writeS k v).pvbase = w.pvbase := rfl
@[simp] theorem writeS_warp_psize (w : Warp) (k : Nat) (v : Word) : (w.writeS k v).psize = w.psize := rfl
@[simp] theorem writeS_warp_wtcmp (w : Warp) (k : Nat) (v : Word) : (w.writeS k v).wtcmp = w.wtcmp := rfl
@[simp] theorem writeS_warp_tvec (w : Warp) (k : Nat) (v : Word) : (w.writeS k v).tvec = w.tvec := rfl
@[simp] theorem writeS_warp_tmask (w : Warp) (k : Nat) (v : Word) : (w.writeS k v).tmask = w.tmask := rfl
@[simp] theorem writeS_warp_stop (w : Warp) (k : Nat) (v : Word) : (w.writeS k v).stop = w.stop := rfl
@[simp] theorem writeS_warp_since (w : Warp) (k : Nat) (v : Word) : (w.writeS k v).since = w.since := rfl
@[simp] theorem writeS_warp_wtime0 (w : Warp) (k : Nat) (v : Word) : (w.writeS k v).wtime0 = w.wtime0 := rfl
@[simp] theorem writeS_warp_barW (w : Warp) (k : Nat) (v : Word) : (w.writeS k v).barW = w.barW := rfl
@[simp] theorem writeS_warp_barG (w : Warp) (k : Nat) (v : Word) : (w.writeS k v).barG = w.barG := rfl
@[simp] theorem writeS_warp_barX (w : Warp) (k : Nat) (v : Word) : (w.writeS k v).barX = w.barX := rfl
@[simp] theorem writeS_warp_sq (w : Warp) (k : Nat) (v : Word) : (w.writeS k v).sq = w.sq := rfl
@[simp] theorem writeS_warp_accs (w : Warp) (k : Nat) (v : Word) : (w.writeS k v).accs = w.accs := rfl
@[simp] theorem writeS_warp_dir (w : Warp) (k : Nat) (v : Word) : (w.writeS k v).dir = w.dir := rfl
@[simp] theorem writeS_warp_fences (w : Warp) (k : Nat) (v : Word) : (w.writeS k v).fences = w.fences := rfl
@[simp] theorem writeS_warp_xsw (w : Warp) (k : Nat) (v : Word) : (w.writeS k v).xsw = w.xsw := rfl
@[simp] theorem writeS_warp_park (w : Warp) (k : Nat) (v : Word) : (w.writeS k v).park = w.park := rfl
@[simp] theorem writeS_warp_grants (w : Warp) (k : Nat) (v : Word) : (w.writeS k v).grants = w.grants := rfl
@[simp] theorem writeS_warp_seq (w : Warp) (k : Nat) (v : Word) : (w.writeS k v).seq = w.seq := rfl
@[simp] theorem writeS_warp_lastSlot (w : Warp) (k : Nat) (v : Word) : (w.writeS k v).lastSlot = w.lastSlot := rfl
@[simp] theorem writeS_warp_floor (w : Warp) (k : Nat) (v : Word) : (w.writeS k v).floor = w.floor := rfl
@[simp] theorem writeS_warp_spilled (w : Warp) (k : Nat) (v : Word) : (w.writeS k v).spilled = w.spilled := rfl
@[simp] theorem writeS_warp_tasks (w : Warp) (k : Nat) (v : Word) : (w.writeS k v).tasks = w.tasks := rfl

@[simp] theorem free_warp_uid (w : Warp) (k : Nat) : (w.free k).uid = w.uid := rfl
@[simp] theorem free_warp_gang (w : Warp) (k : Nat) : (w.free k).gang = w.gang := rfl
@[simp] theorem free_warp_ctx (w : Warp) (k : Nat) : (w.free k).ctx = w.ctx := rfl
@[simp] theorem free_warp_core (w : Warp) (k : Nat) : (w.free k).core = w.core := rfl
@[simp] theorem free_warp_lane (w : Warp) (k : Nat) : (w.free k).lane = w.lane := rfl
@[simp] theorem free_warp_wslot (w : Warp) (k : Nat) : (w.free k).wslot = w.wslot := rfl
@[simp] theorem free_warp_wn (w : Warp) (k : Nat) : (w.free k).wn = w.wn := rfl
@[simp] theorem free_warp_wgid (w : Warp) (k : Nat) : (w.free k).wgid = w.wgid := rfl
@[simp] theorem free_warp_s (w : Warp) (k : Nat) : (w.free k).s = w.s := rfl
@[simp] theorem free_warp_p (w : Warp) (k : Nat) : (w.free k).p = w.p := rfl
@[simp] theorem free_warp_fsr (w : Warp) (k : Nat) : (w.free k).fsr = w.fsr := rfl
@[simp] theorem free_warp_slots (w : Warp) (k : Nat) : (w.free k).slots = w.slots := rfl
@[simp] theorem free_warp_rj (w : Warp) (k : Nat) : (w.free k).rj = w.rj := rfl
@[simp] theorem free_warp_depth (w : Warp) (k : Nat) : (w.free k).depth = w.depth := rfl
@[simp] theorem free_warp_pend (w : Warp) (k : Nat) : (w.free k).pend = w.pend := rfl
@[simp] theorem free_warp_lastIns (w : Warp) (k : Nat) : (w.free k).lastIns = w.lastIns := rfl
@[simp] theorem free_warp_bnds (w : Warp) (k : Nat) : (w.free k).bnds = w.bnds := rfl
@[simp] theorem free_warp_exited (w : Warp) (k : Nat) : (w.free k).exited = w.exited := rfl
@[simp] theorem free_warp_handler (w : Warp) (k : Nat) : (w.free k).handler = w.handler := rfl
@[simp] theorem free_warp_trapRegs (w : Warp) (k : Nat) : (w.free k).trapRegs = w.trapRegs := rfl
@[simp] theorem free_warp_cb (w : Warp) (k : Nat) : (w.free k).cb = w.cb := rfl
@[simp] theorem free_warp_pvbase (w : Warp) (k : Nat) : (w.free k).pvbase = w.pvbase := rfl
@[simp] theorem free_warp_psize (w : Warp) (k : Nat) : (w.free k).psize = w.psize := rfl
@[simp] theorem free_warp_wtcmp (w : Warp) (k : Nat) : (w.free k).wtcmp = w.wtcmp := rfl
@[simp] theorem free_warp_tvec (w : Warp) (k : Nat) : (w.free k).tvec = w.tvec := rfl
@[simp] theorem free_warp_tmask (w : Warp) (k : Nat) : (w.free k).tmask = w.tmask := rfl
@[simp] theorem free_warp_stop (w : Warp) (k : Nat) : (w.free k).stop = w.stop := rfl
@[simp] theorem free_warp_since (w : Warp) (k : Nat) : (w.free k).since = w.since := rfl
@[simp] theorem free_warp_wtime0 (w : Warp) (k : Nat) : (w.free k).wtime0 = w.wtime0 := rfl
@[simp] theorem free_warp_barW (w : Warp) (k : Nat) : (w.free k).barW = w.barW := rfl
@[simp] theorem free_warp_barG (w : Warp) (k : Nat) : (w.free k).barG = w.barG := rfl
@[simp] theorem free_warp_barX (w : Warp) (k : Nat) : (w.free k).barX = w.barX := rfl
@[simp] theorem free_warp_sq (w : Warp) (k : Nat) : (w.free k).sq = w.sq := rfl
@[simp] theorem free_warp_accs (w : Warp) (k : Nat) : (w.free k).accs = w.accs := rfl
@[simp] theorem free_warp_dir (w : Warp) (k : Nat) : (w.free k).dir = w.dir := rfl
@[simp] theorem free_warp_fences (w : Warp) (k : Nat) : (w.free k).fences = w.fences := rfl
@[simp] theorem free_warp_xsw (w : Warp) (k : Nat) : (w.free k).xsw = w.xsw := rfl
@[simp] theorem free_warp_park (w : Warp) (k : Nat) : (w.free k).park = w.park := rfl
@[simp] theorem free_warp_grants (w : Warp) (k : Nat) : (w.free k).grants = w.grants := rfl
@[simp] theorem free_warp_seq (w : Warp) (k : Nat) : (w.free k).seq = w.seq := rfl
@[simp] theorem free_warp_lastSlot (w : Warp) (k : Nat) : (w.free k).lastSlot = w.lastSlot := rfl
@[simp] theorem free_warp_floor (w : Warp) (k : Nat) : (w.free k).floor = w.floor := rfl
@[simp] theorem free_warp_spilled (w : Warp) (k : Nat) : (w.free k).spilled = w.spilled := rfl
@[simp] theorem free_warp_tasks (w : Warp) (k : Nat) : (w.free k).tasks = w.tasks := rfl

@[simp] theorem await_warp_uid (w : Warp) (k : Nat) (x : Wait) : (w.await k x).uid = w.uid := rfl
@[simp] theorem await_warp_gang (w : Warp) (k : Nat) (x : Wait) : (w.await k x).gang = w.gang := rfl
@[simp] theorem await_warp_ctx (w : Warp) (k : Nat) (x : Wait) : (w.await k x).ctx = w.ctx := rfl
@[simp] theorem await_warp_core (w : Warp) (k : Nat) (x : Wait) : (w.await k x).core = w.core := rfl
@[simp] theorem await_warp_lane (w : Warp) (k : Nat) (x : Wait) : (w.await k x).lane = w.lane := rfl
@[simp] theorem await_warp_wslot (w : Warp) (k : Nat) (x : Wait) : (w.await k x).wslot = w.wslot := rfl
@[simp] theorem await_warp_wn (w : Warp) (k : Nat) (x : Wait) : (w.await k x).wn = w.wn := rfl
@[simp] theorem await_warp_wgid (w : Warp) (k : Nat) (x : Wait) : (w.await k x).wgid = w.wgid := rfl
@[simp] theorem await_warp_v (w : Warp) (k : Nat) (x : Wait) : (w.await k x).v = w.v := rfl
@[simp] theorem await_warp_s (w : Warp) (k : Nat) (x : Wait) : (w.await k x).s = w.s := rfl
@[simp] theorem await_warp_p (w : Warp) (k : Nat) (x : Wait) : (w.await k x).p = w.p := rfl
@[simp] theorem await_warp_fsr (w : Warp) (k : Nat) (x : Wait) : (w.await k x).fsr = w.fsr := rfl
@[simp] theorem await_warp_rj (w : Warp) (k : Nat) (x : Wait) : (w.await k x).rj = w.rj := rfl
@[simp] theorem await_warp_depth (w : Warp) (k : Nat) (x : Wait) : (w.await k x).depth = w.depth := rfl
@[simp] theorem await_warp_pend (w : Warp) (k : Nat) (x : Wait) : (w.await k x).pend = w.pend := rfl
@[simp] theorem await_warp_lastIns (w : Warp) (k : Nat) (x : Wait) : (w.await k x).lastIns = w.lastIns := rfl
@[simp] theorem await_warp_bnds (w : Warp) (k : Nat) (x : Wait) : (w.await k x).bnds = w.bnds := rfl
@[simp] theorem await_warp_exited (w : Warp) (k : Nat) (x : Wait) : (w.await k x).exited = w.exited := rfl
@[simp] theorem await_warp_handler (w : Warp) (k : Nat) (x : Wait) : (w.await k x).handler = w.handler := rfl
@[simp] theorem await_warp_trapRegs (w : Warp) (k : Nat) (x : Wait) : (w.await k x).trapRegs = w.trapRegs := rfl
@[simp] theorem await_warp_cb (w : Warp) (k : Nat) (x : Wait) : (w.await k x).cb = w.cb := rfl
@[simp] theorem await_warp_pvbase (w : Warp) (k : Nat) (x : Wait) : (w.await k x).pvbase = w.pvbase := rfl
@[simp] theorem await_warp_psize (w : Warp) (k : Nat) (x : Wait) : (w.await k x).psize = w.psize := rfl
@[simp] theorem await_warp_wtcmp (w : Warp) (k : Nat) (x : Wait) : (w.await k x).wtcmp = w.wtcmp := rfl
@[simp] theorem await_warp_tvec (w : Warp) (k : Nat) (x : Wait) : (w.await k x).tvec = w.tvec := rfl
@[simp] theorem await_warp_tmask (w : Warp) (k : Nat) (x : Wait) : (w.await k x).tmask = w.tmask := rfl
@[simp] theorem await_warp_stop (w : Warp) (k : Nat) (x : Wait) : (w.await k x).stop = w.stop := rfl
@[simp] theorem await_warp_since (w : Warp) (k : Nat) (x : Wait) : (w.await k x).since = w.since := rfl
@[simp] theorem await_warp_wtime0 (w : Warp) (k : Nat) (x : Wait) : (w.await k x).wtime0 = w.wtime0 := rfl
@[simp] theorem await_warp_barW (w : Warp) (k : Nat) (x : Wait) : (w.await k x).barW = w.barW := rfl
@[simp] theorem await_warp_barG (w : Warp) (k : Nat) (x : Wait) : (w.await k x).barG = w.barG := rfl
@[simp] theorem await_warp_barX (w : Warp) (k : Nat) (x : Wait) : (w.await k x).barX = w.barX := rfl
@[simp] theorem await_warp_sq (w : Warp) (k : Nat) (x : Wait) : (w.await k x).sq = w.sq := rfl
@[simp] theorem await_warp_accs (w : Warp) (k : Nat) (x : Wait) : (w.await k x).accs = w.accs := rfl
@[simp] theorem await_warp_dir (w : Warp) (k : Nat) (x : Wait) : (w.await k x).dir = w.dir := rfl
@[simp] theorem await_warp_fences (w : Warp) (k : Nat) (x : Wait) : (w.await k x).fences = w.fences := rfl
@[simp] theorem await_warp_xsw (w : Warp) (k : Nat) (x : Wait) : (w.await k x).xsw = w.xsw := rfl
@[simp] theorem await_warp_park (w : Warp) (k : Nat) (x : Wait) : (w.await k x).park = w.park := rfl
@[simp] theorem await_warp_grants (w : Warp) (k : Nat) (x : Wait) : (w.await k x).grants = w.grants := rfl
@[simp] theorem await_warp_seq (w : Warp) (k : Nat) (x : Wait) : (w.await k x).seq = w.seq := rfl
@[simp] theorem await_warp_lastSlot (w : Warp) (k : Nat) (x : Wait) : (w.await k x).lastSlot = w.lastSlot := rfl
@[simp] theorem await_warp_floor (w : Warp) (k : Nat) (x : Wait) : (w.await k x).floor = w.floor := rfl
@[simp] theorem await_warp_spilled (w : Warp) (k : Nat) (x : Wait) : (w.await k x).spilled = w.spilled := rfl
@[simp] theorem await_warp_tasks (w : Warp) (k : Nat) (x : Wait) : (w.await k x).tasks = w.tasks := rfl

end Sys2Proof.Machine
end

