-- ==== Sys2Proof/Tests/Slice0.lean ====
section
/-! SUPPORT. Tests on small states, and for every statement a state and operands that meet its hypotheses. -/

set_option maxRecDepth 100000

namespace Sys2Proof.Tests

open Machine Claims

/-- No extension word. -/
abbrev p : Hdr := Hdr.plain
/-- A kind-00 word that changes nothing. -/
abbrev e0 : E0 := { gp := 0, gn := false, rm := 0, sat := false, ftz := false, ts := 0, scope := 0 }
/-- Header with a kind-00 word, with a kind-01 word, with both. -/
abbrev h0 (e : E0) : Hdr := { p with e0 := some e }
abbrev h1 (v : BitVec 22) : Hdr := { p with e1 := some v }
/-- A kind-10 word that marks nothing. -/
abbrev e2 : E2 := { la := false, lb := false, lt := false, xe1 := false, xr1 := 0, xe2 := false, xr2 := 0 }

/-! Well-formed instructions: one term that each check refuses, beside one that it takes. -/

/-- The first of a pair is well-formed, the second is refused. -/
def takes (l : List (Instr × Instr)) : Bool := l.all fun x => wellFormed x.1 && !wellFormed x.2

/-- R65: a field of the kind-00 word that the form does not take (mode, `.SAT`, `.FTZ`, TS, scope). -/
theorem test_wf_kind00 : takes [
    (.fadd (h0 { e0 with rm := 1 }) 6 4 8, .iaddS32 (h0 { e0 with rm := 1 }) 6 4 8),
    (.iaddS32 (h0 { e0 with sat := true }) 6 4 8, .and (h0 { e0 with sat := true }) 6 4 8),
    (.fadd (h0 { e0 with ftz := true }) 6 4 8, .and (h0 { e0 with ftz := true }) 6 4 8),
    (.ffma (h0 { e0 with ts := 9 }) 6 4 8, .fadd (h0 { e0 with ts := 9 }) 6 4 8),
    (.fence (h0 { e0 with scope := 5 }) 0 2 0, .fence (h0 { e0 with scope := 6 }) 0 2 0)] = true := by decide
/-- R64, R73: a kind-01 word where none may stand, and none where one must; R89: a bit of IH that is not used. -/
theorem test_wf_kind01 : takes [
    (.iaddImm (h1 5) 6 4 8, .iaddS32 (h1 5) 6 4 8), (.lop3 (h1 0x96) 6 4 8, .lop3 p 6 4 8),
    (.lop3 (h1 0xFF) 6 4 8, .lop3 (h1 0x100) 6 4 8), (.cinv (h1 4) 0 4 0, .cinv (h1 4) 0 0 2)] = true := by decide
/-- R67: a mark on no register source, and an extra mark on a register that is not read. -/
theorem test_wf_kind10 : takes [
    (.iaddS32 { p with e2 := some { e2 with la := true } } 6 4 8, .movi { p with e2 := some { e2 with la := true } } 6 0 8),
    (.iaddS32 { p with e2 := some { e2 with lb := true } } 6 4 8, .mov { p with e2 := some { e2 with lb := true } } 6 4 0),
    (.ffma { h0 e0 with e2 := some { e2 with lt := true } } 6 4 8, .ffma { p with e2 := some { e2 with lt := true } } 6 4 8),
    (.mov { p with e2 := some { e2 with xe1 := true, xr1 := 4 } } 6 4 0,
      .mov { p with e2 := some { e2 with xe1 := true, xr1 := 5 } } 6 4 0)] = true := by decide
/-- R72: a field that is not used; R14: a pair at an odd register, a quad off 4; R62: a register in the wrong space; R324: a
reserved size; R95: a reserved code. -/
theorem test_wf_fields : takes [
    (.mov p 6 4 0, .mov p 6 4 1), (.add64 p 6 4 8, .add64 p 7 4 8), (.ldB128 p 8 4 8, .ldB128 p 6 4 8),
    (.mxstat p 64 3 0, .mxstat p 6 3 0), (.mxrd p 8 4 0x23, .mxrd p 8 4 0x43), (.ldB32 p 6 4 0x10, .ldB32 p 6 4 0x18),
    (.rjenr p 0 7 0, .rjenr p 0 8 0)] = true := by decide
/-- R63: a warp-scalar form that reads v-space, or that carries a guard. -/
theorem test_wf_scalar : takes [
    (.iaddS32 p 70 65 66, .iaddS32 p 70 65 8), (.iaddS32 (h0 { e0 with gp := 3 }) 6 4 8, .iaddS32 (h0 { e0 with gp := 3 }) 70 65 66)] = true := by
  decide
/-- R69, R104, R170: a form that takes no guard, and one that takes no C. -/
theorem test_wf_chain : takes [
    (.iaddS32 { p with c := true } 6 4 8, .exit { p with c := true } 0 0 0), (.bra p 5, .bra { p with c := true } 5),
    (.iaddS32 (h0 { e0 with gp := 3 }) 6 4 8, .bar (h0 { e0 with gp := 3 }) 0 3 1)] = true := by decide
/-- R122, R125, R189, R190, R248, R260, R288, R323, R74: what single forms ask for. -/
theorem test_wf_own : takes [
    (.cvt p 6 4 0x22, .cvt p 6 4 0x3FF), (.pack p 6 4 8, .pack p 6 4 0), (.unpk p 6 4 4, .unpk p 6 4 3),
    (.rdsr p 6 0 0x19, .rdsr p 6 0 0x1A), (.wrsr p 0 70 0x17, .wrsr p 0 70 0x12), (.ldDir (h1 9) 6 4 0, .ldDir (h1 6) 6 4 0),
    (.pref p 0 4 1, .pref p 0 4 2), (.cpy (h1 4) 6 4 8, .cpy (h1 7) 6 4 8), (.mxown p 0 70 1, .mxown p 0 70 0),
    (.patch p 2 0, .patch p 3 0)] = true := by decide
/-- Steps of other agents have no encoding. -/
theorem test_wf_events : wellFormed (.l1Fill 0) = false ∧ wellFormed (.deviceReset 0) = false := by decide

/-! Decoding. -/

/-- Each word is read as its instruction. -/
def reads (l : List (Nat × Instr)) : Bool := l.all fun x => decodeTableWord 32 x.1 == some x.2

/-- Words written out from the layouts of R61 and the opcode table of the spec: the integer family. -/
theorem test_decode_integer_0 : reads [
    (0b0_0_000001_0000110_0000100_0001000_000, .iaddS32 p 6 4 8),
    (0b0_0_000001_0000001_0000010_0000011_011, .isubN32 p 1 2 3),
    (0b0_0_000010_0000101_0000101_1000110_010, .imul p 5 5 70),
    (0b0_0_000011_0000111_1000001_0001001_000, .and p 7 65 9),
    (0b0_0_000011_0000111_0000001_0001001_110, .sar p 7 1 9)] = true := by decide
theorem test_decode_integer_1 : reads [
    (0b0_0_000100_0000110_0000100_0001000_001, .bfxN32 p 6 4 8),
    (0b0_0_000100_0000110_0000100_0000000_011, .popc p 6 4 0),
    (0b0_0_000111_0000110_0000100_1111111111, .iaddImm p 6 4 0x3FF),
    (0b0_0_001000_0000110_0000100_0000000111, .imulImm p 6 4 7),
    (0b0_0_001001_0000110_0000100_0101010101, .andImm p 6 4 0x155)] = true := by decide
theorem test_decode_integer_2 : reads [
    (0b0_0_001010_0000110_0000100_0000000001, .orImm p 6 4 1),
    (0b0_0_001011_0000110_0000100_0000000001, .xorImm p 6 4 1),
    (0b0_0_001100_0000110_0000100_0000011111, .shlImm p 6 4 31),
    (0b0_0_001101_0000110_0000100_0000011111, .shrImm p 6 4 31),
    (0b0_0_001110_0000110_0000100_0000100001, .sarImm p 6 4 33)] = true := by decide

/-- Words written out from the layouts of R61 and the opcode table of the spec: the moves family. -/
theorem test_decode_moves_0 : reads [
    (0b0_0_000101_0000110_0000100_0000000_000, .mov p 6 4 0),
    (0b0_0_000101_0000110_0000100_0001000_010, .add64 p 6 4 8),
    (0b0_0_000110_0000110_0000000_1000000000, .movi p 6 0 0x200),
    (0b0_0_011100_0000011_0000100_0001000_000, .icmpEq p 3 4 8),
    (0b0_0_011100_0000011_0000100_0001000_100, .icmpLtN32 p 3 4 8)] = true := by decide
theorem test_decode_moves_1 : reads [
    (0b0_0_011111_0000011_0000100_0000000_001, .pmov p 3 4 0)] = true := by decide

/-- Words written out from the layouts of R61 and the opcode table of the spec: the float family. -/
theorem test_decode_float_0 : reads [
    (0b0_0_010000_0000110_0000100_0001000_000, .fadd p 6 4 8),
    (0b0_0_010000_0000110_0000100_0001000_011, .fmin p 6 4 8),
    (0b0_0_010001_0000110_0000100_0000000_000, .frcp p 6 4 0),
    (0b0_0_010010_0000110_0000100_0001000_000, .dadd p 6 4 8),
    (0b0_0_010011_0000110_0000100_0001000_001, .hmul2 p 6 4 8)] = true := by decide
theorem test_decode_float_1 : reads [
    (0b0_0_010100_0000110_0000100_0000100010, .cvt p 6 4 0x22),
    (0b0_0_010101_0000110_0000100_0000001000, .pack p 6 4 8),
    (0b0_0_010110_0000110_0000100_0000000100, .unpk p 6 4 4),
    (0b0_0_010111_0000110_0000100_0001000_100, .dp4S8 p 6 4 8),
    (0b0_0_011000_0000110_0000100_0001000_010, .dp8N4 p 6 4 8)] = true := by decide
theorem test_decode_float_2 : reads [
    (0b0_0_011001_0000110_0000100_0001000_000, .fsclF32 p 6 4 8),
    (0b0_0_011101_0000011_0000100_0001000_010, .fcmpLt p 3 4 8),
    (0b0_0_011110_0000011_0000100_0001000_000, .fcmpEqF64 p 3 4 8)] = true := by decide

/-- Words written out from the layouts of R61 and the opcode table of the spec: the control family. -/
theorem test_decode_control_0 : reads [
    (0b0_0_100000_111111111111111111111110, .bra p 0xFFFFFE),
    (0b0_0_100001_000000000000000000000101, .call p 5),
    (0b0_0_100010_0000000_0000101_0000000_000, .brx p 0 5 0),
    (0b0_0_100010_0000000_0000000_0000000_011, .exit p 0 0 0),
    (0b0_0_100010_0000000_0000000_0000000_100, .nop p 0 0 0)] = true := by decide
theorem test_decode_control_1 : reads [
    (0b0_0_100011_0000000_0000111_0000000_000, .rjenr p 0 7 0),
    (0b0_0_100011_0000000_0000011_0000000_001, .rjpark p 0 3 0)] = true := by decide

/-- Words written out from the layouts of R61 and the opcode table of the spec: the cross family. -/
theorem test_decode_cross_0 : reads [
    (0b0_0_101000_0000110_0000100_0001000_000, .shflPick p 6 4 8),
    (0b0_0_101000_0000011_0000100_0000000_101, .voteSome p 3 4 0),
    (0b0_0_101001_0000110_0000100_0000000_000, .reduxSum p 6 4 0),
    (0b0_0_101010_0000110_0000100_0000000_000, .matchPeers p 6 4 0),
    (0b0_0_101010_0000000_0000011_0000001_011, .bar p 0 3 1)] = true := by decide
theorem test_decode_cross_1 : reads [
    (0b0_0_101010_0000000_0000000_0000000_110, .yield p 0 0 0),
    (0b0_0_101010_0000110_0000100_0001000_111, .lnch p 6 4 8),
    (0b0_0_101011_0000110_0000000_0000010000, .rdsr p 6 0 0x010),
    (0b0_0_101011_0000000_1000101_1000011000, .wrsr p 0 69 0x218)] = true := by decide

/-- Words written out from the layouts of R61 and the opcode table of the spec: the memory family. -/
theorem test_decode_memory_0 : reads [
    (0b0_0_101100_0000110_0000100_0001000_101, .ldB64 p 6 4 8),
    (0b0_0_101101_0001100_0001010_0000000_010, .stB32 p 12 10 0),
    (0b0_0_101110_0000110_0000100_0000000_000, .atomAddB32 p 6 4 0),
    (0b0_0_101111_0000110_0000100_0000000_000, .atomExchB32 p 6 4 0),
    (0b0_0_110000_0000110_0000100_0000000_101, .redAddF32 p 6 4 0)] = true := by decide
theorem test_decode_memory_1 : reads [
    (0b0_0_110011_0000110_0000100_0000000_100, .redXorB32 p 6 4 0),
    (0b0_0_110001_0000000_0000010_0000000_000, .fence p 0 2 0),
    (0b0_0_110001_0000000_0000100_0000001_011, .pref p 0 4 1),
    (0b0_0_110001_1000110_1000010_1000111_100, .probe p 70 66 71),
    (0b0_0_110010_0000000_0000000_0000000_001, .fenceXp p 0 0 0)] = true := by decide

/-- Words written out from the layouts of R61 and the opcode table of the spec: the engines family. -/
theorem test_decode_engines_0 : reads [
    (0b0_0_110100_0000000_0000011_0000000_000, .mxacq p 0 3 0),
    (0b0_0_110100_0001000_0000100_0100011_101, .mxrd p 8 4 35),
    (0b0_0_110101_1000000_0000011_0000000_000, .mxstat p 64 3 0),
    (0b0_0_111000_0000010_1000010_0000001_000, .qdopen p 2 66 1),
    (0b0_0_111000_0000010_0000000_0000000_101, .qdclose p 2 0 0)] = true := by decide
theorem test_decode_engines_1 : reads [
    (0b0_0_111010_0000011_0000100_0001000_001, .qypush p 3 4 8),
    (0b0_0_111010_0000000_0000011_0000000_011, .qydone p 0 3 0)] = true := by decide

/-- Words written out from the layouts of R61 and the opcode table of the spec: the traps family. -/
theorem test_decode_traps_0 : reads [
    (0b0_0_111100_0000000_0001001_0000000_000, .trap p 0 9 0),
    (0b0_0_111100_0000000_0000001_0000000_001, .rett p 0 1 0),
    (0b0_0_111100_0000000_0000000_0000000_010, .region p 0 0 0),
    (0b0_0_111100_0000110_0000100_0000000_101, .vrdx p 6 4 0),
    (0b0_0_111101_100000010010001101000101, .patch p 2 0x12345)] = true := by decide
/-! Small states. -/

/-- A warp of 32 threads at its page's start, whose registers read 0. -/
def wt : Warp := newWarp 0 (loadGang 1) loadRec loadCtx 0 0 0 0 0
/-- Its slot 0 issues the packet's first word, alone. -/
def ci : Issue :=
  { uid := 0, slot := 0, pkt := 0x8000, npc := 0x8004, wslot := 0, word := 0x10000000, snap := none, flags := [], trap := none,
    marker := false, bound := false }
/-- The state with that warp, its gang, and what issues. -/
def st (w : Warp) : State :=
  { State.reset with warps := [w], issue := some ci, disp := { State.reset.disp with gangs := [loadGang 1], nextUid := 2 } }

/-- A word issues in `st w`. -/
theorem issuing {w : Warp} (hu : w.uid = 0) (hs : w.sized = true) (chain : Bool) (hc : chain = true ∨ w.calm 0 = true) :
    Issuing (st w) ci w chain :=
  ⟨rfl, by simp [State.warp?, st, hu, ci], hs, hc, rfl⟩

/-- The same warp with every flag's trap enabled. -/
def wtf : Warp := { wt with tmask := 31 }
/-- What the forms that compute ask for, alone and in a chain: the word issues, an even register, no flag trapped, or one. -/
def canCompute : Prop :=
  Issuing (st wt) ci wt false ∧ Issuing (st wt) ci wt true ∧ (6 : BitVec 7).toNat % 2 = 0 ∧ (62 : BitVec 7).toNat % 2 = 0 ∧
    (noFlagTrap (ci.src wt) (parts ci wt p) fun _ => 31) ∧
    Issuing (st wtf) ci wtf false ∧ Issuing (st wtf) ci wtf true ∧ ¬noFlagTrap (ci.src wtf) (parts ci wtf p) fun _ => 1
theorem can_compute : canCompute :=
  ⟨issuing rfl (by decide) _ (.inr (by decide)), issuing rfl (by decide) _ (.inl rfl), rfl, rfl,
    .inr fun _ _ => (by decide : Nat.land 31 (ci.src wt).enables = 0),
    issuing rfl (by decide) _ (.inr (by decide)), issuing rfl (by decide) _ (.inl rfl), fun h => h.elim (fun h => by cases h)
      fun h => absurd (h 0 (by decide)) (by decide : Nat.land 1 (ci.src wtf).enables ≠ 0)⟩

theorem hyps_IntegerArithmetic : canCompute := can_compute
theorem hyps_LogicShiftsBitfields : canCompute := can_compute
theorem hyps_MovesAndAddresses : canCompute := can_compute
theorem hyps_IntegerCompares : canCompute := can_compute
theorem hyps_FloatArithmeticCompletes : canCompute := can_compute
theorem hyps_FloatCompares : canCompute := can_compute
theorem hyps_DotProducts : canCompute ∧ Fp.e4m3.width ≤ 8 ∧ Fp.e2m1.width ≤ 4 := ⟨can_compute, by decide, by decide⟩

theorem hyps_VotesReductionsMatches : canCompute := can_compute

/-- 1 + -1, 1 × 0, NaN, opposite infinities, infinity times zero. -/
theorem hyps_SumsAndProductsAreExact :
    (finQ (operand .fp32 false 0x3F800000)).isSome = true ∧ (finQ (operand .fp32 true 0xBF800000)).isSome = true ∧
    (finQ (operand .fp64 false 0)).isSome = true ∧ (operand .fp16 true 0x7E00).isNan ∧ (operand .bf16 false 0x7F81).isNan ∧
    operand .fp32 false 0x7F800000 = .inf false ∧ operand .fp32 false 0xFF800000 = .inf !false ∧
    (operand .fp32 false 0x7F800000).isInf ∧ (operand .fp32 true 1).isZero := by decide
/-- 2^24 + 1 is no value of FP32, and does not overflow under any mode; 2^24 + 3/2 stands behind it with a sticky bit; 1 is a value. -/
theorem hyps_RoundingIsToTheGrid : (0x1000001 : Nat) ≠ 0 ∧
    ([Rm.rn, .rz, .ru, .rd].all fun m => !(roundTo .fp32 m false false (.num true 0x1000001 0 false)).2.testBit 2) = true ∧
    StandsFor .fp32 (.num true 0x1000001 0 false) (dyadic true 0x1000001 0) ∧ dyadic true 0x1000001 0 ≠ 0 ∧
    StandsFor .fp32 (.num false 0x1000001 0 true) (0x1000001 + 1 / 2) ∧ ((0x1000001 : ℚ) + 1 / 2) ≠ 0 ∧
    ∃ c, finQ (Fp.fp32.decode c) = some (dyadic false 0x800000 (-23)) := by
  refine ⟨by decide, by decide, ⟨by decide, rfl⟩, by norm_num [dyadic], ⟨by norm_num, by norm_num, by norm_num, ?_⟩, by norm_num,
    0x3F800000, congrArg finQ (by decide : Fp.fp32.decode 0x3F800000 = .fin false 0x800000 (-23))⟩
  have : (24 : Int) ≤ Int.log 2 |(0x1000001 : ℚ) + 1 / 2| :=
    (Int.zpow_le_iff_le_log (by norm_num) (by norm_num)).1 (by norm_num)
  simp only [gridExp, Fp.f, Fp.bias]
  omega

/-- The forms complete; 0.5, an infinity, both kinds of NaN. -/
theorem hyps_FloatMinMaxClassRound : canCompute ∧ (finQ (operand .fp32 false 0x3F000000)).isSome = true ∧
    (operand .fp32 false 0xFF800000).isInf ∧ (operand .fp32 true 0x7FC00000).isNan ∧ (operand .fp32 true 0x7F800001).isNan :=
  ⟨can_compute, by decide⟩
/-- The forms complete; both kinds of NaN; -1. -/
theorem hyps_RootsAndTranscendentals : canCompute ∧ isNaN .fp32 0x7FC00000 ∧ isNaN .fp32 0xFF800001 ∧
    (0xBF800000 : Word).msb = true ∧ ∃ x, finQ (operand .fp32 false 0xBF800000) = some x ∧ x < 0 :=
  ⟨can_compute, by decide, by decide, by decide, dyadic true 0x800000 (-23),
    congrArg finQ (by decide : operand .fp32 false 0xBF800000 = .fin true 0x800000 (-23)), by norm_num [dyadic]⟩
/-- 1 and the least normal number, whose reciprocals do not overflow; that of the least subnormal does. -/
theorem hyps_RootsBracketTheExactValue : (∃ x, finQ (Fp.fp32.decode 0x3F800000) = some x ∧ x ≠ 0 ∧ 0 < x) ∧
    (fpRcp false 0x3F800000).2.testBit 2 = false ∧ (fpRcp false 0x00800000).2.testBit 2 = false ∧
    (∃ x, finQ (Fp.fp32.decode 1) = some x ∧ x ≠ 0) ∧ (fpRcp false 1).2.testBit 2 = true :=
  ⟨⟨dyadic false 0x800000 (-23), congrArg finQ (by decide : Fp.fp32.decode 0x3F800000 = .fin false 0x800000 (-23)),
    by norm_num [dyadic], by norm_num [dyadic]⟩, by decide, by decide,
    ⟨dyadic false 1 (-149), congrArg finQ (by decide : Fp.fp32.decode 1 = .fin false 1 (-149)), by norm_num [dyadic]⟩, by decide⟩

/-- 1, 3/2, 128, 2^21 and their values. -/
theorem hyps_TranscendentalBounds :
    [0x3F800000, 0x3FC00000, 0x43000000, 0x4A000000].map (fun c => finQ (Fp.fp32.decode c)) =
      [some 1, some (3 / 2), some 128, some (2 ^ 21)] ∧
    (fpExp2 false 0x3F800000).2.testBit 2 = false ∧ (∀ n : Int, (3 / 2 : ℚ) ≠ n) ∧ (∀ n : Int, (3 / 2 : ℚ) ≠ 2 ^ n) := by
  refine ⟨?_, by decide, fun n h => ?_, fun n h => ?_⟩
  · have e : [0x3F800000, 0x3FC00000, 0x43000000, 0x4A000000].map (fun c => Fp.fp32.decode c) =
        [.fin false 0x800000 (-23), .fin false 0xC00000 (-23), .fin false 0x800000 (-16), .fin false 0x800000 (-2)] := by decide
    have := congrArg (List.map finQ) e
    rw [List.map_map] at this
    exact this.trans (by norm_num [finQ, dyadic])
  · have : (3 : ℚ) = ((2 * n : Int) : ℚ) := by push_cast; linarith
    have : (3 : Int) = 2 * n := by exact_mod_cast this
    omega
  · have h1 : n < 1 := (zpow_lt_zpow_iff_right₀ (by norm_num : (1 : ℚ) < 2)).1 (by rw [← h]; norm_num)
    have h2 : 0 < n := (zpow_lt_zpow_iff_right₀ (by norm_num : (1 : ℚ) < 2)).1 (by rw [← h]; norm_num)
    omega

/-- FP32 to S32, FP64 to N64; 0, 1, a subnormal under `.FTZ`, NaN, the infinities; E2M1's escape and a code that is none; an integer 0
and one that is not. -/
theorem hyps_Conversions : canCompute ∧ (numFmt ((0x036 : BitVec 10).toNat % 32) = some (.int true 32) ∧
    numFmt ((0x036 : BitVec 10).toNat / 32) = some (.fp .fp32) ∧ numFmt ((0x019 : BitVec 10).toNat % 32) = some (.int false 64) ∧
    (4 ∈ [4, 8, 16, 32, 64] ∧ 64 ∈ [4, 8, 16, 32, 64]) ∧ ¬(Fp.fp32 = .e2m1 ∧ 0x3F800000 % 16 = 8) ∧
    ¬(Fp.e2m1 = .e2m1 ∧ 7 % 16 = 8) ∧ 0x38 % 16 = 8 ∧ (Fp.fp32.decode 0x7FC00000).isNan ∧ Fp.fp32.decode 0xFF800000 = .inf true ∧
    Fp.fp32.decode 0x7F800000 = .inf false ∧ (finQ (Fp.fp32.decode 0x4F000000)).isSome = true ∧ magOf .fp32 true 1 = 0 ∧
    (BitVec.ofNat 8 0x80).toInt ≠ 0 ∧ (BitVec.ofNat 4 16).toNat = 0) ∧
    finQ (Fp.fp32.decode 0) = some 0 ∧ ∃ v, v ≠ 0 ∧ finQ (Fp.fp32.decode 0x3F800000) = some v :=
  ⟨can_compute, by and_intros <;> decide, (congrArg finQ (by decide : Fp.fp32.decode 0 = .fin false 0 (-149))).trans
      (by norm_num [finQ, dyadic]),
    dyadic false 0x800000 (-23), by norm_num [dyadic], congrArg finQ (by decide : Fp.fp32.decode 0x3F800000 = .fin false 0x800000 (-23))⟩

/-! Transfers, rejoin registers, blocks. -/

/-- The warp with threads 0 to 15 in slot 0, none in slot 1. -/
def half : Warp := wt.setSlot 0 { wt.slot 0 with mask := 0xFFFF }
/-- Guarded by p1, which only thread 0 holds. -/
def g1 : Hdr := h0 { e0 with gp := 1 }
def wg : Warp := { wt with p := wt.p.set 0 1 }

/-- No target is bad; all threads go to one packet; the guarded thread goes one way and the others on, and slot 1 is free; an
unaligned target traps. -/
theorem hyps_ControlTransfers :
    Issuing (st wt) ci wt false ∧ (∀ t, t < 32 → has (parts ci wt p) t = true → notPacket 4 (ci.src wt) t = false) ∧
    ((ci.src wt).slot ci.slot).mask ≠ 0 ∧ (∀ t, t < 32 → cbPlus 4 ci wt t = 0x8000) ∧
    Issuing (st wg) ci wg false ∧ parts ci wg g1 = 1 ∧ lowest (1 : Mask) = lowest (wg.slot 0).mask ∧
    (1 : Mask) &&& (wg.slot 0).mask = 1 ∧ (1 : Mask) ≠ (wg.slot 0).mask ∧ wg.slotFree (1 - ci.slot) = true ∧
    (∀ t, t < 32 → (if has (parts ci wg g1) t then (0x8018 : DWord) else ci.npc) = if has 1 t then 0x8018 else 0x8004) ∧
    (let w := { wt with s := List.replicate 63 (5 : Word) }
     Issuing (st w) ci w false ∧ has (parts ci w p) 3 = true ∧ notPacket 64 (ci.src w) 3 = true) := by
  and_intros <;> first | decide | exact issuing rfl (by decide) _ (by decide)

/-- Some threads stay; all end with the other slot holding threads; all end. -/
theorem hyps_ExitEndsThreads :
    Issuing (st wg) ci wg false ∧ (wg.slot 0).mask &&& ~~~parts ci wg g1 ≠ 0 ∧
    (∀ r ∈ wg.rj, ¬(r.ar ≠ 0 ∧ r.en &&& ~~~r.ar = 0)) ∧
    (let w := half.setSlot 1 { half.slot 0 with mask := 0xFFFF0000 }
     Issuing (st w) ci w false ∧ (w.slot 0).mask &&& ~~~parts ci w p = 0 ∧ w.handler = none ∧ w.depth = 0 ∧
       (w.slot (1 - ci.slot)).mask ≠ 0) ∧
    Issuing (st wt) ci wt false ∧ (wt.slot 0).mask &&& ~~~parts ci wt p = 0 ∧ wt.handler = none ∧ wt.depth = 0 ∧
    wt.slotFree (1 - ci.slot) = true ∧ wt.exited ||| parts ci wt p = BitVec.allOnes 32 ∧ ∀ r ∈ wt.rj, r.ar = 0 := by
  and_intros <;> first | decide | exact issuing rfl (by decide) _ (by decide)

/-- A warp whose rejoin register 7 has `en` enrolled and `ar` arrived. -/
def rj (w : Warp) (en ar : Mask) : Warp := { w with rj := w.rj.set 7 ⟨en, ar, 0x8018⟩ }
theorem hyps_RejoinRegisters :
    -- striking one that leaves none arrived; one that leaves some to come
    Issuing (st (rj wg 3 1)) ci (rj wg 3 1) false ∧ (1 : Mask) &&& ~~~parts ci (rj wg 3 1) g1 = 0 ∧
    Issuing (st (rj wg 7 2)) ci (rj wg 7 2) true ∧ (7 : Mask) &&& ~~~parts ci (rj wg 7 2) g1 &&& ~~~((2 : Mask) &&& ~~~1) ≠ 0 ∧
    -- parking: some stay; all park and the other slot holds threads
    (wg.slot 0).mask &&& ~~~(parts ci (rj wg 3 0) g1 &&& 3) ≠ 0 ∧ (3 : Mask) &&& ~~~1 ≠ 0 ∧
    (let w := rj (half.setSlot 1 { half.slot 0 with mask := 0xFFFF0000 }) 0xFFFFFFFF 0
     Issuing (st w) ci w false ∧ (w.slot 0).mask &&& ~~~(parts ci w p &&& 0xFFFFFFFF) = 0 ∧ w.handler = none ∧ w.depth = 0 ∧
       (w.slot (1 - ci.slot)).mask ≠ 0 ∧ (0xFFFFFFFF : Mask) &&& ~~~0xFFFF ≠ 0) ∧
    -- the last to be struck, the last to park
    (2 : Mask) &&& ~~~parts ci (rj wg 3 2) g1 ≠ 0 ∧ (3 : Mask) &&& ~~~1 &&& ~~~(2 &&& ~~~1) = 0 ∧ (rj wg 3 2).slotFree (1 - ci.slot) = true ∧
    (let w := rj half 0xFFFFFFFF 0xFFFF0000
     Issuing (st w) ci w false ∧ (w.slot 0).mask &&& ~~~(parts ci w p &&& 0xFFFFFFFF) = 0 ∧ parts ci w p &&& 0xFFFFFFFF ≠ 0 ∧
       (0xFFFFFFFF : Mask) &&& ~~~(0xFFFF0000 ||| (parts ci w p &&& 0xFFFFFFFF)) = 0 ∧ w.handler = none ∧ w.depth = 0 ∧
       (w.slot ci.slot).wait = none ∧ ci.slot = 0) ∧ (7 : BitVec 7).toNat < 8 := by
  and_intros <;> first | decide | exact issuing rfl (by decide) _ (by decide)

theorem hyps_ShuffleForms : canCompute ∧ (63 : BitVec 7).toNat < 64 := ⟨can_compute, by decide⟩
/-- Blocks of zero codes are well-formed; one whose header has a reserved bit is not; values with and without a NaN, an outlier limit. -/
theorem hyps_BlockPackingAndUnpacking : canCompute ∧ (6 : BitVec 7).toNat < 64 ∧ (∀ t, t < 32 → blockBad 4 (ci.src wt) 4 t = false) ∧
    parts ci wt p ≠ 0 ∧ (Fp.e2m1 ∈ [Fp.e4m3, .e5m2, .e3m2, .e2m3, .e2m1] ∧ (7 : Nat) ≤ 7 ∧ (Fv.nan false).isNan = true ∧
      (∀ x ∈ [Fv.inf true, .fin false 3 0], x.isNan = false) ∧ 0x0FFF < 2 ^ 16) ∧
    ∃ t, t < 32 ∧ (t % blockLen 4 == 0 && blockBad 4 { wt with s := List.replicate 63 (0xFFFFFFFF : Word) } 64 t) = true :=
  ⟨can_compute, by decide, by decide, by decide, by decide, 0, by decide⟩

/-! System registers, barriers, exchanges. -/

/-- Guarded by p2, which no thread holds: no participant. -/
def g2 : Hdr := h0 { e0 with gp := 2 }
/-- The warp whose every s-register holds `v`. -/
def ws (v : Word) : Warp := { wt with s := List.replicate 63 v }
/-- The word issues alone in a warp that has not changed its uid. -/
theorem alone {w : Warp} (hu : w.uid = 0) (hs : w.sized = true) (hc : w.calm 0 = true) : Issuing (st w) ci w false :=
  issuing hu hs _ (.inr hc)

/-- Every listed code, in a register that holds a pair; a WRSR with no participant; of each register; of a tvec that is no packet
start. -/
theorem hyps_SystemRegisters : canCompute ∧ (0 : BitVec 10).toNat % 512 = 0 ∧ (0x19 : BitVec 10).toNat % 512 = 0x19 ∧
    (∀ x ∈ sysTable (st wt) wt, (BitVec.ofNat 10 x.1).toNat % 512 = x.1 ∧ (6 : BitVec 7).toNat % 2 = 0) ∧
    parts ci wg g2 = 0 ∧ Issuing (st wg) ci wg false ∧
    ([0x15, 0x17, 0x18, 0x19].all fun k => (wrote (ci.src wt) (parts ci wt p) 64 k wt).isSome) = true ∧ parts ci wt p ≠ 0 ∧
    Issuing (st (ws 13)) ci (ws 13) false ∧ parts ci (ws 13) p ≠ 0 ∧
    (reg (ci.src (ws 13)) 64 ((lowest (parts ci (ws 13) p)).getD 0)).toNat % 12 ≠ 0 := ⟨can_compute, by and_intros <;> first | decide | exact alone rfl (by decide) (by decide)⟩

/-- Indices of a register, an s-register, a predicate; one beyond; the same in every thread. -/
theorem hyps_IndexedRegisters : canCompute ∧ (6 : BitVec 7).toNat < 64 ∧
    Issuing (st (ws 5)) ci (ws 5) false ∧ (∀ t, t < 32 → decide (256 ≤ (reg (ci.src (ws 5)) 64 t).toNat) = false) ∧
    (reg (ws 5) 64 0).toNat % 128 = 5 ∧ (reg (ws 69) 64 31).toNat % 128 = 69 ∧ (reg (ws 131) 64 0).toNat.testBit 7 = true ∧
    Issuing (st (ws 69)) ci (ws 69) false ∧ Issuing (st (ws 131)) ci (ws 131) false ∧
    Issuing (st (ws 256)) ci (ws 256) false ∧ has (parts ci (ws 256) p) 0 = true ∧
    decide (256 ≤ (reg (ci.src (ws 256)) 64 0).toNat) = true := ⟨can_compute, by and_intros <;> first | decide | exact alone rfl (by decide) (by decide)⟩

/-- The warp whose threads `m` have arrived at barrier 15 of scope `sc`. -/
def came (sc : Nat) (m : Mask) : Warp := withArrivals wt sc 15 m
/-- No arrival, one that waits, all of a warp, of a gang; one missing; none at all. -/
theorem hyps_Barriers : Issuing (st wt) ci wt false ∧ (wt.slot ci.slot).mask &&& arrivals wt 2 15 = 0 ∧
    Issuing (st (came 1 1)) ci (came 1 1) false ∧ ((came 1 1).slot ci.slot).mask &&& arrivals (came 1 1) 1 15 ≠ 0 ∧
    ((st wt).warp? 0).isSome = true ∧
    ([0, 1, 2].all fun sc => (st (came sc 0xFFFFFFFF)).warps.all fun x => decide (~~~x.exited &&& ~~~arrivals x sc 15 = 0) &&
      decide (arrivals x sc 15 ≠ 0)) = true ∧
    ((st (came 2 1)).warps.all fun x => decide (~~~x.exited &&& ~~~arrivals x 2 15 ≠ 0)) = true ∧
    ((st wt).warps.all fun x => decide (arrivals x 0 15 = 0)) = true := by
  and_intros <;> first | decide | exact alone rfl (by decide) (by decide)

/-- Participants and none; a warp that a marker parks with nothing outstanding but a store; one of 256 grants. -/
theorem hyps_AgeOrder : Issuing (st wt) ci wt false ∧ parts ci wt p ≠ 0 ∧ Issuing (st wg) ci wg false ∧ parts ci wg g2 = 0 ∧
    (let w := { wt with park := { wt.park with marker := true }
                        sq := [newEntry (st wt) ci wt .store .glob 0 1 [] true] }
     (st w).warp? 0 = some w ∧ w.park.marker = true ∧ (∀ a ∈ w.accs, a.dst = [] ∧ a.pdst = []) ∧ ∀ e ∈ w.sq, e.kind = .store) ∧
    (let w := { wt with grants := 256 }
     (st w).warp? 0 = some w ∧ 256 ≤ w.grants) := by
  and_intros <;> first | decide | exact alone rfl (by decide) (by decide)

/-- Warp 1 in cluster 1 of the same die, in context `ctx`. -/
def w2 (ctx : Nat) : Warp := { newWarp 1 (loadGang 3) loadRec loadCtx 4 0 0 0 0 with ctx }
def st2 (w x : Warp) : State := { st w with warps := [w, x] }
/-- An exchange that names a warp. -/
def xr (id partner d : Nat) : XswRec :=
  { id, slot := 0, partner, d, pq := some 3, parts := 0xF, vals := List.replicate 32 7 }
/-- No participant; a partner of the same context, of another; no such warp; the warp's own cluster; two that name each other. -/
theorem hyps_Exchanges : parts ci wg g2 = 0 ∧
    Issuing (st2 (ws 512) (w2 0)) ci (ws 512) false ∧ parts ci (ws 512) p ≠ 0 ∧ (reg (ci.src (ws 512)) 64 0).toNat < 2 ^ 14 ∧
    (reg (ci.src (ws 512)) 64 0).toNat / 512 ≠ (ws 512).core / 4 % 32 ∧
    ((st2 (ws 512) (w2 0)).warps.find? fun x => decide (x.die = (ws 512).die ∧ x.xid = 512)).map (·.ctx) = some (ws 512).ctx ∧
    ((st2 (ws 512) (w2 9)).warps.find? fun x => decide (x.die = (ws 512).die ∧ x.xid = 512)).map (·.ctx) = some 9 ∧
    ((st (ws 512)).warps.find? fun x => decide (x.die = (ws 512).die ∧ x.xid = 512)) = none ∧
    Issuing (st wt) ci wt false ∧ ¬((reg (ci.src wt) 4 0).toNat < 2 ^ 14 ∧ (reg (ci.src wt) 4 0).toNat / 512 ≠ wt.core / 4 % 32) ∧
    (let a := { wt with xsw := some (xr 5 1 6) }
     let b := { w2 0 with xsw := some (xr 6 0 62) }
     (st2 a b).warp? 0 = some a ∧ (st2 a b).warp? 1 = some b ∧ a.sized = true ∧ b.sized = true ∧ (xr 5 1 6).partner = 1 ∧
     (xr 6 0 62).partner = 0 ∧ (xr 5 1 6).d < 63 ∧ (xr 6 0 62).d < 63 ∧ (a.accs = [] ∧ a.sq = [] ∧ b.accs = [] ∧ b.sq = []) ∧
     (xr 5 1 6).pq = some 3 ∧ (xr 6 0 62).pq = some 3) := by
  and_intros <;> first | decide | exact ⟨rfl, rfl, by decide, .inr (by decide), rfl⟩

/-! Memory forms. -/

/-- The gang with a copy queue, accumulator tiles, scratchpad tile 3 and name 2 for accumulator tile 5. -/
def tg : Gang := { loadGang 1 with tiles := [[3]], lrec := { loadRec with copyq := 1, atiles := 1 }, names := [(2, 5)] }
/-- Accumulator tile 5 is held; core 0's engine owns the tiles `own`. -/
def sg (w : Warp) (own : List Nat) : State :=
  { st w with
    disp := { (st w).disp with gangs := [tg] }
    cores := [(0, { Core.empty with engine := own })]
    clusters := [(0, { Cluster.empty with mx := { Matrix.empty with tiles := [(5, { MxTile.new 0 with held := true })] } })] }
theorem issuing_sg {w : Warp} (own : List Nat) (hu : w.uid = 0) (hs : w.sized = true) (hc : w.calm 0 = true) :
    Issuing (sg w own) ci w false :=
  ⟨rfl, by simp [State.warp?, sg, st, hu, ci], hs, .inr hc, rfl⟩

/-- What the memory forms ask for, of `size` bytes, stored to or not: no participant; no check fails, in each space; a misaligned
address; an offset beyond the allocation; a tile that the engine owns. -/
def accessCases (size : Nat) (write : Bool) : Prop :=
  Issuing (sg wg []) ci wg false ∧ parts ci wg g2 = 0 ∧ Issuing (sg wt []) ci wt false ∧ parts ci wt p ≠ 0 ∧
  ([0, 32].all fun b => (threads (parts ci wt p)).all fun t =>
    decide (adrOf p 4 (BitVec.ofNat 7 b) ci wt t % size = 0) && !outside (sg wt []) wt (BitVec.ofNat 7 b) size write 0 &&
      !engineOwned (sg wt []) wt (BitVec.ofNat 7 b) 0) = true ∧
  Issuing (sg (ws 1) []) ci (ws 1) false ∧ (size ≠ 1 → ∃ t ∈ threads (parts ci (ws 1) p), decide (adrOf p 64 0 ci (ws 1) t % size ≠ 0) = true) ∧
  outside (sg wt []) wt 32 size write 4096 = true ∧ outside (sg wt []) wt 64 size write 0 = true ∧
  adrOf p 64 32 ci (ws 4096) 0 = 4096 ∧ Issuing (sg (ws 4096) []) ci (ws 4096) false ∧
  Issuing (sg wt [3]) ci wt false ∧ engineOwned (sg wt [3]) wt 32 0 = true
theorem access_cases (size : Nat) (write : Bool) (h : size ∈ [1, 2, 4, 8, 16]) : accessCases size write := by
  refine ⟨issuing_sg [] rfl (by decide) (by decide), by decide, issuing_sg [] rfl (by decide) (by decide), by decide, ?_,
    issuing_sg [] rfl (by decide) (by decide), ?_, ?_, ?_, by decide, issuing_sg [] rfl (by decide) (by decide),
    issuing_sg [3] rfl (by decide) (by decide), by decide⟩ <;>
  · simp only [List.mem_cons, List.not_mem_nil, or_false] at h
    rcases h with rfl | rfl | rfl | rfl | rfl <;> cases write <;> decide

theorem hyps_LoadsAndStoresAtIssue : (∀ size ∈ [1, 2, 4, 8, 16], accessCases size false) ∧ ∀ size ∈ [1, 2, 4, 8, 16], accessCases size true :=
  ⟨fun n h => access_cases n _ h, fun n h => access_cases n _ h⟩

theorem hyps_AtomicsAtIssue : ∀ size ∈ [4, 8, 16], accessCases size true :=
  fun n h => access_cases n _ (by simp at h ⊢; omega)
theorem hyps_PlacesOfBytes : (16 ∈ [1, 2, 4, 8, 16]) ∧ (4080 : Int) % (16 : Nat) = 0 ∧ (15 : Nat) < 16 ∧ (List.replicate 16 (0 : Byte)).length = 16 := by
  decide
theorem hyps_AtomicValues : 4 ∈ [4, 8, 16] ∧ (0xFFFFFFFF : Nat) < 2 ^ (8 * 4) ∧ 16 ∈ [4, 8, 16] ∧ (2 ^ 128 - 1 : Nat) < 2 ^ (8 * 16) := by decide
/-- Participants at 0; none; a misaligned address. -/
theorem hyps_DirectAccessesAtIssue : Issuing (st wt) ci wt false ∧ parts ci wt p ≠ 0 ∧
    (∀ t, t < 32 → (pair (ci.src wt) 4 t).toNat % 32 = 0) ∧ parts ci wg g2 = 0 ∧ Issuing (st (ws 1)) ci (ws 1) false ∧
    has (parts ci (ws 1) p) 0 = true ∧ (pair (ci.src (ws 1)) 64 0).toNat % 4 ≠ 0 := by
  and_intros <;> first | decide | exact alone rfl (by decide) (by decide)
theorem hyps_FencesAndMaintenanceAtIssue : Issuing (st wt) ci wt false ∧ parts ci wt p ≠ 0 ∧ Issuing (st wg) ci wg false ∧
    parts ci wg g2 = 0 := by
  and_intros <;> first | decide | exact alone rfl (by decide) (by decide)
/-- An empty range, one that ends at the top, one beyond it. -/
theorem hyps_ProbeAndUnpinAtIssue : Issuing (st wt) ci wt false ∧ (reg (ci.src wt) 4 0).toNat = 0 ∧
    (let w := { ws 0xFFFFFFFF with v := wt.v.set 4 (.uniform 1) }
     Issuing (st w) ci w false ∧ (reg (ci.src w) 4 0).toNat ≠ 0 ∧ (pair (ci.src w) 64 0).toNat + (reg (ci.src w) 4 0).toNat ≤ 2 ^ 64) ∧
    Issuing (st (ws 0xFFFFFFFF)) ci (ws 0xFFFFFFFF) false ∧ (reg (ci.src (ws 0xFFFFFFFF)) 66 0).toNat ≠ 0 ∧
    2 ^ 64 < (pair (ci.src (ws 0xFFFFFFFF)) 64 0).toNat + (reg (ci.src (ws 0xFFFFFFFF)) 66 0).toNat := by
  and_intros <;> first | decide | exact alone rfl (by decide) (by decide)
/-- A record at 0, one that is misaligned; a copy queue and no participant; a copy within the allocation, one of a misaligned side, one
beyond the allocation, one into an engine's tile; no queue. -/
theorem hyps_LaunchesAndCopiesAtIssue : Issuing (st wt) ci wt false ∧ parts ci wt p ≠ 0 ∧
    (∀ t ∈ threads (parts ci wt p), (pair (ci.src wt) 4 t).toNat % 64 = 0) ∧ parts ci wg g2 = 0 ∧
    Issuing (st (ws 32)) ci (ws 32) false ∧ (∃ t ∈ threads (parts ci (ws 32) p), (pair (ci.src (ws 32)) 64 t).toNat % 64 ≠ 0) ∧
    Issuing (sg wt []) ci wt false ∧
    (((sg wt []).disp.gangs.find? fun g => g.uid == wt.gang).map fun g => g.lrec.copyq) = some 1 ∧
    (sg wt []).tilesOf wt wt.wgid = [3] ∧ ((sg wt []).core wt.core).engine.contains 3 = false ∧ (reg (ci.src wt) 4 0).toNat = 0 ∧
    tilePlace [3] 0 = 4096 * 3 ∧ Issuing (sg (ws 1) []) ci (ws 1) false ∧ (reg (ci.src (ws 1)) 64 0).toNat % 4 ≠ 0 ∧
    Issuing (sg (ws 4096) []) ci (ws 4096) false ∧ 4096 * 1 < (reg (ci.src (ws 4096)) 64 0).toNat + 4 ∧
    Issuing (sg wt [3]) ci wt false ∧ ((sg wt [3]).core wt.core).engine.contains (tilePlace [3] 0 / 4096) = true ∧
    (((st wt).disp.gangs.find? fun g => g.uid == wt.gang).map fun g => g.lrec.copyq) = some 0 := by
  and_intros <;> first | decide | exact alone rfl (by decide) (by decide) | exact issuing_sg _ rfl (by decide) (by decide)

/-! Engine forms. -/

/-- Tile 3 holds a legal format block, E4M3 against E4M3 of one K-group; tile 4 is the engine's. -/
def smx (w : Warp) : State :=
  { sg w [] with
    disp := { (sg w []).disp with gangs := [{ tg with tiles := [[3, 4]] }] }
    cores := [(0, { Core.empty with engine := [4], scratch := cellsWrite [] 12288 (leBytes 4 0x404 ++ leBytes 4 1) })] }
theorem issuing_smx {w : Warp} (hu : w.uid = 0) (hs : w.sized = true) (hc : w.calm 0 = true) : Issuing (smx w) ci w false :=
  ⟨rfl, by simp [State.warp?, smx, sg, st, hu, ci], hs, .inr hc, rfl⟩

/-- Tiles and none; a tile that is held and one that is not; MXOWN of a tile, a descriptor with a reserved bit, a misaligned offset,
a run beyond the allocation. -/
theorem hyps_MatrixTilesAtIssue : Issuing (sg wt []) ci wt false ∧ Issuing (st wt) ci wt false ∧
    (((sg wt []).disp.gangs.find? fun g => g.uid == wt.gang).map fun g => g.lrec.atiles) = some 1 ∧
    (((st wt).disp.gangs.find? fun g => g.uid == wt.gang).map fun g => g.lrec.atiles) = some 0 ∧
    ((sg wt []).mxHeld wt 2).isSome = true ∧ (sg wt []).mxHeld wt 3 = none ∧
    ((sg wt []).mxLoc wt 0).isSome = true ∧ (((sg wt []).mxLoc wt 0).map fun l => l.tiles.length) = some 1 ∧
    Issuing (sg (ws 0x200000) []) ci (ws 0x200000) false ∧ 2 ^ 21 ≤ (reg (ci.src (ws 0x200000)) 64 0).toNat ∧
    Issuing (sg (ws 1) []) ci (ws 1) false ∧ (reg (ci.src (ws 1)) 64 0).toNat % 2 ^ 18 % 4096 ≠ 0 ∧
    ¬(0 + 4096 * (2 : BitVec 7).toNat ≤ 4096 * 1) := by
  and_intros <;> first | decide | exact issuing_sg _ rfl (by decide) (by decide) | exact alone rfl (by decide) (by decide)
/-- Positions within the tile, and one with a reserved bit; a tile that is not held; no participant. -/
theorem hyps_MatrixRowsAtIssue : Issuing (sg wt []) ci wt false ∧ parts ci wt p ≠ 0 ∧ ((sg wt []).mxHeld wt (2 % 32)).isSome = true ∧
    (∀ t, t < 32 → (reg (ci.src wt) 4 t).extractLsb' 6 2 = 0 ∧ (reg (ci.src wt) 4 t).extractLsb' 14 18 = 0) ∧
    (sg wt []).mxHeld wt (3 % 32) = none ∧ parts ci wg g2 = 0 ∧ Issuing (sg (ws 0x40) []) ci (ws 0x40) false ∧
    has (parts ci (ws 0x40) p) 0 = true ∧ (reg (ci.src (ws 0x40)) 64 0).extractLsb' 6 2 ≠ 0 := by
  and_intros <;> first | decide | exact issuing_sg _ rfl (by decide) (by decide)
/-- A command that enters the table; one whose block is illegal; no tile; a reserved bit; a misaligned block; one beyond the
allocation. -/
theorem hyps_MatrixCommandsAtIssue :
    Issuing (smx (ws 4096)) ci (ws 4096) false ∧ parts ci (ws 4096) p ≠ 0 ∧
    ((smx (ws 4096)).mxqCheck (ws 4096) (ws 4096) 2 4096 4096 0 none (parts ci (ws 4096) p)).isRight = true ∧
    Issuing (sg wt []) ci wt false ∧ (sg wt []).mxqCheck wt wt 2 0 0 0 none (parts ci wt p) = .inl (1, 0xFFFFFFFF, 0) ∧
    (sg wt []).mxHeld wt 3 = none ∧ ((sg wt []).mxHeld wt 2).isSome = true ∧
    Issuing (sg (ws 0x200000) []) ci (ws 0x200000) false ∧ ¬((reg (ci.src (ws 0x200000)) 64 0).toNat < 2 ^ 21) ∧
    Issuing (sg (ws 1) []) ci (ws 1) false ∧ (reg (ci.src (ws 1)) 64 0).toNat % 2 ^ 18 % 32 ≠ 0 ∧
    Issuing (sg (ws 4096) []) ci (ws 4096) false ∧ (((sg (ws 4096) []).mxLoc (ws 4096) 4096).map fun l => l.tiles.length) = some 1 ∧
    parts ci wg g2 = 0 := by
  and_intros <;> first | decide | exact issuing_sg _ rfl (by decide) (by decide) | exact issuing_smx rfl (by decide) (by decide)

/-- A warp whose slot 0 has emptied in the middle of a chain. -/
def gone : Warp := wt.setSlot 0 { wt.slot 0 with mask := 0 }
/-- An aligned record, a misaligned one; no participant, no active thread. -/
theorem hyps_CoordinateFormsAtIssue : Issuing (st wt) ci wt false ∧ active ci wt ≠ 0 ∧ parts ci wt p ≠ 0 ∧
    (pair (ci.src wt) 64 0).toNat % 64 = 0 ∧ Issuing (st (ws 1)) ci (ws 1) false ∧ (pair (ci.src (ws 1)) 64 0).toNat % 64 ≠ 0 ∧
    Issuing (st gone) ci gone true ∧ active ci gone = 0 ∧ parts ci wg g2 = 0 := by
  and_intros <;> first | decide | exact alone rfl (by decide) (by decide) | exact issuing rfl (by decide) _ (by decide)

/-- Quarry 3 of context 0, live, with segments of `seg` slots. -/
def qy (seg : Nat) : Quarry :=
  { id := 7, ctx := 0, n := 3, spbase := 0, seg, span := 1, bw := 0, link := false, lgid := 0, ldev := 0, members := [], pages := [], quiet := false,
    pushes := 0, pass := none }
def sq (w : Warp) (seg : Nat) : State := { st w with quarries := [qy seg] }
/-- A live quarry with room and without; one that is not live; no participant; descriptors aligned and not. -/
theorem hyps_WorklistFormsAtIssue : Issuing (sq wt 64) ci wt false ∧ parts ci wt p ≠ 0 ∧ (liveQuarry (sq wt 64) wt 3).isSome = true ∧
    ((sq wt 64).usedSlots 7 wt.cluster).length + (threads (parts ci wt p)).length ≤ (qy 64).seg ∧
    Issuing (sq wt 4) ci wt false ∧ ¬(((sq wt 4).usedSlots 7 wt.cluster).length + (threads (parts ci wt p)).length ≤ (qy 4).seg) ∧
    liveQuarry (sq wt 64) wt 2 = none ∧ parts ci wg g2 = 0 ∧ (pair (ci.src wt) 64 0).toNat % 32 = 0 ∧
    Issuing (st (ws 1)) ci (ws 1) false ∧ (pair (ci.src (ws 1)) 64 0).toNat % 32 ≠ 0 := by
  and_intros <;> first | decide | exact alone rfl (by decide) (by decide) | exact ⟨rfl, rfl, by decide, .inr (by decide), rfl⟩

/-! Traps. -/

theorem hyps_TrapsAtIssue : Issuing (st wt) ci wt false ∧ parts ci wt p ≠ 0 ∧ p.c = false ∧ Issuing (st wg) ci wg false ∧ parts ci wg g2 = 0 := by
  and_intros <;> first | decide | exact alone rfl (by decide) (by decide)

/-- A trap of all threads at the packet's first word. -/
def trq : TrapReq :=
  { cls := 9, mask := 0xFFFFFFFF, fpc := 0x8000, npc := 0x8004, rpc := 0x8004, bpc := 0x8004, word := 0, va := 0, info := 5,
    replay := false, seq := 1 }
def wtr : Warp := { wt.setSlot 0 { wt.slot 0 with trap := some trq } with tvec := 24 }
/-- The lane's control block lies in a page of the TLB. -/
def str : State :=
  { st wtr with cores := [(0, { Core.empty with
      tlb := [{ ctx := 0, base := 0, size := 32768, phys := ⟨0, 0⟩, w := true, x := false, pins := 0 }] })] }
/-- A trap that is due, with a handler installed, whose record can be written; no handler installed; one in a frozen slot, and one of slot
1 behind slot 0's. -/
theorem hyps_TrapIsTaken : str.warp? 0 = some wtr ∧ wtr.sized = true ∧ (wtr.slot 0).trap = some trq ∧ wtr.unwalked trq.seq = false ∧
    wtr.unwalked (wtr.seq + 1) = false ∧ str.stopped wtr = false ∧ wtr.pend = [] ∧ (wtr.slot 0).wait = none ∧ wtr.handler = none ∧ wtr.tvec ≠ 0 ∧
    wtr.bnds = [] ∧ wtr.sq = [] ∧ handling (wtr.slot 0) trq ≠ 0 ∧
    (str.laneWrites wtr [((wtr.pvbase.toNat + 32 * wtr.psize) % 2 ^ 64 + 480, leBytes 4 wtr.depth),
      (((wtr.pvbase.toNat + 32 * wtr.psize) % 2 ^ 64 + 8768) % 2 ^ 64, (recordOf wtr 0 trq 5).flatMap (leBytes 8))]).1 = true ∧
    ({ wtr with tvec := 0 } : Warp).tvec = 0 ∧
    (∃ h, ({ wtr with handler := some { slot := 1, threads := 1, base := 0 } } : Warp).handler = some h ∧ h.slot ≠ 0) ∧
    (let w := wtr.setSlot 1 { wtr.slot 0 with mask := 1 }
     (w.slot 1).trap = some trq ∧ (w.slot 0).trap ≠ none ∧ (w.slot 0).wait.isSome = false ∧ w.handler = none) := by
  and_intros <;> decide

/-- The handler's threads are all there, with no bystander; outside a handler. -/
theorem hyps_ReturnFromTrap :
    (let w := { wt with handler := some { slot := 0, threads := 0xFFFFFFFF, base := 0 } }
     Issuing (st w) ci w false ∧ ((ci.src w).trapRegs.getD 3 0).toNat % 4 = 0 ∧ active ci w = 0xFFFFFFFF &&& ~~~w.exited ∧ w.depth = 0 ∧
       (w.slot (1 - ci.slot)).trap = none ∧ ((w.trapRegs.getD 5 0).setWidth 32 : Mask) &&& ~~~w.exited = 0) ∧
    Issuing (st wt) ci wt false ∧ wt.handler = none := by
  and_intros <;> first | decide | exact alone rfl (by decide) (by decide)

/-- A packet of NOPs loaded after reset, and its warp; with its timer due at cycle 0. -/
def loaded : State := State.reset.withFetchWord 32 0x22000004
def lw : Warp := (loaded.warps.head?).getD wt
def timed : Warp := { lw with tmask := 0x100, wtcmp := 0 }
def timedS : State := { loaded with warps := [timed] }
/-- Not due; due, with an instruction that decodes. -/
theorem hyps_TimerTraps : loaded.warp? 0 = some lw ∧ lw.sized = true ∧ lw.tmask.getLsbD 8 = false ∧ timedS.warp? 0 = some timed ∧
    timed.sized = true ∧ timed.tmask.getLsbD 8 = true ∧ timed.handler = none ∧ timed.wtcmp.toNat ≤ timedS.wtime timed ∧
    (timed.slot 0).mask ≠ 0 ∧ (timed.slot 0).trap = none ∧ (timed.slot 0).wait = none ∧
    (match (timedS.fetch timed 0).1 with | .inr (.ok _) => true | _ => false) = true ∧
    (timedS.fetch timed 0).2.warp? 0 = some timed := by decide

/-! The machine. -/

/-- Three words, and a PATCH that covers two. -/
theorem hyps_DecodeOfEncode :
    (let i := Instr.ffma { h0 { e0 with ts := 8 } with e2 := some { e2 with la := true } } 5 6 7
     wellFormed i = true ∧ (encode i).length + covered i = 3 ∧ chains i = false) ∧
    (wellFormed (.patch p 2 5) = true ∧ (encode (.patch p 2 5)).length + covered (.patch p 2 5) = 3) := by decide
/-- The first grant of the loaded packet decodes to one NOP, and runs. -/
def firstGrant : Bool :=
  let s0 : State := { loaded.tick with agenda := [] }
  match s0.fetchPacket lw 0x8000 3 [] with
  | (.inr ws, s1) => (match decode ws 0 with
    | .ok g => (match g.pieces with
      | [x] =>
        let c : Issue := { uid := 0, slot := 0, pkt := 0x8000, npc := 0x8004, wslot := x.slot, word := x.word, snap := none, flags := [],
                           trap := none, marker := x.hdr.w, bound := false }
        decide (x.instr = .nop p 0 0 0) && decide (g.next = 1) && s1.groupReady lw 0 g && !s1.timerDue lw && !lw.selfBound g &&
          (match exec x.instr { s1.setWarp { lw with lastIns := { lw.lastIns with parked := 0 } } with issue := some c } with
           | .next s2 => (match s2.warp? 0 with
             | some w' => !s1.marked w' lw.seq && decide (w'.claims ≤ lw.claims) && !s2.unready && s2.bad.isNone
             | none => false)
           | _ => false)
      | _ => false)
    | .error _ => false)
  | _ => false
/-- The loaded packet's grant, and a step of another agent. -/
theorem hyps_StepRunsDecoded :
    let s0 : State := { loaded.tick with agenda := [] }
    (loaded.agenda = [.grant 0 0 []] ∧ loaded.paused = [] ∧ s0.warp? 0 = some lw ∧ s0.warpOpen lw = true ∧ lw.slotOpen 0 = true ∧
      s0.grantedNow lw.core lw.lane = [] ∧ (s0.laneSlots lw.core lw.lane).takeWhile (fun y => y != (0, 0)) = []) ∧
    packetOf lw.cb (lw.slot 0).pc = 0x8000 ∧ firstGrant = true ∧
    ({ State.reset with agenda := [.run .winerrClear] } : State).agenda = [.run .winerrClear] ∧ Raw.of .winerrClear = none := by
  and_intros <;> decide

theorem hyps_MemoryCells : Memory.wf [] = true ∧ Memory.wf [(3, 1), (9, 255)] = true ∧ Memory.wf [(3, 0)] = false ∧
    Memory.wf [(9, 1), (3, 1)] = false := by decide
/-- A form that a warp issues, and a step of another agent. -/
theorem hyps_EveryFormAnswersNext : (st wt).issue = some ci ∧ (st wt).warp? ci.uid = some wt ∧ Raw.of .winerrClear = none :=
  ⟨rfl, rfl, rfl⟩
theorem hyps_StepKeepsMemoryForm : State.reset.memWf ∧ ∃ t, step { State.reset with agenda := [.run .winerrClear] } = .next t :=
  ⟨rfl, _, rfl⟩

/-! Steps of the other agents: memory. -/

/-- `n` bytes of thread 0 at `va`, at the same local physical address; `got` is what has been fixed. -/
def sn (va n : Nat) (got : Option Byte) : Span :=
  { t := 0, va, at_ := 0, len := n, phys := some ⟨0, va⟩, data := List.replicate n 9, got := List.replicate n got, dep := none }
/-- An access of slot 0 to a word at address 256. -/
def ac (kind : AKind) (space : Space) (walked : Bool) (got : Option Byte) : Access :=
  { id := 4, slot := 0, seq := 0, kind, space, co := 0, priv := false, dst := [], pdst := [], parts := 1, spans := [sn 256 4 got],
    walked, fault := none, fpc := 0x8000, npc := 0x8004, wslot := 0, sent := false }
/-- An entry of the store queue for that word, released and translated. -/
def en (kind : SKind) (space : Space) (co : Nat) : SqEntry :=
  { id := 5, slot := 0, seq := 0, held := false, kind, space, co, priv := false, parts := 1, spans := [sn 256 4 none], walked := true,
    fault := none, fpc := 0x8000, npc := 0x8004, wslot := 0, next := 0, busy := false }
def wa (a : Access) : Warp := { wt with accs := [a] }
def we (e : SqEntry) : Warp := { wt with sq := [e] }
/-- Core 0 is `c`. -/
def sc (w : Warp) (c : Core) : State := { st w with cores := [(0, c)] }
/-- A page that may be written, from address 0, in its TLB. -/
def cpage : Core := { Core.empty with tlb := [{ ctx := 0, base := 0, size := 2 ^ 21, phys := ⟨0, 0⟩, w := true, x := false, pins := 0 }] }
/-- Line 256 in its L1, with the sectors `v` valid. -/
def ln (v d : Nat) : L1Line := { ctx := 0, va := 256, valid := v, dirty := d, held := false, data := List.replicate 128 7 }
def cline (v : Nat) : Core := { cpage with l1 := [ln v 0] }
/-- All 256 miss tags taken. -/
def cfull : Core := { cpage with tags := (List.range 256).map fun t => { tag := t, use := .wback } }

/-- An access of `k` in space `sp`, whose bytes are `got`, and whether it is known, has translated and leaves its registers' places. -/
def loaded4 (k : AKind) (sp : Space) (got : Option Byte) : Bool :=
  let a := ac k sp true got
  let s := sc (wa a) cpage
  let b := s.readScratch (wa a) a
  decide (s.warp? 0 = some (wa a)) && (wa a).sized && decide ((wa a).accs.find? (fun a => a.id == 4) = some a) && a.walked && a.late.isEmpty &&
    b.spans.all fun x => x.got.all Option.isSome && decide (x.t < 32) && (gather b.spans x.t).length == 4
/-- A load of a word whose bytes are fixed, to a v-register and to an s-register; one from scratchpad, and one that waits for an entry; a
result in a v-register, an s-register and a predicate. -/
theorem hyps_LoadResults :
    loaded4 (.load 4 false false 6) .glob (some 1) = true ∧ loaded4 (.load 4 true true 126) .glob (some 1) = true ∧
    loaded4 (.load 4 false false 63) (.scr 0) none = true ∧ 6 + (4 + 3) / 4 ≤ 64 ∧ 63 + (4 + 3) / 4 ≤ 64 ∧ 126 + (4 + 3) / 4 ≤ 128 ∧
    (let a := ac (.load 4 false false 6) (.scr 0) true none
     (sc (wa a) cpage).loadReady (wa a) a = true ∧
     let b := { a with spans := [{ sn 256 4 none with dep := some 5 }] }
     let w := { wa b with sq := [en .store (.scr 0) 0] }
     (sc w cpage).loadReady w b = false) ∧
    (let wr := [RegWrite.v 6 [(0, 5)], .s 3 7, .p 2 1 1]
     let w := wa (ac (.result wr) .glob true none)
     w.accs.find? (fun a => a.id == 4) = some (ac (.result wr) .glob true none) ∧
     (wr.map fun (x : RegWrite) => match x with | .v c _ => c | .s c _ => 64 + c | .p c _ _ => 128 + c).Nodup ∧ has w.exited 0 = false) := by
  and_intros <;> decide

/-- A warp one of whose accesses has failed, with a permission fault or not. -/
def wfl (perm : Bool) : Warp := wa { ac (.load 4 false false 6) .glob false none with fault := some ⟨perm, 1, 256, 1⟩ }
/-- Has that fault met what the step asks for? -/
def faultReady (perm : Bool) : Bool :=
  match earliest ((wfl perm).faulted 0) with
  | some f => !(wfl perm).unsettled 0 f.seq && f.fault.perm == perm
  | none => false
/-- A fault record that waits. -/
def frec : FaultRec :=
  { id := 0, ctx := 0, who := .warp 0 0, va := 256, cause := 1, kind := 0, die := 0, xid := 0, agent := 0, seq := 0, written := false,
    answered := false }
/-- The ring is enabled, has 16 slots, and a record waits. -/
def sring (xs : List FaultRec) : State :=
  { st wt with regs := { Regs.reset with ring := { Regs.reset.ring with en := true, log2 := 4, recs := xs } } }
/-- TRAP stands at the slot's pc, in a region that began before it. -/
def tl : State := State.reset.withFetchWord 32 0x3C002400
def tlw : Warp := let w := (tl.warps.head?).getD wt; w.setSlot 0 { w.slot 0 with epc := 0x7FF4 }
def tls : State := { tl with warps := [tlw] }
/-- A load and an entry that translate, a load that does not; both kinds of fault; a record with room; a boundary. -/
theorem hyps_TranslationAndWalkFaults :
    (let a := ac (.load 4 false false 6) .glob false none
     let s := sc (wa a) cpage
     let s' := { sc (wa a) Core.empty with regs := { Regs.reset with ctxcnt := 1 } }
     s.warp? 0 = some (wa a) ∧ (wa a).accs.find? (fun a => a.id == 4 && !a.walked && a.fault.isNone && a.kind.walks) = some a ∧
     s.windowTaken (wa a) a = false ∧ (sc (wa a) { cpage with windows := [(0, [{ w := 9, acc := 0, va := 0, tgt := 0, line := 0, sectors := 1 }])] }).windowTaken (wa a) a = true ∧
     (s.walkSpans (wa a) a.priv .load true false a.spans).1.2 = [] ∧ (s'.walkSpans (wa a) a.priv .load true false a.spans).1.2 ≠ []) ∧
    (let e := { en .store .glob 0 with walked := false }
     let s := sc (we e) cpage
     s.warp? 0 = some (we e) ∧ (we e).accs = [] ∧ (we e).sq.find? (fun e => e.id == 5 && !e.walked && e.fault.isNone) = some e ∧
     (s.walkSpans (we e) e.priv e.kind.acc e.kind.hostOk e.kind.isDirect e.spans).1.2 = []) ∧
    faultReady true = true ∧ faultReady false = true ∧ (sring []).regs.ring.en = true ∧
    (sring [frec]).regs.ring.recs.find? (fun x => !x.written) = some frec ∧
    ((sring [frec]).regs.ring.wrcnt + 2 ^ 32 - (sring [frec]).regs.ring.rdcnt) % 2 ^ 32 ≠ 2 ^ 4 ∧
    tls.warp? 0 = some tlw ∧ tlw.settleBnds.bnds = [] ∧ tlw.settleBnds.unwalked (tlw.settleBnds.seq + 1) = false ∧
    (tlw.settleBnds.slot 0).mask ≠ 0 ∧ (tlw.settleBnds.slot 0).epc ≠ (tlw.settleBnds.slot 0).pc ∧
    (match ((tls.setWarp tlw.settleBnds).fetch tlw.settleBnds 0).1 with | .inr (.ok g) => tlw.settleBnds.selfBound g | _ => false) = true := by
  decide

/-- A request of lane 0's window. -/
def lr : LineReq := { w := 0, acc := 4, va := 256, tgt := 0, line := 2, sectors := 1 }
def tagFree (s : State) : Bool := (s.core 0).freeTag.isSome
/-- The oldest entry of a warp, ready to perform. -/
def ready (s : State) (e : SqEntry) : Bool :=
  decide (s.warp? 0 = some (we e)) && decide ((we e).sq = [e]) && !e.held && !e.busy && e.walked && decide (e.fault = none) &&
    (we e).loadsFixed e && !s.passed (we e) e

/-- Core 0 with a reply to the use of tag 0. -/
def inb (use : TagUse) (w : Warp) (c : Core) : State :=
  sc w { c with tags := [{ tag := 0, use }], inbox := [{ tag := 0, line := 2, ok := true, sectors := 1, data := List.replicate 128 3 }] }
/-- Eight lines of the set of line 256, with dirty sectors `d`, held or not, and the tags `t` taken. -/
def cset (d : Nat) (held : Bool) (t : List MissTag) : Core :=
  { cpage with tags := t, l1 := (List.range 8).map fun i => { ln 255 d with va := 256 + 65536 * (i + 1), held } }
def room (s : State) : Room := (s.makeRoom 0 0 256).1
/-- A load of each kind whose request is the window's first that is ready. -/
def wins (space : Space) (co : Nat) (c : Core) : State := sc (wa { ac (.load 4 false false 6) space true none with co }) { c with windows := [(0, [lr])] }
/-- A hit, a miss with a line, with none, with no tag, with no room, with a full set to be written back; `.CG`, `.NT` and code loads; a
PREF; a store and atomics on scratchpad, one that a mark holds; stores in the L1, through, with no room; atomics at the slice, with
the line absent, clean, dirty and held, and of `.WG`; every use of a tag. -/
theorem hyps_CoreMemorySteps :
    ((List.all [(Space.glob, 0), (.glob, 1), (.glob, 2), (.code, 0)] fun x =>
      let s := wins x.1 x.2 cpage
      decide ((look 0 (s.core 0).windows).getD [] = [] ++ lr :: []) && (match s.warp? 0 with
        | some w => (match w.accs with | [a] => decide (a.id = lr.acc) && s.loadReady w a | _ => false)
        | none => false)) = true ∧
      (wins .glob 0 (cline 255)).l1Line? 0 0 256 = some (ln 255 0) ∧ smDiff lr.sectors 255 = 0 ∧
      (wins .glob 0 (cline 0)).l1Line? 0 0 256 = some (ln 0 0) ∧ smDiff lr.sectors 0 ≠ 0 ∧ tagFree (wins .glob 0 cpage) = true ∧
      coreDie 0 = sliceDie (homeOf 2) ∧ ((wins .glob 0 cpage).slice (homeOf 2)).queue.length < 2048 ∧
      ((wins .glob 0 cfull).core 0).freeTag = none ∧ (wins .glob 0 cpage).l1Line? 0 0 256 = none) ∧
    (room (wins .glob 0 cpage) = .ok ∧ room (wins .glob 0 (cset 0 true [])) = .bypass ∧ room (wins .glob 0 (cset 1 false cfull.tags)) = .wait) ∧
    ((wins .code 0 { cpage with code := [(256, [])] }).codeLine 0 256 = some [] ∧ (wins .code 0 cpage).codeLine 0 256 = none) ∧
    (let w := wa (ac (.pref true) .glob true none)
     (look 0 ((sc w { cpage with windows := [(0, [lr])] }).core 0).windows).getD [] = [] ++ lr :: []) ∧
    ((List.all [SKind.store, .atom .add 4 4 none] fun k =>
        let e := en k (.scr 0) 0
        ready (sc (we e) cpage) e && decide (e.spans.filter (fun x => x.t == e.threads.getD e.next 0) = [sn 256 4 none])) = true ∧
      !(sn 256 4 none).meets (Core.writePending cpage) ∧ !(sn 256 4 none).meets (Core.readPending cpage)) ∧
    ((List.all [cline 255, cline 0, cset 0 true [], cset 1 false cfull.tags] fun c => ready (sc (we (en .store .glob 0)) c) (en .store .glob 0)) = true ∧
      (spanRuns (en .store .glob 0).spans)[0]? = some (sn 256 4 none :: []) ∧ tagFree (sc (we (en .store .glob 0)) cpage) = true) ∧
    (smDiff (smDiff 1 (fullSectors (lineBytes [sn 256 4 none]))) 255 = 0 ∧ smDiff (smDiff 1 (fullSectors (lineBytes [sn 256 4 none]))) 0 ≠ 0) ∧
    ((List.all [1, 2] fun co => ready (sc (we (en .store .glob co)) cpage) (en .store .glob co)) = true ∧
      (spanLines (en .store .glob 1).spans)[0]? = some (256, ⟨0, 256⟩, 1)) ∧
    (let e := en (.atom .add 4 4 (some 6)) .glob 0
     (List.all [cpage, cline 255, { cpage with l1 := [ln 255 1] }, { cpage with l1 := [{ ln 255 1 with held := true }] }] fun c =>
       ready (sc (we e) c) e && !(sc (we e) c).storing 0 0 256) = true ∧ (sc (we e) cpage).l1Line? 0 0 256 = none ∧
     tagFree ((sc (we e) cpage).unkeep 0 0 256) = true ∧ spanLines e.spans = [(lineVa 256, ⟨0, 256⟩, 1)] ∧ (sn 256 4 none).phys = some ⟨0, 256⟩ ∧
     Nat.land 0 1 = 0 ∧ Nat.land 1 1 ≠ 0 ∧ (match (sc (we e) { cpage with l1 := [ln 255 1] }).writeBack 0 (ln 255 1) 1 with
       | (.sent _ _, _) => true | _ => false) = true) ∧
    (let e := en (.atom .add 4 1 none) .glob 0
     ready (sc (we e) (cline 255)) e = true ∧ ready (sc (we e) cpage) e = true ∧ (sc (we e) (cline 255)).l1Line? 0 0 256 = some (ln 255 0) ∧
     256 % 128 + 4 ≤ 128 ∧ (∀ y ∈ spanLines e.spans, y.1 = lineVa 256 ∧ smDiff y.2.2 255 = 0) ∧ smDiff 1 0 ≠ 0) ∧
    (List.all [TagUse.through 0 4 256, .fill 0 4 0 256 1 true, .fill 0 4 0 256 1 false, .code (some (0, 4)) 256 true, .pref 0 4, .dead, .wback,
        .clean 0 8, .stored 0 5 0 256, .atom 0 5] fun u =>
      let s := inb u (we (en .store .glob 0)) (cline 0)
      decide ((s.core 0).inbox.length = 1) && decide ((s.core 0).tags.find? (fun t => t.tag == 0) = some { tag := 0, use := u }) &&
        decide (room s = .ok) && decide (s.warp? 0 = some (we (en .store .glob 0)))) = true := by
  and_intros <;> decide

/-- A request for line 2. -/
def hr (kind : HKind) (tgt : Nat) (pending : List Nat) (phase : Nat) : HReq :=
  { core := 0, tag := 0, ctx := 0, va := 256, tgt, line := 2, kind, sectors := 1, bytes := (List.range 16).map fun i => (i, 5), nt := false,
    pending, phase }
/-- Slice 2, which is line 2's home, has that request, with the line valid or absent. -/
def hs (r : HReq) (valid : Bool) : State :=
  { st wt with
    regs := { Regs.reset with rdyDie := 0x1FF, rdyStack := 0xFFF, rdyLink := 0xFFF }
    slices := [(2, { Slice.empty with
      queue := [r]
      lines := if valid then [{ tgt := 0, line := 2, valid := 255, dirty := 0, data := List.replicate 128 1 }] else [] })] }
def firstB (r : HReq) (valid : Bool) : Bool :=
  decide (((hs r valid).slice 2).queue[0]? = some r) && bit (hs r valid).regs.rdyDie (sliceDie 2)
/-- A base-die request for address 256. -/
def dr (write : Bool) (by_ : DieAsker) : DieReq :=
  { by_, pa := 256, n := 1, write, bmask := 0xF, data := List.replicate 32 6, passed := 0, rtag := 3 }
def pk (write : Bool) : DirPkt :=
  { id := 8, acc := 4, t := 0, write, phys := ⟨0, 256⟩, size := 4, data := [1, 2, 3, 4], d := 6, st := 7, tag := none, reply := none }
/-- Requests of each kind that can be served or must fetch, an atomic, a route and none; replies of both kinds; base-die requests that wait
and that do not; the choice among them; a direct store, a packet that leaves and one that waits for a tag, replies. -/
theorem hyps_HomeAndBaseDieSteps :
    (List.all [hr .read 0 [] 0, hr (.write false) 0 [] 0, hr (.atom .add 4 [(⟨0, 256⟩, 4)] [1, 0, 0, 0]) 0 [] 0, hr (.clean true) 0 [] 0,
      hr (.clean true) 0 [] 1, hr .void 0 [] 0, hr .void 1 [] 0, hr .read 1 [] 0, hr (.write true) 1 [] 0, hr (.write false) 2 [] 0, hr .read 2 [] 0]
      fun r => firstB r true && firstB r false) = true ∧
    (smDiff (hr .read 0 [] 0).sectors 255 = 0 ∧ smDiff (hr .read 0 [] 0).sectors 0 ≠ 0 ∧
      (∀ j, j < 4 → ((bit (hr .read 0 [] 0).sectors (2 * j) || bit (hr .read 0 [] 0).sectors (2 * j + 1)) = true ↔ j = 0))) ∧
    smDiff (smDiff (sectorsOf (hr .read 0 [] 0).bytes) (fullSectors (hr .read 0 [] 0).bytes)) 0 = 0 ∧
    smDiff (smDiff (sectorsOf [(0, 5)]) (fullSectors [(0, 5)])) 0 ≠ 0 ∧
    (hs (hr (.clean true) 0 [] 1) true).writing 2 = false ∧
    ((hs (hr .read 2 [] 0) true).reaches ⟨2, 256⟩ 0 = false ∧ (hs (hr .read 2 [] 0) true).routed 0 2 = false ∧
      (let s := hs (hr .read 2 [] 0) true
       let t := { s with
         regs := { s.regs with vlroute := List.replicate 64 65537, vlport := s.regs.vlport.set 0 { en := true, up := true, pdup := false, far := 0 } }
         env := { s.env with peers := [{ dev := 0, acl := 7, reach := true, mem := [] }] } }
       t.routed 0 2 = true ∧ t.reaches ⟨2, 256⟩ 0 = true)) ∧
    (List.all [(false, 0), (false, 2 ^ 18), (true, 0)] fun x =>
      let r : DieReply := { rtag := 3, rid := 0, pa := 256, n := 1, write := x.1, data := List.replicate 32 2, status := x.2 }
      let s := { hs (hr .read 0 [3] 0) false with slices := [(2, { Slice.empty with queue := [hr .read 0 [3] 0], replies := [r] })] }
      decide ((s.slice 2).replies = [r]) && (s.slice 2).queue.any fun q => q.tgt == 0 && q.line == r.pa / 128 && q.pending.contains r.rtag) = true ∧
    (List.all [dr true (.slice 2), dr false (.slice 2), dr false (.direct 0 8)] fun r =>
      let s := { hs (hr .read 0 [] 0) true with hbm := [(0, { Stack.empty with queue := [r] })] }
      bit s.regs.rdyStack 0 && decide (pickDie (s.stack 0) = some 0) && decide ((s.stack 0).queue[0]? = some r) &&
        eligibleDie (s.stack 0).queue 0 && decide ((s.stack 0).came = none)) = true ∧
    (let s := { hs (hr .read 0 [] 0) true with hbm := [(0, { Stack.empty with queue := [dr false (.slice 2)], came := some 3 })] }
     (s.stack 0).came = some 3 ∧ s.now < 3 + 8 ∧ 3 + 8 ≤ ({ s with now := 11 } : State).now ∧ ({ s with now := 11 } : State).moreComing 0 = false) ∧
    (State.reset.mem = [] ∧ Memory.wf [] = true) ∧
    (let old := { dr false (.slice 2) with passed := 16 }
     eligibleDie [dr false (.slice 2), { old with pa := 65792 }] 1 = true ∧ 16 ≤ old.passed) ∧
    (let st1 : Stack := { Stack.empty with queue := [dr false (.slice 2)], rows := [(bankOf (stackAddr 256), rowOfAddr (stackAddr 256))] }
     look (bankOf (stackAddr 256)) st1.rows = some (rowOfAddr (stackAddr 256)) ∧ ∀ q ∈ st1.queue, q.passed < 16) ∧
    (let e := en (.direct 4 7) .glob 0
     ready (st (we e)) e = true) ∧
    (let w := { wt with dir := [pk false] }
     (st w).warp? 0 = some w ∧ w.dir = [] ++ pk false :: [] ∧ (pk false).tag = none ∧ (pk false).reply = none ∧ w.sq = [] ∧
     (∀ q ∈ w.dir, q.tag ≠ some 0)) ∧
    (let w := { wt with dir := pk true :: (List.range 8).map fun t => { pk false with id := t + 20, tag := some t } }
     (∀ t, t < 8 → ∃ q ∈ w.dir, q.tag = some t) ∧ (pk true).tag = none) ∧
    (let y := { pk false with tag := some 2, reply := some (List.replicate 32 1, 16) }
     let w := { wt with dir := [y] }
     w.dir.find? (fun p => p.reply.isSome) = some y ∧ y.reply = some (List.replicate 32 1, 16) ∧ bit 16 18 = false ∧ bit (2 ^ 18) 18 = true ∧
     w.accs = [] ∧ w.sq = [] ∧ has w.exited y.t = false ∧ y.st < 63 ∧ y.d + y.size / 4 ≤ 64 ∧ (y.st < y.d ∨ y.d + y.size / 4 ≤ y.st)) := by
  and_intros <;> decide

/-! Steps of the other agents: fences, engines, dispatch. -/

/-- A fence (`what` 0), CINV (1), CWB (2), FENCE.XP (3) or the wait of LNCH (4). -/
def fr (what scope : Nat) (acq started : Bool) (todo : List (Nat × Nat × Nat)) : FenceRec :=
  { id := 8, slot := 0, seq := 0, what, order := 2, scope, fpc := 0x8000, acqDone := acq, relDone := false, started, todo, wbs := [],
    lines := [], acc := none, l2 := false, all := false, zlr := 0 }
def wf (f : FenceRec) : Warp := { wt with fences := [f] }
/-- Core 0 has the line 256, with dirty sectors `d`. -/
def fs (f : FenceRec) (d : Nat) : State := sc (wf f) { cpage with l1 := [ln 255 d] }
/-- An acquire whose scope keeps the L1 and one that does not, an `.SC` one before and after its release; a release that starts, with a
held line and without, that has a line to write back, that ends, at `.SYS` too; the same of FENCE.XP, and one that waits; lines that
are clean, dirty, being stored to; write-backs that are sent, find no tag, fault; a CINV that starts, does a line, one with `.L2`, ends. -/
theorem hyps_FenceSteps :
    (List.all [fr 0 1 false false [], fr 0 4 false false [], { fr 0 4 false false [] with order := 3, relDone := true },
      { fr 0 4 false false [] with order := 3 }, fr 0 4 true false [], fr 0 4 true true [(0, 0, 256)], fr 0 4 true true [],
      fr 0 5 true true [], { fr 0 5 true true [] with zlr := 2 }] fun f =>
      decide ((fs f 0).warp? 0 = some (wf f)) && decide ((wf f).fences = f :: []) && !(wf f).loadsOpen f.seq && !(wf f).storesOpen f.seq &&
        !(wf f).maintOpen f.seq && decide (f.zlr ≠ 1)) = true ∧
    ((∀ l ∈ (fs (fr 0 4 true false []) 1).l1Lines 0, l.2.held = false) ∧ (fs (fr 0 5 true true []) 0).env.posted = [] ∧
      ∃ l ∈ (sc (wf (fr 0 4 true false [])) { cpage with l1 := [{ ln 255 1 with held := true }] }).l1Lines 0, l.2.held = true) ∧
    (let s := fs (fr 0 4 true true [(0, 0, 256)]) 1
     s.l1Line? 0 0 256 = some (ln 255 1) ∧ s.storing 0 0 256 = false ∧ (s.wbPlace (s.l1Core 0 256) 0 256).1 = some ⟨0, 256⟩ ∧
     (((s.wbPlace (s.l1Core 0 256) 0 256).2.core (s.l1Core 0 256)).freeTag).isSome = true) ∧
    (let s := sc (wf (fr 0 4 true true [(0, 0, 256)])) { cpage with l1 := [ln 255 1], tags := [{ tag := 0, use := .stored 0 5 0 256 }] }
     s.storing 0 0 256 = true) ∧
    ((sc (wf (fr 0 4 true true [(0, 0, 256)])) { cfull with l1 := [ln 255 1] }).writeBack 0 (ln 255 1) 1).1 = .noTag ∧
    (let s := { sc (wf (fr 0 4 true true [(0, 0, 256)])) { Core.empty with l1 := [ln 255 1] } with regs := { Regs.reset with ctxcnt := 1 } }
     (s.wbPlace 0 0 256).1 = none) ∧
    (List.all [fr 3 4 false false [], fr 3 4 false true [], fr 1 0 false false [], fr 1 0 false true [(0, 0, 256)], fr 1 0 false true []] fun f =>
      decide ((fs f 0).warp? 0 = some (wf f)) && (decide ((wf f).fences.find? (fun f => f.what == 3) = some f) ||
        decide ((wf f).fences.find? (fun f => f.what == 1 || f.what == 2) = some f)) && !(wf f).storesOpen f.seq) = true ∧
    (let w := { wf (fr 3 4 false false []) with sq := [{ en .store .glob 0 with id := 3 }], fences := [{ fr 3 4 false false [] with seq := 1 }] }
     w.storesOpen 1 = true) ∧
    (let a := { ac (.engine false) .glob true none with spans := [sn 256 128 none] }
     let w := { wf { fr 1 0 false true [(0, 0, 256)] with acc := some 4 } with accs := [a] }
     w.accs.find? (fun a => a.id == 4) = some a ∧ (a.spans.find? fun x => lineVa x.va == 256) = some (sn 256 128 none) ∧ a.walked = true) ∧
    (fs (fr 1 0 false true [(0, 0, 256)]) 0).l1Line? 0 0 256 = some (ln 255 0) ∧ (ln 255 0).dirty = 0 ∧
    (fs (fr 1 0 false true [(0, 0, 256)]) 1).l1Line? 0 0 256 = some (ln 255 1) ∧ (ln 255 1).dirty ≠ 0 := by
  and_intros <;> decide

/-- A line operation of a copy, on a global line or on a block of scratchpad. -/
def op (glob : Bool) (st : Nat) : CopyOp := { glob, base := 256, parts := [(0, 0, 4)], state := st }
/-- Entry 6 of core 0's copy queues, with one read and one write. -/
def ce (r w : CopyOp) : CopyEnt :=
  { num := 6, w := 0, ctx := 0, gang := 1, wg := 0, seq := 0, acc := 4, fpc := 0x8000, priv := false, sz := 2, dir := 0, d := 6, reads := [r],
    writes := [w], data := [(0, [1, 2, 3, 4])], ce := 0, fault := none, parked := none }
def cs (e : CopyEnt) : State := sc wt { cpage with copy := [e] }
/-- It has the operation to do next, nothing stands before it, and its address translates for a core that can ask. -/
def copyReady (e : CopyEnt) (write : Bool) : Bool :=
  match e.nextOp with
  | some (w, _, o) =>
    w == write && e.fault.isNone && e.parked.isNone && decide (((cs e).core 0).copy.find? (fun e => e.num == 6) = some e) &&
      (((cs e).core 0).copy.takeWhile fun e => e.num != 6).isEmpty && wt.sq.isEmpty &&
      (!o.glob || match (cs e).access (some 0) (coreCluster 0) (coreDie 0) 0 (o.base + 0) (if write then .copyWrite else .copyRead) false true with
        | (.ok _ _ _ _ _, s1) => (s1.core 0).freeTag.isSome
        | _ => false)
  | none => false

/-- Entry `num` of a matrix engine: rows 0 and 1 of tile 5, one group of 32 FP8 elements, both operands on core 0. -/
def me (num : Nat) (zero : Bool) : MxEntry :=
  { num, ctx := 0, gang := 1, prio := 0, tiles := [5], zero, rows := [0, 1], a := ⟨0, [4], 0⟩, b := ⟨0, [4], 0⟩,
    blk := [0x404, 1, 0, 0, 0, 0, 0, 0], used := [(0, 4)], next := 0, missed := 0 }
/-- Cluster 0's matrix engine is `m`, in a state where gang 1 holds tile 5 as its name 2. -/
def ms (w : Warp) (m : Matrix) : State :=
  { sg w [] with clusters := [(0, { Cluster.empty with mx := m })] }
def tile5 : MxTile := { ctx := 0, held := true, flags := 0, fdf := none, elems := [] }
def m0 : Matrix := { Matrix.empty with tiles := [(5, tile5)] }
/-- Slot 0 of a warp waits for `x`. -/
def ww (x : Wait) : Warp := wt.setSlot 0 { wt.slot 0 with wait := some x }
/-- A row access of slot 0, number 9. -/
def rw_ (write : Bool) : MxRw :=
  { num := 9, w := 0, slot := 0, tile := 5, write, d := 6, items := [(0, 3, 4)], n := 1, data := [(0, [7])], freed := [] }
/-- A command on E2M1 elements, whose code 8 is ill-formed, with A on tile 4 and B on tile `b`; tile `t` holds one. -/
def me8 (b : Nat) : MxEntry := { me 3 false with blk := [0x808, 1, 0, 0, 0, 0, 0, 0], b := ⟨0, [b], 0⟩ }
def ms8 (t : Nat) (e : MxEntry) : State :=
  { ms wt { m0 with entries := [e] } with cores := [(0, { Core.empty with scratch := [(4096 * t, 8)] })] }
/-- Copies that read and write, on both sides, one behind an operation on its bytes, one whose address fails, one that has faulted, one
that is done, a reply. -/
theorem hyps_EngineSteps_copies :
    (List.all [(ce (op false 0) (op true 0), false), (ce (op false 2) (op true 0), true), (ce (op true 0) (op false 0), false),
      (ce (op true 2) (op false 0), true)] fun x => copyReady x.1 x.2) = true ∧
    (let e := ce (op false 0) (op true 0)
     let x := { ce (op true 2) (op false 0) with num := 1 }
     let s := sc wt { cpage with copy := [x, e] }
     x ∈ ((s.core 0).copy.takeWhile fun e => e.num != 6) ∧ s.opSpot 0 x (op false 0) = s.opSpot 0 e (op false 0) ∧ (op false 0).state ≠ 2) ∧
    (let s := { sc wt { Core.empty with copy := [ce (op true 0) (op false 0)] } with regs := { Regs.reset with ctxcnt := 1 } }
     match (s.access (some 0) 0 0 0 256 .copyRead false true).1 with | .fault _ => True | _ => False) ∧
    (ce (op true 0) (op false 0)).reads[0]? = some (op true 0) ∧ (ce (op true 0) (op false 0)).writes[0]? = some (op false 0) ∧
    (let s := inb (.copy 0 6 0 false) wt { cpage with copy := [ce (op true 1) (op false 0)] }
     (s.core 0).inbox.length = 1 ∧ (s.core 0).tags.find? (fun t => t.tag == 0) = some { tag := 0, use := .copy 0 6 0 false }) ∧
    (let e := { ce (op true 0) (op false 0) with fault := some (1, 256, false) }
     (((cs e).core 0).copy.find? fun e => e.num == 6) = some e ∧ (sring []).regs.ring.en = true) ∧
    (∀ o ∈ (ce (op true 2) (op false 2)).writes, o.state = 2) ∧ ∃ o ∈ (ce (op true 2) (op false 0)).writes, o.state ≠ 2 := by
  and_intros <;> first | decide | exact trivial
/-- A command that is dropped and one that leads; one that joins it; a pass chosen, stepped, complete; a group with no ill-formed block,
one in A, one in B; MXZERO. -/
theorem hyps_EngineSteps_passes :
    leaderOf ({ m0 with entries := [me 3 false] } : Matrix).dropFaulted.readyCmds = some (me 3 false) ∧
    (let e := { me 4 false with rows := [2, 3] }
     e.num ≠ 3 ∧ e.b = (me 3 false).b ∧ (∀ i, i < 8 → blkW e.blk i = blkW (me 3 false).blk i) ∧ 2 + e.rows.length ≤ 64) ∧
    (let s := ms wt { m0 with entries := [me 3 false], run := some [3], tok := some 0 }
     s.stepGroup 0 = some 0 ∧ (s.mx 0).tok = some 0 ∧ (s.mx 0).burst < 4096) ∧
    (ms wt { m0 with entries := [{ me 3 false with next := 1 }], run := some [3] }).stepGroup 0 = none ∧
    (let e := me 3 false
     let x := opA e.blk e.a
     x.fmt < 8 ∧ x.len = 0 ∧ x.bm = false ∧ fld (blkW e.blk 0) 16 2 ≠ 1 ∧
     ∀ r ∈ e.rows, (ms wt { m0 with entries := [e] }).mxVals x r 0 ≠ none) ∧
    (let e := me8 3
     (ms8 4 e).mxVals (opA e.blk e.a) 0 0 = none ∧ (ms8 3 e).mxVals (opB e.blk e.b) 0 0 = none ∧
     ∀ r ∈ e.rows, (ms8 3 e).mxVals (opA e.blk e.a) r 0 ≠ none) ∧
    (let m := { m0 with entries := [me 3 true] }
     m.entries.find? (fun e => e.zero && m.ready e && !m.halted.contains e.ctx) = some (me 3 true) ∧ (me 3 true).tiles = [5]) := by
  and_intros <;> decide
/-- The waits of the matrix forms: a tile to bind; one to return, busy and not; a status, and a format fault; MXOWN both ways, and held
back; row accesses; a token that is wanted and one that is not; bursts that go on and end, with more and fewer tokens to come. -/
theorem hyps_EngineSteps :
    (let s := { ms (ww (.mxacq 1)) Matrix.empty with disp := { (sg wt []).disp with gangs := [{ tg with share := [7], names := [] }] } }
     s.warp? 0 = some (ww (.mxacq 1)) ∧ ((ww (.mxacq 1)).slot 0).wait = some (.mxacq 1) ∧ ((s.gang? 1).map fun g =>
       ((g.share.filter fun p => !g.names.any fun x => x.2 == p).head?, look 1 g.names, decide (g.names.length < g.lrec.atiles))) =
         some (some 7, none, true)) ∧
    (let w := ww (.mxrel 2 9)
     (ms w m0).warp? 0 = some w ∧ (ms w m0).mxName w 2 = some 5 ∧ ((ms w m0).mx w.cluster).entries = [] ∧ ((ms w m0).mx w.cluster).rws = [] ∧
     ∃ e ∈ ((ms w { m0 with entries := [me 3 false] }).mx w.cluster).entries, e.num < 9 ∧ 5 ∈ e.tiles) ∧
    (let w := { ww (.mxwait 2 70 9) with accs := [{ ac (.engine false) .glob true none with id := 9 }] }
     let faulty := { m0 with tiles := [(5, { tile5 with fdf := some (false, 0) })] }
     (ms w m0).mxName w 2 = some 5 ∧ bit (((ms w m0).mx w.cluster).status 5) 6 = false ∧ bit (((ms w faulty).mx w.cluster).status 5) 6 = true ∧
     w.accs.find? (fun a => a.id == 9) = some { ac (.engine false) .glob true none with id := 9 } ∧ (ms w m0).issue = some ci ∧ ci.slot = 0 ∧
     { ms w m0 with issue := none }.paused = []) ∧
    (let w := ww (.mxown true 0 [4] 9)
     ((ms w m0).core 0).writePending = [] ∧ ((ms w m0).core 0).readPending = [] ∧ w.sq = [] ∧ ((ms w m0).cluster 0).mx.entries = [] ∧
     ((ms w m0).cluster 0).qd.cursors = [] ∧
     ∃ e ∈ ((ms w { m0 with entries := [me 3 false] }).cluster 0).mx.entries, (0, 4) ∈ e.used) ∧
    (List.all [true, false] fun b =>
      let s := ms (ww (.mxrw 9)) { m0 with rws := [rw_ b] }
      decide ((s.mx 0).rws.find? (fun r => r.num == 9) = some (rw_ b)) && (s.mx 0).entries.isEmpty) = true ∧
    (∃ x ∈ ({ m0 with rws := [{ rw_ true with num := 8 }, rw_ false] } : Matrix).rws, x.w = 0 ∧ x.num < 9) ∧
    (let s := { ms wt { m0 with entries := [me 3 false] } with dies := [(0, { Die.reset with ring := [(1, 0), (2, 4)] })] }
     look 1 (s.die 0).ring = some 0 ∧ s.holderOf 0 1 = none ∧ (s.mx 0).tok = none ∧ s.wantsToken 0 = true ∧ look 2 (s.die 0).ring = some 4 ∧
     s.wantsToken 4 = false) ∧
    (let s := ms wt { m0 with tok := some 1 }
     (s.mx 0).tok = some 1 ∧ s.wantsToken 0 = false ∧ (s.die (clusterDie 0)).ring.length = (s.die (clusterDie 0)).target ∧
     Die.reset.ring.length < ({ Die.reset with target := 25 } : Die).target ∧ ({ Die.reset with target := 5 } : Die).target < Die.reset.ring.length) := by
  and_intros <;> decide

/-- A cursor bound to name 2 of gang 1, over two streams that hold nothing. -/
def strm : Stream := { enc := 0, sp := true, df := 0, base := 0, cnt := 0, aux := 0, next := 0, loc := 0, v := false, mr := false }
def cur : Cursor :=
  { ctx := 0, gang := 1, name := 2, cr := { mode := 0, a := strm, b := strm, lv := false, last := 0, hiv := false, hi := 0 }, oflt := none,
    pins := [], prb := false, plim := false, exh := false, tiles := [], la := none, lb := none, again := false, parked := none }
/-- A command of slot 0 on it, and its access. -/
def qc (kind : QdKind) (fault : Option (Nat × Nat × Nat)) : QdCmd :=
  { id := 4, w := 0, slot := 0, core := 0, ctx := 0, gang := 1, name := 2, kind, word := 0, fault, parked := none }
def qa (spans : List Span) : Access := { ac (.engine false) .glob true none with spans }
def qs (kind : QdKind) (cursors : List Cursor) (spans : List Span) : State :=
  { st (wa (qa spans)) with clusters := [(0, { Cluster.empty with qd := { cursors, cmds := [qc kind none] } })] }
/-- The engine can serve it now. -/
def qready (kind : QdKind) (cursors : List Cursor) (spans : List Span) : Bool :=
  let s := qs kind cursors spans
  decide ((s.qd 0).cmds[0]? = some (qc kind none)) && decide (s.cmdAccess (qc kind none) = some (wa (qa spans), qa spans)) &&
    s.qdTurn 0 0 (qc kind none) (wa (qa spans)) (qa spans)
/-- A push of one task to quarry 7, at the head of the store queue. -/
def tk : Task := { q := 7, thread := 0, pay := 5, key := 3, home := 0, slot := 0 }
def ep : SqEntry := { en (.push 7 [tk]) .glob 0 with busy := true }
/-- The quarry's shard on cluster 0 holds two tasks on chip and one spilled. -/
def shs (w : Warp) (chip : List QTask) (spilled : List SpTask) : State :=
  { sq w 64 with clusters := [(0, { Cluster.empty with shard := { chip, spilled, views := [] } })] }
def qt (key stamp : Nat) : QTask := { q := 7, pay := 5, key, slot := 0, stamp }
/-- A command to the shard. -/
def sa (kind : AKind) : Access := ac kind .glob true none
def pop (takers : List Nat) (at_ : Option (Bool × Nat)) : AKind := .shard (.pop 3 6 70 none takers [] at_)
/-- A cursor whose stream is one word of global memory, in a cluster whose TLB holds the page. -/
def gcur : Cursor := { cur with cr := { cur.cr with a := { strm with sp := false, cnt := 1 } } }
def gview (pg : List TlbEnt) (tr : List (Nat × Phys)) : QView :=
  ⟨{ qs (.next 6 70 none) [gcur] [] with clusters := [(0, { Cluster.empty with tlb := pg })], regs := { Regs.reset with ctxcnt := 1 } }, tr, none, none⟩
def gpage : List TlbEnt := [{ ctx := 0, base := 0, size := 32768, phys := ⟨0, 0⟩, w := true, x := false, pins := 0 }]
def takes1 (v : QView) : Except QErr (Nat × Bool) :=
  match v.deliver qTurns 32 gcur.cr [] with
  | .ok _ => .ok (0, true)
  | .error (.need va) => .ok (va, false)
  | .error e => .error e
/-- Every kind of command on a cursor, and those that ask for one; a delivery and a split that are answered; a line that must be read,
with a page and with none, and one that has been; records that bind and that do not; a stream fault. -/
theorem hyps_CoordinateAndWorklistSteps_cursors :
    (List.all [QdKind.close, .save, .probe 70, .next 6 70 none, .split true] fun k => qready k [] [] && ((qs k [] []).qd 0 |>.find 1 2).isNone) = true ∧
    (List.all [(QdKind.close, []), (.save, [sn 256 64 none]), (.next 6 70 none, []), (.split true, [sn 256 128 none, sn 384 128 none]), (.probe 70, [])]
      fun k => qready k.1 [cur] k.2 && decide (((qs k.1 [cur] k.2).qd 0).find 1 2 = some cur)) = true ∧
    (∀ x ∈ cur.cr.streams, x.sp = true) ∧ (qs .save [cur] [sn 256 64 none]).reaches ⟨0, 256⟩ 1 = true ∧
    (qs .save [cur] [sn 256 64 none]).reaches ⟨2, 256⟩ 1 = false ∧
    (let s := qs (.next 6 70 none) [cur] []
     (match (s.qdRun 0 0 false none none (fun q => q.deliver qTurns (threads (qa []).parts).length cur.cr []) cur.cr.lines []).1 with
      | .ok _ => true | _ => false) = true) ∧
    (let sp := [sn 256 128 none, sn 384 128 none]
     (match ((qs (.split true) [cur] sp).qdRun 0 0 false none none (fun q => q.split cur.cr true sp.length) cur.cr.lines []).1 with
      | .ok _ => true | _ => false) = true ∧ ∀ x ∈ sp, (qs (.split true) [cur] sp).reaches (x.phys.getD ⟨0, 0⟩) 1 = true) ∧
    ((match takes1 (gview gpage []) with | .ok (0, false) => true | _ => false) = true ∧
      (match takes1 (gview gpage [(0, ⟨0, 0⟩)]) with | .ok (_, true) => true | _ => false) = true ∧
      (match ((gview gpage []).s.access none 0 (clusterDie 0) 0 0 .index false true).1 with | .ok _ _ _ _ _ => true | _ => false) = true ∧
      (match ((gview [] []).s.access none 0 (clusterDie 0) 0 0 .index false true).1 with | .fault _ => true | _ => false) = true ∧
      (gview gpage []).s.reaches ⟨0, 0⟩ 0 = true) ∧
    (List.all [QdKind.openCur false, .openCur true, .load] fun k => qready k [] [sn 256 64 none] && qready k (List.replicate 16 cur) [sn 256 64 none]) = true ∧
    (curBad (List.replicate 64 0) false = false ∧ curBad (List.replicate 64 255) false = true ∧
      (∀ y ∈ (curOf (List.replicate 64 0) false).streams, y.sp = false ∧ y.start % y.align = 0) ∧
      (let bs := List.replicate 8 0 ++ 1 :: List.replicate 55 0
       curBad bs false = false ∧ ((curOf bs false).streams.find? fun y => y.start % y.align != 0).isSome = true)) ∧
    ((sring []).setQd 0 { cursors := [cur], cmds := [qc .close (some (1, 256, 0))] }).regs.ring.en = true := by
  and_intros <;> decide
/-- A push, below the VIEW and not; a window that falls; a refill, and a full shard; places inside and outside the window. -/
theorem hyps_CoordinateAndWorklistSteps_tasks :
    (let s := sq (we ep) 64
     s.warp? 0 = some (we ep) ∧ (we ep).sq = ep :: [] ∧ [tk][ep.next]? = some tk ∧ s.quarryId? 7 = some (qy 64) ∧ (0 : Nat) < 288) ∧
    ((shs wt [] [{ q := 7, key := 3, slot := 0, stamp := 1 }]).nextRefill 0).isSome = true ∧
    (let s := shs wt (List.replicate 4096 (qt 3 1)) []
     4096 ≤ (s.shard 0).chip.length ∧ qt 3 1 ∈ (s.shard 0).chip ∧ (qy 64).bench 1 < (qy 64).bench 3) ∧
    (let s := shs wt [] []
     s.view 0 7 ≤ (qy 64).bench 1 ∧ (qy 64).bench 1 < s.view 0 7 + 64 ∧ ¬((qy 64).bench 99 < s.view 0 7 + 64)) := by
  and_intros <;> decide
/-- Every command to a shard, its core's turn and not; descriptors that are refused and taken; pops with a task at home, with none, under a
stop; a steal, from a shard whose own cores wait and from one whose do not; a wave; a pass that finds a task and ones that find none,
the first and the second; a wait for QUIET. -/
theorem hyps_CoordinateAndWorklistSteps :
    (List.all [AKind.shard (.done 3), .shard (.giveBack 3 7), .shard (.quiet 3 70), .qyinit 70 3 0, pop [] none] fun k =>
      let s := shs (wa (sa k)) [qt 3 1] []
      decide (s.warp? 0 = some (wa (sa k))) && decide ((wa (sa k)).accs.find? (fun a => a.id == 4) = some (sa k)) && (wa (sa k)).shardTurn 0 &&
        decide (s.quarry? 0 3 = some (qy 64)) && (s.quarry? 0 2).isNone && decide (s.warps = [wa (sa k)])) = true ∧
    (let x := { wa (sa (.shard (.done 3))) with core := 1, uid := 1 }
     ∃ b ∈ x.accs, x.atShard b = true ∧ (1 + 3 - (Shard.empty).last) % 4 ≠ (0 + 3 - (Shard.empty).last) % 4) ∧
    (quarryOf (List.replicate 32 0) 0 3 = none ∧ (quarryOf (List.replicate 8 0 ++ 8 :: List.replicate 23 0) 0 3).isSome = true ∧ (qy 64).quiet = false ∧
      (shs wt [] []).quarry? 0 2 = none ∧ (shs wt [] []).quarries.length < 16 ∧ (qy 64).link = false) ∧
    (let w := wa (sa (pop [] none))
     ((threads (sa (pop [] none)).parts).filter fun t => !w.tasks.any fun k => k.q == 7 && k.thread == t) = [0] ∧ w.stop = false ∧
     ((shs w [qt 1 1] []).popOwn w.cluster (qy 64) ⟨3, 6, 70, none, [0], [], none⟩).1.got.length = 1 ∧
     ((shs w [qt 9 1] []).popOwn w.cluster (qy 64) ⟨3, 6, 70, none, [0], [], none⟩).1.got.length = 0 ∧
     ((shs w [qt 9 1] []).popNext w.cluster (qy 64) 0) = none ∧ ({ w with stop := true } : Warp).stop = true) ∧
    (let a := sa (pop [0] (some (false, 0)))
     let s := { sq (wa a) 64 with clusters := (victims 0).map fun v => (v, { Cluster.empty with shard := { Shard.empty with chip := [qt 1 1] } }) }
     s.popNext 0 (qy 64) 0 = some (1, 0) ∧ a.pop.isSome = true ∧ (∀ x ∈ s.warps, x.cluster ≠ 1) ∧
     (let x := { wa (sa (.shard (.done 3))) with uid := 1, core := 4 }; x.cluster = 1 ∧ ∃ b ∈ x.accs, x.atShard b = true)) ∧
    (shs wt [qt 3 1] []).floorOf (qy 64) = some 3 ∧
    ((shs wt [] []).inFlight 7 = [] ∧ (shs wt [] []).inTransit 7 = [] ∧ (∀ q ∈ (shs wt [] []).clusters, q.2.shard.keys 7 = []) ∧ (qy 64).pass = none ∧
      (qy 64).pushes = 0) ∧
    (let q := { qy 64 with members := [5] }
     let s := { shs wt [] [] with env := { State.reset.env with members := [{ dev := 5, lgid := 0, n := 3, chip := [(2, qt 1 1)], rest := [], view := 0, transit := false, pushes := 1 }] } }
     s.popNext 0 q 0 = some (288 * 6 + 2, 287 + 2) ∧ s.floorOf q = some 1 ∧ (farPart s q (288 * 6 + 2)).chip = [qt 1 1]) ∧
    (let w := { ww (.quiet 3 70 4) with accs := [sa (.shard (.quiet 3 70))], stop := true }
     (w.slot 0).wait = some (.quiet 3 70 4) ∧ w.shardTurn 0 = true ∧ (sq w 64).quietWord w 3 ≠ 0 ∧
     (sq { w with stop := false } 64).quietWord { w with stop := false } 3 = 0) := by
  and_intros <;> decide

/-! Steps of the other agents: dispatch, pre-emption, the host, the package. -/

/-- A page of context 0 from address 0 in cluster 0's TLB. -/
def cpg : Cluster :=
  { Cluster.empty with tlb := [{ ctx := 0, base := 0, size := 2 ^ 30, phys := ⟨0, 0⟩, w := true, x := false, pins := 0 }] }
/-- A launch record at address 0: one gang of `ng`, floor 1, no completion signal, wait condition 0 on signal 0. -/
def recB (ng : Byte) : List Byte :=
  List.replicate 12 0 ++ [ng] ++ List.replicate 11 0 ++ [0x80, 0, 0, 0, 0xFF, 0xFF, 0, 0] ++ List.replicate 8 0 ++ [0xFF, 0xFF]
    ++ List.replicate 6 0 ++ [0xFF, 0xFF] ++ List.replicate 6 0 ++ [0xFF, 0xFF]
/-- Context 0's descriptor is at 4096 and gives one signal. -/
def ds (q : Queue) (ng : Byte) : State :=
  let s : State := { st wt with clusters := [(0, cpg)], mem := cellsWrite (cellsWrite [] 0 (recB ng)) 4096 (List.replicate 16 0 ++ [1]) }
  { inQueue s 0 q with regs := { Regs.reset with rdyHost := true, ctxcnt := 1, ctxtab := 4096, rdyDie := 0x1FF } }
def dq : Queue := { Queue.reset with en := true, rlog2 := 4, tail := 1, ids := [0] }
/-- An accepted launch whose wait is met when the signal has reached `th`. -/
def lch (th ended : Nat) : Launch :=
  { id := 3, queue := 0, ctx := 0, count := 0, lrec := { loadRec with waits := [65536 * th, 0xFFFF, 0xFFFF, 0xFFFF] }, placed := 0, ended,
    cores := [0], abandoned := false }
def lds (q : Queue) (l : Launch) : State := let s := ds q 1; { s with disp := { s.disp with launches := [l] } }
/-- Cluster 0 is ready; the descriptor's first byte is `b`. -/
def pls (b : Byte) : State :=
  let s := lds { dq with cur := some 3, ready := some 0 } (lch 0 0)
  { s with dies := [(0, { Die.reset with clready := 1 })], mem := cellWrite s.mem 4096 b }
def placed (b : Byte) (clear : Bool) : Bool :=
  match (pls b).chooseCand (pls b).candidates with
  | none => false
  | some x => match x.place with
    | none => false
    | some (i, cores, sw) =>
      ((pls b).readCtx x.l.ctx).1.clear == clear && match ((pls b).readCtx x.l.ctx).2.prepare (searchCluster i) x.l.ctx cores x.l.lrec.fuse sw with
        | some s1 => (s1.launch? x.l.id).isSome
        | none => false
/-- Warps of lane 0 of core 0. -/
def lns (wl : List Warp) : State :=
  { st wt with warps := wl, cores := [(0, { cpage with lanes := [(0, wl.map fun w => w.uid)] })] }
/-- A warp that is parked on allocation for `n`. -/
def wal (n : Nat) : Warp := { wt with park := { wt.park with alloc := n } }
def wal2 : Warp :=
  { newWarp 1 (loadGang 1) loadRec loadCtx 0 0 0 1 0 with
    park := { wt.park with alloc := 9000 }, v := List.replicate 3 (.general (List.replicate 32 0)) ++ List.replicate 60 .unalloc }
def wrs (n : Nat) : Warp := { wt with park := { wt.park with restore := true }, spilled := [3], floor := n }
def wend (uid : Nat) : Warp := { newWarp uid (loadGang 1) loadRec loadCtx 0 0 0 uid 0 with exited := 0xFFFFFFFF }
/-- The head record of queue 0 lies in host memory, of which the lines `came` have come. -/
def dsh (came : List (Nat × Nat)) : State :=
  let s := ds dq 1
  { s with clusters := [(0, { cpg with tlb := cpg.tlb.map fun e => { e with phys := ⟨1, 0⟩ } })], env := { s.env with came } }
/-- A launch that is over, at step `zlr` of its release, with completion signal `sg`. -/
def lov (zlr sg : Nat) : Launch := { lch 0 1 with zlr, lrec := { loadRec with csig := sg } }
/-- A line of context 0 at address 256, with dirty sectors `d`. -/
def dl (d : Nat) (held : Bool) : L1Line := { ctx := 0, va := 256, valid := 15, dirty := d, held, data := List.replicate 128 7 }
set_option exponentiation.threshold 1024 in
/-- A head record of a context that does not exist, an illegal one, a legal one with a wait, one already read, one that does not reach its
place, one in host memory that is still to come and one that has come; waits met and not; a placement, and one whose descriptor is illegal;
places. -/
theorem hyps_DispatchSteps :
    (let s := ds dq 1
     s.regs.rdyHost = true ∧ (s.queue 0).en = true ∧ (s.queue 0).stopped = false ∧ (s.queue 0).cur = none ∧
     (s.queue 0).head % 2 ^ 32 ≠ (s.queue 0).tail % 2 ^ 32 ∧ (s.queue 0).ctx < s.regs.ctxcnt ∧ (s.queue 0).head < 2 ^ 32 ∧ 0 < 64 ∧
     s.regs.ctxcnt ≤ ((ds { dq with ctx := 1 } 1).queue 0).ctx ∧ ((ds { dq with cur := some 3 } 1).queue 0).cur ≠ none) ∧
    (List.all [((0 : Byte), false), (1, true)] fun y =>
      let s := ds dq y.1
      match (s.readCtx 0).2.dispAccess 0 (dq.slotVa dq.head) .load with
      | (.ok p _ _ _ _, s1) => s1.reaches p 0 && (s1.hostCame 0 [p]).1 && (lrecOf (s1.homeRead p 64)).good (s.readCtx 0).1 == y.2 &&
          !(lrecOf (s1.homeRead p 64)).conds.isEmpty
      | _ => false) = true ∧
    (List.all [([], false), ([(0, 0)], true)] fun (y : List (Nat × Nat) × Bool) =>
      match ((dsh y.1).readCtx 0).2.dispAccess 0 (dq.slotVa dq.head) .load with
      | (.ok p _ _ _ _, s1) => p.tgt == 1 && s1.reaches p 0 && (s1.hostCame 0 [p]).1 == y.2
      | _ => false) = true ∧
    (match (({ ds dq 1 with clusters := [] } : State).readCtx 0).2.dispAccess 0 (dq.slotVa dq.head) .load with
      | (.fault _, _) => true
      | _ => false) = true ∧
    (ds dq 1).reaches ⟨2, 0⟩ 0 = false ∧
    (List.all [0, 1] fun th =>
      let s := lds { dq with cur := some 3 } (lch th 0)
      decide (s.launch? 3 = some (lch th 0)) && decide ((s.queue 0).cur = some 3) && decide ((s.queue 0).ready = none) &&
        decide ((s.queue 0).ctx < s.regs.ctxcnt) &&
        (match (s.readCtx 0).2.signalPlaces 0 (s.readCtx 0).1.sigbase (lch th 0).lrec.conds with
          | (some ps, s1) => (ps.all fun p => s1.reaches p.2.2 0) && (s1.readSignals 0 ps).1 == (if th = 0 then [0] else [])
          | _ => false)) = true ∧
    (let s : State := { lds { dq with cur := some 3 } (lch 0 0) with clusters := [] }
     ((s.readCtx 0).2.signalPlaces 0 (s.readCtx 0).1.sigbase (lch 0 0).lrec.conds).1.isNone = true) ∧
    placed 0 true = true ∧ placed 1 false = true ∧ (pls 0).regs.deviceFatal = false ∧
    (match (pls 0).candidates with | x :: _ => x.place.isSome | [] => false) = true ∧
    ((pls 0).findPlace 0 loadRec).isSome = true ∧ ((pls 0).clusterFits 0 0 loadRec false).isSome = true := by
  and_intros <;> decide
set_option exponentiation.threshold 1024 in
/-- A launch that completes: lines still on their way, the zero-length read to ask for, asked for, returned, with a write to a peer on its
way and without; with a signal and none; lines to flush: clean, held, of a page that cannot be written, of one that can; TAIL values; a
queue that LNCH may add to, full and not; LNCH's release and its records. -/
theorem hyps_DispatchSteps_launches :
    (List.all [0, 1, 2] fun z => List.all [0xFFFF, 0] fun sg =>
      let s := lds dq (lov z sg)
      decide (s.launch? 3 = some (lov z sg)) && (s.core 0).tags.isEmpty && ((s.flushL1 0 (some 0) false).launch? 3).isSome &&
        s.env.posted.isEmpty &&
        (match ((s.flushL1 0 (some 0) false).readCtx 0).2.dispAccess 0 8 .atomic with | (.ok p _ _ _ _, s1) => s1.reaches p 2 | _ => false)) = true ∧
    (let s := lds dq (lov 2 0)
     let post : Posted := { tgt := 2, line := 0, bytes := [], ctx := 0, core := 0, data1 := 0 }
     (({ s with env := { s.env with posted := [post] } } : State).flushL1 0 (some 0) false).env.posted.any (fun x => x.tgt == 2) = true) ∧
    (∃ t ∈ (({ lds dq (lov 0 0) with cores := [(0, cfull)] } : State).core 0).tags, t.use = .wback) ∧
    (dl 0 false).dirty = 0 ∧ ((dl 3 true).dirty ≠ 0 ∧ (dl 3 true).held = true) ∧
    (let s := { st wt with cores := [(0, cpage)] }
     match s.wbPlace 0 0 256 with | (some p, s1) => s1.reaches p 1 | _ => false) = true ∧
    (match (st wt).wbPlace 0 0 256 with | (none, _) => true | _ => false) = true ∧
    (let x := (ds dq 1).queue 0
     x.src = false ∧ (x.tail + 2 ^ 32 - x.head) % 2 ^ 32 ≤ (2 + 2 ^ 32 - x.head) % 2 ^ 32 ∧ (2 + 2 ^ 32 - x.head) % 2 ^ 32 ≤ 2 ^ x.rlog2 ∧
     ¬(x.tail + 2 ^ 32 - x.head) % 2 ^ 32 ≤ (0 + 2 ^ 32 - x.head) % 2 ^ 32 ∧ 1 ≤ x.rlog2 ∧ x.rlog2 ≤ 16 ∧ x.rbase % 64 = 0) ∧
    (let s := ds { dq with src := true } 1
     let x := s.queue 0
     x.ctx = 0 ∧ x.src = true ∧ x.en = true ∧ x.stopped = false ∧ s.regs.deviceFatal = false ∧
     (lrecOf (((s.readCtx 0).2).homeRead ⟨0, 0⟩ 64)).good (s.readCtx 0).1 = true ∧ ¬(2 ^ x.rlog2 ≤ (x.tail + 2 ^ 32 - x.head) % 2 ^ 32) ∧
     (match ((s.readCtx 0).2.fillAt ⟨0, 0⟩ 64).dispAccess 0 ((x.rbase + 64 * (x.tail % 2 ^ x.rlog2)) % 2 ^ 64) .store with
       | (.ok _ _ _ _ _, _) => true | _ => false) = true) ∧
    (let x := (ds { dq with rlog2 := 1, tail := 2 } 1).queue 0
     2 ^ x.rlog2 ≤ (x.tail + 2 ^ 32 - x.head) % 2 ^ 32) ∧
    (let a := { ac (.lnch 6 false [(0, 0, 0)]) .glob true none with spans := [sn 256 64 none] }
     let f := { fr 4 0 false true [] with relDone := true, acc := some 4 }
     let w := { wt with fences := [f], accs := [a] }
     w.fences.find? (fun f => f.what == 4) = some f ∧ w.accs.find? (fun a => some a.id == f.acc) = some a ∧
     (∀ x ∈ a.spans, (ds dq 1).reaches (x.phys.getD ⟨0, 0⟩) 0 = true) ∧ ((ds dq 1).hostCame 0 (a.spans.map fun x => x.phys.getD ⟨0, 0⟩)).1 = true ∧
     ((dsh []).hostCame 0 [⟨1, 0⟩]).1 = false ∧ ({ f with relDone := false } : FenceRec).relDone = false ∧ w.storesOpen f.seq = false ∧
     ({ w with sq := [newEntry (st wt) ci wt .store .glob 0 1 [] true] } : Warp).storesOpen 9 = true) := by
  and_intros <;> decide
set_option exponentiation.threshold 1024 in
/-- A warp released and one that is not; a spill; a restore that fits and one that does not; the last warp of a gang, and one of two. -/
theorem hyps_DispatchSteps_lanes :
    (List.all [(5, true), (9000, false)] fun y =>
      decide (((lns [wal y.1]).laneWarps 0 0).find? (fun w => w.park.alloc != 0 && !w.park.restore) = some (wal y.1)) &&
        (lns [wal y.1]).poolHolds (wal y.1) y.1 == y.2) = true ∧
    (let s := lns [wal 9000, wal2]
     s.laneWarps 0 0 = [wal 9000, wal2] ∧ s.poolHolds (wal 9000) 9000 = false ∧
     [wal2].reverse.find? (fun w => !w.toSpill.isEmpty && w.park.faults.isEmpty) = some wal2 ∧
     (s.laneWrite wal2 (wal2.control + 480) (leBytes 4 wal2.depth)).1 = true) ∧
    (let w := wrs 1
     let s := lns [w]
     s.warp? 0 = some w ∧ (match s.spilledRegs w w.spilled with
       | (.inr rs, s1) => s1.poolHolds w (rs.foldl (fun n p => n + p.2.cost) w.claims) &&
           (s1.laneWrites w (rs.map fun p => (w.control + 8704 + p.1, [0]))).1
       | _ => false) = true) ∧
    (let w := { wrs 0 with v := (VReg.uniform 0) :: List.replicate 62 .unalloc }
     let s := lns [w, { wal2 with floor := 256 }]
     (match s.spilledRegs w w.spilled with
       | (.inr rs, s1) => !s1.poolHolds w (rs.foldl (fun n p => n + p.2.cost) w.claims)
       | _ => false) = true) ∧
    (List.all [[wend 0], [wend 0, wend 1]] fun wl => decide ((lns wl).warp? 0 = some (wend 0)) && (lns wl).warpOver (wend 0) &&
      ((lns wl).gang? 1).isSome && (((lns wl).unpair 0).removeWarp (wend 0)).warps.length + 1 == wl.length) = true := by
  and_intros <;> decide

/-- Channel 0 is `c`. -/
def chs (c : Chan) : State := { inChan (st wt) 0 c with clusters := [(0, cpg)] }
/-- The walk has gang 1 at stage `n`. -/
def walkS (n : Nat) : State := chs { Chan.reset with state := 2, cmd := 1, walk := [(1, n)] }
/-- The same where no warp of the gang is left. -/
def empS (n : Nat) : State := { walkS n with warps := [] }
/-- A saved gang of no warps, and the state that restores it; its context's descriptor begins with `b`. -/
def sgang : SavedGang := { stripe := 0, idx := 0, gang := loadGang 1, warps := [], entries := [], cursors := [] }
def rst (b : Byte) : State :=
  { chs { Chan.reset with state := 5, cmd := 3, saved := [sgang] } with
    warps := [], dies := [(0, { Die.reset with clready := 1 })], mem := cellWrite [] 4096 b
    regs := { Regs.reset with rdyHost := true, ctxcnt := 1, ctxtab := 4096, rdyDie := 0x1FF } }
set_option exponentiation.threshold 1024 in
/-- A channel that takes STOP, one that does not; grace and deadline over and not; each stage, ready and not; a restore, and one whose
descriptor is illegal. -/
theorem hyps_PreemptionSteps :
    (let s := chs Chan.reset
     (s.chan 0).state = 0 ∧ (∀ x ∈ s.chans, x.ctx = (s.chan 0).ctx → x.state = 0) ∧ ((walkS 2).chan 0).state ≠ 0) ∧
    (let c := { Chan.reset with state := 1, cmd := 1 }
     (chs c).disp.gangs.filter (fun g => g.ctx == c.ctx) ≠ [] ∧ c.grace ≤ ((chs c).now - c.since) / 1000 ∧
     c.deadline ≤ (({ chs c with now := 2000000 } : State).now - c.since) / 1000) ∧
    ((walkS 2).gang? 1).isSome = true ∧ (1, 2) ∈ ((walkS 2).chan 0).walk ∧ (∀ k ∈ (loadGang 1).cores, ((walkS 2).core k).copy = []) ∧
    (∃ e ∈ (({ walkS 2 with cores := [(0, { cpage with copy := [ce (op true 0) (op false 0)] })] } : State).core 0).copy, e.ctx = 0) ∧
    ((walkS 3).qd 0).cmds = [] ∧
    (let s := { walkS 3 with warps := [wa (qa [])], clusters := [(0, { cpg with qd := { cursors := [], cmds := [qc (.close) none] } })] }
     ∃ c ∈ (s.qd 0).cmds, c.ctx = 0 ∧ (s.cmdAccess c).isSome = true) ∧
    (let s := { walkS 5 with clusters := [] }
     (s.saveRunsAt 0 0 0 [(s.stripe 0 0, [5])]).1 = false) ∧
    (let s := { walkS 4 with clusters := [] }
     (s.saveWarps ((s.warps.filter fun w => w.gang == 1).foldl (fun s w => s.halt w.uid) s).warps).1 = false) ∧
    (let s := { walkS 4 with warps := [wa (ac (.load 4 false false 6) .glob true none)] }
     ∃ w ∈ ((s.warps.filter fun w => w.gang == 1).foldl (fun s w => s.halt w.uid) s).warps, w.quiet = false) ∧
    (let t := (((walkS 4).warps.filter fun w => w.gang == 1).foldl (fun s w => s.halt w.uid) (walkS 4))
     ∀ w ∈ t.warps, w.quiet = true) ∧ ((empS 4).saveWarps []).1 = true ∧
    (walkS 5).saveParked 0 = false ∧ ((walkS 5).mx 0).run = none ∧ ((walkS 5).saveRunsAt 0 0 0 []).1 = true ∧
    (let s := empS 6
     s.saveParked 0 = false ∧ s.drained (loadGang 1) = true ∧
     (s.saveRunsAt 0 0 0 [(s.stripe 0 0 + 1583104, gangRecord { loadGang 1 with tiles := [[]] } [[]])]).1 = true) ∧
    (List.all [(0 : Byte), 1] fun b =>
      let s := rst b
      s.restoreTurn (s.chan 0) && !s.saveParked 0 && decide ((s.chan 0).nextSaved = some sgang) &&
        (match s.restoreFits sgang with
          | some sw => ((s.readCtx 0).2.prepare 0 0 [0] false sw).isSome
          | none => false)) = true ∧
    (match (rst 0).restoreFits sgang with
      | some sw => match ((rst 0).readCtx 0).2.prepare 0 0 [0] false sw with
        | some s1 => (match s1.readParts 0 0 ([(s1.stripe 0 0 + 1583104, 128)] :: sgang.runs (s1.stripe 0 0)) with
          | (.inr (_ :: parts), _) => sgang.intact parts
          | _ => false)
        | none => false
      | none => false) = true ∧
    ({ rst 0 with dies := [] } : State).restoreFits sgang = none ∧
    (let s := { rst 0 with cores := [(0, { cpage with lineCtx := some 9, tags := [{ tag := 0, use := .wback }] })] }
     ((s.readCtx 0).2.prepare 0 0 [0] false false).isNone = true) ∧
    (let s := { rst 0 with clusters := [] }
     match s.readParts 0 0 [[(s.stripe 0 0, 128)]] with | (.inl _, _) => true | _ => false) = true ∧
    ({ sgang with entries := [(0, (7, me 3 false))] } : SavedGang).intact [[]] = false ∧
    ((chs { Chan.reset with state := 3 }).chan 0).state = 3 ∧ ((chs { Chan.reset with state := 6 }).chan 0).state ∉ [3, 4] ∧
    (∃ c ∈ (chs { Chan.reset with state := 2, begun := [(2, 0)] }).chans, c.state = 2 ∧ c.ctx = wt.ctx ∧ (2, wt.core) ∈ c.begun) := by
  and_intros <;> decide

/-- A record that has been written under SEQ 3. -/
def wrec : FaultRec := { frec with written := true, seq := 3 }
/-- Package registers of a part that is up, changed by `f`. -/
def up_ : Regs := { Regs.reset with rdyDie := 0x1FF, rdyStack := 0xFFF, rdyLink := 0xFFF, rdyHost := true, bootst := 1 }
def rs (r : Regs) : State := { st wt with regs := r }
/-- A host request of slice 2, and one of a fence. -/
def q1 : HReq := hr .read 1 [5] 0
def hq (ask : HostAsk) : State :=
  { hs q1 true with env := { State.reset.env with hostReqs := [{ tag := 5, ctx := 0, ask }] }, warps := [wf (fr 0 5 true true [])] }
/-- An answered record and an unknown SEQ; every kind of agent that a record parks; a legal ring and an illegal one; an invalidation that
starts, is busy, closes, does not; ranges that are hit and not. -/
theorem hyps_HostSteps :
    (List.all [4, 8] fun size => List.all [0, 8] fun off => decide (off % size = 0)) = true ∧
    ((rs Regs.reset).blockReady (blockOf 0x3000).1 = false ∧ (rs up_).blockReady (blockOf 0x3000).1 = true ∧
      (blockOf 0x3000).1.early = false ∧ (rs Regs.reset).regs.bootst ≠ 1 ∧
      ({ up_ with rdyHost := false } : Regs).bootst = 1 ∧ (rs { up_ with rdyHost := false }).blockReady (blockOf 0x3000).1 = false) ∧
    ((blockOf 0x3000).1 ≠ .none ∧ (blockOf 0x800000).1 = .none) ∧
    (rs { up_ with heldW := [(0x3000, 4, 1)] }).regs.heldW = [] ++ (0x3000, 4, 1) :: [] ∧
    ((rs up_).regs.power = 0 ∧ (rs Regs.reset).regs.heldW.length < 256 ∧ 256 ≤ (List.replicate 256 (0x3000, 4, 1)).length ∧
      ({ up_ with power := 1 } : Regs).power ≠ 0) ∧
    (sring [wrec]).regs.ring.recs.find? (fun x => x.written && x.seq == 3 % 2 ^ 32) = some wrec ∧
    (sring [wrec]).regs.ring.recs.find? (fun x => x.written && x.seq == 4 % 2 ^ 32) = none ∧
    (wrec.who = .warp 0 0 ∧ ({ wrec with who := .copy 0 3 } : FaultRec).who = .copy 0 3 ∧ ({ wrec with who := .save 2 } : FaultRec).who = .save 2 ∧
      ({ wrec with who := .coord 0 4 } : FaultRec).who = .coord 0 4 ∧ ((qs .close [] []).qd 0).cmds.find? (fun c => c.id == 4) = some (qc .close none)) ∧
    (let r := { Regs.reset.ring with log2 := 4 }
     4 ≤ r.log2 ∧ r.log2 ≤ 15 ∧ r.base % (32 * 2 ^ r.log2) = 0 ∧ r.en = false ∧ ¬(4 ≤ Regs.reset.ring.log2) ∧ (sring []).regs.ring.en = true) ∧
    (rs Regs.reset).regs.inval.busy = false ∧
    (let i := { Regs.reset.inval with busy := true, wait := [4], tags := [(0, 0)], lines := [(0, 0, 256)] }
     let s := rs { up_ with inval := i }
     s.regs.inval.busy = true ∧ (∀ w ∈ s.warps, (∀ a ∈ w.accs, a.id ∉ i.wait) ∧ ∀ e ∈ w.sq, e.id ∉ i.wait) ∧
     (∀ t ∈ i.tags, ∀ x ∈ (s.core t.1).tags, x.tag ≠ t.2) ∧
     (∀ t ∈ i.lines, ∀ l ∈ (s.core t.1).l1, l.ctx = t.2.1 → l.va = t.2.2 → l.dirty = 0) ∧
     (∃ t ∈ i.tags, ∃ x ∈ (({ s with cores := [(0, cfull)] } : State).core t.1).tags, x.tag = t.2)) ∧
    (Regs.reset.inval.hits 0 0 4096 = true ∧ Regs.reset.inval.hits 0 32768 4096 = false ∧
      ({ Regs.reset.inval with iall := true } : Inval).hits 0 32768 4096 = true) := by
  and_intros <;> decide
/-- Port 0 leads to device 0, whose memory may be read and written. -/
def linked : State :=
  let port : VPort := { en := true, up := true, pdup := false, far := 0 }
  let r := { up_ with vlroute := List.replicate 64 (2 ^ 16 + 1), vlport := up_.vlport.set 0 port }
  { rs r with env := { State.reset.env with peers := [{ dev := 0, reach := true, acl := 7, mem := [] }] } }
/-- A quarry that is linked with device 0. -/
def qlk : Quarry := { qy 64 with link := true, members := [0] }
def post (tgt line : Nat) : Posted := { tgt, line, bytes := [(0, 5)], ctx := 0, core := 0, data1 := 0 }
/-- BAR2 within memory, beyond it and beyond the BAR; MSI-X vectors masked, open, pending; ports that train, fall, lead back here, and a
quarry that one cuts off; peers with and without permission, of each kind; writes that reach the host and a peer, and one that is not the
first; PCIe completions for each that waits. -/
theorem hyps_HostSteps_links :
    ((rs up_).regs.power = 0 ∧ (∀ i, i < 4 → 0 + i < memTop → bit up_.rdyDie (sliceDie (homeOf ((0 + i) / 128))) = true ∧
        bit up_.rdyStack (stackOf (0 + i)) = true) ∧ 0 + 4 ≤ 2 ^ up_.bar2 ∧ ¬(2 ^ up_.bar2 + 1 ≤ 2 ^ up_.bar2) ∧
      (∀ i, i < 4 → memTop + i < memTop → bit up_.rdyDie (sliceDie (homeOf ((memTop + i) / 128))) = true) ∧ ¬(memTop + 4 ≤ memTop) ∧
      bit (rs Regs.reset).regs.rdyDie (sliceDie (homeOf 0)) = false) ∧
    (rs up_).regs.msix[71]? = some { addr := 0, data := 0, masked := true, pending := false } ∧
    (let r := { up_ with msixOn := true, msix := up_.msix.set 3 { addr := 0, data := 0, masked := false, pending := true } }
     (rs r).regs.msix[3]? = some { addr := 0, data := 0, masked := false, pending := true } ∧ r.msixOn = true ∧ r.msixMask = false ∧
     ({ r with msixOn := false } : Regs).msixOn ≠ true) ∧
    (linked.regs.vlport[0]? = some { en := true, up := true, pdup := false, far := 0 } ∧ (false ≠ true) ∧
      linked.regs.vlport[15]? = some { en := false, up := false, pdup := false, far := 0 } ∧
      1 % 64 ≠ linked.regs.devid ∧ 64 % 64 = linked.regs.devid) ∧
    (let s := { linked with quarries := [qlk] }
     ∃ q ∈ s.quarries, q.link = true ∧ ∃ d ∈ q.members, bit (s.regs.vlroute.getD d 0) 16 = true ∧
       bit (({ s with regs := { s.regs with vlroute := List.replicate 64 0 } } : State).regs.vlroute.getD d 0) 16 = false) ∧
    (0 + 4 ≤ memTop ∧ bit ((rs up_).regs.vlacl.getD 9 0) 0 = false ∧ ¬(memTop + 0 + 4 ≤ memTop) ∧
     (List.all [0, 1, 2] fun k => bit (({ up_ with vlacl := List.replicate 64 7 } : Regs).vlacl.getD 63 0) k) = true ∧
     atomOps[2 - 2]?.isSome = true ∧ atomOps[99 - 2]? = none) ∧
    (let s := { linked with agenda := [.land 1], env := { linked.env with posted := [post 2 0, post 1 3] } }
     s.agenda = [.land 1] ∧ s.env.posted[1]? = some (post 1 3) ∧ (∀ y ∈ s.env.posted.take 1, y.tgt = (post 1 3).tgt → (post 1 3).tgt ≠ 1) ∧
     s.bad = none ∧ s.env.posted[0]? = some (post 2 0) ∧ s.env.posted.take 0 = [] ∧ s.reaches ⟨2, 0⟩ 1 = true) ∧
    (List.all [HostAsk.fence 0 8, .slice 2 q1, .launch 3, .own 4] fun a =>
      (hq a).env.hostReqs.find? (fun x => x.tag == 5) == some { tag := 5, ctx := 0, ask := a }) = true ∧
    (((hq (.slice 2 q1)).slice 2).queue[0]? = some q1 ∧ q1.tgt = 1 ∧ 5 ∈ q1.pending ∧ ((hq (.slice 2 q1)).slice 2).queue.take 0 = [] ∧
      q1.kind ≠ .void ∧ ((hq (.slice 3 q1)).slice 3).queue = []) ∧
    ((hq (.fence 0 8)).warp? 0 = some (wf (fr 0 5 true true [])) ∧ (wf (fr 0 5 true true [])).fences.find? (fun y => y.id == 8) =
      some (fr 0 5 true true [])) ∧ (lds dq (lov 1 0)).launch? 3 = some (lov 1 0) := by
  and_intros <;> decide

/-- A packet of the request network at die 0 for die `dst`. -/
def fl (dst : Nat) : Flit := { src := 0, dst, at_ := 0, chan := 0, key := 0, path := [0], msg := .home 2 (hr .read 0 [] 0) }
def mss (dst : Nat) : State := { st wt with mesh := [fl dst], regs := up_ }
/-- The packet that `fl` follows has gone on to die `e`. -/
def onward (e dst : Nat) : Flit := { fl dst with at_ := e, path := [0, e] }
/-- Every link in state `n`, for 100,000 cycles. -/
def lks (n : Nat) (s : State) : State := { s with links := s.links.map fun p => (p.1, { p.2 with state := n }), now := 100000 }
/-- A packet one link from its end and one further off, one that follows another, one for a slice that is full; a link in each state, with
traffic and without; resets of both kinds, in D0 and without power; an image that boots and one that does not; functions that are due, one
that is ready, one that has failed. -/
theorem hyps_BringUpAndPowerSteps :
    ((mss 1).nextHop 0 (fl 1) = some 1 ∧ (mss 2).nextHop 0 (fl 2) = some 1 ∧ (look (linkAt 0 (portTo 0 1)) (mss 1).links).isSome = true ∧
      (mss 1).mesh[0]? = some (fl 1) ∧ (1 : Nat) ≠ (fl 2).dst) ∧
    ((fl 1).msg = .home 2 (hr .read 0 [] 0) ∧ 2048 ≤ (({ mss 1 with slices := [(2, { Slice.empty with
      queue := List.replicate 2048 (hr .read 0 [] 0) })] } : State).slice 2).queue.length) ∧
    (∀ g ∈ (mss 1).mesh.take 0, ¬(g.src = (fl 1).src ∧ g.dst = (fl 1).dst ∧ g.chan = (fl 1).chan ∧ g.key = (fl 1).key)) ∧
    (let s := { mss 4 with mesh := [onward 1 4, fl 4] }
     s.nextHop 1 (fl 4) = some 1 ∧ s.mesh[0]? = some (onward 1 4) ∧ 0 ∉ ([] : List Nat) ∧ (onward 1 4).path = [] ++ (fl 4).at_ :: 1 :: [] ∧
     (lks 2 s).linkWanted (linkAt 0 (portTo 0 1)) = true) ∧
    avail 0 0 1 = [1] ∧ (lks 2 (mss 1)).linkUp (linkAt 0 1) = false ∧ (lks 2 (mss 1)).linkWanted (linkAt 0 1) = true ∧
    (let s := { lks 0 (st wt) with dies := (List.range 9).map fun d => (d, { Die.reset with pden := true }) }
     (s.die 0).pden = true ∧ (s.die 1).pden = true ∧ s.linkBusy 0 = false ∧ max (max 64 (s.die 0).ith) (max 64 (s.die 1).ith) ≤ s.now - 0) ∧
    (lks 0 (mss 1)).linkBusy (linkAt 0 1) = true ∧ (List.all [0, 1, 2, 3] fun n => (look 0 (lks n (mss 1)).links).isSome) = true ∧
    State.reset.regs.bootst = 0 ∧ State.reset.regs.power = 0 ∧ (rs { Regs.reset with power := 2 }).regs.power = 2 ∧
    (State.reset.env.stored.signed = true ∧ State.reset.regs.minsvn ≤ State.reset.env.stored.svn) ∧
    ¬(({ State.reset.env.stored with signed := false } : ImageFacts).signed = true) ∧
    (let s := rs { Regs.reset with bootst := 1 }
     (List.all [0, 8, 9, 20, 21, 32, 33, 64, 351] fun fn => decide (s.regs.bootst = 1) && decide (s.regs.power = 0) && !s.isReady fn &&
       decide (fn ∉ s.regs.failed)) = true ∧ (rs up_).isReady 0 = true ∧ 7 ∈ (rs { up_ with failed := [7] }).regs.failed) := by
  and_intros <;> decide
/-- Stack 0's queue holds a read and a partial write; its row tables name nothing. -/
def sdq (l : List DieReq) : State := { rs up_ with hbm := [(0, { (rs up_).stack 0 with queue := l })] }
/-- Images to take and not; attestation requests with a free key and without; a soft error in a codeword that a queued request serves, of a
read, of a write whose slice does not hear of it, and in one that none serves; counters; dies with a burst and without, hot, cool, beyond
the limit; D3hot. -/
theorem hyps_BringUpAndPowerSteps_power :
    ((rs { Regs.reset with fwst := 1 }).regs.fwst = 1 ∧ State.reset.env.staged.signed = false ∧ (rs Regs.reset).regs.fwst ≠ 1 ∧
      ({ State.reset.env.staged with signed := true, svn := 3 } : ImageFacts).signed = true ∧ Regs.reset.minsvn ≤ 3) ∧
    ((rs Regs.reset).regs.keys < hssKeys ∧ (rs { Regs.reset with keys := hssKeys }).regs.keys ≥ hssKeys ∧ (3 : Nat) ∈ [1, 3, 5] ∧ 5 < 0xFE ∧ 0xFE ≠ 0xFF) ∧
    (List.all [dr false (.slice 2), dr true (.slice 2), dr true (.direct 0 8)] fun r =>
      decide ((sdq [r]).dieNext 0 = some 0) && decide (((sdq [r]).stack 0).queue[0]? = some r) && decide (r.pa ≤ 260 ∧ 260 < r.pa + 32 * r.n) &&
        (!r.write || decide (r.bmask ≠ 2 ^ 32 - 1))) = true ∧
    (sdq []).dieNext 0 = none ∧ ((dr false (.slice 2)).by_ = .slice 2 ∧ (dr true (.direct 0 8)).by_ = .direct 0 8 ∧ (sdq []).warp? 0 = some wt) ∧
    (0xFFFFFFFF : Nat) < 2 ^ 32 ∧
    (let s : State := { st wt with clusters := [(3, { Cluster.empty with mx := { Matrix.empty with tok := some 9 } })] }
     (s.mx (32 * 0 + 3)).tok ≠ none ∧ ∀ c, c < 32 → ((st wt).mx (32 * 0 + c)).tok = none) ∧
    (let x := (st wt).die 0
     let n := 20 * (2200 - 500) / 1700
     { x with target := n, ring := [] }.addTokens.ring.length ≠ 0 ∧ { x with target := n }.addTokens.ring.length = x.ring.length) ∧
    (let d := { Die.reset with throt := true }
     d.throt = true ∧ 16 * 89 < 16 * 90 ∧ Die.reset.throt = false ∧ 16 * 110 < 65536 ∧ 16 * 96 < 16 * 110 ∧ Die.reset.temp < 16 * 110 ∧
     16 * 110 ≤ ({ d with temp := 16 * 111 } : Die).temp) ∧
    (rs { Regs.reset with power := 1 }).regs.power = 1 ∧ (st wt).workingCtxs ≠ [] := by
  and_intros <;> decide

end Sys2Proof.Tests
end

section
/-! Memory as data (log entry 1): what a cell reads after a write, and that canonical memories are determined by what they
read. -/

namespace Sys2Proof.Machine

theorem cellsAbove_cons {lo : Option Nat} {x : Nat} {b : Byte} {r : List Host.Cell} :
    cellsAbove lo ((x, b) :: r) = true ↔ (∀ l, lo = some l → l < x) ∧ b ≠ 0 ∧ cellsAbove (some x) r = true := by
  cases lo <;> simp [cellsAbove, and_assoc]

/-- Below its bound a canonical memory lists nothing. -/
theorem cellRead_below {m : List Host.Cell} {lo a : Nat} (h : cellsAbove (some lo) m = true) (ha : a ≤ lo) :
    cellRead m a = 0 := by
  cases m with
  | nil => rfl
  | cons p r =>
    obtain ⟨hx, -, -⟩ := cellsAbove_cons.1 h
    exact if_pos (lt_of_le_of_lt ha (hx lo rfl))

/-- A byte written reads back, and every other byte stays. -/
theorem cellRead_cellWrite {m : List Host.Cell} {lo : Option Nat} (h : cellsAbove lo m = true) (a b : Nat) (v : Byte) :
    cellRead (cellWrite m a v) b = if b = a then v else cellRead m b := by
  induction m generalizing lo with
  | nil =>
    by_cases hv : v = 0#8
    · simp [cellWrite, cellRead, hv]
    · by_cases hb : b = a
      · simp [cellWrite, cellRead, hv, hb]
      · simp [cellWrite, cellRead, hv, hb]
  | cons p r ih =>
    obtain ⟨x, c⟩ := p
    obtain ⟨-, -, hr⟩ := cellsAbove_cons.1 h
    have below : ∀ y, y ≤ x → cellRead r y = 0 := fun y => cellRead_below hr
    rcases lt_trichotomy a x with hax | rfl | hax
    · by_cases hv : v = 0#8
      · by_cases hb : b = a
        · simp [cellWrite, cellRead, hv, hb, hax]
        · simp [cellWrite, hv, hb, hax]
      · rcases lt_trichotomy b a with hb | rfl | hb
        · simp [cellWrite, cellRead, hv, hax, hb, hb.ne, hb.trans hax]
        · simp [cellWrite, cellRead, hv, hax]
        · simp [cellWrite, cellRead, hv, hax, hb.ne', hb.not_gt]
    · by_cases hv : v = 0#8
      · rcases lt_trichotomy b a with hb | rfl | hb
        · simp [cellWrite, cellRead, hv, hb, hb.ne, below b hb.le]
        · simp [cellWrite, hv, below]
        · simp [cellWrite, cellRead, hv, hb.ne', hb.not_gt]
      · by_cases hb : b = a <;> simp [cellWrite, cellRead, hv, hb]
    · have hw : cellWrite ((x, c) :: r) a v = (x, c) :: cellWrite r a v := by
        simp [cellWrite, hax.ne', hax.not_gt]
      rw [hw, cellRead, cellRead, ih hr]
      rcases lt_trichotomy b x with hb | rfl | hb
      · simp [hb, (hb.trans hax).ne]
      · simp [hax.ne]
      · simp [hb.ne', hb.not_gt]

/-- Consecutive bytes written from `a` read back, and every other byte stays. -/
theorem cellRead_cellsWrite {m : List Host.Cell} (h : Memory.wf m = true) (a b : Nat) (bs : List Byte) :
    cellRead (cellsWrite m a bs) b = if a ≤ b then (bs[b - a]?).getD (cellRead m b) else cellRead m b := by
  induction bs generalizing m a with
  | nil => simp [cellsWrite]
  | cons v vs ih =>
    rw [cellsWrite, ih (wf_cellWrite h a v), cellRead_cellWrite h]
    rcases lt_trichotomy b a with hb | rfl | hb
    · simp [hb.ne, hb.not_ge, show ¬a + 1 ≤ b by omega]
    · simp
    · obtain ⟨k, rfl⟩ := Nat.exists_eq_add_of_lt hb
      simp [show a + k + 1 - a = k + 1 by omega, show a + k + 1 - (a + 1) = k by omega, show a + 1 ≤ a + k + 1 by omega,
        show a ≤ a + k + 1 by omega, hb.ne']

/-- A listed byte is not 0. -/
theorem cellRead_head {lo : Option Nat} {x : Nat} {b : Byte} {r : List Host.Cell} (h : cellsAbove lo ((x, b) :: r) = true) :
    cellRead ((x, b) :: r) x ≠ 0 := by
  obtain ⟨-, hb, -⟩ := cellsAbove_cons.1 h
  simpa [cellRead] using hb

/-- Canonical memories that read alike are equal. -/
theorem eq_of_cellRead_eq {m n : List Host.Cell} {lo : Option Nat} (hm : cellsAbove lo m = true)
    (hn : cellsAbove lo n = true) (h : ∀ a, cellRead m a = cellRead n a) : m = n := by
  induction m generalizing n lo with
  | nil =>
    cases n with
    | nil => rfl
    | cons q t => exact absurd (h q.1).symm (cellRead_head hn)
  | cons p r ih =>
    obtain ⟨x, b⟩ := p
    cases n with
    | nil => exact absurd (h x) (cellRead_head hm)
    | cons q t =>
      obtain ⟨y, c⟩ := q
      have hxy : x = y := by
        rcases lt_trichotomy x y with hlt | heq | hlt
        · exact absurd (by rw [h x]; simp [cellRead, hlt]) (cellRead_head hm)
        · exact heq
        · exact absurd (by rw [← h y]; simp [cellRead, hlt]) (cellRead_head hn)
      subst hxy
      have hbc : b = c := by simpa [cellRead] using h x
      obtain ⟨-, -, hr⟩ := cellsAbove_cons.1 hm
      obtain ⟨-, -, ht⟩ := cellsAbove_cons.1 hn
      refine congrArg₂ _ (by rw [hbc]) (ih hr ht fun a => ?_)
      rcases le_or_gt a x with ha | ha
      · rw [cellRead_below hr ha, cellRead_below ht ha]
      · simpa [cellRead, ha.ne', ha.not_gt] using h a

end Sys2Proof.Machine

open Sys2Proof.Machine

/-- Settles O47, by induction on the cells in rising order and on the bytes written. -/
theorem memoryCells : Obligations.MemoryCells := by
  unfold Obligations.MemoryCells
  exact ⟨fun m a b v h => ⟨wf_cellWrite h a v, cellRead_cellWrite h a b v⟩,
    fun m a b bs h => ⟨wf_cellsWrite h a bs, cellRead_cellsWrite h a b bs⟩,
    fun m n hm hn h => eq_of_cellRead_eq hm hn h⟩
end

section
namespace Sys2Proof.Machine

/-- Within an aligned block of `n` bytes that divides `m`, the place in the enclosing block of `m` bytes moves with the byte. -/
theorem aligned_div_mod {n m o j : Nat} (hm : n ∣ m) (h0 : 0 < m) (ho : o % n = 0) (hj : j < n) :
    (o + j) / m = o / m ∧ (o + j) % m = o % m + j := by
  have hlt : o % m + j < m := by
    obtain ⟨a, ha⟩ : n ∣ o % m := (Nat.dvd_mod_iff hm).2 (Nat.dvd_of_mod_eq_zero ho)
    obtain ⟨b, rfl⟩ := hm
    have hab : a < b := lt_of_mul_lt_mul_left (ha ▸ Nat.mod_lt o h0) (Nat.zero_le n)
    calc o % (n * b) + j < n * a + n := by omega
      _ = n * (a + 1) := by ring
      _ ≤ n * b := Nat.mul_le_mul_left n hab
  have e : o + j = m * (o / m) + (o % m + j) := by have := Nat.div_add_mod o m; omega
  exact ⟨by rw [e, Nat.mul_add_div h0, Nat.div_eq_of_lt hlt, Nat.add_zero],
    by rw [e, Nat.mul_add_mod, Nat.mod_eq_of_lt hlt]⟩

/-- Byte `j` of an aligned word of a thread's own space follows the word's address (R28). -/
theorem privAddr_add (w : Warp) (t : Nat) {o j n : Nat} (hn : n ∣ 4) (ho : o % n = 0) (hj : j < n) :
    (privAddr w t o + j) % 2 ^ 64 =
      (w.pvbase.toNat + (32 * ((o + j) / 4) + t) * 4 + (o + j) % 4) % 2 ^ 64 := by
  obtain ⟨hd, hm⟩ := aligned_div_mod hn (by norm_num) ho hj
  rw [hd, hm, privAddr, Nat.mod_add_mod, Nat.add_assoc]

/-- Byte `j` of an aligned scratchpad access lies in the tile of its first byte (R96). -/
theorem tilePlace_add (tiles : List Nat) {o j n : Nat} (hn : n ∣ 4096) (ho : o % n = 0) (hj : j < n) :
    tilePlace tiles o + j = 4096 * tiles.getD ((o + j) / 4096) 0 + (o + j) % 4096 := by
  obtain ⟨hd, hm⟩ := aligned_div_mod hn (by norm_num) ho hj
  rw [hd, hm, tilePlace]; ring

/-- A span holds byte `j` of an access of thread `t` that stores `data`. -/
structure Span.Holds (x : Span) (t j : Nat) (data : List Byte) : Prop where
  thread : x.t = t
  low : x.at_ ≤ j
  high : j < x.at_ + x.len
  data : x.data[j - x.at_]? = data[j]?

theorem holds_mk' {t j size : Nat} (va : Nat) (data : List Byte) (hj : j < size) :
    (Span.mk' t va 0 size data).Holds t j data := ⟨rfl, Nat.zero_le j, by simpa [Span.mk'] using hj, rfl⟩

/-- Word `j / 4` of an access of several words to a thread's own space holds byte `j`. -/
theorem holds_word {t j : Nat} (va : Nat) (data : List Byte) :
    (Span.mk' t va (4 * (j / 4)) 4 ((data.drop (4 * (j / 4))).take 4)).Holds t j data := by
  have h : 4 * (j / 4) + j % 4 = j := Nat.div_add_mod j 4
  have hr : j % 4 < 4 := Nat.mod_lt j (by norm_num)
  refine ⟨rfl, ?_, ?_, ?_⟩
  · simp only [Span.mk']; omega
  · simp only [Span.mk']; omega
  · have e : j - 4 * (j / 4) = j % 4 := by omega
    simp only [Span.mk', e, List.getElem?_take, hr, if_true, List.getElem?_drop, h]

/-- The words of an access of more than four bytes to a thread's own space (R28). -/
theorem placeSpans_private_words {w : Warp} {m : MemCode} (hm : m.sp = 2) (tiles : List Nat) (t : Nat) {size : Nat}
    (hs : ¬size ≤ 4) (o : Nat) (data : List Byte) :
    placeSpans w m tiles false t size o data = (List.range (size / 4)).map fun k =>
      Span.mk' t (privAddr w t (o + 4 * k)) (4 * k) 4 ((data.drop (4 * k)).take 4) := by
  simp [placeSpans, hm, hs]

/-- Every other access is one span. -/
theorem placeSpans_single {w : Warp} {m : MemCode} (tiles : List Nat) (t : Nat) {size : Nat} (hs : m.sp ≠ 2 ∨ size ≤ 4)
    (o : Nat) (data : List Byte) :
    placeSpans w m tiles false t size o data =
      [Span.mk' t (if m.sp = 1 then tilePlace tiles o else if m.sp = 2 then privAddr w t o else o) 0 size data] := by
  unfold placeSpans
  by_cases h1 : m.sp = 1
  · simp [h1]
  · by_cases h2 : m.sp = 2
    · simp [h2, hs.resolve_left (by simp [h2])]
    · simp [h1, h2]

end Sys2Proof.Machine

open Sys2Proof Sys2Proof.Machine

/-- Settles O28: an access is one span, whose bytes follow its aligned first byte, or, in a thread's own
space, words, of which word `j / 4` alone holds byte `j`. -/
theorem placesOfBytes : Obligations.PlacesOfBytes := by
  unfold Obligations.PlacesOfBytes
  intro w m tiles t size o j data hsize ho hj hlen
  simp only
  by_cases hw : m.sp = 2 ∧ ¬size ≤ 4
  · obtain ⟨hm, hs⟩ := hw
    have hk : j / 4 < size / 4 ∧ o % 4 = 0 := by
      simp only [List.mem_cons, List.not_mem_nil, or_false] at hsize
      rcases hsize with rfl | rfl | rfl | rfl | rfl <;> omega
    rw [placeSpans_private_words hm tiles t hs]
    constructor
    · obtain ⟨ht, hl, hh, hd⟩ := holds_word (t := t) (j := j) (privAddr w t (o + 4 * (j / 4))) data
      refine ⟨_, List.mem_map_of_mem (List.mem_range.2 hk.1), ht, hl, hh, hd, fun _ => ?_, fun h => absurd hm h⟩
      have hj4 : j - 4 * (j / 4) = j % 4 := by omega
      have e : o + 4 * (j / 4) + j % 4 = o + j := by omega
      simp only [Span.mk', hm, if_true, hj4]
      rw [privAddr_add w t (dvd_refl 4) (by omega) (Nat.mod_lt j (by norm_num)), e]
    · intro x hx y hy hx1 hx2 hy1 hy2
      obtain ⟨a, -, rfl⟩ := List.mem_map.1 hx
      obtain ⟨b, -, rfl⟩ := List.mem_map.1 hy
      simp only [Span.mk'] at hx1 hx2 hy1 hy2
      rw [show a = b by omega]
  · have hsingle : m.sp ≠ 2 ∨ size ≤ 4 := by omega
    rw [placeSpans_single tiles t hsingle]
    refine ⟨?_, by simp⟩
    obtain ⟨ht, hl, hh, hd⟩ := holds_mk' (t := t)
      (if m.sp = 1 then tilePlace tiles o else if m.sp = 2 then privAddr w t o else o) data hj
    refine ⟨_, List.mem_singleton_self _, ht, hl, hh, hd, fun h2 => ?_, fun h2 => ?_⟩
    · have h4 : size ∣ 4 := by
        have := hsingle.resolve_left (by simp [h2])
        simp only [List.mem_cons, List.not_mem_nil, or_false] at hsize
        rcases hsize with rfl | rfl | rfl | rfl | rfl <;> revert this <;> decide
      simpa [Span.mk', h2] using privAddr_add w t h4 ho hj
    · have h4096 : size ∣ 4096 := by
        simp only [List.mem_cons, List.not_mem_nil, or_false] at hsize
        rcases hsize with rfl | rfl | rfl | rfl | rfl <;> decide
      by_cases h1 : m.sp = 1
      · simpa [Span.mk', h1] using tilePlace_add tiles h4096 ho hj
      · simp [Span.mk', h1, h2]
end

section
open Sys2Proof Sys2Proof.Machine

/-- RDSR of system register 0 with bit [9] of its immediate set: the bit is a field of no register code, and the checks of
an encoding let it stand (R189, R192). -/
def rdsrBit9 : Instr := .rdsr Hdr.plain 5 0 0x200

/-- Its word's bit [9], by which R71 tells RDSR from WRSR, makes it a WRSR of a register that WRSR may not write. -/
theorem decode_rdsrBit9 : decode (encode rdsrBit9) 0 = .error ⟨0, 0x2B0A0200⟩ := by decide

/-- Refutes O44: RDSR with bit [9] of its immediate set is well-formed, and its word reads as WRSR. -/
theorem not_decodeOfEncode : ¬ Obligations.DecodeOfEncode := by
  unfold Obligations.DecodeOfEncode
  intro h
  obtain ⟨p, -, hp⟩ := (h rdsrBit9 [] (by decide) (by decide)).2 (by decide)
  rw [List.append_nil, decode_rdsrBit9] at hp
  cases hp
end

section
/-! A transfer in a calm warp (R17, R147): the groups that its threads form, and the slots that take them. -/

namespace Sys2Proof.Machine

/-! The warp as it retires. -/

/-- The warp when its word or chain has completed and its threads have not moved yet (R17). -/
def Warp.retiring (w : Warp) (c : Issue) : Warp :=
  let sl := { w.slot c.slot with last := w.seq + 1, prev := (w.slot c.slot).pc }
  { w with
    fsr := (w.orFlags c.flags).fsr, seq := w.seq + 1, grants := w.grants + 1, lastSlot := c.slot,
    lastIns := ⟨c.slot, c.fpc, c.npc, c.wslot, c.word, w.lastIns.parked⟩, slots := w.slots.set c.slot sl,
    park := { w.park with marker := w.park.marker || c.marker } }

theorem retiring_slot (w : Warp) (c : Issue) (h : c.slot < w.slots.length) (j : Nat) :
    (w.retiring c).slot j =
      if j = c.slot then { w.slot c.slot with last := w.seq + 1, prev := (w.slot c.slot).pc } else w.slot j :=
  slot_setSlot w _ h j

@[simp] theorem retiring_length (w : Warp) (c : Issue) : (w.retiring c).slots.length = w.slots.length := by
  simp [Warp.retiring]

/-- Where the threads of a chain without a trap move to groups whose placing leaves the warp calm, nothing more is due:
only boundaries follow. -/
theorem retire_groups {s : State} {c : Issue} {w : Warp} {gs : List (DWord × Mask)} (hi : s.issue = some c)
    (hw : s.warp? c.uid = some w) (ht : c.trap = none) (h2 : c.slot < 2)
    (hu : ((w.retiring c).placeGroups c.slot gs).uid = c.uid)
    (hc : ((w.retiring c).placeGroups c.slot gs).calm c.slot = true) (bnd : Bnd) :
    ∃ w', s.retire bnd (some gs) = { s with issue := none }.setWarp w' ∧
      SameWarp ((w.retiring c).placeGroups c.slot gs) w' := by
  let first := gs.headD (c.npc, 0)
  let split := gs.length != 1 || gs.foldl (fun m g => m ||| g.2) 0 != (w.slot c.slot).mask
  let w3 := (w.retiring c).placeGroups c.slot gs
  let w4 : Warp := if split then w3.boundary (w.seq + 1) c.slot first.1 first.2
    else if c.marker || c.bound || bnd == .after || bnd == .self then w3.boundary (w.seq + 1) c.slot first.1 first.2
    else w3
  have h4 : SameWarp w3 w4 := by
    by_cases h : split = true
    · simp only [w4, h, if_true]; exact .boundary _ _ _ _ _
    · by_cases hb : (c.marker || c.bound || bnd == .after || bnd == .self) = true
      · simp only [w4, h, hb, if_true]; exact .boundary _ _ _ _ _
      · simp only [w4, h, hb]; exact .rfl' _
  have hu4 : w4.uid = c.uid := by rw [h4.frame]; exact hu
  have hcalm : w4.calm c.slot = true := calm_of hc h4.length h4.mask h4.wait (by rw [h4.frame]) (by rw [h4.frame])
    (by rw [h4.frame]) (by rw [h4.frame])
  have hgo : s.retire bnd (some gs) =
      (({ s with issue := none }.setWarp w4).modWarp c.uid Warp.testRejoins).settle c.uid := by
    unfold State.retire
    simp only [cur_eq hi hw, ht, marked_eq]
    rfl
  have hw0 : ({ s with issue := none } : State).warp? w4.uid = some w := by rw [hu4]; exact hw
  refine ⟨w4, ?_, h4⟩
  rw [hgo, modWarp_setWarp_id _ _ hu4 (testRejoins_calm hcalm), ← hu4]
  exact settle_calm hw0 hcalm h2

/-! Placing one group, and two. -/

theorem placeGroups_one (w : Warp) (k : Nat) (g : DWord × Mask) :
    w.placeGroups k [g] = w.setSlot k { w.slot k with pc := g.1, mask := g.2 } := rfl

theorem placeGroups_two {w : Warp} {k : Nat} (hf : w.slotFree (1 - k) = true) (h2 : k < 2) (hl : k < w.slots.length)
    (g g' : DWord × Mask) :
    w.placeGroups k [g, g'] = (w.setSlot k { w.slot k with pc := g.1, mask := g.2 }).place (1 - k) g' := by
  have hslot : (w.setSlot k { w.slot k with pc := g.1, mask := g.2 }).slot (1 - k) = w.slot (1 - k) := by
    rw [slot_setSlot w _ hl, if_neg (by omega)]
  have hfree : (w.setSlot k { w.slot k with pc := g.1, mask := g.2 }).slotFree (1 - k) = true := by
    simpa only [Warp.slotFree, Warp.frozen, hslot, setSlot_warp_handler] using hf
  simp only [Warp.placeGroups, hfree, if_true, List.reverse_nil, List.append_nil]
  rfl

theorem place_slot {w : Warp} {k : Nat} (h : k < w.slots.length) (g : DWord × Mask) (j : Nat) :
    (w.place k g).slot j = if j = k then { w.slot k with pc := g.1, mask := g.2, epc := g.1, emask := g.2 } else w.slot j :=
  slot_setSlot w _ h j

/-! Groups of threads by next PC (R147). -/

theorem maskOf_cons (t : Nat) (ts : List Nat) : maskOf (t :: ts) = maskOf ts ||| maskOf [t] := by
  refine mask_ext fun x hx => ?_
  simp only [has_or, has_maskOf, List.mem_cons, List.not_mem_nil, or_false, hx, decide_true, Bool.and_true]
  by_cases h : x = t <;> simp [h]

/-- The group of a PC holds the threads that go there. -/
theorem groupBy_find (pc : DWord) (l : List (DWord × Nat)) :
    (((groupBy l).find? fun g => g.1 == pc).map (·.2)).getD 0 = maskOf ((l.filter fun x => x.1 == pc).map (·.2)) := by
  induction l with
  | nil => rfl
  | cons x r ih =>
    obtain ⟨pc', t⟩ := x
    by_cases h : pc' = pc
    · subst h
      simp only [groupBy, List.find?_cons, List.filter_cons, beq_self_eq_true, if_true, Option.map_some, Option.getD_some,
        List.map_cons]
      rw [maskOf_cons t ((r.filter fun x => x.1 == pc').map (·.2)), ih]
    · have hg : ∀ g : DWord × Mask, decide ((g.1 != pc') = true ∧ (g.1 == pc) = true) = (g.1 == pc) := fun g => by
        by_cases hg : g.1 = pc
        · simp [hg, Ne.symm h]
        · simp [hg]
      simp only [groupBy, List.find?_cons, List.filter_cons, beq_eq_false_iff_ne.2 h, List.find?_filter, hg,
        Bool.false_eq_true, if_false]
      exact ih

/-- The groups of the other PCs are those of the other threads. -/
theorem groupBy_filter (pc : DWord) (l : List (DWord × Nat)) :
    (groupBy l).filter (fun g => g.1 != pc) = groupBy (l.filter fun x => x.1 != pc) := by
  induction l with
  | nil => rfl
  | cons x r ih =>
    obtain ⟨pc', t⟩ := x
    by_cases h : pc' = pc
    · subst h
      simp only [groupBy, List.filter_cons, bne_self_eq_false, Bool.false_eq_true, if_false, List.filter_filter, Bool.and_self]
      exact ih
    · have hm : (r.filter fun x => x.1 != pc).filter (fun x => x.1 == pc') = r.filter fun x => x.1 == pc' := by
        rw [List.filter_filter]
        refine List.filter_congr fun x _ => ?_
        by_cases hx : x.1 = pc'
        · simp [hx, h]
        · simp [hx]
      have hc : ((groupBy r).filter fun g => g.1 != pc').filter (fun g => g.1 != pc) =
          (groupBy (r.filter fun x => x.1 != pc)).filter fun g => g.1 != pc' := by
        rw [← ih, List.filter_filter, List.filter_filter]
        exact List.filter_congr fun x _ => Bool.and_comm _ _
      simp only [groupBy, List.filter_cons, bne_iff_ne, ne_eq, h, not_false_eq_true, if_true, groupBy_find, hm, hc]

/-- The first group is that of the first thread's PC. -/
theorem groupBy_cons (pc : DWord) (t : Nat) (l : List (DWord × Nat)) :
    groupBy ((pc, t) :: l) =
      (pc, maskOf (t :: (l.filter fun x => x.1 == pc).map (·.2))) :: groupBy (l.filter fun x => x.1 != pc) := by
  rw [groupBy]
  simp only [groupBy_find, groupBy_filter]
  rw [← maskOf_cons t]

/-- Threads that have one next PC form one group. -/
theorem groupBy_same {p : DWord} {f : Nat → DWord} {l : List Nat} (hl : l ≠ []) (hf : ∀ t ∈ l, f t = p) :
    groupBy (l.map fun t => (f t, t)) = [(p, maskOf l)] := by
  obtain ⟨t, ts, rfl⟩ := List.exists_cons_of_ne_nil hl
  have hp : ∀ u ∈ ts, f u = p := fun u hu => hf u (List.mem_cons_of_mem t hu)
  have h1 : (ts.map fun t => (f t, t)).filter (fun x => x.1 == p) = ts.map fun t => (f t, t) := by
    rw [List.filter_eq_self]
    intro x hx
    obtain ⟨u, hu, rfl⟩ := List.mem_map.1 hx
    simp [hp u hu]
  have h2 : (ts.map fun t => (f t, t)).filter (fun x => x.1 != p) = [] := by
    rw [List.filter_eq_nil_iff]
    intro x hx
    obtain ⟨u, hu, rfl⟩ := List.mem_map.1 hx
    simp [hp u hu]
  rw [List.map_cons, hf t List.mem_cons_self, groupBy_cons, h1, h2, List.map_map]
  simp [groupBy, Function.comp_def]

/-- Threads that have two next PCs form two groups, the first thread's first. -/
theorem groupBy_split {p q : DWord} (hpq : p ≠ q) {a : Nat → Bool} {f : Nat → DWord} {t : Nat} {ts : List Nat}
    (ht : a t = true) (hs : ∃ u ∈ ts, a u = false) (hf : ∀ u ∈ t :: ts, f u = if a u then p else q) :
    groupBy ((t :: ts).map fun t => (f t, t)) =
      [(p, maskOf ((t :: ts).filter a)), (q, maskOf ((t :: ts).filter fun u => !a u))] := by
  have hts : ∀ u ∈ ts, f u = if a u then p else q := fun u hu => hf u (List.mem_cons_of_mem t hu)
  have hfil : ∀ (b : DWord → Bool) (c : Nat → Bool), (∀ u ∈ ts, b (f u) = c u) →
      (ts.map fun t => (f t, t)).filter (fun x => b x.1) = (ts.filter c).map fun t => (f t, t) := fun b c hbc => by
    rw [List.filter_map]
    exact congrArg _ (List.filter_congr hbc)
  have h1 : ∀ u ∈ ts, (f u == p) = a u := fun u hu => by
    rw [hts u hu]
    cases a u
    · simp [hpq.symm]
    · simp
  have h2 : ∀ u ∈ ts, (f u != p) = !a u := fun u hu => by rw [bne, h1 u hu]
  have hne : (ts.filter fun u => !a u) ≠ [] := by
    obtain ⟨u, hu, hau⟩ := hs
    exact List.ne_nil_of_mem (List.mem_filter.2 ⟨hu, by simp [hau]⟩)
  have hq : ∀ u ∈ ts.filter fun u => !a u, f u = q := fun u hu => by
    obtain ⟨hu, hau⟩ := List.mem_filter.1 hu
    rw [hts u hu, if_neg (by simpa using hau)]
  rw [List.map_cons, hf t List.mem_cons_self, if_pos ht, groupBy_cons, hfil (· == p) a h1,
    hfil (· != p) (fun u => !a u) h2, groupBy_same hne hq, List.map_map]
  simp [ht, Function.comp_def]

/-! What a transfer leaves. -/

/-- Does slot `k'` of `w'` hold what `there` gives it, or what it held in `w`? -/
def Warp.holdsThere (w w' : Warp) (k' : Nat) (there : Option (DWord × Mask)) : Prop :=
  match there with
  | none => (w'.slot k').mask = (w.slot k').mask ∧ (w'.slot k').pc = (w.slot k').pc
  | some g => (w'.slot k').mask = g.2 ∧ (w'.slot k').pc = g.1

/-- The groups `gs` of a retiring warp have been placed: slot `c.slot` holds `here`, the other slot `there`, and the
warp is calm. -/
structure Placed (c : Issue) (w : Warp) (gs : List (DWord × Mask)) (here : DWord × Mask)
    (there : Option (DWord × Mask)) : Prop where
  frame : (w.retiring c).placeGroups c.slot gs =
    { w.retiring c with slots := ((w.retiring c).placeGroups c.slot gs).slots }
  waits : ∀ j, (((w.retiring c).placeGroups c.slot gs).slot j).wait = (w.slot j).wait ∧
    (((w.retiring c).placeGroups c.slot gs).slot j).trap = (w.slot j).trap
  here : (((w.retiring c).placeGroups c.slot gs).slot c.slot).mask = here.2 ∧
    (((w.retiring c).placeGroups c.slot gs).slot c.slot).pc = here.1
  there : w.holdsThere ((w.retiring c).placeGroups c.slot gs) (1 - c.slot) there
  calm : ((w.retiring c).placeGroups c.slot gs).calm c.slot = true

/-- A warp whose groups have been placed has taken the transfer. -/
theorem took_of_placed {s : State} {c : Issue} {w0 w : Warp} {gs : List (DWord × Mask)} {here : DWord × Mask}
    {there : Option (DWord × Mask)} (hi : s.issue = some c) (hw : s.warp? c.uid = some w0) (hu : w.uid = c.uid)
    (hz : w.sized = true) (ht : c.trap = none) (h2 : c.slot < 2) (hP : Placed c w gs here there) (bnd : Bnd) :
    ∃ t w', (s.setWarp w).retire bnd (some gs) = t ∧ Took s t c w w' here there := by
  obtain ⟨w', he, hS⟩ := retire_groups (s := s.setWarp w) hi (warp?_setWarp hw hu) ht h2 (by rw [hP.frame]; exact hu)
    hP.calm bnd
  have hf : w' = { w.retiring c with slots := w'.slots, sq := w'.sq, bnds := w'.bnds } := by rw [hS.frame, hP.frame]
  have hu' : w'.uid = c.uid := by rw [hf]; exact hu
  have hset : ({ s.setWarp w with issue := none } : State).setWarp w' = { s.setWarp w' with issue := none } :=
    congrArg (fun t : State => { t with issue := none }) (setWarp_setWarp s (hu.trans hu'.symm))
  have hl : w.fsr.length = 32 := (sized_iff.1 hz).2.2.2.2.1
  refine ⟨_, w', he, ?_⟩
  rw [hset]
  refine
    { others := onlyWarp_setWarp s w' none hu', issue := rfl, warp := warp?_setWarp hw hu', frame := by rw [hf]; rfl,
      flags := fun t ht => ?_, queue := ?_, park := by rw [hf]; rfl,
      waits := fun j => ⟨(hS.wait j).trans (hP.waits j).1, (hS.trap j).trans (hP.waits j).2⟩,
      here := ⟨(hS.mask _).trans hP.here.1, fun _ => (hS.pc _).trans hP.here.2⟩, there := ?_ }
  · rw [hf]; exact nth_orFlags w c.flags (by omega)
  · have hq := hS.queue
    rw [Warp.sameQueue, hP.frame] at hq
    exact hq
  · have hT := hP.there
    cases there with
    | none => exact ⟨(hS.mask _).trans hT.1, (hS.pc _).trans hT.2⟩
    | some g => exact ⟨(hS.mask _).trans hT.1, (hS.pc _).trans hT.2⟩

/-- One group stays in the slot. -/
theorem placed_one {c : Issue} {w : Warp} (hc : w.calm c.slot = true) (h2 : c.slot < 2) (p : DWord) {m : Mask}
    (hm : m ≠ 0) : Placed c w [(p, m)] (p, m) none := by
  obtain ⟨hl, hmask, hpend, hstack, hrj, hh⟩ := calm_iff.1 hc
  have hs : ∀ j, ((w.retiring c).placeGroups c.slot [(p, m)]).slot j =
      if j = c.slot then { (w.retiring c).slot c.slot with pc := p, mask := m } else (w.retiring c).slot j := fun j => by
    rw [placeGroups_one, slot_setSlot _ _ (by rwa [retiring_length])]
  have hr := retiring_slot w c hl
  have hf : ∀ j, ((w.retiring c).placeGroups c.slot [(p, m)]).slotFree j = w.slotFree j := fun j => by
    have hm' : (m == 0) = false := beq_eq_false_iff_ne.2 hm
    have hmask' : ((w.slot c.slot).mask == 0) = false := beq_eq_false_iff_ne.2 hmask
    by_cases hj : j = c.slot
    · simp only [Warp.slotFree, hs, hj, if_true, hm', hmask', Bool.false_and]
    · simp only [Warp.slotFree, hs, hr, hj, if_false]; rfl
  refine ⟨rfl, fun j => ?_, ?_, ?_, ?_⟩
  · by_cases hj : j = c.slot <;> simp [hs, hr, hj]
  · simp [hs]
  · have : 1 - c.slot ≠ c.slot := by omega
    simp [Warp.holdsThere, hs, hr, this]
  · rw [calm_iff, hf, hf]
    refine ⟨by rw [placeGroups_one, setSlot_length, retiring_length]; exact hl, by simpa [hs] using hm, hpend, hstack, hrj,
      fun h he => ?_⟩
    by_cases hj : h.slot = c.slot
    · simpa [hs, hj] using hm
    · simpa [hs, hr, hj] using hh h he

/-- The first of two groups stays, and the second goes to the other slot, which takes a group. -/
theorem placed_two {c : Issue} {w : Warp} (hc : w.calm c.slot = true) (h2 : c.slot < 2)
    (hlen : w.slots.length = 2) (hfree : w.slotFree (1 - c.slot) = true) (p q : DWord) {m n : Mask} (hm : m ≠ 0)
    (hn : n ≠ 0) : Placed c w [(p, m), (q, n)] (p, m) (some (q, n)) := by
  obtain ⟨hl, hmask, hpend, hstack, hrj, hh⟩ := calm_iff.1 hc
  have hr := retiring_slot w c hl
  have hne : 1 - c.slot ≠ c.slot := by omega
  have hfree' : (w.retiring c).slotFree (1 - c.slot) = true := by
    simp only [Warp.slotFree, hr, hne, if_false]; exact hfree
  have hP : (w.retiring c).placeGroups c.slot [(p, m), (q, n)] =
      ((w.retiring c).setSlot c.slot { (w.retiring c).slot c.slot with pc := p, mask := m }).place (1 - c.slot) (q, n) :=
    placeGroups_two hfree' h2 (by rwa [retiring_length]) _ _
  have hs : ∀ j, ((w.retiring c).placeGroups c.slot [(p, m), (q, n)]).slot j =
      if j = 1 - c.slot then { w.slot (1 - c.slot) with pc := q, mask := n, epc := q, emask := n }
      else if j = c.slot then { (w.retiring c).slot c.slot with pc := p, mask := m } else w.slot j := fun j => by
    rw [hP, place_slot (by rw [setSlot_length, retiring_length]; omega)]
    by_cases h1 : j = 1 - c.slot
    · simp only [h1, if_true, slot_setSlot _ _ (show c.slot < (w.retiring c).slots.length by rwa [retiring_length]), hr, hne,
        if_false]
    · simp only [h1, if_false, slot_setSlot _ _ (show c.slot < (w.retiring c).slots.length by rwa [retiring_length]), hr]
      by_cases h3 : j = c.slot <;> simp [h3]
  have hmasks : ∀ j, j < 2 → (((w.retiring c).placeGroups c.slot [(p, m), (q, n)]).slot j).mask ≠ 0 := fun j hj => by
    rcases (show j = 1 - c.slot ∨ j = c.slot by omega) with rfl | rfl
    · simpa [hs] using hn
    · simpa [hs, hne.symm] using hm
  have hnot : ∀ j, j < 2 → ((w.retiring c).placeGroups c.slot [(p, m), (q, n)]).slotFree j = false := fun j hj => by
    have : ¬_ = 0#32 := hmasks j hj
    simp [Warp.slotFree, this]
  have hframe : (w.retiring c).placeGroups c.slot [(p, m), (q, n)] =
      { w.retiring c with slots := ((w.retiring c).placeGroups c.slot [(p, m), (q, n)]).slots } := by rw [hP]; rfl
  refine ⟨hframe, fun j => ?_, ?_, ?_, ?_⟩
  · by_cases h1 : j = 1 - c.slot
    · simp [hs, h1]
    · by_cases h3 : j = c.slot <;> simp [hs, hr, h1, h3, hne.symm]
  · simp [hs, hne.symm]
  · simp [Warp.holdsThere, hs]
  · rw [calm_iff]
    refine ⟨?_, hmasks _ h2, ?_, .inr ⟨hnot 0 (by omega), hnot 1 (by omega)⟩, ?_, fun h he => ?_⟩
    · rw [hP]; simpa [Warp.place] using hl
    · rw [hframe]; exact hpend
    · rw [hframe]; exact hrj
    · rw [hframe] at he
      by_cases hj : h.slot < 2
      · exact hmasks _ hj
      · have h1 := hh h he
        have : w.slot h.slot = Slot.none := by
          simp [Warp.slot, List.getD_eq_getElem?_getD, List.getElem?_eq_none (show w.slots.length ≤ h.slot by omega)]
        rw [this] at h1
        exact absurd rfl h1

end Sys2Proof.Machine
end

section
/-! Words that trap at issue, and the control transfers (R17, R105, R106, R147). -/

namespace Sys2Proof.Machine

open Sys2Proof.Claims

/-! The words of the claims. -/

theorem has_foldr_or (f : Nat → Bool) (l : List Nat) (t : Nat) :
    has (l.foldr (fun j a => if f j then a ||| 1#32 <<< j else a) 0) t =
      (decide (t ∈ l) && f t && decide (t < 32)) := by
  induction l with
  | nil => simp
  | cons u us ih =>
    rw [List.foldr_cons]
    by_cases hu : f u = true
    · rw [if_pos hu, has_or, ih, show (1#32 <<< u) = (1 : Mask) <<< u from rfl, has_bit]
      by_cases h : t = u
      · subst h; simp [hu]
      · simp [h]
    · rw [if_neg hu, ih]
      by_cases h : t = u
      · subst h; simp [hu]
      · simp [h]

/-- The word whose bits `f` gives is the mask of the threads that satisfy it. -/
theorem wordOf_eq (f : Nat → Bool) : wordOf f = maskWhere f := by
  refine mask_ext fun t ht => ?_
  rw [wordOf, has_foldr_or, has_maskWhere]
  simp [ht]

theorem bne_mask_zero_iff {m : Mask} : (m != 0) = true ↔ ∃ t, has m t = true := by
  rw [bne_iff_ne]
  constructor
  · intro h
    obtain ⟨t, ht⟩ := lowest_isSome h
    exact ⟨t, lowest_has ht⟩
  · rintro ⟨t, ht⟩
    exact ne_zero_of_has ht

/-! A trap at issue. -/

/-- A word that traps leaves its trap in the chain's record, or alone in its slot (R17, R383). -/
theorem trapWord_raises {s : State} {c : Issue} {w : Warp} {h : Hdr} (I : Issuing s c w h.c) (x : TrapReq) :
    if h.c then (Host.Outcome.next (s.trapWord c h x) : Host.Outcome State Fault Refusal) =
        .next { s with issue := some { c with trap := some x } }
      else ∃ t t' w', (Host.Outcome.next (s.trapWord c h x) : Host.Outcome State Fault Refusal) = .next t' ∧
        Raised s t t' c w w' x := by
  have hx : c.trap.getD x = x := by rw [I.sound]; rfl
  by_cases hch : h.c = true
  · simp [State.trapWord, hch, hx]
  · have hcf : h.c = false := by simpa using hch
    rw [hcf] at I
    have hcalm : w.calm c.slot = true := I.calm.resolve_left (by simp)
    have huid : w.uid = c.uid := warp?_uid I.warp
    obtain ⟨w', he, hu', hfr, hs, htr⟩ := retire_trap (s := { s with issue := some { c with trap := some x } })
      (c := { c with trap := some x }) rfl I.warp hcalm I.slot_lt rfl .no none
    have hu'' : w'.uid = c.uid := hu'.trans huid
    rw [if_neg hch, State.trapWord, if_neg hch, hx, he]
    refine ⟨{ s with issue := none }.setWarp w', _, w', rfl, ⟨rfl, fun u hu => ?_⟩, rfl,
      warp?_setWarp (s := { s with issue := none }) I.warp hu'', by rw [hfr], by rw [hfr], hs, htr, rfl⟩
    exact warp?_setWarp_ne { s with issue := none } (by rw [hu'']; exact Ne.symm hu)

/-! Transfers. -/

/-- The groups of a transfer that no target stops (R147, R173). -/
theorem transferGroups_some (c : Issue) (r : Warp) (ps : Mask) (target : Nat → DWord) :
    transferGroups c r ps (fun t => some (target t)) =
      groupBy ((threads (r.slot c.slot).mask).map fun t => (if has ps t then target t else c.npc, t)) := by
  unfold transferGroups
  congr 1
  rw [← List.filterMap_eq_map]
  refine congrArg (fun f => List.filterMap f _) (funext fun t => ?_)
  by_cases h : has ps t = true <;> simp [h]

theorem maskOf_threads_filter (m : Mask) (p : Nat → Bool) : maskOf ((threads m).filter p) = maskWhere fun t => has m t && p t := by
  refine mask_ext fun t ht => ?_
  simp [ht]

theorem maskOf_threads (m : Mask) : maskOf (threads m) = m := mask_ext fun t ht => by simp [ht]

/-- Threads that all go to `p`. -/
theorem groups_same {m : Mask} (hm : m ≠ 0) {p : DWord} {next : Nat → DWord} (hn : ∀ t, has m t = true → next t = p) :
    groupBy ((threads m).map fun t => (next t, t)) = [(p, m)] := by
  rw [groupBy_same (fun h => hm (threads_eq_nil.1 h)) fun t ht => hn t ((mem_threads m t).1 ht), maskOf_threads]

/-- Threads of which those of `a`, the lowest among them, go to `p` and the others to `q`. -/
theorem groups_split {m a : Mask} {p q : DWord} {next : Nat → DWord} (hpq : p ≠ q) (hl : lowest a = lowest m)
    (hsub : a &&& m = a) (ha : a ≠ 0) (hne : a ≠ m) (hn : ∀ t, has m t = true → next t = if has a t then p else q) :
    groupBy ((threads m).map fun t => (next t, t)) = [(p, a), (q, m &&& ~~~a)] := by
  have ham : ∀ t, has a t = true → has m t = true := fun t ht => by
    have := congrArg (has · t) hsub
    simpa only [has_and, ht, Bool.true_and] using this
  obtain ⟨r, hr⟩ := lowest_isSome ha
  obtain ⟨ts, hts⟩ : ∃ ts, threads m = r :: ts := by
    rw [hr, lowest] at hl
    exact List.head?_eq_some_iff.1 hl.symm
  have hra := lowest_has hr
  have hout : ∃ u ∈ ts, has a u = false := by
    by_contra hc
    refine hne (mask_ext fun t _ => Bool.eq_iff_iff.2 ⟨ham t, fun ht => ?_⟩)
    rcases List.mem_cons.1 (hts ▸ (mem_threads m t).2 ht) with rfl | htt
    · exact hra
    · by_contra hf
      exact hc ⟨t, htt, by simpa using hf⟩
  have hn' : ∀ u ∈ r :: ts, next u = if has a u then p else q := fun u hu =>
    hn u ((mem_threads m u).1 (hts ▸ hu))
  rw [hts, groupBy_split hpq hra hout hn', ← hts, maskOf_threads_filter, maskOf_threads_filter]
  have h1 : (maskWhere fun t => has m t && has a t) = a := mask_ext fun t ht => by
    have := ham t
    rw [has_maskWhere]
    cases hat : has a t <;> simp_all
  have h2 : (maskWhere fun t => has m t && !has a t) = m &&& ~~~a := mask_ext fun t ht => by
    rw [has_maskWhere, has_and, has_not]; simp [ht]
  rw [h1, h2]

/-- What a transfer does to its warp beside moving threads: nothing but s-registers change. -/
structure OnlyS (eff : Issue → Warp → Warp) : Prop where
  frame : ∀ c w, eff c w = { w with s := (eff c w).s }
  sized : ∀ c w, w.sized = true → (eff c w).sized = true

/-- A transfer that no thread's target stops (R17, R147). -/
theorem transfer_transfers {i : Instr} {h : Hdr} {a : Nat} {bad : Warp → Nat → Bool} {target : Issue → Warp → Nat → DWord}
    {eff : Issue → Warp → Warp} (heff : OnlyS eff)
    (hi : ∀ s, exec i s = s.transfer h a (fun _ => bad) (fun c r t => some (target c r t)) fun c _ => eff c) :
    Transfers i h (markCodes h a 0) bad target eff := by
  intro s c w I hgood
  have hcalm : w.calm c.slot = true := I.calm.resolve_left (by simp)
  have huid : w.uid = c.uid := warp?_uid I.warp
  have hno : ((maskWhere fun t => has (parts c w h) t && bad (c.src w) t) != 0) = false := by
    rw [Bool.eq_false_iff, ne_eq, bne_mask_zero_iff]
    rintro ⟨t, ht⟩
    rw [has_maskWhere, Bool.and_eq_true, Bool.and_eq_true] at ht
    rw [hgood t ht.2.1] at ht
    simp at ht
  intro m next w1
  -- the warp with the transfer's other effect
  have hm := markAlone_sized I.sized c (markCodes h a 0) (parts c w h)
  have hmark := markAlone_frame w c (markCodes h a 0) (parts c w h)
  have hw1 : (if parts c w h == 0 then w.markAlone c (markCodes h a 0) (parts c w h)
      else eff c (w.markAlone c (markCodes h a 0) (parts c w h))) = w1 := by
    by_cases hp : parts c w h = 0
    · simp [w1, hp, Warp.markAlone]
    · simp only [w1, if_neg hp, beq_eq_false_iff_ne.2 hp]; rfl
  have hf1 : w1 = { w with v := w1.v, s := w1.s } := by
    by_cases hp : parts c w h = 0
    · simp only [w1, if_pos hp]
    · simp only [w1, if_neg hp]; rw [heff.frame, hmark]
  have hz1 : w1.sized = true := by
    by_cases hp : parts c w h = 0
    · simp only [w1, if_pos hp]; exact I.sized
    · simp only [w1, if_neg hp]; exact heff.sized c _ hm
  have hu1 : w1.uid = c.uid := by rw [hf1]; exact huid
  have hc1 : w1.calm c.slot = true :=
    calm_of hcalm (by rw [hf1]) (fun j => by rw [hf1]; rfl) (fun j => by rw [hf1]; rfl) (by rw [hf1]) (by rw [hf1])
      (by rw [hf1]) (by rw [hf1])
  have hrun : exec i s = .next ((s.setWarp w1).retire .split
      (some (groupBy ((threads m).map fun t => (next t, t))))) := by
    rw [hi]
    unfold State.transfer
    simp only [cur_eq I.issue I.warp, I.sound, Option.isSome_none, Bool.false_eq_true, if_false, transferGroups_some]
    exact (if_neg (Bool.eq_false_iff.1 hno)).trans (by rw [← hw1]; rfl)
  refine ⟨fun p hm0 hn => ?_, fun p q b hpq hl hsub hb hne hfree hn => ?_⟩
  · obtain ⟨t, w', he, hT⟩ := took_of_placed I.issue I.warp hu1 hz1 I.sound I.slot_lt (placed_one hc1 I.slot_lt p hm0) .split
    exact ⟨t, w', by rw [hrun, groups_same hm0 hn, he], hT⟩
  · have hout : m &&& ~~~b ≠ 0 := fun h0 => hne (mask_ext fun t ht => by
      have h1 := congrArg (has · t) hsub
      have h2 : has (m &&& ~~~b) t = false := by rw [h0]; exact has_zero t
      simp only [has_and, has_not, ht, decide_true, Bool.true_and] at h1 h2
      cases hbt : has b t
      · simpa [hbt] using h2.symm
      · simpa [hbt] using h1.symm)
    have hfree1 : w1.slotFree (1 - c.slot) = true := by rw [hf1]; exact hfree
    obtain ⟨t, w', he, hT⟩ := took_of_placed I.issue I.warp hu1 hz1 I.sound I.slot_lt
      (placed_two hc1 I.slot_lt (sized_iff.1 hz1).2.2.2.2.2.1 hfree1 p q hb hout) .split
    exact ⟨t, w', by rw [hrun, groups_split hpq hl hsub hb hne hn, he], hT⟩

/-- A transfer that some participant's target stops traps, and no thread moves. -/
theorem transfer_traps {i : Instr} {h : Hdr} {a : Nat} {bad : Warp → Nat → Bool} {target : Issue → Warp → Nat → Option DWord}
    {post : Issue → Mask → Warp → Warp} (hi : ∀ s, exec i s = s.transfer h a (fun _ => bad) target post) :
    Traps i h (fun _ c w => ∃ t, has (parts c w h) t = true ∧ bad (c.src w) t = true) 1
      fun _ c w => (wordOf fun t => has (parts c w h) t && bad (c.src w) t, 0, c.word.toNat) := by
  rintro s c w I ⟨t, ht, hb⟩ x
  have hsome : ((maskWhere fun t => has (parts c w h) t && bad (c.src w) t) != 0) = true :=
    bne_mask_zero_iff.2 ⟨t, by simp [has_lt ht, ht, hb]⟩
  have hrun : exec i s = .next (s.trapWord c h x) := by
    rw [hi]
    unfold State.transfer
    simp only [cur_eq I.issue I.warp, I.sound, Option.isSome_none, Bool.false_eq_true, if_false, x, wordOf_eq]
    exact if_pos hsome
  rw [hrun]
  exact trapWord_raises I x

/-! The forms. -/

theorem sval_toNat {w : Nat} (x : BitVec w) (h : 0 < w) : sval w x.toNat = x.toInt := by
  unfold sval
  simp only [Nat.mod_eq_of_lt x.isLt, BitVec.toInt_eq_toNat_cond]
  obtain ⟨k, rfl⟩ : ∃ k, w = k + 1 := ⟨w - 1, by omega⟩
  have : (2 : Nat) ^ (k + 1) = 2 * 2 ^ k := by ring
  by_cases hx : 2 ^ k ≤ x.toNat
  · rw [if_pos (by simpa using hx), if_neg (by omega)]; push_cast; rfl
  · rw [if_neg (by simpa using hx), if_pos (by omega)]

/-- The displacement of BRA and CALL as R64 gives it. -/
theorem jDisp_eq (h : Hdr) (disp : BitVec 24) : jDisp h disp = dispOf h disp := by
  unfold jDisp dispOf
  cases h.e1 with
  | none => exact sval_toNat disp (by norm_num)
  | some v =>
    have : v.toNat * 2 ^ 24 + disp.toNat = (v ++ disp).toNat := by
      rw [BitVec.toNat_append, ← Nat.shiftLeft_add_eq_or_of_lt disp.isLt, Nat.shiftLeft_eq]
    simp only [this]
    exact sval_toNat (v ++ disp) (by norm_num)

theorem onlyS_stay : OnlyS fun _ w => w := ⟨fun _ _ => rfl, fun _ _ h => h⟩
theorem onlyS_withLink : OnlyS withLink := ⟨fun _ _ => rfl, fun _ _ h => writeS_sized h _ _⟩

theorem notPacket_eq (a : BitVec 7) (c : Issue) : offPacket a c = notPacket a := by
  funext r t
  simp only [offPacket, notPacket, reg, bne, Bool.beq_eq_decide_eq, decide_not]

end Sys2Proof.Machine

open Sys2Proof Sys2Proof.Machine Sys2Proof.Claims

/-- Settles O15: each form is a transfer, whose threads form one group or two, or whose bad targets trap. -/
theorem controlTransfers : Obligations.ControlTransfers := by
  unfold Obligations.ControlTransfers
  intro h d a b disp
  have hrel : ∀ c : Issue, braTarget c h disp = c.pkt + BitVec.ofInt 64 (12 * dispOf h disp) := fun c => by
    rw [braTarget, jDisp_eq]
  have hbad : offPacket a = fun _ => notPacket a := funext (notPacket_eq a)
  have hbrx : ∀ s, exec (.brx h d a b) s = s.transfer h a.toNat (fun _ => notPacket a)
      (fun c r t => some (cbPlus a c r t)) fun _ _ w => w := fun s => by rw [exec_brx, execBrx, hbad]; rfl
  have hcallx : ∀ s, exec (.callx h d a b) s = s.transfer h a.toNat (fun _ => notPacket a)
      (fun c r t => some (cbPlus a c r t)) fun c _ => withLink c := fun s => by rw [exec_callx, execCallx, hbad]; rfl
  have hret : ∀ s, exec (.ret h d a b) s = s.transfer h a.toNat (fun _ => notPacket a)
      (fun c r t => some (cbPlus a c r t)) fun _ _ w => w := fun s => by rw [exec_ret, execRet, hbad]; rfl
  refine ⟨transfer_transfers onlyS_stay fun s => ?_, transfer_transfers onlyS_withLink fun s => ?_,
    transfer_transfers onlyS_stay hbrx, transfer_transfers onlyS_withLink hcallx, transfer_transfers onlyS_stay hret,
    transfer_transfers onlyS_stay fun s => rfl, transfer_traps hbrx, transfer_traps hcallx, transfer_traps hret⟩
  · simp only [exec_bra, execBra, hrel]
  · simp only [exec_call, execCall, hrel]; rfl
end

section
/-! System registers, rejoin enrolments, trap registers and masks (R174, R175, R189 to R193, R398). -/

namespace Sys2Proof.Machine

open Sys2Proof.Claims

/-! Values. -/

/-- A pair read as one number (R13). -/
theorem wide_two (r : Warp) (a : BitVec 7) (t : Nat) : r.wide a.toNat t 2 = (pair r a t).toNat := by
  have h : (pair r a t).toNat = (r.reg (a.toNat + 1) t).toNat * 2 ^ 32 + (r.reg a.toNat t).toNat := by
    rw [pair, BitVec.toNat_append, ← Nat.shiftLeft_add_eq_or_of_lt (r.reg a.toNat t).isLt, Nat.shiftLeft_eq]
  rw [h]
  simp only [Warp.wide]
  ring

theorem wide_one (r : Warp) (code t : Nat) : r.wide code t 1 = (r.reg code t).toNat := by simp [Warp.wide]

/-- The codes of the table with their widths. -/
def sysCodes : List (Nat × Bool) :=
  [(0x01, false), (0x02, false), (0x03, false), (0x04, false), (0x05, false), (0x06, false), (0x07, false), (0x08, false),
    (0x09, false), (0x0A, false), (0x0B, false), (0x0C, false), (0x0D, false), (0x0E, false), (0x0F, false), (0x10, true),
    (0x11, true), (0x12, false), (0x13, true), (0x14, true), (0x15, true), (0x16, true), (0x17, false), (0x18, false)]

theorem sysTable_codes (s : State) (r : Warp) : (sysTable s r).map (fun x => (x.1, x.2.1)) = sysCodes := rfl

/-- The registers of the table are as wide as R192 has it, and tn and fsr are none of them. -/
theorem sysTable_wide {s : State} {r : Warp} {x : Nat × Bool × Nat} (hx : x ∈ sysTable s r) :
    srWide x.1 = x.2.1 ∧ x.1 ≠ 0 ∧ x.1 ≠ 0x19 := by
  have h : (x.1, x.2.1) ∈ sysCodes := sysTable_codes s r ▸ List.mem_map_of_mem (f := fun x => (x.1, x.2.1)) hx
  have hall : ∀ y ∈ sysCodes, srWide y.1 = y.2 ∧ y.1 ≠ 0 ∧ y.1 ≠ 0x19 := by decide
  exact hall _ h

/-- What RDSR reads stands in the table. -/
theorem sysTable_sysReg {s : State} {r : Warp} : ∀ x ∈ sysTable s r, s.sysReg r x.1 = x.2.2 := by
  simp only [sysTable, List.forall_mem_cons]
  cases hg : s.disp.gangs.find? (fun g => g.uid == r.gang) <;>
    simp [State.sysReg, State.gang?, hg, Warp.trec, Warp.control, Warp.xid, coreDie, b2n]

/-- The threads parked on a rejoin register (R175). -/
theorem parkedMask_eq (r : Warp) : r.parkedMask = wordOf fun t => r.rj.any fun x => x.ar.getLsbD t := by
  have hf : ∀ (l : List Rejoin) (m : Mask) (t : Nat),
      has (l.foldl (fun m r => m ||| r.ar) m) t = (has m t || l.any fun x => has x.ar t) := fun l => by
    induction l with
    | nil => simp
    | cons x xs ih => intro m t; rw [List.foldl_cons, ih, has_or, List.any_cons, Bool.or_assoc]
  rw [wordOf_eq]
  refine mask_ext fun t ht => ?_
  rw [Warp.parkedMask, hf, has_maskWhere]
  simp [ht, has]

/-! Forms that give the warp one value. -/

/-- A form that gives one value and raises no flag. -/
theorem const_writes {i : Instr} {h : Hdr} {d : BitVec 7} {n : Nat} {v : Issue → Warp → Nat} (hn : n = 1 ∨ n = 2)
    (hi : ∀ s, exec i s = s.const h d.toNat n v) :
    Writes i h d n (markCodes h 0 0) (fun c r _ => v c r) fun _ _ _ => 0 := by
  intro s c w I hd
  refine ⟨fun _ => ?_, fun hq => absurd (.inr fun _ _ => Nat.zero_and _) hq⟩
  rw [hi]
  exact one_value_gives I (by rcases hn with rfl | rfl <;> omega)

/-! WRSR. -/

/-- A word that changes fields of its warp which hold no thread and no register file ends. -/
theorem endWord_setWarp_ran {s : State} {c : Issue} {w w1 : Warp} {h : Hdr} (I : Issuing s c w h.c) (hu : w1.uid = w.uid)
    (hz : w1.sized = true) (hc : ∀ k, w.calm k = true → w1.calm k = true) (bnd : Bnd) :
    ∃ w', Ran s ((s.setWarp w1).endWord h bnd) c w1 w' h.c fun _ => 0 := by
  have hu1 : w1.uid = c.uid := hu.trans (warp?_uid I.warp)
  exact endWord_ran (onlyWarp_setWarp s w1 s.issue hu1) I.issue (warp?_setWarp I.warp hu1) hz (I.calm.imp_right (hc _))
    I.sound rfl (fun t _ => (Nat.or_zero _).symm) bnd

/-- A warp whose slots, stack, rejoin registers and handler stand as they did is as calm as it was. -/
theorem calm_of_eq {w w1 : Warp} (h : w1 = { w with v := w1.v, fsr := w1.fsr, wtcmp := w1.wtcmp, tvec := w1.tvec, tmask := w1.tmask })
    (k : Nat) (hc : w.calm k = true) : w1.calm k = true :=
  calm_of hc (by rw [h]) (fun j => by rw [h]; rfl) (fun j => by rw [h]; rfl) (by rw [h]) (by rw [h]) (by rw [h]) (by rw [h])

/-- WRSR's effect on the warp `w` that it writes, as the claim puts it. -/
theorem wrote_eq (r w : Warp) (ps : Mask) (a : BitVec 7) (code : Nat) {rep : Nat} (hrep : lowest ps = some rep) {w1 : Warp}
    (h : wrote r ps a code w = some w1) :
    (if code = 0x19 then
        { w with fsr := (List.range 32).map fun t => if has ps t then fsrMask (r.reg a.toNat t) else nth w.fsr t }
      else w.setSys code (r.wide a.toNat rep (if srWide code then 2 else 1))) = w1 ∧
      ¬(code = 0x17 ∧ (reg r a rep).toNat % 12 ≠ 0) := by
  simp only [wrote] at h
  rw [hrep, Option.getD_some] at h
  split at h
  · cases h
    refine ⟨?_, by simp⟩
    simp [Warp.setSys, srWide, wide_two]
  · split at h
    · next h12 =>
      cases h
      refine ⟨?_, by simp [h12]⟩
      simp [Warp.setSys, srWide, wide_one]
    · cases h
  · cases h
    refine ⟨?_, by simp⟩
    simp [Warp.setSys, srWide, wide_one]
  · cases h
    exact ⟨rfl, by simp⟩
  · cases h

/-- What WRSR leaves of the warp. -/
theorem wrote_frame {r w w1 : Warp} {ps : Mask} {a : BitVec 7} {code : Nat} (h : wrote r ps a code w = some w1) :
    w1 = { w with fsr := w1.fsr, wtcmp := w1.wtcmp, tvec := w1.tvec, tmask := w1.tmask } ∧
      (w1.fsr.length = w.fsr.length ∨ w1.fsr.length = 32) := by
  simp only [wrote] at h
  split at h
  · cases h; exact ⟨rfl, .inl rfl⟩
  · split at h
    · cases h; exact ⟨rfl, .inl rfl⟩
    · cases h
  · cases h; exact ⟨rfl, .inl rfl⟩
  · cases h; exact ⟨rfl, .inr (by simp)⟩
  · cases h

theorem parts_eq (c : Issue) (w : Warp) (h : Hdr) : (c.src w).participants c.slot h = parts c w h := rfl

/-- WRSR with no participant writes nothing (R190). -/
theorem wrsr_none (h : Hdr) (d a : BitVec 7) (imm : BitVec 10) :
    Does (.wrsr h d a imm) h (fun _ c w => parts c w h = 0) (fun _ _ w => w) := by
  intro s c w I hp
  obtain ⟨w', hR⟩ := endWord_ran (fl := fun _ => 0) (onlyWarp_refl s _) I.issue I.warp I.sized I.calm I.sound rfl
    (fun t _ => (Nat.or_zero _).symm) .no
  refine ⟨_, w', ?_, hR⟩
  rw [exec_wrsr, execWrsr]
  simp only [cur_eq I.issue I.warp, parts_eq, hp, lowest_zero]

/-- WRSR of a register that it may write (R192, R193). -/
theorem wrsr_writes (h : Hdr) (d a : BitVec 7) (imm : BitVec 10) :
    Does (.wrsr h d a imm) h
      (fun _ c w => parts c w h ≠ 0 ∧ (wrote (c.src w) (parts c w h) a (imm.toNat % 512) w).isSome = true)
      (fun _ c w => (wrote (c.src w) (parts c w h) a (imm.toNat % 512) (w.markAlone c (marksA h a) (parts c w h))).getD w) := by
  rintro s c w I ⟨hp, hsome⟩
  obtain ⟨rep, hrep⟩ := lowest_isSome hp
  -- whether the register may be written does not depend on the marks
  have hmk : ∀ w', (wrote (c.src w) (parts c w h) a (imm.toNat % 512) w').isSome = true := fun w' => by
    simp only [wrote] at hsome ⊢
    split at hsome
    case h_2 => split at hsome <;> simp_all
    all_goals simp_all
  obtain ⟨w1, hw1⟩ := Option.isSome_iff_exists.1 (hmk (w.markAlone c (marksA h a) (parts c w h)))
  obtain ⟨hval, hok⟩ := wrote_eq _ _ _ _ _ hrep hw1
  obtain ⟨hfr, hlen⟩ := wrote_frame hw1
  have hz := sized_iff.1 (markAlone_sized I.sized c (marksA h a) (parts c w h))
  have hfr' : w1 = { w with v := w1.v, fsr := w1.fsr, wtcmp := w1.wtcmp, tvec := w1.tvec, tmask := w1.tmask } := by
    rw [markAlone_frame] at hfr; rw [hfr]
  have hz1 : w1.sized = true := by
    obtain ⟨hv, hr, hs, hpl, hf, hsl, hrj⟩ := hz
    rw [sized_iff]
    refine ⟨by rw [hfr]; exact hv, by rw [hfr]; exact hr, by rw [hfr]; exact hs, by rw [hfr]; exact hpl, by omega,
      by rw [hfr]; exact hsl, by rw [hfr]; exact hrj⟩
  obtain ⟨w', hR⟩ := endWord_setWarp_ran I (w1 := w1) (by rw [hfr']) hz1 (calm_of_eq hfr') .no
  refine ⟨_, w', ?_, by simpa only [hw1, Option.getD_some] using hR⟩
  rw [exec_wrsr, execWrsr]
  simp only [cur_eq I.issue I.warp, parts_eq, hrep]
  rw [if_neg, ← hval]
  · rfl
  · simp only [Bool.and_eq_true, decide_eq_true_eq, bne_iff_ne, ne_eq]
    rintro ⟨h17, h12⟩
    refine hok ⟨h17, ?_⟩
    rw [h17] at h12
    simpa [srWide, wide_one] using h12

/-- WRSR of tvec with a value that is no packet start (R193). -/
theorem wrsr_traps (h : Hdr) (d a : BitVec 7) (imm : BitVec 10) :
    Traps (.wrsr h d a imm) h
      (fun _ c w => imm.toNat % 512 = 0x17 ∧ parts c w h ≠ 0 ∧
        (reg (c.src w) a ((lowest (parts c w h)).getD 0)).toNat % 12 ≠ 0)
      1 (fun _ c w => (parts c w h, 0, c.word.toNat)) := by
  rintro s c w I ⟨h17, hp, h12⟩ x
  obtain ⟨rep, hrep⟩ := lowest_isSome hp
  rw [hrep, Option.getD_some] at h12
  have hrun : exec (.wrsr h d a imm) s = .next (s.trapWord c h x) := by
    rw [exec_wrsr, execWrsr]
    simp only [cur_eq I.issue I.warp, parts_eq, hrep, h17]
    exact if_pos (by simpa [srWide, wide_one] using h12)
  rw [hrun]
  exact trapWord_raises I x

/-! RDSR. -/

/-- RDSR of tn: base 0 and stride 1 (R191). -/
theorem rdsr_tn {h : Hdr} {d a : BitVec 7} {imm : BitVec 10} {s : State} {c : Issue} {w : Warp} (I : Issuing s c w h.c)
    (hc : imm.toNat % 512 = 0) : ∃ t w', exec (.rdsr h d a imm) s = .next t ∧
      Gives s t c w w' h d.toNat 1 (marksOf c (markCodes h 0 0) (parts c w h)) (parts c w h) (fun t => t) fun _ => 0 := by
  rw [exec_rdsr, execRdsr]
  simp only [hc]
  exact compute_gives (f := fun _ _ t => (t, 0)) I (by omega) (fun _ hs => by simp at hs)
    (fun _ _ => ⟨rfl, fits_aff (b := 0) (s := 1) fun t => by simp⟩) (.inr fun _ _ => Nat.zero_and _)

/-- RDSR of fsr, by thread (R191). -/
theorem rdsr_fsr {h : Hdr} {d a : BitVec 7} {imm : BitVec 10} {s : State} {c : Issue} {w : Warp} (I : Issuing s c w h.c)
    (hc : imm.toNat % 512 = 0x19) : ∃ t w', exec (.rdsr h d a imm) s = .next t ∧
      Gives s t c w w' h d.toNat 1 (marksOf c (markCodes h 0 0) (parts c w h)) (parts c w h)
        (fun t => (nth (c.src w).fsr t).toNat) fun _ => 0 := by
  rw [exec_rdsr, execRdsr]
  simp only [hc]
  exact compute_gives (f := fun _ r t => ((nth r.fsr t).toNat, 0)) I (by omega) (fun _ hs => by simp at hs)
    (fun _ hs => by simp at hs) (.inr fun _ _ => Nat.zero_and _)

/-- A destination at an even code, or of one register, does not straddle the end of the v-registers. -/
theorem dest_fits {d : BitVec 7} {b : Bool} (hd : d.toNat % 2 = 0 ∨ b = false) :
    d.toNat + (if b then 2 else 1) ≤ 64 ∨ 64 ≤ d.toNat := by
  cases b with
  | false => simp only [Bool.false_eq_true, if_false]; omega
  | true => simp only [Bool.true_eq_false, or_false] at hd; simp only [if_true]; omega

/-- RDSR of any other register of the table (R192). -/
theorem rdsr_table {h : Hdr} {d a : BitVec 7} {imm : BitVec 10} {s : State} {c : Issue} {w : Warp} (I : Issuing s c w h.c)
    {x : Nat × Bool × Nat} (hx : x ∈ sysTable s (c.src w)) (hc : imm.toNat % 512 = x.1) (hd : d.toNat % 2 = 0 ∨ x.2.1 = false) :
    ∃ t w', exec (.rdsr h d a imm) s = .next t ∧
      Gives s t c w w' h d.toNat (if x.2.1 then 2 else 1) (marksOf c (markCodes h 0 0) (parts c w h)) (parts c w h)
        (fun _ => x.2.2) fun _ => 0 := by
  obtain ⟨hwide, h0, h19⟩ := sysTable_wide hx
  have hrun : exec (.rdsr h d a imm) s =
      s.const h d.toNat (if x.2.1 then 2 else 1) fun _ r => s.sysReg r x.1 := by
    rw [exec_rdsr, execRdsr, ← hwide, ← hc]
    rw [← hc] at h0 h19
    split
    · next h => exact absurd h h0
    · next h => exact absurd h h19
    · rfl
  rw [hrun, ← sysTable_sysReg x hx]
  exact one_value_gives I (dest_fits hd)

end Sys2Proof.Machine

open Sys2Proof Sys2Proof.Machine Sys2Proof.Claims

/-- Settles O21: RDSR and the reads give one value or one a thread, WRSR changes one field of the warp or traps. -/
theorem systemRegisters : Obligations.SystemRegisters := by
  unfold Obligations.SystemRegisters
  refine ⟨fun h d a imm s c w I => ⟨rdsr_tn I, rdsr_fsr I, fun x hx hc hd => rdsr_table I hx hc hd⟩,
    fun h d a imm => ⟨wrsr_none h d a imm, wrsr_writes h d a imm, wrsr_traps h d a imm⟩,
    fun h d a b => ⟨const_writes (.inl rfl) fun _ => rfl, const_writes (.inr rfl) fun _ => rfl, ?_⟩⟩
  have hval : ∀ (c : Issue) (r : Warp), (match a.toNat with
      | 0 => (r.slot c.slot).mask
      | 1 => (r.slot (1 - c.slot)).mask
      | 2 => r.live
      | _ => r.parkedMask).toNat = match a.toNat with
      | 0 => (r.slot c.slot).mask.toNat
      | 1 => (r.slot (1 - c.slot)).mask.toNat
      | 2 => (~~~r.exited).toNat
      | _ => (wordOf fun t => r.rj.any fun x => x.ar.getLsbD t).toNat := fun c r => by
    rw [parkedMask_eq]; split <;> rfl
  refine const_writes (v := fun c r => _) (.inl rfl) fun s => ?_
  rw [exec_wmask, execWmask]
  exact congrArg (s.const h d.toNat 1) (funext fun c => funext fun r => hval c r)
end

section
/-! What a reply writes (R19, R22, R97, R107). -/

namespace Sys2Proof.Machine

open Sys2Proof.Claims

/-! One write. -/

/-- The word that a write puts into register `code` of thread `th`, the threads of `live` not having exited. -/
def RegWrite.word (live : Mask) (x : RegWrite) (code th : Nat) : Option Word :=
  match x with
  | .v c vals => if code = c ∧ c < 63 ∧ has live th = true then (vals.find? fun p => p.1 == th).map (·.2) else none
  | .s c val => if code = c + 64 ∧ c < 63 then some val else none
  | .p _ _ _ => none

/-- The bit that a write puts into predicate `n` of thread `th`. -/
def RegWrite.flag (live : Mask) (x : RegWrite) (n th : Nat) : Option Bool :=
  match x with
  | .p c cover vals => if n = c ∧ c ≠ 0 ∧ has cover th = true ∧ has live th = true then some (has vals th) else none
  | _ => none

/-- What a write names: v-registers from 0, s-registers from 64, predicates from 128. -/
def RegWrite.name (x : RegWrite) : Nat :=
  match x with
  | .v c _ => c
  | .s c _ => 64 + c
  | .p c _ _ => 128 + c

/-- A v-register after a write of no shape. -/
theorem reg_writeV_gen {w : Warp} (hz : w.sized = true) (k : Nat) (cover : Mask) (vals : List Word) (code : Nat) {th : Nat}
    (hth : th < 32) : (w.writeV k .gen cover vals).reg code th =
      if code = k ∧ k < 63 ∧ has cover th = true then nth vals th else w.reg code th := by
  rw [reg_writeV hz]
  by_cases hk : code = k ∧ k < 63
  · obtain ⟨rfl, hk⟩ := hk
    have hread : ((w.vreg code).write .gen cover w.live vals).read th =
        if has cover th then nth vals th else (w.vreg code).read th := by
      simp [VReg.write, VReg.read, nth_map_range _ hth]
    have hreg : w.reg code th = (w.vreg code).read th := by simp [Warp.reg, hk]
    rw [hread, ← hreg]
    by_cases hc : has cover th = true
    · rw [if_pos ⟨rfl, hk, ne_zero_of_has hc⟩, if_pos hc, if_pos ⟨rfl, hk, hc⟩]
    · simp [hc]
  · rw [if_neg (by tauto), if_neg (by tauto)]

theorem find_key_isSome {l : List (Nat × Word)} {th : Nat} :
    th ∈ l.map (·.1) ↔ (l.find? fun p => p.1 == th).isSome = true := by
  simp [List.find?_isSome]

theorem applyWrite_frame (w : Warp) (x : RegWrite) :
    w.applyWrite x = { w with v := (w.applyWrite x).v, s := (w.applyWrite x).s, p := (w.applyWrite x).p } := by
  cases x with
  | v c vals => simp only [Warp.applyWrite, Warp.writeV]; split <;> rfl
  | s c val => rfl
  | p c m v => simp only [Warp.applyWrite, Warp.writeP]; split <;> rfl

theorem applyWrite_live (w : Warp) (x : RegWrite) : (w.applyWrite x).live = w.live := by
  rw [applyWrite_frame]; rfl

theorem applyWrite_sized {w : Warp} (hz : w.sized = true) (x : RegWrite) : (w.applyWrite x).sized = true := by
  cases x with
  | v c vals => exact writeV_sized hz ..
  | s c val => exact writeS_sized hz ..
  | p c m v => exact writeP_sized hz ..

/-- A register after a write. -/
theorem reg_applyWrite {w : Warp} (hz : w.sized = true) (x : RegWrite) {code th : Nat} (hth : code < 64 → th < 32) :
    (w.applyWrite x).reg code th = (x.word w.live code th).getD (w.reg code th) := by
  cases x with
  | v c vals =>
    by_cases hc : code < 64
    · simp only [Warp.applyWrite, reg_writeV_gen hz _ _ _ _ (hth hc), RegWrite.word, has_and, has_maskOf, hth hc,
        nth_map_range _ (hth hc), decide_true, Bool.and_true, Bool.and_eq_true, decide_eq_true_eq, find_key_isSome]
      by_cases hw : code = c ∧ c < 63 ∧ has w.live th = true
      · cases hf : vals.find? (fun p => p.1 == th) <;> simp [hw]
      · rw [if_neg (by tauto), if_neg hw]; rfl
    · simp only [Warp.applyWrite, reg_writeV hz, RegWrite.word]
      rw [if_neg (by omega), if_neg (by omega)]; rfl
  | s c val =>
    simp only [Warp.applyWrite, reg_writeS hz, RegWrite.word]
    split <;> rfl
  | p c m v =>
    rw [RegWrite.word, Option.getD_none]
    exact reg_congr (by rw [Warp.applyWrite, writeP_frame]) (by rw [Warp.applyWrite, writeP_frame]) ..

/-- A predicate after a write. -/
theorem pred_applyWrite {w : Warp} (hz : w.sized = true) {x : RegWrite} (hx : x.name < 256) (n th : Nat) :
    (w.applyWrite x).pred n th = (x.flag w.live n th).getD (w.pred n th) := by
  cases x with
  | v c vals => exact pred_congr (by rw [Warp.applyWrite, writeV_frame]) ..
  | s c val => rfl
  | p c m v =>
    rw [RegWrite.name] at hx
    simp only [Warp.applyWrite, pred_writeP hz (show c < 128 by omega), RegWrite.flag, has_and, Bool.and_eq_true]
    by_cases h : n = c ∧ c ≠ 0 ∧ has m th = true ∧ has w.live th = true
    · rw [if_pos h, if_pos h]; rfl
    · rw [if_neg h, if_neg h]; rfl

/-! A list of writes. -/

theorem applyWrites_frame (wr : List RegWrite) (w : Warp) : wr.foldl Warp.applyWrite w =
    { w with v := (wr.foldl Warp.applyWrite w).v, s := (wr.foldl Warp.applyWrite w).s, p := (wr.foldl Warp.applyWrite w).p } := by
  induction wr generalizing w with
  | nil => rfl
  | cons x xs ih => rw [List.foldl_cons, ih, applyWrite_frame]

/-- Writes of v-registers leave the other files. -/
theorem applyWrites_v (wr : List RegWrite) (w : Warp) (h : ∀ x ∈ wr, ∃ c l, x = .v c l) :
    wr.foldl Warp.applyWrite w = { w with v := (wr.foldl Warp.applyWrite w).v } := by
  induction wr generalizing w with
  | nil => rfl
  | cons x xs ih =>
    obtain ⟨c, l, rfl⟩ := h x (by simp)
    rw [List.foldl_cons, ih _ fun y hy => h y (by simp [hy]), Warp.applyWrite, writeV_frame]

/-- Writes of s-registers leave the other files. -/
theorem applyWrites_s (wr : List RegWrite) (w : Warp) (h : ∀ x ∈ wr, ∃ c v, x = .s c v) :
    wr.foldl Warp.applyWrite w = { w with s := (wr.foldl Warp.applyWrite w).s } := by
  induction wr generalizing w with
  | nil => rfl
  | cons x xs ih =>
    obtain ⟨c, l, rfl⟩ := h x (by simp)
    rw [List.foldl_cons, ih _ fun y hy => h y (by simp [hy]), Warp.applyWrite, Warp.writeS]

/-- A register that no write names. -/
theorem reg_applyWrites_none (wr : List RegWrite) {w : Warp} (hz : w.sized = true) {code th : Nat}
    (hth : code < 64 → th < 32) (h : ∀ x ∈ wr, x.word w.live code th = none) :
    (wr.foldl Warp.applyWrite w).reg code th = w.reg code th := by
  induction wr generalizing w with
  | nil => rfl
  | cons x xs ih =>
    rw [List.foldl_cons, ih (applyWrite_sized hz x) fun y hy => by rw [applyWrite_live]; exact h y (by simp [hy]),
      reg_applyWrite hz x hth, h x (by simp), Option.getD_none]

theorem pred_applyWrites_none (wr : List RegWrite) {w : Warp} (hz : w.sized = true) (hn : ∀ x ∈ wr, x.name < 256)
    {n th : Nat} (h : ∀ x ∈ wr, x.flag w.live n th = none) :
    (wr.foldl Warp.applyWrite w).pred n th = w.pred n th := by
  induction wr generalizing w with
  | nil => rfl
  | cons x xs ih =>
    rw [List.foldl_cons, ih (applyWrite_sized hz x) (fun y hy => hn y (by simp [hy]))
      fun y hy => by rw [applyWrite_live]; exact h y (by simp [hy]),
      pred_applyWrite hz (hn x (by simp)), h x (by simp), Option.getD_none]

theorem applyWrites_sized (wr : List RegWrite) {w : Warp} (hz : w.sized = true) :
    (wr.foldl Warp.applyWrite w).sized = true := by
  induction wr generalizing w with
  | nil => exact hz
  | cons x xs ih => exact ih (applyWrite_sized hz x)

theorem applyWrites_live (wr : List RegWrite) (w : Warp) : (wr.foldl Warp.applyWrite w).live = w.live := by
  rw [applyWrites_frame]; rfl

/-- A register that one write names and none after it. -/
theorem reg_applyWrites_some {l₁ l₂ : List RegWrite} {x : RegWrite} {w : Warp} (hz : w.sized = true) {code th : Nat}
    (hth : code < 64 → th < 32) {v : Word} (hx : x.word w.live code th = some v)
    (h : ∀ y ∈ l₂, y.word w.live code th = none) :
    ((l₁ ++ x :: l₂).foldl Warp.applyWrite w).reg code th = v := by
  have hz₁ := applyWrites_sized l₁ hz
  have hl₁ := applyWrites_live l₁ w
  rw [List.foldl_append, List.foldl_cons, reg_applyWrites_none _ (applyWrite_sized hz₁ x) hth, reg_applyWrite hz₁ x hth,
    hl₁, hx, Option.getD_some]
  rwa [applyWrite_live, hl₁]

theorem pred_applyWrites_some {l₁ l₂ : List RegWrite} {x : RegWrite} {w : Warp} (hz : w.sized = true)
    (hn : ∀ y ∈ l₁ ++ x :: l₂, y.name < 256) {n th : Nat} {v : Bool} (hx : x.flag w.live n th = some v)
    (h : ∀ y ∈ l₂, y.flag w.live n th = none) :
    ((l₁ ++ x :: l₂).foldl Warp.applyWrite w).pred n th = v := by
  have hz₁ := applyWrites_sized l₁ hz
  have hl₁ := applyWrites_live l₁ w
  rw [List.foldl_append, List.foldl_cons, pred_applyWrites_none _ (applyWrite_sized hz₁ x) fun y hy => hn y (by simp [hy]),
    pred_applyWrite hz₁ (hn x (by simp)), hl₁, hx, Option.getD_some]
  rwa [applyWrite_live, hl₁]

/-! What later words of the chain leave of a write (R19). -/

/-- The threads in which later words have written `code`. -/
def goneOf (late : List (Nat × Mask)) (code : Nat) : Mask :=
  (late.filter fun l => l.1 == code).foldl (fun m l => m ||| l.2) 0

theorem has_foldl_snd (l : List (Nat × Mask)) (m : Mask) (t : Nat) :
    has (l.foldl (fun m x => m ||| x.2) m) t = (has m t || l.any fun x => has x.2 t) := by
  induction l generalizing m with
  | nil => simp
  | cons x xs ih => rw [List.foldl_cons, ih, has_or, List.any_cons, Bool.or_assoc]

theorem has_goneOf {late : List (Nat × Mask)} {code t : Nat} : has (goneOf late code) t = true ↔ laterWrite late code t := by
  simp [goneOf, has_foldl_snd, laterWrite]

theorem goneOf_eq_zero {late : List (Nat × Mask)} {code : Nat} : goneOf late code = 0 ↔ ∀ t, ¬laterWrite late code t := by
  simp only [← has_goneOf]
  exact ⟨fun h t => by simp [h], fun h => mask_ext fun t _ => by simpa using h t⟩

theorem less_v (late : List (Nat × Mask)) (c : Nat) (l : List (Nat × Word)) :
    (RegWrite.v c l).less late = .v c (l.filter fun p => !has (goneOf late c) p.1) := rfl

theorem less_s (late : List (Nat × Mask)) (c : Nat) (v : Word) :
    (RegWrite.s c v).less late = if goneOf late (64 + c) == 0 then .s c v else .s 63 0 := rfl

theorem less_p (late : List (Nat × Mask)) (c : Nat) (m v : Mask) :
    (RegWrite.p c m v).less late = .p c (m &&& ~~~goneOf late (128 + c)) v := rfl

/-- A write whose name is another puts nothing into a register. -/
theorem word_less_ne {x : RegWrite} {code : Nat} (h : x.name ≠ code) (late : List (Nat × Mask)) (live : Mask) (th : Nat) :
    (x.less late).word live code th = none := by
  cases x with
  | v c l => exact if_neg fun hc => h hc.1.symm
  | s c v =>
    rw [less_s]
    split
    · exact if_neg fun hc => h (by simp only [RegWrite.name]; omega)
    · exact if_neg (by omega)
  | p c m v => rfl

theorem flag_less_ne {x : RegWrite} {n : Nat} (h : x.name ≠ 128 + n) (late : List (Nat × Mask)) (live : Mask) (th : Nat) :
    (x.less late).flag live n th = none := by
  cases x with
  | v c l => rfl
  | s c v => rw [less_s]; split <;> rfl
  | p c m v => exact if_neg fun hc => h (by simp only [RegWrite.name]; omega)

/-- A register that a later word has written takes nothing from the write. -/
theorem word_less_late {late : List (Nat × Mask)} {code th t : Nat} (h : laterWrite late code t) (ht : code < 64 → t = th)
    (live : Mask) (x : RegWrite) : (x.less late).word live code th = none := by
  cases x with
  | v c l =>
    by_cases hc : code = c ∧ c < 63 ∧ has live th = true
    · obtain ⟨rfl, hc, hl⟩ := hc
      obtain rfl := ht (by omega)
      simp only [less_v, RegWrite.word, hc, hl, and_self, if_true, Option.map_eq_none_iff, List.find?_eq_none]
      rintro ⟨u, y⟩ hy hu
      obtain rfl : u = t := by simpa using hu
      rw [List.mem_filter, has_goneOf.2 h] at hy
      simp at hy
    · exact if_neg hc
  | s c v =>
    rw [less_s]
    split
    · next hg =>
      exact if_neg fun hc => goneOf_eq_zero.1 (beq_iff_eq.1 hg) t (by rwa [Nat.add_comm, ← hc.1])
    · exact if_neg (by omega)
  | p c m v => rfl

/-- A register that no later word has written takes what the write puts into it. -/
theorem word_less_early {late : List (Nat × Mask)} {code th : Nat}
    (h : ∀ t, (code < 64 → t = th) → ¬laterWrite late code t) (live : Mask) (x : RegWrite) :
    (x.less late).word live code th = x.word live code th := by
  cases x with
  | v c l =>
    rw [less_v, RegWrite.word, RegWrite.word]
    split
    · next hc =>
      obtain ⟨rfl, -, -⟩ := hc
      rw [List.find?_filter]
      congr 2
      funext p
      by_cases hp : p.1 = th
      · simp [hp, Bool.eq_false_iff.2 fun hg => h th (fun _ => rfl) (has_goneOf.1 hg)]
      · simp [hp]
    · rfl
  | s c v =>
    by_cases hc : code = c + 64 ∧ c < 63
    · obtain ⟨rfl, -⟩ := hc
      rw [less_s, goneOf_eq_zero.2 fun t => by simpa [Nat.add_comm] using h t (by omega)]
      rfl
    · rw [show (RegWrite.s c v).word live code th = none from if_neg hc, less_s]
      split
      · exact if_neg hc
      · exact if_neg (by omega)
  | p c m v => rfl

theorem flag_less_late {late : List (Nat × Mask)} {n th : Nat} (h : laterWrite late (128 + n) th) (live : Mask)
    (x : RegWrite) : (x.less late).flag live n th = none := by
  cases x with
  | v c l => rfl
  | s c v => rw [less_s]; split <;> rfl
  | p c m v =>
    refine if_neg fun hc => ?_
    obtain ⟨rfl, -, hm, -⟩ := hc
    replace hm : has (m &&& ~~~goneOf late (128 + n)) th = true := hm
    simp [has_not, has_goneOf.2 h] at hm

theorem flag_less_p {late : List (Nat × Mask)} {c th : Nat} (h : ¬laterWrite late (128 + c) th) (live : Mask) (m v : Mask) :
    ((RegWrite.p c m v).less late).flag live c th = (RegWrite.p c m v).flag live c th := by
  have hm : has (m &&& ~~~goneOf late (128 + c)) th = has m th := by
    rw [has_and, has_not, Bool.eq_false_iff.2 fun hg => h (has_goneOf.1 hg)]
    cases hm : has m th with
    | false => rfl
    | true => simp [has_lt hm]
  simp only [less_p, RegWrite.flag, hm]

theorem less_name {x : RegWrite} (h : x.name < 256) (late : List (Nat × Mask)) : (x.less late).name < 256 := by
  cases x with
  | v c l => exact h
  | s c v => rw [less_s]; split <;> [exact h; exact (by decide)]
  | p c m v => exact h

/-! A reply's writes. -/

/-- The warp after a reply's writes, where later words of the chain have written `late` (R19). -/
def Warp.written (w : Warp) (late : List (Nat × Mask)) (wr : List RegWrite) : Warp :=
  (wr.map fun x => x.less late).foldl Warp.applyWrite w

theorem reply_eq_written {w : Warp} {id : Nat} {a : Access} (ha : w.accs.find? (fun a => a.id == id) = some a)
    (wr : List RegWrite) : w.reply id wr = w.written a.late wr := by
  simp only [Warp.reply, Warp.lateOf, ha, Warp.written]

/-- A register that no write names, or that a later word has written, stays. -/
theorem reg_written_same {w : Warp} (hz : w.sized = true) {late : List (Nat × Mask)} {wr : List RegWrite} {code th : Nat}
    (hth : code < 64 → th < 32)
    (h : (∃ t, laterWrite late code t ∧ (code < 64 → t = th)) ∨ ∀ x ∈ wr, x.word w.live code th = none) :
    (w.written late wr).reg code th = w.reg code th := by
  refine reg_applyWrites_none _ hz hth fun y hy => ?_
  obtain ⟨x, hx, rfl⟩ := List.mem_map.1 hy
  by_cases hl : ∃ t, laterWrite late code t ∧ (code < 64 → t = th)
  · obtain ⟨t, hl, ht⟩ := hl
    exact word_less_late hl ht _ _
  · rw [word_less_early fun t ht hl' => hl ⟨t, hl', ht⟩]
    exact h.resolve_left hl x hx

/-- A register that one write names and no later word has written. -/
theorem reg_written {w : Warp} (hz : w.sized = true) {late : List (Nat × Mask)} {wr : List RegWrite}
    (hd : (wr.map RegWrite.name).Nodup) {x : RegWrite} (hx : x ∈ wr) {th : Nat} {v : Word} (hth : x.name < 64 → th < 32)
    (hl : ∀ t, (x.name < 64 → t = th) → ¬laterWrite late x.name t) (hv : x.word w.live x.name th = some v) :
    (w.written late wr).reg x.name th = v := by
  obtain ⟨l₁, l₂, rfl⟩ := List.append_of_mem hx
  rw [Warp.written, List.map_append, List.map_cons]
  refine reg_applyWrites_some hz hth ((word_less_early hl _ _).trans hv) fun y hy => ?_
  obtain ⟨z, hz, rfl⟩ := List.mem_map.1 hy
  rw [List.map_append, List.map_cons] at hd
  have hne := (List.nodup_cons.1 (List.nodup_append.1 hd).2.1).1
  have hzx : z.name ≠ x.name := fun he => hne (List.mem_map.2 ⟨z, hz, he⟩)
  exact word_less_ne hzx _ _ _

theorem pred_written_same {w : Warp} (hz : w.sized = true) {late : List (Nat × Mask)} {wr : List RegWrite} {n th : Nat}
    (hn : ∀ x ∈ wr, x.name < 256) (h : laterWrite late (128 + n) th ∨ ∀ x ∈ wr, x.flag w.live n th = none) :
    (w.written late wr).pred n th = w.pred n th := by
  refine pred_applyWrites_none _ hz (List.forall_mem_map.2 fun x hx => less_name (hn x hx) late) fun y hy => ?_
  obtain ⟨x, hx, rfl⟩ := List.mem_map.1 hy
  by_cases hl : laterWrite late (128 + n) th
  · exact flag_less_late hl _ _
  · have hx := h.resolve_left hl x hx
    cases x with
    | v c l => rfl
    | s c v => rw [less_s]; split <;> rfl
    | p c m v =>
      by_cases hc : n = c
      · subst hc
        rw [flag_less_p hl, hx]
      · exact flag_less_ne (fun he => hc (Nat.add_left_cancel he).symm) _ _ _

theorem pred_written {w : Warp} (hz : w.sized = true) {late : List (Nat × Mask)} {wr : List RegWrite}
    (hn : ∀ x ∈ wr, x.name < 256) (hd : (wr.map RegWrite.name).Nodup) {c th : Nat} {m v : Mask} (hx : RegWrite.p c m v ∈ wr)
    (hc : c ≠ 0) (hm : has m th = true) (he : has w.live th = true) (hl : ¬laterWrite late (128 + c) th) :
    (w.written late wr).pred c th = has v th := by
  obtain ⟨l₁, l₂, rfl⟩ := List.append_of_mem hx
  have hn' : ∀ y ∈ (l₁ ++ RegWrite.p c m v :: l₂).map fun x => x.less late, y.name < 256 :=
    List.forall_mem_map.2 fun x hx => less_name (hn x hx) late
  rw [List.map_append, List.map_cons] at hn'
  rw [Warp.written, List.map_append, List.map_cons]
  refine pred_applyWrites_some hz hn' ((flag_less_p hl _ _ _).trans (if_pos ⟨rfl, hc, hm, he⟩)) fun y hy => ?_
  obtain ⟨z, hz, rfl⟩ := List.mem_map.1 hy
  rw [List.map_append, List.map_cons] at hd
  have hne := (List.nodup_cons.1 (List.nodup_append.1 hd).2.1).1
  have hzx : z.name ≠ 128 + c := fun he => hne (List.mem_map.2 ⟨z, hz, he⟩)
  exact flag_less_ne hzx _ _ _

end Sys2Proof.Machine
end

section
/-! The words of a load, and MEMORY_REPLY (R97, R107, R269). -/

namespace Sys2Proof.Machine

open Sys2Proof.Claims

/-! The words. -/

theorem sval_eq_toInt {n : Nat} (hn : 0 < n) (x : Nat) : sval n x = (BitVec.ofNat n x).toInt := by
  have h2 : 2 ^ n = 2 * 2 ^ (n - 1) := by rw [← Nat.pow_succ']; congr 1; omega
  rw [sval, BitVec.toInt_eq_toNat_cond, BitVec.toNat_ofNat]
  have hp : (2 : Int) ^ n = ((2 ^ n : Nat) : Int) := by push_cast; rfl
  rw [hp]
  by_cases h : 2 ^ (n - 1) ≤ x % 2 ^ n
  · rw [if_pos h, if_neg (by omega)]
  · rw [if_neg h, if_pos (by omega)]

/-- Word `i` of what a load of `size` bytes gives a register (R97). -/
def loadWord (size : Nat) (sx : Bool) (bs : List Byte) (i : Nat) : Word :=
  if size < 4 ∧ sx = true then (BitVec.ofNat (8 * size) (leNat bs)).signExtend 32
  else BitVec.ofNat 32 (leNat ((bs.drop (4 * i)).take 4))

theorem nth_wordsAt (bs : List Byte) {n i : Nat} (hi : i < n) :
    nth (wordsAt bs n) i = BitVec.ofNat 32 (leNat ((bs.drop (4 * i)).take 4)) := by
  simp [nth, wordsAt, List.getD_eq_getElem?_getD, hi]

theorem nth_loadWords {size i : Nat} (hs : 0 < size) (sx : Bool) {bs : List Byte} (hb : bs.length = size)
    (hi : i < (size + 3) / 4) (h4 : size < 4 ∨ size % 4 = 0) : nth (loadWords size sx bs) i = loadWord size sx bs i := by
  unfold loadWords loadWord
  by_cases h : size < 4
  · obtain rfl : i = 0 := by omega
    have hbs : (bs.drop (4 * 0)).take 4 = bs := by rw [Nat.mul_zero, List.drop_zero, List.take_of_length_le (by omega)]
    cases sx with
    | false => simp [h, nth, List.take_of_length_le (show bs.length ≤ 4 by omega)]
    | true => simp [h, nth, sval_eq_toInt (show 0 < 8 * size by omega), BitVec.signExtend]
  · simp only [h, if_false, false_and]
    exact nth_wordsAt bs (by omega)

/-! The writes of a load. -/

theorem range_add_nodup (d n : Nat) : ((List.range n).map (d + ·)).Nodup :=
  List.nodup_range.map fun _ _ h => Nat.add_left_cancel h

theorem find_keyed (ts : List Nat) (g : Nat → Word) (t : Nat) :
    (ts.map fun t => (t, g t)).find? (fun p => p.1 == t) = if t ∈ ts then some (t, g t) else none := by
  induction ts with
  | nil => rfl
  | cons u us ih =>
    by_cases h : u = t
    · subst h; simp
    · have h' : ¬t = u := fun e => h e.symm
      rw [List.map_cons, List.find?_cons_of_neg (by simpa using h), ih]
      simp [h']

/-- The threads of an access's spans. -/
def spanThreads (xs : List Span) : List Nat := (xs.map (·.t)).eraseDups

theorem mem_spanThreads {xs : List Span} {t : Nat} : t ∈ spanThreads xs ↔ ∃ x ∈ xs, x.t = t := by
  simp [spanThreads]

/-- The number of registers of a load (R97). -/
theorem load_count {size : Nat} (h4 : size < 4 ∨ size % 4 = 0) (hs : 0 < size) :
    (if size < 4 then 1 else size / 4) = (size + 3) / 4 := by
  split <;> omega

/-- Word `i` of a load's writes. -/
def vWrite (size : Nat) (sx : Bool) (d : Nat) (xs : List Span) (i : Nat) : RegWrite :=
  .v (d + i) ((spanThreads xs).map fun t => (t, nth (loadWords size sx (gather xs t)) i))
def sWrite (size : Nat) (sx : Bool) (d : Nat) (xs : List Span) (t i : Nat) : RegWrite :=
  .s (d - 64 + i) (nth (loadWords size sx (gather xs t)) i)

theorem loadWrites_vector {size : Nat} (h4 : size < 4 ∨ size % 4 = 0) (hs : 0 < size) (sx : Bool) (d : Nat) (xs : List Span) :
    loadWrites size sx false d xs = (List.range ((size + 3) / 4)).map (vWrite size sx d xs) := by
  simp only [loadWrites, Bool.false_eq_true, if_false, load_count h4 hs, wordWrites, List.map_map]
  rfl

theorem loadWrites_scalar {size : Nat} (h4 : size < 4 ∨ size % 4 = 0) (hs : 0 < size) (sx : Bool) (d : Nat) (x : Span)
    (xs : List Span) : loadWrites size sx true d (x :: xs) =
      (List.range ((size + 3) / 4)).map (sWrite size sx d (x :: xs) x.t) := by
  simp only [loadWrites, if_true, load_count h4 hs, List.map_cons, List.eraseDups_cons]
  rfl

theorem vWrite_word {size : Nat} {sx : Bool} {d : Nat} {xs : List Span} {i th : Nat} {live : Mask} (hd : d + i < 63)
    (hl : has live th = true) (hx : ∃ x ∈ xs, x.t = th) :
    (vWrite size sx d xs i).word live (d + i) th = some (nth (loadWords size sx (gather xs th)) i) := by
  simp only [vWrite, RegWrite.word, hd, hl, and_self, if_true, find_keyed, mem_spanThreads.2 hx, Option.map_some]

theorem vWrite_word_none {size : Nat} {sx : Bool} {d : Nat} {xs : List Span} {i code th : Nat} {live : Mask}
    (h : has live th = false ∨ code ≠ d + i ∨ ∀ x ∈ xs, x.t ≠ th) : (vWrite size sx d xs i).word live code th = none := by
  simp only [vWrite, RegWrite.word, find_keyed]
  rcases h with h | h | h
  · simp [h]
  · exact if_neg fun hc => h hc.1
  · have hn : th ∉ spanThreads xs := fun hm => by
      obtain ⟨x, hx, he⟩ := mem_spanThreads.1 hm
      exact h x hx he
    simp [hn]

/-! MEMORY_REPLY. -/

theorem has_live {w : Warp} {th : Nat} (hth : th < 32) : has w.live th = !has w.exited th := by
  rw [Warp.live, has_not, decide_eq_true hth, Bool.true_and]

theorem readScratch_frame (s : State) (w : Warp) (a : Access) :
    s.readScratch w a = { a with spans := (s.readScratch w a).spans } := by
  unfold State.readScratch
  split
  · split <;> rfl
  · rfl

theorem memoryReply_load {s : State} {u id : Nat} {w : Warp} {a : Access} (hw : s.warp? u = some w)
    (ha : w.accs.find? (fun a => a.id == id) = some a) {size d : Nat} {sx sc : Bool} (hk : a.kind = .load size sx sc d)
    (hwk : a.walked = true) (hg : ∀ x ∈ (s.readScratch w a).spans, ∀ g ∈ x.got, g.isSome = true) :
    exec (.memoryReply u id) s =
      .next (s.setWarp ((w.written a.late (loadWrites size sx sc d (s.readScratch w a).spans)).dropAccess id)) := by
  have hfr := readScratch_frame s w a
  have hk' : (s.readScratch w a).kind = .load size sx sc d := by rw [hfr]; exact hk
  have hw' : (s.readScratch w a).walked = true := by rw [hfr]; exact hwk
  have hf : (s.readScratch w a).fixed = true := by simpa [Access.fixed] using hg
  rw [exec_memoryReply, execMemoryReply]
  simp only [hw, ha, hk', hw', hf, Bool.and_self, if_true, reply_eq_written ha]

theorem memoryReply_result {s : State} {u id : Nat} {w : Warp} {a : Access} (hw : s.warp? u = some w)
    (ha : w.accs.find? (fun a => a.id == id) = some a) {wr : List RegWrite} (hk : a.kind = .result wr) :
    exec (.memoryReply u id) s = .next (s.setWarp ((w.written a.late wr).dropAccess id)) := by
  have hk' : (s.readScratch w a).kind = .result wr := by rw [readScratch_frame]; exact hk
  rw [exec_memoryReply, execMemoryReply]
  simp only [hw, ha, hk', reply_eq_written ha]

/-- What MEMORY_REPLY leaves of a warp. -/
def Warp.repliedTo (w : Warp) (id : Nat) (late : List (Nat × Mask)) (wr : List RegWrite) : Warp :=
  (w.written late wr).dropAccess id

theorem reg_repliedTo (w : Warp) (id : Nat) (late : List (Nat × Mask)) (wr : List RegWrite) (code th : Nat) :
    (w.repliedTo id late wr).reg code th = (w.written late wr).reg code th := reg_congr rfl rfl ..

theorem repliedTo_frame (w : Warp) (id : Nat) (late : List (Nat × Mask)) (wr : List RegWrite) :
    w.repliedTo id late wr = { w with accs := w.accs.filter fun a => a.id != id, v := (w.repliedTo id late wr).v,
                                      s := (w.repliedTo id late wr).s, p := (w.repliedTo id late wr).p } := by
  have h := applyWrites_frame (wr.map fun x => x.less late) w
  simp only [Warp.repliedTo, Warp.written, Warp.dropAccess]
  rw [h]

/-- A v-register depends on the v-registers alone. -/
theorem reg_of_v {w w' : Warp} (h : w'.v = w.v) {code : Nat} (hc : code < 64) (th : Nat) :
    w'.reg code th = w.reg code th := by
  simp only [Warp.reg, Warp.vreg, h]
  split
  · rfl
  · rw [if_pos (by omega), if_pos (by omega)]

/-- A load to v-registers. -/
theorem load_vector {w : Warp} (hz : w.sized = true) {size d : Nat} (h4 : size < 4 ∨ size % 4 = 0) (hs : 0 < size) (sx : Bool)
    (late : List (Nat × Mask)) {xs : List Span} (hx : ∀ x ∈ xs, x.t < 32 ∧ (gather xs x.t).length = size)
    (hd : d + (size + 3) / 4 ≤ 64) (id : Nat) :
    let w' := w.repliedTo id late (loadWrites size sx false d xs)
    w' = { w with accs := w.accs.filter fun a => a.id != id, v := w'.v } ∧
      (∀ x ∈ xs, has w.exited x.t = false → ∀ i, i < (size + 3) / 4 → d + i ≠ 63 → ¬laterWrite late (d + i) x.t →
        w'.reg (d + i) x.t = loadWord size sx (gather xs x.t) i) ∧
      ∀ code th, th < 32 → (has w.exited th = true ∨ code < d ∨ d + (size + 3) / 4 ≤ code ∨ (∀ x ∈ xs, x.t ≠ th) ∨
        laterWrite late code th) → w'.reg code th = w.reg code th := by
  simp only [loadWrites_vector h4 hs, reg_repliedTo]
  refine ⟨?_, fun x hm he i hi h63 hl => ?_, fun code th hth hc => ?_⟩
  · have h := applyWrites_v (((List.range ((size + 3) / 4)).map (vWrite size sx d xs)).map fun x => x.less late) w
      (by simp only [List.forall_mem_map]; exact fun i _ => ⟨_, _, rfl⟩)
    simp only [Warp.repliedTo, Warp.written, Warp.dropAccess]
    rw [h]
  · obtain ⟨hlt, hlen⟩ := hx x hm
    rw [← nth_loadWords hs sx hlen hi h4]
    have hnd : (((List.range ((size + 3) / 4)).map (vWrite size sx d xs)).map RegWrite.name).Nodup := by
      rw [List.map_map]; exact range_add_nodup d _
    exact reg_written hz hnd (List.mem_map_of_mem (List.mem_range.2 hi)) (fun _ => hlt)
      (fun t ht => by rw [ht (show d + i < 64 by omega)]; exact hl)
      (vWrite_word (by omega) (by rw [has_live hlt, he]; rfl) ⟨x, hm, rfl⟩)
  · refine reg_written_same hz (fun _ => hth) ?_
    by_cases hl : laterWrite late code th
    · exact .inl ⟨th, hl, fun _ => rfl⟩
    · refine .inr (List.forall_mem_map.2 fun i hi => vWrite_word_none ?_)
      have hi := List.mem_range.1 hi
      rcases hc with hc | hc | hc | hc | hc
      · exact .inl (by rw [has_live hth, hc]; rfl)
      · exact .inr (.inl (by omega))
      · exact .inr (.inl (by omega))
      · exact .inr (.inr hc)
      · exact absurd hc hl

/-- A load to s-registers. -/
theorem load_scalar {w : Warp} (hz : w.sized = true) {size d : Nat} (h4 : size < 4 ∨ size % 4 = 0) (hs : 0 < size) (sx : Bool)
    (late : List (Nat × Mask)) {x : Span} {rest : List Span} (hlen : (gather (x :: rest) x.t).length = size)
    (hd : 64 ≤ d) (hd' : d + (size + 3) / 4 ≤ 128) (id : Nat) :
    let w' := w.repliedTo id late (loadWrites size sx true d (x :: rest))
    w' = { w with accs := w.accs.filter fun a => a.id != id, s := w'.s } ∧
      (∀ i th, i < (size + 3) / 4 → d + i ≠ 127 → (∀ t, ¬laterWrite late (d + i) t) →
        w'.reg (d + i) th = loadWord size sx (gather (x :: rest) x.t) i) ∧
      ∀ code th, (code < d ∨ d + (size + 3) / 4 ≤ code ∨ ∃ t, laterWrite late code t) → w'.reg code th = w.reg code th := by
  simp only [loadWrites_scalar h4 hs, reg_repliedTo]
  have hname : ∀ i, (sWrite size sx d (x :: rest) x.t i).name = d + i := fun i => by
    simp only [sWrite, RegWrite.name]; omega
  have hframe := applyWrites_s (((List.range ((size + 3) / 4)).map (sWrite size sx d (x :: rest) x.t)).map fun x => x.less late) w
    (by
      simp only [List.forall_mem_map]
      intro i _
      rw [sWrite, less_s]
      split <;> exact ⟨_, _, rfl⟩)
  refine ⟨?_, fun i th hi h127 hl => ?_, fun code th hc => ?_⟩
  · simp only [Warp.repliedTo, Warp.written, Warp.dropAccess]
    rw [hframe]
  · rw [← nth_loadWords hs sx hlen hi h4]
    have hnd : (((List.range ((size + 3) / 4)).map (sWrite size sx d (x :: rest) x.t)).map RegWrite.name).Nodup := by
      rw [List.map_map, show RegWrite.name ∘ sWrite size sx d (x :: rest) x.t = (d + ·) from funext hname]
      exact range_add_nodup d _
    have h := reg_written (late := late) (th := th) (v := nth (loadWords size sx (gather (x :: rest) x.t)) i) hz hnd
      (List.mem_map_of_mem (List.mem_range.2 hi)) (by rw [hname]; omega) (by rw [hname]; exact fun t _ => hl t)
      (by rw [hname]; exact if_pos (by omega))
    rwa [hname] at h
  · by_cases h64 : code < 64
    · exact reg_of_v (by rw [Warp.written, hframe]) h64 th
    · refine reg_written_same hz (fun h => absurd h h64) ?_
      by_cases hl : ∃ t, laterWrite late code t
      · obtain ⟨t, hl⟩ := hl
        exact .inl ⟨t, hl, fun h => absurd h h64⟩
      · refine .inr (List.forall_mem_map.2 fun i hi => if_neg ?_)
        have hi := List.mem_range.1 hi
        rcases hc with hc | hc | hc
        · omega
        · omega
        · exact absurd hc hl

/-- A load from scratchpad fixes the bytes that its queue has not given it (R269, R271). -/
theorem readScratch_span {s : State} {w : Warp} {a : Access} {k : Nat} (hk : a.space = .scr k) (hr : s.loadReady w a = true)
    {i : Nat} {x : Span} (hx : a.spans[i]? = some x) :
    ∃ y : Span, (s.readScratch w a).spans[i]? = some y ∧ y = { x with got := y.got } ∧
      ∀ (j : Nat) (g : Option Byte), x.got[j]? = some g →
        y.got[j]? = some (some (g.getD (cellRead (s.core k).scratch (x.va + j)))) := by
  simp only [State.readScratch, hk, hr, if_true, List.getElem?_map, hx, Option.map_some]
  refine ⟨_, rfl, rfl, fun j g hg => ?_⟩
  simp [List.getElem?_zipIdx, hg]

theorem readScratch_waits {s : State} {w : Warp} {a : Access} {k : Nat} (hk : a.space = .scr k)
    (hr : s.loadReady w a = false) : s.readScratch w a = a := by
  simp only [State.readScratch, hk, hr, Bool.false_eq_true, if_false]

/-! A known result. -/

/-- A known result names registers and predicates that there are, each once, and each thread once. -/
structure Writable (wr : List RegWrite) : Prop where
  nodup : (wr.map RegWrite.name).Nodup
  v : ∀ {c l}, RegWrite.v c l ∈ wr → c < 64 ∧ (l.map (·.1)).Nodup ∧ ∀ y ∈ l, y.1 < 32
  s : ∀ {c v}, RegWrite.s c v ∈ wr → c < 64
  p : ∀ {c m v}, RegWrite.p c m v ∈ wr → c < 128

theorem Writable.name_lt {wr : List RegWrite} (h : Writable wr) : ∀ x ∈ wr, x.name < 256 := by
  intro x hx
  cases x with
  | v c l => have := (h.v hx).1; simp only [RegWrite.name]; omega
  | s c v => have := h.s hx; simp only [RegWrite.name]; omega
  | p c m v => have := h.p hx; simp only [RegWrite.name]; omega

theorem find_of_mem_nodup {l : List (Nat × Word)} (hn : (l.map (·.1)).Nodup) {y : Nat × Word} (hy : y ∈ l) :
    l.find? (fun p => p.1 == y.1) = some y := by
  obtain ⟨l₁, l₂, rfl⟩ := List.append_of_mem hy
  rw [List.map_append, List.map_cons, List.nodup_append] at hn
  rw [List.find?_append, List.find?_eq_none.2, List.find?_cons_of_pos (by simp)]
  · rfl
  · intro z hz he
    exact hn.2.2 z.1 (List.mem_map_of_mem hz) y.1 (by simp) (by simpa using he)

theorem result_v {w : Warp} (hz : w.sized = true) {wr : List RegWrite} (hw : Writable wr) {late : List (Nat × Mask)}
    {c : Nat} {l : List (Nat × Word)} (hm : RegWrite.v c l ∈ wr) (h63 : c ≠ 63) {y : Nat × Word} (hy : y ∈ l)
    (he : has w.exited y.1 = false) (hl : ¬laterWrite late c y.1) : (w.written late wr).reg c y.1 = y.2 := by
  obtain ⟨hc, hn, hlt⟩ := hw.v hm
  have hlive : has w.live y.1 = true := by rw [has_live (hlt y hy), he]; rfl
  refine reg_written hz hw.nodup hm (fun _ => hlt y hy) (fun t ht => by rw [ht hc]; exact hl) ?_
  simp only [RegWrite.word, RegWrite.name, show c < 63 by omega, hlive, and_self, if_true, find_of_mem_nodup hn hy,
    Option.map_some]

theorem result_s {w : Warp} (hz : w.sized = true) {wr : List RegWrite} (hw : Writable wr) {late : List (Nat × Mask)}
    {c : Nat} {v : Word} (hm : RegWrite.s c v ∈ wr) (h63 : c ≠ 63) (hl : ∀ t, ¬laterWrite late (64 + c) t) (th : Nat) :
    (w.written late wr).reg (64 + c) th = v := by
  have hc := hw.s hm
  exact reg_written hz hw.nodup hm (fun h => absurd h (by simp only [RegWrite.name]; omega)) (fun t _ => hl t)
    (if_pos (by simp only [RegWrite.name]; omega))

theorem result_v_same {w : Warp} (hz : w.sized = true) {wr : List RegWrite} {late : List (Nat × Mask)} {c th : Nat}
    (hc : c < 64) (hth : th < 32) (h : has w.exited th = true ∨ laterWrite late c th ∨
      ∀ l, RegWrite.v c l ∈ wr → ∀ y ∈ l, y.1 ≠ th) : (w.written late wr).reg c th = w.reg c th := by
  refine reg_written_same hz (fun _ => hth) ?_
  by_cases hl : laterWrite late c th
  · exact .inl ⟨th, hl, fun _ => rfl⟩
  refine .inr fun x hx => ?_
  cases x with
  | v c' l =>
    refine ite_eq_right_iff.2 ?_
    rintro ⟨rfl, -, hlive⟩
    rw [has_live hth] at hlive
    have hno := (h.resolve_left (by simpa using hlive)).resolve_left hl l hx
    rw [List.find?_eq_none.2 fun y hy => by simpa using hno y hy]
    rfl
  | s c' v => exact if_neg (by omega)
  | p c' m v => rfl

theorem result_s_same {w : Warp} (hz : w.sized = true) {wr : List RegWrite} {late : List (Nat × Mask)} {c : Nat}
    (h : (∃ t, laterWrite late (64 + c) t) ∨ ∀ v, RegWrite.s c v ∉ wr) (th : Nat) :
    (w.written late wr).reg (64 + c) th = w.reg (64 + c) th := by
  refine reg_written_same hz (fun h => absurd h (by omega)) ?_
  refine h.imp (fun ⟨t, ht⟩ => ⟨t, ht, fun h => absurd h (by omega)⟩) fun hno x hx => ?_
  cases x with
  | v c' l => exact if_neg (by omega)
  | s c' v =>
    refine if_neg fun he => hno v ?_
    rwa [show c = c' by omega]
  | p c' m v => rfl

theorem result_p_same {w : Warp} (hz : w.sized = true) {wr : List RegWrite} (hw : Writable wr) {late : List (Nat × Mask)}
    {c th : Nat} (h : has w.exited th = true ∨ laterWrite late (128 + c) th ∨ ∀ m v, RegWrite.p c m v ∈ wr → has m th = false) :
    (w.written late wr).pred c th = w.pred c th := by
  refine pred_written_same hz hw.name_lt ?_
  by_cases hl : laterWrite late (128 + c) th
  · exact .inl hl
  refine .inr fun x hx => ?_
  cases x with
  | v c' l => rfl
  | s c' v => rfl
  | p c' m v =>
    refine if_neg ?_
    rintro ⟨rfl, -, hm, hlive⟩
    rw [has_live (has_lt hlive)] at hlive
    have hno := (h.resolve_left (by simpa using hlive)).resolve_left hl m v hx
    exact absurd hm (by simp [hno])

/-- MEMORY_REPLY of a load (R22, R97). -/
theorem loadReplies {s : State} {u id : Nat} {w : Warp} {a : Access} (hw : s.warp? u = some w) (hz : w.sized = true)
    (ha : w.accs.find? (fun a => a.id == id) = some a) (hwk : a.walked = true) {size : Nat}
    (h4 : size < 4 ∨ size % 4 = 0) (hs : 0 < size) (d : Nat) (sx : Bool) {xs : List Span} (hxs : (s.readScratch w a).spans = xs)
    (hg : ∀ x ∈ xs, ∀ g ∈ x.got, g.isSome = true) (hx : ∀ x ∈ xs, x.t < 32 ∧ (gather xs x.t).length = size) :
    (a.kind = .load size sx false d → d + (size + 3) / 4 ≤ 64 → ∃ w', exec (.memoryReply u id) s = .next (s.setWarp w') ∧
      w' = { w with accs := w.accs.filter fun a => a.id != id, v := w'.v } ∧
      (∀ x ∈ xs, has w.exited x.t = false → ∀ i, i < (size + 3) / 4 → d + i ≠ 63 → ¬laterWrite a.late (d + i) x.t →
        w'.reg (d + i) x.t = loadWord size sx (gather xs x.t) i) ∧
      ∀ code th, th < 32 → (has w.exited th = true ∨ code < d ∨ d + (size + 3) / 4 ≤ code ∨ (∀ x ∈ xs, x.t ≠ th) ∨
        laterWrite a.late code th) → w'.reg code th = w.reg code th) ∧
    (a.kind = .load size sx true d → 64 ≤ d → d + (size + 3) / 4 ≤ 128 → ∀ x rest, xs = x :: rest →
      ∃ w', exec (.memoryReply u id) s = .next (s.setWarp w') ∧ w' = { w with accs := w.accs.filter fun a => a.id != id, s := w'.s } ∧
      (∀ i th, i < (size + 3) / 4 → d + i ≠ 127 → (∀ t, ¬laterWrite a.late (d + i) t) →
        w'.reg (d + i) th = loadWord size sx (gather xs x.t) i) ∧
      ∀ code th, (code < d ∨ d + (size + 3) / 4 ≤ code ∨ ∃ t, laterWrite a.late code t) → w'.reg code th = w.reg code th) := by
  subst hxs
  refine ⟨fun hk hd => ⟨_, memoryReply_load hw ha hk hwk hg, load_vector hz h4 hs sx a.late hx hd id⟩,
    fun hk hd hd' x rest hsp => ⟨_, memoryReply_load hw ha hk hwk hg, ?_⟩⟩
  rw [hsp] at hx ⊢
  exact load_scalar hz h4 hs sx a.late (hx x (by simp)).2 hd hd' id

/-- MEMORY_REPLY of a known result (R22). -/
theorem resultReplies {s : State} {u id : Nat} {w : Warp} {a : Access} {wr : List RegWrite} (hw : s.warp? u = some w)
    (hz : w.sized = true) (ha : w.accs.find? (fun a => a.id == id) = some a) (hk : a.kind = .result wr) (hwr : Writable wr) :
    ∃ w', exec (.memoryReply u id) s = .next (s.setWarp w') ∧
      w' = { w with accs := w.accs.filter fun a => a.id != id, v := w'.v, s := w'.s, p := w'.p } ∧
      (∀ c l, RegWrite.v c l ∈ wr → c ≠ 63 → ∀ y ∈ l, has w.exited y.1 = false → ¬laterWrite a.late c y.1 → w'.reg c y.1 = y.2) ∧
      (∀ c v, RegWrite.s c v ∈ wr → c ≠ 63 → (∀ t, ¬laterWrite a.late (64 + c) t) → ∀ th, w'.reg (64 + c) th = v) ∧
      (∀ c m v th, RegWrite.p c m v ∈ wr → c ≠ 0 → has m th = true → has w.exited th = false → ¬laterWrite a.late (128 + c) th →
        w'.pred c th = has v th) ∧
      (∀ c th, c < 64 → th < 32 → (has w.exited th = true ∨ laterWrite a.late c th ∨
        ∀ l, RegWrite.v c l ∈ wr → ∀ y ∈ l, y.1 ≠ th) → w'.reg c th = w.reg c th) ∧
      (∀ c th, ((∃ t, laterWrite a.late (64 + c) t) ∨ ∀ v, RegWrite.s c v ∉ wr) → w'.reg (64 + c) th = w.reg (64 + c) th) ∧
      ∀ c th, (has w.exited th = true ∨ laterWrite a.late (128 + c) th ∨ ∀ m v, RegWrite.p c m v ∈ wr → has m th = false) →
        w'.pred c th = w.pred c th :=
  ⟨_, memoryReply_result hw ha hk, repliedTo_frame w id a.late wr,
    fun _ _ hm h63 _ hy he hl => result_v hz hwr hm h63 hy he hl,
    fun _ _ hm h63 hl th => result_s hz hwr hm h63 hl th,
    fun _ _ _ _ hm hc hth he hl =>
      pred_written hz hwr.name_lt hwr.nodup hm hc hth (by rw [has_live (has_lt hth), he]; rfl) hl,
    fun _ _ hc hth h => result_v_same hz hc hth h, fun _ th h => result_s_same hz h th,
    fun _ _ h => result_p_same hz hwr h⟩

end Sys2Proof.Machine

open Sys2Proof Sys2Proof.Machine Sys2Proof.Claims

/-- Settles O50: a reply's writes are folded over the warp, no two naming one register. -/
theorem loadResults : Obligations.LoadResults := by
  unfold Obligations.LoadResults
  refine ⟨?_, fun s w a k hk => ⟨fun hr i x hx => readScratch_span hk hr hx, readScratch_waits hk⟩, ?_⟩
  · intro s u id w a size d sx hw hz ha hwk hsize _ _ _ hg hx
    exact loadReplies hw hz ha hwk (by omega) (by omega) d sx rfl hg hx
  · intro s u id w a wr hw hz ha hk hnd hwr
    exact resultReplies hw hz ha hk ⟨hnd, fun hm => hwr _ hm, fun hm => hwr _ hm, fun hm => hwr _ hm⟩
end

section
/-! A step that grants a slot, or runs another agent's step (R16 to R19, R161). -/

namespace Sys2Proof.Machine

open Sys2Proof.Claims

/-! The turn. -/

theorem tick_agenda (s : State) : s.tick.agenda = s.agenda := by unfold State.tick; split <;> rfl
theorem tick_paused (s : State) : s.tick.paused = s.paused := by unfold State.tick; split <;> rfl
theorem tick_bad (s : State) : s.tick.bad = s.bad := by unfold State.tick; split <;> rfl

/-- A step whose turn gives a next state (R451). -/
theorem step_of_turn {s out : State} {x : Agendum} {rest : List Agendum} (ha : s.agenda = x :: rest)
    (h : s.tick.turn = .next out) :
    (out.unready = false → out.bad = none → step s = .next out) ∧
      (∀ pa, out.unready = false → out.bad = some pa → step s = .fault (.outsideMemory pa)) ∧
      (out.unready = true → s.bad = none → step s = .next { s.tick with agenda := rest }) := by
  simp only [step, h, held]
  refine ⟨fun hu hb => ?_, fun pa hu hb => ?_, fun hu hb => ?_⟩
  · simp only [hu, Bool.false_eq_true, if_false, noHole, hb]
  · simp only [hu, Bool.false_eq_true, if_false, noHole, hb]
  · simp only [hu, if_true, noHole, tick_bad, hb, tick_agenda, ha, List.drop_one, List.tail_cons]

/-- A turn that runs another agent's step. -/
theorem turn_run {s : State} {i : Instr} {rest : List Agendum} (ha : s.agenda = .run i :: rest) (hr : Raw.of i = none)
    (hi : ∀ fpc word, i ≠ .illegalInstruction fpc word) (ht : ∀ u k, i ≠ .timerTrap u k) :
    s.turn = exec i { s with agenda := rest } := by
  have hg : granted i = false := by
    unfold granted
    rw [hr]
    split
    · exact absurd rfl (hi _ _)
    · exact absurd rfl (ht _ _)
    · rfl
  simp only [State.turn, ha, hg, Bool.false_eq_true, if_false]

/-- A turn that grants a slot of which no chain is held (R322). -/
theorem turn_grant {s : State} {u k : Nat} {busy : List (Nat × Nat)} {rest : List Agendum}
    (ha : s.agenda = .grant u k busy :: rest) (hp : ∀ x ∈ s.paused, x.1.uid = u → x.1.slot ≠ k) :
    s.turn = { s with agenda := rest }.laneGrant u k busy := by
  have hany : (s.paused.any fun p => p.1.uid == u && p.1.slot == k) = false := by
    simpa [List.any_eq_false] using hp
  simp only [State.turn, ha, hany, Bool.false_eq_true, if_false]

/-! The grant. -/

/-- Fetch of three words that decode. -/
theorem fetch_of_words {s s1 : State} {w : Warp} {k : Nat} {ws : List Word} {r : Except Reject Group}
    (hf : s.fetchPacket w (packetOf w.cb (w.slot k).pc).toNat 3 [] = (.inr ws, s1))
    (hd : decode ws (packetSlot w.cb (w.slot k).pc) = r) : s.fetch w k = (.inr r, s1) := by
  simp only [State.fetch, hf, hd]

/-- The issue record of a group of one word. -/
def Issue.single (w : Warp) (k : Nat) (g : Group) (p : Piece) : Issue :=
  let pkt := packetOf w.cb (w.slot k).pc
  { uid := w.uid, slot := k, pkt, npc := afterSlot pkt g.next, wslot := p.slot, word := p.word, snap := none, flags := [],
    trap := none, marker := p.hdr.w, bound := false }

theorem start_single (w : Warp) (k : Nat) {g : Group} {p : Piece} (hg : g.pieces = [p]) :
    { Issue.start w k g with wslot := p.slot, word := p.word } = Issue.single w k g p := by
  simp [Issue.single, Issue.start, hg]

/-- A last word runs on the state with its place in the issue record. -/
theorem runPieces_single {s s2 : State} {c : Issue} {p : Piece} (hc : s.issue = some c) (hs : c.snap = none)
    (h : exec p.instr { s with issue := some { c with wslot := p.slot, word := p.word } } = .next s2) :
    s.runPieces [p] = .next { s2 with issue := none } := by
  have hover : ∀ t : State, t.overwrite { c with wslot := p.slot, word := p.word } p = t := fun t => by
    simp only [State.overwrite, hs]
  simp only [State.runPieces, hc]
  rw [hover, h]
  cases hi : s2.issue <;> simp only [hi]

/-- A group of one word runs the form that it decodes to. -/
theorem issueGroup_single {s s2 : State} {w : Warp} {k : Nat} {g : Group} {p : Piece} (hg : g.pieces = [p])
    (hb : w.selfBound g = false)
    (h : exec p.instr { s.setWarp { w with lastIns := { w.lastIns with parked := 0 } } with
      issue := some (Issue.single w k g p) } = .next s2) :
    s.issueGroup w k g = .next { s2 with issue := none } := by
  have hb' : Warp.selfBound { w with lastIns := { w.lastIns with parked := 0 } } g = false := hb
  have hsnap : (Issue.start { w with lastIns := { w.lastIns with parked := 0 } } k g).snap = none := by
    simp [Issue.start, hg]
  simp only [State.issueGroup, hb', Bool.false_eq_true, if_false, hg, List.length_singleton, Nat.lt_irrefl, decide_false,
    Bool.false_and]
  refine runPieces_single rfl hsnap ?_
  rw [start_single _ k hg]
  exact h

/-- A grant that nothing withholds runs its group. -/
theorem grant_gives {s s1 t : State} {u k : Nat} {w w' : Warp} {g : Group} (hw : s.warp? u = some w) (hk : k < 2)
    (ho : s.warpOpen w = true) (hs : w.slotOpen k = true) (hf : s.fetch w k = (.inr (.ok g), s1))
    (hr : s1.groupReady w k g = true) (ht : s1.timerDue w = false) (hi : s1.issueGroup w k g = .next t)
    (hw' : t.warp? w.uid = some w') (hm : s1.marked w' w.seq = false)
    (hc : w'.claims ≤ w.claims ∨ s1.poolHolds w w'.claims = true) : s.grant u k = .next t := by
  have hheld : s1.withheld w (.next t) = none := by
    have hpool : (decide (w.claims < w'.claims) && !s1.poolHolds w w'.claims) = false := by
      rcases hc with hc | hc
      · rw [decide_eq_false (by omega), Bool.false_and]
      · rw [hc, Bool.not_true, Bool.and_false]
    simp only [State.withheld, hw', hm, hpool, Bool.false_eq_true, if_false]
  have hopen : (decide (2 ≤ k) || !(s.warpOpen w && w.slotOpen k)) = false := by
    rw [decide_eq_false (by omega), ho, hs]; rfl
  simp only [State.grant, hw, hopen, hf, hr, hi, hheld, ht, Bool.false_eq_true, Bool.not_true, if_false]

/-- The lane notes a grant that it makes (R161). -/
theorem laneGrant_gives {s t : State} {u k : Nat} {busy : List (Nat × Nat)} {w : Warp} (hw : s.warp? u = some w)
    (hlen : (s.grantedNow w.core w.lane).length < 2) (hno : (s.grantedNow w.core w.lane).contains (u, k) = false)
    (hfirst : ∀ x ∈ (s.laneSlots w.core w.lane).takeWhile (fun y => y != (u, k)),
      busy.contains x = true ∨ (s.grantedNow w.core w.lane).contains x = true ∨ s.grantable x = false)
    (hg : s.grant u k = .next t) :
    s.laneGrant u k busy = .next (if t = s then s
      else t.setCore w.core { t.core w.core with
        granted := put w.lane (s.now, s.grantedNow w.core w.lane ++ [(u, k)]) (t.core w.core).granted }) := by
  have hany : (((s.laneSlots w.core w.lane).takeWhile fun p => p != (u, k)).any fun p =>
      !busy.contains p && !(s.grantedNow w.core w.lane).contains p && s.grantable p) = false := by
    refine List.any_eq_false.2 fun x hx => ?_
    rcases hfirst x hx with h | h | h
    · rw [h]; simp
    · rw [h]; simp
    · rw [h]; simp
  simp only [State.laneGrant, hw, hno, hany, decide_eq_false (show ¬2 ≤ (s.grantedNow w.core w.lane).length by omega),
    Bool.or_false, Bool.false_eq_true, if_false, hg]

end Sys2Proof.Machine

open Sys2Proof Sys2Proof.Machine Sys2Proof.Claims

/-- Settles O45: along the turn, the lane's grant, the fetch and the group of one word. -/
theorem stepRunsDecoded : Obligations.StepRunsDecoded := by
  unfold Obligations.StepRunsDecoded
  refine ⟨?_, ?_, ?_⟩
  · intro s s1 s2 u k busy rest w w' ws g p ha hp s0 hw hk ho hs noted hlen hno hfirst pc off pkt hf hd hg hr ht hb c hx hw'
      hm hc t k' out
    have hi : s1.issueGroup w k g = .next t := issueGroup_single hg hb hx
    have hgrant : s0.grant u k = .next t := grant_gives hw hk ho hs (fetch_of_words hf hd) hr ht hi hw' hm hc
    have hturn : s.tick.turn = .next out := by
      rw [turn_grant (by rw [tick_agenda, ha]) (by rw [tick_paused]; exact hp)]
      exact laneGrant_gives hw hlen hno hfirst hgrant
    have hout : out.unready = t.unready ∧ out.bad = t.bad := by
      simp only [out]
      split
      · next he => rw [he]; exact ⟨rfl, rfl⟩
      · exact ⟨rfl, rfl⟩
    obtain ⟨hun, hbad⟩ := hout
    have hstep := step_of_turn ha hturn
    rwa [hun, hbad] at hstep
  · intro s rest i ha hr hi ht s0 t hx
    have hturn : s.tick.turn = .next t := by
      rw [turn_run (by rw [tick_agenda, ha]) hr hi ht]
      exact hx
    obtain ⟨hnext, -, hwait⟩ := step_of_turn ha hturn
    exact ⟨hnext, hwait⟩
  · intro s
    refine ⟨fun d r h => ?_, fun h => ?_⟩ <;> simp only [State.tick, h]
end

section
/-! What the steps of the memory system, the operands and the accesses leave: local memory (log entry 1). -/

namespace Sys2Proof.Machine

/-- What each step of a fold keeps, the fold keeps. -/
theorem foldl_keeps {α β γ : Type} (g : α → γ) {f : α → β → α} (h : ∀ a b, g (f a b) = g a) (l : List β) (a : α) :
    g (l.foldl f a) = g a := by
  induction l generalizing a with
  | nil => rfl
  | cons x xs ih => rw [List.foldl_cons, ih, h]

/-- Steps that leave memory leave it when they are folded. -/
@[simp] theorem foldl_mem {β : Type} {f : State → β → State} (h : ∀ s x, (f s x).mem = s.mem) (l : List β) (s : State) :
    (l.foldl f s).mem = s.mem :=
  foldl_keeps State.mem h l s

theorem getD_mem {o : Option State} {s : State} (h : ∀ t, o = some t → t.mem = s.mem) : (o.getD s).mem = s.mem := by
  cases o with
  | none => rfl
  | some t => exact h t rfl

theorem of_pair {α : Type} {p : α × State} {a : α} {s t : State} (h : p = (a, t)) (hp : p.2.mem = s.mem) : t.mem = s.mem := by
  rw [← hp, h]

theorem firstSome_eq_some {α β : Type} {f : α → Option β} {l : List α} {y : β} (h : firstSome f l = some y) :
    ∃ x ∈ l, f x = some y := by
  induction l with
  | nil => cases h
  | cons x xs ih =>
    rw [firstSome] at h
    split at h
    · next hx => cases h; exact ⟨x, List.mem_cons_self, hx⟩
    · obtain ⟨z, hz, hy⟩ := ih h
      exact ⟨z, List.mem_cons_of_mem _ hz, hy⟩

/-! What an outcome is. -/

/-- A form answers: with a next state that has the same memory, unless no warp issues. -/
def Answers (s : State) (o : Host.Outcome State Fault Refusal) : Prop :=
  match o with
  | .next t => t.mem = s.mem
  | _ => s.cur = none

/-- Another agent's step answers: with a next state that has the same memory. -/
def Moves (s : State) (o : Host.Outcome State Fault Refusal) : Prop :=
  match o with
  | .next t => t.mem = s.mem
  | _ => False

theorem answers_next {s t : State} : Answers s (.next t) ↔ t.mem = s.mem := Iff.rfl
theorem answers_noWarp {s : State} : Answers s noWarp ↔ s.cur = none := Iff.rfl
theorem moves_next {s t : State} : Moves s (.next t) ↔ t.mem = s.mem := Iff.rfl

/-! Machine/Memory. -/

@[simp] theorem deliver_mem (s : State) (m : Msg) : (s.deliver m).mem = s.mem := by
  unfold State.deliver
  grind [setCore_mem, setSlice_mem, setStack_mem]

@[simp] theorem send_mem (s : State) (src dst : Nat) (m : Msg) : (s.send src dst m).mem = s.mem := by
  unfold State.send
  grind [deliver_mem]

@[simp] theorem sendDie_mem (s : State) (src : Nat) (r : DieReq) : (s.sendDie src r).mem = s.mem := by
  simp [State.sendDie]

@[simp] theorem sendSlice_mem (s : State) (sl pa : Nat) (write : Bool) (bmask : Nat) (data : List Byte) :
    (s.sendSlice sl pa write bmask data).2.mem = s.mem := by
  simp [State.sendSlice]

@[simp] theorem outWrite_mem (s : State) (tgt line : Nat) (bytes : List (Nat × Byte)) :
    (s.outWrite tgt line bytes).mem = s.mem := by
  unfold State.outWrite
  grind

@[simp] theorem landAll_mem (s : State) (p : Posted → Bool) : (s.landAll p).mem = s.mem :=
  foldl_mem (fun t (x : Posted) => outWrite_mem t x.tgt x.line x.bytes) _ _

@[simp] theorem writeSectors_mem (s : State) (l : L2Line) (mask : Nat) : (s.writeSectors l mask).mem = s.mem := by
  unfold State.writeSectors
  refine (foldl_mem (fun _ _ => ?_) _ _).trans ?_ <;> grind [sendSlice_mem, setSlice_mem]

@[simp] theorem l2Put_mem (s : State) (l : L2Line) (nt : Bool) : (s.l2Put l nt).mem = s.mem := by
  unfold State.l2Put
  grind [setSlice_mem, writeSectors_mem]

@[simp] theorem reached_mem (s : State) (pa : Nat) : (s.reached pa).mem = s.mem := by
  unfold State.reached
  grind

@[simp] theorem l2Fill_mem (s : State) (line mask : Nat) : (s.l2Fill line mask).mem = s.mem := by
  unfold State.l2Fill
  grind [l2Put_mem]

@[simp] theorem fillAt_mem (s : State) (p : Phys) (n : Nat) : (s.fillAt p n).mem = s.mem := by
  unfold State.fillAt
  grind [l2Fill_mem, reached_mem]

@[simp] theorem touch_mem (s : State) (p : Phys) : (s.touch p).mem = s.mem := by
  simp [State.touch]

@[simp] theorem l2Write_mem (s : State) (line : Nat) (bytes : List (Nat × Byte)) (nt : Bool) :
    (s.l2Write line bytes nt).mem = s.mem := by
  simp [State.l2Write]

@[simp] theorem homeWriteLine_mem (s : State) (tgt line : Nat) (bytes : List (Nat × Byte)) (nt : Bool) :
    (s.homeWriteLine tgt line bytes nt).mem = s.mem := by
  unfold State.homeWriteLine
  grind [l2Write_mem, landAll_mem, outWrite_mem, reached_mem]

@[simp] theorem homeWrite_mem (s : State) (p : Phys) (bs : List Byte) : (s.homeWrite p bs).mem = s.mem := by
  unfold State.homeWrite
  refine (foldl_mem (fun _ _ => ?_) _ _).trans ?_ <;> grind [homeWriteLine_mem]

/-! Machine/Translate. -/

@[simp] theorem lookup_mem (s : State) (core : Option Nat) (cl die ctx va : Nat) :
    (s.lookup core cl die ctx va).2.mem = s.mem := by
  have hw : ∀ (l : List Nat) (s : State), (l.foldl (fun s a => s.touch ⟨0, a⟩) s).mem = s.mem := fun l s =>
    foldl_mem (fun s a => touch_mem s _) l s
  unfold State.lookup
  grind [setCluster_mem, setCore_mem, setDie_mem]

@[simp] theorem access_mem (s : State) (core : Option Nat) (cl die ctx va : Nat) (acc : Acc) (priv hostAtomic : Bool) :
    (s.access core cl die ctx va acc priv hostAtomic).2.mem = s.mem := by
  unfold State.access
  grind [lookup_mem]

@[simp] theorem readVirt_mem (s : State) (core : Option Nat) (cl die ctx : Nat) (acc : Acc) (priv : Bool) (n m : Nat)
    (xs : List Byte) : (s.readVirt core cl die ctx acc priv n m xs).2.mem = s.mem := by
  fun_induction State.readVirt s core cl die ctx acc priv n m xs <;> grind [access_mem, touch_mem]

@[simp] theorem writeVirt_mem (s : State) (core : Option Nat) (cl die ctx : Nat) (priv : Bool) (va : Nat) (bs : List Byte) :
    (s.writeVirt core cl die ctx priv va bs).2.mem = s.mem := by
  unfold State.writeVirt
  grind [access_mem, homeWrite_mem]

/-! Machine/Fatal. -/

@[simp] theorem raise_mem (s : State) (v : Nat) : (s.raise v).mem = s.mem := by
  unfold State.raise
  grind

@[simp] theorem bore_mem (s : State) (die type unit ctx data0 data1 : Nat) :
    (s.bore die type unit ctx data0 data1).mem = s.mem := rfl

@[simp] theorem endCtx_mem (s : State) (ctx : Nat) : (s.endCtx ctx).mem = s.mem := by
  unfold State.endCtx
  refine (foldl_mem (fun _ _ => ?_) _ _).trans ?_ <;> grind [raise_mem]

@[simp] theorem ctxFatal_mem (s : State) (ctx die unit code data1 : Nat) :
    (s.ctxFatal ctx die unit code data1).mem = s.mem := by
  simp [State.ctxFatal]

@[simp] theorem deviceFatal_mem (s : State) (code data1 : Nat) : (s.deviceFatal code data1).mem = s.mem := by
  unfold State.deviceFatal
  simp only [raise_mem]
  refine (foldl_mem (fun s k => raise_mem s _) _ _).trans ?_
  exact (foldl_mem endCtx_mem _ _).trans (foldl_mem (fun s d => bore_mem s d _ _ _ _ _) _ _)

@[simp] theorem faultRecord_mem (s : State) (ctx va cause kind die xid agent : Nat) (who : Parkee) :
    (s.faultRecord ctx va cause kind die xid agent who).2.mem = s.mem := by
  unfold State.faultRecord
  grind [ctxFatal_mem]

/-! Machine/Cache. -/

@[simp] theorem l1Put_mem (s : State) (core : Nat) (l : L1Line) : (s.l1Put core l).mem = s.mem := rfl

@[simp] theorem l1Drop_mem (s : State) (core ctx va : Nat) : (s.l1Drop core ctx va).mem = s.mem := rfl

@[simp] theorem unkeep_mem (s : State) (core ctx va : Nat) : (s.unkeep core ctx va).mem = s.mem := by
  unfold State.unkeep
  refine (foldl_mem (fun _ _ => ?_) _ _).trans ?_ <;> grind [setCore_mem]

theorem request_mem {s : State} {k : Nat} {use : TagUse} {ctx va : Nat} {p : Phys} {kind : HKind} {sectors : Nat}
    {bytes : List (Nat × Byte)} {nt : Bool} {x} {s' : State} (h : s.request k use ctx va p kind sectors bytes nt =
    some (x, s')) : s'.mem = s.mem := by
  unfold State.request at h
  grind [send_mem, setCore_mem]

theorem request_map_mem {s s' : State} {k : Nat} {use : TagUse} {ctx va : Nat} {p : Phys} {kind : HKind} {sectors : Nat}
    {bytes : List (Nat × Byte)} {nt : Bool}
    (h : (s.request k use ctx va p kind sectors bytes nt).map (·.2) = some s') : s'.mem = s.mem := by
  obtain ⟨⟨n, t⟩, hr, rfl⟩ := Option.map_eq_some_iff.1 h
  exact request_mem hr

@[simp] theorem patchL1_mem (s : State) (core ctx va : Nat) (bytes : List (Nat × Byte)) :
    (s.patchL1 core ctx va bytes).mem = s.mem := by
  unfold State.patchL1
  grind [setCore_mem]

@[simp] theorem cgL1_mem (s : State) (core ctx va : Nat) (bs : List Byte) : (s.cgL1 core ctx va bs).mem = s.mem := by
  unfold State.cgL1
  refine (foldl_mem (fun _ _ => ?_) _ _).trans ?_ <;> grind [patchL1_mem, unkeep_mem]

@[simp] theorem cgWrite_mem (s : State) (core ctx va : Nat) (p : Phys) (bs : List Byte) :
    (s.cgWrite core ctx va p bs).mem = s.mem := by
  simp [State.cgWrite]

@[simp] theorem wbPlace_mem (s : State) (core ctx va : Nat) : (s.wbPlace core ctx va).2.mem = s.mem := by
  unfold State.wbPlace
  grind [access_mem]

@[simp] theorem writeBack_mem (s : State) (core : Nat) (l : L1Line) (mask : Nat) : (s.writeBack core l mask).2.mem = s.mem := by
  unfold State.writeBack
  grind [l1Put_mem, request_mem, wbPlace_mem]

@[simp] theorem evictOne_mem (s : State) (core : Nat) (xs : List L1Line) : (s.evictOne core xs).2.mem = s.mem := by
  fun_induction State.evictOne s core xs <;> grind [l1Drop_mem, unkeep_mem, writeBack_mem]

@[simp] theorem makeRoom_mem (s : State) (core ctx va : Nat) : (s.makeRoom core ctx va).2.mem = s.mem := by
  unfold State.makeRoom
  grind [evictOne_mem]

@[simp] theorem l1Invalidate_mem (s : State) (core ctx va mask : Nat) : (s.l1Invalidate core ctx va mask).mem = s.mem := by
  unfold State.l1Invalidate
  grind [setCore_mem, unkeep_mem]

@[simp] theorem l1Acquire_mem (s : State) (core : Nat) : (s.l1Acquire core).mem = s.mem := by
  unfold State.l1Acquire
  refine (foldl_mem (fun _ _ => ?_) _ _).trans ?_ <;> grind [setCore_mem]

/-! Machine/Ops. -/

@[simp] theorem youngest_mem (s : State) (uid : Nat) : (s.youngest uid).mem = s.mem := by
  unfold State.youngest
  grind [modWarp_mem, setCore_mem]

@[simp] theorem laneFault_mem (s : State) (w : Warp) (va kind : Nat) (r : WalkRes) : (s.laneFault w va kind r).mem = s.mem := by
  unfold State.laneFault
  grind [ctxFatal_mem, faultRecord_mem, modWarp_mem]

@[simp] theorem laneRead_mem (s : State) (w : Warp) (va n : Nat) : (s.laneRead w va n).2.mem = s.mem := by
  simp [State.laneRead]

@[simp] theorem lanePage_mem (s : State) (w : Warp) (va : Nat) (bs : List Byte) : (s.lanePage w va bs).2.mem = s.mem := by
  unfold State.lanePage
  grind [cgL1_mem, laneFault_mem, writeVirt_mem]

@[simp] theorem laneWrite_mem (s : State) (w : Warp) (va : Nat) (bs : List Byte) : (s.laneWrite w va bs).2.mem = s.mem := by
  unfold State.laneWrite
  grind [lanePage_mem]

@[simp] theorem laneWrites_mem (s : State) (w : Warp) (xs : List (Nat × List Byte)) : (s.laneWrites w xs).2.mem = s.mem := by
  fun_induction State.laneWrites s w xs <;> grind [laneWrite_mem]

theorem stackStep_mem {s : State} {uid : Nat} {s' : State} (h : s.stackStep uid = some s') : s'.mem = s.mem := by
  unfold State.stackStep at h
  split at h
  · cases h
  simp only at h
  split at h
  · split at h
    · cases h
    next hw =>
    split at h
    · cases h
    next hd =>
    cases h
    rw [modWarp_mem, of_pair hd (laneWrite_mem ..), of_pair hw (laneWrite_mem ..)]
  · split at h
    · cases h
    rw [Option.ite_none_left_eq_some] at h
    obtain ⟨-, h⟩ := h
    split at h
    · cases h
    next hr =>
    split at h
    · cases h
    next hw =>
    have hm := (of_pair hw (laneWrite_mem ..)).trans (of_pair hr (laneRead_mem ..))
    split at h
    · split at h
      · cases h; rw [ctxFatal_mem, hm]
      · cases h; rw [setWarp_mem, hm]
    · cases h; rw [setWarp_mem, hm]

@[simp] theorem stackFault_mem (s : State) (uid : Nat) : (s.stackFault uid).mem = s.mem := by
  unfold State.stackFault
  grind [laneFault_mem, laneRead_mem, laneWrite_mem]

@[simp] theorem stackLoop_mem (s : State) (uid n : Nat) : (s.stackLoop uid n).mem = s.mem := by
  fun_induction State.stackLoop s uid n <;> grind [stackFault_mem, stackStep_mem]

@[simp] theorem deadPark_mem (s : State) (uid : Nat) : (s.deadPark uid).mem = s.mem := by
  unfold State.deadPark
  grind [ctxFatal_mem, setWarp_mem]

@[simp] theorem settle_mem (s : State) (uid : Nat) : (s.settle uid).mem = s.mem := by
  simp [State.settle]

@[simp] theorem takeTrap_mem (s : State) (uid k : Nat) : (s.takeTrap uid k).mem = s.mem := by
  unfold State.takeTrap
  grind [ctxFatal_mem, laneWrites_mem, setWarp_mem]

@[simp] theorem retire_mem (s : State) (bnd : Bnd) (gs : Option (List (DWord × Mask))) : (s.retire bnd gs).mem = s.mem := by
  unfold State.retire
  grind [modWarp_mem, setWarp_mem, settle_mem, takeTrap_mem]

@[simp] theorem endWord_mem (s : State) (h : Hdr) (bnd : Bnd) : (s.endWord h bnd).mem = s.mem := by
  unfold State.endWord
  grind [retire_mem]

@[simp] theorem trapWord_mem (s : State) (c : Issue) (h : Hdr) (t : TrapReq) : (s.trapWord c h t).mem = s.mem := by
  unfold State.trapWord
  grind [retire_mem]

/-! Machine/Alu. -/

theorem compute_answers (s : State) (h : Hdr) (a b d n : Nat) (shape : Issue → Warp → Shape)
    (f : Issue → Warp → Nat → Nat × Nat) : Answers s (s.compute h a b d n shape f) := by
  unfold State.compute
  grind [endWord_mem, setWarp_mem, answers_next, answers_noWarp]

theorem alu_answers (s : State) (cls : OpClass) (h : Hdr) (a b d n : Nat) (srcs : List Src)
    (f : List Nat → Nat × Nat) : Answers s (s.alu cls h a b d n srcs f) := by
  unfold State.alu
  exact compute_answers ..

theorem const_answers (s : State) (h : Hdr) (d n : Nat) (v : Issue → Warp → Nat) : Answers s (s.const h d n v) := by
  unfold State.const
  exact compute_answers ..

theorem alu0_answers (s : State) (cls : OpClass) (h : Hdr) (a b d n : Nat) (srcs : List Src) (f : List Nat → Nat) :
    Answers s (s.alu0 cls h a b d n srcs f) := by
  unfold State.alu0
  exact alu_answers ..

theorem cmp_answers (s : State) (h : Hdr) (a b pd : Nat) (srcs : List Src) (f : List Nat → Bool × Nat) :
    Answers s (s.cmp h a b pd srcs f) := by
  unfold State.cmp
  grind [endWord_mem, setWarp_mem, answers_next, answers_noWarp]

/-! Machine/LaneSys. -/

theorem execRdsr_answers (h : Hdr) (d _a : BitVec 7) (imm : BitVec 10) (s : State) : Answers s (execRdsr h d _a imm s) := by
  unfold execRdsr
  simp only
  split <;> exact compute_answers ..

theorem execWrsr_answers (h : Hdr) (_d a : BitVec 7) (imm : BitVec 10) (s : State) : Answers s (execWrsr h _d a imm s) := by
  unfold execWrsr
  grind [endWord_mem, setWarp_mem, trapWord_mem, answers_next, answers_noWarp]

theorem execVrdx_answers (h : Hdr) (d a _b : BitVec 7) (s : State) : Answers s (execVrdx h d a _b s) := by
  unfold execVrdx
  grind [compute_answers, trapWord_mem, answers_next, answers_noWarp]

theorem execVwrx_answers (h : Hdr) (_d a b : BitVec 7) (s : State) : Answers s (execVwrx h _d a b s) := by
  unfold execVwrx
  grind [endWord_mem, setWarp_mem, trapWord_mem, answers_next, answers_noWarp]

/-! Machine/Access. -/

theorem memForm_answers (s : State) (h : Hdr) (a : BitVec 7) (m : MemCode) (size : Nat) (write atomic scalar : Bool)
    (marks : List Nat) (data : Warp → Nat → List Byte) (bnd : Bnd)
    (go : Issue → Warp → Mask → Nat → List Span → Bool → Warp) :
    Answers s (s.memForm h a m size write atomic scalar marks data bnd go) := by
  unfold State.memForm
  grind [endWord_mem, fresh_mem, setWarp_mem, trapWord_mem, answers_next, answers_noWarp]

/-! Machine/Atomic. -/

theorem atom_answers (s : State) (h : Hdr) (d a b : BitVec 7) (op : AtomOp) (size m : Nat) :
    Answers s (s.atom h d a b op size m) := by
  unfold State.atom
  exact memForm_answers ..

theorem red_answers (s : State) (h : Hdr) (d a b : BitVec 7) (op : AtomOp) (size : Nat) :
    Answers s (s.red h d a b op size) := by
  unfold State.red
  exact memForm_answers ..

/-! Machine/Pipeline. -/

@[simp] theorem walkSpan_mem (s : State) (w : Warp) (priv : Bool) (acc : Acc) (hostOk direct : Bool) (x : Span) :
    (s.walkSpan w priv acc hostOk direct x).2.mem = s.mem := by
  unfold State.walkSpan
  grind [access_mem]

@[simp] theorem walkSpans_mem (s : State) (w : Warp) (priv : Bool) (acc : Acc) (hostOk direct : Bool) (xs : List Span) :
    (s.walkSpans w priv acc hostOk direct xs).2.mem = s.mem := by
  fun_induction State.walkSpans s w priv acc hostOk direct xs <;> grind [walkSpan_mem]

@[simp] theorem enterWindow_mem (s : State) (w : Warp) (a : Access) : (s.enterWindow w a).mem = s.mem := rfl

@[simp] theorem leaves_mem (s : State) (core : Option Nat) (cl ctx : Nat) (acc : Acc) (priv : Bool) (last n m : Nat)
    (xs : List (Nat × Nat × Phys × Bool × Bool)) : (s.leaves core cl ctx acc priv last n m xs).2.mem = s.mem := by
  fun_induction State.leaves s core cl ctx acc priv last n m xs <;> grind [access_mem]

@[simp] theorem probe_mem (s : State) (w : Warp) (a : Access) (d lo n : Nat) : (s.probe w a d lo n).mem = s.mem := by
  unfold State.probe
  grind [leaves_mem, modWarp_mem, setCluster_mem]

theorem execTranslationWalk_moves (u id : Nat) (s : State) : Moves s (execTranslationWalk u id s) := by
  unfold execTranslationWalk
  grind [enterWindow_mem, modWarp_mem, probe_mem, walkSpans_mem, moves_next]

@[simp] theorem discard_mem (s : State) (w : Warp) (k n : Nat) : (s.discard w k n).mem = s.mem := rfl

theorem execWalkFault_moves (u k : Nat) (s : State) : Moves s (execWalkFault u k s) := by
  unfold execWalkFault
  grind [discard_mem, faultRecord_mem, setWarp_mem, takeTrap_mem, moves_next]

@[simp] theorem setWindow_mem (s : State) (core lane : Nat) (l : List LineReq) : (s.setWindow core lane l).mem = s.mem := rfl

@[simp] theorem captureAt_mem (s : State) (u id line : Nat) (f : Nat → Option Byte) : (s.captureAt u id line f).mem = s.mem := rfl

theorem readThrough_mem {s : State} {w : Warp} {a : Access} {r : LineReq} {nt : Bool} {s' : State}
    (h : s.readThrough w a r nt = some s') : s'.mem = s.mem := by
  unfold State.readThrough at h
  simp only at h
  generalize hs : s.captureAt w.uid a.id r.va _ = s₁ at h
  have hm : s₁.mem = s.mem := by rw [← hs, captureAt_mem]
  simp only [ite_eq_iff] at h
  rcases h with ⟨-, h⟩ | ⟨-, h⟩
  · cases h; exact hm
  · rw [request_map_mem h, hm]

theorem readL1_mem {s : State} {w : Warp} {a : Access} {r : LineReq} {s' : State}
    (h : s.readL1 w a r = some s') : s'.mem = s.mem := by
  unfold State.readL1 at h
  have hm := makeRoom_mem s w.core w.ctx r.va
  split at h
  · simp only at h
    split at h
    · cases h; simp
    · rw [request_map_mem h, captureAt_mem, l1Put_mem]
  · split at h
    · cases h
    · next hr => rw [hr] at hm; rw [readThrough_mem h, hm]
    · next hr => rw [hr] at hm; rw [request_map_mem h, hm]

theorem codeAsk_mem {s : State} {core ctx : Nat} {who : Option (Nat × Nat)} {va : Nat} {p : Phys} {s' : State}
    (h : s.codeAsk core ctx who va p = some s') : s'.mem = s.mem :=
  request_map_mem h

theorem prefReq_mem {s : State} {w : Warp} {a : Access} {r : LineReq} {l2 : Bool} {s' : State}
    (h : s.prefReq w a r l2 = some s') : s'.mem = s.mem := by
  have hreq : ∀ (u : State) use, (((u.request w.core use w.ctx r.va ⟨r.tgt, r.line * 128⟩ .read 255 [] false).map
      (·.2)).getD u).mem =
      u.mem := fun u use => getD_mem fun t ht => request_map_mem ht
  unfold State.prefReq at h
  grind [makeRoom_mem]

theorem sendReq_mem {s : State} {w : Warp} {a : Access} {r : LineReq} {s' : State}
    (h : s.sendReq w a r = some s') : s'.mem = s.mem := by
  unfold State.sendReq at h
  grind [captureAt_mem, codeAsk_mem, prefReq_mem, readL1_mem, readThrough_mem]

theorem execCoalesceRequestSend_moves (lane : Nat) (s : State) : Moves s (execCoalesceRequestSend lane s) := by
  unfold execCoalesceRequestSend
  simp only
  repeat' split
  all_goals grind only [moves_next, setWindow_mem, sendReq_mem]

@[simp] theorem install_mem (s : State) (core ctx va sectors : Nat) (data : List Byte) :
    (s.install core ctx va sectors data).mem = s.mem := by
  unfold State.install
  grind [l1Put_mem, makeRoom_mem]

@[simp] theorem retireEntry_mem (s : State) (w : Warp) (e : SqEntry) : (s.retireEntry w e).mem = s.mem := by
  unfold State.retireEntry
  grind [setWarp_mem]

@[simp] theorem putEntry_mem (s : State) (w : Warp) (e : SqEntry) : (s.putEntry w e).mem = s.mem := by
  unfold State.putEntry
  grind [retireEntry_mem, setWarp_mem]

@[simp] theorem modEntry_mem (s : State) (u id : Nat) (f : SqEntry → SqEntry) : (s.modEntry u id f).mem = s.mem := by
  unfold State.modEntry
  grind [putEntry_mem]

@[simp] theorem unbusy_mem (s : State) (u id : Nat) : (s.unbusy u id).mem = s.mem := rfl

@[simp] theorem copyReply_mem (s : State) (core ent idx : Nat) (write : Bool) (line : List Byte) (ce : Nat) :
    (s.copyReply core ent idx write line ce).mem = s.mem := rfl

@[simp] theorem codeFill_mem (s : State) (core va : Nat) (bs : List Byte) : (s.codeFill core va bs).mem = s.mem := rfl

@[simp] theorem takeReply_mem (s : State) (core : Nat) (use : TagUse) (r : HReply) : (s.takeReply core use r).mem = s.mem := by
  unfold State.takeReply
  grind [captureAt_mem, codeFill_mem, copyReply_mem, install_mem, modEntry_mem, modWarp_mem, unbusy_mem]

theorem execL1Fill_moves (core : Nat) (s : State) : Moves s (execL1Fill core s) := by
  unfold execL1Fill
  grind [setCore_mem, takeReply_mem, moves_next]

@[simp] theorem scrWrite_mem (s : State) (core a : Nat) (bs : List Byte) : (s.scrWrite core a bs).mem = s.mem := rfl

theorem execMemoryReply_moves (u id : Nat) (s : State) : Moves s (execMemoryReply u id s) := by
  unfold execMemoryReply
  grind [setWarp_mem, moves_next]

/-! Machine/Alloc. -/

theorem execAllocationRelease_moves (lane : Nat) (s : State) : Moves s (execAllocationRelease lane s) := by
  unfold execAllocationRelease
  grind [setWarp_mem, moves_next]

@[simp] theorem spillReg_mem (s : State) (w : Warp) (k : Nat) : (s.spillReg w k).2.mem = s.mem := by
  unfold State.spillReg
  grind [laneWrite_mem, modWarp_mem]

@[simp] theorem spillAll_mem (s : State) (u : Nat) (xs : List Nat) : (s.spillAll u xs).mem = s.mem := by
  fun_induction State.spillAll s u xs <;> grind [spillReg_mem]

theorem execLaneSpill_moves (lane : Nat) (s : State) : Moves s (execLaneSpill lane s) := by
  unfold execLaneSpill
  grind only [moves_next, laneWrite_mem, spillAll_mem, modWarp_mem]

@[simp] theorem spilledReg_mem (s : State) (w : Warp) (k : Nat) : (s.spilledReg w k).2.mem = s.mem := by
  unfold State.spilledReg
  grind [laneRead_mem]

@[simp] theorem spilledRegs_mem (s : State) (w : Warp) (xs : List Nat) : (s.spilledRegs w xs).2.mem = s.mem := by
  fun_induction State.spilledRegs s w xs <;> grind [spilledReg_mem]

theorem execSpillRestore_moves (u : Nat) (s : State) : Moves s (execSpillRestore u s) := by
  unfold execSpillRestore
  split
  · rfl
  split
  · rfl
  split
  · next hr => exact (laneFault_mem ..).trans (of_pair hr (spilledRegs_mem ..))
  next hr =>
  have hm := of_pair hr (spilledRegs_mem ..)
  simp only
  split
  · exact hm
  -- the marks of the registers that come back are cleared, one after another
  have hw : ∀ (w : Warp) (l : List (Nat × VReg)) (p : Bool × State), (l.foldl (fun (x : Bool × State) p =>
      if x.1 then x.2.laneWrite w (w.control + 8704 + p.1) [0] else x) p).2.mem = p.2.mem := fun w =>
    foldl_keeps (fun x : Bool × State => x.2.mem) fun x p => by split <;> simp
  split
  · next hf => exact (of_pair hf (hw ..)).trans hm
  · next hf => exact (of_pair hf (hw ..)).trans hm

end Sys2Proof.Machine
end

section
/-! What the steps of barriers, queues, copies, home slices and engine commands leave: local memory. -/

namespace Sys2Proof.Machine

/-! Machine/Barrier. -/

theorem arrive_answers (s : State) (h : Hdr) (id scope : Nat) (waits : Bool) : Answers s (s.arrive h id scope waits) := by
  unfold State.arrive
  grind [endWord_mem, setWarp_mem, trapWord_mem, answers_next, answers_noWarp]

theorem execBarw_answers (h : Hdr) (_d a b : BitVec 7) (s : State) : Answers s (execBarw h _d a b s) := by
  unfold execBarw
  grind [endWord_mem, setWarp_mem, answers_next, answers_noWarp]

theorem execBarrierPhaseComplete_moves (u scope id : Nat) (s : State) : Moves s (execBarrierPhaseComplete u scope id s) := by
  unfold execBarrierPhaseComplete
  grind [moves_next]

theorem execYield_answers (h : Hdr) (_d _a _b : BitVec 7) (s : State) : Answers s (execYield h _d _a _b s) := by
  unfold execYield
  grind [endWord_mem, youngest_mem, answers_next, answers_noWarp]

/-! Machine/Perform. -/

@[simp] theorem scrRuns_mem (s : State) (core : Nat) (xs : List Span) (ys : List Byte) :
    (s.scrRuns core xs ys).mem = s.mem := by
  fun_induction State.scrRuns s core xs ys <;> grind [scrWrite_mem]

@[simp] theorem performScr_mem (s : State) (w : Warp) (e : SqEntry) (k : Nat) : (s.performScr w e k).mem = s.mem := by
  unfold State.performScr
  simp only
  split
  · rfl
  · split
    · simp
    · rw [putEntry_mem]
      exact foldl_mem (fun s (x : Span) => scrWrite_mem s k x.va x.data) _ _

@[simp] theorem storeThrough_mem (s : State) (w : Warp) (e : SqEntry) (va : Nat) (p : Phys) (sectors : Nat) (nt : Bool)
    (xs : List Span) : (s.storeThrough w e va p sectors nt xs).mem = s.mem := by
  unfold State.storeThrough
  grind [request_mem, setWarp_mem, unkeep_mem]

@[simp] theorem fillFor_mem (s : State) (w : Warp) (e : SqEntry) (va : Nat) (p : Phys) (need : Nat) :
    (s.fillFor w e va p need).mem = s.mem := by
  unfold State.fillFor
  grind [request_mem, setWarp_mem]

@[simp] theorem storeL1_mem (s : State) (w : Warp) (e : SqEntry) (va : Nat) (p : Phys) (xs : List Span) :
    (s.storeL1 w e va p xs).mem = s.mem := by
  unfold State.storeL1
  grind [fillFor_mem, l1Put_mem, makeRoom_mem, putEntry_mem, storeThrough_mem]

@[simp] theorem flushFor_mem (s : State) (w : Warp) (xs : List (Nat × Phys × Nat)) : (s.flushFor w xs).2.mem = s.mem := by
  fun_induction State.flushFor s w xs <;> grind [l1Invalidate_mem, unkeep_mem, writeBack_mem]

@[simp] theorem atomHome_mem (s : State) (w : Warp) (e : SqEntry) (op : AtomOp) (size : Nat) (xs : List Span) :
    (s.atomHome w e op size xs).mem = s.mem := by
  unfold State.atomHome
  grind [ctxFatal_mem, flushFor_mem, request_mem, setWarp_mem]

@[simp] theorem l1Runs_mem (s : State) (w : Warp) (xs : List Span) (ys : List Byte) : (s.l1Runs w xs ys).mem = s.mem := by
  fun_induction State.l1Runs s w xs ys <;> grind [l1Put_mem]

@[simp] theorem atomL1_mem (s : State) (w : Warp) (e : SqEntry) (op : AtomOp) (size t : Nat) (xs : List Span) :
    (s.atomL1 w e op size t xs).mem = s.mem := by
  unfold State.atomL1
  grind [atomHome_mem, fillFor_mem, l1Runs_mem, makeRoom_mem, putEntry_mem]

@[simp] theorem performStore_mem (s : State) (w : Warp) (e : SqEntry) : (s.performStore w e).mem = s.mem := by
  unfold State.performStore
  grind [retireEntry_mem, storeL1_mem, storeThrough_mem]

theorem execStoreEntryPerform_moves (u : Nat) (s : State) : Moves s (execStoreEntryPerform u s) := by
  unfold execStoreEntryPerform
  grind [atomHome_mem, atomL1_mem, performScr_mem, performStore_mem, setWarp_mem, moves_next]

/-! Machine/Copy. -/

theorem execCpy_answers (h : Hdr) (d a b : BitVec 7) (s : State) : Answers s (execCpy h d a b s) := by
  unfold execCpy
  grind [endWord_mem, fresh_mem, setCore_mem, setWarp_mem, trapWord_mem, answers_next, answers_noWarp]

@[simp] theorem modCopy_mem (s : State) (core num : Nat) (f : CopyEnt → CopyEnt) : (s.modCopy core num f).mem = s.mem := rfl

@[simp] theorem copyScr_mem (s : State) (core : Nat) (e : CopyEnt) (write : Bool) (i : Nat) (o : CopyOp) :
    (s.copyScr core e write i o).mem = s.mem := by
  unfold State.copyScr
  split
  · exact foldl_mem (fun s b => scrWrite_mem s core _ _) _ _
  · rfl

@[simp] theorem copyGlob_mem (s : State) (core : Nat) (e : CopyEnt) (write : Bool) (i : Nat) (o : CopyOp) :
    (s.copyGlob core e write i o).mem = s.mem := by
  unfold State.copyGlob
  grind [access_mem, ctxFatal_mem, modCopy_mem, request_mem]

theorem execCopyLineOperation_moves (core ent : Nat) (s : State) : Moves s (execCopyLineOperation core ent s) := by
  unfold execCopyLineOperation
  grind [copyGlob_mem, copyScr_mem, moves_next]

theorem execCopyTranslationFault_moves (core ent : Nat) (s : State) : Moves s (execCopyTranslationFault core ent s) := by
  unfold execCopyTranslationFault
  grind [faultRecord_mem, modCopy_mem, moves_next]

theorem execCopyRetire_moves (core ent : Nat) (s : State) : Moves s (execCopyRetire core ent s) := by
  unfold execCopyRetire
  grind [modWarp_mem, setCore_mem, moves_next]

/-! Machine/Blocks. -/

theorem hostWrite_moves (s : State) (off size v : Nat) (taken : State) (ht : taken.mem = s.mem) : Moves s
    (s.hostWrite off size v taken) := by
  unfold State.hostWrite
  grind [moves_next]

/-! Machine/Home. -/

@[simp] theorem dropReq_mem (s : State) (sl idx : Nat) : (s.dropReq sl idx).mem = s.mem := rfl

@[simp] theorem answer_mem (s : State) (sl : Nat) (r : HReq) (sectors : Nat) (data : List Byte) :
    (s.answer sl r sectors data).mem = s.mem := by
  simp [State.answer]

@[simp] theorem homeRuns_mem (s : State) (xs : List (Phys × Nat)) (ys : List Byte) : (s.homeRuns xs ys).mem = s.mem := by
  fun_induction State.homeRuns s xs ys <;> grind [homeWrite_mem]

@[simp] theorem homeAtom_mem (s : State) (op : AtomOp) (size : Nat) (places : List (Phys × Nat)) (opnd : List Byte) :
    (s.homeAtom op size places opnd).2.mem = s.mem := by
  simp [State.homeAtom]

@[simp] theorem serveReq_mem (s : State) (r : HReq) : (s.serveReq r).2.mem = s.mem := by
  unfold State.serveReq
  grind [homeAtom_mem, l2Put_mem, l2Write_mem, patchL1_mem]

@[simp] theorem cleanLine_mem (s : State) (r : HReq) (drop : Bool) : (s.cleanLine r drop).mem = s.mem := by
  unfold State.cleanLine
  grind [setSlice_mem, writeSectors_mem]

@[simp] theorem setReq_mem (s : State) (sl idx : Nat) (r : HReq) : (s.setReq sl idx r).mem = s.mem := rfl

@[simp] theorem fetchSectors_mem (s : State) (sl idx : Nat) (r : HReq) (need : Nat) :
    (s.fetchSectors sl idx r need).mem = s.mem :=
  (setReq_mem ..).trans (foldl_keeps (fun p : List Nat × State => p.2.mem) (fun _ _ => sendSlice_mem ..) _ _)

@[simp] theorem serveLocal_mem (s : State) (sl idx : Nat) (r : HReq) : (s.serveLocal sl idx r).mem = s.mem := by
  unfold State.serveLocal
  grind [answer_mem, cleanLine_mem, dropReq_mem, fetchSectors_mem, serveReq_mem, setReq_mem]

@[simp] theorem askHost_mem (s : State) (ctx : Nat) (ask : HostAsk) : (s.askHost ctx ask).mem = s.mem := rfl

@[simp] theorem hostSeen_mem (s : State) (ctx : Nat) (ps : List Phys) : (s.hostSeen ctx ps).2.mem = s.mem :=
  foldl_mem (fun s _ => askHost_mem s ctx _) _ _

@[simp] theorem hostUsed_mem (s : State) (ctx : Nat) (ps : List Phys) : (s.hostUsed ctx ps).mem = s.mem := by
  unfold State.hostUsed
  grind

@[simp] theorem hostCame_mem (s : State) (ctx : Nat) (ps : List Phys) : (s.hostCame ctx ps).2.mem = s.mem := by
  unfold State.hostCame
  grind [hostSeen_mem, hostUsed_mem]

@[simp] theorem serveHost_mem (s : State) (sl idx : Nat) (r : HReq) : (s.serveHost sl idx r).mem = s.mem := by
  unfold State.serveHost
  grind [answer_mem, askHost_mem, dropReq_mem, serveReq_mem, setReq_mem]

@[simp] theorem servePeer_mem (s : State) (sl idx : Nat) (r : HReq) : (s.servePeer sl idx r).mem = s.mem := by
  unfold State.servePeer
  grind [answer_mem, ctxFatal_mem, dropReq_mem, landAll_mem, serveReq_mem]

@[simp] theorem land_mem (s : State) (i : Nat) : (s.land i).mem = s.mem := by
  unfold State.land
  grind [ctxFatal_mem, outWrite_mem]

theorem execHomeSliceServe_moves (sl idx : Nat) (s : State) : Moves s (execHomeSliceServe sl idx s) := by
  unfold execHomeSliceServe
  grind [answer_mem, dropReq_mem, serveHost_mem, serveLocal_mem, servePeer_mem, moves_next]

theorem execL2MemoryReply_moves (sl : Nat) (s : State) : Moves s (execL2MemoryReply sl s) := by
  unfold execL2MemoryReply
  simp only
  split
  · rfl
  split
  · rfl
  split
  · exact foldl_mem (fun s x => ctxFatal_mem s x _ _ _ _) _ _
  · exact l2Put_mem ..

/-! Machine/MatrixOps. -/

@[simp] theorem mxApply_mem (s : State) (cl : Nat) (e : MxEntry) (g : Nat) : (s.mxApply cl e g).mem = s.mem := by
  unfold State.mxApply
  grind [setMx_mem]

/-! Machine/Cross. -/

theorem shuffle_answers (s : State) (h : Hdr) (d a b : BitVec 7) (from_ : Nat → Nat → Option Nat) :
    Answers s (s.shuffle h d a b from_) := by
  unfold State.shuffle
  grind [endWord_mem, setWarp_mem, answers_next, answers_noWarp]

theorem vote_answers (s : State) (h : Hdr) (d a : BitVec 7) (f : Mask → Mask → Bool) : Answers s (s.vote h d a f) := by
  unfold State.vote
  grind [endWord_mem, setWarp_mem, answers_next, answers_noWarp]

theorem collect_answers (s : State) (h : Hdr) (d a : BitVec 7) (f : Warp → List Nat → Nat) : Answers s (s.collect h d a f) := by
  unfold State.collect
  exact compute_answers ..

theorem redux_answers (s : State) (h : Hdr) (d a : BitVec 7) (f : Nat → Nat → Nat) : Answers s (s.redux h d a f) := by
  unfold State.redux
  exact collect_answers ..

/-! Machine/MatrixForms. -/

theorem chainTrap_mem {s : State} {u k : Nat} {t : TrapReq} {s' : State}
    (h : s.chainTrap u k t = some s') : s'.mem = s.mem := by
  unfold State.chainTrap at h
  grind

@[simp] theorem engineTrap_mem (s : State) (u : Nat) (a : Access) (cls : Nat) (mask : Mask) (va info word : Nat)
    (next : Bool) : (s.engineTrap u a cls mask va info word next).mem = s.mem := by
  unfold State.engineTrap
  grind [chainTrap_mem, setWarp_mem, takeTrap_mem]

@[simp] theorem wakeSlot_mem (s : State) (u k : Nat) : (s.wakeSlot u k).mem = s.mem := rfl

@[simp] theorem ready_mem (s : State) (u id : Nat) (wr : List RegWrite) : (s.ready u id wr).mem = s.mem := rfl

@[simp] theorem modGang_mem (s : State) (uid : Nat) (f : Gang → Gang) : (s.modGang uid f).mem = s.mem := rfl

@[simp] theorem illegal_mem (s : State) (c : Issue) (h : Hdr) (m : Mask) (w : Warp) : (s.illegal c h m w).mem = s.mem := by
  simp [State.illegal]

@[simp] theorem tryMxacq_mem (s : State) (u k : Nat) : (s.tryMxacq u k).mem = s.mem := by
  unfold State.tryMxacq
  grind [modGang_mem, setMx_mem, wakeSlot_mem]

@[simp] theorem tryMxrel_mem (s : State) (u k : Nat) : (s.tryMxrel u k).mem = s.mem := by
  unfold State.tryMxrel
  grind [modGang_mem, setMx_mem, wakeSlot_mem]

@[simp] theorem tryMxown_mem (s : State) (u k : Nat) : (s.tryMxown u k).mem = s.mem := by
  unfold State.tryMxown
  grind [setCore_mem, wakeSlot_mem]

@[simp] theorem tryMxwait_mem (s : State) (u k : Nat) : (s.tryMxwait u k).mem = s.mem := by
  unfold State.tryMxwait
  simp only
  repeat' split
  all_goals simp

@[simp] theorem tryMxrw_mem (s : State) (u k : Nat) : (s.tryMxrw u k).mem = s.mem := by
  unfold State.tryMxrw
  grind [ready_mem, setMx_mem, wakeSlot_mem]

theorem execMxacqBind_moves (u k : Nat) (s : State) : Moves s (execMxacqBind u k s) := by
  unfold execMxacqBind
  grind [tryMxacq_mem, moves_next]

theorem execMxrelReturn_moves (u k : Nat) (s : State) : Moves s (execMxrelReturn u k s) := by
  unfold execMxrelReturn
  grind [tryMxrel_mem, moves_next]

theorem execMxownFlip_moves (u k : Nat) (s : State) : Moves s (execMxownFlip u k s) := by
  unfold execMxownFlip
  grind [tryMxown_mem, moves_next]

theorem execMxwaitReport_moves (u k : Nat) (s : State) : Moves s (execMxwaitReport u k s) := by
  unfold execMxwaitReport
  grind [tryMxwait_mem, moves_next]

theorem execMxRowAccess_moves (u k : Nat) (s : State) : Moves s (execMxRowAccess u k s) := by
  unfold execMxRowAccess
  grind [tryMxrw_mem, moves_next]

theorem hold_mem (s : State) (c : Issue) (h : Hdr) (w : Warp) (x : Wait) (try_ : State → Nat → Nat → State) (ht : ∀ s u k,
    (try_ s u k).mem = s.mem) : (s.hold c h w x try_).mem = s.mem := by
  rw [State.hold, ht]
  simp

theorem execMxacq_answers (h : Hdr) (_d a _b : BitVec 7) (s : State) : Answers s (execMxacq h _d a _b s) := by
  unfold execMxacq
  grind [hold_mem, illegal_mem, tryMxacq_mem, answers_next, answers_noWarp]

theorem execMxrel_answers (h : Hdr) (_d a _b : BitVec 7) (s : State) : Answers s (execMxrel h _d a _b s) := by
  unfold execMxrel
  grind [fresh_mem, hold_mem, illegal_mem, setMx_mem, tryMxrel_mem, answers_next, answers_noWarp]

theorem execMxown_answers (h : Hdr) (d a b : BitVec 7) (s : State) : Answers s (execMxown h d a b s) := by
  unfold execMxown
  grind [fresh_mem, hold_mem, illegal_mem, trapWord_mem, tryMxown_mem, answers_next, answers_noWarp]

theorem execMxwait_answers (h : Hdr) (d a _b : BitVec 7) (s : State) : Answers s (execMxwait h d a _b s) := by
  unfold execMxwait
  grind [fresh_mem, hold_mem, illegal_mem, tryMxwait_mem, answers_next, answers_noWarp]

theorem execMxstat_answers (h : Hdr) (d a _b : BitVec 7) (s : State) : Answers s (execMxstat h d a _b s) := by
  unfold execMxstat
  grind [endWord_mem, fresh_mem, illegal_mem, setWarp_mem, answers_next, answers_noWarp]

theorem rowForm_answers (s : State) (h : Hdr) (d a b : BitVec 7) (write : Bool) : Answers s (s.rowForm h d a b write) := by
  unfold State.rowForm
  grind [endWord_mem, fresh_mem, illegal_mem, setMx_mem, setWarp_mem, tryMxrw_mem, answers_next, answers_noWarp]

theorem execMxzero_answers (h : Hdr) (_d a _b : BitVec 7) (s : State) : Answers s (execMxzero h _d a _b s) := by
  unfold execMxzero
  grind [endWord_mem, fresh_mem, illegal_mem, setMx_mem, answers_next, answers_noWarp]

theorem execMxq_answers (h : Hdr) (d a b : BitVec 7) (s : State) : Answers s (execMxq h d a b s) := by
  unfold execMxq
  grind [endWord_mem, fresh_mem, setMx_mem, setWarp_mem, trapWord_mem, answers_next, answers_noWarp]

/-! Machine/Coord. -/

@[simp] theorem unpinAll_mem (s : State) (cl ctx : Nat) (bases : List Nat) : (s.unpinAll cl ctx bases).mem = s.mem := rfl

@[simp] theorem closeCursor_mem (s : State) (cl : Nat) (x : Cursor) : (s.closeCursor cl x).mem = s.mem := rfl

@[simp] theorem closeGang_mem (s : State) (cl gang : Nat) : (s.closeGang cl gang).mem = s.mem :=
  foldl_mem (fun s x => closeCursor_mem s cl x) _ _

@[simp] theorem passLeaves_mem (s : State) (cl ctx : Nat) (priv : Bool) (xs : List (Nat × Nat))
    (ys : List (Nat × Nat × Phys × Bool × Bool)) : (s.passLeaves cl ctx priv xs ys).2.mem = s.mem := by
  fun_induction State.passLeaves s cl ctx priv xs ys <;> grind [leaves_mem, probe_mem]

@[simp] theorem probePass_mem (s : State) (cl : Nat) (priv : Bool) (x : Cursor) : (s.probePass cl priv x).2.mem = s.mem := by
  unfold State.probePass
  grind [passLeaves_mem, setCluster_mem]

@[simp] theorem qdRun_mem {β : Type} (s : State) (cl ctx : Nat) (priv : Bool) (la lb : Option MxLoc)
    (f : QView → Except QErr β) (n : Nat) (xs : List (Nat × Phys)) : (s.qdRun cl ctx priv la lb f n xs).2.mem = s.mem := by
  fun_induction State.qdRun s cl ctx priv la lb f n xs <;> grind [access_mem, fillAt_mem, hostSeen_mem, hostUsed_mem]

@[simp] theorem dropCmd_mem (s : State) (cl id : Nat) : (s.dropCmd cl id).mem = s.mem := rfl

@[simp] theorem setCmd_mem (s : State) (cl : Nat) (c : QdCmd) : (s.setCmd cl c).mem = s.mem := rfl

@[simp] theorem qdTrap_mem (s : State) (cl : Nat) (c : QdCmd) (a : Access) (cls va info : Nat) :
    (s.qdTrap cl c a cls va info).mem = s.mem := by
  simp [State.qdTrap]

@[simp] theorem qdDone_mem (s : State) (cl : Nat) (c : QdCmd) (wr : List RegWrite) : (s.qdDone cl c wr).mem = s.mem := by
  unfold State.qdDone
  grind [dropCmd_mem, modWarp_mem, ready_mem, wakeSlot_mem]

@[simp] theorem qdLink_mem (s : State) (c : QdCmd) (a : Access) : (s.qdLink c a).mem = s.mem := by
  simp [State.qdLink]

@[simp] theorem qdWalk_mem (s : State) (cl : Nat) (c : QdCmd) (a : Access) (kind va : Nat) (r : WalkRes) :
    (s.qdWalk cl c a kind va r).mem = s.mem := by
  unfold State.qdWalk
  grind [qdTrap_mem, setCmd_mem]

@[simp] theorem qdOrder_mem (s : State) (cl : Nat) (c : QdCmd) (a : Access) (x : Cursor) (side : Bool) (unit : Nat) :
    (s.qdOrder cl c a x side unit).mem = s.mem := by
  simp [State.qdOrder]

@[simp] theorem qdBind_mem (s : State) (cl : Nat) (c : QdCmd) (w : Warp) (a : Access) (bs : List Byte) (load probe : Bool) :
    (s.qdBind cl c w a bs load probe).mem = s.mem := by
  unfold State.qdBind
  grind [probePass_mem, qdDone_mem, qdTrap_mem, qdWalk_mem, setQd_mem]

@[simp] theorem qdProbe_mem (s : State) (cl : Nat) (c : QdCmd) (a : Access) (x : Cursor) (d : Nat) :
    (s.qdProbe cl c a x d).mem = s.mem := by
  unfold State.qdProbe
  grind [probePass_mem, qdDone_mem, qdWalk_mem, setQd_mem, unpinAll_mem]

@[simp] theorem qdNext_mem (s : State) (cl : Nat) (c : QdCmd) (a : Access) (x : Cursor) (d sb : Nat) (pq : Option Nat) :
    (s.qdNext cl c a x d sb pq).mem = s.mem := by
  unfold State.qdNext
  grind [qdDone_mem, qdLink_mem, qdOrder_mem, qdRun_mem, qdWalk_mem, setQd_mem]

@[simp] theorem qdWrite_mem (s : State) (c : QdCmd) (xs : List Span) (rs : List CurRec) : (s.qdWrite c xs rs).mem = s.mem := by
  unfold State.qdWrite
  refine (foldl_mem (fun _ _ => ?_) _ _).trans ?_ <;> grind [cgWrite_mem]

@[simp] theorem qdSplit_mem (s : State) (cl : Nat) (c : QdCmd) (a : Access) (x : Cursor) (crd : Bool) :
    (s.qdSplit cl c a x crd).mem = s.mem := by
  unfold State.qdSplit
  grind [qdDone_mem, qdLink_mem, qdOrder_mem, qdRun_mem, qdWalk_mem, qdWrite_mem, setQd_mem]

@[simp] theorem qdOn_mem (s : State) (cl : Nat) (c : QdCmd) (a : Access) (x : Cursor) : (s.qdOn cl c a x).mem = s.mem := by
  unfold State.qdOn
  grind [closeCursor_mem, qdDone_mem, qdLink_mem, qdNext_mem, qdProbe_mem, qdSplit_mem, qdWrite_mem, setQd_mem]

@[simp] theorem qdServe_mem (s : State) (cl : Nat) (c : QdCmd) (w : Warp) (a : Access) : (s.qdServe cl c w a).mem = s.mem := by
  unfold State.qdServe
  grind [fillAt_mem, hostCame_mem, qdBind_mem, qdLink_mem, qdOn_mem, qdTrap_mem]

theorem execQdCommandServe_moves (cl idx : Nat) (s : State) : Moves s (execQdCommandServe cl idx s) := by
  unfold execQdCommandServe
  grind [dropCmd_mem, qdServe_mem, moves_next]

theorem execQdStreamFault_moves (cl idx : Nat) (s : State) : Moves s (execQdStreamFault cl idx s) := by
  unfold execQdStreamFault
  grind [faultRecord_mem, setCmd_mem, moves_next]

@[simp] theorem qdSend_mem (s : State) (c : Issue) (h : Hdr) (w : Warp) (name : Nat) (kind : QdKind) (marks : List Nat)
    (parts : Mask) (adrs : List (Nat × Nat)) (all st : Bool) (dst pdst : List Nat) :
    (s.qdSend c h w name kind marks parts adrs all st dst pdst).mem = s.mem := by
  unfold State.qdSend
  grind [endWord_mem, fresh_mem, hold_mem, setQd_mem, trapWord_mem]

theorem qdRecord_answers (s : State) (h : Hdr) (d a : BitVec 7) (kind : QdKind) (st : Bool) :
    Answers s (s.qdRecord h d a kind st) := by
  unfold State.qdRecord
  grind [qdSend_mem, answers_next, answers_noWarp]

theorem execQdnext_answers (h : Hdr) (d a b : BitVec 7) (s : State) : Answers s (execQdnext h d a b s) := by
  unfold execQdnext
  grind [qdSend_mem, answers_next, answers_noWarp]

theorem execQdsplit_answers (h : Hdr) (d a b : BitVec 7) (s : State) : Answers s (execQdsplit h d a b s) := by
  unfold execQdsplit
  grind [qdSend_mem, answers_next, answers_noWarp]

theorem execQdclose_answers (h : Hdr) (d _a _b : BitVec 7) (s : State) : Answers s (execQdclose h d _a _b s) := by
  unfold execQdclose
  grind [qdSend_mem, answers_next, answers_noWarp]

theorem execQdprobe_answers (h : Hdr) (d a _b : BitVec 7) (s : State) : Answers s (execQdprobe h d a _b s) := by
  unfold execQdprobe
  grind [qdSend_mem, answers_next, answers_noWarp]

theorem execQdstat_answers (h : Hdr) (d a _b : BitVec 7) (s : State) : Answers s (execQdstat h d a _b s) := by
  unfold execQdstat
  grind [endWord_mem, fresh_mem, setWarp_mem, answers_next, answers_noWarp]

end Sys2Proof.Machine
end

section
/-! What the steps of fences, dispatch, pre-emption and the host interface leave: local memory. -/

namespace Sys2Proof.Machine

/-! Machine/Fence. -/

theorem execFence_answers (h : Hdr) (_d a _b : BitVec 7) (s : State) : Answers s (execFence h _d a _b s) := by
  unfold execFence
  grind [endWord_mem, fresh_mem, setWarp_mem, answers_next, answers_noWarp]

theorem execFenceXp_answers (h : Hdr) (_d _a _b : BitVec 7) (s : State) : Answers s (execFenceXp h _d _a _b s) := by
  unfold execFenceXp
  grind [endWord_mem, fresh_mem, setWarp_mem, answers_next, answers_noWarp]

@[simp] theorem runTodo_mem (s : State) (core : Nat) (xs : List (Nat × Nat × Nat)) (f : FenceRec) :
    (s.runTodo core xs f).2.mem = s.mem := by
  fun_induction State.runTodo s core xs f <;> grind [writeBack_mem]

@[simp] theorem zeroRead_mem (s : State) (w : Warp) (f : FenceRec) : (s.zeroRead w f).mem = s.mem := rfl

@[simp] theorem release_mem (s : State) (w : Warp) (f : FenceRec) : (s.release w f).mem = s.mem := by
  unfold State.release
  grind [ctxFatal_mem, modWarp_mem, runTodo_mem, setWarp_mem, zeroRead_mem]

theorem fenceStep_mem {s : State} {w : Warp} {f : FenceRec} {s' : State} (h : s.fenceStep w f = some s') : s'.mem = s.mem := by
  unfold State.fenceStep at h
  grind [l1Acquire_mem, modWarp_mem, release_mem]

theorem execFenceComplete_moves (u : Nat) (s : State) : Moves s (execFenceComplete u s) := by
  unfold execFenceComplete
  split
  · rfl
  split
  · rfl
  next h =>
  obtain ⟨f, -, hf⟩ := firstSome_eq_some h
  rw [moves_next, modWarp_mem, fenceStep_mem hf]

theorem execFenceXpComplete_moves (u : Nat) (s : State) : Moves s (execFenceXpComplete u s) := by
  unfold execFenceXpComplete
  grind [modWarp_mem, release_mem, moves_next]

theorem maint_answers (s : State) (h : Hdr) (a b : BitVec 7) (what : Nat) : Answers s (s.maint h a b what) := by
  unfold State.maint
  grind [endWord_mem, fresh_mem, setWarp_mem, answers_next, answers_noWarp]

@[simp] theorem maintLine_mem (s : State) (w : Warp) (f : FenceRec) (k ctx va : Nat) :
    (s.maintLine w f k ctx va).2.2.mem = s.mem := by
  unfold State.maintLine
  grind [ctxFatal_mem, l1Invalidate_mem, writeBack_mem]

theorem maintHome_mem {s : State} {w : Warp} {f : FenceRec} {a : Access} {va : Nat} {x} {s' : State}
    (h : s.maintHome w f a va = some (x, s')) : s'.mem = s.mem := by
  unfold State.maintHome at h
  grind [request_mem]

theorem execCacheMaintComplete_moves (u : Nat) (s : State) : Moves s (execCacheMaintComplete u s) := by
  unfold execCacheMaintComplete
  repeat' split
  all_goals grind only [moves_next, modWarp_mem, setWarp_mem, maintLine_mem, maintHome_mem]

theorem execPref_answers (h : Hdr) (_d a b : BitVec 7) (s : State) : Answers s (execPref h _d a b s) := by
  unfold execPref
  grind [endWord_mem, fresh_mem, setWarp_mem, answers_next, answers_noWarp]

theorem execProbe_answers (h : Hdr) (d a b : BitVec 7) (s : State) : Answers s (execProbe h d a b s) := by
  unfold execProbe
  grind [endWord_mem, fresh_mem, setWarp_mem, trapWord_mem, answers_next, answers_noWarp]

theorem execUnpin_answers (h : Hdr) (_d a b : BitVec 7) (s : State) : Answers s (execUnpin h _d a b s) := by
  unfold execUnpin
  grind [endWord_mem, setCluster_mem, setWarp_mem, trapWord_mem, answers_next, answers_noWarp]

/-! Machine/Xsw. -/

@[simp] theorem unpair_mem (s : State) (u : Nat) : (s.unpair u).mem = s.mem := rfl

theorem execXsw_answers (h : Hdr) (d a b : BitVec 7) (s : State) : Answers s (execXsw h d a b s) := by
  unfold execXsw
  grind [endWord_mem, fresh_mem, setWarp_mem, trapWord_mem, answers_next, answers_noWarp]

theorem execXswPairComplete_moves (u u2 : Nat) (s : State) : Moves s (execXswPairComplete u u2 s) := by
  unfold execXswPairComplete
  grind [setWarp_mem, moves_next]

/-! Machine/Launch. -/

@[simp] theorem readCtx_mem (s : State) (c : Nat) : (s.readCtx c).2.mem = s.mem := by
  simp [State.readCtx]

@[simp] theorem dispAccess_mem (s : State) (ctx va : Nat) (acc : Acc) : (s.dispAccess ctx va acc).2.mem = s.mem := by
  simp [State.dispAccess]

@[simp] theorem makeReady_mem (s : State) (q : Nat) : (s.makeReady q).mem = s.mem := rfl

@[simp] theorem dispLink_mem (s : State) (ctx pa : Nat) : (s.dispLink ctx pa).mem = s.mem := by
  simp [State.dispLink]

@[simp] theorem readHead_mem (s : State) (q : Nat) (x : Queue) : (s.readHead q x).mem = s.mem := by
  unfold State.readHead
  grind [dispAccess_mem, dispLink_mem, fillAt_mem, hostCame_mem, makeReady_mem, readCtx_mem, setQueue_mem]

theorem execHeadRecordRead_moves (q : Nat) (s : State) : Moves s (execHeadRecordRead q s) := by
  unfold execHeadRecordRead
  grind [readHead_mem, setQueue_mem, moves_next]

@[simp] theorem signalPlaces_mem (s : State) (ctx sigbase : Nat) (xs : List (Nat × Nat × Nat)) :
    (s.signalPlaces ctx sigbase xs).2.mem = s.mem := by
  fun_induction State.signalPlaces s ctx sigbase xs <;> grind [dispAccess_mem]

@[simp] theorem readSignals_mem (s : State) (ctx : Nat) (xs : List (Nat × Nat × Phys)) :
    (s.readSignals ctx xs).2.mem = s.mem := by
  fun_induction State.readSignals s ctx xs <;> grind [fillAt_mem, hostCame_mem]

theorem execWaitSignalRead_moves (q : Nat) (s : State) : Moves s (execWaitSignalRead q s) := by
  unfold execWaitSignalRead
  simp only
  repeat' split
  all_goals grind only [moves_next, readCtx_mem, signalPlaces_mem, setQueue_mem, dispLink_mem, readSignals_mem, makeReady_mem]

@[simp] theorem flushLine_mem (s : State) (core : Nat) (l : L1Line) : (s.flushLine core l).mem = s.mem := by
  unfold State.flushLine
  grind [ctxFatal_mem, dispLink_mem, homeWriteLine_mem, wbPlace_mem]

@[simp] theorem flushL1_mem (s : State) (core : Nat) (ctx : Option Nat) (inv : Bool) :
    (s.flushL1 core ctx inv).mem = s.mem := by
  unfold State.flushL1
  simp only [setCore_mem]
  refine foldl_mem (fun s l => ?_) _ _
  split <;> simp

theorem prepare_mem {s : State} {cl ctx : Nat} {cores : List Nat} {fuse sw : Bool} {s' : State}
    (h : s.prepare cl ctx cores fuse sw = some s') : s'.mem = s.mem := by
  unfold State.prepare at h
  simp only [Option.ite_none_left_eq_some, Option.some.injEq] at h
  obtain ⟨-, rfl⟩ := h
  refine (foldl_mem (fun s k => setCore_mem s k _) _ _).trans ?_
  exact foldl_mem (fun s k => flushL1_mem s k none true) _ _

@[simp] theorem enterLane_mem (s : State) (w : Warp) : (s.enterLane w).mem = s.mem := rfl

@[simp] theorem placeWg_mem (s : State) (g : Gang) (r : LRec) (c : Ctx) (core wgid : Nat) :
    (s.placeWg g r c core wgid).mem = s.mem := by
  unfold State.placeWg
  refine (foldl_mem (fun _ _ => ?_) _ _).trans ?_ <;> grind [enterLane_mem, l1Acquire_mem, setCore_mem]

@[simp] theorem placeGang_mem (s : State) (l : Launch) (c : Ctx) (cl : Nat) (cores : List Nat) :
    (s.placeGang l c cl cores).mem = s.mem := by
  unfold State.placeGang
  refine (foldl_mem (fun _ _ => ?_) _ _).trans ?_ <;> grind [placeWg_mem]

@[simp] theorem countSkips_mem (s : State) (cs : List Cand) (x : Cand) : (s.countSkips cs x).mem = s.mem := by
  unfold State.countSkips
  refine (foldl_mem (fun _ _ => ?_) _ _).trans ?_ <;> grind [setQueue_mem]

@[simp] theorem afterPlace_mem (s : State) (q id : Nat) : (s.afterPlace q id).mem = s.mem := by
  unfold State.afterPlace
  grind [setQueue_mem]

theorem execPlacementDecision_moves (s : State) : Moves s (execPlacementDecision s) := by
  unfold execPlacementDecision
  grind [afterPlace_mem, countSkips_mem, ctxFatal_mem, placeGang_mem, prepare_mem, readCtx_mem, moves_next]

@[simp] theorem dropLaunch_mem (s : State) (id : Nat) : (s.dropLaunch id).mem = s.mem := rfl

@[simp] theorem signal_mem (s : State) (l : Launch) : (s.signal l).mem = s.mem := by
  unfold State.signal
  grind [dispAccess_mem, dispLink_mem, dropLaunch_mem, fillAt_mem, homeWrite_mem, raise_mem, readCtx_mem, setQueue_mem]

@[simp] theorem launchRelease_mem (s : State) (l : Launch) : (s.launchRelease l).mem = s.mem := by
  unfold State.launchRelease
  grind [askHost_mem, signal_mem]

theorem execLaunchComplete_moves (lnch : Nat) (s : State) : Moves s (execLaunchComplete lnch s) := by
  unfold execLaunchComplete
  split
  · rfl
  simp only
  split
  · rfl
  split
  · rfl
  next l _ _ _ =>
  have hf : ∀ (ks : List Nat), (ks.foldl (fun s k => s.flushL1 k (some l.ctx) false) s).mem = s.mem := fun ks =>
    foldl_mem (fun s k => flushL1_mem s k _ _) ks s
  split
  · exact hf _
  · rw [moves_next, launchRelease_mem, hf]

@[simp] theorem acceptTail_mem (s : State) (q : Nat) (x : Queue) (v : Nat) : (s.acceptTail q x v).mem = s.mem := rfl

@[simp] theorem abandon_mem (s : State) (q : Nat) : (s.abandon q).mem = s.mem := by
  unfold State.abandon
  grind [setQueue_mem]

@[simp] theorem writeTail_mem (s : State) (q v : Nat) : (s.writeTail q v).mem = s.mem := by
  unfold State.writeTail
  simp only
  split
  · rfl
  · split <;> simp

@[simp] theorem enableQueue_mem (s : State) (q : Nat) : (s.enableQueue q).mem = s.mem := by
  unfold State.enableQueue
  grind [setQueue_mem]

@[simp] theorem disableQueue_mem (s : State) (q : Nat) : (s.disableQueue q).mem = s.mem := rfl

@[simp] theorem clearQueue_mem (s : State) (q bits : Nat) : (s.clearQueue q bits).mem = s.mem := rfl

theorem execLnch_answers (h : Hdr) (d a b : BitVec 7) (s : State) : Answers s (execLnch h d a b s) := by
  unfold execLnch
  grind [endWord_mem, fresh_mem, setWarp_mem, trapWord_mem, answers_next, answers_noWarp]

@[simp] theorem submit_mem (s : State) (ctx q : Nat) (p : Phys) : (s.submit ctx q p).2.mem = s.mem := by
  unfold State.submit
  grind [acceptTail_mem, dispAccess_mem, fillAt_mem, homeWrite_mem, readCtx_mem, setQueue_mem]

@[simp] theorem submitAll_mem (s : State) (ctx : Nat) (xs : List (Nat × Nat × Nat × Phys)) :
    (s.submitAll ctx xs).2.mem = s.mem := by
  fun_induction State.submitAll s ctx xs <;> grind [submit_mem]

theorem execLnchRecordRead_moves (u : Nat) (s : State) : Moves s (execLnchRecordRead u s) := by
  unfold execLnchRecordRead
  repeat' split
  all_goals grind only [moves_next, release_mem, ctxFatal_mem, hostCame_mem, submitAll_mem, ready_mem, modWarp_mem, setWarp_mem]

@[simp] theorem endStop_mem (s : State) (k st : Nat) : (s.endStop k st).mem = s.mem := by
  unfold State.endStop
  grind [raise_mem, setChan_mem]

@[simp] theorem settleChan_mem (s : State) (k : Nat) : (s.settleChan k).mem = s.mem := by
  unfold State.settleChan
  grind [endStop_mem, setChan_mem]

@[simp] theorem settleChans_mem (s : State) : s.settleChans.mem = s.mem := by
  unfold State.settleChans
  refine (foldl_mem (fun _ _ => ?_) _ _).trans ?_ <;> grind [settleChan_mem]

@[simp] theorem endWg_mem (s : State) (g : Gang) (wgid : Nat) : (s.endWg g wgid).mem = s.mem := rfl

@[simp] theorem endGang_mem (s : State) (g : Gang) : (s.endGang g).mem = s.mem := by
  simp [State.endGang]

@[simp] theorem removeWarp_mem (s : State) (w : Warp) : (s.removeWarp w).mem = s.mem := rfl

theorem execWarpEnd_moves (u : Nat) (s : State) : Moves s (execWarpEnd u s) := by
  unfold execWarpEnd
  grind [endGang_mem, endWg_mem, removeWarp_mem, settleChans_mem, unpair_mem, moves_next]

/-! Machine/Preempt. -/

@[simp] theorem acceptStop_mem (s : State) (ch cmd : Nat) : (s.acceptStop ch cmd).mem = s.mem := by
  unfold State.acceptStop
  grind [setChan_mem, settleChan_mem]

@[simp] theorem acceptResume_mem (s : State) (ch : Nat) : (s.acceptResume ch).mem = s.mem := by
  unfold State.acceptResume
  grind [setChan_mem]

@[simp] theorem clearFreset_mem (s : State) (ch : Nat) : (s.clearFreset ch).mem = s.mem := rfl

theorem execGraceExpiry_moves (ch : Nat) (s : State) : Moves s (execGraceExpiry ch s) := by
  unfold execGraceExpiry
  grind [setChan_mem, moves_next]

theorem execDeadlineExpiry_moves (ch : Nat) (s : State) : Moves s (execDeadlineExpiry ch s) := by
  unfold execDeadlineExpiry
  grind [ctxFatal_mem, setChan_mem, moves_next]

@[simp] theorem stage_mem (s : State) (ch : Nat) (g : Gang) (stage : Nat) : (s.stage ch g stage).mem = s.mem := rfl

theorem execStopCopyEngine_moves (ch gang : Nat) (s : State) : Moves s (execStopCopyEngine ch gang s) := by
  unfold execStopCopyEngine
  grind [stage_mem, moves_next]

theorem execStopCoordinateEngine_moves (ch gang : Nat) (s : State) : Moves s (execStopCoordinateEngine ch gang s) := by
  unfold execStopCoordinateEngine
  grind [stage_mem, moves_next]

@[simp] theorem unwind_mem (s : State) (u k : Nat) : (s.unwind u k).mem = s.mem := by
  unfold State.unwind
  grind [setMx_mem, setWarp_mem]

@[simp] theorem halt_mem (s : State) (u : Nat) : (s.halt u).mem = s.mem := by
  simp [State.halt]

@[simp] theorem saveWarps_mem (s : State) (xs : List Warp) : (s.saveWarps xs).2.mem = s.mem := by
  induction xs generalizing s with
  | nil => rfl
  | cons w ws ih =>
    -- the recursion is opened by hand: to state its equation is to run the writes of a warp's control area
    revert ih
    delta State.saveWarps State.saveWarps._f
    dsimp only [List.brecOn, List.brecOn.go]
    intro ih
    split
    · next he => exact (ih _).trans (of_pair he (laneWrites_mem ..))
    · next he => exact of_pair he (laneWrites_mem ..)

theorem execStopWarps_moves (ch gang : Nat) (s : State) : Moves s (execStopWarps ch gang s) := by
  have hh : ∀ (ws : List Warp), (ws.foldl (fun s w => s.halt w.uid) s).mem = s.mem := fun ws =>
    foldl_mem (fun s (w : Warp) => halt_mem s w.uid) ws s
  unfold execStopWarps
  split
  · rfl
  simp only
  split
  · split
    · next hs => exact (of_pair hs (saveWarps_mem ..)).trans (hh _)
    · next hs => exact (of_pair hs (saveWarps_mem ..)).trans (hh _)
  · exact hh _

@[simp] theorem saveFault_mem (s : State) (ch cl ctx va kind : Nat) (r : WalkRes) :
    (s.saveFault ch cl ctx va kind r).mem = s.mem := by
  unfold State.saveFault
  grind [ctxFatal_mem, faultRecord_mem]

@[simp] theorem saveRunsAt_mem (s : State) (ch cl ctx : Nat) (xs : List (Nat × List Byte)) :
    (s.saveRunsAt ch cl ctx xs).2.mem = s.mem := by
  fun_induction State.saveRunsAt s ch cl ctx xs <;> grind [saveFault_mem, writeVirt_mem]

theorem execStopMatrixEngine_moves (ch gang : Nat) (s : State) : Moves s (execStopMatrixEngine ch gang s) := by
  unfold execStopMatrixEngine
  grind [saveRunsAt_mem, setChan_mem, setMx_mem, stage_mem, moves_next]

@[simp] theorem leave_mem (s : State) (ch : Nat) (g : Gang) (x : SavedGang) : (s.leave ch g x).mem = s.mem := by
  simp only [State.leave, settleChan_mem, setChan_mem]
  have hw : ((List.range g.cores.length).foldl (fun s k => s.endWg g k)
      ((s.gangWarps g).foldl State.removeWarp s)).mem = s.mem :=
    (foldl_mem (fun s k => endWg_mem s g k) _ _).trans (foldl_mem removeWarp_mem _ _)
  split
  · simp only [closeGang_mem, setMx_mem, hw]
  · simp only [closeGang_mem, setMx_mem, hw]

theorem execStopFlushSave_moves (ch gang : Nat) (s : State) : Moves s (execStopFlushSave ch gang s) := by
  have hf : ∀ (ks : List Nat) (s : State), (ks.foldl (fun s k => s.flushL1 k none true) s).mem = s.mem := fun ks s =>
    foldl_mem (fun s k => flushL1_mem s k _ _) ks s
  unfold execStopFlushSave
  split
  · rfl
  simp only
  split
  · rfl
  split
  · next hs => exact of_pair hs (saveRunsAt_mem ..)
  next hs =>
  have hm := of_pair hs (saveRunsAt_mem ..)
  split
  · exact (hf _ _).trans hm
  · rw [moves_next, leave_mem, hf, hm]

@[simp] theorem readRuns_mem (s : State) (cl ctx : Nat) (xs : List (Nat × Nat)) : (s.readRuns cl ctx xs).2.mem = s.mem := by
  fun_induction State.readRuns s cl ctx xs <;> grind [readVirt_mem]

@[simp] theorem readParts_mem (s : State) (cl ctx : Nat) (xs : List (List (Nat × Nat))) :
    (s.readParts cl ctx xs).2.mem = s.mem := by
  fun_induction State.readParts s cl ctx xs <;> grind [readRuns_mem]

@[simp] theorem cursorPass_mem (s : State) (cl gang name : Nat) : (s.cursorPass cl gang name).mem = s.mem := by
  unfold State.cursorPass
  grind [ctxFatal_mem, faultRecord_mem, probePass_mem, setQd_mem]

@[simp] theorem restoreGang_mem (s : State) (x : SavedGang) (parts : List (List Byte)) :
    (s.restoreGang x parts).mem = s.mem := by
  unfold State.restoreGang
  refine (foldl_mem (fun s p => cursorPass_mem s _ _ _) _ _).trans ?_
  rw [setQd_mem]
  refine (foldl_mem (fun s p => ?_) _ _).trans ?_
  · simp only [enterLane_mem]
  refine (foldl_mem (fun s p => scrWrite_mem s _ _ _) _ _).trans ?_
  exact foldl_mem (fun s k => setCore_mem s _ _) _ _

@[simp] theorem SavedGang_setOwner_mem (s : State) (x : SavedGang) (rec_ : List Byte) :
    (SavedGang.setOwner s x rec_).mem = s.mem := by
  unfold SavedGang.setOwner
  refine (foldl_mem (fun _ _ => ?_) _ _).trans ?_ <;> grind [setCore_mem]

@[simp] theorem testBarriers_mem (s : State) (g : Gang) : (s.testBarriers g).mem = s.mem := by
  refine foldl_mem (fun s w => foldl_mem (fun s scope => foldl_mem (fun s id => ?_) _ _) _ _) _ _
  have h := execBarrierPhaseComplete_moves w.uid scope id s
  split
  · next he => rwa [he] at h
  · rfl

@[simp] theorem restoreSkips_mem (s : State) (cs : List Cand) (g : Gang) : (s.restoreSkips cs g).mem = s.mem := by
  unfold State.restoreSkips
  refine (foldl_mem (fun _ _ => ?_) _ _).trans ?_ <;> grind [setQueue_mem]

theorem execGangRestore_moves (ch : Nat) (s : State) : Moves s (execGangRestore ch s) := by
  unfold execGangRestore
  simp only
  repeat' split
  all_goals grind only [moves_next, readCtx_mem, ctxFatal_mem, prepare_mem, readParts_mem, saveFault_mem, testBarriers_mem,
      SavedGang_setOwner_mem, restoreGang_mem, setChan_mem, restoreSkips_mem]

/-! Machine/Host. -/

@[simp] theorem writeRecord_mem (s : State) (x : FaultRec) : (s.writeRecord x).mem = s.mem := by
  simp [State.writeRecord]

theorem execFaultRecordWrite_moves (s : State) : Moves s (execFaultRecordWrite s) := by
  unfold execFaultRecordWrite
  grind [writeRecord_mem, moves_next]

@[simp] theorem unpark_mem (s : State) (x : FaultRec) : (s.unpark x).mem = s.mem := by
  unfold State.unpark
  grind [cursorPass_mem, modCopy_mem, modWarp_mem, setCmd_mem, setQd_mem, settle_mem]

@[simp] theorem fatalRecord_mem (s : State) (x : FaultRec) : (s.fatalRecord x).mem = s.mem := by
  simp [State.fatalRecord]

@[simp] theorem noRecord_mem (s : State) : s.noRecord.mem = s.mem := rfl

@[simp] theorem answerResume_mem (s : State) (seq : Nat) : (s.answerResume seq).mem = s.mem := by
  unfold State.answerResume
  grind [modRing_mem, noRecord_mem, unpark_mem]

@[simp] theorem answerFatal_mem (s : State) (seq : Nat) : (s.answerFatal seq).mem = s.mem := by
  unfold State.answerFatal
  grind [fatalRecord_mem, noRecord_mem]

@[simp] theorem enableRing_mem (s : State) : s.enableRing.mem = s.mem := rfl

@[simp] theorem disableRing_mem (s : State) : s.disableRing.mem = s.mem := by
  unfold State.disableRing
  refine (foldl_mem (fun _ _ => ?_) _ _).trans ?_ <;> grind [fatalRecord_mem, modRing_mem]

@[simp] theorem clearRing_mem (s : State) (bits : Nat) : (s.clearRing bits).mem = s.mem := rfl

@[simp] theorem invalidate_mem (s : State) : s.invalidate.mem = s.mem := by
  unfold State.invalidate
  grind

theorem execInvalidateDone_moves (s : State) : Moves s (execInvalidateDone s) := by
  unfold execInvalidateDone
  grind [moves_next]

@[simp] theorem clearIerr_mem (s : State) : s.clearIerr.mem = s.mem := rfl

@[simp] theorem setWinerr_mem (s : State) : s.setWinerr.mem = s.mem := rfl

theorem execBar2Read_moves (off n : Nat) (s : State) : Moves s (execBar2Read off n s) := by
  unfold execBar2Read
  grind [setWinerr_mem, moves_next]

theorem execBar2Write_moves (off : Nat) (bytes : List Byte) (s : State) : Moves s (execBar2Write off bytes s) := by
  unfold execBar2Write
  grind [homeWrite_mem, setWinerr_mem, moves_next]

@[simp] theorem clearWinerr_mem (s : State) : s.clearWinerr.mem = s.mem := rfl

theorem execPeerRequest_moves (src op addr : Nat) (bytes : List Byte) (s : State) : Moves s
    (execPeerRequest src op addr bytes s) := by
  unfold execPeerRequest
  grind [homeAtom_mem, homeWrite_mem, moves_next]

@[simp] theorem pcieFatal_mem (s : State) (x : HostReq) : (s.pcieFatal x).mem = s.mem := by
  unfold State.pcieFatal
  grind [ctxFatal_mem]

@[simp] theorem pcieServe_mem (s : State) (x : HostReq) : (s.pcieServe x).mem = s.mem := by
  unfold State.pcieServe
  grind [answer_mem, dropReq_mem, landAll_mem, modWarp_mem, serveReq_mem]

@[simp] theorem takeHostReq_mem (s : State) (tag : Nat) : (s.takeHostReq tag).2.mem = s.mem := by
  unfold State.takeHostReq
  grind

theorem execPcieCompletion_moves (tag status : Nat) (s : State) : Moves s (execPcieCompletion tag status s) := by
  unfold execPcieCompletion
  grind [pcieFatal_mem, pcieServe_mem, takeHostReq_mem, moves_next]

theorem execPcieCompletionTimeout_moves (tag : Nat) (s : State) : Moves s (execPcieCompletionTimeout tag s) := by
  unfold execPcieCompletionTimeout
  grind [pcieFatal_mem, takeHostReq_mem, moves_next]

@[simp] theorem endCutOff_mem (s : State) : s.endCutOff.mem = s.mem := by
  unfold State.endCutOff
  refine (foldl_mem (fun _ _ => ?_) _ _).trans ?_ <;> grind [ctxFatal_mem]

theorem execVirvisPortUpChange_moves (k : Nat) (up : Bool) (far : Nat) (s : State) : Moves s
    (execVirvisPortUpChange k up far s) := by
  unfold execVirvisPortUpChange
  grind [bore_mem, endCutOff_mem, raise_mem, setPort_mem, moves_next]

@[simp] theorem clearPdup_mem (s : State) (k : Nat) : (s.clearPdup k).mem = s.mem := by
  unfold State.clearPdup
  grind [setPort_mem]

@[simp] theorem sendPending_mem (s : State) (v : Nat) : (s.sendPending v).mem = s.mem := by
  unfold State.sendPending
  grind

@[simp] theorem unmask_mem (s : State) (v : Nat) : (s.unmask v).mem = s.mem := by
  unfold State.unmask
  grind [sendPending_mem]

@[simp] theorem configWrite_mem (s : State) (c : CfgWrite) : (s.configWrite c).mem = s.mem := by
  cases c with
  | bar2 k =>
    simp only [State.configWrite]
    split <;> rfl
  | msix on mask => exact foldl_mem sendPending_mem _ _

theorem execLinkedContextEnd_moves (lgid : Nat) (s : State) : Moves s (execLinkedContextEnd lgid s) :=
  foldl_mem (fun s c => ctxFatal_mem s c _ _ _ _) _ _

end Sys2Proof.Machine
end

section
/-! What the steps of the matrix engine, the mesh, bring-up, the instruction forms and the fetch leave: local memory. -/

namespace Sys2Proof.Machine

/-! Machine/MatrixRun. -/

theorem execMxPassSelect_moves (cl : Nat) (s : State) : Moves s (execMxPassSelect cl s) := by
  unfold execMxPassSelect
  grind [setMx_mem, moves_next]

theorem execMxStep_moves (cl : Nat) (s : State) : Moves s (execMxStep cl s) := by
  unfold execMxStep
  split
  · rfl
  simp only
  split
  · rfl
  · exact foldl_mem (fun s e => mxApply_mem s cl e _) _ _

theorem execMxPassComplete_moves (cl : Nat) (s : State) : Moves s (execMxPassComplete cl s) := by
  unfold execMxPassComplete
  grind [setMx_mem, moves_next]

theorem execMxzeroRun_moves (cl : Nat) (s : State) : Moves s (execMxzeroRun cl s) := by
  unfold execMxzeroRun
  grind [setMx_mem, moves_next]

@[simp] theorem boreTokens_mem (s : State) (die before : Nat) : (s.boreTokens die before).mem = s.mem := by
  unfold State.boreTokens
  grind [bore_mem]

theorem execTokenArrive_moves (die tok : Nat) (s : State) : Moves s (execTokenArrive die tok s) := by
  unfold execTokenArrive
  grind [setMx_mem, moves_next]

theorem execTokenIdleMove_moves (die tok : Nat) (s : State) : Moves s (execTokenIdleMove die tok s) := by
  unfold execTokenIdleMove
  grind [setDie_mem, moves_next]

theorem execBurstEnd_moves (cl : Nat) (s : State) : Moves s (execBurstEnd cl s) := by
  unfold execBurstEnd
  grind [boreTokens_mem, setDie_mem, setMx_mem, moves_next]

/-! Machine/Mesh. -/

theorem execFlitRoute_moves (idx : Nat) (s : State) : Moves s (execFlitRoute idx s) := by
  unfold execFlitRoute
  grind [deliver_mem, moves_next]

@[simp] theorem setLink_mem (s : State) (l st : Nat) : (s.setLink l st).mem = s.mem := by
  unfold State.setLink
  grind

theorem execLinkPowerDown_moves (l : Nat) (s : State) : Moves s (execLinkPowerDown l s) := by
  unfold execLinkPowerDown
  grind [setLink_mem, moves_next]

theorem execLinkOff_moves (l : Nat) (s : State) : Moves s (execLinkOff l s) := by
  unfold execLinkOff
  grind [setLink_mem, moves_next]

theorem execLinkWake_moves (l : Nat) (s : State) : Moves s (execLinkWake l s) := by
  unfold execLinkWake
  grind [setLink_mem, moves_next]

theorem execLinkActive_moves (l : Nat) (s : State) : Moves s (execLinkActive l s) := by
  unfold execLinkActive
  grind [setLink_mem, moves_next]

/-! Machine/Bringup. -/

@[simp] theorem boreReset_mem (s : State) (cause : Nat) : (s.boreReset cause).mem = s.mem := by
  unfold State.boreReset
  refine (foldl_mem (fun _ _ => ?_) _ _).trans ?_ <;> grind [bore_mem]

theorem execBootVerify_moves (s : State) : Moves s (execBootVerify s) := by
  unfold execBootVerify
  grind [moves_next]

@[simp] theorem setReady_mem (s : State) (fn : Nat) : (s.setReady fn).mem = s.mem := by
  unfold State.setReady
  grind [setDie_mem]

theorem execSelfTestPass_moves (fn : Nat) (s : State) : Moves s (execSelfTestPass fn s) := by
  unfold execSelfTestPass
  grind [bore_mem, setReady_mem, moves_next]

@[simp] theorem fatalFree_mem (s : State) (data1 : Nat) : (s.fatalFree data1).mem = s.mem := by
  simp [State.fatalFree]

theorem execSelfTestFail_moves (fn : Nat) (s : State) : Moves s (execSelfTestFail fn s) := by
  unfold execSelfTestFail
  grind [bore_mem, fatalFree_mem, moves_next]

@[simp] theorem verifyStaged_mem (s : State) : s.verifyStaged.mem = s.mem := rfl

theorem execFirmwareVerifyDone_moves (s : State) : Moves s (execFirmwareVerifyDone s) := by
  unfold execFirmwareVerifyDone
  grind [bore_mem, moves_next]

@[simp] theorem spdmAnswer_mem (s : State) (l : List Nat) : (s.spdmAnswer l).mem = s.mem := rfl

theorem execGetVersion_moves (s : State) : Moves s (execGetVersion s) := by
  unfold execGetVersion
  grind [spdmAnswer_mem, moves_next]

theorem execGetCapabilities_moves (s : State) : Moves s (execGetCapabilities s) := by
  unfold execGetCapabilities
  grind [spdmAnswer_mem, moves_next]

theorem execNegotiateAlgorithms_moves (s : State) : Moves s (execNegotiateAlgorithms s) := by
  unfold execNegotiateAlgorithms
  grind [spdmAnswer_mem, moves_next]

theorem execGetMeasurements_moves (idx : Nat) (s : State) : Moves s (execGetMeasurements idx s) := by
  unfold execGetMeasurements
  grind [spdmAnswer_mem, moves_next]

theorem execSpdmUnsupported_moves (_code : Nat) (s : State) : Moves s (execSpdmUnsupported _code s) := by
  unfold execSpdmUnsupported
  grind [spdmAnswer_mem, moves_next]

@[simp] theorem boreCount_mem (s : State) (die unit old new th : Nat) : (s.boreCount die unit old new th).mem = s.mem := by
  unfold State.boreCount
  grind [bore_mem]

@[simp] theorem sramUnit_mem (s : State) : (s.sramUnit).2.mem = s.mem := rfl

theorem execHbmScrub_moves (_stack : Nat) (s : State) : Moves s (execHbmScrub _stack s) := by
  unfold execHbmScrub
  grind [moves_next]

@[simp] theorem writeCounter_mem (s : State) (hbm : Bool) (unit which v : Nat) :
    (s.writeCounter hbm unit which v).mem = s.mem := by
  unfold State.writeCounter
  grind [setDie_mem, setStack_mem]

@[simp] theorem retarget_mem (s : State) (d : Nat) : (s.retarget d).mem = s.mem := by
  unfold State.retarget
  grind [boreTokens_mem, setDie_mem]

@[simp] theorem limitPower_mem (s : State) (v : Nat) : (s.limitPower v).mem = s.mem := by
  unfold State.limitPower
  refine (foldl_mem (fun _ _ => ?_) _ _).trans ?_ <;> grind [retarget_mem]

@[simp] theorem setTemp_mem (s : State) (d t : Nat) : (s.setTemp d t).mem = s.mem := rfl

@[simp] theorem throttle_mem (s : State) (d : Nat) : (s.throttle d).mem = s.mem := by
  unfold State.throttle
  grind [bore_mem, retarget_mem, setDie_mem]

@[simp] theorem cool_mem (s : State) (d : Nat) : (s.cool d).mem = s.mem := by
  unfold State.cool
  grind [retarget_mem, setDie_mem]

@[simp] theorem thermal_mem (s : State) (d temp : Nat) : (s.thermal d temp).mem = s.mem := by
  unfold State.thermal
  grind [bore_mem, cool_mem, fatalFree_mem, setTemp_mem, throttle_mem]

theorem execThrottleSet_moves (d temp : Nat) (s : State) : Moves s (execThrottleSet d temp s) := by
  unfold execThrottleSet
  grind [thermal_mem, moves_next]

theorem execThrottleClear_moves (d temp : Nat) (s : State) : Moves s (execThrottleClear d temp s) := by
  unfold execThrottleClear
  grind [thermal_mem, moves_next]

theorem execThermalShutdown_moves (d temp : Nat) (s : State) : Moves s (execThermalShutdown d temp s) := by
  unfold execThermalShutdown
  grind [thermal_mem, moves_next]

@[simp] theorem boreClear_mem (s : State) (fn : Nat) : (s.boreClear fn).mem = s.mem := rfl

theorem execD3hotExit_moves (s : State) : Moves s (execD3hotExit s) := by
  unfold execD3hotExit
  split
  · rfl
  · exact foldl_mem boreClear_mem _ _

/-! Machine/Control. -/

theorem transfer_answers (s : State) (h : Hdr) (a : Nat) (bad : Issue → Warp → Nat → Bool)
    (target : Issue → Warp → Nat → Option DWord) (post : Issue → Mask → Warp → Warp) :
    Answers s (s.transfer h a bad target post) := by
  unfold State.transfer
  grind [retire_mem, setWarp_mem, trapWord_mem, answers_next, answers_noWarp]

theorem execNop_answers (h : Hdr) (_d _a _b : BitVec 7) (s : State) : Answers s (execNop h _d _a _b s) := by
  unfold execNop
  grind [endWord_mem, answers_next, answers_noWarp]

theorem execPatch_answers (h : Hdr) (_n : BitVec 2) (_tool : BitVec 22) (s : State) : Answers s (execPatch h _n _tool s) := by
  unfold execPatch
  grind [endWord_mem, answers_next, answers_noWarp]

theorem execRjenr_answers (h : Hdr) (_d a _b : BitVec 7) (s : State) : Answers s (execRjenr h _d a _b s) := by
  unfold execRjenr
  grind [endWord_mem, setWarp_mem, answers_next, answers_noWarp]

theorem execRjpark_answers (h : Hdr) (_d a _b : BitVec 7) (s : State) : Answers s (execRjpark h _d a _b s) := by
  unfold execRjpark
  grind [retire_mem, setWarp_mem, answers_next, answers_noWarp]

theorem execRjstrk_answers (h : Hdr) (_d a _b : BitVec 7) (s : State) : Answers s (execRjstrk h _d a _b s) := by
  unfold execRjstrk
  grind [endWord_mem, setWarp_mem, answers_next, answers_noWarp]

/-! Machine/Float. -/

theorem fp_answers (s : State) (h : Hdr) (a b d n : Nat) (srcs : List Src)
    (f : Rm → Bool → Bool → List Nat → Nat × Nat) : Answers s (s.fp h a b d n srcs f) := by
  unfold State.fp
  exact alu_answers ..

/-! Machine/Convert. -/

theorem pack_answers (s : State) (h : Hdr) (d a : BitVec 7) (imm : BitVec 10) : Answers s (s.pack h d a imm) := by
  unfold State.pack
  grind [endWord_mem, setWarp_mem, answers_next, answers_noWarp]

theorem unpk_answers (s : State) (h : Hdr) (d a : BitVec 7) (imm : BitVec 10) : Answers s (s.unpk h d a imm) := by
  unfold State.unpk
  grind [endWord_mem, setWarp_mem, trapWord_mem, answers_next, answers_noWarp]

/-! Machine/Direct. -/

theorem dirForm_answers (s : State) (h : Hdr) (a b : BitVec 7) (write : Bool) (data : Warp → Nat → List Byte)
    (go : Issue → Warp → Mask → Nat → List Span → Warp) : Answers s (s.dirForm h a b write data go) := by
  unfold State.dirForm
  grind [endWord_mem, fresh_mem, setWarp_mem, trapWord_mem, answers_next, answers_noWarp]

theorem execLdDir_answers (h : Hdr) (d a b : BitVec 7) (s : State) : Answers s (execLdDir h d a b s) := by
  unfold execLdDir
  exact dirForm_answers ..

theorem execStDir_answers (h : Hdr) (d a b : BitVec 7) (s : State) : Answers s (execStDir h d a b s) := by
  unfold execStDir
  exact dirForm_answers ..

theorem execDirectPacketSend_moves (u : Nat) (s : State) : Moves s (execDirectPacketSend u s) := by
  unfold execDirectPacketSend
  grind [sendDie_mem, setWarp_mem, moves_next]

theorem execDirectReply_moves (u : Nat) (s : State) : Moves s (execDirectReply u s) := by
  unfold execDirectReply
  grind [ctxFatal_mem, setWarp_mem, moves_next]

/-! Machine/LoadStore. -/

theorem load_answers (s : State) (h : Hdr) (d a b : BitVec 7) (size n : Nat) (sx : Bool) :
    Answers s (s.load h d a b size n sx) := by
  unfold State.load
  exact memForm_answers ..

theorem store_answers (s : State) (h : Hdr) (d a b : BitVec 7) (size n : Nat) : Answers s (s.store h d a b size n) := by
  unfold State.store
  exact memForm_answers ..

/-! Machine/Move. -/

theorem address_answers (s : State) (h : Hdr) (a b d : Nat) (f : Warp → Nat → Nat) : Answers s (s.address h a b d f) := by
  unfold State.address
  grind [endWord_mem, fresh_mem, setWarp_mem, answers_next, answers_noWarp]

/-! Machine/Regs. -/

@[simp] theorem writeQueue_mem (s : State) (q k m v : Nat) : (s.writeQueue q k m v).mem = s.mem := by
  unfold State.writeQueue
  grind [abandon_mem, clearQueue_mem, disableQueue_mem, enableQueue_mem, setQueue_mem, writeTail_mem]

@[simp] theorem writeChan_mem (s : State) (ch k m v : Nat) : (s.writeChan ch k m v).mem = s.mem := by
  unfold State.writeChan
  grind [acceptResume_mem, acceptStop_mem, clearFreset_mem, setChan_mem]

@[simp] theorem writeRing_mem (s : State) (k m v : Nat) : (s.writeRing k m v).mem = s.mem := by
  unfold State.writeRing
  grind [answerFatal_mem, answerResume_mem, clearRing_mem, disableRing_mem, enableRing_mem, modRing_mem]

@[simp] theorem writeInval_mem (s : State) (k m v : Nat) : (s.writeInval k m v).mem = s.mem := by
  unfold State.writeInval
  grind [invalidate_mem]

@[simp] theorem writeHost_mem (s : State) (k m v : Nat) : (s.writeHost k m v).mem = s.mem := by
  unfold State.writeHost
  grind [clearWinerr_mem]

@[simp] theorem writeLinks_mem (s : State) (k m v : Nat) : (s.writeLinks k m v).mem = s.mem := by
  unfold State.writeLinks
  grind [clearPdup_mem, endCutOff_mem, setPort_mem]

@[simp] theorem writeMsix_mem (s : State) (n k m v : Nat) : (s.writeMsix n k m v).mem = s.mem := by
  unfold State.writeMsix
  grind [unmask_mem]

@[simp] theorem writeBlock_mem (s : State) (b : Block) (k m v : Nat) : (s.writeBlock b k m v).mem = s.mem := by
  unfold State.writeBlock
  grind [limitPower_mem, setDie_mem, verifyStaged_mem, writeChan_mem, writeCounter_mem, writeHost_mem, writeInval_mem,
      writeLinks_mem, writeMsix_mem, writeQueue_mem, writeRing_mem]

@[simp] theorem writeField_mem (s : State) (b : Block) (k v : Nat) : (s.writeField b k v).mem = s.mem := by
  unfold State.writeField
  grind [acceptResume_mem, acceptStop_mem, clearIerr_mem, clearPdup_mem, clearRing_mem, disableQueue_mem, disableRing_mem,
      enableQueue_mem, enableRing_mem, invalidate_mem]

@[simp] theorem applyWrite_mem (s : State) (off size v : Nat) : (s.applyWrite off size v).mem = s.mem := by
  unfold State.applyWrite
  grind [writeBlock_mem, writeField_mem]

theorem execRegisterWrite_moves (off size v : Nat) (s : State) : Moves s (execRegisterWrite off size v s) := by
  unfold execRegisterWrite
  grind [applyWrite_mem, moves_next]

theorem execHeldWriteTake_moves (s : State) : Moves s (execHeldWriteTake s) := by
  unfold execHeldWriteTake
  grind [applyWrite_mem, moves_next]

/-! Machine/Fetch. -/

@[simp] theorem fetchLine_mem (s : State) (w : Warp) (va : Nat) (p : Phys) : (s.fetchLine w va p).mem = s.mem := by
  unfold State.fetchLine
  split
  · rfl
  · exact getD_mem fun t ht => codeAsk_mem ht

@[simp] theorem fetchWord_mem (s : State) (w : Warp) (va : Nat) : (s.fetchWord w va).2.mem = s.mem := by
  unfold State.fetchWord
  grind [access_mem, fetchLine_mem]

@[simp] theorem fetchPacket_mem (s : State) (w : Warp) (pkt n : Nat) (xs : List Word) :
    (s.fetchPacket w pkt n xs).2.mem = s.mem := by
  fun_induction State.fetchPacket s w pkt n xs <;> grind [fetchWord_mem]

@[simp] theorem fetch_mem (s : State) (w : Warp) (k : Nat) : (s.fetch w k).2.mem = s.mem := by
  unfold State.fetch
  grind [fetchPacket_mem]

@[simp] theorem fetchFault_mem (s : State) (w : Warp) (k : Nat) (r : WalkRes) (va : Nat) :
    (s.fetchFault w k r va).mem = s.mem := by
  unfold State.fetchFault
  grind [discard_mem, faultRecord_mem, setWarp_mem, takeTrap_mem]

/-! Machine/Traps. -/

theorem softTrap_answers (s : State) (h : Hdr) (cls code : Nat) : Answers s (s.softTrap h cls code) := by
  unfold State.softTrap
  grind [retire_mem, trapWord_mem, answers_next, answers_noWarp]

theorem execRegion_answers (h : Hdr) (_d _a _b : BitVec 7) (s : State) : Answers s (execRegion h _d _a _b s) := by
  unfold execRegion
  grind [endWord_mem, answers_next, answers_noWarp]

theorem execRett_answers (h : Hdr) (_d a b : BitVec 7) (s : State) : Answers s (execRett h _d a b s) := by
  unfold execRett
  grind [ctxFatal_mem, retire_mem, setWarp_mem, takeTrap_mem, trapWord_mem, answers_next, answers_noWarp]

theorem execIllegalInstruction_answers (fpc : BitVec 64) (word : Word) (s : State) :
    Answers s (execIllegalInstruction fpc word s) := by
  unfold execIllegalInstruction
  grind [retire_mem, answers_next, answers_noWarp]

theorem execTrapEntry_moves (u k : Nat) (s : State) : Moves s (execTrapEntry u k s) := by
  unfold execTrapEntry
  grind [takeTrap_mem, moves_next]

theorem execTimerTrap_moves (u k : Nat) (s : State) : Moves s (execTimerTrap u k s) := by
  unfold execTimerTrap
  grind [fetch_mem, modWarp_mem, takeTrap_mem, moves_next]

theorem execRegionBoundary_moves (u k : Nat) (s : State) : Moves s (execRegionBoundary u k s) := by
  unfold execRegionBoundary
  grind [fetch_mem, modWarp_mem, setWarp_mem, moves_next]

theorem execSwitchMarkerRelease_moves (u : Nat) (s : State) : Moves s (execSwitchMarkerRelease u s) := by
  unfold execSwitchMarkerRelease
  grind [setWarp_mem, youngest_mem, moves_next]

theorem execGrantCountRotation_moves (u : Nat) (s : State) : Moves s (execGrantCountRotation u s) := by
  unfold execGrantCountRotation
  grind [youngest_mem, moves_next]

/-! Machine/Worklist. -/

@[simp] theorem setView_mem (s : State) (cl id v : Nat) : (s.setView cl id v).mem = s.mem := rfl

@[simp] theorem mapMembers_mem (s : State) (q : Quarry) (f : Member → Member) : (s.mapMembers q f).mem = s.mem := rfl

@[simp] theorem retireQuarry_mem (s : State) (id : Nat) : (s.retireQuarry id).mem = s.mem := rfl

@[simp] theorem spill_mem (s : State) (q : Quarry) (cl : Nat) (t : QTask) : (s.spill q cl t).mem = s.mem := by
  simp [State.spill]

@[simp] theorem addChip_mem (s : State) (cl : Nat) (t : QTask) : (s.addChip cl t).mem = s.mem := rfl

@[simp] theorem placeTask_mem (s : State) (q : Quarry) (cl : Nat) (t : QTask) : (s.placeTask q cl t).mem = s.mem := by
  unfold State.placeTask
  grind [addChip_mem, setShard_mem, spill_mem]

@[simp] theorem queueTask_mem (s : State) (q : Quarry) (k : Task) : (s.queueTask q k).mem = s.mem := by
  simp [State.queueTask]

@[simp] theorem dropSpilled_mem (s : State) (cl : Nat) (t : SpTask) : (s.dropSpilled cl t).mem = s.mem := rfl

@[simp] theorem readSlots_mem (s : State) (q : Quarry) (cl : Nat) (ts : List SpTask) : (s.readSlots q cl ts).mem = s.mem := by
  unfold State.readSlots
  refine (foldl_mem (fun _ _ => ?_) _ _).trans ?_ <;> grind [fillAt_mem]

theorem execSpoilRefill_moves (cl : Nat) (s : State) : Moves s (execSpoilRefill cl s) := by
  unfold execSpoilRefill
  grind [dropSpilled_mem, placeTask_mem, readSlots_mem, moves_next]

@[simp] theorem spillBeyond_mem (s : State) (q : Quarry) (cl : Nat) : (s.spillBeyond q cl).mem = s.mem := by
  unfold State.spillBeyond
  simp only
  split <;> simp

@[simp] theorem lowerViews_mem (s : State) (q : Quarry) (b : Nat) : (s.lowerViews q b).mem = s.mem := by
  unfold State.lowerViews
  rw [mapMembers_mem]
  refine foldl_mem (fun s cl => ?_) _ _
  split <;> simp

theorem execPushComplete_moves (u : Nat) (s : State) : Moves s (execPushComplete u s) := by
  unfold execPushComplete
  repeat' split
  all_goals grind only [moves_next, setQuarry_mem, queueTask_mem, setWarp_mem, lowerViews_mem]

@[simp] theorem notLive_mem (s : State) (c : Issue) (h : Hdr) (parts : Mask) (w : Warp) :
    (s.notLive c h parts w).mem = s.mem := by
  simp [State.notLive]

theorem execQypush_answers (h : Hdr) (d a b : BitVec 7) (s : State) : Answers s (execQypush h d a b s) := by
  unfold execQypush
  grind [endWord_mem, fresh_mem, notLive_mem, setQuarry_mem, setWarp_mem, trapWord_mem, answers_next, answers_noWarp]

@[simp] theorem setPop_mem (s : State) (u id : Nat) (p : Pop) : (s.setPop u id p).mem = s.mem := rfl

@[simp] theorem popOwn_mem (s : State) (cl : Nat) (q : Quarry) (p : Pop) : (s.popOwn cl q p).2.mem = s.mem := by
  simp [State.popOwn]

@[simp] theorem takeFrom_mem (s : State) (q : Quarry) (v : Nat) (got : List QTask) : (s.takeFrom q v got).mem = s.mem := by
  unfold State.takeFrom
  grind [mapMembers_mem, setShard_mem]

@[simp] theorem popDeliver_mem (s : State) (u id : Nat) (a : Access) (p : Pop) (yield quiet : Bool) :
    (s.popDeliver u id a p yield quiet).mem = s.mem := rfl

@[simp] theorem sendHome_mem (s : State) (q : Quarry) (k : Task) : (s.sendHome q k).mem = s.mem := by
  unfold State.sendHome
  grind [fresh_mem, mapMembers_mem, queueTask_mem]

@[simp] theorem popGoOn_mem (s : State) (w : Warp) (a : Access) (q : Quarry) (p : Pop) (quiet : Bool) (i : Nat) :
    (s.popGoOn w a q p quiet i).mem = s.mem := by
  unfold State.popGoOn
  split
  · simp
  · split <;> simp

@[simp] theorem popServe_mem (s : State) (w : Warp) (a : Access) (p : Pop) : (s.popServe w a p).mem = s.mem := by
  unfold State.popServe
  grind [popDeliver_mem, popGoOn_mem, popOwn_mem]

@[simp] theorem servedCore_mem (s : State) (w : Warp) : (s.servedCore w).mem = s.mem := rfl

theorem execSteal_moves (u id victim : Nat) (s : State) : Moves s (execSteal u id victim s) := by
  unfold execSteal
  repeat' split
  all_goals simp [moves_next]

@[simp] theorem shardForm_mem (s : State) (c : Issue) (h : Hdr) (w : Warp) (cmd : ShardCmd) (marks : List Nat) (parts : Mask)
    (dst pdst : List Nat) : (s.shardForm c h w cmd marks parts dst pdst).mem = s.mem := by
  simp [State.shardForm]

theorem execQypop_answers (h : Hdr) (d a b : BitVec 7) (s : State) : Answers s (execQypop h d a b s) := by
  unfold execQypop
  grind [notLive_mem, shardForm_mem, answers_next, answers_noWarp]

@[simp] theorem endTasks_mem (s : State) (w : Warp) (a : Access) (n : Nat) (back : Bool) :
    (s.endTasks w a n back).mem = s.mem := by
  unfold State.endTasks
  simp only
  split
  · rfl
  · split
    · exact foldl_mem (fun s k => sendHome_mem s _ k) _ _
    · rfl

theorem endForm_answers (s : State) (h : Hdr) (a : BitVec 7) (cmd : Nat → Nat → ShardCmd) : Answers s (s.endForm h a cmd) := by
  unfold State.endForm
  grind [endWord_mem, notLive_mem, shardForm_mem, answers_next, answers_noWarp]

theorem execQuietWaitRelease_moves (u k : Nat) (s : State) : Moves s (execQuietWaitRelease u k s) := by
  unfold execQuietWaitRelease
  grind [ready_mem, wakeSlot_mem, moves_next]

theorem execQyquiet_answers (h : Hdr) (d a b : BitVec 7) (s : State) : Answers s (execQyquiet h d a b s) := by
  unfold execQyquiet
  grind [illegal_mem, shardForm_mem, answers_next, answers_noWarp]

theorem pairForm_answers (s : State) (h : Hdr) (d : BitVec 7) (v : Warp → Nat) : Answers s (s.pairForm h d v) := by
  unfold State.pairForm
  grind [endWord_mem, fresh_mem, setWarp_mem, answers_next, answers_noWarp]

@[simp] theorem qyFault_mem (s : State) (w : Warp) (a : Access) (st : Bool) (r : WalkRes) (va : Nat) :
    (s.qyFault w a st r va).mem = s.mem := rfl

@[simp] theorem qyStatus_mem (s : State) (w : Warp) (a : Access) (d st : Nat) : (s.qyStatus w a d st).mem = s.mem := rfl

@[simp] theorem qyInit_mem (s : State) (w : Warp) (a : Access) (d n : Nat) (bs : List Byte) :
    (s.qyInit w a d n bs).mem = s.mem := by
  unfold State.qyInit
  grind [fresh_mem, leaves_mem, qyFault_mem, qyStatus_mem, retireQuarry_mem]

@[simp] theorem qyServe_mem (s : State) (w : Warp) (a : Access) (d n adr : Nat) : (s.qyServe w a d n adr).mem = s.mem := by
  unfold State.qyServe
  grind [access_mem, ctxFatal_mem, fillAt_mem, hostCame_mem, qyFault_mem, qyInit_mem, qyStatus_mem, retireQuarry_mem]

theorem execQyinit_answers (h : Hdr) (d a b : BitVec 7) (s : State) : Answers s (execQyinit h d a b s) := by
  unfold execQyinit
  grind [endWord_mem, fresh_mem, setWarp_mem, trapWord_mem, answers_next, answers_noWarp]

@[simp] theorem serveCmd_mem (s : State) (w : Warp) (a : Access) : (s.serveCmd w a).mem = s.mem := by
  unfold State.serveCmd
  grind [endTasks_mem, popServe_mem, ready_mem]

theorem execPopServe_moves (u id : Nat) (s : State) : Moves s (execPopServe u id s) := by
  unfold execPopServe
  grind [qyServe_mem, serveCmd_mem, servedCore_mem, moves_next]

theorem execFloorWave_moves (ctx n : Nat) (s : State) : Moves s (execFloorWave ctx n s) := by
  unfold execFloorWave
  split
  · rfl
  split
  · rfl
  rw [moves_next, mapMembers_mem]
  refine foldl_mem (fun s cl => ?_) _ _
  split <;> rfl

theorem execTerminationPass_moves (ctx n : Nat) (s : State) : Moves s (execTerminationPass ctx n s) := by
  unfold execTerminationPass
  grind [setQuarry_mem, moves_next]

/-! Machine/Grant. -/

@[simp] theorem overwrite_mem (s : State) (c : Issue) (p : Piece) : (s.overwrite c p).mem = s.mem := by
  unfold State.overwrite
  grind [modWarp_mem]

theorem withheld_mem {s : State} {w : Warp} {o : Host.Outcome State Fault Refusal} {s' : State}
    (h : s.withheld w o = some s') : s'.mem = s.mem := by
  unfold State.withheld at h
  grind [setWarp_mem]

/-! Machine/Place. -/

@[simp] theorem tick_mem (s : State) : s.tick.mem = s.mem := by
  unfold State.tick
  grind

end Sys2Proof.Machine
end

section
/-! Every form and every other agent's step has a next state, in which local memory has its canonical form. -/

namespace Sys2Proof.Machine

theorem memWf_of_mem {s t : State} (h : t.mem = s.mem) (hs : s.memWf) : t.memWf := by
  rw [State.memWf, h]; exact hs

/-- The forms that a warp issues, and the encoding failure. -/
def issues (i : Instr) : Bool :=
  (Raw.of i).isSome || match i with
    | .illegalInstruction _ _ => true
    | _ => false

/-- An outcome of `i`: a next state that keeps the form of memory, or no warp to issue what a warp issues. -/
def Sound (i : Instr) (s : State) (o : Host.Outcome State Fault Refusal) : Prop :=
  match o with
  | .next t => s.memWf → t.memWf
  | _ => s.cur = none ∧ issues i = true

theorem Answers.sound {i : Instr} {s : State} {o : Host.Outcome State Fault Refusal} (h : Answers s o)
    (hi : issues i = true) : Sound i s o :=
  match o, h with
  | .next _, h => memWf_of_mem h
  | .fault _, h => ⟨h, hi⟩
  | .refused _, h => ⟨h, hi⟩

theorem Moves.sound {i : Instr} {s : State} {o : Host.Outcome State Fault Refusal} (h : Moves s o) : Sound i s o :=
  match o, h with
  | .next _, h => memWf_of_mem h

/-! The steps that write memory (R239, R461), and the reset (R440). -/

theorem serveDie_memWf {s : State} (h : s.memWf) (k i err : Nat) : (s.serveDie k i err).memWf := by
  unfold State.serveDie
  simp only
  split
  · exact h
  next r _ =>
  have hw : Memory.wf (if r.write && err != 2 then maskedWrite s.mem r else s.mem) = true := by
    split
    · exact wf_maskedWrite h r
    · exact h
  split
  · exact memWf_of_mem (send_mem ..) hw
  · split
    · exact hw
    · exact memWf_of_mem (send_mem ..) hw

theorem execBaseDieService_sound (i : Instr) (k : Nat) (s : State) : Sound i s (execBaseDieService k s) := by
  unfold execBaseDieService
  split
  · exact id
  · exact fun h => serveDie_memWf h ..

theorem execEccCorrected_sound (i : Instr) (hbm : Bool) (unit addr : Nat) (s : State) :
    Sound i s (execEccCorrected hbm unit addr s) := by
  unfold execEccCorrected
  cases hbm with
  | false => exact memWf_of_mem ((boreCount_mem ..).trans (sramUnit_mem s))
  | true =>
    intro h
    refine memWf_of_mem (boreCount_mem ..) ?_
    change State.memWf (match s.dieReads unit addr with
      | some (i, _) => s.serveDie unit i 1
      | none => s)
    split
    · exact serveDie_memWf h ..
    · exact h

theorem execEccUncorrectable_sound (i : Instr) (hbm : Bool) (unit addr : Nat) (ctx : Option Nat) (s : State) :
    Sound i s (execEccUncorrectable hbm unit addr ctx s) := by
  unfold execEccUncorrectable
  cases hbm with
  | false =>
    have hm := fun s => (bore_mem _ unit 0x11 (State.sramUnit s).1 (ctx.getD 0xFFFF) addr 0).trans (sramUnit_mem s)
    cases ctx with
    | none => exact memWf_of_mem ((deviceFatal_mem ..).trans (hm _))
    | some c => exact memWf_of_mem ((ctxFatal_mem ..).trans (hm _))
  | true =>
    simp only [if_true]
    generalize hs : State.bore _ _ _ _ _ _ _ = s₁
    have hm : s₁.mem = s.mem := by rw [← hs, bore_mem]; rfl
    cases s₁.dieReads unit addr with
    | none =>
      cases ctx with
      | none => exact memWf_of_mem ((deviceFatal_mem ..).trans hm)
      | some c => exact memWf_of_mem ((ctxFatal_mem ..).trans hm)
    | some x =>
      intro h
      have hd := serveDie_memWf (memWf_of_mem hm h) unit x.1 2
      split
      · exact hd
      · cases ctx with
        | none => exact memWf_of_mem (deviceFatal_mem ..) hd
        | some c => exact memWf_of_mem (ctxFatal_mem ..) hd

theorem execD3hotEnter_sound (i : Instr) (s : State) : Sound i s (execD3hotEnter s) := by
  unfold execD3hotEnter
  split
  · exact id
  · intro h
    have hm : ∀ (l : List Nat), (l.foldl (fun s c => s.endCtx c) (s.landAll fun _ => true)).mem = s.mem := fun l =>
      (foldl_mem endCtx_mem l _).trans (landAll_mem ..)
    exact wf_settledMem (memWf_of_mem (hm _) h)

theorem execDeviceReset_sound (i : Instr) (cause : Nat) (s : State) : Sound i s (execDeviceReset cause s) := by
  unfold execDeviceReset
  split
  · exact fun _ => memWf_of_mem (boreReset_mem ..) wf_reset
  · split
    · exact id
    · exact fun _ => memWf_of_mem (boreReset_mem ..) wf_reset

theorem execPowerRemoval_sound (i : Instr) (s : State) : Sound i s (execPowerRemoval s) := fun _ => wf_reset

/-! Every form and step. -/

/-- What every form and every step gives, by the operation that it shares with its like. -/
theorem exec_sound (i : Instr) (s : State) : Sound i s (exec i s) := by
  cases i <;> dsimp only [exec]
  case iaddS32 | iaddN32 | isubS32 | isubN32 | iaddc | iabs | iminS32 | iminN32 | imaxS32 | imaxN32 | imul | imulhiS32 |
      imulhiN32 | imad | imadwS32 | imadwN32 | and | or | xor | lop3 | shl | shr | sar | shf | bfxS32 | bfxN32 | bfi | popc |
      clz | brev | prmt | sel | mov | movi | iaddImm | imulImm | andImm | orImm | xorImm | shlImm | shrImm | sarImm | fclass |
      dp4S8 | dp4N8 | dp4S8n8 | dp8S4 | dp8N4 | dp8S4n4 => exact (alu0_answers ..).sound rfl
  case lea | add64 => exact (address_answers ..).sound rfl
  case fadd | fmul | ffma | fmin | fmax | frnd | frcp | frsq | fsqrt | fexp2 | flog2 | fsin | fcos | dadd | dmul | dfma |
      hadd2 | hmul2 | hfma2 | bfma2 | dp4E4m3 | dp4E5m2 | dp4E3m2 | dp4E2m3 | dp8E2m1 | fsclF32 | fsclF64 =>
    exact (fp_answers ..).sound rfl
  case cvt => exact (alu_answers ..).sound rfl
  case pack => exact (pack_answers ..).sound rfl
  case unpk => exact (unpk_answers ..).sound rfl
  case icmpEq | icmpNe | icmpLtS32 | icmpLeS32 | icmpLtN32 | icmpLeN32 | fcmpEq | fcmpNe | fcmpLt | fcmpLe | fcmpUn |
      fcmpNeu | fcmpLtu | fcmpLeu | fcmpEqF64 | fcmpNeF64 | fcmpLtF64 | fcmpLeF64 | fcmpUnF64 | fcmpNeuF64 | fcmpLtuF64 |
      fcmpLeuF64 | plop | pmov => exact (cmp_answers ..).sound rfl
  case bra | call | brx | callx | ret | exit | trmp => exact (transfer_answers ..).sound rfl
  case nop => exact (execNop_answers ..).sound rfl
  case rjenr => exact (execRjenr_answers ..).sound rfl
  case rjpark => exact (execRjpark_answers ..).sound rfl
  case rjstrk => exact (execRjstrk_answers ..).sound rfl
  case rjrd | wmask | rdtr => exact (const_answers ..).sound rfl
  case shflPick | shflLag | shflLead | shflMirr => exact (shuffle_answers ..).sound rfl
  case voteEvery | voteSome | voteSame => exact (vote_answers ..).sound rfl
  case ballot | matchUnif => exact (collect_answers ..).sound rfl
  case reduxSum | reduxLeastS32 | reduxLeastN32 | reduxMostS32 | reduxMostN32 | reduxBand | reduxBor | reduxBxor =>
    exact (redux_answers ..).sound rfl
  case matchPeers => exact (compute_answers ..).sound rfl
  case xsw => exact (execXsw_answers ..).sound rfl
  case bar | bara => exact (arrive_answers ..).sound rfl
  case barw => exact (execBarw_answers ..).sound rfl
  case yield => exact (execYield_answers ..).sound rfl
  case lnch => exact (execLnch_answers ..).sound rfl
  case rdsr => exact (execRdsr_answers ..).sound rfl
  case wrsr => exact (execWrsr_answers ..).sound rfl
  case ldN8 | ldS8 | ldN16 | ldS16 | ldB32 | ldB64 | ldB128 => exact (load_answers ..).sound rfl
  case stB8 | stB16 | stB32 | stB64 | stB128 => exact (store_answers ..).sound rfl
  case atomAddB32 | atomMinS32 | atomMinN32 | atomMaxS32 | atomMaxN32 | atomAndB32 | atomOrB32 | atomXorB32 | atomExchB32 |
      atomCasB32 | atomAddF32 | atomExchB64 | atomCasB64 | atomAddB64 | atomCasB128 | atomAddF64 =>
    exact (atom_answers ..).sound rfl
  case redAddB32 | redMinS32 | redMinN32 | redMaxS32 | redMaxN32 | redAddF32 | redAddB64 | redAddF64 | redAndB32 |
      redOrB32 | redXorB32 => exact (red_answers ..).sound rfl
  case fence => exact (execFence_answers ..).sound rfl
  case cinv | cwb => exact (maint_answers ..).sound rfl
  case pref => exact (execPref_answers ..).sound rfl
  case probe => exact (execProbe_answers ..).sound rfl
  case unpin => exact (execUnpin_answers ..).sound rfl
  case cpy => exact (execCpy_answers ..).sound rfl
  case fenceXp => exact (execFenceXp_answers ..).sound rfl
  case ldDir => exact (execLdDir_answers ..).sound rfl
  case stDir => exact (execStDir_answers ..).sound rfl
  case mxacq => exact (execMxacq_answers ..).sound rfl
  case mxrel => exact (execMxrel_answers ..).sound rfl
  case mxown => exact (execMxown_answers ..).sound rfl
  case mxq => exact (execMxq_answers ..).sound rfl
  case mxwait => exact (execMxwait_answers ..).sound rfl
  case mxrd | mxwr => exact (rowForm_answers ..).sound rfl
  case mxzero => exact (execMxzero_answers ..).sound rfl
  case mxstat => exact (execMxstat_answers ..).sound rfl
  case qdopen | qdsave | qdload => exact (qdRecord_answers ..).sound rfl
  case qdnext => exact (execQdnext_answers ..).sound rfl
  case qdsplit => exact (execQdsplit_answers ..).sound rfl
  case qdclose => exact (execQdclose_answers ..).sound rfl
  case qdstat => exact (execQdstat_answers ..).sound rfl
  case qdprobe => exact (execQdprobe_answers ..).sound rfl
  case qyinit => exact (execQyinit_answers ..).sound rfl
  case qypush => exact (execQypush_answers ..).sound rfl
  case qypop => exact (execQypop_answers ..).sound rfl
  case qydone | qyyield => exact (endForm_answers ..).sound rfl
  case qyfloor | qystat => exact (pairForm_answers ..).sound rfl
  case qyquiet => exact (execQyquiet_answers ..).sound rfl
  case trap | brk => exact (softTrap_answers ..).sound rfl
  case rett => exact (execRett_answers ..).sound rfl
  case region => exact (execRegion_answers ..).sound rfl
  case vrdx => exact (execVrdx_answers ..).sound rfl
  case vwrx => exact (execVwrx_answers ..).sound rfl
  case patch => exact (execPatch_answers ..).sound rfl
  case memoryReply => exact (execMemoryReply_moves ..).sound
  case switchMarkerRelease => exact (execSwitchMarkerRelease_moves ..).sound
  case grantCountRotation => exact (execGrantCountRotation_moves ..).sound
  case allocationRelease => exact (execAllocationRelease_moves ..).sound
  case laneSpill => exact (execLaneSpill_moves ..).sound
  case spillRestore => exact (execSpillRestore_moves ..).sound
  case warpEnd => exact (execWarpEnd_moves ..).sound
  case barrierPhaseComplete => exact (execBarrierPhaseComplete_moves ..).sound
  case xswPairComplete => exact (execXswPairComplete_moves ..).sound
  case lnchRecordRead => exact (execLnchRecordRead_moves ..).sound
  case timerTrap => exact (execTimerTrap_moves ..).sound
  case trapEntry => exact (execTrapEntry_moves ..).sound
  case translationWalk => exact (execTranslationWalk_moves ..).sound
  case walkFault => exact (execWalkFault_moves ..).sound
  case faultRecordWrite => exact (execFaultRecordWrite_moves ..).sound
  case regionBoundary => exact (execRegionBoundary_moves ..).sound
  case storeEntryPerform => exact (execStoreEntryPerform_moves ..).sound
  case coalesceRequestSend => exact (execCoalesceRequestSend_moves ..).sound
  case l1Fill => exact (execL1Fill_moves ..).sound
  case homeSliceServe => exact (execHomeSliceServe_moves ..).sound
  case l2MemoryReply => exact (execL2MemoryReply_moves ..).sound
  case baseDieService => exact execBaseDieService_sound ..
  case directPacketSend => exact (execDirectPacketSend_moves ..).sound
  case directReply => exact (execDirectReply_moves ..).sound
  case fenceComplete => exact (execFenceComplete_moves ..).sound
  case cacheMaintComplete => exact (execCacheMaintComplete_moves ..).sound
  case fenceXpComplete => exact (execFenceXpComplete_moves ..).sound
  case copyLineOperation => exact (execCopyLineOperation_moves ..).sound
  case copyTranslationFault => exact (execCopyTranslationFault_moves ..).sound
  case copyRetire => exact (execCopyRetire_moves ..).sound
  case mxPassSelect => exact (execMxPassSelect_moves ..).sound
  case mxStep => exact (execMxStep_moves ..).sound
  case mxPassComplete => exact (execMxPassComplete_moves ..).sound
  case mxzeroRun => exact (execMxzeroRun_moves ..).sound
  case mxacqBind => exact (execMxacqBind_moves ..).sound
  case mxrelReturn => exact (execMxrelReturn_moves ..).sound
  case mxownFlip => exact (execMxownFlip_moves ..).sound
  case mxwaitReport => exact (execMxwaitReport_moves ..).sound
  case mxRowAccess => exact (execMxRowAccess_moves ..).sound
  case tokenArrive => exact (execTokenArrive_moves ..).sound
  case tokenIdleMove => exact (execTokenIdleMove_moves ..).sound
  case burstEnd => exact (execBurstEnd_moves ..).sound
  case qdCommandServe => exact (execQdCommandServe_moves ..).sound
  case qdStreamFault => exact (execQdStreamFault_moves ..).sound
  case pushComplete => exact (execPushComplete_moves ..).sound
  case spoilRefill => exact (execSpoilRefill_moves ..).sound
  case popServe => exact (execPopServe_moves ..).sound
  case steal => exact (execSteal_moves ..).sound
  case floorWave => exact (execFloorWave_moves ..).sound
  case terminationPass => exact (execTerminationPass_moves ..).sound
  case quietWaitRelease => exact (execQuietWaitRelease_moves ..).sound
  case headRecordRead => exact (execHeadRecordRead_moves ..).sound
  case waitSignalRead => exact (execWaitSignalRead_moves ..).sound
  case placementDecision => exact (execPlacementDecision_moves ..).sound
  case launchComplete => exact (execLaunchComplete_moves ..).sound
  case queueTailWrite => exact (hostWrite_moves (ht := writeTail_mem ..) ..).sound
  case queueEnable => exact (hostWrite_moves (ht := enableQueue_mem ..) ..).sound
  case queueDisable => exact (hostWrite_moves (ht := disableQueue_mem ..) ..).sound
  case queueErrorClear => exact (hostWrite_moves (ht := clearQueue_mem ..) ..).sound
  case stop | drain => exact (hostWrite_moves (ht := acceptStop_mem ..) ..).sound
  case resume => exact (hostWrite_moves (ht := acceptResume_mem ..) ..).sound
  case fresetClear => exact (hostWrite_moves (ht := clearFreset_mem ..) ..).sound
  case graceExpiry => exact (execGraceExpiry_moves ..).sound
  case deadlineExpiry => exact (execDeadlineExpiry_moves ..).sound
  case stopCopyEngine => exact (execStopCopyEngine_moves ..).sound
  case stopCoordinateEngine => exact (execStopCoordinateEngine_moves ..).sound
  case stopWarps => exact (execStopWarps_moves ..).sound
  case stopMatrixEngine => exact (execStopMatrixEngine_moves ..).sound
  case stopFlushSave => exact (execStopFlushSave_moves ..).sound
  case gangRestore => exact (execGangRestore_moves ..).sound
  case faultAnswerResume => exact (hostWrite_moves (ht := answerResume_mem ..) ..).sound
  case faultAnswerFatal => exact (hostWrite_moves (ht := answerFatal_mem ..) ..).sound
  case faultRingEnable => exact (hostWrite_moves (ht := enableRing_mem ..) ..).sound
  case faultRingDisable => exact (hostWrite_moves (ht := disableRing_mem ..) ..).sound
  case faultRingErrorClear => exact (hostWrite_moves (ht := clearRing_mem ..) ..).sound
  case invalidateGo => exact (hostWrite_moves (ht := invalidate_mem ..) ..).sound
  case invalidateDone => exact (execInvalidateDone_moves ..).sound
  case invalidateErrorClear => exact (hostWrite_moves (ht := clearIerr_mem ..) ..).sound
  case bar2Read => exact (execBar2Read_moves ..).sound
  case bar2Write => exact (execBar2Write_moves ..).sound
  case winerrClear => exact (hostWrite_moves (ht := clearWinerr_mem ..) ..).sound
  case registerWrite => exact (execRegisterWrite_moves ..).sound
  case heldWriteTake => exact (execHeldWriteTake_moves ..).sound
  case flitRoute => exact (execFlitRoute_moves ..).sound
  case linkPowerDown => exact (execLinkPowerDown_moves ..).sound
  case linkOff => exact (execLinkOff_moves ..).sound
  case linkWake => exact (execLinkWake_moves ..).sound
  case linkActive => exact (execLinkActive_moves ..).sound
  case virvisPortUpChange => exact (execVirvisPortUpChange_moves ..).sound
  case pdupClear => exact (hostWrite_moves (ht := clearPdup_mem ..) ..).sound
  case peerRequest => exact (execPeerRequest_moves ..).sound
  case pcieCompletion => exact (execPcieCompletion_moves ..).sound
  case pcieCompletionTimeout => exact (execPcieCompletionTimeout_moves ..).sound
  case deviceReset => exact execDeviceReset_sound ..
  case bootVerify => exact (execBootVerify_moves ..).sound
  case selfTestPass => exact (execSelfTestPass_moves ..).sound
  case selfTestFail => exact (execSelfTestFail_moves ..).sound
  case firmwareVerify => exact (hostWrite_moves (ht := verifyStaged_mem ..) ..).sound
  case firmwareVerifyDone => exact (execFirmwareVerifyDone_moves ..).sound
  case getVersion => exact (execGetVersion_moves ..).sound
  case getCapabilities => exact (execGetCapabilities_moves ..).sound
  case negotiateAlgorithms => exact (execNegotiateAlgorithms_moves ..).sound
  case getMeasurements => exact (execGetMeasurements_moves ..).sound
  case spdmUnsupported => exact (execSpdmUnsupported_moves ..).sound
  case eccCorrected => exact execEccCorrected_sound ..
  case eccUncorrectable => exact execEccUncorrectable_sound ..
  case hbmScrub => exact (execHbmScrub_moves ..).sound
  case eccCounterWrite => exact (hostWrite_moves (ht := writeCounter_mem ..) ..).sound
  case powerLimitWrite => exact (hostWrite_moves (ht := limitPower_mem ..) ..).sound
  case throttleSet => exact (execThrottleSet_moves ..).sound
  case throttleClear => exact (execThrottleClear_moves ..).sound
  case thermalShutdown => exact (execThermalShutdown_moves ..).sound
  case d3hotEnter => exact execD3hotEnter_sound ..
  case d3hotExit => exact (execD3hotExit_moves ..).sound
  case powerRemoval => exact execPowerRemoval_sound _ _
  case illegalInstruction => exact (execIllegalInstruction_answers ..).sound rfl
  case msixVectorUnmask => exact (hostWrite_moves (ht := unmask_mem ..) ..).sound
  case linkedContextEnd => exact (execLinkedContextEnd_moves ..).sound

/-- What a warp does not issue always has a next state. -/
theorem exec_next {i : Instr} {s : State} (h : s.cur ≠ none ∨ issues i = false) : ∃ t, exec i s = .next t := by
  have hs := exec_sound i s
  cases he : exec i s with
  | next t => exact ⟨t, rfl⟩
  | fault f =>
    obtain ⟨hc, hi⟩ : s.cur = none ∧ issues i = true := by rwa [he] at hs
    rcases h with h | h
    · exact absurd hc h
    · rw [hi] at h; cases h
  | refused r =>
    obtain ⟨hc, hi⟩ : s.cur = none ∧ issues i = true := by rwa [he] at hs
    rcases h with h | h
    · exact absurd hc h
    · rw [hi] at h; cases h

end Sys2Proof.Machine

open Sys2Proof Sys2Proof.Machine Sys2Proof.Claims

/-- Settles O46: every form and every step goes through an operation that has a next state once a warp issues. -/
theorem everyFormAnswersNext : Obligations.EveryFormAnswersNext := by
  unfold Obligations.EveryFormAnswersNext
  refine fun i s => ⟨fun c w hc hw => exec_next (.inl ?_), fun hr hi => exec_next (.inr ?_)⟩
  · rw [cur_eq hc hw]
    exact Option.some_ne_none _
  · unfold issues
    rw [hr]
    split
    · exact absurd rfl (hi _ _)
    · rfl
end

section
/-! Every turn keeps local memory in its canonical form (log entry 1). -/

namespace Sys2Proof.Machine

/-- Every next state of the outcome keeps the form of memory. -/
def KeepsForm (s : State) (o : Host.Outcome State Fault Refusal) : Prop := ∀ t, o = .next t → s.memWf → t.memWf

theorem keepsForm_next {s t : State} (h : t.mem = s.mem) : KeepsForm s (.next t) := by
  rintro _ ⟨rfl⟩
  exact memWf_of_mem h

/-- An outcome on a state with the same memory. -/
theorem KeepsForm.of_mem {s t : State} {o : Host.Outcome State Fault Refusal} (h : KeepsForm t o) (hm : t.mem = s.mem) :
    KeepsForm s o := fun u hu hs => h u hu (memWf_of_mem hm hs)

theorem exec_keepsForm (i : Instr) (s : State) : KeepsForm s (exec i s) := by
  intro t ht
  have h := exec_sound i s
  rw [ht] at h
  exact h

/-! The grant. -/

theorem overwrite_keeps (s : State) (c : Issue) (p : Piece) : KeepsForm s (exec p.instr (s.overwrite c p)) :=
  (exec_keepsForm _ _).of_mem (overwrite_mem ..)

theorem runPieces_keepsForm (s : State) (ps : List Piece) : KeepsForm s (s.runPieces ps) := by
  induction ps generalizing s with
  | nil => exact keepsForm_next rfl
  | cons p ps ih =>
    rw [State.runPieces]
    split
    · exact keepsForm_next rfl
    · next c _ =>
      simp only
      have hx := overwrite_keeps { s with issue := some { c with wslot := p.slot, word := p.word } }
        { c with wslot := p.slot, word := p.word } p
      split
      · next s' he =>
        have hs' := hx s' he
        split
        · split
          · rintro _ ⟨rfl⟩ hs
            exact hs' hs
          · exact fun t ht hs => ih s' t ht (hs' hs)
        · exact fun t ht hs => ih s' t ht (hs' hs)
      · next o _ => exact hx

theorem resumeChain_keepsForm (s : State) (u k : Nat) : KeepsForm s (s.resumeChain u k) := by
  unfold State.resumeChain
  split
  · exact keepsForm_next rfl
  · split
    · exact keepsForm_next rfl
    · exact (runPieces_keepsForm _ _).of_mem rfl

theorem issueGroup_keepsForm (s : State) (w : Warp) (k : Nat) (g : Group) : KeepsForm s (s.issueGroup w k g) := by
  unfold State.issueGroup
  simp only
  refine (runPieces_keepsForm _ _).of_mem ?_
  split <;> rfl

theorem issueReject_keepsForm (s : State) (w : Warp) (k : Nat) (r : Reject) : KeepsForm s (s.issueReject w k r) :=
  (exec_keepsForm (.illegalInstruction _ _) _).of_mem rfl

theorem grant_keepsForm (s : State) (u k : Nat) : KeepsForm s (s.grant u k) := by
  have hf := fun w => fetch_mem s w k
  unfold State.grant
  split
  · exact keepsForm_next rfl
  next w _ =>
  split
  · exact keepsForm_next rfl
  split
  · next he => exact keepsForm_next ((fetchFault_mem ..).trans (of_pair he (hf w)))
  · next he => exact keepsForm_next (of_pair he (hf w))
  · next he =>
    have hm := of_pair he (hf w)
    split
    · exact (exec_keepsForm (.timerTrap u k) _).of_mem hm
    · exact (issueReject_keepsForm _ _ _ _).of_mem hm
  · next he =>
    have hm := of_pair he (hf w)
    split
    · exact keepsForm_next rfl
    · simp only
      split
      · next hw => exact keepsForm_next ((withheld_mem hw).trans hm)
      · split
        · exact (exec_keepsForm (.timerTrap u k) _).of_mem hm
        · exact (issueGroup_keepsForm _ _ _ _).of_mem hm

theorem laneGrant_keepsForm (s : State) (u k : Nat) (busy : List (Nat × Nat)) : KeepsForm s (s.laneGrant u k busy) := by
  unfold State.laneGrant
  split
  · exact keepsForm_next rfl
  simp only
  split
  · exact keepsForm_next rfl
  split
  · next hg =>
    have hs := grant_keepsForm s u k _ hg
    rintro _ ⟨rfl⟩ h
    split
    · exact h
    · exact hs h
  · exact grant_keepsForm s u k

/-! The moves of the agents. -/

/-- A move that keeps the form of memory wherever it is made. -/
def SafeMove (m : Move) : Prop := ∀ s, KeepsForm s (m s)

/-- A list of such moves. -/
def Safe (l : List Move) : Prop := ∀ m ∈ l, SafeMove m

theorem safe_nil : Safe [] := List.forall_mem_nil _

theorem safe_cons {m : Move} {l : List Move} (hm : SafeMove m) (hl : Safe l) : Safe (m :: l) :=
  List.forall_mem_cons.2 ⟨hm, hl⟩

theorem safe_append {l₁ l₂ : List Move} (h₁ : Safe l₁) (h₂ : Safe l₂) : Safe (l₁ ++ l₂) :=
  List.forall_mem_append.2 ⟨h₁, h₂⟩

theorem safe_map {β : Type} {f : β → Move} (l : List β) (h : ∀ x, SafeMove (f x)) : Safe (l.map f) :=
  List.forall_mem_map.2 fun x _ => h x

theorem safe_flatMap {β : Type} {f : β → List Move} (l : List β) (h : ∀ x, Safe (f x)) : Safe (l.flatMap f) :=
  fun m hm => by
    obtain ⟨x, -, hx⟩ := List.mem_flatMap.1 hm
    exact h x m hx

theorem safe_exec (l : List Instr) : Safe (l.map exec) := safe_map l exec_keepsForm

theorem accessMoves_safe (s : State) (w : Warp) : Safe (s.accessMoves w) := by
  refine safe_flatMap _ fun a => safe_cons (exec_keepsForm (.memoryReply w.uid a.id)) ?_
  have hp := exec_keepsForm (.popServe w.uid a.id)
  split
  · exact safe_cons hp (safe_map _ fun v => exec_keepsForm (.steal w.uid a.id v))
  · exact safe_cons hp safe_nil
  · exact safe_cons hp safe_nil
  · exact safe_nil

theorem walkMoves_safe (w : Warp) : Safe w.walkMoves :=
  safe_append (safe_map _ fun a => exec_keepsForm (.translationWalk w.uid a.id))
    (safe_map _ fun e => exec_keepsForm (.translationWalk w.uid e.id))

theorem warpMoves_safe (s : State) (w : Warp) : Safe (s.warpMoves w) := by
  refine safe_append (safe_append (safe_append (safe_append (accessMoves_safe s w) ?_) ?_) ?_) ?_
  · exact safe_flatMap _ fun k => safe_exec
      [.trapEntry w.uid k, .walkFault w.uid k, .regionBoundary w.uid k, .mxacqBind w.uid k, .mxrelReturn w.uid k,
        .mxownFlip w.uid k, .mxwaitReport w.uid k, .mxRowAccess w.uid k, .quietWaitRelease w.uid k]
  · exact safe_map _ fun b => exec_keepsForm (.barrierPhaseComplete w.uid b.1 b.2)
  · split
    · next x _ => exact safe_exec [.xswPairComplete w.uid x.partner]
    · exact safe_nil
  · exact safe_exec
      [.storeEntryPerform w.uid, .pushComplete w.uid, .directPacketSend w.uid, .directReply w.uid, .fenceComplete w.uid,
        .cacheMaintComplete w.uid, .fenceXpComplete w.uid, .lnchRecordRead w.uid, .switchMarkerRelease w.uid,
        .grantCountRotation w.uid, .spillRestore w.uid, .warpEnd w.uid]

theorem coreMoves_safe (k : Nat) (c : Core) : Safe (coreMoves k c) := by
  refine safe_append (safe_append (safe_cons (exec_keepsForm (.l1Fill k)) ?_) ?_) ?_
  · exact safe_map _ fun p => exec_keepsForm (.coalesceRequestSend (16 * k + p.1))
  · exact safe_flatMap _ fun p => safe_exec [.allocationRelease (16 * k + p.1), .laneSpill (16 * k + p.1)]
  · exact safe_flatMap _ fun e => safe_exec
      [.copyLineOperation k e.num, .copyTranslationFault k e.num, .copyRetire k e.num]

theorem clusterMoves_safe (s : State) (k : Nat) (c : Cluster) : Safe (s.clusterMoves k c) := by
  refine safe_append (safe_append ?_ ?_) ?_
  · exact safe_exec [.mxPassSelect k, .mxStep k, .mxPassComplete k, .mxzeroRun k, .burstEnd k, .spoilRefill k]
  · exact safe_flatMap _ fun i => safe_exec [.qdCommandServe k i, .qdStreamFault k i]
  · split
    · exact safe_flatMap _ fun t => safe_exec [.tokenArrive (clusterDie k) t.1, .tokenIdleMove (clusterDie k) t.1]
    · exact safe_nil

theorem memoryMoves_safe (s : State) : Safe s.memoryMoves := by
  refine safe_append (safe_append (safe_append (safe_append (safe_append ?_ ?_) ?_) ?_) ?_) ?_
  · exact safe_flatMap _ fun p => safe_append (safe_map _ fun i => exec_keepsForm (.homeSliceServe p.1 i))
      (safe_exec [.l2MemoryReply p.1])
  · exact safe_map _ fun p => exec_keepsForm (.baseDieService p.1)
  · exact safe_map _ fun i => exec_keepsForm (.flitRoute i)
  · split
    · exact safe_nil
    · exact safe_flatMap _ fun l => safe_exec [.linkWake l.1, .linkActive l.1]
  · exact safe_map _ fun r => exec_keepsForm (.pcieCompletion r.tag 0)
  · exact safe_map _ fun i s => keepsForm_next (land_mem s i)

theorem engineMoves_safe (s : State) : Safe s.engineMoves := by
  refine safe_append (safe_append (safe_append (safe_append ?_ ?_) ?_) ?_) ?_
  · exact safe_flatMap _ (warpMoves_safe s)
  · exact safe_flatMap _ fun p => coreMoves_safe p.1 p.2
  · exact safe_map _ fun p s => resumeChain_keepsForm s p.1.uid p.1.slot
  · exact safe_flatMap _ fun p => clusterMoves_safe s p.1 p.2
  · exact safe_flatMap _ fun q => safe_exec [.floorWave q.ctx q.n, .terminationPass q.ctx q.n]

theorem chanMoves_safe (s : State) (k : Nat) : Safe (s.chanMoves k) :=
  safe_append (safe_exec [.graceExpiry k, .deadlineExpiry k, .gangRestore k])
    (safe_flatMap _ fun x => safe_exec
      [.stopCopyEngine k x.1, .stopCoordinateEngine k x.1, .stopWarps k x.1, .stopMatrixEngine k x.1, .stopFlushSave k x.1])

theorem bootMoves_safe (s : State) : Safe s.bootMoves := by
  unfold State.bootMoves
  split
  · exact safe_exec [.bootVerify]
  · split
    · exact safe_map _ fun fn => exec_keepsForm (.selfTestPass fn)
    · exact safe_nil

theorem systemMoves_safe (s : State) : Safe s.systemMoves := by
  refine safe_append (safe_append (safe_append (safe_append (safe_append (bootMoves_safe s) ?_) ?_) ?_) ?_) ?_
  · refine safe_flatMap _ fun q => ?_
    split
    · exact safe_exec [.headRecordRead q, .waitSignalRead q]
    · exact safe_nil
  · exact safe_exec [.placementDecision]
  · exact safe_map _ fun l => exec_keepsForm (.launchComplete l.id)
  · exact safe_exec [.faultRecordWrite, .invalidateDone, .heldWriteTake, .firmwareVerifyDone]
  · exact safe_flatMap _ (chanMoves_safe s)

theorem grantMoves_safe (s : State) : Safe s.grantMoves :=
  safe_flatMap _ fun _ => safe_map _ fun q s => laneGrant_keepsForm s q.1 q.2 []

/-! What the agents choose. -/

theorem firstMove_keepsForm {s : State} {l : List Move} {o : Host.Outcome State Fault Refusal} (hl : Safe l)
    (h : s.firstMove l = some o) : KeepsForm s o := by
  obtain ⟨m, hm, ho⟩ := firstSome_eq_some h
  have hk := hl m hm s
  split at ho
  · split at ho
    · cases ho
    · next hs _ => cases ho; rwa [hs] at hk
  · cases ho; exact hk

theorem firstOf_keepsForm {s : State} {l : List (State → List Move)} {o : Host.Outcome State Fault Refusal}
    (hl : ∀ f ∈ l, ∀ s, Safe (f s)) (h : s.firstOf l = some o) : KeepsForm s o := by
  obtain ⟨f, hf, ho⟩ := firstSome_eq_some h
  exact firstMove_keepsForm (hl f hf s) ho

theorem pick_keepsForm {s : State} {o : Host.Outcome State Fault Refusal} (h : s.pick = some o) : KeepsForm s o := by
  have hlanes : ∀ b : Bool, ∀ f ∈ (if b then [] else [State.grantMoves]), ∀ s, Safe (f s) := fun b f hf s => by
    cases b with
    | true => cases hf
    | false => rw [List.mem_singleton.1 hf]; exact grantMoves_safe s
  have hwalks : ∀ s : State, Safe (s.warps.flatMap Warp.walkMoves) := fun s => safe_flatMap _ walkMoves_safe
  refine firstOf_keepsForm ?_ h
  generalize (s.hbm.any fun p => p.2.came.isSome) = b at h ⊢
  -- in each turn every list of moves has its place, the lanes' among them
  split
  all_goals
    simp only [List.forall_mem_append, List.forall_mem_cons, memoryMoves_safe, engineMoves_safe, systemMoves_safe, hwalks,
      List.not_mem_nil, false_implies, implies_true, true_and, and_true]
    exact hlanes b

theorem auto_keepsForm (s : State) : KeepsForm s s.auto := by
  unfold State.auto
  cases h : s.pick with
  | none => exact keepsForm_next rfl
  | some o => exact pick_keepsForm h

/-! The turn. -/

theorem turn_keepsForm (s : State) : KeepsForm s s.turn := by
  unfold State.turn
  split
  · exact auto_keepsForm s
  · split
    · exact keepsForm_next rfl
    · exact (exec_keepsForm _ _).of_mem rfl
  · exact keepsForm_next (land_mem ..)
  · exact keepsForm_next (configWrite_mem ..)
  · simp only
    split
    · exact (resumeChain_keepsForm _ _ _).of_mem rfl
    · exact (laneGrant_keepsForm _ _ _ _).of_mem rfl

theorem held_keepsForm {s : State} {o : Host.Outcome State Fault Refusal} (h : KeepsForm s o) : KeepsForm s (held s o) := by
  unfold held
  split
  · split
    · exact keepsForm_next rfl
    · exact h
  · exact h

theorem noHole_keepsForm {s : State} {o : Host.Outcome State Fault Refusal} (h : KeepsForm s o) : KeepsForm s (noHole o) := by
  unfold noHole
  split
  · split
    · exact h
    · intro t ht; cases ht
  · exact h

theorem step_keepsForm (s : State) : KeepsForm s (step s) :=
  (noHole_keepsForm (held_keepsForm (turn_keepsForm s.tick))).of_mem (tick_mem s)

end Sys2Proof.Machine

open Sys2Proof Sys2Proof.Machine Sys2Proof.Claims

/-- Settles O48: only the base dies, D3hot and the reset write local memory, and each keeps its form. -/
theorem stepKeepsMemoryForm : Obligations.StepKeepsMemoryForm := by
  unfold Obligations.StepKeepsMemoryForm
  exact fun s t hs ht => step_keepsForm s t ht hs
end

section
/-! Floating-point codes as numbers (R33, R34). -/

namespace Sys2Proof.Machine

open Sys2Proof.Claims

/-! Signed magnitudes. -/

theorem abs_dyadic (n : Bool) (k : Nat) (x : Int) : |dyadic n k x| = k * 2 ^ x := by
  have h : (0 : ℚ) ≤ (k : ℚ) * 2 ^ x := by positivity
  cases n <;> simp [dyadic, abs_mul, abs_of_pos (zpow_pos (two_pos (α := ℚ)) x)]

theorem dyadic_eq (n : Bool) (k : Nat) (x : Int) : dyadic n k x = (if n then -1 else 1) * (k * 2 ^ x : ℚ) := by
  rw [dyadic, mul_assoc]

theorem dyadic_eq_zero {n : Bool} {k : Nat} {x : Int} : dyadic n k x = 0 ↔ k = 0 := by
  rw [← abs_eq_zero, abs_dyadic]
  simp [zpow_ne_zero]

theorem dyadic_neg_iff {n : Bool} {k : Nat} {x : Int} (hk : k ≠ 0) : dyadic n k x < 0 ↔ n = true := by
  have h : (0 : ℚ) < (k : ℚ) * 2 ^ x := by positivity
  cases n <;> simp [dyadic_eq] <;> linarith

/-! Codes. -/

/-- The significand of a magnitude code, its exponent and its value. They go on upward beyond the largest value, as the
grid of R41 does. -/
def Fp.sig (f : Fp) (c : Nat) : Nat := c - (c / 2 ^ f.f - 1) * 2 ^ f.f
def Fp.exp (f : Fp) (c : Nat) : Int := ((c / 2 ^ f.f - 1 : Nat) : Int) + 1 - f.bias - f.f
def Fp.mag (f : Fp) (c : Nat) : ℚ := f.sig c * 2 ^ f.exp c

theorem one_le_f (f : Fp) : 1 ≤ f.f := by cases f <;> decide

theorem largest_lt (f : Fp) : f.largest < 2 ^ (f.e + f.f) := by cases f <;> decide

theorem two_pow_le_largest (f : Fp) : 2 ^ f.f ≤ f.largest := by cases f <;> decide

/-- The codes above the largest value are those of infinities and NaNs. -/
theorem largest_succ (f : Fp) :
    f.largest + 1 = if f.infs then (2 ^ f.e - 1) * 2 ^ f.f else if f = .e4m3 then 2 ^ (f.e + f.f) - 1 else 2 ^ (f.e + f.f) := by
  cases f <;> decide

/-- The magnitude of a code: its bits below the sign. -/
def Fp.magBits (f : Fp) (c : Nat) : Nat := c % 2 ^ (f.e + f.f)

theorem bit_width (f : Fp) (c : Nat) : bit (c % 2 ^ f.width) (f.e + f.f) = signOf f c := by
  have h : f.width = f.e + f.f + 1 := by rw [Fp.width]; omega
  rw [bit, ← Nat.testBit_eq_decide_div_mod_eq, Nat.testBit_mod_two_pow, h]
  simp [signOf]

theorem fld_width (f : Fp) (c : Nat) : fld (c % 2 ^ f.width) f.f f.e = f.magBits c / 2 ^ f.f := by
  have h : f.width = f.f + (f.e + 1) := by rw [Fp.width]; omega
  rw [fld, Fp.magBits, h, pow_add 2 f.f, Nat.mod_mul_right_div_self, Nat.mod_mod_of_dvd _ (pow_dvd_pow 2 (by omega)),
    add_comm f.e, pow_add 2 f.f, Nat.mod_mul_right_div_self]

theorem frac_width (f : Fp) (c : Nat) : c % 2 ^ f.width % 2 ^ f.f = f.magBits c % 2 ^ f.f := by
  rw [Fp.magBits, Nat.mod_mod_of_dvd _ (pow_dvd_pow 2 (by rw [Fp.width]; omega)), Nat.mod_mod_of_dvd _ (pow_dvd_pow 2 (by omega))]

theorem sig_of_div_eq_zero {f : Fp} {c : Nat} (h : c / 2 ^ f.f = 0) : f.sig c = c % 2 ^ f.f := by
  rw [Fp.sig, h, Nat.mod_eq_of_lt ((Nat.div_eq_zero_iff_lt (by positivity)).1 h)]
  simp

theorem sig_of_div_ne_zero {f : Fp} {c : Nat} (h : c / 2 ^ f.f ≠ 0) : f.sig c = 2 ^ f.f + c % 2 ^ f.f := by
  obtain ⟨k, hk⟩ := Nat.exists_eq_succ_of_ne_zero h
  have := Nat.div_add_mod c (2 ^ f.f)
  rw [hk] at this
  rw [Fp.sig, hk, Nat.succ_eq_add_one, Nat.add_sub_cancel, mul_comm k]
  rw [Nat.succ_eq_add_one, mul_add] at this
  omega

/-- A code up to the largest value is a finite value; the codes above are an infinity or a NaN (R33 to R35). -/
theorem decode_of_le {f : Fp} {c : Nat} (h : f.magBits c ≤ f.largest) :
    f.decode c = .fin (signOf f c) (f.sig (f.magBits c)) (f.exp (f.magBits c)) := by
  have hs := largest_succ f
  have hp : 0 < 2 ^ f.f := by positivity
  have hdm := Nat.div_add_mod (f.magBits c) (2 ^ f.f)
  simp only [Fp.decode, bit_width, fld_width, frac_width]
  rw [if_neg, if_neg]
  · split
    · next h0 => rw [sig_of_div_eq_zero h0, Fp.exp, h0]; simp
    · next h0 =>
      rw [sig_of_div_ne_zero h0, Fp.exp]
      generalize f.magBits c / 2 ^ f.f = E at h0
      congr 1
      omega
  · rintro he
    simp only [Bool.and_eq_true, beq_iff_eq] at he
    obtain ⟨⟨rfl, hE⟩, hT⟩ := he
    rw [hE, hT] at hdm
    simp [Fp.f, Fp.largest] at hdm h
    omega
  · intro he
    simp only [Bool.and_eq_true, beq_iff_eq] at he
    rw [if_pos he.1, ← he.2] at hs
    have := Nat.mul_div_le (f.magBits c) (2 ^ f.f)
    rw [mul_comm] at this
    omega

theorem decode_of_gt {f : Fp} {c : Nat} (h : f.largest < f.magBits c) :
    f.decode c = if f.infs ∧ f.magBits c = f.largest + 1 then .inf (signOf f c)
      else .nan (decide (f.infs = true ∧ f.magBits c % 2 ^ f.f < 2 ^ (f.f - 1))) := by
  have hs := largest_succ f
  have hp : 0 < 2 ^ f.f := by positivity
  have hlt : f.magBits c < 2 ^ (f.e + f.f) := Nat.mod_lt _ (by positivity)
  simp only [Fp.decode, bit_width, fld_width, frac_width]
  by_cases hi : f.infs = true
  · rw [if_pos hi] at hs
    have hE : f.magBits c / 2 ^ f.f = 2 ^ f.e - 1 := by
      rw [pow_add] at hlt
      have h1 : f.magBits c / 2 ^ f.f < 2 ^ f.e := (Nat.div_lt_iff_lt_mul hp).2 hlt
      have h2 : 2 ^ f.e - 1 ≤ f.magBits c / 2 ^ f.f := (Nat.le_div_iff_mul_le hp).2 (by omega)
      omega
    have hT : f.magBits c % 2 ^ f.f = 0 ↔ f.magBits c = f.largest + 1 := by
      have := Nat.div_add_mod (f.magBits c) (2 ^ f.f)
      rw [hE, mul_comm] at this
      omega
    simp only [hi, hE, beq_self_eq_true, Bool.and_self, if_true, hT, true_and]
  · rw [if_neg hi] at hs
    by_cases he : f = .e4m3
    · subst he
      have : Fp.e4m3.magBits c = 127 := by simp [Fp.largest, Fp.e, Fp.f] at h hlt; omega
      simp [this, Fp.infs, Fp.f]
    · rw [if_neg he] at hs
      omega

/-- The finite values of a format are those of the codes up to the largest. -/
theorem finQ_decode_iff {f : Fp} {c : Nat} {y : ℚ} :
    finQ (f.decode c) = some y ↔ f.magBits c ≤ f.largest ∧ y = (if signOf f c then -1 else 1) * f.mag (f.magBits c) := by
  by_cases h : f.magBits c ≤ f.largest
  · rw [decode_of_le h]
    simp only [finQ, dyadic_eq, Fp.mag, h, true_and, Option.some.injEq]
    exact eq_comm
  · rw [decode_of_gt (by omega)]
    split <;> simp [finQ, h]

theorem magBits_signed (f : Fp) (n : Bool) {c : Nat} (h : c < 2 ^ (f.e + f.f)) : f.magBits (f.signed n c) = c := by
  rw [Fp.magBits, Fp.signed, Nat.mul_add_mod', Nat.mod_eq_of_lt h]

theorem signOf_signed (f : Fp) (n : Bool) {c : Nat} (h : c < 2 ^ (f.e + f.f)) : signOf f (f.signed n c) = n := by
  rw [signOf, Fp.signed, mul_comm, Nat.testBit_two_pow_mul_add _ h]
  cases n <;> simp [b2n]

theorem signed_lt (f : Fp) (n : Bool) {c : Nat} (h : c < 2 ^ (f.e + f.f)) : f.signed n c < 2 ^ f.width := by
  have h2 : (2 : Nat) ^ f.width = 2 * 2 ^ (f.e + f.f) := by rw [Fp.width, add_assoc, pow_add, pow_one]
  have h1 : b2n n ≤ 1 := by cases n <;> decide
  have := Nat.mul_le_mul_right (2 ^ (f.e + f.f)) h1
  rw [Fp.signed, h2]
  omega

/-- A code up to the largest value, with a sign, is that value. -/
theorem codes_signed {f : Fp} {n : Bool} {c : Nat} (h : c ≤ f.largest) (h0 : ¬(f = .e2m1 ∧ f.mag c = 0)) :
    Codes f n ((if n then -1 else 1) * f.mag c) (f.signed n c) := by
  have hlt := h.trans_lt (largest_lt f)
  refine ⟨finQ_decode_iff.2 (by rw [magBits_signed f n hlt, signOf_signed f n hlt]; exact ⟨h, rfl⟩), signed_lt f n hlt, ?_⟩
  rw [signOf_signed f n hlt]
  have : (f == .e2m1 && (if n then -1 else 1) * f.mag c == (0 : ℚ)) = false := by
    rw [Bool.eq_false_iff]
    simp only [ne_eq, Bool.and_eq_true, beq_iff_eq, not_and]
    intro hf hm
    refine h0 ⟨hf, ?_⟩
    cases n <;> simpa using hm
  rw [this]
  simp

/-! The order of codes. -/

/-- Step `q` of the grid that begins at code `G` × 2^f. -/
theorem mag_grid (f : Fp) {G q : Nat} (hq : q ≤ 2 ^ (f.f + 1)) (hG : G = 0 ∨ 2 ^ f.f ≤ q) :
    f.mag (G * 2 ^ f.f + q) = q * 2 ^ ((G : Int) + 1 - f.bias - f.f) := by
  have hp : 0 < 2 ^ f.f := by positivity
  have h2 : (2 : Nat) ^ (f.f + 1) = 2 * 2 ^ f.f := by rw [pow_succ]; ring
  have hdiv : (G * 2 ^ f.f + q) / 2 ^ f.f = G + q / 2 ^ f.f := by rw [mul_comm, Nat.mul_add_div hp]
  rw [Fp.mag, Fp.sig, Fp.exp, hdiv]
  rcases lt_or_ge q (2 ^ f.f) with h | h
  · obtain rfl : G = 0 := hG.resolve_right (by omega)
    simp [Nat.div_eq_of_lt h]
  · rcases hq.lt_or_eq with hlt | rfl
    · have : q / 2 ^ f.f = 1 := by rw [Nat.div_eq_iff hp]; omega
      simp [this]
    · have : 2 ^ (f.f + 1) / 2 ^ f.f = 2 := by rw [h2, Nat.mul_div_cancel _ hp]
      have hs : G * 2 ^ f.f + 2 ^ (f.f + 1) - (G + 2 - 1) * 2 ^ f.f = 2 ^ f.f := by
        rw [h2, show G + 2 - 1 = G + 1 by omega, add_mul]; omega
      have he : ((G + 2 - 1 : Nat) : Int) + 1 - f.bias - f.f = 1 + ((G : Int) + 1 - f.bias - f.f) := by omega
      rw [this, hs, he, zpow_add₀ two_ne_zero]
      push_cast
      ring

/-- Values rise with their codes. -/
theorem mag_strictMono (f : Fp) : StrictMono f.mag := by
  refine strictMono_nat_of_lt_succ fun c => ?_
  have hdm := Nat.div_add_mod c (2 ^ f.f)
  have hlt := Nat.mod_lt c (show 0 < 2 ^ f.f by positivity)
  have h2 : (2 : Nat) ^ (f.f + 1) = 2 * 2 ^ f.f := by rw [pow_succ]; ring
  obtain ⟨G, q, hc, hq, hG⟩ : ∃ G q, c = G * 2 ^ f.f + q ∧ q < 2 ^ (f.f + 1) ∧ (G = 0 ∨ 2 ^ f.f ≤ q) := by
    rcases Nat.eq_zero_or_eq_succ_pred (c / 2 ^ f.f) with h0 | h0
    · exact ⟨0, c, by simp, by rw [h0] at hdm; omega, .inl rfl⟩
    · refine ⟨(c / 2 ^ f.f).pred, 2 ^ f.f + c % 2 ^ f.f, ?_, by omega, .inr (by omega)⟩
      rw [h0, Nat.succ_eq_add_one, mul_add, mul_comm] at hdm
      omega
  rw [hc, add_assoc, mag_grid f hq.le hG, mag_grid f hq (hG.imp_right (by omega))]
  gcongr
  omega

theorem mag_zero (f : Fp) : f.mag 0 = 0 := by
  have := mag_grid f (G := 0) (q := 0) (by positivity) (.inl rfl)
  simpa using this

theorem topQ_eq (f : Fp) : topQ f = f.mag f.largest := by
  have hlt := largest_lt f
  have hm : f.magBits f.largest = f.largest := Nat.mod_eq_of_lt hlt
  have hs : signOf f f.largest = false := Nat.testBit_lt_two_pow hlt
  rw [topQ, finQ_decode_iff.2 ⟨hm.le, rfl⟩, hm, hs]
  simp

end Sys2Proof.Machine
end

section
/-! Rounding to an integer (R40). -/

namespace Sys2Proof.Machine

open Sys2Proof.Claims

/-- The floor and the ceiling of ±(q + r / 2^sh). -/
theorem floor_ceil_quot (neg : Bool) (q : Nat) {r sh : Nat} (hr : r < 2 ^ sh) :
    let y : ℚ := (if neg then -1 else 1) * (q + r / 2 ^ sh)
    ⌊y⌋ = (if neg then -(q : Int) - b2n (r != 0) else q) ∧ ⌈y⌉ = (if neg then -(q : Int) else q + b2n (r != 0)) := by
  intro y
  have h1 : (r : ℚ) / 2 ^ sh < 1 := by rw [div_lt_one (by positivity)]; exact_mod_cast hr
  have h2 : ((r : ℚ) / 2 ^ sh = 0 ∧ b2n (r != 0) = 0) ∨ ((0 : ℚ) < r / 2 ^ sh ∧ b2n (r != 0) = 1) := by
    rcases Nat.eq_zero_or_pos r with rfl | h0
    · exact .inl ⟨by simp, rfl⟩
    · exact .inr ⟨by positivity, by simp [b2n, h0.ne']⟩
  rw [Int.floor_eq_iff, Int.ceil_eq_iff]
  rcases h2 with ⟨h2, hb⟩ | ⟨h2, hb⟩ <;> rw [hb] <;> cases neg <;>
    simp only [y, Bool.false_eq_true, if_true, if_false] <;> push_cast <;> refine ⟨⟨?_, ?_⟩, ?_, ?_⟩ <;> linarith

/-- To nearest: the fraction is compared with 1/2 as 2r is with 2^sh. -/
theorem roundQ_rn_quot (neg : Bool) {q r sh : Nat} (hr : r < 2 ^ sh) :
    roundQ .rn ((if neg then -1 else 1) * (q + r / 2 ^ sh : ℚ)) =
      (if neg then -1 else 1) * ((q + b2n (roundUp .rn neg q r sh) : Nat) : Int) := by
  have hf := (floor_ceil_quot neg q hr).1
  have hp : (0 : ℚ) < 2 ^ sh := by positivity
  have hlt : (r : ℚ) / 2 ^ sh < 1 / 2 ↔ 2 * r < 2 ^ sh := by
    rw [div_lt_div_iff₀ hp two_pos]; norm_cast; omega
  have heq : (r : ℚ) / 2 ^ sh = 1 / 2 ↔ 2 * r = 2 ^ sh := by
    rw [div_eq_div_iff hp.ne' two_ne_zero]; norm_cast; omega
  have hgt : 1 / 2 < (r : ℚ) / 2 ^ sh ↔ 2 ^ sh < 2 * r := by
    rw [div_lt_div_iff₀ two_pos hp]; norm_cast; omega
  have hup : roundUp .rn neg q r sh = decide (2 ^ sh < 2 * r ∨ 2 * r = 2 ^ sh ∧ q % 2 = 1) := by
    simp [roundUp, Bool.decide_or, Bool.decide_and, beq_eq_decide]
  have hpn : 0 < 2 ^ sh := by positivity
  rw [hup, b2n, roundQ, hf]
  cases neg with
  | false =>
    have hx : (if false = true then -1 else 1) * (q + r / 2 ^ sh : ℚ) - ((q : Int) : ℚ) = r / 2 ^ sh := by simp
    simp only [Bool.false_eq_true, if_false] at hx ⊢
    simp only [hx, hlt, heq, decide_eq_true_eq]
    split <;> split <;> omega
  | true =>
    rcases Nat.eq_zero_or_pos r with rfl | h0
    · simp [b2n, hpn.ne]
    · have hb : b2n (r != 0) = 1 := by simp [b2n, h0.ne']
      have hx : (if true = true then -1 else 1) * (q + r / 2 ^ sh : ℚ) - ((-(q : Int) - (1 : Nat) : Int) : ℚ) = 1 - r / 2 ^ sh := by
        push_cast; simp; ring
      have h1 : (1 : ℚ) - r / 2 ^ sh < 1 / 2 ↔ 2 ^ sh < 2 * r := by rw [← hgt]; constructor <;> intro <;> linarith
      have h2 : (1 : ℚ) - r / 2 ^ sh = 1 / 2 ↔ 2 * r = 2 ^ sh := by rw [← heq]; constructor <;> intro <;> linarith
      simp only [if_true, hb] at hx ⊢
      simp only [hx, h1, h2, decide_eq_true_eq]
      split <;> split <;> omega

/-- `roundUp` decides what the mode asks for. -/
theorem roundQ_quot (m : Rm) (neg : Bool) {q r sh : Nat} (hr : r < 2 ^ sh) :
    roundQ m ((if neg then -1 else 1) * (q + r / 2 ^ sh : ℚ)) =
      (if neg then -1 else 1) * ((q + b2n (roundUp m neg q r sh) : Nat) : Int) := by
  obtain ⟨hf, hc⟩ := floor_ceil_quot neg q hr
  have hp : (0 : ℚ) < 2 ^ sh := by positivity
  have h1 : (r : ℚ) / 2 ^ sh < 1 := by rw [div_lt_one hp]; exact_mod_cast hr
  have h0 : (0 : ℚ) ≤ r / 2 ^ sh := by positivity
  cases m with
  | rz =>
    cases neg with
    | false =>
      have : (0 : ℚ) ≤ (if false = true then -1 else 1) * (q + r / 2 ^ sh) := by simp; positivity
      rw [roundQ, if_pos this, hf]; simp [roundUp, b2n]
    | true =>
      by_cases h : (0 : ℚ) ≤ (if true = true then -1 else 1) * (q + r / 2 ^ sh)
      · have hq : (r : ℚ) / 2 ^ sh = 0 := by simp at h; linarith [Nat.cast_nonneg (α := ℚ) q]
        have hr0 : r = 0 := by simpa [hp.ne'] using hq
        rw [roundQ, if_pos h, hf]; simp [roundUp, b2n, hr0]
      · rw [roundQ, if_neg h, hc]; simp [roundUp, b2n]
  | ru => rw [roundQ, hc]; cases neg <;> simp [roundUp, b2n]
  | rd => rw [roundQ, hf]; cases neg <;> simp [roundUp, b2n]; ring
  | rn =>
    exact roundQ_rn_quot neg hr

theorem roundUp_zero (m : Rm) (neg : Bool) (q sh : Nat) : roundUp m neg q 0 sh = false := by
  cases m <;> simp [roundUp, (Nat.two_pow_pos sh).ne]

/-- Rounding changes nothing just where there is no remainder. -/
theorem roundQ_quot_eq_iff (m : Rm) (neg : Bool) {q r sh : Nat} (hr : r < 2 ^ sh) :
    (roundQ m ((if neg then -1 else 1) * (q + r / 2 ^ sh : ℚ)) : ℚ) = (if neg then -1 else 1) * (q + r / 2 ^ sh : ℚ) ↔ r = 0 := by
  have hne : (if neg then -1 else 1 : ℚ) ≠ 0 := by cases neg <;> simp
  have h1 : (r : ℚ) / 2 ^ sh < 1 := by rw [div_lt_one (by positivity)]; exact_mod_cast hr
  rw [roundQ_quot m neg hr]
  constructor
  · intro h
    push_cast at h
    have h := mul_left_cancel₀ hne h
    cases hu : roundUp m neg q r sh <;> rw [hu] at h <;> simp [b2n] at h
    · exact h.symm ▸ rfl
    · linarith
  · rintro rfl
    simp [roundUp_zero, b2n]

/-- Between two half-integers in a row nothing tells one value from another. -/
theorem roundQ_between {u v : ℚ} {j : Int} (hu : (j : ℚ) / 2 < u ∧ u < (j + 1) / 2) (hv : (j : ℚ) / 2 < v ∧ v < (j + 1) / 2) (m : Rm) :
    roundQ m u = roundQ m v := by
  -- the floor, the ceiling, the half and the sign are those of the interval
  have key : ∀ w : ℚ, (j : ℚ) / 2 < w ∧ w < (j + 1) / 2 →
      ⌊w⌋ = j / 2 ∧ ⌈w⌉ = j / 2 + 1 ∧ (w - (j / 2 : Int) < 1 / 2 ↔ j % 2 = 0) ∧ w - (j / 2 : Int) ≠ 1 / 2 ∧ (0 ≤ w ↔ 0 ≤ j) := by
    intro w ⟨h1, h2⟩
    have hj : (j : ℚ) = 2 * (j / 2 : Int) + (j % 2 : Int) := by exact_mod_cast (Int.mul_ediv_add_emod j 2).symm
    have hm : ((j % 2 : Int) : ℚ) = 0 ∧ j % 2 = 0 ∨ ((j % 2 : Int) : ℚ) = 1 ∧ j % 2 = 1 := by
      rcases Int.emod_two_eq_zero_or_one j with h | h
      · exact .inl ⟨by rw [h]; rfl, h⟩
      · exact .inr ⟨by rw [h]; rfl, h⟩
    rw [Int.floor_eq_iff, Int.ceil_eq_iff]
    refine ⟨⟨?_, ?_⟩, ⟨?_, ?_⟩, ⟨fun h => ?_, fun h => ?_⟩, fun h => ?_, fun h => ?_, fun h => ?_⟩
    · rcases hm with ⟨hm, -⟩ | ⟨hm, -⟩ <;> linarith
    · rcases hm with ⟨hm, -⟩ | ⟨hm, -⟩ <;> linarith
    · push_cast; rcases hm with ⟨hm, -⟩ | ⟨hm, -⟩ <;> linarith
    · push_cast; rcases hm with ⟨hm, -⟩ | ⟨hm, -⟩ <;> linarith
    · rcases hm with ⟨-, hm⟩ | ⟨hm, -⟩
      · exact hm
      · linarith
    · rcases hm with ⟨hm, -⟩ | ⟨-, hm⟩
      · linarith
      · omega
    · rcases hm with ⟨hm, -⟩ | ⟨hm, -⟩ <;> linarith
    · have : (-1 : ℚ) < j := by linarith
      have : (-1 : Int) < j := by exact_mod_cast this
      omega
    · have : (0 : ℚ) ≤ j := by exact_mod_cast h
      linarith
  obtain ⟨hf, hc, hlt, heq, h0⟩ := key u hu
  obtain ⟨hf', hc', hlt', heq', h0'⟩ := key v hv
  cases m <;> simp only [roundQ, hf, hc, hf', hc', hlt, heq, h0, hlt', heq', h0']

end Sys2Proof.Machine
end

section
/-! The one rounding function, and the grid (R41, R43, R44). -/

namespace Sys2Proof.Machine

open Sys2Proof.Claims

/-! The grid of a value. -/

theorem log_of_between {k : Nat} (hk : k ≠ 0) {x : Int} {a : ℚ} (hlo : k * 2 ^ x ≤ a) (hhi : a < (k + 1) * 2 ^ x) :
    Int.log 2 a = x + Nat.log2 k := by
  have h1 : 2 ^ Nat.log2 k ≤ k := Nat.log2_self_le hk
  have h2 : k + 1 ≤ 2 ^ (Nat.log2 k + 1) := Nat.lt_log2_self
  have hpos : (0 : ℚ) < a := lt_of_lt_of_le (by positivity) hlo
  refine le_antisymm (Int.lt_add_one_iff.1 ((Int.lt_zpow_iff_log_lt Nat.one_lt_two hpos).1 (hhi.trans_le ?_)))
    ((Int.zpow_le_iff_le_log Nat.one_lt_two hpos).1 (le_trans ?_ hlo))
  · rw [show x + (Nat.log2 k : Int) + 1 = ((Nat.log2 k + 1 : Nat) : Int) + x by push_cast; ring, Nat.cast_ofNat,
      zpow_add₀ two_ne_zero, zpow_natCast]
    gcongr
    exact_mod_cast h2
  · rw [add_comm, Nat.cast_ofNat, zpow_add₀ two_ne_zero, zpow_natCast]
    gcongr
    exact_mod_cast h1

theorem log_dyadic (n : Bool) {k : Nat} (hk : k ≠ 0) (x : Int) : Int.log 2 |dyadic n k x| = x + Nat.log2 k := by
  have : (0 : ℚ) < 2 ^ x := by positivity
  rw [abs_dyadic]
  exact log_of_between hk le_rfl (by linarith)

/-- Values between the same multiples of a power of two finer than the grid lie on one grid. -/
theorem gridExp_between {f : Fp} {k : Nat} {x : Int} {v w : ℚ} (hv : k * 2 ^ x < |v| ∧ |v| < (k + 1) * 2 ^ x)
    (hw : k * 2 ^ x < |w| ∧ |w| < (k + 1) * 2 ^ x) (hx : x < gridExp f v) : gridExp f w = gridExp f v := by
  by_cases hk : k = 0
  · have hlt : ∀ u : ℚ, k * 2 ^ x < |u| ∧ |u| < (k + 1) * 2 ^ x → Int.log 2 |u| < x := fun u hu => by
      have h1 : 0 < |u| := by simpa [hk] using hu.1
      refine (Int.lt_zpow_iff_log_lt Nat.one_lt_two h1).1 ?_
      simpa [hk] using hu.2
    have h1 := hlt v hv
    have h2 := hlt w hw
    rw [gridExp] at hx ⊢
    rw [gridExp]
    omega
  · rw [gridExp, gridExp, log_of_between hk hv.1.le hv.2, log_of_between hk hw.1.le hw.2]

theorem le_gridExp (f : Fp) (v : ℚ) : 1 - (f.bias : Int) - f.f ≤ gridExp f v := by rw [gridExp]; omega

/-- A value in steps of its grid: fewer than 2^(f + 1) of them, and no fewer than 2^f above the subnormal values. -/
theorem abs_div_grid (f : Fp) {v : ℚ} (hv : v ≠ 0) :
    |v / 2 ^ gridExp f v| < 2 ^ (f.f + 1) ∧ (gridExp f v = 1 - (f.bias : Int) - f.f ∨ 2 ^ f.f ≤ |v / 2 ^ gridExp f v|) := by
  have hpos : 0 < |v| := abs_pos.2 hv
  have hg : (0 : ℚ) < 2 ^ gridExp f v := by positivity
  rw [abs_div, abs_of_pos hg]
  constructor
  · rw [div_lt_iff₀ hg, ← zpow_natCast, ← zpow_add₀ two_ne_zero]
    refine (Int.lt_zpow_succ_log_self Nat.one_lt_two |v|).trans_le ?_
    rw [Nat.cast_ofNat]
    exact zpow_le_zpow_right₀ one_le_two (by rw [gridExp]; push_cast; omega)
  · rcases le_or_gt (Int.log 2 |v|) (1 - f.bias) with h | h
    · exact .inl (by rw [gridExp]; omega)
    · refine .inr ?_
      rw [le_div_iff₀ hg, ← zpow_natCast, ← zpow_add₀ two_ne_zero]
      have := Int.zpow_log_le_self Nat.one_lt_two hpos
      rw [Nat.cast_ofNat] at this
      exact (zpow_le_zpow_right₀ one_le_two (by rw [gridExp]; omega)).trans this

/-! The code of a value of the grid. -/

/-- The code of `q` steps of the grid of exponent `g`. -/
def Fp.codeAt (f : Fp) (g : Int) (q : Nat) : Nat := (g + f.bias + f.f - 1).toNat * 2 ^ f.f + q

theorem mag_codeAt (f : Fp) {g : Int} {q : Nat} (hg : 1 - (f.bias : Int) - f.f ≤ g) (hq : q ≤ 2 ^ (f.f + 1))
    (hn : g = 1 - (f.bias : Int) - f.f ∨ 2 ^ f.f ≤ q) : f.mag (f.codeAt g q) = q * 2 ^ g := by
  rw [Fp.codeAt, mag_grid f hq (hn.imp_left (by omega))]
  congr 2
  omega

/-- What rounding gives once the value is `q` steps of the grid, `ix` if that is not the exact value. -/
def gridCode (f : Fp) (mode : Rm) (sat ftz neg : Bool) (g : Int) (q : Nat) (ix : Bool) : Nat × Nat :=
  if q < 2 ^ f.f then
    if ftz then (if f == .e2m1 then 0 else f.signed neg 0, 24)
    else (if q = 0 && f == .e2m1 then 0 else f.signed neg q, if ix then 24 else 0)
  else if f.largest < f.codeAt g q then (overflowCode f mode sat neg, 20)
  else (f.signed neg (f.codeAt g q), if ix then 16 else 0)

/-- The steps that a value lies above 0, as a quotient and a remainder. -/
theorem steps_eq (n : Bool) (k : Nat) (x g : Int) :
    let sh := (g - x).toNat
    let q := if x ≥ g then k * 2 ^ (x - g).toNat else k / 2 ^ sh
    let r := if x ≥ g then 0 else k % 2 ^ sh
    r < 2 ^ sh ∧ dyadic n k x / 2 ^ g = (if n then -1 else 1) * ((q : Nat) + (r : Nat) / 2 ^ sh : ℚ) := by
  intro sh q r
  have hsh : 0 < 2 ^ sh := by positivity
  have hk : (k : ℚ) * 2 ^ x / 2 ^ g = k * 2 ^ (x - g) := by rw [zpow_sub₀ two_ne_zero]; ring
  rw [dyadic_eq, mul_div_assoc, hk]
  by_cases h : x ≥ g
  · obtain ⟨d, hd⟩ := Int.eq_ofNat_of_zero_le (sub_nonneg.2 h)
    simp [q, r, h, hsh, hd]
  · obtain ⟨d, hd⟩ := Int.eq_ofNat_of_zero_le (show 0 ≤ g - x by omega)
    have hs : sh = d := by simp only [sh]; omega
    have hx : x - g = -(d : Int) := by omega
    simp only [q, r, h, if_false, hs]
    refine ⟨Nat.mod_lt _ (by positivity), ?_⟩
    have hdm : (k : ℚ) = 2 ^ d * (k / 2 ^ d : Nat) + (k % 2 ^ d : Nat) := by exact_mod_cast (Nat.div_add_mod k (2 ^ d)).symm
    rw [hx, zpow_neg, zpow_natCast]
    congr 1
    field_simp
    linarith

/-- The code that `roundMag` makes of a significand which may have carried. -/
theorem codeAt_carry (f : Fp) {g : Int} {q : Nat} (hg : 1 - (f.bias : Int) - f.f ≤ g) (hq : q ≤ 2 ^ (f.f + 1))
    (hlo : 2 ^ f.f ≤ q) :
    let c := if q ≥ 2 ^ (f.f + 1) then (q / 2, g + 1) else (q, g)
    (c.2 + f.f + f.bias).toNat * 2 ^ f.f + (c.1 - 2 ^ f.f) = f.codeAt g q := by
  have h2 : (2 : Nat) ^ (f.f + 1) = 2 * 2 ^ f.f := by rw [pow_succ]; ring
  have hG : (g + f.f + f.bias).toNat = (g + f.bias + f.f - 1).toNat + 1 := by omega
  have hG' : (g + 1 + f.f + f.bias).toNat = (g + f.bias + f.f - 1).toNat + 2 := by omega
  rw [Fp.codeAt]
  split
  · simp only [hG', add_mul]; omega
  · simp only [hG, add_mul]; omega

/-- `roundMag` counts the steps of the grid, rounds them to an integer, and takes its code. -/
theorem roundMag_eq (f : Fp) (mode : Rm) (sat ftz n : Bool) {k : Nat} (hk : k ≠ 0) (x : Int) :
    ∃ q r sh : Nat, r < 2 ^ sh ∧ dyadic n k x / 2 ^ gridExp f (dyadic n k x) = (if n then -1 else 1) * (q + r / 2 ^ sh : ℚ) ∧
      q < 2 ^ (f.f + 1) ∧ (gridExp f (dyadic n k x) = 1 - (f.bias : Int) - f.f ∨ 2 ^ f.f ≤ q) ∧
      roundMag f mode sat ftz n k x =
        gridCode f mode sat ftz n (gridExp f (dyadic n k x)) (q + b2n (roundUp mode n q r sh)) (r != 0) := by
  have hv : dyadic n k x ≠ 0 := fun h => hk (dyadic_eq_zero.1 h)
  have hg : (if x + (Nat.log2 k : Int) < 1 - (f.bias : Int) then 1 - (f.bias : Int) else x + (Nat.log2 k : Int)) - f.f =
      gridExp f (dyadic n k x) := by
    rw [gridExp, log_dyadic n hk]; split <;> omega
  have hle := le_gridExp f (dyadic n k x)
  have hab := abs_div_grid f hv
  rw [roundMag]
  simp only [hg]
  generalize gridExp f (dyadic n k x) = g at hle hab ⊢
  obtain ⟨hr, hst⟩ := steps_eq n k x g
  set sh := (g - x).toNat
  set q := if x ≥ g then k * 2 ^ (x - g).toNat else k / 2 ^ sh
  set r := if x ≥ g then 0 else k % 2 ^ sh
  -- the steps are fewer than 2^(f + 1)
  have habs : |dyadic n k x / 2 ^ g| = q + r / 2 ^ sh := by
    rw [hst, abs_mul, abs_of_nonneg (a := (q + r / 2 ^ sh : ℚ)) (by positivity)]
    cases n <;> simp
  rw [habs] at hab
  have h0 : (0 : ℚ) ≤ r / 2 ^ sh := by positivity
  have h1 : (r : ℚ) / 2 ^ sh < 1 := by rw [div_lt_one (by positivity)]; exact_mod_cast hr
  have hq : q < 2 ^ (f.f + 1) := by
    have : (q : ℚ) < 2 ^ (f.f + 1) := by linarith [hab.1]
    exact_mod_cast this
  have hlo : g = 1 - (f.bias : Int) - f.f ∨ 2 ^ f.f ≤ q := hab.2.imp_right fun h => by
    have : (2 : ℚ) ^ f.f < q + 1 := by linarith
    have : 2 ^ f.f < q + 1 := by exact_mod_cast this
    omega
  refine ⟨q, r, sh, hr, hst, hq, hlo, ?_⟩
  have hb : b2n (roundUp mode n q r sh) ≤ 1 := by rw [b2n]; split <;> omega
  generalize b2n (roundUp mode n q r sh) = u at hb ⊢
  rw [gridCode]
  by_cases hs : q + u < 2 ^ f.f
  · simp only [hs, if_true]; rfl
  · simp only [hs, if_false, codeAt_carry f hle (show q + u ≤ 2 ^ (f.f + 1) by omega) (not_lt.1 hs)]; rfl

/-! The rounding function gives what R41 asks for. -/

theorem overflowOf_eq (f : Fp) (m : Rm) (sat neg : Bool) : overflowOf f m sat neg = overflowCode f m sat neg := by
  cases f <;> cases sat <;> cases m <;> rfl

theorem codes_zero (f : Fp) (n : Bool) : Codes f n 0 (if f == .e2m1 then 0 else f.signed n 0) := by
  by_cases h : f = .e2m1
  · subst h
    have h0 : (if (Fp.e2m1 == .e2m1) = true then 0 else Fp.e2m1.signed n 0) = 0 := rfl
    rw [h0]
    refine ⟨?_, by decide, ?_⟩
    · rw [finQ_decode_iff]; exact ⟨by decide, by simp [show Fp.e2m1.magBits 0 = 0 from rfl, mag_zero]⟩
    · cases n <;> rfl
  · have := codes_signed (n := n) (Nat.zero_le f.largest) (by simp [h])
    simpa [h, mag_zero] using this

theorem mag_two_pow (f : Fp) : f.mag (2 ^ f.f) = 2 ^ (1 - (f.bias : Int)) := by
  have h := mag_grid f (G := 0) (q := 2 ^ f.f) (Nat.pow_le_pow_right two_pos (by omega)) (.inl rfl)
  simp only [zero_mul, zero_add] at h
  rw [h, Nat.cast_pow, Nat.cast_ofNat, ← zpow_natCast, ← zpow_add₀ two_ne_zero]
  congr 1
  push_cast
  ring

/-- A value of the grid, with its flags, is what R41, R43 and R44 make of it. -/
theorem gridCode_isRound {f : Fp} {m : Rm} {sat ftz n : Bool} {v : ℚ} {q : Nat} {ix : Bool} (hn : decide (v < 0) = n)
    (hy : onGrid f m v = (if n then -1 else 1) * (q * 2 ^ gridExp f v)) (hq : q ≤ 2 ^ (f.f + 1))
    (hlo : gridExp f v = 1 - (f.bias : Int) - f.f ∨ 2 ^ f.f ≤ q) (hix : ix = false ↔ onGrid f m v = v) :
    IsRound f m sat ftz v (gridCode f m sat ftz n (gridExp f v) q ix) := by
  have hle := le_gridExp f v
  have hmag := mag_codeAt f hle hq hlo
  have habs : |onGrid f m v| = f.mag (f.codeAt (gridExp f v) q) := by
    rw [hy, hmag, abs_mul, abs_of_nonneg (a := (q * 2 ^ gridExp f v : ℚ)) (by positivity)]; cases n <;> simp
  rw [← hmag] at hy
  have htop : topQ f < |onGrid f m v| ↔ f.largest < f.codeAt (gridExp f v) q := by
    rw [topQ_eq, habs]; exact (mag_strictMono f).lt_iff_lt
  have htiny : |onGrid f m v| < 2 ^ (1 - (f.bias : Int)) ↔ f.codeAt (gridExp f v) q < 2 ^ f.f := by
    rw [habs, ← mag_two_pow]; exact (mag_strictMono f).lt_iff_lt
  have hsub : q < 2 ^ f.f → f.codeAt (gridExp f v) q = q := fun h => by
    rw [Fp.codeAt, hlo.resolve_right (by omega), show (1 - (f.bias : Int) - f.f + f.bias + f.f - 1) = 0 by omega]
    simp
  have hq' : f.codeAt (gridExp f v) q < 2 ^ f.f ↔ q < 2 ^ f.f :=
    ⟨fun h => (Nat.le_add_left _ _).trans_lt h, fun h => by rwa [hsub h]⟩
  have hbig := two_pow_le_largest f
  have hfl : ∀ a, (if ix = true then a else 0) = if onGrid f m v = v then 0 else a := fun a => by
    simp only [← hix]
    cases ix <;> rfl
  simp only [IsRound, htop, htiny, hq', hn, gridCode, hfl, overflowOf_eq]
  by_cases hs : q < 2 ^ f.f
  · simp only [hs, if_true, hsub hs, show ¬f.largest < q by omega, if_false]
    cases ftz with
    | true => exact ⟨codes_zero f n, rfl⟩
    | false =>
      refine ⟨?_, rfl⟩
      simp only [hsub hs] at hy
      by_cases h0 : q = 0
      · have := codes_zero f n
        simpa [h0, hy, mag_zero] using this
      · have hm : f.mag q ≠ 0 := by rw [← mag_zero f]; exact (mag_strictMono f).injective.ne h0
        simp only [hy, h0, decide_false, Bool.false_and, Bool.false_eq_true, if_false]
        exact codes_signed (by omega) (by simp [hm])
  · simp only [hs, if_false]
    split
    · rfl
    · next ht =>
      refine ⟨?_, rfl⟩
      rw [hy]
      have hm : f.mag (f.codeAt (gridExp f v) q) ≠ 0 := by
        rw [← mag_zero f]; exact (mag_strictMono f).injective.ne (by rw [Fp.codeAt]; have := Nat.two_pow_pos f.f; omega)
      exact codes_signed (not_lt.1 ht) (by simp [hm])

theorem onGrid_eq_self_iff {f : Fp} {m : Rm} {v : ℚ} :
    onGrid f m v = v ↔ (roundQ m (v / 2 ^ gridExp f v) : ℚ) = v / 2 ^ gridExp f v := by
  rw [onGrid, eq_div_iff (by positivity)]

/-- `roundMag` rounds an exact value. -/
theorem roundMag_isRound (f : Fp) (m : Rm) (sat ftz n : Bool) {k : Nat} (hk : k ≠ 0) (x : Int) :
    IsRound f m sat ftz (dyadic n k x) (roundMag f m sat ftz n k x) := by
  obtain ⟨q, r, sh, hr, hst, hq, hlo, he⟩ := roundMag_eq f m sat ftz n hk x
  have hg : (2 : ℚ) ^ gridExp f (dyadic n k x) ≠ 0 := by positivity
  have hb : b2n (roundUp m n q r sh) ≤ 1 := by rw [b2n]; split <;> omega
  have hy : onGrid f m (dyadic n k x) =
      (if n then -1 else 1) * ((q + b2n (roundUp m n q r sh) : Nat) * 2 ^ gridExp f (dyadic n k x)) := by
    rw [onGrid, hst, roundQ_quot m n hr]; push_cast; ring
  rw [he]
  refine gridCode_isRound ?_ hy (by omega) (hlo.imp_right (by omega)) ?_
  · rw [Bool.eq_iff_iff, decide_eq_true_eq]; exact dyadic_neg_iff hk
  · rw [onGrid_eq_self_iff, hst, roundQ_quot_eq_iff m n hr, bne_eq_false_iff_eq]

theorem isRound_congr {f : Fp} {m : Rm} {sat ftz : Bool} {v w : ℚ} {r : Nat × Nat} (hs : v < 0 ↔ w < 0)
    (hg : onGrid f m v = onGrid f m w) (hv : onGrid f m v ≠ v) (hw : onGrid f m w ≠ w) (h : IsRound f m sat ftz w r) :
    IsRound f m sat ftz v r := by
  simp only [IsRound, hg, hs] at h ⊢
  rw [hg] at hv
  simpa only [if_neg hv, if_neg hw] using h

/-- Values of one grid between the same half steps round alike, and change. -/
theorem onGrid_between {f : Fp} {m : Rm} {v w : ℚ} {j : Int} (hg : gridExp f w = gridExp f v)
    (hv : (j : ℚ) / 2 < v / 2 ^ gridExp f v ∧ v / 2 ^ gridExp f v < (j + 1) / 2)
    (hw : (j : ℚ) / 2 < w / 2 ^ gridExp f v ∧ w / 2 ^ gridExp f v < (j + 1) / 2) :
    onGrid f m v = onGrid f m w ∧ onGrid f m v ≠ v ∧ onGrid f m w ≠ w := by
  have hint : ∀ u : ℚ, (j : ℚ) / 2 < u ∧ u < (j + 1) / 2 → (roundQ m u : ℚ) ≠ u := fun u ⟨h1, h2⟩ he => by
    rw [← he] at h1 h2
    have h1 : j < 2 * roundQ m u := by exact_mod_cast (by linarith : (j : ℚ) < 2 * roundQ m u)
    have h2 : 2 * roundQ m u < j + 1 := by exact_mod_cast (by linarith : (2 : ℚ) * roundQ m u < j + 1)
    omega
  refine ⟨?_, fun h => hint _ hv (onGrid_eq_self_iff.1 h), fun h => hint _ hw ?_⟩
  · rw [onGrid, onGrid, hg, roundQ_between hv hw]
  · rw [← hg]; exact onGrid_eq_self_iff.1 h

/-- Between consecutive multiples of a finer power of two no half step lies. -/
theorem half_steps_between {k : Nat} {x g : Int} (hx : x < g) (n : Bool) :
    ∃ j : Int, ∀ v : ℚ, (v < 0 ↔ n = true) → k * 2 ^ x < |v| ∧ |v| < (k + 1) * 2 ^ x →
      (j : ℚ) / 2 < v / 2 ^ g ∧ v / 2 ^ g < (j + 1) / 2 := by
  obtain ⟨d, hd⟩ := Int.eq_ofNat_of_zero_le (show 0 ≤ g - x - 1 by omega)
  have hg : (2 : ℚ) ^ g = 2 * 2 ^ d * 2 ^ x := by
    rw [show g = 1 + (d : Int) + x by omega, zpow_add₀ two_ne_zero, zpow_add₀ two_ne_zero, zpow_one, zpow_natCast]
  have hdm : (k : ℚ) = 2 ^ d * (k / 2 ^ d : Nat) + (k % 2 ^ d : Nat) := by exact_mod_cast (Nat.div_add_mod k (2 ^ d)).symm
  have hlt : ((k % 2 ^ d : Nat) : ℚ) + 1 ≤ 2 ^ d := by exact_mod_cast Nat.mod_lt k (by positivity : 0 < 2 ^ d)
  have h0 : (0 : ℚ) ≤ (k % 2 ^ d : Nat) := by positivity
  have hpx : (0 : ℚ) < 2 ^ x := by positivity
  have habs : ∀ v : ℚ, k * 2 ^ x < |v| ∧ |v| < (k + 1) * 2 ^ x →
      ((k / 2 ^ d : Nat) : ℚ) / 2 < |v| / 2 ^ g ∧ |v| / 2 ^ g < ((k / 2 ^ d : Nat) + 1) / 2 := fun v ⟨h1, h2⟩ => by
    rw [hg, lt_div_iff₀ (by positivity), div_lt_iff₀ (by positivity)]
    constructor <;> nlinarith
  generalize k / 2 ^ d = j at habs
  cases n with
  | false =>
    refine ⟨j, fun v hs hv => ?_⟩
    have := habs v hv
    rw [abs_of_nonneg (not_lt.1 fun h => by simpa using hs.1 h)] at this
    simpa using this
  | true =>
    refine ⟨-j - 1, fun v hs hv => ?_⟩
    have := habs v hv
    rw [abs_of_neg (hs.2 rfl), neg_div] at this
    push_cast
    constructor <;> linarith [this.1, this.2]

/-- R41 on any exact result that stands for a nonzero value. -/
theorem roundTo_isRound (f : Fp) (m : Rm) (sat ftz : Bool) {e : Ex} {v : ℚ} (h : StandsFor f e v) :
    IsRound f m sat ftz v (roundTo f m sat ftz e) := by
  match e with
  | .num n k x false =>
    obtain ⟨hk, rfl⟩ := h
    simpa [roundTo, hk] using roundMag_isRound f m sat ftz n hk x
  | .num n k x true =>
    obtain ⟨hn, hlo, hhi, hx⟩ := h
    -- the value half-way stands where v does
    have hk : (2 * k + 1) * 2 ≠ 0 := by omega
    have hw : dyadic n ((2 * k + 1) * 2) (x - 2) < 0 ↔ n = true := dyadic_neg_iff hk
    have habs : k * 2 ^ x < |dyadic n ((2 * k + 1) * 2) (x - 2)| ∧ |dyadic n ((2 * k + 1) * 2) (x - 2)| < (k + 1) * 2 ^ x := by
      have hp : (0 : ℚ) < 2 ^ x := by positivity
      have : (((2 * k + 1) * 2 : Nat) : ℚ) * 2 ^ (x - 2) = (k + 1 / 2) * 2 ^ x := by
        rw [zpow_sub₀ two_ne_zero]; push_cast; norm_num; ring
      rw [abs_dyadic, this]
      constructor <;> nlinarith
    have hv : v < 0 ↔ n = true := by rw [hn, decide_eq_true_eq]
    obtain ⟨j, hj⟩ := half_steps_between (k := k) hx n
    obtain ⟨h1, h2, h3⟩ := onGrid_between (m := m) (gridExp_between ⟨hlo, hhi⟩ habs hx) (hj v hv ⟨hlo, hhi⟩) (hj _ hw habs)
    exact isRound_congr (hv.trans hw.symm) h1 h2 h3 (by simpa [roundTo] using roundMag_isRound f m sat ftz n hk (x - 2))

end Sys2Proof.Machine
end

section
/-! A value rounded is a neighbour of the exact value among the format's values (R40, R41). -/

namespace Sys2Proof.Machine

open Sys2Proof.Claims

/-! Integers around a rational. -/

theorem roundQ_floor_or_ceil (m : Rm) (u : ℚ) : roundQ m u = ⌊u⌋ ∨ roundQ m u = ⌈u⌉ := by
  cases m with
  | rn =>
    rw [roundQ]
    split
    · exact .inl rfl
    · next h =>
      refine .inr (Int.ceil_eq_iff.2 ⟨?_, ?_⟩).symm
      · have := Int.self_sub_floor u
        by_contra hc
        push_cast at hc
        have hu : u = ⌊u⌋ := le_antisymm (by linarith) (Int.floor_le u)
        exact h (.inl (by rw [← hu]; norm_num))
      · push_cast; exact (Int.lt_floor_add_one u).le
  | rz => rw [roundQ]; split <;> simp
  | ru => exact .inr rfl
  | rd => exact .inl rfl

/-- Rounding stays on its side of every integer. -/
theorem abs_roundQ (m : Rm) (u : ℚ) (N : Nat) : (|u| ≤ N → |roundQ m u| ≤ N) ∧ ((N : ℚ) ≤ |u| → N ≤ |roundQ m u|) := by
  have hle := roundQ_floor_or_ceil m u
  constructor <;> intro h
  · obtain ⟨h1, h2⟩ := abs_le.1 h
    have h3 : -(N : Int) ≤ ⌊u⌋ := Int.le_floor.2 (by push_cast; exact h1)
    have h4 : ⌈u⌉ ≤ N := Int.ceil_le.2 (by push_cast; exact h2)
    have := Int.floor_le_ceil u
    rw [abs_le]
    rcases hle with h | h <;> rw [h] <;> omega
  · have := Int.floor_le_ceil u
    rw [le_abs'] at h ⊢
    rcases h with h | h
    · have h3 : ⌈u⌉ ≤ -(N : Int) := Int.ceil_le.2 (by push_cast; exact h)
      rcases hle with h | h <;> rw [h] <;> omega
    · have h3 : (N : Int) ≤ ⌊u⌋ := Int.le_floor.2 (by push_cast; exact h)
      rcases hle with h | h <;> rw [h] <;> omega

theorem abs_roundQ_rz (u : ℚ) : |(roundQ .rz u : ℚ)| ≤ |u| := by
  rw [roundQ]
  split
  · next h =>
    have : (0 : ℚ) ≤ ⌊u⌋ := by exact_mod_cast Int.floor_nonneg.2 h
    rw [abs_of_nonneg this, abs_of_nonneg h]
    exact Int.floor_le u
  · next h =>
    have h1 : u ≤ 0 := (not_le.1 h).le
    have : (⌈u⌉ : ℚ) ≤ 0 := by exact_mod_cast Int.ceil_le.2 (by simpa using h1)
    rw [abs_of_nonpos this, abs_of_nonpos h1]
    linarith [Int.le_ceil u]

/-- Of what does not lie between the integers around `u`, nothing is nearer than the nearest integer, and a tie goes to an even one. -/
theorem roundQ_rn_nearest {u z : ℚ} (h : ¬(⌊u⌋ < z ∧ z < ⌈u⌉)) :
    |roundQ .rn u - u| ≤ |z - u| ∧ (z ≠ roundQ .rn u → |roundQ .rn u - u| = |z - u| → roundQ .rn u % 2 = 0) := by
  have h1 := Int.floor_le u
  have h2 := Int.lt_floor_add_one u
  have hz : z ≤ ⌊u⌋ ∨ (⌊u⌋ : ℚ) + 1 ≤ z ∨ u = ⌊u⌋ := by
    rcases h1.eq_or_lt with h0 | h0
    · exact .inr (.inr h0.symm)
    · have hc : ⌈u⌉ = ⌊u⌋ + 1 := Int.ceil_eq_iff.2 ⟨by push_cast; linarith, by push_cast; exact h2.le⟩
      rw [hc, not_and, not_lt] at h
      push_cast at h
      rcases le_or_gt z ⌊u⌋ with h3 | h3
      · exact .inl h3
      · exact .inr (.inl (h h3))
  have hr : (roundQ .rn u = ⌊u⌋ ∧ (u - ⌊u⌋ < 1 / 2 ∨ u - ⌊u⌋ = 1 / 2 ∧ ⌊u⌋ % 2 = 0)) ∨
      (roundQ .rn u = ⌊u⌋ + 1 ∧ (1 / 2 < u - ⌊u⌋ ∨ u - ⌊u⌋ = 1 / 2 ∧ ⌊u⌋ % 2 ≠ 0)) := by
    rw [roundQ]
    split
    · next hc => exact .inl ⟨rfl, hc⟩
    · next hc =>
      rw [not_or, not_and, not_lt] at hc
      exact .inr ⟨rfl, hc.1.eq_or_lt.symm.imp_right fun h => ⟨h.symm, hc.2 h.symm⟩⟩
  rcases hr with ⟨hr, hh⟩ | ⟨hr, hh⟩
  · -- rounded down
    have hh' : u - ⌊u⌋ ≤ 1 / 2 := hh.elim le_of_lt fun h => h.1.le
    rw [hr, abs_of_nonpos (by linarith : (⌊u⌋ : ℚ) - u ≤ 0)]
    rcases hz with hz | hz | hz
    · rw [abs_of_nonpos (by linarith : z - u ≤ 0)]
      exact ⟨by linarith, fun hne he => absurd (by linarith) hne⟩
    · rw [abs_of_nonneg (by linarith : 0 ≤ z - u)]
      exact ⟨by linarith, fun _ he => (hh.resolve_left fun h => by linarith).2⟩
    · refine ⟨by rw [← hz]; simp, fun hne he => absurd ?_ hne⟩
      have : |z - u| = 0 := by rw [← he]; linarith
      linarith [abs_eq_zero.1 this]
  · -- rounded up
    have hh' : 1 / 2 ≤ u - ⌊u⌋ := hh.elim le_of_lt fun h => h.1.ge
    rw [hr, Int.cast_add, Int.cast_one, abs_of_nonneg (by linarith : 0 ≤ (⌊u⌋ : ℚ) + 1 - u)]
    rcases hz with hz | hz | hz
    · rw [abs_of_nonpos (by linarith : z - u ≤ 0)]
      refine ⟨by linarith, fun _ he => ?_⟩
      have := (hh.resolve_left fun h => by linarith).2
      omega
    · rw [abs_of_nonneg (by linarith : 0 ≤ z - u)]
      exact ⟨by linarith, fun hne he => absurd (by linarith) hne⟩
    · linarith

/-! The format's values on the grid. -/

theorem sig_lt (f : Fp) (c : Nat) : f.sig c < 2 ^ (f.f + 1) := by
  have hlt := Nat.mod_lt c (show 0 < 2 ^ f.f by positivity)
  have h2 : (2 : Nat) ^ (f.f + 1) = 2 * 2 ^ f.f := by rw [pow_succ]; ring
  by_cases h : c / 2 ^ f.f = 0
  · rw [sig_of_div_eq_zero h]; omega
  · rw [sig_of_div_ne_zero h]; omega

/-- A value of the format is a whole number of steps of any value's grid, or fewer than that value's. -/
theorem value_steps {f : Fp} {c : Nat} {z v : ℚ} (hz : finQ (f.decode c) = some z) (hv : v ≠ 0) :
    (∃ i : Int, z / 2 ^ gridExp f v = i) ∨
      (|z / 2 ^ gridExp f v| < 2 ^ f.f ∧ (2 : ℚ) ^ f.f ≤ |v / 2 ^ gridExp f v|) := by
  obtain ⟨-, rfl⟩ := finQ_decode_iff.1 hz
  have hgp : (0 : ℚ) < 2 ^ gridExp f v := by positivity
  have hsteps : f.mag (f.magBits c) / 2 ^ gridExp f v = f.sig (f.magBits c) * 2 ^ (f.exp (f.magBits c) - gridExp f v) := by
    rw [Fp.mag, zpow_sub₀ two_ne_zero]; ring
  rcases le_or_gt (gridExp f v) (f.exp (f.magBits c)) with h | h
  · obtain ⟨d, hd⟩ := Int.eq_ofNat_of_zero_le (sub_nonneg.2 h)
    refine .inl ⟨(if signOf f c then -1 else 1) * (f.sig (f.magBits c) * 2 ^ d), ?_⟩
    rw [mul_div_assoc, hsteps, hd]
    push_cast
    simp
  · have hne : gridExp f v ≠ 1 - (f.bias : Int) - f.f := by rw [Fp.exp] at h; omega
    refine .inr ⟨?_, ?_⟩
    · have hs : |(if signOf f c then -1 else 1 : ℚ)| = 1 := by split <;> simp
      rw [mul_div_assoc, abs_mul, hs, one_mul, hsteps, abs_of_nonneg (by positivity)]
      have hsig : (f.sig (f.magBits c) : ℚ) < 2 ^ (f.f + 1) := by exact_mod_cast sig_lt f (f.magBits c)
      have hexp : (2 : ℚ) ^ (f.exp (f.magBits c) - gridExp f v) ≤ 2 ^ (-1 : Int) := zpow_le_zpow_right₀ one_le_two (by omega)
      calc (f.sig (f.magBits c) : ℚ) * 2 ^ (f.exp (f.magBits c) - gridExp f v)
          ≤ f.sig (f.magBits c) * 2 ^ (-1 : Int) := by gcongr
        _ < 2 ^ (f.f + 1) * 2 ^ (-1 : Int) := by gcongr
        _ = 2 ^ f.f := by rw [pow_succ]; norm_num; ring
    · exact (abs_div_grid f hv).2.resolve_left hne

/-- No value of the format lies between the two steps of the grid around a value. -/
theorem no_value_between {f : Fp} {c : Nat} {z v : ℚ} (hz : finQ (f.decode c) = some z) (hv : v ≠ 0) :
    ¬(⌊v / 2 ^ gridExp f v⌋ < z / 2 ^ gridExp f v ∧ z / 2 ^ gridExp f v < ⌈v / 2 ^ gridExp f v⌉) := by
  rintro ⟨h1, h2⟩
  generalize hu : v / 2 ^ gridExp f v = u at h1 h2
  rcases value_steps hz hv with ⟨i, hi⟩ | ⟨hlt, hge⟩
  · rw [hi] at h1 h2
    have h1 : ⌊u⌋ < i := by exact_mod_cast h1
    have h2 : i < ⌈u⌉ := by exact_mod_cast h2
    have := Int.ceil_le_floor_add_one u
    omega
  · rw [hu] at hge
    obtain ⟨h3, h4⟩ := abs_lt.1 hlt
    rcases le_abs'.1 hge with h | h
    · have h5 : ⌈u⌉ ≤ -(2 ^ f.f : Int) := Int.ceil_le.2 (by push_cast; exact h)
      have h5 : (⌈u⌉ : ℚ) ≤ -2 ^ f.f := by exact_mod_cast h5
      linarith
    · have h5 : (2 ^ f.f : Int) ≤ ⌊u⌋ := Int.le_floor.2 (by push_cast; exact h)
      have h5 : (2 : ℚ) ^ f.f ≤ ⌊u⌋ := by exact_mod_cast h5
      linarith

/-- The code of an even number of steps is even. -/
theorem even_code {f : Fp} {m : Rm} {v : ℚ} {c : Nat} (hv : v ≠ 0) (hc : finQ (f.decode c) = some (onGrid f m v))
    (he : roundQ m (v / 2 ^ gridExp f v) % 2 = 0) : c % 2 = 0 := by
  have hgp : (0 : ℚ) < 2 ^ gridExp f v := by positivity
  obtain ⟨hhi, hlo⟩ := abs_div_grid f hv
  generalize hu : v / 2 ^ gridExp f v = u at he hhi hlo
  obtain ⟨q, hq⟩ := Int.eq_ofNat_of_zero_le (abs_nonneg (roundQ m u))
  have h1 : q ≤ 2 ^ (f.f + 1) := by
    have := (abs_roundQ m u (2 ^ (f.f + 1))).1 (by push_cast; exact hhi.le)
    rw [hq] at this; exact_mod_cast this
  have h2 : gridExp f v = 1 - (f.bias : Int) - f.f ∨ 2 ^ f.f ≤ q := hlo.imp_right fun h => by
    have := (abs_roundQ m u (2 ^ f.f)).2 (by push_cast; exact h)
    rw [hq] at this; exact_mod_cast this
  -- the magnitude of the code is that of `q` steps
  obtain ⟨-, hy⟩ := finQ_decode_iff.1 hc
  have hm : f.mag (f.magBits c) = f.mag (f.codeAt (gridExp f v) q) := by
    have h3 : |onGrid f m v| = f.mag (f.magBits c) := by
      rw [hy, abs_mul, abs_of_nonneg (a := f.mag _) (by rw [Fp.mag]; positivity)]; split <;> simp
    rw [mag_codeAt f (le_gridExp f v) h1 h2, ← h3, onGrid, hu, abs_mul, abs_of_pos hgp]
    congr 1
    exact_mod_cast hq
  have hq2 : q % 2 = 0 := by
    rcases abs_choice (roundQ m u) with h | h <;> rw [h] at hq <;> omega
  have hpow : ∀ n, 1 ≤ n → (2 : Nat) ^ n = 2 * 2 ^ (n - 1) := fun n hn => by rw [← pow_succ']; congr 1; omega
  have hbits : c % 2 = f.magBits c % 2 := by
    rw [Fp.magBits, hpow (f.e + f.f) (by have := one_le_f f; omega), Nat.mod_mul_right_mod]
  rw [hbits, (mag_strictMono f).injective hm, Fp.codeAt, hpow f.f (one_le_f f), Nat.add_mod, hq2, ← mul_assoc, mul_comm _ 2,
    mul_assoc, Nat.mul_mod_right]

/-! The claim. -/

theorem roundTo_inf (f : Fp) (m : Rm) (sat ftz n : Bool) : roundTo f m sat ftz (.inf n) =
    (if sat = true ∨ f ∈ [Fp.e4m3, .e3m2, .e2m3, .e2m1] then f.signed n f.largest else f.inf n, 0) := by
  cases sat <;> cases f <;> rfl

/-- Without `.SAT` and `.FTZ` a value overflows, or becomes that of the grid, with IX, and UF where it is tiny, if it changes. -/
theorem isRound_plain {f : Fp} {m : Rm} {v : ℚ} {r : Nat × Nat} (h : IsRound f m false false v r) :
    (r.2 = 20 ∧ topQ f < |onGrid f m v|) ∨ (|onGrid f m v| ≤ topQ f ∧ finQ (f.decode r.1) = some (onGrid f m v) ∧
      r.2 = if onGrid f m v = v then 0 else if |onGrid f m v| < 2 ^ (1 - (f.bias : Int)) then 24 else 16) := by
  simp only [IsRound, Bool.false_eq_true, if_false] at h
  split at h
  · next ht => exact .inl ⟨by rw [h], ht⟩
  · next ht =>
    refine .inr ⟨not_lt.1 ht, ?_⟩
    split at h
    · next hs => exact ⟨h.1.1, by rw [h.2, if_pos hs]⟩
    · next hs => exact ⟨h.1.1, by rw [h.2, if_neg hs]⟩

/-- A value of the format is itself on the grid. -/
theorem onGrid_of_value {f : Fp} (m : Rm) {v : ℚ} {c : Nat} (hv : v ≠ 0) (hc : finQ (f.decode c) = some v) : onGrid f m v = v := by
  have h := no_value_between hc hv
  rw [onGrid_eq_self_iff]
  generalize v / 2 ^ gridExp f v = u at h ⊢
  have hi : ∃ i : Int, u = i := by
    by_contra hn
    exact h ⟨lt_of_le_of_ne (Int.floor_le u) fun he => hn ⟨_, he.symm⟩, lt_of_le_of_ne (Int.le_ceil u) fun he => hn ⟨_, he⟩⟩
  obtain ⟨i, rfl⟩ := hi
  rcases roundQ_floor_or_ceil m i with h | h <;> rw [h] <;> simp

theorem abs_value_le_topQ {f : Fp} {v : ℚ} {c : Nat} (hc : finQ (f.decode c) = some v) : |v| ≤ topQ f := by
  obtain ⟨hle, rfl⟩ := finQ_decode_iff.1 hc
  rw [topQ_eq, abs_mul, abs_of_nonneg (a := f.mag _) (by rw [Fp.mag]; positivity)]
  refine le_trans (le_of_eq ?_) ((mag_strictMono f).monotone hle)
  split <;> simp

/-- A value that is not the format's is rounded to the one of its neighbours that the mode asks for. -/
theorem onGrid_neighbour (f : Fp) (m : Rm) {v : ℚ} (hv : v ≠ 0) :
    let y := onGrid f m v
    (∀ c z, finQ (f.decode c) = some z → ¬(min y v < z ∧ z < max y v)) ∧
      (m = .rz → |y| ≤ |v|) ∧ (m = .ru → v ≤ y) ∧ (m = .rd → y ≤ v) ∧
      (m = .rn → ∀ c z, finQ (f.decode c) = some z → |y - v| ≤ |z - v| ∧
        (z ≠ y → |y - v| = |z - v| → roundQ m (v / 2 ^ gridExp f v) % 2 = 0)) := by
  have hg : (0 : ℚ) < 2 ^ gridExp f v := by positivity
  intro y
  have hy : y = roundQ m (v / 2 ^ gridExp f v) * 2 ^ gridExp f v := rfl
  have hbetween : ∀ c z, finQ (f.decode c) = some z → _ := fun c z hz => no_value_between hz hv
  obtain ⟨u, hu⟩ : ∃ u, v = u * 2 ^ gridExp f v := ⟨v / 2 ^ gridExp f v, (div_mul_cancel₀ _ hg.ne').symm⟩
  have huv : v / 2 ^ gridExp f v = u := by rw [div_eq_iff hg.ne']; exact hu
  rw [huv] at hy hbetween ⊢
  generalize gridExp f v = g at *
  refine ⟨fun c z hz => ?_, ?_, ?_, ?_, ?_⟩
  · rintro ⟨h1, h2⟩
    refine hbetween c z hz ?_
    rw [lt_div_iff₀ hg, div_lt_iff₀ hg]
    have hf := mul_le_mul_of_nonneg_right (Int.floor_le u) hg.le
    have hc := mul_le_mul_of_nonneg_right (Int.le_ceil u) hg.le
    rw [← hu] at hf hc
    rcases roundQ_floor_or_ceil m u with h | h <;> rw [h] at hy
    · rw [← hy] at hf ⊢
      rw [min_eq_left hf] at h1
      rw [max_eq_right hf] at h2
      exact ⟨h1, h2.trans_le hc⟩
    · rw [← hy] at hc ⊢
      rw [min_eq_right hc] at h1
      rw [max_eq_left hc] at h2
      exact ⟨hf.trans_lt h1, h2⟩
  · rintro rfl
    rw [hy, hu, abs_mul, abs_mul]
    exact mul_le_mul_of_nonneg_right (abs_roundQ_rz u) (abs_nonneg _)
  · rintro rfl
    rw [hy, hu]
    exact mul_le_mul_of_nonneg_right (Int.le_ceil u) hg.le
  · rintro rfl
    rw [hy, hu]
    exact mul_le_mul_of_nonneg_right (Int.floor_le u) hg.le
  · rintro rfl c z hz
    obtain ⟨hn, ht⟩ := roundQ_rn_nearest (hbetween c z hz)
    have hz' : z = z / 2 ^ g * 2 ^ g := (div_mul_cancel₀ _ hg.ne').symm
    generalize z / 2 ^ g = w at hz' hn ht
    rw [hy, hu, hz', ← sub_mul, ← sub_mul, abs_mul, abs_mul, abs_of_pos hg]
    exact ⟨mul_le_mul_of_nonneg_right hn hg.le, fun hne he => ht (fun h => hne (by rw [h])) (mul_right_cancel₀ hg.ne' he)⟩

end Sys2Proof.Machine

open Sys2Proof Sys2Proof.Machine Sys2Proof.Claims

/-- Settles O7: the code counts the steps of the grid, which `roundQ` rounds to an integer. -/
theorem roundingIsToTheGrid : Obligations.RoundingIsToTheGrid := by
  unfold Obligations.RoundingIsToTheGrid
  intro f m sat ftz
  refine ⟨fun e v _ h => roundTo_isRound f m sat ftz h, fun n => ⟨codes_zero f n, rfl, roundTo_inf f m sat ftz n⟩,
    fun n k x hk => ?_⟩
  intro v r
  have hv : v ≠ 0 := fun h => hk (dyadic_eq_zero.1 h)
  have hr := isRound_plain (roundTo_isRound f m false false (e := .num n k x false) (v := v) ⟨hk, rfl⟩)
  obtain ⟨hmid, hrz, hru, hrd, hrn⟩ := onGrid_neighbour f m hv
  constructor
  · rintro ⟨c, hc⟩
    have hy := onGrid_of_value m hv hc
    rcases hr with ⟨-, htop⟩ | ⟨-, hcode, hfl⟩
    · rw [hy] at htop
      exact absurd htop (not_lt.2 (abs_value_le_topQ hc))
    · rw [if_pos hy] at hfl
      exact ⟨hy ▸ hcode, hfl⟩
  · intro hof
    rcases hr with ⟨hfl, -⟩ | ⟨-, hcode, hfl⟩
    · rw [show r.2 = 20 from hfl] at hof
      exact absurd hof (by decide)
    · refine ⟨onGrid f m v, hcode, ?_, ?_, hmid, hrz, hru, hrd, fun hm c z hz => ?_⟩
      · rw [show r.2 = _ from hfl]
        split
        · simp [*]
        · split <;> simp [*] <;> decide
      · rw [show r.2 = _ from hfl]
        split
        · simp [*]
        · split <;> simp [*] <;> decide
      · obtain ⟨h1, h2⟩ := hrn hm c z hz
        exact ⟨h1, fun hne he => even_code hv hcode (h2 hne he)⟩
end

section
/-! Exact sums and products (R42, R45, R57). -/

namespace Sys2Proof.Machine

open Sys2Proof.Claims

/-! Exact values. -/

/-- A finite value as a rational, 0 for an infinity or a NaN. -/
def Fv.q (v : Fv) : ℚ := (finQ v).getD 0

@[simp] theorem Fv.q_fin (n : Bool) (k : Nat) (x : Int) : (Fv.fin n k x).q = dyadic n k x := rfl

theorem finQ_eq_some {v : Fv} {x : ℚ} : finQ v = some x ↔ ∃ n k e, v = .fin n k e ∧ dyadic n k e = x := by
  cases v <;> simp [finQ]

theorem isZero_fin {n : Bool} {k : Nat} {x : Int} : (Fv.fin n k x).isZero = true ↔ dyadic n k x = 0 := by
  rw [dyadic_eq_zero]; exact beq_iff_eq

theorem exQ_ex (n : Bool) (k : Nat) (x : Int) : exQ (Fv.fin n k x).ex = some (dyadic n k x) := by
  by_cases h : k = 0
  · simp [Fv.ex, exQ, h, dyadic]
  · simp [Fv.ex, exQ, h]

/-- An integer as a sign and a magnitude. -/
theorem dyadic_int (s x : Int) : dyadic (decide (s < 0)) s.natAbs x = s * 2 ^ x := by
  rw [dyadic, Nat.cast_natAbs]
  rcases lt_or_ge s 0 with h | h
  · simp [h, abs_of_neg h]
  · simp [h.not_gt, abs_of_nonneg h]

/-- An exact result of a nonzero value stands for it. -/
theorem standsFor_of_exQ (f : Fp) {e : Ex} {v : ℚ} (h : exQ e = some v) (hv : v ≠ 0) : StandsFor f e v := by
  match e with
  | .zero n => simp only [exQ, Option.some.injEq] at h; exact absurd h.symm hv
  | .num n k x false =>
    simp only [exQ, Option.some.injEq] at h
    exact ⟨fun hk => hv (by rw [← h, dyadic_eq_zero.2 hk]), h.symm⟩

/-! Sums of finite terms. -/

/-- The exponent that a sum is taken at is at most each term's. -/
theorem least_le (ts : List (Bool × Nat × Int)) (a : Int) :
    ts.foldl (fun a t => if t.2.2 < a then t.2.2 else a) a ≤ a ∧
      ∀ t ∈ ts, ts.foldl (fun a t => if t.2.2 < a then t.2.2 else a) a ≤ t.2.2 := by
  induction ts generalizing a with
  | nil => simp
  | cons t ts ih =>
    obtain ⟨h1, h2⟩ := ih (if t.2.2 < a then t.2.2 else a)
    rw [List.foldl_cons]
    refine ⟨h1.trans (by split <;> omega), fun u hu => ?_⟩
    rcases List.mem_cons.1 hu with rfl | hu
    · exact h1.trans (by split <;> omega)
    · exact h2 u hu

theorem scaleTo_eq {k : Nat} {x lo : Int} (h : lo ≤ x) (n : Bool) :
    (if n then -1 else 1) * (scaleTo k x lo : ℚ) * 2 ^ lo = dyadic n k x := by
  obtain ⟨d, hd⟩ := Int.eq_ofNat_of_zero_le (sub_nonneg.2 h)
  rw [dyadic_eq, scaleTo, hd, show x = (d : Int) + lo by omega, zpow_add₀ two_ne_zero, zpow_natCast]
  push_cast
  simp [mul_assoc]

/-- Terms added at an exponent that none goes below. -/
theorem foldl_scaleTo (ts : List (Bool × Nat × Int)) (lo : Int) (h : ∀ t ∈ ts, lo ≤ t.2.2) (a : Int) :
    ((ts.foldl (fun a t => let v := (scaleTo t.2.1 t.2.2 lo : Int); if t.1 then a - v else a + v) a : Int) : ℚ) * 2 ^ lo =
      a * 2 ^ lo + (ts.map fun t => dyadic t.1 t.2.1 t.2.2).sum := by
  induction ts generalizing a with
  | nil => simp
  | cons t ts ih =>
    rw [List.foldl_cons, ih fun u hu => h u (List.mem_cons_of_mem _ hu), List.map_cons, List.sum_cons,
      ← scaleTo_eq (h t List.mem_cons_self) t.1]
    cases t.1 <;> simp <;> ring

/-- The sum of finite terms is exact. -/
theorem sumFin_eq (ts : List (Bool × Nat × Int)) :
    ((sumFin ts).1 : ℚ) * 2 ^ (sumFin ts).2 = (ts.map fun t => dyadic t.1 t.2.1 t.2.2).sum := by
  unfold sumFin
  exact (foldl_scaleTo ts _ (least_le ts _).2 0).trans (by simp)

theorem sumFin_eq_zero {ts : List (Bool × Nat × Int)} :
    (sumFin ts).1 = 0 ↔ (ts.map fun t => dyadic t.1 t.2.1 t.2.2).sum = 0 := by
  rw [← sumFin_eq]
  simp [zpow_ne_zero]

theorem sumFin_neg_iff {ts : List (Bool × Nat × Int)} :
    (sumFin ts).1 < 0 ↔ (ts.map fun t => dyadic t.1 t.2.1 t.2.2).sum < 0 := by
  rw [← sumFin_eq, ← not_le, ← not_le, mul_nonneg_iff_of_pos_right (by positivity), Int.cast_nonneg_iff]

/-- Are all the terms zeros of one sign? -/
def zerosOf (neg : Bool) (ts : List Fv) : Prop := ∀ v ∈ ts, v.isZero = true ∧ v.neg = neg

theorem zerosOf_cons {neg : Bool} {v : Fv} {ts : List Fv} :
    zerosOf neg (v :: ts) ↔ (v.isZero = true ∧ v.neg = neg) ∧ zerosOf neg ts := List.forall_mem_cons

theorem finTerms_sum {ts : List Fv} (h : ∀ v ∈ ts, (finQ v).isSome = true) :
    ((finTerms ts).map fun t => dyadic t.1 t.2.1 t.2.2).sum = (ts.map Fv.q).sum := by
  induction ts with
  | nil => rfl
  | cons v ts ih =>
    obtain ⟨x, hx⟩ := Option.isSome_iff_exists.1 (h v List.mem_cons_self)
    obtain ⟨n, k, e, rfl, -⟩ := finQ_eq_some.1 hx
    have hc : finTerms (.fin n k e :: ts) = (n, k, e) :: finTerms ts := rfl
    rw [hc, List.map_cons, List.sum_cons, ih fun u hu => h u (List.mem_cons_of_mem _ hu)]
    rfl

theorem finTerms_zeros {ts : List Fv} (h : ∀ v ∈ ts, (finQ v).isSome = true) (neg : Bool) :
    ((finTerms ts).all fun t => (t.1 == neg) && t.2.1 == 0) = true ↔ zerosOf neg ts := by
  induction ts with
  | nil => simp [finTerms, zerosOf]
  | cons v ts ih =>
    obtain ⟨x, hx⟩ := Option.isSome_iff_exists.1 (h v List.mem_cons_self)
    obtain ⟨n, k, e, rfl, -⟩ := finQ_eq_some.1 hx
    have hc : finTerms (.fin n k e :: ts) = (n, k, e) :: finTerms ts := rfl
    rw [hc, List.all_cons, Bool.and_eq_true, ih fun u hu => h u (List.mem_cons_of_mem _ hu), zerosOf_cons,
      Bool.and_eq_true, beq_iff_eq]
    exact and_congr_left fun _ => and_comm

/-! The exact sum of terms (R42). -/

theorem sumEx_opposite (mode : Rm) {ts : List Fv} (h : .inf true ∈ ts) (h' : .inf false ∈ ts) : sumEx mode ts = .nan := by
  simp [sumEx, h, h']

theorem sumEx_inf (mode : Rm) {ts : List Fv} {n : Bool} (h : .inf n ∈ ts) (h' : .inf (!n) ∉ ts) : sumEx mode ts = .inf n := by
  cases n <;> simp_all [sumEx]

/-- A sum of finite terms is exact; a zero is signed as its terms are, or as the mode says. -/
theorem sumEx_fin (mode : Rm) {ts : List Fv} (h : ∀ v ∈ ts, (finQ v).isSome = true) (hne : ts ≠ []) :
    exQ (sumEx mode ts) = some (ts.map Fv.q).sum ∧ ((ts.map Fv.q).sum = 0 →
      (∀ n, zerosOf n ts → sumEx mode ts = .zero n) ∧
      (¬zerosOf true ts → ¬zerosOf false ts → sumEx mode ts = .zero (mode == .rd))) := by
  have hno : ∀ n, .inf n ∉ ts := fun n hn => by simpa [finQ] using h _ hn
  have he : sumEx mode ts = if (sumFin (finTerms ts)).1 = 0 then
      if ((finTerms ts).all fun t => (t.1 == true) && t.2.1 == 0) = true then .zero true
      else if ((finTerms ts).all fun t => (t.1 == false) && t.2.1 == 0) = true then .zero false else .zero (mode == .rd)
      else .num ((sumFin (finTerms ts)).1 < 0) (sumFin (finTerms ts)).1.natAbs (sumFin (finTerms ts)).2 false := by
    simp [sumEx, hno]
    simp only [beq_true, beq_false]
  have hsum := (sumFin_eq (finTerms ts)).trans (finTerms_sum h)
  have hz := sumFin_eq_zero.trans (Eq.congr_left (finTerms_sum h))
  constructor
  · rw [he]
    split
    · next h0 =>
      rw [hz.1 h0]
      split
      · rfl
      · split <;> rfl
    · next h0 =>
      rw [← hsum, ← dyadic_int]
      rfl
  · intro h0
    rw [he, if_pos (hz.2 h0)]
    have hboth : zerosOf false ts → ¬zerosOf true ts := fun hf ht => by
      obtain ⟨v, hv⟩ := List.exists_mem_of_ne_nil ts hne
      have := (ht v hv).2.symm.trans (hf v hv).2
      simp at this
    have hall := finTerms_zeros h
    refine ⟨fun n hn => ?_, fun h1 h2 => by rw [if_neg (mt (hall true).1 h1), if_neg (mt (hall false).1 h2)]⟩
    cases n with
    | true => rw [if_pos ((hall true).2 hn)]
    | false => rw [if_neg (mt (hall true).1 (hboth hn)), if_pos ((hall false).2 hn)]

/-- Two terms. -/
theorem sumEx_two (mode : Rm) {a b : Fv} {x y : ℚ} (ha : finQ a = some x) (hb : finQ b = some y) :
    exQ (sumEx mode [a, b]) = some (x + y) ∧
      (x + y = 0 → sumEx mode [a, b] = .zero (if x = 0 ∧ a.neg = b.neg then a.neg else mode == .rd)) := by
  have h : ∀ v ∈ [a, b], (finQ v).isSome = true := by simp [ha, hb]
  have hq : ([a, b].map Fv.q).sum = x + y := by simp [Fv.q, ha, hb]
  obtain ⟨h1, h2⟩ := sumEx_fin mode h (by simp)
  rw [hq] at h1 h2
  obtain ⟨n, k, e, rfl, rfl⟩ := finQ_eq_some.1 ha
  obtain ⟨n', k', e', rfl, rfl⟩ := finQ_eq_some.1 hb
  refine ⟨h1, fun h0 => ?_⟩
  obtain ⟨h3, h4⟩ := h2 h0
  have hz : ∀ s, zerosOf s [.fin n k e, .fin n' k' e'] ↔ dyadic n k e = 0 ∧ n = n' ∧ n = s := fun s => by
    simp only [zerosOf, List.forall_mem_cons, isZero_fin, Fv.neg]
    have : dyadic n k e = 0 ↔ dyadic n' k' e' = 0 := by constructor <;> intro h <;> rw [h] at h0 <;> simpa using h0
    rw [← this]
    constructor
    · rintro ⟨⟨ha, rfl⟩, ⟨-, rfl⟩, -⟩; exact ⟨ha, rfl, rfl⟩
    · rintro ⟨ha, rfl, rfl⟩; exact ⟨⟨ha, rfl⟩, ⟨ha, rfl⟩, by simp⟩
  by_cases hc : dyadic n k e = 0 ∧ n = n'
  · rw [h3 n ((hz n).2 ⟨hc.1, hc.2, rfl⟩)]
    exact congrArg Ex.zero (if_pos hc).symm
  · rw [h4 (fun h => hc (by obtain ⟨h5, h6, -⟩ := (hz _).1 h; exact ⟨h5, h6⟩))
      (fun h => hc (by obtain ⟨h5, h6, -⟩ := (hz _).1 h; exact ⟨h5, h6⟩))]
    exact congrArg Ex.zero (if_neg hc).symm

/-! Products. -/

theorem dyadic_mul (n n' : Bool) (k k' : Nat) (x x' : Int) :
    dyadic (n != n') (k * k') (x + x') = dyadic n k x * dyadic n' k' x' := by
  rw [dyadic, dyadic, dyadic, zpow_add₀ two_ne_zero]
  cases n <;> cases n' <;> simp <;> ring

theorem mulFv_fin {a b : Fv} {x y : ℚ} (ha : finQ a = some x) (hb : finQ b = some y) :
    ∃ p, mulFv a b = some p ∧ finQ p = some (x * y) ∧ p.neg = (a.neg != b.neg) := by
  obtain ⟨n, k, e, rfl, rfl⟩ := finQ_eq_some.1 ha
  obtain ⟨n', k', e', rfl, rfl⟩ := finQ_eq_some.1 hb
  exact ⟨_, rfl, congrArg some (dyadic_mul ..), rfl⟩

/-- An infinity times zero is no value (R45). -/
theorem mulFv_none {a b : Fv} (h : (a.isInf = true ∧ b.isZero = true) ∨ (a.isZero = true ∧ b.isInf = true)) : mulFv a b = none := by
  cases a <;> cases b <;> simp_all [mulFv, Fv.isInf, Fv.isZero]

/-- An infinity times another infinity or a value that is not zero. -/
theorem mulFv_inf {a b : Fv} (ha : a.isNan = false) (hb : b.isNan = false) (hi : a.isInf = true ∨ b.isInf = true)
    (hza : a.isZero = false) (hzb : b.isZero = false) : mulFv a b = some (.inf (a.neg != b.neg)) := by
  cases a <;> cases b <;> simp_all [mulFv, Fv.isInf, Fv.isZero, Fv.isNan]

theorem mulFv_isSome {a b : Fv} (ha : a.isNan = false) (hb : b.isNan = false) (h1 : ¬(a.isInf = true ∧ b.isZero = true))
    (h2 : ¬(a.isZero = true ∧ b.isInf = true)) : ∃ p, mulFv a b = some p := by
  cases a <;> cases b <;> simp_all [mulFv, Fv.isInf, Fv.isZero, Fv.isNan]

theorem fv_cases (v : Fv) : v.isNan = true ∨ (∃ n, v = .inf n) ∨ ∃ x, finQ v = some x := by
  cases v <;> simp [Fv.isNan, finQ]

end Sys2Proof.Machine
end

section
/-! The arithmetic forms round the exact result (R42, R43, R45, R114). -/

namespace Sys2Proof.Machine

open Sys2Proof.Claims

/-! Operands. -/

theorem decode_inf {f : Fp} {a : Nat} {n : Bool} (h : f.decode a = .inf n) : f.infs = true := by
  rcases le_or_gt (f.magBits a) f.largest with hle | hgt
  · rw [decode_of_le hle] at h; simp at h
  · rw [decode_of_gt hgt] at h
    split at h
    · next hc => exact hc.1
    · simp at h

theorem operand_inf {f : Fp} {ftz : Bool} {a : Nat} {n : Bool} (h : operand f ftz a = .inf n) : f.infs = true := by
  refine decode_inf (a := a) (n := n) ?_
  rw [operand] at h
  cases hd : f.decode a with
  | nan s => rw [hd] at h; exact h
  | inf n => rw [hd] at h; exact h
  | fin n k x => rw [hd, ftzIn] at h; split at h <;> cases h

theorem isInf_iff {v : Fv} : v.isInf = true ↔ ∃ n, v = .inf n := by cases v <;> simp [Fv.isInf]

theorem isInf_eq {v : Fv} (h : v.isInf = true) : v = .inf v.neg := by cases v <;> simp_all [Fv.isInf, Fv.neg]

theorem isNan_of_finQ {v : Fv} {x : ℚ} (h : finQ v = some x) : v.isNan = false := by cases v <;> simp_all [finQ, Fv.isNan]

theorem snan_of_not_nan {v : Fv} (h : v.isNan = false) : v.snan = false := by cases v <;> simp_all [Fv.isNan, Fv.snan]

theorem not_isInf_of_finQ {v : Fv} {x : ℚ} (h : finQ v = some x) (n : Bool) : v ≠ .inf n := by rintro rfl; simp [finQ] at h

theorem isNan_of_inf {v : Fv} {n : Bool} (h : v = .inf n) : v.isNan = false := by rw [h]; rfl

theorem inf_ne_opposite (n : Bool) : Fv.inf n ≠ .inf !n := by cases n <;> simp

theorem not_mem_pair {n : Bool} {v w : Fv} (hv : v ≠ .inf n) (hw : w ≠ .inf n) : .inf n ∉ [v, w] := by
  simp [hv.symm, hw.symm]

/-- An infinite operand without `.SAT` stays, and under it is the largest value (R43). -/
theorem roundTo_inf_of_infs {f : Fp} (hf : f.infs = true) (m : Rm) (sat ftz n : Bool) :
    roundTo f m sat ftz (.inf n) = (if sat then f.signed n f.largest else f.inf n, 0) := by
  cases sat <;> simp [roundTo, hf]

/-- A sum that is rounded, opposite infinities being invalid. -/
def roundSum (f : Fp) (m : Rm) (sat ftz : Bool) (e : Ex) : Nat × Nat := if e = .nan then (f.cnan, 1) else roundTo f m sat ftz e

theorem roundSum_of_exQ {f : Fp} {m : Rm} {sat ftz : Bool} {e : Ex} {x : ℚ} (h : exQ e = some x) :
    roundSum f m sat ftz e = roundTo f m sat ftz e := if_neg (by rintro rfl; simp [exQ] at h)

section
variable {f : Fp} {m : Rm} {sat ftz : Bool} {a b c : Nat}

/-! Addition. -/

theorem fpAdd_nan (h : (operand f ftz a).isNan = true ∨ (operand f ftz b).isNan = true) :
    fpAdd f m sat ftz a b = (f.cnan, if (operand f ftz a).snan || (operand f ftz b).snan then 1 else 0) :=
  if_pos (by simpa [operand] using h)

theorem fpAdd_sum (ha : (operand f ftz a).isNan = false) (hb : (operand f ftz b).isNan = false) :
    fpAdd f m sat ftz a b = roundSum f m sat ftz (sumEx m [operand f ftz a, operand f ftz b]) := by
  refine (if_neg (by simpa [operand] using ⟨ha, hb⟩)).trans ?_
  simp only [roundSum, operand]
  split
  · next h => exact (if_pos h).symm
  · next h => exact (if_neg h).symm

/-- An infinity added to anything but its opposite stays. -/
theorem fpAdd_inf {n : Bool} (h : (operand f ftz a = .inf n ∧ (operand f ftz b = .inf n ∨ ∃ y, finQ (operand f ftz b) = some y)) ∨
      (operand f ftz b = .inf n ∧ ∃ x, finQ (operand f ftz a) = some x)) :
    fpAdd f m sat ftz a b = (if sat then f.signed n f.largest else f.inf n, 0) := by
  have hf : f.infs = true := h.elim (fun h => operand_inf h.1) (fun h => operand_inf h.1)
  have hmem : Fv.inf n ∈ [operand f ftz a, operand f ftz b] := by rcases h with ⟨h, -⟩ | ⟨h, -⟩ <;> simp [h]
  have hnot : Fv.inf (!n) ∉ [operand f ftz a, operand f ftz b] := by
    rcases h with ⟨h1, h2 | ⟨y, h2⟩⟩ | ⟨h1, y, h2⟩
    · rw [h1, h2]; exact not_mem_pair (inf_ne_opposite n) (inf_ne_opposite n)
    · exact not_mem_pair (h1 ▸ inf_ne_opposite n) (not_isInf_of_finQ h2 _)
    · exact not_mem_pair (not_isInf_of_finQ h2 _) (h1 ▸ inf_ne_opposite n)
  have hnan : (operand f ftz a).isNan = false ∧ (operand f ftz b).isNan = false := by
    rcases h with ⟨h1, h2 | ⟨y, h2⟩⟩ | ⟨h1, y, h2⟩
    · exact ⟨isNan_of_inf h1, isNan_of_inf h2⟩
    · exact ⟨isNan_of_inf h1, isNan_of_finQ h2⟩
    · exact ⟨isNan_of_finQ h2, isNan_of_inf h1⟩
  rw [fpAdd_sum hnan.1 hnan.2, sumEx_inf m hmem hnot, roundSum, if_neg (by simp), roundTo_inf_of_infs hf]

/-! Multiplication. -/

theorem fpMul_nan (h : (operand f ftz a).isNan = true ∨ (operand f ftz b).isNan = true) :
    fpMul f m sat ftz a b = (f.cnan, if (operand f ftz a).snan || (operand f ftz b).snan then 1 else 0) :=
  if_pos (by simpa [operand] using h)

theorem not_nan_of_mulFv {a b : Fv} (h : a.isNan = false ∧ b.isNan = false) : ¬(a.isNan || b.isNan) = true := by simp [h.1, h.2]

theorem fpMul_none (hn : (operand f ftz a).isNan = false ∧ (operand f ftz b).isNan = false)
    (h : mulFv (operand f ftz a) (operand f ftz b) = none) : fpMul f m sat ftz a b = (f.cnan, 1) := by
  refine (if_neg (not_nan_of_mulFv hn)).trans ?_
  simp only [operand] at h
  rw [h]
  rfl

theorem fpMul_some (hn : (operand f ftz a).isNan = false ∧ (operand f ftz b).isNan = false) {p : Fv}
    (h : mulFv (operand f ftz a) (operand f ftz b) = some p) : fpMul f m sat ftz a b = roundTo f m sat ftz p.ex := by
  refine (if_neg (not_nan_of_mulFv hn)).trans ?_
  simp only [operand] at h
  rw [h]

/-! Multiplication and addition. -/

theorem fpFma_nan (h : (operand f ftz a).isNan = true ∨ (operand f ftz b).isNan = true) :
    fpFma f m sat ftz a b c =
      (f.cnan, if (operand f ftz a).snan || (operand f ftz b).snan || (operand f ftz c).snan then 1 else 0) :=
  if_pos (by simpa [operand] using h)

theorem fpFma_none (hn : (operand f ftz a).isNan = false ∧ (operand f ftz b).isNan = false)
    (h : mulFv (operand f ftz a) (operand f ftz b) = none) : fpFma f m sat ftz a b c = (f.cnan, 1) := by
  refine (if_neg (not_nan_of_mulFv hn)).trans ?_
  simp only [operand] at h
  rw [h]
  rfl

theorem fpFma_addend_nan (hn : (operand f ftz a).isNan = false ∧ (operand f ftz b).isNan = false) {p : Fv}
    (h : mulFv (operand f ftz a) (operand f ftz b) = some p) (hc : (operand f ftz c).isNan = true) :
    fpFma f m sat ftz a b c = (f.cnan, if (operand f ftz c).snan then 1 else 0) := by
  have hs : ((operand f ftz a).snan || (operand f ftz b).snan || (operand f ftz c).snan) = (operand f ftz c).snan := by
    rw [snan_of_not_nan hn.1, snan_of_not_nan hn.2]; rfl
  refine (if_neg (not_nan_of_mulFv hn)).trans ?_
  simp only [operand] at h hc hs ⊢
  rw [h]
  simp only [hc, hs, if_true]
  rfl

theorem fpFma_sum (hn : (operand f ftz a).isNan = false ∧ (operand f ftz b).isNan = false) {p : Fv}
    (h : mulFv (operand f ftz a) (operand f ftz b) = some p) (hc : (operand f ftz c).isNan = false) :
    fpFma f m sat ftz a b c = roundSum f m sat ftz (sumEx m [p, operand f ftz c]) := by
  refine (if_neg (not_nan_of_mulFv hn)).trans ?_
  simp only [operand] at h hc
  rw [h]
  simp only [hc, roundSum, operand, Bool.false_eq_true, if_false]
  split
  · next h => exact (if_pos h).symm
  · next h => exact (if_neg h).symm

/-- An infinite product or addend that the other does not oppose. -/
theorem fpFma_inf (hn : (operand f ftz a).isNan = false ∧ (operand f ftz b).isNan = false) {p : Fv}
    (h : mulFv (operand f ftz a) (operand f ftz b) = some p) (hf : f.infs = true) (hc : (operand f ftz c).isNan = false)
    {n : Bool} (hmem : .inf n ∈ [p, operand f ftz c]) (hnot : .inf (!n) ∉ [p, operand f ftz c]) :
    fpFma f m sat ftz a b c = (if sat then f.signed n f.largest else f.inf n, 0) := by
  rw [fpFma_sum hn h hc, sumEx_inf m hmem hnot, roundSum, if_neg (by simp), roundTo_inf_of_infs hf]

end

end Sys2Proof.Machine

open Sys2Proof Sys2Proof.Machine Sys2Proof.Claims

/-- Settles O6: the terms are added at their least exponent, and NaNs and infinities are told apart first. -/
theorem sumsAndProductsAreExact : Obligations.SumsAndProductsAreExact := by
  unfold Obligations.SumsAndProductsAreExact
  intro f m sat ftz a b c A B C inf nanIf
  refine ⟨fun x y hx hy => ?_, fun h => ⟨fpAdd_nan h, fpMul_nan h, fpFma_nan h⟩, ?_, fun h => ?_, fun n => fpAdd_inf,
    fun hA hB hi hzA hzB => ?_, fun x y n hx hy hC => ?_, fun hA hB h1 h2 hC => ?_⟩
  · have hn := And.intro (isNan_of_finQ hx) (isNan_of_finQ hy)
    obtain ⟨p, hp, hpq, hpn⟩ := mulFv_fin hx hy
    refine ⟨?_, ?_, fun z hz => ?_⟩
    · obtain ⟨h1, h2⟩ := sumEx_two m hx hy
      exact ⟨_, h1, by rw [fpAdd_sum hn.1 hn.2, roundSum_of_exQ h1], h2⟩
    · obtain ⟨n, k, e, rfl, hd⟩ := finQ_eq_some.1 hpq
      refine ⟨_, hd ▸ exQ_ex n k e, fpMul_some hn hp, fun h0 => ?_⟩
      rw [← hpn, Fv.ex, if_pos (dyadic_eq_zero.1 (hd.trans h0))]
      rfl
    · obtain ⟨h1, h2⟩ := sumEx_two m hpq hz
      refine ⟨_, h1, by rw [fpFma_sum hn hp (isNan_of_finQ hz), roundSum_of_exQ h1], fun h0 => ?_⟩
      rw [h2 h0, hpn]
      have : x * y = 0 ↔ z = 0 := by constructor <;> intro h <;> rw [h] at h0 <;> simpa using h0
      by_cases hc : z = 0 ∧ (A.neg != B.neg) = C.neg
      · rw [if_pos hc, if_pos ⟨this.2 hc.1, hc.2⟩, hc.2]
      · rw [if_neg hc, if_neg fun h => hc ⟨this.1 h.1, h.2⟩]
  · rintro ⟨n, hA, hB⟩
    have hs : sumEx m [A, B] = .nan := by rw [hA, hB]; cases n <;> exact sumEx_opposite m (by simp) (by simp)
    rw [fpAdd_sum (isNan_of_inf hA) (isNan_of_inf hB), hs]
    exact if_pos rfl
  · have hn : A.isNan = false ∧ B.isNan = false := by
      generalize A = v at h; generalize B = w at h
      cases v <;> cases w <;> simp_all [Fv.isNan, Fv.isInf, Fv.isZero]
    exact ⟨fpMul_none hn (mulFv_none h), fpFma_none hn (mulFv_none h)⟩
  · -- an infinity times what is not zero
    have hn : A.isNan = false ∧ B.isNan = false := ⟨by simpa using hA, by simpa using hB⟩
    have hp := mulFv_inf hn.1 hn.2 hi (by simpa using hzA) (by simpa using hzB)
    have hf : f.infs = true := hi.elim (fun h => operand_inf (isInf_eq h)) (fun h => operand_inf (isInf_eq h))
    refine ⟨(fpMul_some hn hp).trans (roundTo_inf_of_infs hf ..), ?_, fun hC => ?_⟩
    · rintro (⟨z, hz⟩ | hC)
      · exact fpFma_inf hn hp hf (isNan_of_finQ hz) (by simp) (not_mem_pair (inf_ne_opposite _) (not_isInf_of_finQ hz _))
      · exact fpFma_inf hn hp hf (isNan_of_inf hC) (by simp)
          (not_mem_pair (inf_ne_opposite _) fun h => inf_ne_opposite _ (hC.symm.trans h))
    · rw [fpFma_sum hn hp (isNan_of_inf hC), show operand f ftz c = _ from hC]
      generalize (A.neg != B.neg) = n
      exact if_pos (by cases n <;> exact sumEx_opposite m (by simp) (by simp))
  · obtain ⟨p, hp, hpq, -⟩ := mulFv_fin hx hy
    exact fpFma_inf ⟨isNan_of_finQ hx, isNan_of_finQ hy⟩ hp (operand_inf hC) (isNan_of_inf hC)
      (by simp [show operand f ftz c = _ from hC])
      (not_mem_pair (not_isInf_of_finQ hpq _) fun h => inf_ne_opposite _ (hC.symm.trans h))
  · have hn : A.isNan = false ∧ B.isNan = false := ⟨by simpa using hA, by simpa using hB⟩
    obtain ⟨p, hp⟩ := mulFv_isSome hn.1 hn.2 h1 h2
    exact fpFma_addend_nan hn hp hC
end

section
/-! Conversions between formats (R46 to R49, R122). -/

namespace Sys2Proof.Machine

open Sys2Proof.Claims

/-! Forms that compute values and flags. -/

/-- A form of class "uniform when every source is" completes with its function's values and flags (R111, R112). -/
theorem alu_floats {i : Instr} {h : Hdr} {d : BitVec 7} {a b n : Nat} {srcs : List Src} {f : List Nat → Nat × Nat}
    {val : Warp → Nat → Nat × Nat} (hn : n = 1 ∨ n = 2) (hi : ∀ s, exec i s = s.alu .plain h a b d.toNat n srcs f)
    (hv : ∀ r t, f (srcs.map (Src.val r t)) = val r t) : Floats i h d n (markCodes h a b) val := by
  intro s c w I hd
  have hfit : d.toNat + n ≤ 64 ∨ 64 ≤ d.toNat := by rcases hn with rfl | rfl <;> omega
  simp only [hi, ← hv]
  exact ⟨fun hq => alu_gives I hfit (fun _ ha => absurd ha (plain_not_aff _)) hq,
    fun hq => compute_traps I hfit (fun _ hu t u _ _ => by rw [vals_of_uni hu t u]) (fun _ ha => absurd ha (plain_not_aff _)) hq⟩

/-- The same for a form that raises no flag. -/
theorem alu0_computes {i : Instr} {h : Hdr} {d : BitVec 7} {a b n : Nat} {srcs : List Src} {f : List Nat → Nat}
    {val : Warp → Nat → Nat} (hn : n = 1 ∨ n = 2) (hi : ∀ s, exec i s = s.alu0 .plain h a b d.toNat n srcs f)
    (hv : ∀ r t, f (srcs.map (Src.val r t)) = val r t) : Computes i h d n (markCodes h a b) val :=
  alu_floats (f := fun l => (f l, 0)) (val := fun r t => (val r t, 0)) hn hi fun r t => by rw [hv]

theorem val_r1 (r : Warp) (a : BitVec 7) (t : Nat) : (r1 a).val r t = fp1 r a t := wide_one r a.toNat t

theorem val_ts (h : Hdr) (r : Warp) (t : Nat) : (tsReg h 1).val r t = (third r h t).toNat := by
  unfold tsReg third
  cases h.e0 with
  | none => rfl
  | some e => exact wide_one r e.ts.toNat t

theorem numRegs_one_or_two (k : Nat) : numRegs k = 1 ∨ numRegs k = 2 := by
  unfold numRegs
  split <;> simp

/-- CVT between formats that are not reserved (R122). -/
theorem cvt_floats (h : Hdr) (d a : BitVec 7) (imm : BitVec 10) {dst src : NumFmt} (hd : numFmt (imm.toNat % 32) = some dst)
    (hs : numFmt (imm.toNat / 32) = some src) :
    Floats (.cvt h d a imm) h d (numRegs (imm.toNat % 32)) (marksA h a) (fun r t =>
      convert dst src (modeOf h) h.ext.sat h.ext.ftz (if numRegs (imm.toNat / 32) = 2 then fp2 r a t else fp1 r a t)) := by
  have hfld : fld imm.toNat 5 5 = imm.toNat / 32 := by have := imm.isLt; rw [fld]; omega
  refine alu_floats (numRegs_one_or_two _) (fun s => by rw [exec_cvt, execCvt]) fun r t => ?_
  rw [fpConvert, hfld, hd, hs]
  simp only [op, List.map_cons, List.getD_cons_zero, Src.val, modeOf]
  rcases numRegs_one_or_two (imm.toNat / 32) with hk | hk
  · rw [hk, wide_one]; rfl
  · rw [hk, wide_two]; rfl

/-! Between floating-point formats. -/

theorem sig_lt_iff {f : Fp} {c : Nat} : f.sig c < 2 ^ f.f ↔ c < 2 ^ f.f := by
  have hp : 0 < 2 ^ f.f := by positivity
  by_cases h : c / 2 ^ f.f = 0
  · rw [sig_of_div_eq_zero h]
    exact iff_of_true (Nat.mod_lt _ hp) ((Nat.div_eq_zero_iff_lt hp).1 h)
  · rw [sig_of_div_ne_zero h]
    exact iff_of_false (by omega) (mt (Nat.div_eq_zero_iff_lt hp).2 h)

theorem magOf_eq_zero {f : Fp} {c : Nat} : magOf f true c = 0 ↔ f.magBits c < 2 ^ f.f := by
  have := Nat.two_pow_pos f.f
  simp only [magOf, Fp.magBits, Bool.true_and, decide_eq_true_eq]
  split <;> omega

theorem ftz_fp_iff {f : Fp} : (f == .fp64 || f == .fp32 || f == .fp16 || f == .bf16) = true ↔ f ∈ [Fp.fp64, .fp32, .fp16, .bf16] := by
  cases f <;> decide

/-- A subnormal operand of a conversion is 0 under `.FTZ`, in the formats that have it and between equal formats (R44, R122). -/
theorem convIn_fin (f g : Fp) (ftz n : Bool) (k : Nat) (x : Int) :
    convIn f g ftz (.fin n k x) = if ftz = true ∧ (f = g ∨ f ∈ [Fp.fp64, .fp32, .fp16, .bf16]) ∧ k < 2 ^ f.f then .fin n 0 x
      else .fin n k x := by
  simp only [convIn, ftzIn, Bool.and_eq_true, ftz_fp_iff, beq_iff_eq, decide_eq_true_eq]
  by_cases h1 : (ftz = true ∧ f = g) ∧ k < 2 ^ f.f
  · rw [if_pos h1, if_pos ⟨h1.1.1, .inl h1.1.2, h1.2⟩]
  · rw [if_neg h1]
    refine if_congr ⟨fun h => ⟨h.1.1, .inr h.1.2, h.2⟩, fun h => ⟨⟨h.1, h.2.1.resolve_left fun hf => h1 ⟨⟨h.1, hf⟩, h.2.2⟩⟩, h.2.2⟩⟩
      rfl rfl

theorem finQ_convIn (f g : Fp) (ftz : Bool) (c : Nat) :
    finQ (convIn f g ftz (f.decode c)) =
      if ftz = true ∧ (f = g ∨ f ∈ [Fp.fp64, .fp32, .fp16, .bf16]) ∧ magOf f true c = 0 then some 0 else finQ (f.decode c) := by
  have hz : ∀ n x, finQ (.fin n 0 x) = some 0 := fun n x => congrArg some (dyadic_eq_zero.2 rfl)
  by_cases h : ftz = true ∧ (f = g ∨ f ∈ [Fp.fp64, .fp32, .fp16, .bf16]) ∧ magOf f true c = 0
  · have hle : f.magBits c ≤ f.largest := (magOf_eq_zero.1 h.2.2).le.trans (two_pow_le_largest f)
    rw [if_pos h, decode_of_le hle, convIn_fin, if_pos ⟨h.1, h.2.1, sig_lt_iff.2 (magOf_eq_zero.1 h.2.2)⟩, hz]
  · rw [if_neg h]
    rcases le_or_gt (f.magBits c) f.largest with hle | hgt
    · rw [decode_of_le hle, convIn_fin, if_neg fun hc => h ⟨hc.1, hc.2.1, magOf_eq_zero.2 (sig_lt_iff.1 hc.2.2)⟩]
    · rw [decode_of_gt hgt]
      split <;> rfl

/-- A finite operand of a conversion has its code's sign. -/
theorem convIn_neg {f g : Fp} {ftz : Bool} {c : Nat} {n : Bool} {k : Nat} {x : Int}
    (h : convIn f g ftz (f.decode c) = .fin n k x) : n = signOf f c := by
  rcases le_or_gt (f.magBits c) f.largest with hle | hgt
  · rw [decode_of_le hle, convIn_fin] at h
    split at h <;> cases h <;> rfl
  · rw [decode_of_gt hgt] at h
    split at h <;> cases h

theorem not_escape_iff {f : Fp} {c : Nat} : (f == .e2m1 && c % 16 == 8) = true ↔ f = .e2m1 ∧ c % 16 = 8 := by simp

section
variable {f g : Fp} {m : Rm} {sat ftz : Bool} {c : Nat}

theorem convert_fp_fin (he : ¬(f = .e2m1 ∧ c % 16 = 8)) {n : Bool} {k : Nat} {x : Int}
    (h : convIn f g ftz (f.decode c) = .fin n k x) :
    convert (.fp g) (.fp f) m sat ftz c = roundTo g m sat ftz (Fv.fin n k x).ex := by
  simp only [convert, mt not_escape_iff.1 he, h]
  rfl

/-- A quiet or a signalling NaN converted (R47). -/
theorem convert_fp_nan (he : ¬(f = .e2m1 ∧ c % 16 = 8)) {sig : Bool} (h : f.decode c = .nan sig) :
    convert (.fp g) (.fp f) m sat ftz c = (if g ∈ [Fp.e3m2, .e2m3, .e2m1] then 0 else g.cnan,
      if sig = true ∨ g ∈ [Fp.e3m2, .e2m3, .e2m1] then 1 else 0) := by
  simp only [convert, mt not_escape_iff.1 he, h, convIn]
  cases sig <;> cases g <;> rfl

/-- An infinity converted (R47). -/
theorem convert_fp_inf (he : ¬(f = .e2m1 ∧ c % 16 = 8)) {n : Bool} (h : f.decode c = .inf n) :
    convert (.fp g) (.fp f) m sat ftz c = if sat then (g.signed n g.largest, 0) else if g = .e4m3 then (0x7F, 1)
      else if g ∈ [Fp.e3m2, .e2m3, .e2m1] then (g.signed n g.largest, 1) else (g.inf n, 0) := by
  simp only [convert, mt not_escape_iff.1 he, h, convIn]
  cases sat <;> cases g <;> simp [Fp.infs, Fp.cnan, fIV]

/-- E2M1's code 8 outside a block (R46). -/
theorem convert_escape (he : c % 16 = 8) :
    convert (.fp g) (.fp .e2m1) m sat ftz c = (if g ∈ [Fp.e3m2, .e2m3, .e2m1] then 0 else g.cnan, 1) ∧
      ∀ sg w, convert (.int sg w) (.fp .e2m1) m sat ftz c = (0, 1) := by
  have h : (Fp.e2m1 == .e2m1 && c % 16 == 8) = true := by simp [he]
  constructor
  · simp only [convert, h]
    cases g <;> rfl
  · intro sg w
    simp only [convert, h]
    rfl

/-- Any other finite value is rounded once (R46). -/
theorem convert_fp_value (he : ¬(f = .e2m1 ∧ c % 16 = 8)) {v : ℚ} (h : finQ (convIn f g ftz (f.decode c)) = some v) :
    (v = 0 → Codes g (signOf f c) 0 (convert (.fp g) (.fp f) m sat ftz c).1 ∧ (convert (.fp g) (.fp f) m sat ftz c).2 = 0) ∧
      (v ≠ 0 → IsRound g m sat ftz v (convert (.fp g) (.fp f) m sat ftz c)) := by
  obtain ⟨n, k, x, hf, rfl⟩ := finQ_eq_some.1 h
  rw [convert_fp_fin he hf]
  constructor
  · intro h0
    rw [Fv.ex, if_pos (dyadic_eq_zero.1 h0), ← convIn_neg hf]
    exact ⟨codes_zero g n, rfl⟩
  · exact fun hv => roundTo_isRound g m sat ftz (standsFor_of_exQ g (exQ_ex n k x) hv)

/-! To integers. -/

/-- A value rounded to an integer, and whether that changed it (R40, R48). -/
theorem roundInt_eq (m : Rm) (n : Bool) (k : Nat) (x : Int) :
    (roundInt m n k x).1 = roundQ m (dyadic n k x) ∧
      ((roundInt m n k x).2 = false ↔ (roundQ m (dyadic n k x) : ℚ) = dyadic n k x) := by
  obtain ⟨hr, hst⟩ := steps_eq n k x 0
  rw [zpow_zero, div_one] at hst
  have h1 := roundQ_quot m n (q := if x ≥ 0 then k * 2 ^ (x - 0).toNat else k / 2 ^ (0 - x).toNat) hr
  have h2 := roundQ_quot_eq_iff m n (q := if x ≥ 0 then k * 2 ^ (x - 0).toNat else k / 2 ^ (0 - x).toNat) hr
  rw [← hst] at h1 h2
  rw [h1, ← h1, h2, h1, roundInt]
  simp only [sub_zero, zero_sub]
  by_cases h : x ≥ 0
  · simp [h, roundUp_zero, b2n]
  · simp only [h, if_false]
    refine ⟨?_, bne_eq_false_iff_eq⟩
    push_cast
    cases n <;> simp

/-- A finite value to an integer format (R48). -/
theorem convert_int_value (he : ¬(f = .e2m1 ∧ c % 16 = 8)) {x : ℚ} (h : finQ (operand f ftz c) = some x) (sg : Bool) (w : Nat) :
    convert (.int sg w) (.fp f) m sat ftz c =
      if roundQ m x < intMin sg w then (intBits w (intMin sg w), 1) else if intMax sg w < roundQ m x then (intBits w (intMax sg w), 1)
      else (intBits w (roundQ m x), if (roundQ m x : ℚ) = x then 0 else 16) := by
  obtain ⟨n, k, e, hf, rfl⟩ := finQ_eq_some.1 h
  obtain ⟨h1, h2⟩ := roundInt_eq m n k e
  rw [operand] at hf
  simp only [convert, mt not_escape_iff.1 he, hf, Bool.false_eq_true, if_false, h1, ← h2]
  cases (roundInt m n k e).2 <;> rfl

theorem convert_int_nan (he : ¬(f = .e2m1 ∧ c % 16 = 8)) (h : (f.decode c).isNan = true) (sg : Bool) (w : Nat) :
    convert (.int sg w) (.fp f) m sat ftz c = (0, 1) := by
  cases hd : f.decode c with
  | nan sig => simp only [convert, mt not_escape_iff.1 he, hd, ftzIn]; rfl
  | inf n => rw [hd] at h; cases h
  | fin n k x => rw [hd] at h; cases h

theorem convert_int_inf (he : ¬(f = .e2m1 ∧ c % 16 = 8)) {n : Bool} (h : f.decode c = .inf n) (sg : Bool) (w : Nat) :
    convert (.int sg w) (.fp f) m sat ftz c = (intBits w (if n then intMin sg w else intMax sg w), 1) := by
  simp only [convert, mt not_escape_iff.1 he, h, ftzIn]
  rfl

/-! From integers. -/

/-- The value of an integer code. -/
theorem intVal_eq (sg : Bool) {w : Nat} (hw : 0 < w) (c : Nat) :
    intVal sg w c = if sg then (BitVec.ofNat w c).toInt else (BitVec.ofNat w c).toNat := by
  cases sg with
  | false => simp [intVal]
  | true =>
    rw [intVal, if_pos rfl, if_pos rfl, ← sval_toNat _ hw]
    simp [sval]

/-- The value that wrapping to a format leaves (R32). -/
theorem wrapped_eq (sg : Bool) {w : Nat} (hw : 0 < w) (v : Int) :
    (if sg then sval w (wrapI w v) else (wrapI w v : Nat)) =
      if sg then (BitVec.ofInt w v).toInt else ((BitVec.ofInt w v).toNat : Int) := by
  have h : wrapI w v = (BitVec.ofInt w v).toNat := by rw [wrapI, BitVec.toNat_ofInt]; push_cast; rfl
  rw [h, sval_toNat _ hw]

theorem satI_eq (sg : Bool) (w : Nat) (v : Int) : satI sg w v = max (intMin sg w) (min v (intMax sg w)) := by
  have h : intMin sg w ≤ intMax sg w := by
    have h1 : (0 : Int) < 2 ^ (w - 1) := by positivity
    have h2 : (0 : Int) < 2 ^ w := by positivity
    cases sg <;> simp only [intMin, intMax, if_true, Bool.false_eq_true, if_false] <;> omega
  rw [satI]
  split
  · omega
  · split <;> omega

/-- An integer to a floating-point format (R49). -/
theorem convert_from_int (sg : Bool) (w : Nat) :
    (intVal sg w c = 0 → convert (.fp g) (.int sg w) m sat ftz c = (0, 0)) ∧
      (intVal sg w c ≠ 0 → IsRound g m sat ftz (intVal sg w c) (convert (.fp g) (.int sg w) m sat ftz c)) := by
  simp only [convert]
  generalize intVal sg w c = v
  constructor
  · rintro rfl
    rw [if_pos rfl, roundTo]
    cases g <;> rfl
  · intro hv
    rw [if_neg hv]
    have hd := dyadic_int v 0
    rw [zpow_zero, mul_one] at hd
    exact roundTo_isRound g m sat ftz (e := .num (v < 0) v.natAbs 0 false) ⟨by omega, hd.symm⟩

end

end Sys2Proof.Machine

open Sys2Proof Sys2Proof.Machine Sys2Proof.Claims

/-- Settles O13: between floating-point formats and from integers there is one rounding; to integers `roundQ` decides. -/
theorem conversions : Obligations.Conversions := by
  unfold Obligations.Conversions
  refine ⟨fun h d a imm dst src hd hs => cvt_floats h d a imm hd hs, fun f g m sat ftz c he => ?_,
    fun g m sat ftz c he => convert_escape he, fun f sg w m sat ftz c _ => ?_, fun sg w m sat ftz c hw => ?_⟩
  · intro r read
    have hread : finQ (convIn f g ftz (f.decode c)) = read := finQ_convIn f g ftz c
    exact ⟨fun h => (convert_fp_value he (hread.trans h)).1 rfl, fun v hv h => (convert_fp_value he (hread.trans h)).2 hv,
      fun sig => convert_fp_nan he, fun n => convert_fp_inf he⟩
  · intro lo hi bits r he
    exact ⟨fun h => convert_int_nan he h sg w, fun h => convert_int_inf he h sg w, fun h => convert_int_inf he h sg w,
      fun x hx => convert_int_value he hx sg w⟩
  · have hw0 : ∀ w ∈ [4, 8, 16, 32, 64], 0 < w := by decide
    intro v
    have hv : intVal sg w c = v := intVal_eq sg (hw0 w hw) c
    refine ⟨fun g => hv ▸ convert_from_int sg w, fun sg' w' hw' => ?_⟩
    intro lo hi y
    have hy : (if sat then satI sg' w' v else if sg' then sval w' (wrapI w' v) else (wrapI w' v : Nat)) = y := by
      rw [satI_eq, wrapped_eq sg' (hw0 w' hw')]; rfl
    rw [← hy, ← hv]
    rfl
end

section
/-! Dot products: exact integer sums that wrap, and exact sums of products rounded once (R57, R58, R123, R124). -/

namespace Sys2Proof.Machine

open Sys2Proof.Claims

/-! Integers. -/

/-- What an element is worth, by signedness. -/
def elementOf : Bool → Nat → Nat → Int
  | true => signedEl
  | false => unsignedEl

theorem intVal_fld (sg : Bool) {w : Nat} (hw : 0 < w) (x i : Nat) : intVal sg w (fld x (w * i) w) = elementOf sg w (element w x i) := by
  rw [intVal_eq sg hw]
  cases sg with
  | true => rfl
  | false => simp [elementOf, unsignedEl, element, fld]

theorem foldl_add_map (g : Nat → Int) (l : List Nat) (a : Int) : l.foldl (fun t i => t + g i) a = a + (l.map g).sum := by
  induction l generalizing a with
  | nil => simp
  | cons i l ih => rw [List.foldl_cons, ih, List.map_cons, List.sum_cons, add_assoc]

theorem dotInt_eq (h : Hdr) (a b : BitVec 7) (n : Nat) {w : Nat} (hw : 0 < w) (sa sb : Bool) (r : Warp) (t : Nat) :
    dotInt n w sa sb (fp1 r a t) (fp1 r b t) (third r h t).toNat = dotInts h a b n w (elementOf sa) (elementOf sb) r t := by
  have hs : sval 32 (third r h t).toNat = (third r h t).toInt := sval_toNat _ (by norm_num)
  rw [dotInt, foldl_add_map, hs, wrapI, dotInts, BitVec.toNat_ofInt]
  simp only [intVal_fld _ hw]
  rfl

/-- An integer dot product completes. -/
theorem dotInt_computes {i : Instr} {h : Hdr} {d a b : BitVec 7} {n w : Nat} (hw : 0 < w) (sa sb : Bool)
    (hi : ∀ s, exec i s = s.alu0 .plain h a.toNat b.toNat d.toNat 1 [r1 a, r1 b, tsReg h 1] fun l =>
      dotInt n w sa sb (op l 0) (op l 1) (op l 2)) :
    Computes i h d 1 (marksAB h a b) (dotInts h a b n w (elementOf sa) (elementOf sb)) :=
  alu0_computes (.inl rfl) hi fun r t => by
    rw [← dotInt_eq h a b n hw, ← val_r1, ← val_r1, ← val_ts]
    rfl

/-- A floating-point dot product completes. -/
theorem dotFp_floats {i : Instr} {h : Hdr} {d a b : BitVec 7} {f : Fp} {n w : Nat}
    (hi : ∀ s, exec i s = s.fp h a.toNat b.toNat d.toNat 1 [r1 a, r1 b, tsReg h 1] fun m _ _ l =>
      dotFp f n w m (op l 0) (op l 1) (op l 2)) : Floats i h d 1 (marksAB h a b) (dotFloats h a b f n w) :=
  alu_floats (f := fun l => dotFp f n w (modeOf h) (op l 0) (op l 1) (op l 2)) (.inl rfl) hi fun r t => by
    rw [dotFloats, ← val_r1, ← val_r1, ← val_ts]
    rfl

/-! The terms of a sum of products. -/

theorem mulFv_eq_none_iff {a b : Fv} (ha : a.isNan = false) (hb : b.isNan = false) :
    mulFv a b = none ↔ (a.isInf = true ∧ b.isZero = true) ∨ (a.isZero = true ∧ b.isInf = true) := by
  refine ⟨fun h => ?_, mulFv_none⟩
  by_contra hc
  rw [not_or] at hc
  obtain ⟨p, hp⟩ := mulFv_isSome ha hb hc.1 hc.2
  simp [hp] at h

theorem mulFv_eq_inf_iff {a b : Fv} (ha : a.isNan = false) (hb : b.isNan = false) {n : Bool} :
    mulFv a b = some (.inf n) ↔
      a.isZero = false ∧ b.isZero = false ∧ (a.isInf = true ∨ b.isInf = true) ∧ (a.neg != b.neg) = n := by
  cases a <;> cases b <;> simp_all [mulFv, Fv.isInf, Fv.isZero, Fv.isNan, Fv.neg]

theorem sumEx_eq_nan_iff {mode : Rm} {ts : List Fv} : sumEx mode ts = .nan ↔ .inf true ∈ ts ∧ .inf false ∈ ts := by
  refine ⟨fun h => ?_, fun h => sumEx_opposite mode h.1 h.2⟩
  by_contra hc
  by_cases h1 : .inf true ∈ ts
  · rw [sumEx_inf mode h1 fun h2 => hc ⟨h1, h2⟩] at h; cases h
  · by_cases h2 : .inf false ∈ ts
    · rw [sumEx_inf mode h2 h1] at h; cases h
    · simp only [sumEx, List.any_beq', List.contains_eq_mem, h1, h2, decide_false, Bool.false_eq_true, if_false] at h
      repeat' split at h
      all_goals cases h

/-- The products that are values, and the addend. -/
def dotTerms (acc : Fv) (prs : List (Fv × Fv)) : List Fv :=
  ((prs.filter fun p => !p.1.isNan && !p.2.isNan).map fun p => mulFv p.1 p.2).filterMap id ++ (if acc.isNan then [] else [acc])

theorem mem_dotTerms {acc : Fv} {prs : List (Fv × Fv)} {v : Fv} : v ∈ dotTerms acc prs ↔
    (acc.isNan = false ∧ v = acc) ∨ ∃ p ∈ prs, p.1.isNan = false ∧ p.2.isNan = false ∧ mulFv p.1 p.2 = some v := by
  have ha : v ∈ (if acc.isNan then [] else [acc]) ↔ acc.isNan = false ∧ v = acc := by cases acc.isNan <;> simp
  rw [dotTerms, List.mem_append, ha, or_comm]
  simp only [List.mem_filterMap, List.mem_map, List.mem_filter, id_eq, exists_eq_right, Bool.and_eq_true, Bool.not_eq_true',
    and_assoc]

/-- What R45 and R57 look for in the addend and the pairs: a NaN, a signalling one in a pair, an infinity times zero, an infinite
term of a sign, and such terms of both signs. -/
def nanOperand (acc : Fv) (prs : List (Fv × Fv)) : Prop := acc.isNan = true ∨ ∃ p ∈ prs, p.1.isNan = true ∨ p.2.isNan = true
def snanPair (prs : List (Fv × Fv)) : Prop := ∃ p ∈ prs, p.1.snan = true ∨ p.2.snan = true
def badPair (prs : List (Fv × Fv)) : Prop :=
  ∃ p ∈ prs, p.1.isInf = true ∧ p.2.isZero = true ∨ p.1.isZero = true ∧ p.2.isInf = true
def infTerm (acc : Fv) (prs : List (Fv × Fv)) (n : Bool) : Prop :=
  acc = .inf n ∨ ∃ p ∈ prs, p.1.isNan = false ∧ p.2.isNan = false ∧ p.1.isZero = false ∧ p.2.isZero = false ∧
    (p.1.isInf = true ∨ p.2.isInf = true) ∧ (p.1.neg != p.2.neg) = n
def opposedTerms (acc : Fv) (prs : List (Fv × Fv)) : Prop := infTerm acc prs true ∧ infTerm acc prs false

theorem inf_mem_dotTerms {acc : Fv} {prs : List (Fv × Fv)} {n : Bool} : .inf n ∈ dotTerms acc prs ↔ infTerm acc prs n := by
  rw [mem_dotTerms, infTerm]
  refine or_congr ⟨fun h => h.2.symm, fun h => ⟨isNan_of_inf h, h.symm⟩⟩
    (exists_congr fun p => and_congr_right fun _ => and_congr_right fun h1 => and_congr_right fun h2 => mulFv_eq_inf_iff h1 h2)

/-- A pair of an infinity and a zero has no product. -/
theorem badPair_iff {prs : List (Fv × Fv)} :
    (((prs.filter fun p => !p.1.isNan && !p.2.isNan).map fun p => mulFv p.1 p.2).any (· == none)) = true ↔ badPair prs := by
  simp only [List.any_eq_true, List.mem_map, List.mem_filter, Bool.and_eq_true, Bool.not_eq_true', beq_iff_eq]
  constructor
  · rintro ⟨-, ⟨p, ⟨hp, h1, h2⟩, rfl⟩, hn⟩
    exact ⟨p, hp, (mulFv_eq_none_iff h1 h2).1 hn⟩
  · rintro ⟨p, hp, h⟩
    have hn : p.1.isNan = false ∧ p.2.isNan = false := by
      obtain ⟨v, w⟩ := p
      cases v <;> cases w <;> simp_all [Fv.isNan, Fv.isInf, Fv.isZero]
    exact ⟨_, ⟨p, ⟨hp, hn⟩, rfl⟩, mulFv_none h⟩

/-- With finite operands the terms are the addend and every product. -/
theorem dotTerms_fin {acc : Fv} {z : ℚ} (hz : finQ acc = some z) {prs : List (Fv × Fv)}
    (h : ∀ p ∈ prs, (finQ p.1).isSome = true ∧ (finQ p.2).isSome = true) :
    (∀ v ∈ dotTerms acc prs, (finQ v).isSome = true) ∧
      ((dotTerms acc prs).map Fv.q).sum = z + (prs.map fun p => p.1.q * p.2.q).sum ∧
      ∀ n, zerosOf n (dotTerms acc prs) ↔
        acc.isZero = true ∧ acc.neg = n ∧ ∀ p ∈ prs, p.1.q * p.2.q = 0 ∧ (p.1.neg != p.2.neg) = n := by
  induction prs with
  | nil =>
    simp only [dotTerms, isNan_of_finQ hz, List.filter_nil, List.map_nil, List.filterMap_nil, List.nil_append]
    simp [hz, Fv.q, zerosOf]
  | cons p prs ih =>
    obtain ⟨h1, h2, h3⟩ := ih fun u hu => h u (List.mem_cons_of_mem _ hu)
    obtain ⟨hx, hy⟩ := h p List.mem_cons_self
    obtain ⟨x, hx⟩ := Option.isSome_iff_exists.1 hx
    obtain ⟨y, hy⟩ := Option.isSome_iff_exists.1 hy
    obtain ⟨v, hv, hvq, hvn⟩ := mulFv_fin hx hy
    have hc : dotTerms acc (p :: prs) = v :: dotTerms acc prs := by
      simp [dotTerms, isNan_of_finQ hx, isNan_of_finQ hy, hv]
    have hq : p.1.q * p.2.q = v.q := by simp only [Fv.q, hx, hy, hvq, Option.getD_some]
    have h0 : v.isZero = true ↔ v.q = 0 := by
      obtain ⟨n, k, e, rfl, -⟩ := finQ_eq_some.1 hvq
      exact isZero_fin
    rw [hc]
    refine ⟨List.forall_mem_cons.2 ⟨by rw [hvq]; rfl, h1⟩, ?_, fun n => ?_⟩
    · rw [List.map_cons, List.sum_cons, h2, List.map_cons, List.sum_cons, hq]; ring
    · rw [zerosOf_cons, h3, List.forall_mem_cons, hq, h0, hvn]; tauto

/-! The rounding of the sum. -/

/-- A NaN, an infinity times zero and opposite infinities give the canonical NaN, with IV but for quiet NaNs alone; any other sum is
rounded. -/
theorem dotRound_cases (f : Fp) (m : Rm) (acc : Fv) (prs : List (Fv × Fv)) :
    (nanOperand acc prs ∨ badPair prs ∨ opposedTerms acc prs → ∃ iv : Bool,
      dotRound f m acc prs = (f.cnan, if iv then 1 else 0) ∧ (iv = true ↔ snanPair prs ∨ badPair prs ∨ opposedTerms acc prs)) ∧
    (¬(nanOperand acc prs ∨ badPair prs ∨ opposedTerms acc prs) →
      dotRound f m acc prs = roundTo f m false false (sumEx m (dotTerms acc prs))) := by
  have hnan : (acc.isNan || prs.any fun p => p.1.isNan || p.2.isNan) = true ↔ nanOperand acc prs := by simp [nanOperand]
  have hsig : (prs.any fun p => p.1.snan || p.2.snan) = true ↔ snanPair prs := by simp [snanPair]
  have hop : (sumEx m (dotTerms acc prs) == .nan) = true ↔ opposedTerms acc prs :=
    beq_iff_eq.trans (sumEx_eq_nan_iff.trans (and_congr inf_mem_dotTerms inf_mem_dotTerms))
  rw [← hnan, ← badPair_iff, ← hop, ← hsig, ← or_assoc, ← or_assoc, ← Bool.or_eq_true, ← Bool.or_eq_true, ← Bool.or_eq_true,
    ← Bool.or_eq_true]
  exact ⟨fun h => ⟨_, if_pos h, Iff.rfl⟩, fun h => if_neg h⟩

/-- Finite operands meet none of these. -/
theorem dotRound_fin (f : Fp) (m : Rm) {acc : Fv} {z : ℚ} (hz : finQ acc = some z) {prs : List (Fv × Fv)}
    (h : ∀ p ∈ prs, (finQ p.1).isSome = true ∧ (finQ p.2).isSome = true) :
    dotRound f m acc prs = roundTo f m false false (sumEx m (dotTerms acc prs)) := by
  have hplain : ∀ v : Fv, (finQ v).isSome = true → v.isNan = false ∧ v.isInf = false := fun v hv => by
    cases v <;> simp_all [finQ, Fv.isNan, Fv.isInf]
  have hinf : ∀ n, ¬infTerm acc prs n := fun n hn => by
    have := (dotTerms_fin hz h).1 _ (inf_mem_dotTerms.2 hn)
    simp [finQ] at this
  refine (dotRound_cases f m acc prs).2 ?_
  rintro ((hn | ⟨p, hp, hn⟩) | ⟨p, hp, hb⟩ | ho)
  · rw [isNan_of_finQ hz] at hn; cases hn
  · obtain ⟨hx, hy⟩ := h p hp
    rw [(hplain _ hx).1, (hplain _ hy).1] at hn
    simp at hn
  · obtain ⟨hx, hy⟩ := h p hp
    rw [(hplain _ hx).2, (hplain _ hy).2] at hb
    simp at hb
  · exact hinf _ ho.1

/-- The rounded sum of products is R57's. -/
theorem dotRound_isDot (m : Rm) (acc : Fv) (prs : List (Fv × Fv)) :
    IsDot .fp32 m prs acc (acc.snan = true) ((dotRound .fp32 m acc prs).1,
      if acc.snan then (dotRound .fp32 m acc prs).2 ||| 1 else (dotRound .fp32 m acc prs).2) := by
  obtain ⟨hinv, hok⟩ := dotRound_cases .fp32 m acc prs
  refine ⟨fun h => ?_, fun h1 h2 h3 n hn => ?_, fun z hfin hz => ?_⟩
  · obtain ⟨iv, hr, hiv⟩ := hinv h
    rw [hr]
    refine ⟨rfl, fun hs => ?_, fun hs => ?_⟩
    · by_cases ha : acc.snan = true
      · rw [if_pos ha]; cases iv <;> rfl
      · have : snanPair prs ∨ badPair prs ∨ opposedTerms acc prs := hs.imp_left fun h => h.resolve_left ha
        rw [if_neg ha, if_pos (hiv.2 this)]
    · have hq : ¬acc.snan = true ∧ ¬iv = true :=
        ⟨fun h => hs (.inl (.inl h)), fun h => hs ((hiv.1 h).imp_left .inr)⟩
      rw [if_neg hq.1, if_neg hq.2]
  · have ha : acc.snan = false := snan_of_not_nan (Bool.eq_false_iff.2 fun h => h1 (.inl h))
    have hnot : .inf (!n) ∉ dotTerms acc prs := fun h => h3 (by
      have h := inf_mem_dotTerms.1 h
      cases n
      exacts [⟨h, hn⟩, ⟨hn, h⟩])
    rw [hok fun h => h.elim h1 fun h => h.elim h2 h3, ha, sumEx_inf m (inf_mem_dotTerms.2 hn) hnot]
    rfl
  · intro v
    obtain ⟨hterms, hsum, hzeros⟩ := dotTerms_fin hz hfin
    have hne : dotTerms acc prs ≠ [] := fun h => by simp [dotTerms, isNan_of_finQ hz] at h
    obtain ⟨hex, hzero⟩ := sumEx_fin m hterms hne
    rw [hsum] at hex hzero
    rw [dotRound_fin .fp32 m hz hfin, snan_of_not_nan (isNan_of_finQ hz)]
    refine ⟨fun hv => roundTo_isRound .fp32 m false false (standsFor_of_exQ _ hex hv), fun hv => ?_⟩
    intro zeros
    obtain ⟨hsame, hmixed⟩ := hzero hv
    have hz0 : ∀ n, roundTo .fp32 m false false (.zero n) = (if n then 2 ^ 31 else 0, 0) := fun n => by cases n <;> rfl
    by_cases h : ∃ n, zeros n
    · obtain ⟨n, h⟩ := h
      rw [hsame n ((hzeros n).2 h), hz0]
      have huniq : ∀ n', zeros n' → n' = n := fun n' h' => h'.2.1.symm.trans h.2.1
      exact ⟨rfl, fun h' => if_pos (huniq _ h').symm, fun h' => by rw [← huniq _ h']; rfl,
        fun ht hf => by cases n; exacts [absurd h hf, absurd h ht]⟩
    · have hno : ∀ n, ¬zeros n := fun n hn => h ⟨n, hn⟩
      rw [hmixed (mt (hzeros _).1 (hno _)) (mt (hzeros _).1 (hno _)), hz0]
      exact ⟨rfl, fun h => absurd h (hno _), fun h => absurd h (hno _), fun _ _ => by simp only [beq_iff_eq]; rfl⟩

theorem dotElems_zip (f : Fp) (n w a b : Nat) :
    (dotElems f n w a).zip (dotElems f n w b) = (List.range n).map fun i => (dotEl f w a i, dotEl f w b i) := by
  have h : ∀ x, dotElems f n w x = (List.range n).map fun i => dotEl f w x i := fun x => by
    simp only [dotElems, dotEl, Bool.and_eq_true, beq_iff_eq]
    rfl
  rw [h, h, List.zip_map']

end Sys2Proof.Machine

open Sys2Proof Sys2Proof.Machine Sys2Proof.Claims

/-- Settles O14: integer sums wrap, and the float sum is that of the addend and the products, taken at their least exponent. -/
theorem dotProducts : Obligations.DotProducts := by
  unfold Obligations.DotProducts
  refine ⟨fun h d a b => ?_, fun f n w m a b c _ => ?_⟩
  · exact ⟨dotInt_computes (by norm_num) true true fun s => by rw [exec_dp4S8, execDp4S8],
      dotInt_computes (by norm_num) false false fun s => by rw [exec_dp4N8, execDp4N8],
      dotInt_computes (by norm_num) true false fun s => by rw [exec_dp4S8n8, execDp4S8n8],
      dotInt_computes (by norm_num) true true fun s => by rw [exec_dp8S4, execDp8S4],
      dotInt_computes (by norm_num) false false fun s => by rw [exec_dp8N4, execDp8N4],
      dotInt_computes (by norm_num) true false fun s => by rw [exec_dp8S4n4, execDp8S4n4],
      dotFp_floats fun s => by rw [exec_dp4E4m3, execDp4E4m3], dotFp_floats fun s => by rw [exec_dp4E5m2, execDp4E5m2],
      dotFp_floats fun s => by rw [exec_dp4E3m2, execDp4E3m2], dotFp_floats fun s => by rw [exec_dp4E2m3, execDp4E2m3],
      dotFp_floats fun s => by rw [exec_dp8E2m1, execDp8E2m1]⟩
  · rw [dotFp, dotElems_zip]
    exact dotRound_isDot m (Fp.fp32.decode c) _
end

section
/-! Blocks: how they are read and encoded (R52 to R56). -/

namespace Sys2Proof.Machine

open Sys2Proof.Claims

/-! Reading a block. -/

theorem illFormed_iff (f : Fp) {hdr : Nat} (codes : List Nat) (hh : hdr < 2 ^ 16) :
    illFormed f hdr codes = true ↔ hdr / 4096 ≠ 0 ∨ (f ≠ .e2m1 ∧ hdr / 512 % 8 ≠ 0) ∨
      (f = .e2m1 ∧ (codes.filter fun c => c % 16 = 8).length ≠ hdr / 512 % 8) := by
  have hr : fld hdr 12 4 = hdr / 4096 := by rw [fld]; omega
  have ho : fld hdr 9 3 = hdr / 512 % 8 := by norm_num [fld]
  have hf : (codes.filter fun c => c % 16 == 8) = codes.filter fun c => c % 16 = 8 := rfl
  simp only [illFormed, blockHdr, hr, ho, hf, Bool.or_eq_true, Bool.and_eq_true, bne_iff_ne, beq_iff_eq, or_assoc]

/-- R54 for one element, `j` escapes standing before it. -/
def blockElem (f : Fp) (scale : Nat) (outs : List Nat) (j c : Nat) : Fv :=
  if scale = 0x1FF then .nan false
  else if f == .e2m1 && c % 16 == 8 then Fp.bf16.decode (outs.getD j 0)
  else if scale = 0 then .fin false 0 0
  else timesScale (f.decode c) scale

theorem blockValsFrom_cons (f : Fp) (scale : Nat) (outs : List Nat) (j c : Nat) (cs : List Nat) :
    blockValsFrom f scale outs j (c :: cs) =
      blockElem f scale outs j c :: blockValsFrom f scale outs (if f == .e2m1 && c % 16 == 8 then j + 1 else j) cs := rfl

theorem length_blockValsFrom (f : Fp) (scale : Nat) (outs : List Nat) (j : Nat) (cs : List Nat) :
    (blockValsFrom f scale outs j cs).length = cs.length := by
  induction cs generalizing j with
  | nil => rfl
  | cons c cs ih => rw [blockValsFrom_cons, List.length_cons, ih, List.length_cons]

theorem getElem?_blockValsFrom (f : Fp) (scale : Nat) (outs : List Nat) (j : Nat) (cs : List Nat) (i : Nat) :
    (blockValsFrom f scale outs j cs)[i]? =
      cs[i]?.map (blockElem f scale outs (j + ((cs.take i).filter fun c => f == .e2m1 && c % 16 == 8).length)) := by
  induction cs generalizing i j with
  | nil => rfl
  | cons c cs ih =>
    rw [blockValsFrom_cons]
    cases i with
    | zero => rfl
    | succ i =>
      rw [List.getElem?_cons_succ, List.getElem?_cons_succ, ih, List.take_succ_cons, List.filter_cons]
      split
      · rw [List.length_cons]; congr 2; omega
      · rfl

theorem scaleVal_eq (c : Nat) : ((scaleVal c).1 : ℚ) * 2 ^ (scaleVal c).2 = scaleQ c := by
  have h : ((c : Int) / 2 - 128) = ((c / 2 : Nat) - 127 : Int) + (-1) := by omega
  rw [scaleVal, scaleQ, h, zpow_add₀ two_ne_zero]
  push_cast
  norm_num
  ring

theorem scaleQ_pos (c : Nat) : 0 < scaleQ c := by rw [scaleQ]; positivity

theorem timesScale_fin (n : Bool) (k : Nat) (x : Int) (sc : Nat) :
    finQ (timesScale (.fin n k x) sc) = some (dyadic n k x * scaleQ sc) := by
  rw [← scaleVal_eq, timesScale, finQ, dyadic_eq, dyadic_eq, zpow_add₀ two_ne_zero]
  push_cast
  congr 1
  ring

theorem timesScale_neg (v : Fv) (sc : Nat) : (timesScale v sc).neg = v.neg := by cases v <;> rfl

/-- What the elements of a block are worth (R54). -/
theorem blockVals_spec (f : Fp) (hdr : Nat) (outs codes : List Nat) {i c : Nat} {v : Fv} (hc : codes[i]? = some c)
    (hv : (blockVals f hdr outs codes)[i]? = some v) :
    let escape := f = .e2m1 ∧ c % 16 = 8
    let scale := hdr % 512
    (scale = 0x1FF → v = .nan false) ∧
    (scale ≠ 0x1FF → escape → v = Fp.bf16.decode (outs.getD ((codes.take i).filter fun c => c % 16 = 8).length 0)) ∧
    (scale = 0 → ¬escape → v.isZero = true ∧ v.neg = false) ∧
    (scale ≠ 0 → scale ≠ 0x1FF → ¬escape →
      (∀ x, finQ (f.decode c) = some x → finQ v = some (x * scaleQ scale) ∧ v.neg = (f.decode c).neg) ∧
      ((f.decode c).isNan = true ∨ (f.decode c).isInf = true → v = f.decode c)) := by
  intro escape scale
  rw [blockVals, getElem?_blockValsFrom, hc, Option.map_some, Option.some.injEq, zero_add] at hv
  have hesc : (f == .e2m1 && c % 16 == 8) = true ↔ escape := not_escape_iff
  rw [← hv, blockElem]
  refine ⟨fun h => if_pos h, fun h he => ?_, fun h he => ?_, fun h h1 he => ?_⟩
  · rw [if_neg h, if_pos (hesc.2 he), he.1]
    simp only [beq_self_eq_true, Bool.true_and]
    rfl
  · rw [if_neg (by rw [show hdr % 512 = 0 from h]; decide), if_neg (mt hesc.1 he), if_pos h]
    exact ⟨rfl, rfl⟩
  · rw [if_neg h1, if_neg (mt hesc.1 he), if_neg h]
    refine ⟨fun x hx => ⟨?_, timesScale_neg _ _⟩, fun hni => ?_⟩
    · obtain ⟨n, k, e, hd, rfl⟩ := finQ_eq_some.1 hx
      rw [hd]; exact timesScale_fin n k e _
    · cases hd : f.decode c with
      | nan s => rfl
      | inf n => rfl
      | fin n k x => rw [hd] at hni; simp [Fv.isNan, Fv.isInf] at hni

end Sys2Proof.Machine
end

section
/-! The order of magnitudes, and the elements of a block that become outliers (R56). -/

namespace Sys2Proof.Machine

open Sys2Proof.Claims

/-! Magnitudes. -/

/-- The magnitude of a value that is no NaN, infinities above all others. -/
def Fv.size (v : Fv) : WithTop ℚ := if v.isInf then ⊤ else ((|v.q| : ℚ) : WithTop ℚ)

theorem size_inf (n : Bool) : (Fv.inf n).size = ⊤ := rfl

theorem size_of_finQ {v : Fv} {x : ℚ} (h : finQ v = some x) : v.size = ((|x| : ℚ) : WithTop ℚ) := by
  obtain ⟨n, k, e, rfl, rfl⟩ := finQ_eq_some.1 h
  rfl

/-- Every value that is no NaN is an infinity or finite. -/
theorem inf_or_finQ {v : Fv} (h : v.isNan = false) : (∃ n, v = .inf n) ∨ ∃ x, finQ v = some x := by
  cases v <;> simp_all [Fv.isNan, finQ]

theorem size_abs (v : Fv) : v.abs.size = v.size := by
  cases v with
  | nan s => rfl
  | inf n => rfl
  | fin n k x => simp only [Fv.abs, Fv.size, Fv.isInf, Fv.q_fin, abs_dyadic]

theorem isNan_abs (v : Fv) : v.abs.isNan = v.isNan := by cases v <;> rfl

theorem dyadic_not (n : Bool) (k : Nat) (x : Int) : dyadic (!n) k x = -dyadic n k x := by cases n <;> simp [dyadic]

theorem fvLt_fin {n n' : Bool} {k k' : Nat} {x x' : Int} :
    fvLt (.fin n k x) (.fin n' k' x') = true ↔ dyadic n k x < dyadic n' k' x' := by
  rw [fvLt, decide_eq_true_eq, sumFin_neg_iff]
  simp only [List.map_cons, List.map_nil, List.sum_cons, List.sum_nil, dyadic_not]
  constructor <;> intro h <;> linarith

/-- Magnitudes are compared as R56 compares them. -/
theorem magLt_iff {a b : Fv} (ha : a.isNan = false) (hb : b.isNan = false) : magLt a b = true ↔ a.size < b.size := by
  rcases inf_or_finQ ha with ⟨n, rfl⟩ | ⟨x, hx⟩ <;> rcases inf_or_finQ hb with ⟨n', rfl⟩ | ⟨y, hy⟩
  · simp [size_inf, magLt, Fv.abs, fvLt]
  · obtain ⟨n', k', e', rfl, rfl⟩ := finQ_eq_some.1 hy
    simp [size_inf, magLt, Fv.abs, fvLt]
  · obtain ⟨n, k, e, rfl, rfl⟩ := finQ_eq_some.1 hx
    simp [size_inf, size_of_finQ hx, magLt, Fv.abs, fvLt, WithTop.coe_lt_top]
  · obtain ⟨n, k, e, rfl, rfl⟩ := finQ_eq_some.1 hx
    obtain ⟨n', k', e', rfl, rfl⟩ := finQ_eq_some.1 hy
    rw [size_of_finQ hx, size_of_finQ hy, WithTop.coe_lt_coe, magLt, Fv.abs, Fv.abs, fvLt_fin, abs_dyadic, abs_dyadic]
    simp [dyadic]

theorem isInf_of_finQ {v : Fv} {x : ℚ} (h : finQ v = some x) : v.isInf = false := by cases v <;> simp_all [finQ, Fv.isInf]

theorem absLt_iff {a b : Fv} (ha : a.isNan = false) (hb : b.isNan = false) : absLt a b ↔ a.size < b.size := by
  have hi : ∀ n, (Fv.inf n).isInf = true ∧ finQ (.inf n) = none := fun n => ⟨rfl, rfl⟩
  rcases inf_or_finQ ha with ⟨n, rfl⟩ | ⟨x, hx⟩ <;> rcases inf_or_finQ hb with ⟨n', rfl⟩ | ⟨y, hy⟩
  · simp [absLt, size_inf, hi]
  · simp [absLt, size_inf, hi]
  · simp [absLt, size_inf, size_of_finQ hx, isInf_of_finQ hx, WithTop.coe_lt_top, hi]
  · simp [absLt, size_of_finQ hx, size_of_finQ hy, WithTop.coe_lt_coe, hx, hy, isInf_of_finQ hy]

theorem isZero_iff_size {v : Fv} (h : v.isNan = false) : v.isZero = true ↔ v.size = 0 := by
  rcases inf_or_finQ h with ⟨n, rfl⟩ | ⟨x, hx⟩
  · simp [Fv.isZero, size_inf]
  · rw [size_of_finQ hx, WithTop.coe_eq_zero, abs_eq_zero]
    obtain ⟨n, k, e, rfl, rfl⟩ := finQ_eq_some.1 hx
    exact isZero_fin

theorem size_nonneg (v : Fv) : 0 ≤ v.size := by
  rw [Fv.size]
  split
  · exact le_top
  · exact WithTop.coe_nonneg.2 (abs_nonneg _)

/-! Choosing outliers. -/

/-- The magnitude of element `i`. -/
def sizeAt (xs : List Fv) (i : Nat) : WithTop ℚ := (xs.getD i (.fin false 0 0)).size

/-- One choice, made element by element: the first among the largest that are not yet chosen. -/
def betterOut (xs : List Fv) (acc : List Nat) (b : Option Nat) (i : Nat) : Option Nat :=
  if acc.contains i then b else match b with
    | none => some i
    | some j => if magLt (xs.getD j (.fin false 0 0)) (xs.getD i (.fin false 0 0)) then some i else b
def bestOut (xs : List Fv) (acc : List Nat) (t : Nat) : Option Nat := (List.range t).foldl (betterOut xs acc) none

theorem chooseOut_some {xs : List Fv} {acc : List Nat} {i : Nat} (k : Nat) (h : bestOut xs acc xs.length = some i) :
    chooseOut xs (k + 1) acc = chooseOut xs k (acc ++ [i]) := by
  rw [chooseOut]
  split
  · next hn => exact absurd (h.symm.trans hn) (by simp)
  · next j hj => rw [Option.some.inj (h.symm.trans hj)]

theorem not_nan_getD {xs : List Fv} (h : ∀ x ∈ xs, x.isNan = false) (i : Nat) : (xs.getD i (.fin false 0 0)).isNan = false := by
  rw [List.getD_eq_getElem?_getD]
  cases hi : xs[i]? with
  | none => rfl
  | some x => exact h x (List.mem_of_getElem? hi)

theorem bestOut_succ (xs : List Fv) (acc : List Nat) (t : Nat) :
    bestOut xs acc (t + 1) = betterOut xs acc (bestOut xs acc t) t := by
  rw [bestOut, List.range_succ, List.foldl_append]
  rfl

/-- The choice is the first among the largest of the elements not yet chosen, if there is one. -/
theorem bestOut_spec {xs : List Fv} (h : ∀ x ∈ xs, x.isNan = false) (acc : List Nat) (t : Nat) :
    (bestOut xs acc t = none → ∀ i < t, i ∈ acc) ∧
      ∀ i, bestOut xs acc t = some i → i < t ∧ i ∉ acc ∧
        ∀ j < t, j ∉ acc → sizeAt xs j < sizeAt xs i ∨ (sizeAt xs j = sizeAt xs i ∧ i ≤ j) := by
  induction t with
  | zero => exact ⟨fun _ i hi => by omega, fun i hi => by simp [bestOut] at hi⟩
  | succ t ih =>
    obtain ⟨ihn, ihs⟩ := ih
    rw [bestOut_succ]
    unfold betterOut
    by_cases hm : t ∈ acc
    · -- already chosen
      have hsplit : ∀ j < t + 1, j ∉ acc → j < t := fun j hj hja => by
        have : j ≠ t := fun h => hja (h ▸ hm)
        omega
      rw [if_pos (by simpa using hm)]
      refine ⟨fun hb i hi => ?_, fun i hb => ?_⟩
      · by_contra hia
        exact hia (ihn hb i (hsplit i hi hia))
      · obtain ⟨h1, h2, h3⟩ := ihs i hb
        exact ⟨by omega, h2, fun j hj hja => h3 j (hsplit j hj hja) hja⟩
    · rw [if_neg (by simpa using hm)]
      cases hb : bestOut xs acc t with
      | none =>
        refine ⟨by simp, fun i hi => ?_⟩
        obtain rfl : t = i := by simpa using hi
        refine ⟨by omega, hm, fun j hj hja => .inr ?_⟩
        have : j = t := by
          by_contra hne
          exact hja (ihn hb j (by omega))
        exact ⟨by rw [this], this.ge⟩
      | some i =>
        obtain ⟨h1, h2, h3⟩ := ihs i hb
        have hlt : magLt (xs.getD i (.fin false 0 0)) (xs.getD t (.fin false 0 0)) = true ↔ sizeAt xs i < sizeAt xs t :=
          magLt_iff (not_nan_getD h i) (not_nan_getD h t)
        refine ⟨by simp only; split <;> simp, fun i' hi' => ?_⟩
        simp only [hlt] at hi'
        split at hi'
        · next hl =>
          obtain rfl : t = i' := by simpa using hi'
          refine ⟨by omega, hm, fun j hj hja => ?_⟩
          rcases Nat.lt_succ_iff_lt_or_eq.1 hj with hj | rfl
          · exact .inl (((h3 j hj hja).elim le_of_lt fun h => h.1.le).trans_lt hl)
          · exact .inr ⟨rfl, le_rfl⟩
        · next hl =>
          obtain rfl : i = i' := by simpa using hi'
          refine ⟨by omega, h2, fun j hj hja => ?_⟩
          rcases Nat.lt_succ_iff_lt_or_eq.1 hj with hj | rfl
          · exact h3 j hj hja
          · exact (not_lt.1 hl).lt_or_eq.imp_right fun h => ⟨h, by omega⟩

/-- Chosen elements are distinct and come before the others by magnitude, and among equals by index. -/
structure Chosen (xs : List Fv) (l : List Nat) : Prop where
  nodup : l.Nodup
  lt : ∀ i ∈ l, i < xs.length
  first : ∀ i ∈ l, ∀ j < xs.length, j ∉ l → sizeAt xs j < sizeAt xs i ∨ (sizeAt xs j = sizeAt xs i ∧ i ≤ j)

/-- As many elements are chosen as are asked for, if there are so many. -/
theorem chooseOut_chosen {xs : List Fv} (h : ∀ x ∈ xs, x.isNan = false) (k : Nat) {acc : List Nat} (ha : Chosen xs acc)
    (hk : acc.length + k ≤ xs.length) : Chosen xs (chooseOut xs k acc) ∧ (chooseOut xs k acc).length = acc.length + k := by
  induction k generalizing acc with
  | zero => exact ⟨ha, rfl⟩
  | succ k ih =>
    obtain ⟨hn, hs⟩ := bestOut_spec h acc xs.length
    cases hb : bestOut xs acc xs.length with
    | none =>
      have hsub : List.range xs.length ⊆ acc := fun i hi => hn hb i (List.mem_range.1 hi)
      have := (List.nodup_range.subperm hsub).length_le
      rw [List.length_range] at this
      omega
    | some i =>
      obtain ⟨h1, h2, h3⟩ := hs i hb
      have hc : Chosen xs (acc ++ [i]) := by
        refine ⟨List.nodup_append.2 ⟨ha.nodup, by simp, fun j hj b hb he => h2 (List.mem_singleton.1 hb ▸ he ▸ hj)⟩, fun j hj => ?_, fun j hj u hu hua => ?_⟩
        · rcases List.mem_append.1 hj with hj | hj
          · exact ha.lt j hj
          · rwa [List.mem_singleton.1 hj]
        · have hu' : u ∉ acc := fun h => hua (List.mem_append_left _ h)
          rcases List.mem_append.1 hj with hj | hj
          · exact ha.first j hj u hu hu'
          · rw [List.mem_singleton.1 hj]; exact h3 u hu hu'
      obtain ⟨h4, h5⟩ := ih hc (by rw [List.length_append, List.length_singleton]; omega)
      rw [chooseOut_some k hb]
      refine ⟨h4, ?_⟩
      rw [h5, List.length_append, List.length_singleton]
      omega

end Sys2Proof.Machine
end

section
/-! The block that an encoding makes (R52, R53, R56). -/

namespace Sys2Proof.Machine

open Sys2Proof.Claims

/-! The pieces of an encoding. -/

/-- The outliers of a block, the largest magnitude of some elements, and the scale that it asks for. -/
def outliersOf (lim : Nat) (xs : List Fv) : List Nat := chooseOut xs (min lim (xs.filter fun x => !x.isZero).length) []
def largestOf (xs : List Fv) (l : List Nat) : Fv :=
  l.foldl (fun m i => if magLt m (xs.getD i (.fin false 0 0)) then (xs.getD i (.fin false 0 0)).abs else m) (.fin false 0 0)
def scaleFor (f : Fp) (amax : Fv) : Nat := (((List.range 510).map (· + 1)).find? (scaleFits f amax)).getD 0x1FE

/-- The largest magnitude among the elements of a block that are no outliers. -/
def restMax (lim : Nat) (xs : List Fv) : Fv :=
  largestOf xs ((List.range xs.length).filter fun i => !(outliersOf lim xs).contains i)

/-- The code and flags of an element, as an outlier or scaled. -/
def outRound (m : Rm) (xs : List Fv) (i : Nat) : Nat × Nat := roundTo .bf16 m false false (xs.getD i (.fin false 0 0)).ex
def scaledRound (f : Fp) (m : Rm) (xs : List Fv) (sc i : Nat) : Nat × Nat :=
  roundTo f m true false (divScale (xs.getD i (.fin false 0 0)) sc)

theorem encodeBlock_nan (f : Fp) (lim : Nat) (m : Rm) {xs : List Fv} (h : ∃ x ∈ xs, x.isNan = true) :
    encodeBlock f lim m xs = ⟨0x1FF, List.replicate xs.length 0, [], 1⟩ := by
  rw [encodeBlock, if_pos (List.any_eq_true.2 h), List.map_const']
  rfl

/-- Without a NaN: the header, the codes, the outliers and the flags. -/
theorem encodeBlock_eq (f : Fp) (lim : Nat) (m : Rm) {xs : List Fv} (h : ∀ x ∈ xs, x.isNan = false) :
    let k := min lim (xs.filter fun x => !x.isZero).length
    let out := fun i => (outliersOf lim xs).contains i
    let outs := ((List.range xs.length).filter out).map (outRound m xs)
    let amax := restMax lim xs
    let oflags := outs.foldl (fun a o => a ||| o.2) 0
    let cs := (List.range xs.length).map fun i => if out i then (8, 0) else scaledRound f m xs (scaleFor f amax) i
    encodeBlock f lim m xs = if amax.isZero then
        ⟨k * 512, (List.range xs.length).map fun i => if out i then 8 else 0, outs.map (·.1), oflags⟩
      else ⟨k * 512 + scaleFor f amax, cs.map (·.1), outs.map (·.1), cs.foldl (fun a o => a ||| o.2) oflags⟩ := by
  have hn : ¬(xs.any Fv.isNan) = true := by
    rw [List.any_eq_true]
    rintro ⟨x, hx, hn⟩
    simp [h x hx] at hn
  rw [encodeBlock, if_neg hn]
  rfl

/-! The largest magnitude. -/

theorem foldl_largest {xs : List Fv} (h : ∀ x ∈ xs, x.isNan = false) (l : List Nat) {m : Fv} (hm : m.isNan = false ∧ m.neg = false) :
    let r := l.foldl (fun m i => if magLt m (xs.getD i (.fin false 0 0)) then (xs.getD i (.fin false 0 0)).abs else m) m
    (r.isNan = false ∧ r.neg = false) ∧ m.size ≤ r.size ∧ (∀ i ∈ l, sizeAt xs i ≤ r.size) ∧
      (r.size = m.size ∨ ∃ i ∈ l, r.size = sizeAt xs i) := by
  induction l generalizing m with
  | nil => exact ⟨hm, le_rfl, by simp, .inl rfl⟩
  | cons i l ih =>
    have hi := not_nan_getD h i
    rw [List.foldl_cons]
    have hstep : ∀ m' : Fv, (if magLt m (xs.getD i (.fin false 0 0)) then (xs.getD i (.fin false 0 0)).abs else m) = m' →
        (m'.isNan = false ∧ m'.neg = false) ∧ m'.size = max m.size (sizeAt xs i) := fun m' he => by
      rw [← he]
      split
      · next hl =>
        refine ⟨⟨by rw [isNan_abs]; exact hi, ?_⟩, ?_⟩
        · cases xs.getD i (.fin false 0 0) <;> rfl
        · rw [size_abs]; exact (max_eq_right ((magLt_iff hm.1 hi).1 hl).le).symm
      · next hl => exact ⟨hm, (max_eq_left (not_lt.1 (mt (magLt_iff hm.1 hi).2 hl))).symm⟩
    obtain ⟨h1, h2⟩ := hstep _ rfl
    obtain ⟨h3, h4, h5, h6⟩ := ih h1
    rw [h2] at h4 h6
    refine ⟨h3, (le_max_left _ _).trans h4, List.forall_mem_cons.2 ⟨(le_max_right _ _).trans h4, h5⟩, ?_⟩
    rcases h6 with h6 | ⟨j, hj, h6⟩
    · rcases max_choice m.size (sizeAt xs i) with hc | hc <;> rw [hc] at h6
      · exact .inl h6
      · exact .inr ⟨i, List.mem_cons_self, h6⟩
    · exact .inr ⟨j, List.mem_cons_of_mem _ hj, h6⟩

theorem size_zero : (Fv.fin false 0 0).size = 0 := by
  have h : finQ (.fin false 0 0) = some 0 := congrArg some (dyadic_eq_zero.2 rfl)
  rw [size_of_finQ h, abs_zero, WithTop.coe_zero]

/-- The largest of some elements is one of them, or 0. -/
theorem largestOf_spec {xs : List Fv} (h : ∀ x ∈ xs, x.isNan = false) (l : List Nat) :
    ((largestOf xs l).isNan = false ∧ (largestOf xs l).neg = false) ∧ (∀ i ∈ l, sizeAt xs i ≤ (largestOf xs l).size) ∧
      ((largestOf xs l).size = 0 ∨ ∃ i ∈ l, (largestOf xs l).size = sizeAt xs i) := by
  obtain ⟨h1, -, h3, h4⟩ := foldl_largest h l (m := .fin false 0 0) ⟨rfl, rfl⟩
  rw [size_zero] at h4
  exact ⟨h1, h3, h4⟩

/-! The scale. -/

theorem fits_iff (f : Fp) (c : Nat) {v : Fv} (hv : v.isNan = false) :
    fits f c v ↔ v.size ≤ ((topQ f * scaleQ c : ℚ) : WithTop ℚ) := by
  rcases inf_or_finQ hv with ⟨n, rfl⟩ | ⟨x, hx⟩
  · exact iff_of_false (by simp [fits, finQ]) (by rw [size_inf, top_le_iff]; exact WithTop.coe_ne_top)
  · rw [size_of_finQ hx, WithTop.coe_le_coe]
    simp [fits, hx]

theorem scaleFits_iff (f : Fp) (c : Nat) {v : Fv} (hv : v.isNan = false ∧ v.neg = false) :
    scaleFits f v c = true ↔ v.size ≤ ((topQ f * scaleQ c : ℚ) : WithTop ℚ) := by
  obtain ⟨n, k, x, hd, ht⟩ : ∃ n k x, f.decode f.largest = .fin n k x ∧ dyadic n k x = topQ f := by
    refine finQ_eq_some.1 (finQ_decode_iff.2 ?_)
    have hlt := largest_lt f
    have hm : f.magBits f.largest = f.largest := Nat.mod_eq_of_lt hlt
    have hs : signOf f f.largest = false := Nat.testBit_lt_two_pow hlt
    rw [hm, hs, topQ_eq]
    simp
  obtain ⟨n', k', x', hts, hq⟩ := finQ_eq_some.1 (timesScale_fin n k x c)
  rw [scaleFits, hd, hts, ← ht, ← hq, Bool.not_eq_true']
  rcases inf_or_finQ hv.1 with ⟨s, rfl⟩ | ⟨y, hy⟩
  · obtain rfl : s = false := hv.2
    simp [fvLt, size_inf]
  · rw [size_of_finQ hy, WithTop.coe_le_coe, Bool.eq_false_iff]
    obtain ⟨s, k'', x'', rfl, rfl⟩ := finQ_eq_some.1 hy
    obtain rfl : s = false := hv.2
    rw [ne_eq, fvLt_fin, not_lt, abs_dyadic]
    simp [dyadic]

/-- The scale is the first that fits, or the greatest. -/
theorem scaleFor_spec (f : Fp) (v : Fv) :
    1 ≤ scaleFor f v ∧ scaleFor f v ≤ 0x1FE ∧ (∀ k, 1 ≤ k → k < scaleFor f v → scaleFits f v k = false) ∧
      (scaleFor f v < 0x1FE → scaleFits f v (scaleFor f v) = true) := by
  rw [scaleFor, List.find?_map]
  cases hf : (List.range 510).find? (scaleFits f v ∘ (· + 1)) with
  | none =>
    rw [List.find?_eq_none] at hf
    refine ⟨by decide, le_rfl, fun k h1 h2 => ?_, fun h => absurd h (lt_irrefl _)⟩
    have := hf (k - 1) (List.mem_range.2 (by simp at h2; omega))
    simpa [Nat.sub_add_cancel h1] using this
  | some i =>
    rw [List.find?_range_eq_some] at hf
    obtain ⟨h1, h2, h3⟩ := hf
    rw [List.mem_range] at h2
    simp only [Option.map_some, Option.getD_some]
    refine ⟨by omega, by omega, fun k hk1 hk2 => ?_, fun _ => h1⟩
    have := h3 (k - 1) (by omega)
    simpa [Nat.sub_add_cancel hk1] using this

/-! An element divided by the scale. -/

/-- The quotient stands for its value, with a sticky bit far below the grid where three does not divide it. -/
theorem divScale_stands {f : Fp} (hf : f.f ≤ 3) {v : Fv} {x : ℚ} (hv : finQ v = some x) (hx : x ≠ 0) (c : Nat) :
    StandsFor f (divScale v c) (x / scaleQ c) := by
  obtain ⟨n, k, e, rfl, rfl⟩ := finQ_eq_some.1 hv
  have hk : k ≠ 0 := fun h => hx (dyadic_eq_zero.2 h)
  have hd : 0 < (scaleVal c).1 ∧ (scaleVal c).1 ≤ 3 := by rw [scaleVal]; omega
  obtain ⟨q, hq⟩ : ∃ q, q = k * 2 ^ 80 := ⟨_, rfl⟩
  have hbig : 3 * 2 ^ 78 ≤ q := by omega
  have hval : dyadic n k e / scaleQ c = (if n then -1 else 1) * ((q : ℚ) / (scaleVal c).1 * 2 ^ (e - (scaleVal c).2 - 80)) := by
    rw [← scaleVal_eq, dyadic_eq, zpow_sub₀ two_ne_zero, zpow_sub₀ two_ne_zero, hq]
    push_cast
    field_simp
  have hex : divScale (.fin n k e) c = .num n (q / (scaleVal c).1) (e - (scaleVal c).2 - 80) (q % (scaleVal c).1 != 0) := by
    rw [hq]; exact if_neg hk
  rw [hex, hval]
  clear hval hex hq hx hv
  generalize (scaleVal c).1 = d at hd ⊢
  generalize e - (scaleVal c).2 - 80 = X
  have hdq : (0 : ℚ) < d := by exact_mod_cast hd.1
  have hpx : (0 : ℚ) < 2 ^ X := by positivity
  have hquot : (q : ℚ) / d = (q / d : Nat) + (q % d : Nat) / d := by
    have hdm : (q : ℚ) = d * (q / d : Nat) + (q % d : Nat) := by exact_mod_cast (Nat.div_add_mod q d).symm
    rw [div_eq_iff hdq.ne', add_mul, div_mul_cancel₀ _ hdq.ne']
    linarith
  have hlt : ((q % d : Nat) : ℚ) / d < 1 := by rw [div_lt_one hdq]; exact_mod_cast Nat.mod_lt q hd.1
  have hpos : (0 : ℚ) < q / d * 2 ^ X := by positivity
  by_cases hr : q % d = 0
  · -- exact
    rw [hr, Nat.cast_zero, zero_div, add_zero] at hquot
    have hne : q / d ≠ 0 := by rw [Nat.div_ne_zero_iff]; omega
    rw [hr, hquot, ← dyadic_eq]
    exact ⟨hne, rfl⟩
  · have hb : (q % d != 0) = true := by simpa using hr
    have habs : |(if n then -1 else 1) * ((q : ℚ) / d * 2 ^ X)| = q / d * 2 ^ X := by
      rw [abs_mul, abs_of_pos hpos]; cases n <;> simp
    have hr0 : (0 : ℚ) < (q % d : Nat) / d := by
      have : 0 < q % d := Nat.pos_of_ne_zero hr
      positivity
    rw [hb]
    refine ⟨?_, ?_, ?_, ?_⟩
    · cases n
      · simpa using hpos.le
      · simpa using hpos
    · rw [habs, hquot]; gcongr; linarith
    · rw [habs, hquot]; gcongr
    · -- the quotient has at least 78 bits
      have h78 : (2 : ℚ) ^ 78 ≤ q / d := by
        have h1 : d * 2 ^ 78 ≤ q := (Nat.mul_le_mul_right _ hd.2).trans hbig
        rw [le_div_iff₀ hdq, mul_comm]
        exact_mod_cast h1
      have hlog : X + 78 ≤ Int.log 2 |(if n then -1 else 1) * ((q : ℚ) / d * 2 ^ X)| := by
        refine (Int.zpow_le_iff_le_log Nat.one_lt_two (by rw [habs]; exact hpos)).1 ?_
        rw [habs, Nat.cast_ofNat, add_comm, zpow_add₀ two_ne_zero]
        gcongr
        exact_mod_cast h78
      rw [gridExp]
      omega

theorem divScale_zero {v : Fv} (h : v.isZero = true) (c : Nat) : divScale v c = .zero v.neg := by
  cases v with
  | nan s => cases h
  | inf n => cases h
  | fin n k x => exact if_pos (by simpa [Fv.isZero] using h)

/-! Flags of a list of roundings. -/

theorem foldl_lor {α : Type} (g : α → Nat) (l : List α) (a : Nat) :
    l.foldl (fun a i => a ||| g i) a = a ||| l.foldl (fun a i => a ||| g i) 0 := by
  induction l generalizing a with
  | nil => simp
  | cons i l ih => rw [List.foldl_cons, ih, List.foldl_cons, ih (0 ||| g i), Nat.zero_or, Nat.or_assoc]

/-- Flags of the chosen elements and of the others are those of all. -/
theorem foldl_lor_split (p : Nat → Bool) (g r : Nat → Nat) (l : List Nat) :
    (l.filter p).foldl (fun a i => a ||| g i) 0 ||| l.foldl (fun a i => a ||| if p i then 0 else r i) 0 =
      l.foldl (fun a i => a ||| if p i then g i else r i) 0 := by
  induction l with
  | nil => simp
  | cons i l ih =>
    rw [List.foldl_cons, List.foldl_cons, foldl_lor _ l, foldl_lor _ l (0 ||| if p i then g i else r i), ← ih, List.filter_cons]
    cases p i with
    | true =>
      simp only [if_true, List.foldl_cons, Nat.zero_or]
      rw [foldl_lor g, Nat.or_assoc]
    | false =>
      simp only [Bool.false_eq_true, if_false, Nat.zero_or]
      rw [← Nat.or_assoc, ← Nat.or_assoc, Nat.or_comm _ (r i)]

end Sys2Proof.Machine
end

section
/-! A block encoded is R56's. -/

namespace Sys2Proof.Machine

open Sys2Proof.Claims

section
variable {xs : List Fv} {lim : Nat}

theorem outliersOf_chosen (h : ∀ x ∈ xs, x.isNan = false) : Chosen xs (outliersOf lim xs) ∧
    (outliersOf lim xs).length = min lim (xs.filter fun x => !x.isZero).length := by
  have hle : min lim (xs.filter fun x => !x.isZero).length ≤ xs.length :=
    (min_le_right _ _).trans (List.length_filter_le _ _)
  have := chooseOut_chosen h (min lim (xs.filter fun x => !x.isZero).length) (acc := [])
    ⟨List.nodup_nil, by simp, by simp⟩ (by simpa using hle)
  simpa [outliersOf] using this

theorem length_filter_outliers (h : ∀ x ∈ xs, x.isNan = false) :
    ((List.range xs.length).filter fun i => (outliersOf lim xs).contains i).length =
      min lim (xs.filter fun x => !x.isZero).length := by
  obtain ⟨hc, hl⟩ := outliersOf_chosen (lim := lim) h
  rw [← hl]
  refine ((List.perm_ext_iff_of_nodup (List.nodup_range.filter _) hc.nodup).2 fun i => ?_).length_eq
  simp only [List.mem_filter, List.mem_range, List.contains_eq_mem, decide_eq_true_eq]
  exact ⟨fun h => h.2, fun h => ⟨hc.lt i h, h⟩⟩

theorem sizeAt_of_getElem? {i : Nat} {x : Fv} (h : xs[i]? = some x) : sizeAt xs i = x.size := by
  rw [sizeAt, List.getD_eq_getElem?_getD, h, Option.getD_some]

theorem getD_of_getElem? {i : Nat} {x : Fv} (h : xs[i]? = some x) : xs.getD i (.fin false 0 0) = x := by
  rw [List.getD_eq_getElem?_getD, h, Option.getD_some]

/-- The largest magnitude of the rest: at least each of theirs, and one of them unless it is 0. -/
theorem restMax_spec (h : ∀ x ∈ xs, x.isNan = false) :
    ((restMax lim xs).isNan = false ∧ (restMax lim xs).neg = false) ∧
      (∀ i x, xs[i]? = some x → (outliersOf lim xs).contains i = false → x.size ≤ (restMax lim xs).size) ∧
      ((restMax lim xs).size = 0 ∨ ∃ i x, xs[i]? = some x ∧ (outliersOf lim xs).contains i = false ∧ (restMax lim xs).size = x.size) := by
  obtain ⟨h1, h2, h3⟩ := largestOf_spec h ((List.range xs.length).filter fun i => !(outliersOf lim xs).contains i)
  refine ⟨h1, fun i x hx ho => ?_, h3.imp_right ?_⟩
  · have hi : i < xs.length := (List.getElem?_eq_some_iff.1 hx).1
    rw [← sizeAt_of_getElem? hx]
    exact h2 i (List.mem_filter.2 ⟨List.mem_range.2 hi, by rw [ho]; rfl⟩)
  · rintro ⟨i, hi, he⟩
    obtain ⟨hi, ho⟩ := List.mem_filter.1 hi
    rw [List.mem_range] at hi
    refine ⟨i, xs[i], List.getElem?_eq_getElem hi, by simpa using ho, ?_⟩
    rw [← sizeAt_of_getElem? (List.getElem?_eq_getElem hi)]
    exact he

/-- The rest are all zeros just when their largest is. -/
theorem restMax_isZero (h : ∀ x ∈ xs, x.isNan = false) : (restMax lim xs).isZero = true ↔
    ∀ i x, xs[i]? = some x → (outliersOf lim xs).contains i = false → x.isZero = true := by
  obtain ⟨h1, h2, h3⟩ := restMax_spec (lim := lim) h
  have hn : ∀ (i : Nat) (x : Fv), xs[i]? = some x → x.isNan = false := fun i x hx => h x (List.mem_of_getElem? hx)
  rw [isZero_iff_size h1.1]
  constructor
  · intro h0 i x hx ho
    rw [isZero_iff_size (hn i x hx)]
    exact le_antisymm (h0 ▸ h2 i x hx ho) (size_nonneg x)
  · intro h0
    rcases h3 with h3 | ⟨i, x, hx, ho, h3⟩
    · exact h3
    · rw [h3, ← isZero_iff_size (hn i x hx)]
      exact h0 i x hx ho

/-- The flags of element `i`. -/
def flagAt (f : Fp) (m : Rm) (lim : Nat) (xs : List Fv) (i : Nat) : Nat :=
  if (outliersOf lim xs).contains i then (outRound m xs i).2
  else if (restMax lim xs).isZero then 0 else (scaledRound f m xs (scaleFor f (restMax lim xs)) i).2

/-- An element that is scaled. -/
theorem scaledRound_spec {f : Fp} (hf : f ∈ [Fp.e4m3, .e5m2, .e3m2, .e2m3, .e2m1]) (m : Rm) {i : Nat} {x : Fv}
    (hx : xs[i]? = some x) (sc : Nat) :
    (∀ n, x = .inf n → scaledRound f m xs sc i = (f.signed n f.largest, 0)) ∧
      (x.isZero = true → Codes f x.neg 0 (scaledRound f m xs sc i).1 ∧ (scaledRound f m xs sc i).2 = 0) ∧
      ∀ v, finQ x = some v → v ≠ 0 → IsRound f m true false (v / scaleQ sc) (scaledRound f m xs sc i) := by
  have hf3 : f.f ≤ 3 := (by decide : ∀ f ∈ [Fp.e4m3, .e5m2, .e3m2, .e2m3, .e2m1], f.f ≤ 3) f hf
  rw [scaledRound, getD_of_getElem? hx]
  refine ⟨?_, fun h0 => ?_, fun v hv h0 => roundTo_isRound f m true false (divScale_stands hf3 hv h0 sc)⟩
  · rintro n rfl; rfl
  · rw [divScale_zero h0]
    exact ⟨codes_zero f _, rfl⟩

/-! The parts of an encoding. -/

theorem encodeBlock_hdr (f : Fp) (m : Rm) (h : ∀ x ∈ xs, x.isNan = false) :
    (encodeBlock f lim m xs).hdr = 512 * min lim (xs.filter fun x => !x.isZero).length +
      if (restMax lim xs).isZero then 0 else scaleFor f (restMax lim xs) := by
  rw [encodeBlock_eq f lim m h, mul_comm]
  cases (restMax lim xs).isZero <;> rfl

theorem encodeBlock_outs (f : Fp) (m : Rm) (h : ∀ x ∈ xs, x.isNan = false) :
    (encodeBlock f lim m xs).outs =
      ((List.range xs.length).filter fun i => (outliersOf lim xs).contains i).map fun i => (outRound m xs i).1 := by
  rw [encodeBlock_eq f lim m h]
  cases (restMax lim xs).isZero <;> exact List.map_map ..

theorem encodeBlock_codes (f : Fp) (m : Rm) (h : ∀ x ∈ xs, x.isNan = false) {i : Nat} (hi : i < xs.length) :
    (encodeBlock f lim m xs).codes[i]? = some (if (outliersOf lim xs).contains i then 8
      else if (restMax lim xs).isZero then 0 else (scaledRound f m xs (scaleFor f (restMax lim xs)) i).1) := by
  rw [encodeBlock_eq f lim m h]
  cases (restMax lim xs).isZero with
  | true => simp [hi]
  | false =>
    simp only [Bool.false_eq_true, if_false, List.getElem?_map, List.getElem?_range hi, Option.map_some, apply_ite Prod.fst]

theorem encodeBlock_flags (f : Fp) (m : Rm) (h : ∀ x ∈ xs, x.isNan = false) :
    (encodeBlock f lim m xs).flags = (List.range xs.length).foldl (fun a i => a ||| flagAt f m lim xs i) 0 := by
  have hout : ∀ l : List Nat, (l.map (outRound m xs)).foldl (fun a o => a ||| o.2) 0 =
      l.foldl (fun a i => a ||| (outRound m xs i).2) 0 := fun l => by rw [List.foldl_map]
  have hsplit := fun r => foldl_lor_split (fun i => (outliersOf lim xs).contains i) (fun i => (outRound m xs i).2) r (List.range xs.length)
  rw [encodeBlock_eq f lim m h]
  unfold flagAt
  cases (restMax lim xs).isZero with
  | true =>
    have hz : ∀ l : List Nat, l.foldl (fun a i => a ||| if (outliersOf lim xs).contains i then 0 else 0) 0 = 0 := fun l => by
      induction l with
      | nil => rfl
      | cons i l ih => rw [List.foldl_cons, ite_self, Nat.or_zero, ih]
    simp only [if_true, hout]
    rw [← hsplit fun _ => 0, hz, Nat.or_zero]
  | false =>
    simp only [Bool.false_eq_true, if_false, hout]
    rw [← hsplit fun i => (scaledRound f m xs (scaleFor f (restMax lim xs)) i).2, List.foldl_map, foldl_lor]
    simp only [apply_ite Prod.snd]

/-- R56: the encoding of values none of which is a NaN. -/
theorem encodeBlock_encodes {f : Fp} (hf : f ∈ [Fp.e4m3, .e5m2, .e3m2, .e2m3, .e2m1]) (m : Rm) (h : ∀ x ∈ xs, x.isNan = false) :
    Encodes f lim m xs (encodeBlock f lim m xs) (fun i => (outliersOf lim xs).contains i) (flagAt f m lim xs) := by
  obtain ⟨hc, -⟩ := outliersOf_chosen (lim := lim) h
  obtain ⟨hmax, hle, hat⟩ := restMax_spec (lim := lim) h
  have hn : ∀ (i : Nat) (x : Fv), xs[i]? = some x → x.isNan = false := fun i x hx => h x (List.mem_of_getElem? hx)
  have hlt : ∀ (i : Nat) (x : Fv), xs[i]? = some x → i < xs.length := fun i x hx => (List.getElem?_eq_some_iff.1 hx).1
  refine ⟨length_filter_outliers h, fun i j x y hx hy hi hj => ?_, encodeBlock_outs f m h, encodeBlock_flags f m h,
    fun i x hx hi => ?_, fun h0 => ?_, ?_⟩
  · -- outliers come first by magnitude
    rw [absLt_iff (hn j y hy) (hn i x hx), absLt_iff (hn i x hx) (hn j y hy), ← sizeAt_of_getElem? hx, ← sizeAt_of_getElem? hy]
    have hi : i ∈ outliersOf lim xs := by simpa using hi
    have hj : j ∉ outliersOf lim xs := by simpa using hj
    refine (hc.first i hi j (hlt j y hy) hj).imp_right fun he => ⟨he.1.le.not_gt, ?_⟩
    have hne : i ≠ j := fun he => hj (he ▸ hi)
    omega
  · rw [encodeBlock_codes f m h (hlt i x hx), if_pos hi, flagAt, if_pos hi, outRound, getD_of_getElem? hx]
    exact ⟨rfl, rfl⟩
  · have hz := (restMax_isZero (lim := lim) h).2 h0
    refine ⟨by rw [encodeBlock_hdr f m h, if_pos hz, add_zero], fun i x hx hi => ?_⟩
    have hi : ¬(outliersOf lim xs).contains i = true := by rw [hi]; simp
    rw [encodeBlock_codes f m h (hlt i x hx), if_neg hi, if_pos hz, flagAt, if_neg hi, if_pos hz]
    exact ⟨rfl, rfl⟩
  · rintro ⟨i, x, hx, hi, h0⟩
    have hz : ¬(restMax lim xs).isZero = true := fun hz => by
      rw [(restMax_isZero (lim := lim) h).1 hz i x hx hi] at h0; cases h0
    obtain ⟨h1, h2, h3, h4⟩ := scaleFor_spec f (restMax lim xs)
    refine ⟨_, h1, h2, by rw [encodeBlock_hdr f m h, if_neg hz], fun k hk1 hk2 => ?_, fun hk j y hy hj => ?_, fun j y hy hj => ?_⟩
    · -- a smaller scale does not hold the largest
      obtain ⟨j, y, hy, hj, he⟩ := hat.resolve_left fun h => hz ((isZero_iff_size hmax.1).2 h)
      refine ⟨j, y, hy, hj, fun hfit => ?_⟩
      rw [fits_iff f k (hn j y hy), ← he, ← scaleFits_iff f k hmax, h3 k hk1 hk2] at hfit
      cases hfit
    · rw [fits_iff f _ (hn j y hy)]
      exact (hle j y hy hj).trans ((scaleFits_iff f _ hmax).1 (h4 hk))
    · have hj : ¬(outliersOf lim xs).contains j = true := by rw [hj]; simp
      rw [encodeBlock_codes f m h (hlt j y hy), if_neg hj, if_neg hz, flagAt, if_neg hj, if_neg hz]
      exact ⟨_, rfl, fun n hy' => by simpa [Prod.ext_iff] using (scaledRound_spec hf m hy _).1 n hy', (scaledRound_spec hf m hy _).2.1,
        (scaledRound_spec hf m hy _).2.2⟩

end

end Sys2Proof.Machine
end

section
/-! PACK and UNPK (R127, R128). -/

namespace Sys2Proof.Machine

open Sys2Proof.Claims

/-! Words that write v-registers thread by thread. -/

theorem valueThread_v {d : Nat} (hd : d < 64) (ps : Mask) (t : Nat) : valueThread d ps t = t := if_pos hd

/-- Writing each participant's value after the marks. -/
theorem gen_write_fills {w w1 : Warp} (hz : w.sized = true) {c : Issue} {codes : List Nat} {ps : Mask} {d n : Nat}
    (hd : d + n ≤ 64) (hd64 : d < 64) {vals val : Nat → Nat} (hval : ∀ t, has ps t = true → vals t = val t)
    (hw : w1 = (w.markAlone c codes ps).writeWide d .gen ps n ((List.range 32).map vals)) :
    w1 = { w with v := w1.v, s := w1.s } ∧ w1.sized = true ∧ Filled w w1 d n (marksOf c codes ps) ps val := by
  by_cases hp : ps = 0
  · subst hp
    have h1 : w1 = w := by rw [hw, writeWide_none, Warp.markAlone, if_pos (by simp)]
    rw [h1]
    exact ⟨rfl, hz, fun i th _ _ hc => by simp at hc, fun _ _ _ _ _ => rfl, fun code th hc => by simp [marksOf] at hc⟩
  · obtain ⟨hfr, hpp, hz1, hv, hk, hf⟩ := marked_write (sh := .gen) hz (.inl hd) hp (fun _ _ _ => trivial) hw
    refine ⟨by conv_lhs => rw [hfr, hpp], hz1, fun i th hi hth hc h63 h127 => ?_, hk, hf⟩
    have hc : has ps th = true := hc.resolve_right fun h => by omega
    rw [hv i th hi hth (.inl hc) h63 h127, valueThread_v hd64, ← hval th hc]
    simp [nth, wordVals, hth]

/-- The state in which a word ends that writes the values `vals`, each thread's own, and raises the flags `fl`. -/
def genEnd (s : State) (c : Issue) (w : Warp) (h : Hdr) (codes : List Nat) (d n : Nat) (vals fl : Nat → Nat) : State :=
  let ps := parts c w h
  State.endWord { s.setWarp ((w.markAlone c codes ps).writeWide d .gen ps n ((List.range 32).map vals)) with
    issue := some (c.addFlags (c.src w) ((threads ps).map fun t => (t, fl t))) } h .no

/-- A word that writes each participant's own value completes, with each one's own flags (R111). -/
theorem gen_write_ends {s : State} {c : Issue} {w : Warp} {h : Hdr} (I : Issuing s c w h.c) {codes : List Nat} {d n : Nat}
    (hd : d + n ≤ 64) (hd64 : d < 64) {vals val fl : Nat → Nat}
    (hval : ∀ t, has (parts c w h) t = true → vals t = val t) :
    (noFlagTrap (c.src w) (parts c w h) fl → ∃ w', Gives s (genEnd s c w h codes d n vals fl) c w w' h d n
        (marksOf c codes (parts c w h)) (parts c w h) val fl) ∧
      (¬noFlagTrap (c.src w) (parts c w h) fl → ∃ t t' w', genEnd s c w h codes d n vals fl = t' ∧
        RanTrap s t t' c { w with v := w'.v, s := w'.s } w' h.c (fun t => if has (parts c w h) t then fl t else 0)
          (flagTrap c (c.src w) (parts c w h) fl ((c.src w).seq + 1)) ∧
        Filled w w' d n (marksOf c codes (parts c w h)) (parts c w h) val) := by
  obtain ⟨w1, hw1⟩ : ∃ w1, w1 = (w.markAlone c codes (parts c w h)).writeWide d .gen (parts c w h) n ((List.range 32).map vals) :=
    ⟨_, rfl⟩
  obtain ⟨hfr, hz, hF⟩ := gen_write_fills I.sized hd hd64 hval hw1
  have hu1 : w1.uid = c.uid := by rw [hfr]; exact (warp?_uid I.warp :)
  have hon := onlyWarp_setWarp s w1 (some (c.addFlags (c.src w) ((threads (parts c w h)).map fun t => (t, fl t)))) hu1
  have hcalm := calm_regs I.calm (w := w) (w1 := w1) (by rw [hfr])
  rw [genEnd, ← hw1]
  refine ⟨fun hq => ?_, fun hq => ?_⟩
  · obtain ⟨w', hR⟩ := endWord_ran (h := h) hon rfl (warp?_setWarp I.warp hu1) hz hcalm I.sound
      (by rw [addFlags_quiet hq I.sound]) (fun t _ => flagsOf_addFlags _ _ _ _ t) .no
    have hf' := hR.adv.frame
    refine ⟨w', ?_, hF.congr (by rw [hf']) (by rw [hf'])⟩
    have : w1 = { w with v := w'.v, s := w'.s } := by rw [hf']; exact hfr
    simp only [valueThread_v hd64]
    rw [← this]; exact hR
  · obtain ⟨t, t', w', he, hR⟩ := endWord_trap (h := h) hon rfl (warp?_setWarp I.warp hu1) hz hcalm
      (addFlags_loud hq I.sound) (fun t _ => flagsOf_addFlags _ _ _ _ t) .no
    obtain ⟨hv, hs⟩ := ranTrap_files hR
    refine ⟨t, t', w', he, ?_, hF.congr hv hs⟩
    have : w1 = { w with v := w'.v, s := w'.s } := by rw [hv, hs]; exact hfr
    rw [← this]; exact hR

end Sys2Proof.Machine
end

section
/-! PACK (R127). -/

namespace Sys2Proof.Machine

open Sys2Proof.Claims

/-! The threads of a block. -/

theorem blockLen_cases (imm : Nat) : blockLen imm = 16 ∨ blockLen imm = 32 := by
  unfold blockLen
  split <;> simp

theorem blockThreads_eq (len b : Nat) : blockThreads len b = List.range' (len * b) len := by
  rw [blockThreads, List.range'_eq_map_range]
  exact List.map_congr_left fun i _ => Nat.add_comm _ _

theorem headD_blockThreads {len : Nat} (h : 0 < len) (b : Nat) : (blockThreads len b).headD 0 = len * b := by
  obtain ⟨n, rfl⟩ := Nat.exists_eq_add_of_le' h
  rw [blockThreads_eq, List.range'_succ]
  rfl

/-- The threads of a block share its number. -/
theorem div_of_mem_blockThreads {len b t : Nat} (h : t ∈ blockThreads len b) : t / len = b := by
  obtain ⟨h1, h2⟩ := List.mem_range'_1.1 (blockThreads_eq len b ▸ h)
  exact Nat.div_eq_of_lt_le (by rw [Nat.mul_comm]; exact h1) (by rw [Nat.succ_mul, Nat.mul_comm]; exact h2)

/-- The blocks cover the threads in order. -/
theorem flatMap_blockThreads (imm : Nat) :
    (List.range (32 / blockLen imm)).flatMap (blockThreads (blockLen imm)) = List.range 32 := by
  rcases blockLen_cases imm with h | h <;> rw [h] <;> decide

/-- So what is done block by block to the participants is done to them in order. -/
theorem flatMap_participants {β : Type} (imm : Nat) (ps : Mask) (g : Nat → β) :
    ((List.range (32 / blockLen imm)).flatMap fun b => ((blockThreads (blockLen imm) b).filter (has ps)).map g) =
      (threads ps).map g := by
  rw [threads, ← flatMap_blockThreads imm, List.filter_flatMap, List.map_flatMap]

/-- The number of an element among those of an interval that satisfy `p` is how many stand before it. -/
theorem map_zipIdx_filter_range' {β : Type} (p : Nat → Bool) (g : Nat × Nat → β) (s n : Nat) :
    (((List.range' s n).filter p).zipIdx.map g) = ((List.range' s n).filter p).map fun t =>
      g (t, ((List.range t).filter fun u => s ≤ u && p u).length) := by
  induction n with
  | zero => rfl
  | succ n ih =>
    have hlast : ((List.range (s + n)).filter fun u => decide (s ≤ u) && p u) = (List.range' s n).filter p := by
      rw [List.range_add, List.filter_append, List.filter_eq_nil_iff.2 fun u hu => by
        simp [Nat.not_le.2 (List.mem_range.1 hu)], List.nil_append, ← List.range'_eq_map_range]
      exact List.filter_congr fun u hu => by simp [(List.mem_range'_1.1 hu).1]
    rw [List.range'_concat, Nat.one_mul, List.filter_append, List.zipIdx_append, List.map_append, List.map_append, ih]
    congr 1
    by_cases hp : p (s + n) = true <;> simp [hp, hlast]

/-! PACK of one block. -/

/-- The encoding of the block that holds thread `t`, and the two words of that thread. -/
def packEnc (h : Hdr) (imm : Nat) (ps : Mask) (x : Nat → Word) (t : Nat) : BlockEnc :=
  encodeBlock (blockFmt imm) (imm / 64 % 8) (modeOf h) ((List.range (blockLen imm)).map fun i =>
    if has ps (t / blockLen imm * blockLen imm + i) then Fp.fp32.decode (x (t / blockLen imm * blockLen imm + i)).toNat
    else .fin false 0 0)
def packWords (h : Hdr) (imm : Nat) (ps : Mask) (x : Nat → Word) (t : Nat) : Nat × Nat :=
  let e := packEnc h imm ps x t
  let j := ((List.range t).filter fun u => t / blockLen imm * blockLen imm ≤ u && has ps u).length
  (e.codes.getD (t % blockLen imm) 0 + 2 ^ 16 * e.hdr, if j < e.outs.length then e.outs.getD j 0 + 2 ^ 16 * j + 2 ^ 19 else 0)

theorem packed_eq (h : Hdr) (imm : Nat) (ps : Mask) (x : Nat → Word) (t : Nat) : packed h imm ps x t =
    ((packWords h imm ps x t).1 + 2 ^ 32 * (packWords h imm ps x t).2, (packEnc h imm ps x t).flags) := rfl

theorem packBlock_eq (h : Hdr) (imm : Nat) (ps : Mask) (x : Nat → Word) (b : Nat) :
    (packBlock imm (modeOf h) ps (fun t => (x t).toNat) b).1 =
      ((blockThreads (blockLen imm) b).filter (has ps)).map (fun t => (t, packWords h imm ps x t)) ∧
    ∀ t ∈ blockThreads (blockLen imm) b,
      (packBlock imm (modeOf h) ps (fun t => (x t).toNat) b).2 = (packEnc h imm ps x t).flags := by
  have hlen : 0 < blockLen imm := by have := blockLen_cases imm; omega
  have hlim : fld imm 6 3 = imm / 64 % 8 := by norm_num [fld]
  have henc : ∀ t ∈ blockThreads (blockLen imm) b, encodeBlock (blockFmt imm) (fld imm 6 3) (modeOf h)
      ((blockThreads (blockLen imm) b).map fun t => if has ps t then Fp.fp32.decode (x t).toNat else .fin false 0 0) =
        packEnc h imm ps x t := by
    intro t ht
    rw [packEnc, div_of_mem_blockThreads ht, hlim, blockThreads, List.map_map]
    simp only [Function.comp_def, Nat.mul_comm, Nat.add_comm]
  refine ⟨?_, fun t ht => congrArg BlockEnc.flags (henc t ht)⟩
  simp only [packBlock, headD_blockThreads hlen]
  rw [blockThreads_eq, map_zipIdx_filter_range', ← blockThreads_eq]
  refine List.map_congr_left fun t ht => ?_
  have ht := List.mem_of_mem_filter ht
  have hdiv := div_of_mem_blockThreads ht
  have hmod : t - blockLen imm * b = t % blockLen imm := by rw [← hdiv]; exact (Nat.mod_eq_sub_mul_div ..).symm
  rw [henc t ht, hmod, packWords, hdiv, Nat.mul_comm b]
  rfl

/-! PACK of a warp. -/

/-- What a participant finds for itself among the words of all. -/
theorem find?_map_pair {β : Type} {l : List Nat} {t : Nat} (h : t ∈ l) (g : Nat → β) :
    ((l.map fun u => (u, g u)).find? fun p => p.1 == t) = some (t, g t) := by
  induction l with
  | nil => cases h
  | cons u us ih =>
    rw [List.map_cons]
    by_cases hu : u = t
    · rw [List.find?_cons_of_pos (by simpa using hu), hu]
    · rw [List.find?_cons_of_neg (by simpa using hu)]
      exact ih ((List.mem_cons.1 h).resolve_left (Ne.symm hu))

/-- PACK writes each participant's two words, with its block's flags. -/
theorem pack_eq {s : State} {c : Issue} {w : Warp} {h : Hdr} (I : Issuing s c w h.c) (d a : BitVec 7) (imm : BitVec 10) :
    ∃ vals : Nat → Nat, (∀ t, has (parts c w h) t = true →
        vals t = (packed h imm.toNat (parts c w h) (reg (c.src w) a) t).1) ∧
      exec (.pack h d a imm) s = .next (genEnd s c w h (marksA h a) d.toNat 2 vals
        fun t => (packed h imm.toNat (parts c w h) (reg (c.src w) a) t).2) := by
  have hfl : ((List.range (32 / blockLen imm.toNat)).map fun b =>
      packBlock imm.toNat (modeOf h) (parts c w h) (fun t => (reg (c.src w) a t).toNat) b).flatMap
        (fun b => b.1.map fun p => (p.1, b.2)) =
      (threads (parts c w h)).map fun t => (t, (packed h imm.toNat (parts c w h) (reg (c.src w) a) t).2) := by
    rw [← flatMap_participants imm.toNat, List.flatMap_map]
    refine congrArg (fun f => List.flatMap f _) (funext fun b => ?_)
    obtain ⟨hw, hf⟩ := packBlock_eq h imm.toNat (parts c w h) (reg (c.src w) a) b
    rw [hw, List.map_map]
    exact List.map_congr_left fun t ht => by rw [Function.comp_apply, hf t (List.mem_of_mem_filter ht), packed_eq]
  have hres : ((List.range (32 / blockLen imm.toNat)).map fun b =>
      packBlock imm.toNat (modeOf h) (parts c w h) (fun t => (reg (c.src w) a t).toNat) b).flatMap (·.1) =
      (threads (parts c w h)).map fun t => (t, packWords h imm.toNat (parts c w h) (reg (c.src w) a) t) := by
    rw [← flatMap_participants imm.toNat, List.flatMap_map]
    exact congrArg (fun f => List.flatMap f _) (funext fun b => (packBlock_eq h imm.toNat _ _ b).1)
  refine ⟨fun t => match ((threads (parts c w h)).map fun t =>
      (t, packWords h imm.toNat (parts c w h) (reg (c.src w) a) t)).find? fun p => p.1 == t with
    | some p => p.2.1 + 2 ^ 32 * p.2.2 | none => 0, fun t ht => ?_, ?_⟩
  · simp only [find?_map_pair ((mem_threads _ _).2 ht), packed_eq]
  · rw [← hres, genEnd, ← hfl]
    simp only [exec_pack, execPack, State.pack, cur_eq I.issue I.warp]
    rfl

/-- PACK completes (R127). -/
theorem pack_writes (h : Hdr) {d : BitVec 7} (hd : d.toNat < 64) (a : BitVec 7) (imm : BitVec 10) :
    Writes (.pack h d a imm) h d 2 (marksA h a)
      (fun c r t => (packed h imm.toNat (r.participants c.slot h) (reg r a) t).1)
      (fun c r t => (packed h imm.toNat (r.participants c.slot h) (reg r a) t).2) := by
  intro s c w I hev
  obtain ⟨vals, hv, he⟩ := pack_eq I d a imm
  obtain ⟨h1, h2⟩ := gen_write_ends I (codes := marksA h a) (by omega : d.toNat + 2 ≤ 64) hd hv
    (fl := fun t => (packed h imm.toNat (parts c w h) (reg (c.src w) a) t).2)
  simp only [valueThread_v hd, he, parts_eq]
  refine ⟨fun hq => ?_, fun hq => ?_⟩
  · obtain ⟨w', hG⟩ := h1 hq
    exact ⟨_, w', rfl, hG⟩
  · obtain ⟨t, t', w', hs, hT⟩ := h2 hq
    exact ⟨t, t', w', congrArg _ hs, hT⟩

end Sys2Proof.Machine
end

section
/-! UNPK (R128), and the claim about blocks. -/

namespace Sys2Proof.Machine

open Sys2Proof.Claims

/-! UNPK of one block. -/

/-- The outliers of the block that holds thread `t`. -/
def unpkOuts (h : Hdr) (imm : Nat) (r : Warp) (t : Nat) : List Nat :=
  (List.range 7).map fun j => outWord r h (t / blockLen imm * blockLen imm + j) % 2 ^ 16

theorem unpkBlock_eq (h : Hdr) (imm : Nat) (r : Warp) (a : BitVec 7) (t : Nat) :
    unpkBlock imm (elWord r a) (outWord r h) (t / blockLen imm) = if blockBad imm r a t = true then none
      else some (blockVals (blockFmt imm) (blockHdrOf imm r a t) (unpkOuts h imm r t) (blockCodes imm r a t)) := by
  have hlen : 0 < blockLen imm := by have := blockLen_cases imm; omega
  have hcodes : (blockThreads (blockLen imm) (t / blockLen imm)).map (fun u => elWord r a u % 256) = blockCodes imm r a t := by
    rw [blockThreads, List.map_map, blockCodes]
    simp only [Function.comp_def, Nat.mul_comm, Nat.add_comm]
  simp only [unpkBlock, headD_blockThreads hlen, hcodes, Nat.mul_comm (blockLen imm)]
  rfl

/-- Whether block `b` of the warp is ill-formed, and its values. -/
def unpkBlocks (h : Hdr) (imm : Nat) (r : Warp) (a : BitVec 7) : List (Option (List Fv)) :=
  (List.range (32 / blockLen imm)).map (unpkBlock imm (elWord r a) (outWord r h))

theorem div_blockLen_lt (imm : Nat) {t : Nat} (ht : t < 32) : t / blockLen imm < 32 / blockLen imm := by
  rcases blockLen_cases imm with h | h <;> rw [h] <;> omega

theorem unpkBlocks_getD (h : Hdr) (imm : Nat) (r : Warp) (a : BitVec 7) {t : Nat} (ht : t < 32) :
    (unpkBlocks h imm r a).getD (t / blockLen imm) none = unpkBlock imm (elWord r a) (outWord r h) (t / blockLen imm) := by
  rw [unpkBlocks, List.getD_eq_getElem?_getD, List.getElem?_map, List.getElem?_range (div_blockLen_lt imm ht)]
  rfl

/-- The first threads of the ill-formed blocks (R55). -/
def badMask (h : Hdr) (imm : Nat) (r : Warp) (a : BitVec 7) : Mask :=
  maskOf (((List.range (32 / blockLen imm)).filter fun b => ((unpkBlocks h imm r a).getD b none).isNone).map (· * blockLen imm))

theorem badMask_eq (h : Hdr) (imm : Nat) (r : Warp) (a : BitVec 7) :
    badMask h imm r a = wordOf fun t => t % blockLen imm == 0 && blockBad imm r a t := by
  have hlen : 0 < blockLen imm := by have := blockLen_cases imm; omega
  rw [wordOf_eq]
  refine mask_ext fun t ht => Bool.eq_iff_iff.2 ?_
  have hnone : ((unpkBlocks h imm r a).getD (t / blockLen imm) none).isNone = blockBad imm r a t := by
    rw [unpkBlocks_getD h imm r a ht, unpkBlock_eq]
    cases blockBad imm r a t <;> rfl
  simp only [badMask, has_maskOf, has_maskWhere, List.mem_map, List.mem_filter, List.mem_range, ht, decide_true, Bool.and_true,
    Bool.true_and, decide_eq_true_eq, Bool.and_eq_true, beq_iff_eq]
  constructor
  · rintro ⟨b, ⟨-, hb⟩, rfl⟩
    rw [Nat.mul_div_cancel _ hlen] at hnone
    exact ⟨Nat.mul_mod_left _ _, hnone ▸ hb⟩
  · rintro ⟨hm, hb⟩
    exact ⟨t / blockLen imm, ⟨div_blockLen_lt imm ht, hnone ▸ hb⟩, Nat.div_mul_cancel (Nat.dvd_of_mod_eq_zero hm)⟩

/-! UNPK of a warp. -/

/-- What thread `t` finds once the blocks are read. -/
def unpkVal (h : Hdr) (imm : Nat) (r : Warp) (a : BitVec 7) (t : Nat) : Nat × Nat :=
  match (((unpkBlocks h imm r a).getD (t / blockLen imm) none).getD []).getD (t % blockLen imm) (.fin false 0 0) with
  | .nan sig => (Fp.fp32.cnan, if sig then fIV else 0)
  | v => roundTo .fp32 (modeOf h) h.ext.sat h.ext.ftz v.ex

theorem unpkVal_eq (h : Hdr) {imm : Nat} {r : Warp} {a : BitVec 7} {t : Nat} (ht : t < 32) (hb : blockBad imm r a t = false) :
    unpkVal h imm r a t = unpacked h imm r a t := by
  have hblock : (unpkBlocks h imm r a).getD (t / blockLen imm) none =
      some (blockVals (blockFmt imm) (blockHdrOf imm r a t) (unpkOuts h imm r t) (blockCodes imm r a t)) := by
    rw [unpkBlocks_getD h imm r a ht, unpkBlock_eq, if_neg (by rw [hb]; decide)]
  rw [unpkVal, hblock, Option.getD_some]
  rfl

theorem unpk_eq {s : State} {c : Issue} {w : Warp} {h : Hdr} (I : Issuing s c w h.c) (d a : BitVec 7) (imm : BitVec 10) :
    exec (.unpk h d a imm) s =
      if parts c w h = 0 then .next (s.endWord h .no)
      else if badMask h imm.toNat (c.src w) a ≠ 0 then
        .next (s.trapWord c h (c.trapOf 8 (badMask h imm.toNat (c.src w) a) 0 0 (w.seq + 1)))
      else .next (genEnd s c w h (marksA h a) d.toNat 1 (fun t => (unpkVal h imm.toNat (c.src w) a t).1)
        fun t => (unpkVal h imm.toNat (c.src w) a t).2) := by
  have hout : (fun t => if has (c.src w).exited t then 0 else (tsReg h 1).val (c.src w) t) = outWord (c.src w) h :=
    funext fun t => by rw [val_ts]; rfl
  simp only [exec_unpk, execUnpk, State.unpk, cur_eq I.issue I.warp, hout, beq_iff_eq, bne_iff_ne]
  rfl

/-- UNPK completes where no block is ill-formed (R128). -/
theorem unpk_completes {s : State} {c : Issue} {w : Warp} {h : Hdr} (I : Issuing s c w h.c) {d : BitVec 7} (hd : d.toNat < 64)
    (a : BitVec 7) (imm : BitVec 10) (hok : ∀ t, t < 32 → blockBad imm.toNat (c.src w) a t = false) :
    let r := c.src w
    let ps := parts c w h
    let marks := marksOf c (marksA h a) ps
    let val := fun t => (unpacked h imm.toNat r a t).1
    let flag := fun t => (unpacked h imm.toNat r a t).2
    (noFlagTrap r ps flag → ∃ t w', exec (.unpk h d a imm) s = .next t ∧
      Gives s t c w w' h d.toNat 1 marks ps val flag) ∧
    (¬noFlagTrap r ps flag → ∃ t t' w', exec (.unpk h d a imm) s = .next t' ∧
      RanTrap s t t' c { w with v := w'.v, s := w'.s } w' h.c (fun t => if has ps t then flag t else 0)
        (flagTrap c r ps flag (r.seq + 1)) ∧
      Filled w w' d.toNat 1 marks ps val) := by
  intro r ps marks val flag
  by_cases hp : ps = 0
  · rw [unpk_eq I, if_pos hp]
    refine ⟨fun _ => ?_, fun hq => (hq (.inr fun t ht => by rw [hp] at ht; simp at ht)).elim⟩
    obtain ⟨w', hG⟩ := gives_none (d := d.toNat) (n := 1) (codes := marksA h a) (val := val) (fl := flag) I .no
    exact ⟨_, w', rfl, by simpa only [marks, hp] using hG⟩
  · have hmask : badMask h imm.toNat r a = 0 := by
      rw [badMask_eq, wordOf_eq]
      exact mask_ext fun t ht => by rw [has_maskWhere, hok t ht]; simp
    have hval : ∀ t, has ps t = true → unpkVal h imm.toNat r a t = unpacked h imm.toNat r a t :=
      fun t ht => unpkVal_eq h (has_lt ht) (hok t (has_lt ht))
    have hend : genEnd s c w h (marksA h a) d.toNat 1 (fun t => (unpkVal h imm.toNat r a t).1)
        (fun t => (unpkVal h imm.toNat r a t).2) =
        genEnd s c w h (marksA h a) d.toNat 1 (fun t => (unpkVal h imm.toNat r a t).1) flag := by
      have hfl : ((threads ps).map fun t => (t, (unpkVal h imm.toNat r a t).2)) = (threads ps).map fun t => (t, flag t) :=
        List.map_congr_left fun t ht => by rw [hval t ((mem_threads _ _).1 ht)]
      simp only [genEnd]
      rw [hfl]
    obtain ⟨h1, h2⟩ := gen_write_ends I (codes := marksA h a) (by omega : d.toNat + 1 ≤ 64) hd (fl := flag) (val := val)
      fun t ht => congrArg Prod.fst (hval t ht)
    rw [unpk_eq I, if_neg hp, if_neg (not_not.2 hmask), hend]
    refine ⟨fun hq => ?_, fun hq => ?_⟩
    · obtain ⟨w', hG⟩ := h1 hq
      exact ⟨_, w', rfl, hG⟩
    · obtain ⟨t, t', w', hs, hT⟩ := h2 hq
      exact ⟨t, t', w', congrArg _ hs, hT⟩

/-- UNPK of a warp with an ill-formed block traps (R55, R128). -/
theorem unpk_traps (h : Hdr) (d a : BitVec 7) (imm : BitVec 10) :
    let bad := fun (c : Issue) (w : Warp) (t : Nat) => t % blockLen imm.toNat == 0 && blockBad imm.toNat (c.src w) a t
    Traps (.unpk h d a imm) h (fun _ c w => parts c w h ≠ 0 ∧ ∃ t, t < 32 ∧ bad c w t = true) 8
      fun _ c w => (wordOf (bad c w), 0, 0) := by
  intro bad s c w I ⟨hp, t, ht, hb⟩
  have hmask : badMask h imm.toNat (c.src w) a ≠ 0 := by
    refine ne_zero_of_has (t := t) ?_
    rw [badMask_eq, wordOf_eq, has_maskWhere]
    simpa only [ht, decide_true, Bool.true_and] using hb
  rw [unpk_eq I, if_neg hp, if_pos hmask, badMask_eq]
  exact trapWord_raises I _

end Sys2Proof.Machine

open Sys2Proof Sys2Proof.Machine Sys2Proof.Claims

/-- Settles O20: PACK and UNPK write each participant's words, block by block; a block is encoded by R56 from the largest
magnitudes and the least scale that fits, and read element by element. -/
theorem blockPackingAndUnpacking : Obligations.BlockPackingAndUnpacking := by
  unfold Obligations.BlockPackingAndUnpacking
  exact ⟨fun h _ a imm hd => ⟨pack_writes h hd a imm, fun _ _ _ I hok => unpk_completes I hd a imm hok, unpk_traps h _ a imm⟩,
    fun f lim m _ hf _ _ => ⟨encodeBlock_nan f lim m, fun h => ⟨_, _, encodeBlock_encodes hf m h⟩⟩,
    fun f hdr outs codes _ hh => ⟨illFormed_iff f codes hh, length_blockValsFrom f _ outs 0 codes,
      fun _ _ _ hc hv => blockVals_spec f hdr outs codes hc hv⟩⟩
end

section
/-! Words that only retire, software traps and the trap of a failing encoding (R70, R74, R108, R396, R397). -/

namespace Sys2Proof.Machine

open Sys2Proof.Claims

/-! Words that only retire. -/

/-- A form that only ends its word leaves its warp as it was, in every state in which it does so. -/
theorem does_stay {i : Instr} {h : Hdr} {pre : State → Issue → Warp → Prop} (bnd : Bnd)
    (hi : ∀ s c w, Issuing s c w h.c → pre s c w → exec i s = .next (s.endWord h bnd)) :
    Does i h pre fun _ _ w => w := by
  intro s c w I hp
  obtain ⟨w', hR⟩ := endWord_ran (fl := fun _ => 0) (onlyWarp_refl s _) I.issue I.warp I.sized I.calm I.sound rfl
    (fun t _ => (Nat.or_zero _).symm) bnd
  exact ⟨_, w', hi s c w I hp, hR⟩

theorem nop_stays (h : Hdr) (d a b : BitVec 7) : Does (.nop h d a b) h always fun _ _ w => w :=
  does_stay .no fun s c w I _ => by rw [exec_nop, execNop, cur_eq I.issue I.warp]

theorem region_stays (h : Hdr) (d a b : BitVec 7) : Does (.region h d a b) h always fun _ _ w => w :=
  does_stay .after fun s c w I _ => by rw [exec_region, execRegion, cur_eq I.issue I.warp]

theorem patch_stays (h : Hdr) (n : BitVec 2) (tool : BitVec 22) : Does (.patch h n tool) h always fun _ _ w => w :=
  does_stay .no fun s c w I _ => by rw [exec_patch, execPatch, cur_eq I.issue I.warp]

/-! Software traps (R396). -/

theorem softTrap_eq {s : State} {c : Issue} {w : Warp} {h : Hdr} (I : Issuing s c w h.c) (cls code : Nat) :
    s.softTrap h cls code = if parts c w h = 0 then .next (s.retire .self none)
      else .next (s.trapWord c h (c.trapOf cls (parts c w h) 0 code (w.seq + 1))) := by
  simp only [State.softTrap, cur_eq I.issue I.warp, I.sound, Option.isSome_none, Bool.false_or, beq_iff_eq, parts_eq]

/-- With no participant a software trap that ends its chain only retires. -/
theorem softTrap_stays {i : Instr} {h : Hdr} (hc : h.c = false) {cls code : Nat} (hi : ∀ s, exec i s = s.softTrap h cls code) :
    Does i h (fun _ c w => parts c w h = 0) fun _ _ w => w :=
  does_stay .self fun s c w I hp => by simp [hi, softTrap_eq I, hp, State.endWord, hc]

theorem softTrap_traps {i : Instr} {h : Hdr} {cls code : Nat} (hi : ∀ s, exec i s = s.softTrap h cls code) :
    Traps i h (fun _ c w => parts c w h ≠ 0) cls fun _ c w => (parts c w h, 0, code) := by
  intro s c w I hp
  rw [hi, softTrap_eq I, if_neg hp]
  exact trapWord_raises I _

/-! Encodings that fail (R70). -/

/-- Where a trap is laid in the packet is no part of what raising it leaves. -/
theorem Raised.at_word {s t t' : State} {c : Issue} {w w' : Warp} {tr : TrapReq} {k : Nat} {word : Word} {i : Option Issue}
    (R : Raised { s with issue := i } t t' { c with wslot := k, word } w w' tr) : Raised s t t' c w w' tr :=
  { others := R.others, issue := R.issue, warp := R.warp, frame := R.frame, park := R.park, slots := R.slots, trap := R.trap,
    taken := R.taken }

/-- The trap of an encoding that fails, laid at the word at `fpc`, for every active thread. -/
def encodingTrap (c : Issue) (w : Warp) (fpc : DWord) (word : Word) : TrapReq :=
  { cls := 1, mask := active c w, fpc, npc := c.npc, rpc := fpc, bpc := fpc, word := packetSlot c.pkt fpc, va := 0,
    info := word.toNat, replay := false, seq := w.seq + 1 }

theorem illegalInstruction_raises {s : State} {c : Issue} {w : Warp} (I : Issuing s c w false) (fpc : DWord) (word : Word) :
    ∃ t t' w', exec (.illegalInstruction fpc word) s = .next t' ∧ Raised s t t' c w w' (encodingTrap c w fpc word) := by
  let c' : Issue := { c with wslot := packetSlot c.pkt fpc, word }
  -- the same issue, at the word that the failure is laid at
  have I' : Issuing { s with issue := some c' } c' w Hdr.plain.c := ⟨rfl, I.warp, I.sized, I.calm, I.sound⟩
  obtain ⟨t, t', w', he, hR⟩ := trapWord_raises I' (encodingTrap c w fpc word)
  refine ⟨t, t', w', ?_, hR.at_word⟩
  rw [← he, exec_illegalInstruction, execIllegalInstruction, cur_eq I.issue I.warp, State.trapWord,
    show c'.trap = none from I.sound]
  rfl

end Sys2Proof.Machine

open Sys2Proof Sys2Proof.Machine Sys2Proof.Claims

/-- Settles O39: each form ends its word or raises one trap, and an encoding that fails raises its trap as a word that traps
does. -/
theorem trapsAtIssue : Obligations.TrapsAtIssue := by
  unfold Obligations.TrapsAtIssue
  have htrap : ∀ h d a b s, exec (.trap h d a b) s = s.softTrap h 9 a.toNat := fun h d a b s => by rw [exec_trap, execTrap]
  have hbrk : ∀ h d a b s, exec (.brk h d a b) s = s.softTrap h 10 a.toNat := fun h d a b s => by rw [exec_brk, execBrk]
  exact ⟨fun h d a b n tool => ⟨nop_stays h d a b, region_stays h d a b, patch_stays h n tool,
      fun hc => ⟨softTrap_stays hc (htrap h d a b), softTrap_stays hc (hbrk h d a b)⟩,
      softTrap_traps (htrap h d a b), softTrap_traps (hbrk h d a b)⟩,
    fun fpc word _ _ _ I => illegalInstruction_raises I fpc word⟩
end

section
/-! Words written out in the spec (R60 to R68). -/

namespace Sys2Proof.Claims

/-- Words of the computing and control majors. -/
theorem decode_written_core : ∀ x ∈ [(0x100C1028, Instr.fadd Hdr.plain 6 4 5), (0x22001400, .brx Hdr.plain 0 5 0),
    (0x22000004, .nop Hdr.plain 0 0 0), (0x23000C01, .rjpark Hdr.plain 0 3 0)], decodeTableWord 32 x.1 = some x.2 := by decide

/-- Words of the barrier, scheduling and system register majors. -/
theorem decode_written_warp : ∀ x ∈ [(0x2A000C0B, Instr.bar Hdr.plain 0 3 1), (0x2A000015, .barw Hdr.plain 0 0 2),
    (0x2A000006, .yield Hdr.plain 0 0 0), (0x2B020000, .rdsr Hdr.plain 1 0 0), (0x2B011618, .wrsr Hdr.plain 0 69 0x218)],
    decodeTableWord 32 x.1 = some x.2 := by decide

/-- Words of the memory, region and engine majors. -/
theorem decode_written_memory : ∀ x ∈ [(0x2C080844, Instr.ldB32 Hdr.plain 4 2 8), (0x2D182802, .stB32 Hdr.plain 12 10 0),
    (0x3C000002, .region Hdr.plain 0 0 0), (0x34000004 + 0x20000 * 64 + 0x400 * 3, .mxwait Hdr.plain 64 3 0),
    (0x38000005 + 0x20000 * 2, .qdclose Hdr.plain 2 0 0)], decodeTableWord 32 x.1 = some x.2 := by decide

/-- An extension word gives the instruction after it its third source (R65). -/
theorem decode_written_extension :
    decodeTableWord 64 ((0x3F000000 + 8 * 8) + 2 ^ 32 * (0x10000002 + 0x20000 * 5 + 0x400 * 6 + 8 * 7)) =
      some (.ffma { Hdr.plain with
        e0 := some { gp := 0, gn := false, rm := 0, sat := false, ftz := false, ts := 8, scope := 0 } } 5 6 7) := by decide

/-- A reserved major, a reserved extension kind and a reserved field value decode to nothing (R60, R65). -/
theorem decode_written_reserved :
    decodeTableWord 32 0x0 = none ∧ decodeTableWord 32 0x3FC00000 = none ∧ decodeTableWord 32 0x2C000007 = none := by decide

end Sys2Proof.Claims

open Sys2Proof Sys2Proof.Claims

/-- Settles O43: each word is decoded, family by family. -/
theorem decodesWrittenWords : Obligations.DecodesWrittenWords := by
  unfold Obligations.DecodesWrittenWords
  have hwords := List.forall_mem_append.2 ⟨decode_written_core,
    List.forall_mem_append.2 ⟨decode_written_warp, decode_written_memory⟩⟩
  exact ⟨hwords, decode_written_extension, decode_written_reserved⟩
end

section
/-! The floating-point arithmetic forms (R113, R114, R121). -/

namespace Sys2Proof.Machine

open Sys2Proof.Claims

theorem val_r2 (r : Warp) (a : BitVec 7) (t : Nat) : (r2 a).val r t = fp2 r a t := wide_two r a t

theorem val_tsPair (h : Hdr) (r : Warp) (t : Nat) : (tsReg h 2).val r t = (thirdPair r h t).toNat := by
  unfold tsReg thirdPair
  cases h.e0 with
  | none => rfl
  | some e => exact wide_two r e.ts t

/-- A form of two FP operands completes: `va` and `vb` are what its sources give. -/
theorem fp_floats_two {i : Instr} {h : Hdr} {d a b : BitVec 7} {n : Nat} {x y : Src} {va vb : Warp → Nat → Nat}
    {g : Rm → Bool → Bool → Nat → Nat → Nat × Nat} (hn : n = 1 ∨ n = 2)
    (hi : ∀ s, exec i s = s.fp h a.toNat b.toNat d.toNat n [x, y] fun m sat ftz l => g m sat ftz (op l 0) (op l 1))
    (hx : ∀ r t, x.val r t = va r t) (hy : ∀ r t, y.val r t = vb r t) :
    Floats i h d n (marksAB h a b) fun r t => g (modeOf h) h.ext.sat h.ext.ftz (va r t) (vb r t) :=
  alu_floats (f := fun l => g (modeOf h) h.ext.sat h.ext.ftz (op l 0) (op l 1)) hn hi fun r t => by
    rw [← hx, ← hy]; rfl

/-- The same for a form with an addend. -/
theorem fp_floats_three {i : Instr} {h : Hdr} {d a b : BitVec 7} {n : Nat} {x y z : Src} {va vb vc : Warp → Nat → Nat}
    {g : Rm → Bool → Bool → Nat → Nat → Nat → Nat × Nat} (hn : n = 1 ∨ n = 2)
    (hi : ∀ s, exec i s = s.fp h a.toNat b.toNat d.toNat n [x, y, z] fun m sat ftz l =>
      g m sat ftz (op l 0) (op l 1) (op l 2))
    (hx : ∀ r t, x.val r t = va r t) (hy : ∀ r t, y.val r t = vb r t) (hz : ∀ r t, z.val r t = vc r t) :
    Floats i h d n (marksAB h a b) fun r t => g (modeOf h) h.ext.sat h.ext.ftz (va r t) (vb r t) (vc r t) :=
  alu_floats (f := fun l => g (modeOf h) h.ext.sat h.ext.ftz (op l 0) (op l 1) (op l 2)) hn hi fun r t => by
    rw [← hx, ← hy, ← hz]; rfl

/-- A form of one FP operand completes. -/
theorem fp_floats_one {i : Instr} {h : Hdr} {d a : BitVec 7} {g : Rm → Bool → Nat → Nat × Nat}
    (hi : ∀ s, exec i s = s.fp h a.toNat 0 d.toNat 1 [r1 a] fun m _ ftz l => g m ftz (op l 0)) :
    Floats i h d 1 (marksA h a) fun r t => g (modeOf h) h.ext.ftz (fp1 r a t) :=
  alu_floats (f := fun l => g (modeOf h) h.ext.ftz (op l 0)) (.inl rfl) hi fun r t => by
    rw [← val_r1]; rfl

end Sys2Proof.Machine

open Sys2Proof Sys2Proof.Machine Sys2Proof.Claims

/-- Settles O5: each form applies its function to each thread's operands, which are registers, pairs or halves of registers. -/
theorem floatArithmeticCompletes : Obligations.FloatArithmeticCompletes := by
  unfold Obligations.FloatArithmeticCompletes
  intro h d a b m sat ftz
  have one : 1 = 1 ∨ 1 = 2 := .inl rfl
  have two : 2 = 1 ∨ 2 = 2 := .inr rfl
  have A := fun r t => val_r1 r a t
  have B := fun r t => val_r1 r b t
  have A2 := fun r t => val_r2 r a t
  have B2 := fun r t => val_r2 r b t
  have C := fun r t => val_ts h r t
  exact ⟨fp_floats_two one (fun s => by rw [exec_fadd, execFadd]) A B,
    fp_floats_two one (fun s => by rw [exec_fmul, execFmul]) A B,
    fp_floats_three one (fun s => by rw [exec_ffma, execFfma]) A B C,
    fp_floats_two two (fun s => by rw [exec_dadd, execDadd]) A2 B2,
    fp_floats_two two (fun s => by rw [exec_dmul, execDmul]) A2 B2,
    fp_floats_three two (fun s => by rw [exec_dfma, execDfma]) A2 B2 fun r t => val_tsPair h r t,
    fp_floats_two one (fun s => by rw [exec_fsclF32, execFsclF32]) A B,
    fp_floats_two two (fun s => by rw [exec_fsclF64, execFsclF64]) A2 B,
    fp_floats_two one (g := fun m sat ftz x y => halves fun i => fpAdd .fp16 m sat ftz (half x i) (half y i))
      (fun s => by rw [exec_hadd2, execHadd2]) A B,
    fp_floats_two one (g := fun m sat ftz x y => halves fun i => fpMul .fp16 m sat ftz (half x i) (half y i))
      (fun s => by rw [exec_hmul2, execHmul2]) A B,
    fp_floats_three one (g := fun m sat ftz x y z => halves fun i => fpFma .fp16 m sat ftz (half x i) (half y i) (half z i))
      (fun s => by rw [exec_hfma2, execHfma2]) A B C,
    fp_floats_three one (g := fun m sat ftz x y z => halves fun i => fpFma .bf16 m sat ftz (half x i) (half y i) (half z i))
      (fun s => by rw [exec_bfma2, execBfma2]) A B C⟩
end

section
/-! Codes of formats with infinities as operands: NaNs, and the order of the others (R33 to R35, R44). -/

namespace Sys2Proof.Machine

open Sys2Proof.Claims

section
variable {f : Fp} {ftz : Bool} {a b c : Nat}

/-- The formats that `.FTZ` flushes have infinities. -/
theorem infs_of_ftz_fp (hf : f ∈ [Fp.fp64, .fp32, .fp16, .bf16]) : f.infs = true := by
  revert hf; cases f <;> decide

/-- With infinities the codes above them are the NaNs. -/
theorem isNaN_iff (hf : f.infs = true) : isNaN f c = true ↔ f.largest + 1 < f.magBits c := by
  rw [largest_succ, if_pos hf, isNaN, decide_eq_true_eq]
  rfl

theorem isNan_decode (hf : f.infs = true) : (f.decode c).isNan = isNaN f c := by
  rw [Bool.eq_iff_iff, isNaN_iff hf]
  rcases le_or_gt (f.magBits c) f.largest with h | h
  · rw [decode_of_le h]
    exact iff_of_false (by simp [Fv.isNan]) (by omega)
  · rw [decode_of_gt h]
    split
    · next hi => exact iff_of_false (by simp [Fv.isNan]) (by omega)
    · next hi => exact iff_of_true rfl (by have : f.magBits c ≠ f.largest + 1 := fun he => hi ⟨hf, he⟩; omega)

/-- The first bit of a fraction tells whether it is below the half. -/
theorem frac_lt_half_iff : f.magBits c % 2 ^ f.f < 2 ^ (f.f - 1) ↔ c.testBit (f.f - 1) = false := by
  have hp : (2 : Nat) ^ f.f = 2 ^ (f.f - 1) * 2 := by rw [← pow_succ, Nat.sub_add_cancel (one_le_f f)]
  rw [Fp.magBits, Nat.mod_mod_of_dvd _ (pow_dvd_pow 2 (by omega)), Nat.testBit_eq_decide_div_mod_eq, decide_eq_false_iff_not,
    ← Nat.mod_mul_right_div_self, ← hp]
  have hlt : c % 2 ^ f.f < 2 ^ (f.f - 1) * 2 := hp ▸ Nat.mod_lt _ (by positivity)
  have hdiv : c % 2 ^ f.f / 2 ^ (f.f - 1) < 2 := Nat.div_lt_of_lt_mul hlt
  rw [← Nat.div_eq_zero_iff_lt (by positivity)]
  generalize c % 2 ^ f.f / 2 ^ (f.f - 1) = k at hdiv ⊢
  omega

theorem snan_decode (hf : f.infs = true) : (f.decode c).snan = isSig f c := by
  have hn := isNan_decode (c := c) hf
  rw [isSig, ← hn]
  rcases le_or_gt (f.magBits c) f.largest with h | h
  · rw [decode_of_le h]; rfl
  · rw [decode_of_gt h]
    split
    · rfl
    · simp only [Fv.snan, Fv.isNan, hf, true_and, Bool.true_and, frac_lt_half_iff]
      cases c.testBit (f.f - 1) <;> rfl

theorem isNan_ftzIn (v : Fv) : (ftzIn f ftz v).isNan = v.isNan := by
  cases v with
  | fin n k x => rw [ftzIn]; split <;> rfl
  | _ => rfl

theorem snan_ftzIn (v : Fv) : (ftzIn f ftz v).snan = v.snan := by
  cases v with
  | fin n k x => rw [ftzIn]; split <;> rfl
  | _ => rfl

theorem isNan_operand (hf : f.infs = true) : (operand f ftz c).isNan = isNaN f c := by
  rw [operand, isNan_ftzIn, isNan_decode hf]

theorem snan_operand (hf : f.infs = true) : (operand f ftz c).snan = isSig f c := by
  rw [operand, snan_ftzIn, snan_decode hf]

/-- The value of a signed magnitude. -/
def Fp.valueOf (f : Fp) (r : Int) : ℚ := (if r < 0 then -1 else 1) * f.mag r.natAbs

theorem valueOf_strictMono (f : Fp) : StrictMono f.valueOf := by
  have h0 : ∀ c, 0 ≤ f.mag c := fun c => by rw [Fp.mag]; positivity
  have hpos : ∀ c, 0 < c → 0 < f.mag c := fun c hc => by rw [← mag_zero f]; exact mag_strictMono f hc
  intro r s hrs
  rw [Fp.valueOf, Fp.valueOf]
  rcases lt_or_ge r 0 with hr | hr <;> rcases lt_or_ge s 0 with hs | hs
  · have := mag_strictMono f (show s.natAbs < r.natAbs by omega)
    simp only [hr, hs, if_true]; linarith
  · have := hpos r.natAbs (by omega)
    have := h0 s.natAbs
    simp only [hr, hs.not_gt, if_true, if_false]; linarith
  · omega
  · have := mag_strictMono f (show r.natAbs < s.natAbs by omega)
    simp only [hr.not_gt, hs.not_gt, if_false]; linarith

theorem magOf_eq (f : Fp) (ftz : Bool) (c : Nat) :
    magOf f ftz c = if ftz = true ∧ f.magBits c < 2 ^ f.f then 0 else f.magBits c :=
  if_congr (by simp [Fp.magBits]) rfl rfl

/-- An operand up to the largest value (R44). -/
theorem operand_of_le (hf : f ∈ [Fp.fp64, .fp32, .fp16, .bf16]) (h : f.magBits c ≤ f.largest) :
    operand f ftz c = .fin (signOf f c) (f.sig (magOf f ftz c)) (f.exp (f.magBits c)) := by
  rw [operand, decode_of_le h, ftzIn]
  simp only [Bool.and_eq_true, ftz_fp_iff, hf, and_true, decide_eq_true_eq, sig_lt_iff, magOf_eq]
  split
  · simp [Fp.sig]
  · rfl

/-- An operand that is no NaN: an infinity, above all values, or the value of its rank. -/
theorem operand_cases (hf : f ∈ [Fp.fp64, .fp32, .fp16, .bf16]) (h : isNaN f c = false) :
    (operand f ftz c = .inf (signOf f c) ∧ magOf f ftz c = f.largest + 1) ∨
      (finQ (operand f ftz c) = some (f.valueOf (rank f ftz c)) ∧ (operand f ftz c).neg = signOf f c ∧
        magOf f ftz c ≤ f.largest ∧ ((operand f ftz c).isZero = true ↔ magOf f ftz c = 0)) := by
  have hi := infs_of_ftz_fp hf
  have hbig := two_pow_le_largest f
  have hn := mt (isNaN_iff (c := c) hi).2 (by simp [h])
  rcases le_or_gt (f.magBits c) f.largest with hle | hgt
  · refine .inr ?_
    have hm : magOf f ftz c ≤ f.largest := by rw [magOf_eq]; split <;> omega
    have hmag : (f.sig (magOf f ftz c) : ℚ) * 2 ^ f.exp (f.magBits c) = f.mag (magOf f ftz c) := by
      rw [Fp.mag, magOf_eq]
      split
      · simp [Fp.sig]
      · rfl
    have hval : dyadic (signOf f c) (f.sig (magOf f ftz c)) (f.exp (f.magBits c)) = f.valueOf (rank f ftz c) := by
      rw [dyadic_eq, hmag, Fp.valueOf, rank]
      cases signOf f c with
      | false => simp
      | true =>
        rcases Nat.eq_zero_or_pos (magOf f ftz c) with h0 | h0
        · simp [h0, mag_zero]
        · simp [h0]
    rw [operand_of_le hf hle]
    refine ⟨congrArg some hval, rfl, hm, isZero_fin.trans ?_⟩
    rw [dyadic_eq, hmag, mul_eq_zero_iff_left (by split <;> simp), ← mag_zero f, (mag_strictMono f).injective.eq_iff]
  · have he : f.magBits c = f.largest + 1 := by omega
    refine .inl ⟨?_, ?_⟩
    · rw [operand, decode_of_gt hgt, if_pos ⟨hi, he⟩]; rfl
    · rw [magOf_eq, if_neg (by omega), he]

theorem neg_operand (hf : f ∈ [Fp.fp64, .fp32, .fp16, .bf16]) (h : isNaN f c = false) : (operand f ftz c).neg = signOf f c := by
  rcases operand_cases (ftz := ftz) hf h with ⟨hi, -⟩ | ⟨-, hn, -⟩
  · rw [hi]; rfl
  · exact hn

theorem isZero_operand_iff (hf : f ∈ [Fp.fp64, .fp32, .fp16, .bf16]) (h : isNaN f c = false) :
    (operand f ftz c).isZero = true ↔ magOf f ftz c = 0 := by
  rcases operand_cases (ftz := ftz) hf h with ⟨hi, hm⟩ | ⟨-, -, -, hz⟩
  · rw [hi, hm]; simp [Fv.isZero]
  · exact hz

theorem abs_rank (f : Fp) (ftz : Bool) (c : Nat) : (rank f ftz c).natAbs = magOf f ftz c ∧ (rank f ftz c < 0 → signOf f c = true) ∧
    (0 < rank f ftz c → signOf f c = false) := by
  rw [rank]; cases signOf f c <;> simp

/-- Operands that are no NaN are compared by rank (R118). -/
theorem fvLt_operand_iff (hf : f ∈ [Fp.fp64, .fp32, .fp16, .bf16]) (ha : isNaN f a = false) (hb : isNaN f b = false) :
    fvLt (operand f ftz a) (operand f ftz b) = true ↔ rank f ftz a < rank f ftz b := by
  rcases operand_cases (ftz := ftz) hf ha with ⟨ha, ha'⟩ | ⟨ha, -, ha', -⟩ <;>
    rcases operand_cases (ftz := ftz) hf hb with ⟨hb, hb'⟩ | ⟨hb, -, hb', -⟩
  · rw [ha, hb, rank, rank, ha', hb']
    cases signOf f a <;> cases signOf f b <;> simp [fvLt] <;> omega
  · obtain ⟨n, k, e, hk, -⟩ := finQ_eq_some.1 hb
    rw [ha, hk, rank, rank, ha']
    cases signOf f a <;> cases signOf f b <;> simp [fvLt] <;> omega
  · obtain ⟨n, k, e, hk, -⟩ := finQ_eq_some.1 ha
    rw [hb, hk, rank, rank, hb']
    cases signOf f a <;> cases signOf f b <;> simp [fvLt] <;> omega
  · rw [← (valueOf_strictMono f).lt_iff_lt]
    obtain ⟨n, k, e, hk, hv⟩ := finQ_eq_some.1 ha
    obtain ⟨n', k', e', hk', hv'⟩ := finQ_eq_some.1 hb
    rw [hk, hk', ← hv, ← hv']
    exact fvLt_fin

end

end Sys2Proof.Machine
end

section
/-! The floating-point compares (R118). -/

namespace Sys2Proof.Machine

open Sys2Proof.Claims

/-- A form that writes a predicate completes with its function's values and flags (R111, R118). -/
theorem cmp_compares {i : Instr} {h : Hdr} {d : BitVec 7} {a b : Nat} {srcs : List Src} {f : List Nat → Bool × Nat}
    {val : Warp → Nat → Bool × Nat} (hi : ∀ s, exec i s = s.cmp h a b d.toNat srcs f)
    (hv : ∀ r t, f (srcs.map (Src.val r t)) = val r t) : Compares i h d (markCodes h a b) val := by
  intro s c w I
  simp only [hi, ← hv]
  exact ⟨cmp_gives I d.isLt, cmp_traps I d.isLt⟩

theorem val_tsPred (h : Hdr) (r : Warp) (t : Nat) : ((tsPred h).val r t == 1) = thirdPred r h t := by
  have hb : ∀ p : Bool, (b2n p == 1) = p := by decide
  rw [tsPred, Src.val, hb, thirdPred, Hdr.ext]
  cases h.e0 <;> rfl

/-- What a condition of FCMP asks of the ranks of ordered operands. -/
def ordered (cond : Nat) (x y : Int) : Bool :=
  match cond with
  | 0 => x == y
  | 1 => x != y
  | 2 => decide (x < y)
  | 3 => decide (x ≤ y)
  | 4 => false
  | 5 => x != y
  | 6 => decide (x < y)
  | _ => decide (x ≤ y)

/-- The conditions by code: LT and LE raise IV on every NaN, and those from UN on hold where a NaN is. -/
theorem fpCond_eq_compare {f : Fp} (hf : f ∈ [Fp.fp64, .fp32, .fp16, .bf16]) (ftz : Bool) (a b : Nat) {cond : Nat} (hc : cond < 8) :
    fpCond cond f ftz a b = Claims.compare f ftz (cond == 2 || cond == 3) (decide (4 ≤ cond)) (ordered cond) a b := by
  have hi := infs_of_ftz_fp hf
  have hop : ∀ x, ftzIn f ftz (f.decode x) = operand f ftz x := fun _ => rfl
  have hun : ∀ x, (operand f ftz x).isNan = isNaN f x := fun x => isNan_operand hi
  have hsig : ∀ x, (operand f ftz x).snan = isSig f x := fun x => snan_operand hi
  simp only [fpCond, Claims.compare, hop, hun, hsig]
  by_cases h : (isNaN f a || isNaN f b) = true
  · rw [if_pos h, h]
    simp only [Bool.not_true, Bool.false_and, Bool.true_or, Bool.true_and, Bool.or_comm _ (cond == 2 || cond == 3), Bool.or_assoc]
    refine Prod.ext ?_ rfl
    interval_cases cond <;> rfl
  · obtain ⟨ha, hb⟩ := Bool.or_eq_false_iff.1 (Bool.not_eq_true _ ▸ h)
    have hlt : fvLt (operand f ftz a) (operand f ftz b) = decide (rank f ftz a < rank f ftz b) := by
      rw [Bool.eq_iff_iff, decide_eq_true_eq]; exact fvLt_operand_iff hf ha hb
    have hgt : fvLt (operand f ftz b) (operand f ftz a) = decide (rank f ftz b < rank f ftz a) := by
      rw [Bool.eq_iff_iff, decide_eq_true_eq]; exact fvLt_operand_iff hf hb ha
    have hs : isSig f a = false ∧ isSig f b = false := by simp [isSig, ha, hb]
    rw [if_neg h, hlt, hgt, ha, hb, hs.1, hs.2]
    refine Prod.ext ?_ rfl
    generalize rank f ftz a = x
    generalize rank f ftz b = y
    rw [Bool.eq_iff_iff]
    interval_cases cond <;> simp [ordered]
    omega

section
variable {i : Instr} {h : Hdr} {d a b : BitVec 7} {cond : Nat}

/-- A compare of two FP32 operands completes. -/
theorem fcmp_compares (hc : cond < 8) (hi : ∀ s, exec i s = s.cmp h a.toNat b.toNat d.toNat [r1 a, r1 b, tsPred h] fun l =>
      let r := fpCond cond .fp32 h.ext.ftz (op l 0) (op l 1)
      (r.1 && op l 2 == 1, r.2)) :
    Compares i h d (marksAB h a b) fun r t =>
      let x := Claims.compare .fp32 h.ext.ftz (cond == 2 || cond == 3) (decide (4 ≤ cond)) (ordered cond) (fp1 r a t) (fp1 r b t)
      (x.1 && thirdPred r h t, x.2) :=
  cmp_compares hi fun r t => by
    rw [← fpCond_eq_compare (by decide) _ _ _ hc, ← val_r1, ← val_r1, ← val_tsPred]; rfl

/-- A compare of two FP64 pairs completes. -/
theorem fcmp64_compares (hc : cond < 8) (hi : ∀ s, exec i s = s.cmp h a.toNat b.toNat d.toNat [r2 a, r2 b, tsPred h] fun l =>
      let r := fpCond cond .fp64 h.ext.ftz (op l 0) (op l 1)
      (r.1 && op l 2 == 1, r.2)) :
    Compares i h d (marksAB h a b) fun r t =>
      let x := Claims.compare .fp64 h.ext.ftz (cond == 2 || cond == 3) (decide (4 ≤ cond)) (ordered cond) (fp2 r a t) (fp2 r b t)
      (x.1 && thirdPred r h t, x.2) :=
  cmp_compares hi fun r t => by
    rw [← fpCond_eq_compare (by decide) _ _ _ hc, ← val_r2, ← val_r2, ← val_tsPred]; rfl

end

end Sys2Proof.Machine

open Sys2Proof Sys2Proof.Machine Sys2Proof.Claims

/-- Settles O9: the operands of each condition are unordered, or compared by rank. -/
theorem floatCompares : Obligations.FloatCompares := by
  unfold Obligations.FloatCompares
  intro h d a b
  exact ⟨fcmp_compares (cond := 0) (by decide) fun s => by rw [exec_fcmpEq, execFcmpEq],
    fcmp_compares (cond := 1) (by decide) fun s => by rw [exec_fcmpNe, execFcmpNe],
    fcmp_compares (cond := 2) (by decide) fun s => by rw [exec_fcmpLt, execFcmpLt],
    fcmp_compares (cond := 3) (by decide) fun s => by rw [exec_fcmpLe, execFcmpLe],
    fcmp_compares (cond := 4) (by decide) fun s => by rw [exec_fcmpUn, execFcmpUn],
    fcmp_compares (cond := 5) (by decide) fun s => by rw [exec_fcmpNeu, execFcmpNeu],
    fcmp_compares (cond := 6) (by decide) fun s => by rw [exec_fcmpLtu, execFcmpLtu],
    fcmp_compares (cond := 7) (by decide) fun s => by rw [exec_fcmpLeu, execFcmpLeu],
    fcmp64_compares (cond := 0) (by decide) fun s => by rw [exec_fcmpEqF64, execFcmpEqF64],
    fcmp64_compares (cond := 1) (by decide) fun s => by rw [exec_fcmpNeF64, execFcmpNeF64],
    fcmp64_compares (cond := 2) (by decide) fun s => by rw [exec_fcmpLtF64, execFcmpLtF64],
    fcmp64_compares (cond := 3) (by decide) fun s => by rw [exec_fcmpLeF64, execFcmpLeF64],
    fcmp64_compares (cond := 4) (by decide) fun s => by rw [exec_fcmpUnF64, execFcmpUnF64],
    fcmp64_compares (cond := 5) (by decide) fun s => by rw [exec_fcmpNeuF64, execFcmpNeuF64],
    fcmp64_compares (cond := 6) (by decide) fun s => by rw [exec_fcmpLtuF64, execFcmpLtuF64],
    fcmp64_compares (cond := 7) (by decide) fun s => by rw [exec_fcmpLeuF64, execFcmpLeuF64]⟩
end

section
/-! FMIN, FMAX, FCLASS and FRND (R115 to R117). -/

namespace Sys2Proof.Machine

open Sys2Proof.Claims

/-! Minimum and maximum. -/

/-- A code as it is read under `.FTZ`: the code that FMIN and FMAX give where they take it. -/
def flushed (ftz : Bool) (c : Nat) : Nat :=
  match Fp.fp32.decode c with
  | .fin n m _ => if ftz && m < 2 ^ 23 then Fp.fp32.signed n 0 else c
  | _ => c

theorem code_eq {c : Nat} (hc : c < 2 ^ 32) : c = Fp.fp32.signed (signOf .fp32 c) (Fp.fp32.magBits c) := by
  have hs : signOf .fp32 c = decide (c / 2 ^ 31 % 2 = 1) := Nat.testBit_eq_decide_div_mod_eq
  have hm : Fp.fp32.magBits c = c % 2 ^ 31 := rfl
  have he : Fp.fp32.e + Fp.fp32.f = 31 := rfl
  rw [Fp.signed, hs, hm, he, b2n]
  simp only [decide_eq_true_eq]
  split <;> omega

/-- It is the sign and the magnitude as read. -/
theorem flushed_eq (ftz : Bool) {c : Nat} (hc : c < 2 ^ 32) (hn : isNaN .fp32 c = false) :
    flushed ftz c = Fp.fp32.signed (signOf .fp32 c) (magOf .fp32 ftz c) := by
  have hbig := two_pow_le_largest .fp32
  rw [magOf_eq, flushed]
  rcases le_or_gt (Fp.fp32.magBits c) Fp.fp32.largest with h | h
  · have hsig : Fp.fp32.sig (Fp.fp32.magBits c) < 2 ^ 23 ↔ Fp.fp32.magBits c < 2 ^ Fp.fp32.f := sig_lt_iff
    simp only [decode_of_le h, Bool.and_eq_true, decide_eq_true_eq, hsig]
    split
    · rfl
    · exact code_eq hc
  · have hd : Fp.fp32.decode c = .inf (signOf .fp32 c) := by
      rcases operand_cases (ftz := false) (by decide) hn with ⟨ho, -⟩ | ⟨-, -, hle, -⟩
      · rw [operand] at ho
        cases hd : Fp.fp32.decode c <;> simp_all [ftzIn]
      · rw [magOf_eq, if_neg (by simp)] at hle
        omega
    simp only [hd]
    rw [if_neg (by omega)]
    exact code_eq hc

theorem magOf_lt (f : Fp) (ftz : Bool) (c : Nat) : magOf f ftz c < 2 ^ (f.e + f.f) := by
  have h : f.magBits c < 2 ^ (f.e + f.f) := Nat.mod_lt _ (by positivity)
  rw [magOf_eq]
  split
  · positivity
  · exact h

/-- Read once more it is the operand. -/
theorem decode_flushed (ftz : Bool) {c : Nat} (hc : c < 2 ^ 32) (hn : isNaN .fp32 c = false) :
    Fp.fp32.decode (flushed ftz c) = operand .fp32 ftz c := by
  have hlt := magOf_lt .fp32 ftz c
  have hs := signOf_signed .fp32 (signOf .fp32 c) hlt
  have hm := magBits_signed .fp32 (signOf .fp32 c) hlt
  rw [flushed_eq ftz hc hn]
  rcases le_or_gt (Fp.fp32.magBits c) Fp.fp32.largest with h | h
  · have hle : magOf .fp32 ftz c ≤ Fp.fp32.largest := by rw [magOf_eq]; split <;> omega
    rw [operand_of_le (by decide) h, decode_of_le (by rw [hm]; exact hle), hs, hm]
    have he : Fp.fp32.exp (magOf .fp32 ftz c) = Fp.fp32.exp (Fp.fp32.magBits c) := by
      rw [magOf_eq]
      split
      · next hz => rw [Fp.exp, Fp.exp, Nat.div_eq_of_lt hz.2]; rfl
      · rfl
    rw [he]
  · have hbig := two_pow_le_largest .fp32
    rcases operand_cases (ftz := ftz) (by decide) hn with ⟨ho, hmo⟩ | ⟨-, -, hle, -⟩
    · rw [ho, decode_of_gt (by rw [hm]; omega), hm, hs, if_pos ⟨rfl, hmo⟩]
    · rw [magOf_eq, if_neg (by omega)] at hle
      omega

/-- The order of FMIN and FMAX, with -0 below +0 (R115). -/
theorem fvLess_operand_iff (ftz : Bool) {a b : Nat} (ha : isNaN .fp32 a = false) (hb : isNaN .fp32 b = false) :
    fvLess (operand .fp32 ftz a) (operand .fp32 ftz b) = true ↔ rankZ .fp32 ftz a < rankZ .fp32 ftz b := by
  have hf : Fp.fp32 ∈ [Fp.fp64, .fp32, .fp16, .bf16] := by decide
  simp only [fvLess, Bool.or_eq_true, Bool.and_eq_true, Bool.not_eq_true', fvLt_operand_iff hf ha hb,
    isZero_operand_iff hf ha, isZero_operand_iff hf hb, neg_operand hf ha, neg_operand hf hb, rank, rankZ]
  cases signOf .fp32 a <;> cases signOf .fp32 b <;> simp <;> omega

/-- FMIN and FMAX of two codes: the flag is that of a signalling NaN; a NaN gives way to the other operand. -/
theorem fpMinMax_eq (mx ftz : Bool) {a b : Nat} (ha : a < 2 ^ 32) (hb : b < 2 ^ 32) :
    fpMinMax mx ftz a b = minMax ftz (fun x y => if mx then decide (y ≤ x) else decide (x ≤ y)) a b := by
  have hi : Fp.fp32.infs = true := rfl
  have hout : ∀ c, c < 2 ^ 32 → isNaN .fp32 c = false →
      flushed ftz c = (if signOf .fp32 c then 2 ^ 31 else 0) + magOf .fp32 ftz c := fun c hc hn => by
    rw [flushed_eq ftz hc hn, Fp.signed]
    cases signOf .fp32 c <;> rfl
  have hm : fpMinMax mx ftz a b = (
      let fl := if isSig .fp32 a || isSig .fp32 b then 1 else 0
      if isNaN .fp32 a && isNaN .fp32 b then (0x7FC00000, fl)
      else if isNaN .fp32 a then (flushed ftz b, fl)
      else if isNaN .fp32 b then (flushed ftz a, fl)
      else (if (if mx then fvLess (Fp.fp32.decode (flushed ftz a)) (Fp.fp32.decode (flushed ftz b))
        else fvLess (Fp.fp32.decode (flushed ftz b)) (Fp.fp32.decode (flushed ftz a))) then flushed ftz b else flushed ftz a, fl)) := by
    simp only [← isNan_decode hi, ← snan_decode hi]
    rfl
  rw [hm, minMax]
  cases hna : isNaN .fp32 a <;> cases hnb : isNaN .fp32 b
  · have hab := fvLess_operand_iff ftz hna hnb
    have hba := fvLess_operand_iff ftz hnb hna
    rw [decode_flushed ftz ha hna, decode_flushed ftz hb hnb, hout a ha hna, hout b hb hnb]
    cases mx with
    | false => simp only [Bool.false_and, Bool.false_eq_true, if_false, hba, decide_eq_true_eq, ← not_lt, ite_not]
    | true => simp only [Bool.false_and, Bool.false_eq_true, if_false, if_true, hab, decide_eq_true_eq, ← not_lt, ite_not]
  · simp [hout a ha hna]
  · simp [hout b hb hnb]
  · simp

/-! Classes. -/

/-- An FP32 code by its fields (R33, R34). -/
theorem decode_fp32 (a : Word) :
    Fp.fp32.decode a.toNat =
      let e : Nat := a.toNat / 2 ^ 23 % 256
      let t : Nat := a.toNat % 2 ^ 23
      if e = 255 then (if t = 0 then .inf a.msb else .nan (t < 2 ^ 22))
      else if e = 0 then .fin a.msb t (-149) else .fin a.msb (2 ^ 23 + t) ((e : Int) - 150) := by
  have hmod : a.toNat % 2 ^ Fp.fp32.width = a.toNat := Nat.mod_eq_of_lt a.isLt
  have hbit : bit a.toNat 31 = a.msb := by
    have := a.isLt
    rw [bit, BitVec.msb_eq_decide, decide_eq_decide]; omega
  have hexp : ∀ e : Int, e - 127 - 23 = e - 150 := fun e => by omega
  simp only [Fp.decode, hmod]
  simp [Fp.infs, Fp.e, Fp.f, Fp.bias, fld, hbit, hexp]
  rfl

theorem fpClass_eq (a : Word) : fpClass a.toNat = classMask a := by
  have ht : a.toNat % 2 ^ 23 < 2 ^ 23 := Nat.mod_lt _ (by positivity)
  rw [fpClass, decode_fp32, classMask]
  generalize a.toNat / 2 ^ 23 % 256 = e
  generalize a.toNat % 2 ^ 23 = t at ht ⊢
  by_cases he : e = 255
  · by_cases h0 : t = 0
    · simp [he, h0]
    · simp [he, h0]
  · by_cases h0 : e = 0
    · have h1 : t < 8388608 := ht
      simp [h0, h1]
    · have h1 : ¬ (2 ^ 23 + t < 2 ^ 23) := by omega
      have h2 : ¬ (2 ^ 23 + t = 0) := by omega
      simp only [he, h0, if_false, h1, h2]

/-! Rounding to an integer. -/

theorem roundQ_intCast (m : Rm) (i : Int) : roundQ m i = i := by
  rcases roundQ_floor_or_ceil m i with h | h <;> rw [h] <;> simp

/-- A whole number of powers of two that are not below 1 is an integer. -/
theorem dyadic_nat (n : Bool) (k d : Nat) : dyadic n k d = (((if n then -1 else 1) * (k * 2 ^ d) : Int) : ℚ) := by
  rw [dyadic_eq]; push_cast; simp

/-- A significand and a power of two of the format lie on their own grid. -/
theorem onGrid_of_sig {f : Fp} (m : Rm) (n : Bool) {k : Nat} (hk : k < 2 ^ (f.f + 1)) {x : Int} (hx : 1 - (f.bias : Int) - f.f ≤ x) :
    onGrid f m (dyadic n k x) = dyadic n k x := by
  rcases Nat.eq_zero_or_pos k with rfl | h0
  · rw [dyadic_eq_zero.2 rfl, onGrid]
    cases m <;> simp [roundQ]
  have hlog : Nat.log2 k < f.f + 1 := (Nat.log2_lt h0.ne').2 hk
  have hg : gridExp f (dyadic n k x) ≤ x := by rw [gridExp, log_dyadic n h0.ne']; omega
  obtain ⟨d, hd⟩ := Int.eq_ofNat_of_zero_le (sub_nonneg.2 hg)
  have hi : dyadic n k x / 2 ^ gridExp f (dyadic n k x) = dyadic n k d := by
    rw [← hd, dyadic, dyadic, mul_div_assoc, ← zpow_sub₀ two_ne_zero]
  rw [onGrid_eq_self_iff, hi, dyadic_nat, roundQ_intCast]

/-- A value of the grid that is not too large is given as it is, with no flag. -/
theorem roundTo_exact {f : Fp} {m : Rm} {e : Ex} {v : ℚ} (he : StandsFor f e v) (hg : onGrid f m v = v) (ht : |v| ≤ topQ f) :
    Codes f (decide (v < 0)) v (roundTo f m false false e).1 ∧ (roundTo f m false false e).2 = 0 := by
  have h := roundTo_isRound f m false false he
  simp only [IsRound, hg, ht.not_gt, if_false, if_true, Bool.false_eq_true, ite_self] at h
  exact h

theorem topQ_fp32 : topQ .fp32 = (2 ^ 24 - 1) * 2 ^ (104 : Int) := by
  rw [topQ_eq, Fp.mag, show Fp.fp32.sig Fp.fp32.largest = 2 ^ 24 - 1 from rfl, show Fp.fp32.exp Fp.fp32.largest = 104 from rfl]
  norm_num

theorem operand_nan {f : Fp} {ftz : Bool} {c : Nat} (hf : f.infs = true) (h : isNaN f c = true) :
    operand f ftz c = .nan (isSig f c) := by
  rw [← isNan_operand (ftz := ftz) hf] at h
  rw [← snan_operand (ftz := ftz) hf]
  cases ho : operand f ftz c <;> simp_all [Fv.isNan, Fv.snan]

/-- A finite operand has its code's sign, and is 0 or the value of its code. -/
theorem operand_fin {ftz : Bool} {a : Word} {n : Bool} {k : Nat} {x : Int} (h : operand .fp32 ftz a.toNat = .fin n k x) :
    n = a.msb ∧ (k = 0 ∨ Fp.fp32.decode a.toNat = .fin n k x) ∧ k < 2 ^ 24 ∧ -149 ≤ x ∧ x ≤ 104 := by
  have ht : a.toNat % 2 ^ 23 < 2 ^ 23 := Nat.mod_lt _ (by positivity)
  rw [operand, decode_fp32] at h
  rw [decode_fp32]
  simp only at h ⊢
  split at h
  · split at h <;> cases h
  · split at h
    · next he he0 =>
      rw [ftzIn] at h
      split at h <;> cases h
      · exact ⟨rfl, .inl rfl, by omega, by omega, by omega⟩
      · rw [if_neg he, if_pos he0]
        exact ⟨rfl, .inr rfl, by omega, by omega, by omega⟩
    · next he he0 =>
      rw [ftzIn, if_neg (by simp [Fp.f])] at h
      cases h
      rw [if_neg he, if_neg he0]
      exact ⟨rfl, .inr rfl, by omega, by omega, by omega⟩

/-- An integer at the sign of the operand. -/
theorem roundInt_signed (m : Rm) (n : Bool) (k : Nat) (x : Int) :
    ((roundInt m n k x).1 : ℚ) = (if n then -1 else 1) * ((roundInt m n k x).1.natAbs : ℚ) := by
  rw [roundInt]
  have key : ∀ v : Nat, ((if n then -(v : Int) else v : Int) : ℚ) =
      (if n then -1 else 1) * ((if n then -(v : Int) else v : Int).natAbs : ℚ) := fun v => by cases n <;> simp
  split
  · exact_mod_cast key (k * 2 ^ x.toNat)
  · exact_mod_cast key (k / 2 ^ (-x).toNat + b2n (roundUp m n (k / 2 ^ (-x).toNat) (k % 2 ^ (-x).toNat) (-x).toNat))

/-- FRND of a finite operand (R116). -/
theorem fpRound_fin (m : Rm) (ftz : Bool) {a : Word} {x : ℚ} (hx : finQ (operand .fp32 ftz a.toNat) = some x) :
    finQ (Fp.fp32.decode (fpRound m ftz a.toNat).1) = some ((roundQ m x : Int) : ℚ) ∧
      (fpRound m ftz a.toNat).1.testBit 31 = a.msb ∧ (fpRound m ftz a.toNat).2 = 0 := by
  obtain ⟨n, k, e, ho, rfl⟩ := finQ_eq_some.1 hx
  obtain ⟨hn, hdec, hk, he, he'⟩ := operand_fin ho
  have hv := (roundInt_eq m n k e).1
  have hsign := roundInt_signed m n k e
  rw [hv] at hsign
  have hr : fpRound m ftz a.toNat = if roundQ m (dyadic n k e) = 0 then (Fp.fp32.signed n 0, 0)
      else ((roundTo .fp32 .rn false false (.num n (roundQ m (dyadic n k e)).natAbs 0 false)).1, 0) := by
    rw [← hv, fpRound, show ftzIn .fp32 ftz (Fp.fp32.decode a.toNat) = _ from ho]
  rw [hr]
  by_cases h0 : roundQ m (dyadic n k e) = 0
  · have hz := codes_zero .fp32 n
    rw [if_pos h0, h0, ← hn]
    exact ⟨hz.1, by cases n <;> rfl, rfl⟩
  rw [if_neg h0]
  -- the integer is a value of the format: below 2^23, or the operand itself
  generalize hV : roundQ m (dyadic n k e) = V at *
  have hd : (V : ℚ) = dyadic n V.natAbs 0 := by rw [hsign, dyadic_eq, zpow_zero, mul_one]
  have hgrid : onGrid .fp32 .rn V = V ∧ |(V : ℚ)| ≤ topQ .fp32 := by
    rcases lt_or_ge e 0 with hneg | hpos
    · have hle : |V| ≤ (2 ^ 23 : Nat) := hV ▸ (abs_roundQ m (dyadic n k e) (2 ^ 23)).1 (by
        rw [abs_dyadic]
        calc (k : ℚ) * 2 ^ e ≤ 2 ^ 24 * 2 ^ (-1 : Int) := by
              gcongr
              · exact_mod_cast hk.le
              · norm_num
              · omega
          _ = (2 ^ 23 : Nat) := by norm_num)
      have hnat : V.natAbs ≤ 2 ^ 23 := by zify; exact hle
      rw [topQ_fp32, hd]
      refine ⟨onGrid_of_sig .rn n (hnat.trans_lt (by decide)) (by decide), ?_⟩
      rw [← hd]
      have : |(V : ℚ)| ≤ 2 ^ 23 := by exact_mod_cast hle
      exact this.trans (by norm_num)
    · have hself : (V : ℚ) = dyadic n k e := by
        obtain ⟨d, rfl⟩ := Int.eq_ofNat_of_zero_le hpos
        rw [← hV, dyadic_nat, roundQ_intCast]
      have hk0 : k ≠ 0 := fun h => h0 (by rw [dyadic_eq_zero.2 h] at hself; exact_mod_cast hself)
      have hc : finQ (Fp.fp32.decode a.toNat) = some (V : ℚ) := by rw [hdec.resolve_left hk0, hself]; rfl
      exact ⟨onGrid_of_value .rn (by exact_mod_cast h0) hc, abs_value_le_topQ hc⟩
  obtain ⟨⟨hq, -, hs⟩, -⟩ := roundTo_exact (e := .num n V.natAbs 0 false) ⟨by omega, hd⟩ hgrid.1 hgrid.2
  refine ⟨hq, ?_, rfl⟩
  have hneg : decide ((V : ℚ) < 0) = n := by
    rw [hd, Bool.eq_iff_iff, decide_eq_true_eq]; exact dyadic_neg_iff (by omega)
  rw [show (Fp.fp32 == .e2m1) = false from rfl, Bool.false_and, Bool.not_false, Bool.and_true, hneg] at hs
  exact hs.trans hn

/-- FRND of an infinity. -/
theorem fpRound_inf (m : Rm) (ftz : Bool) {a : Word} (h : (operand .fp32 ftz a.toNat).isInf = true) :
    fpRound m ftz a.toNat = (a.toNat, 0) := by
  have hn : isNaN .fp32 a.toNat = false := by
    rw [← isNan_operand (ftz := ftz) rfl, isInf_eq h]; rfl
  rcases operand_cases (ftz := ftz) (by decide) hn with ⟨ho, hm⟩ | ⟨hq, -⟩
  · rw [fpRound, show ftzIn .fp32 ftz (Fp.fp32.decode a.toNat) = _ from ho]
    have hmag : Fp.fp32.magBits a.toNat = Fp.fp32.largest + 1 := by
      rw [magOf_eq] at hm
      split at hm <;> omega
    conv_rhs => rw [code_eq a.isLt, hmag]
    rfl
  · rw [isInf_eq h] at hq; cases hq

theorem fpRound_nan (m : Rm) (ftz : Bool) {a : Word} (h : (operand .fp32 ftz a.toNat).isNan = true) :
    fpRound m ftz a.toNat = (0x7FC00000, if isSig .fp32 a.toNat then 1 else 0) := by
  rw [isNan_operand rfl] at h
  rw [fpRound, show ftzIn .fp32 ftz (Fp.fp32.decode a.toNat) = _ from operand_nan rfl h]
  rfl

end Sys2Proof.Machine

open Sys2Proof Sys2Proof.Machine Sys2Proof.Claims

/-- Settles O8: minimum and maximum choose by the order of codes; an integer that FRND gives is a value of FP32. -/
theorem floatMinMaxClassRound : Obligations.FloatMinMaxClassRound := by
  unfold Obligations.FloatMinMaxClassRound
  refine ⟨fun h d a b => ⟨?_, ?_, ?_, fp_floats_one fun s => by rw [exec_frnd, execFrnd]⟩,
    fun m ftz a => ⟨fun x => fpRound_fin m ftz, fpRound_inf m ftz, fpRound_nan m ftz⟩⟩
  · refine alu_floats (f := fun l => fpMinMax false h.ext.ftz (op l 0) (op l 1)) (.inl rfl)
      (fun s => by rw [exec_fmin, execFmin]; rfl) fun r t => ?_
    rw [← val_r1, ← val_r1]
    exact fpMinMax_eq false h.ext.ftz (reg r a t).isLt (reg r b t).isLt
  · refine alu_floats (f := fun l => fpMinMax true h.ext.ftz (op l 0) (op l 1)) (.inl rfl)
      (fun s => by rw [exec_fmax, execFmax]; rfl) fun r t => ?_
    rw [← val_r1, ← val_r1]
    exact fpMinMax_eq true h.ext.ftz (reg r a t).isLt (reg r b t).isLt
  · refine alu0_computes (f := fun l => fpClass (op l 0)) (.inl rfl) (fun s => by rw [exec_fclass, execFclass]) fun r t => ?_
    rw [← fpClass_eq]
    exact congrArg fpClass (val_r1 r a t)
end

section
/-! Special operands of the root and transcendental forms (R120). -/

namespace Sys2Proof.Machine

open Sys2Proof.Claims

/-- What a form gives for -∞, -0, +0 and +∞, and for every NaN. -/
theorem special_row {g : Nat → Nat × Nat} {l : List (Nat × Nat)} (hl : [0xFF800000, 0x80000000, 0, 0x7F800000].map g = l) (ftz : Bool)
    (hg : ∀ (a : Nat) (sig : Bool), operand .fp32 ftz a = .nan sig → g a = (0x7FC00000, if sig then 1 else 0)) :
    [0xFF800000, 0x80000000, 0, 0x7F800000].map g = l ∧
      ∀ a : Word, isNaN .fp32 a.toNat → g a.toNat = (0x7FC00000, if isSig .fp32 a.toNat then 1 else 0) :=
  ⟨hl, fun a h => hg a.toNat _ (operand_nan rfl h)⟩

section
variable {ftz : Bool} {a : Nat}

/-- A NaN gives the canonical NaN, with IV when it is signalling, in each form. -/
theorem roots_nan (m : Rm) {sig : Bool} (h : operand .fp32 ftz a = .nan sig) :
    let r := (0x7FC00000, if sig then 1 else 0)
    fpRcp ftz a = r ∧ fpRsq ftz a = r ∧ fpSqrt m ftz a = r ∧ fpExp2 ftz a = r ∧ fpLog2 ftz a = r ∧
      ∀ cos, fpTrig cos ftz a = r := by
  rw [operand] at h
  simp only [fpRcp, fpRsq, fpSqrt, fpExp2, fpLog2, fpTrig, h]
  exact ⟨rfl, rfl, rfl, rfl, rfl, fun _ => rfl⟩

/-- A negative value has no root and no logarithm. -/
theorem roots_negative (m : Rm) {x : ℚ} (h : finQ (operand .fp32 ftz a) = some x) (hx : x < 0) :
    fpRsq ftz a = (0x7FC00000, 1) ∧ fpSqrt m ftz a = (0x7FC00000, 1) ∧ fpLog2 ftz a = (0x7FC00000, 1) := by
  obtain ⟨n, k, e, ho, rfl⟩ := finQ_eq_some.1 h
  have hk : k ≠ 0 := fun h0 => by rw [dyadic_eq_zero.2 h0] at hx; exact lt_irrefl _ hx
  obtain rfl : n = true := (dyadic_neg_iff hk).1 hx
  rw [operand] at ho
  simp only [fpRsq, fpSqrt, fpLog2, ho, hk, if_false, if_true]
  exact ⟨rfl, rfl, rfl⟩

end

end Sys2Proof.Machine

open Sys2Proof Sys2Proof.Machine Sys2Proof.Claims

/-- Settles O10: each form reads its operand's kind first. -/
theorem rootsAndTranscendentals : Obligations.RootsAndTranscendentals := by
  unfold Obligations.RootsAndTranscendentals
  refine ⟨fun h d a b => ⟨?_, ?_, ?_, ?_, ?_, ?_, ?_⟩, fun z m => ?_⟩
  · exact fp_floats_one (g := fun _ z x => fpRcp z x) fun s => by rw [exec_frcp, execFrcp]
  · exact fp_floats_one (g := fun _ z x => fpRsq z x) fun s => by rw [exec_frsq, execFrsq]
  · exact fp_floats_one (g := fun m z x => fpSqrt m z x) fun s => by rw [exec_fsqrt, execFsqrt]
  · exact fp_floats_one (g := fun _ z x => fpExp2 z x) fun s => by rw [exec_fexp2, execFexp2]
  · exact fp_floats_one (g := fun _ z x => fpLog2 z x) fun s => by rw [exec_flog2, execFlog2]
  · exact fp_floats_one (g := fun _ z x => fpTrig false z x) fun s => by rw [exec_fsin, execFsin]
  · exact fp_floats_one (g := fun _ z x => fpTrig true z x) fun s => by rw [exec_fcos, execFcos]
  · intro n row
    refine ⟨special_row ?_ z fun a sig h => (roots_nan m h).1, special_row ?_ z fun a sig h => (roots_nan m h).2.1,
      special_row ?_ z fun a sig h => (roots_nan m h).2.2.1, special_row ?_ z fun a sig h => (roots_nan m h).2.2.2.1,
      special_row ?_ z fun a sig h => (roots_nan m h).2.2.2.2.1, special_row ?_ z fun a sig h => (roots_nan m h).2.2.2.2.2 false,
      special_row ?_ z fun a sig h => (roots_nan m h).2.2.2.2.2 true,
      fun a _ ⟨x, hq, hx⟩ => roots_negative m hq hx⟩
    all_goals cases z <;> rfl
end

section
/-! Roots and reciprocals: exact values, and values known between two neighbours of a fine grid (R119). -/

namespace Sys2Proof.Machine

open Sys2Proof.Claims

/-! Exact results with a sticky bit. -/

/-- A value between two multiples of a power of two, of more bits than the format has. -/
theorem standsFor_sticky {f : Fp} {n : Bool} {q : Nat} {x : Int} {v : ℚ} (hq : 2 ^ (f.f + 1) ≤ q) (hn : n = decide (v < 0))
    (hlo : q * 2 ^ x < |v|) (hhi : |v| < (q + 1) * 2 ^ x) : StandsFor f (.num n q x true) v := by
  refine ⟨hn, hlo, hhi, ?_⟩
  have h0 : 0 < 2 ^ (f.f + 1) := by positivity
  have hlog : f.f + 1 ≤ Nat.log2 q := (Nat.le_log2 (by omega)).2 hq
  rw [gridExp, log_of_between (by omega) hlo.le hhi]
  omega

/-- It is not on the grid, and so no value of the format. -/
theorem onGrid_ne_of_sticky {f : Fp} {n : Bool} {q : Nat} {x : Int} {v : ℚ} (h : StandsFor f (.num n q x true) v) (m : Rm) :
    onGrid f m v ≠ v := by
  obtain ⟨hn, hlo, hhi, hx⟩ := h
  obtain ⟨j, hj⟩ := half_steps_between (k := q) hx n
  have hb := hj v (by rw [hn, decide_eq_true_eq]) ⟨hlo, hhi⟩
  exact (onGrid_between rfl hb hb).2.1

theorem not_value_of_sticky {f : Fp} {n : Bool} {q : Nat} {x : Int} {v : ℚ} (h : StandsFor f (.num n q x true) v) (hv : v ≠ 0) (c : Nat) :
    finQ (f.decode c) ≠ some v := fun hc => onGrid_ne_of_sticky h .rn (onGrid_of_value .rn hv hc)

/-! One of the two neighbours of a value. -/

theorem overflowOf_rn (n : Bool) : overflowOf .fp32 .rn false n = Fp.fp32.inf n := by cases n <;> rfl

/-- To nearest, only what lies above the largest value overflows. -/
theorem topQ_lt_of_overflow {v : ℚ} (hv : v ≠ 0) (h : topQ .fp32 < |onGrid .fp32 .rn v|) : topQ .fp32 < |v| := by
  by_contra hc
  have hval : ∀ n, finQ (Fp.fp32.decode (Fp.fp32.signed n Fp.fp32.largest)) = some ((if n then -1 else 1) * topQ .fp32) := fun n =>
    topQ_eq .fp32 ▸ (codes_signed le_rfl (by simp)).1
  have hnear := fun n => ((onGrid_neighbour .fp32 .rn hv).2.2.2.2 rfl _ _ (hval n)).1
  obtain ⟨h1, h2⟩ := abs_le.1 (not_lt.1 hc)
  have hpos := hnear false
  have hneg := hnear true
  simp only [Bool.false_eq_true, if_false, if_true, one_mul, neg_one_mul] at hpos hneg
  rw [abs_of_nonneg (by linarith : 0 ≤ topQ .fp32 - v)] at hpos
  rw [abs_of_nonpos (by linarith : -topQ .fp32 - v ≤ 0)] at hneg
  rcases lt_abs.1 h with h | h
  · linarith [(abs_le.1 hpos).2]
  · linarith [(abs_le.1 hneg).1]

/-- `bracketed` gives a neighbour of the value among the format's values, or the infinity where the value overflows; the flags are
those of RN (R119). -/
theorem bracketed_spec (fn : Nat) (a : Word) {n : Bool} {m : Nat} {x : Int} {st : Bool} {v : ℚ} (hv : v ≠ 0)
    (he : StandsFor .fp32 (.num n m x st) v) (hn : n = decide (v < 0)) :
    let r := bracketed fn a false n m x st
    (topQ .fp32 < |v| ∧ r = (Fp.fp32.inf n, 20)) ∨
      ∃ y, finQ (Fp.fp32.decode r.1) = some y ∧ (∀ c z, finQ (Fp.fp32.decode c) = some z → ¬(min y v < z ∧ z < max y v)) ∧
        ((∃ c, finQ (Fp.fp32.decode c) = some v) → y = v) ∧ (r.2.testBit 4 = true ↔ y ≠ v) ∧ r.2.testBit 2 = false := by
  intro r
  have hround := fun mode => roundTo_isRound .fp32 mode false false he
  have hr : r = if settled false (roundTo .fp32 .rn false false (.num n m x st)) then _ else _ := rfl
  have hnb := fun mode => (onGrid_neighbour .fp32 mode hv).1
  have hself := fun mode (h : ∃ c, finQ (Fp.fp32.decode c) = some v) => onGrid_of_value mode hv h.choose_spec
  rcases isRound_plain (hround .rn) with ⟨hfl, htop⟩ | ⟨-, hcode, hfl⟩
  · -- RN overflows
    refine .inl ⟨topQ_lt_of_overflow hv htop, ?_⟩
    have h := hround .rn
    rw [IsRound, if_pos htop, overflowOf_rn, ← hn] at h
    rw [hr, if_pos (by rw [settled, hfl]; rfl), h]
  · refine .inr ?_
    by_cases hg : onGrid .fp32 .rn v = v
    · -- exact
      rw [if_pos hg] at hfl
      rw [hr, if_pos (by rw [settled, hfl]; rfl)]
      exact ⟨_, hcode, hnb .rn, hself .rn, by rw [hfl]; simp [hg], by rw [hfl]; rfl⟩
    · rw [if_neg hg] at hfl
      have hno : ¬∃ c, finQ (Fp.fp32.decode c) = some v := fun h => hg (hself .rn h)
      have hfl' : settled false (roundTo .fp32 .rn false false (.num n m x st)) = false ∧
          (roundTo .fp32 .rn false false (.num n m x st)).2.testBit 4 = true ∧
          (roundTo .fp32 .rn false false (.num n m x st)).2.testBit 2 = false := by
        rw [settled, hfl]
        split <;> decide
      have hfin : ∀ y c, finQ (Fp.fp32.decode c) = some y →
          ((roundTo .fp32 .rn false false (.num n m x st)).2.testBit 4 = true ↔ y ≠ v) := fun y c hc =>
        iff_of_true hfl'.2.1 fun h => hno ⟨c, h ▸ hc⟩
      rw [hr, if_neg (by rw [hfl'.1]; decide)]
      generalize (if Config.bracketUp fn a then if n then Rm.rd else Rm.ru else .rz) = mode
      split
      · exact ⟨_, hcode, hnb .rn, fun h => absurd h hno, hfin _ _ hcode, hfl'.2.2⟩
      · next hof =>
        rcases isRound_plain (hround mode) with ⟨hfl2, -⟩ | ⟨-, hcode2, -⟩
        · rw [hfl2] at hof; exact absurd rfl hof
        · exact ⟨_, hcode2, hnb mode, fun h => absurd h hno, hfin _ _ hcode2, hfl'.2.2⟩

/-! Reciprocals. -/

theorem decode_fin {a : Word} {x : ℚ} (h : finQ (Fp.fp32.decode a.toNat) = some x) :
    ∃ n k e, Fp.fp32.decode a.toNat = .fin n k e ∧ dyadic n k e = x ∧ n = a.msb ∧ k < 2 ^ 24 ∧ -149 ≤ e ∧ e ≤ 104 := by
  obtain ⟨n, k, e, hd, hx⟩ := finQ_eq_some.1 h
  have ho : operand .fp32 false a.toNat = .fin n k e := by rw [operand, hd]; simp [ftzIn]
  obtain ⟨hn, -, hk, he, he'⟩ := operand_fin ho
  exact ⟨n, k, e, hd, hx, hn, hk, he, he'⟩

theorem ftzIn_false (f : Fp) (n : Bool) (k : Nat) (x : Int) : ftzIn f false (.fin n k x) = .fin n k x := by simp [ftzIn]

/-- The quotient of 2^64 by the significand stands for the reciprocal. -/
theorem standsFor_inv (n : Bool) {k : Nat} (hk : k < 2 ^ 24) (hk0 : k ≠ 0) (x : Int) :
    StandsFor .fp32 (.num n (2 ^ 64 / k) (-64 - x) (2 ^ 64 % k != 0)) (dyadic n k x)⁻¹ := by
  have hkq : (0 : ℚ) < k := by positivity
  have hinv : |(dyadic n k x)⁻¹| = 2 ^ 64 / k * 2 ^ (-64 - x) := by
    rw [abs_inv, abs_dyadic, zpow_sub₀ two_ne_zero]
    norm_num
    field_simp
  have hq : 2 ^ 40 ≤ 2 ^ 64 / k := (Nat.le_div_iff_mul_le (by omega)).2 (by omega)
  have hdm : (2 : ℚ) ^ 64 = k * (2 ^ 64 / k : Nat) + (2 ^ 64 % k : Nat) := by exact_mod_cast (Nat.div_add_mod (2 ^ 64) k).symm
  have hmod : ((2 ^ 64 % k : Nat) : ℚ) < k := by exact_mod_cast Nat.mod_lt _ (by omega)
  have hp : (0 : ℚ) < 2 ^ (-64 - x) := by positivity
  have hneg : (dyadic n k x)⁻¹ < 0 ↔ n = true := inv_lt_zero.trans (dyadic_neg_iff hk0)
  by_cases h0 : 2 ^ 64 % k = 0
  · rw [h0, show (0 != 0) = false from rfl]
    refine ⟨by omega, ?_⟩
    have hval : |(dyadic n k x)⁻¹| = (2 ^ 64 / k : Nat) * 2 ^ (-64 - x) := by
      rw [hinv, hdm, h0]
      push_cast
      field_simp
      ring
    rw [dyadic_eq n (2 ^ 64 / k), ← hval]
    cases n with
    | false => simp [abs_of_nonneg (not_lt.1 (mt hneg.1 (by simp)))]
    | true => simp [abs_of_neg (hneg.2 rfl)]
  · rw [show (2 ^ 64 % k != 0) = true from bne_iff_ne.2 h0]
    have hmod0 : (0 : ℚ) < (2 ^ 64 % k : Nat) := by exact_mod_cast Nat.pos_of_ne_zero h0
    refine standsFor_sticky (le_trans (by decide) hq) (by rw [Bool.eq_iff_iff, decide_eq_true_eq, hneg]) ?_ ?_
    · rw [hinv, mul_lt_mul_iff_of_pos_right hp, lt_div_iff₀ hkq, hdm, mul_comm]
      exact lt_add_of_pos_right _ hmod0
    · rw [hinv, mul_lt_mul_iff_of_pos_right hp, div_lt_iff₀ hkq, hdm, add_mul, one_mul, mul_comm]
      exact (add_lt_add_iff_left _).2 hmod

theorem fpRcp_eq {a : Word} {n : Bool} {k : Nat} {x : Int} (h : Fp.fp32.decode a.toNat = .fin n k x) (hk : k ≠ 0) :
    fpRcp false a.toNat = bracketed 0 a false n (2 ^ 64 / k) (-64 - x) (2 ^ 64 % k != 0) := by
  rw [fpRcp, h, ftzIn_false]
  simp only [hk, if_false, BitVec.ofNat_toNat, BitVec.setWidth_eq]

/-- FRCP of a finite value that is not 0 (R119). -/
theorem fpRcp_spec {a : Word} {x : ℚ} (hx : finQ (Fp.fp32.decode a.toNat) = some x) (h0 : x ≠ 0) :
    (topQ .fp32 < |x⁻¹| ∧ fpRcp false a.toNat = (Fp.fp32.inf a.msb, 20)) ∨
      ∃ y, finQ (Fp.fp32.decode (fpRcp false a.toNat).1) = some y ∧
        (∀ c z, finQ (Fp.fp32.decode c) = some z → ¬(min y x⁻¹ < z ∧ z < max y x⁻¹)) ∧
        ((∃ c, finQ (Fp.fp32.decode c) = some x⁻¹) → y = x⁻¹) ∧ ((fpRcp false a.toNat).2.testBit 4 = true ↔ y ≠ x⁻¹) ∧
        (fpRcp false a.toNat).2.testBit 2 = false := by
  obtain ⟨n, k, e, hd, rfl, hn, hk, -, -⟩ := decode_fin hx
  have hk0 : k ≠ 0 := fun h => h0 (dyadic_eq_zero.2 h)
  rw [fpRcp_eq hd hk0, ← hn]
  refine bracketed_spec 0 a (inv_ne_zero h0) (standsFor_inv n hk hk0 e) ?_
  rw [Bool.eq_iff_iff, decide_eq_true_eq]
  exact ((dyadic_neg_iff hk0).symm.trans inv_lt_zero.symm)

/-! Integer square roots. -/

/-- Bit by bit the root stays below the square root, and within what the bits left can add. -/
theorem isqrtGo_spec (n b r : Nat) (hlo : r * r ≤ n) (hhi : n < (r + 2 ^ b) * (r + 2 ^ b)) :
    isqrtGo n b r * isqrtGo n b r ≤ n ∧ n < (isqrtGo n b r + 1) * (isqrtGo n b r + 1) := by
  induction b generalizing r with
  | zero => exact ⟨hlo, hhi⟩
  | succ b ih =>
    rw [isqrtGo]
    split
    · next h => exact ih _ h (by rwa [add_assoc, ← two_mul, ← pow_succ'])
    · next h => exact ih _ hlo (not_le.1 h)

theorem isqrt_spec (n : Nat) : isqrt n * isqrt n ≤ n ∧ n < (isqrt n + 1) * (isqrt n + 1) := by
  refine isqrtGo_spec n _ 0 (by simp) ?_
  rw [zero_add, ← pow_add]
  exact Nat.lt_log2_self.trans_le (Nat.pow_le_pow_right two_pos (by omega))

theorem le_isqrt {n r : Nat} (h : r * r ≤ n) : r ≤ isqrt n := by
  have := (isqrt_spec n).2
  by_contra hc
  have : (isqrt n + 1) * (isqrt n + 1) ≤ r * r := Nat.mul_le_mul (by omega) (by omega)
  omega

theorem evenExp_spec (m : Nat) (x : Int) : (evenExp m x).2 % 2 = 0 ∧ ((evenExp m x).1 : ℚ) * 2 ^ (evenExp m x).2 = m * 2 ^ x ∧
    m ≤ (evenExp m x).1 ∧ (evenExp m x).1 ≤ 2 * m ∧ x - 1 ≤ (evenExp m x).2 ∧ (evenExp m x).2 ≤ x := by
  rw [evenExp]
  split
  · next h => exact ⟨h, rfl, le_rfl, by omega, by omega, le_rfl⟩
  · refine ⟨by omega, ?_, by omega, le_rfl, le_rfl, by omega⟩
    rw [zpow_sub₀ two_ne_zero]
    push_cast
    ring

/-! Square roots. -/

/-- `q` × 2^g, exact or with the sticky bit, is the square root of X. -/
def IsRoot (X : ℚ) (q : Nat) (g : Int) (st : Bool) : Prop :=
  if st then (q * 2 ^ g : ℚ) ^ 2 < X ∧ X < ((q + 1) * 2 ^ g : ℚ) ^ 2 else (q * 2 ^ g : ℚ) ^ 2 = X

section
variable {X : ℚ} {q : Nat} {g : Int} {st : Bool}

/-- What stands for the root lies among the format's values where the root does. -/
theorem root_standsFor (h : IsRoot X q g st) (hq : 2 ^ 24 ≤ q) :
    ∃ v : ℚ, q * 2 ^ g ≤ v ∧ v < (q + 1) * 2 ^ g ∧ StandsFor .fp32 (.num false q g st) v ∧
      ∀ c z, finQ (Fp.fp32.decode c) = some z → 0 < z → (z < v ↔ z ^ 2 < X) ∧ (z = v ↔ z ^ 2 = X) := by
  have hp : (0 : ℚ) < 2 ^ g := by positivity
  have hL : (0 : ℚ) < q * 2 ^ g := by positivity
  cases st with
  | false =>
    rw [IsRoot, if_neg (by simp)] at h
    refine ⟨q * 2 ^ g, le_rfl, by linarith, ⟨by omega, by simp [dyadic]⟩, fun c z _ hz => ?_⟩
    rw [← h]
    exact ⟨(pow_lt_pow_iff_left₀ hz.le hL.le two_ne_zero).symm, (pow_left_inj₀ hz.le hL.le two_ne_zero).symm⟩
  | true =>
    rw [IsRoot, if_pos rfl] at h
    have hst : ∀ v : ℚ, q * 2 ^ g < v → v < (q + 1) * 2 ^ g → StandsFor .fp32 (.num false q g true) v := fun v h1 h2 => by
      have hv : 0 < v := hL.trans h1
      exact standsFor_sticky hq (by simp [hv.le]) (by rwa [abs_of_pos hv]) (by rwa [abs_of_pos hv])
    have hmid : q * 2 ^ g < (q + 1 / 2 : ℚ) * 2 ^ g ∧ (q + 1 / 2 : ℚ) * 2 ^ g < (q + 1) * 2 ^ g := by constructor <;> linarith
    refine ⟨(q + 1 / 2) * 2 ^ g, hmid.1.le, hmid.2, hst _ hmid.1 hmid.2, fun c z hc hz => ?_⟩
    have hout : z ≤ q * 2 ^ g ∨ (q + 1) * 2 ^ g ≤ z := by
      by_contra hn
      rw [not_or, not_le, not_le] at hn
      exact not_value_of_sticky (hst z hn.1 hn.2) hz.ne' c hc
    rcases hout with hz' | hz'
    · have : z ^ 2 < X := (pow_le_pow_left₀ hz.le hz' 2).trans_lt h.1
      exact ⟨iff_of_true (hz'.trans_lt hmid.1) this, iff_of_false (hz'.trans_lt hmid.1).ne this.ne⟩
    · have : X < z ^ 2 := h.2.trans_le (pow_le_pow_left₀ (by positivity) hz' 2)
      exact ⟨iff_of_false (hmid.2.trans_le hz').le.not_gt this.le.not_gt, iff_of_false (hmid.2.trans_le hz').ne' this.ne'⟩

/-- Bounds on all that stands for the root are bounds on the root. -/
theorem root_le_of_forall (h : IsRoot X q g st) (hq : 2 ^ 24 ≤ q) {b : ℚ}
    (hb : ∀ v, StandsFor .fp32 (.num false q g st) v → 0 < v → v ≤ b) : X ≤ b ^ 2 := by
  have hp : (0 : ℚ) < 2 ^ g := by positivity
  have hL : (0 : ℚ) < q * 2 ^ g := by positivity
  cases st with
  | false =>
    rw [IsRoot, if_neg (by simp)] at h
    rw [← h]
    exact pow_le_pow_left₀ hL.le (hb _ ⟨by omega, by simp [dyadic]⟩ hL) 2
  | true =>
    rw [IsRoot, if_pos rfl] at h
    refine h.2.le.trans (pow_le_pow_left₀ (by positivity) ?_ 2)
    by_contra hc
    obtain ⟨v, h1, h2⟩ := exists_between (max_lt (not_le.1 hc) (by linarith : q * 2 ^ g < (q + 1 : ℚ) * 2 ^ g))
    obtain ⟨h3, h4⟩ := max_lt_iff.1 h1
    have hv : 0 < v := hL.trans h4
    exact absurd (hb v (standsFor_sticky hq (by simp [hv.le]) (by rwa [abs_of_pos hv]) (by rwa [abs_of_pos hv])) hv) (not_le.2 h3)

theorem le_root_of_forall (h : IsRoot X q g st) (hq : 2 ^ 24 ≤ q) {b : ℚ} (hb0 : 0 ≤ b)
    (hb : ∀ v, StandsFor .fp32 (.num false q g st) v → 0 < v → b ≤ v) : b ^ 2 ≤ X := by
  have hp : (0 : ℚ) < 2 ^ g := by positivity
  have hL : (0 : ℚ) < q * 2 ^ g := by positivity
  cases st with
  | false =>
    rw [IsRoot, if_neg (by simp)] at h
    rw [← h]
    exact pow_le_pow_left₀ hb0 (hb _ ⟨by omega, by simp [dyadic]⟩ hL) 2
  | true =>
    rw [IsRoot, if_pos rfl] at h
    refine (pow_le_pow_left₀ hb0 ?_ 2).trans h.1.le
    by_contra hc
    obtain ⟨v, h1, h2⟩ := exists_between (lt_min (not_le.1 hc) (by linarith : q * 2 ^ g < (q + 1 : ℚ) * 2 ^ g))
    obtain ⟨h3, h4⟩ := lt_min_iff.1 h2
    have hv : 0 < v := hL.trans h1
    exact absurd (hb v (standsFor_sticky hq (by simp [hv.le]) (by rwa [abs_of_pos hv]) (by rwa [abs_of_pos hv])) hv) (not_le.2 h3)

end

/-- The least normal value and 2^127 are values of the format. -/
theorem value_min_normal : ∃ c, finQ (Fp.fp32.decode c) = some ((2 : ℚ) ^ (-126 : Int)) :=
  ⟨0x00800000, by rw [show Fp.fp32.decode 0x00800000 = .fin false (2 ^ 23) (-149) from rfl, finQ, dyadic]; norm_num⟩
theorem value_large : ∃ c, finQ (Fp.fp32.decode c) = some ((2 : ℚ) ^ (127 : Int)) :=
  ⟨0x7F000000, by rw [show Fp.fp32.decode 0x7F000000 = .fin false (2 ^ 23) 104 from rfl, finQ, dyadic]; norm_num⟩

/-- A neighbour of a value well inside the range of the format lies inside it. -/
theorem neighbour_in_range {v y : ℚ} (hlo : 2 ^ (-126 : Int) < v) (hhi : v < 2 ^ (127 : Int))
    (hy : ∀ c z, finQ (Fp.fp32.decode c) = some z → ¬(min y v < z ∧ z < max y v)) : 2 ^ (-126 : Int) ≤ y ∧ y ≤ 2 ^ (127 : Int) := by
  obtain ⟨c, hc⟩ := value_min_normal
  obtain ⟨c', hc'⟩ := value_large
  constructor
  · by_contra h
    exact hy c _ hc ⟨min_lt_of_left_lt (not_le.1 h), lt_max_of_lt_right hlo⟩
  · by_contra h
    exact hy c' _ hc' ⟨min_lt_of_right_lt hhi, lt_max_of_lt_left (not_le.1 h)⟩

/-- A neighbour of what stands for a root brackets it. -/
theorem brackets_root {X v y : ℚ} {c : Nat} (hv : ∀ c z, finQ (Fp.fp32.decode c) = some z → 0 < z → (z < v ↔ z ^ 2 < X) ∧ (z = v ↔ z ^ 2 = X))
    (hy : ∀ c z, finQ (Fp.fp32.decode c) = some z → ¬(min y v < z ∧ z < max y v))
    (hself : (∃ c, finQ (Fp.fp32.decode c) = some v) → y = v) {z : ℚ} (hz : finQ (Fp.fp32.decode c) = some z) (h0 : 0 < z) :
    ¬(y < z ∧ z ^ 2 < X) ∧ ¬(z < y ∧ X < z ^ 2) ∧ (z ^ 2 = X → y = z) := by
  obtain ⟨hlt, heq⟩ := hv c z hz h0
  refine ⟨fun ⟨h1, h2⟩ => hy c z hz ⟨min_lt_of_left_lt h1, lt_max_of_lt_right (hlt.2 h2)⟩, fun ⟨h1, h2⟩ => ?_, fun h => ?_⟩
  · have h3 : v < z := lt_of_le_of_ne (not_lt.1 (mt hlt.1 h2.le.not_gt)) fun h => h2.ne' (heq.1 h.symm)
    exact hy c z hz ⟨min_lt_of_right_lt h3, lt_max_of_lt_left h1⟩
  · have hzv := heq.2 h
    rw [hzv]
    exact hself ⟨c, hzv ▸ hz⟩

/-- The root that FRSQ takes, of the reciprocal. -/
theorem isRoot_inv {m q : Nat} (hm : m < 2 ^ 25) (hm0 : 0 < m) {x : Int} (hx : x % 2 = 0) (hq : isqrt (2 ^ 128 / m) = q) :
    IsRoot (m * 2 ^ x : ℚ)⁻¹ q (-64 - x / 2) (q * q * m != 2 ^ 128) ∧ 2 ^ 51 ≤ q ∧ q ≤ 2 ^ 64 := by
  obtain ⟨hlo, hhi⟩ := isqrt_spec (2 ^ 128 / m)
  rw [hq] at hlo hhi
  have hle : q * q * m ≤ 2 ^ 128 := (Nat.mul_le_mul_right m hlo).trans (Nat.div_mul_le_self _ _)
  have hlt : 2 ^ 128 < (q + 1) * (q + 1) * m := (Nat.div_lt_iff_lt_mul hm0).1 hhi
  have hsq : ∀ r : ℚ, (r * 2 ^ (-64 - x / 2)) ^ 2 = r * r * m / 2 ^ 128 * (m * 2 ^ x : ℚ)⁻¹ := fun r => by
    have h2 : (2 : ℚ) ^ (-64 - x / 2) * 2 ^ (-64 - x / 2) = (2 ^ 128)⁻¹ * (2 ^ x)⁻¹ := by
      rw [← zpow_add₀ two_ne_zero, ← zpow_natCast, ← zpow_neg, ← zpow_neg, ← zpow_add₀ two_ne_zero]
      congr 1
      push_cast
      omega
    have hm' : (m : ℚ) ≠ 0 := by positivity
    rw [mul_pow, pow_two (2 ^ _), h2]
    field_simp
  have hX : (0 : ℚ) < (m * 2 ^ x : ℚ)⁻¹ := by positivity
  refine ⟨?_, hq ▸ le_isqrt ((Nat.le_div_iff_mul_le hm0).2 (by omega)), ?_⟩
  · rw [IsRoot]
    by_cases h : q * q * m = 2 ^ 128
    · have h' : (q * q * m : ℚ) = 2 ^ 128 := by exact_mod_cast h
      rw [if_neg (by simp [h]), hsq, h', div_self (by positivity), one_mul]
    · have h1 : (q * q * m : ℚ) < 2 ^ 128 := by exact_mod_cast lt_of_le_of_ne hle h
      have h2 : (2 ^ 128 : ℚ) < (q + 1) * (q + 1) * m := by exact_mod_cast hlt
      rw [if_pos (by simpa using h), hsq, hsq]
      exact ⟨mul_lt_of_lt_one_left hX ((div_lt_one (by positivity)).2 h1),
        lt_mul_of_one_lt_left hX ((one_lt_div (by positivity)).2 h2)⟩
  · by_contra hc
    have : (2 ^ 64 + 1) * (2 ^ 64 + 1) ≤ q * q := Nat.mul_le_mul (by omega) (by omega)
    have : q * q ≤ q * q * m := Nat.le_mul_of_pos_right _ hm0
    omega

/-- The root that FSQRT takes. -/
theorem isRoot_sqrt {m q : Nat} (hm : m < 2 ^ 25) (hm0 : 0 < m) {x : Int} (hx : x % 2 = 0) (hq : isqrt (m * 2 ^ 64) = q) :
    IsRoot (m * 2 ^ x : ℚ) q (x / 2 - 32) (q * q != m * 2 ^ 64) ∧ 2 ^ 32 ≤ q ∧ q < 2 ^ 45 := by
  obtain ⟨hlo, hhi⟩ := isqrt_spec (m * 2 ^ 64)
  rw [hq] at hlo hhi
  have hsq : ∀ r : ℚ, (r * 2 ^ (x / 2 - 32)) ^ 2 = r * r / 2 ^ 64 * 2 ^ x := fun r => by
    have h2 : (2 : ℚ) ^ (x / 2 - 32) * 2 ^ (x / 2 - 32) = (2 ^ 64)⁻¹ * 2 ^ x := by
      rw [← zpow_add₀ two_ne_zero, ← zpow_natCast, ← zpow_neg, ← zpow_add₀ two_ne_zero]
      congr 1
      push_cast
      omega
    rw [mul_pow, pow_two (2 ^ _), h2]
    ring
  have hp : (0 : ℚ) < 2 ^ x := by positivity
  refine ⟨?_, hq ▸ le_isqrt (by omega), ?_⟩
  · rw [IsRoot]
    by_cases h : q * q = m * 2 ^ 64
    · have h' : (q * q : ℚ) = m * 2 ^ 64 := by exact_mod_cast h
      rw [if_neg (by simp [h]), hsq, h', mul_div_cancel_right₀ _ (by positivity)]
    · have h1 : (q * q : ℚ) < m * 2 ^ 64 := by exact_mod_cast lt_of_le_of_ne hlo h
      have h2 : (m * 2 ^ 64 : ℚ) < (q + 1) * (q + 1) := by exact_mod_cast hhi
      rw [if_pos (by simpa using h), hsq, hsq, mul_lt_mul_iff_of_pos_right hp, mul_lt_mul_iff_of_pos_right hp,
        div_lt_iff₀ (by positivity), lt_div_iff₀ (by positivity)]
      exact ⟨h1, h2⟩
  · by_contra hc
    have : 2 ^ 45 * 2 ^ 45 ≤ q * q := Nat.mul_le_mul (by omega) (by omega)
    have := this.trans hlo
    omega

section
variable {a : Word} {k q : Nat} {x : Int}

theorem fpRsq_eq (h : Fp.fp32.decode a.toNat = .fin false k x) (hk : k ≠ 0) (hq : isqrt (2 ^ 128 / (evenExp k x).1) = q) :
    fpRsq false a.toNat =
      bracketed 1 a false false q (-64 - (evenExp k x).2 / 2) (q * q * (evenExp k x).1 != 2 ^ 128) := by
  rw [fpRsq, h, ftzIn_false]
  simp only [hk, if_false, Bool.false_eq_true, BitVec.ofNat_toNat, BitVec.setWidth_eq, hq]

theorem fpSqrt_eq (mode : Rm) (h : Fp.fp32.decode a.toNat = .fin false k x) (hk : k ≠ 0)
    (hq : isqrt ((evenExp k x).1 * 2 ^ 64) = q) : fpSqrt mode false a.toNat =
      roundTo .fp32 mode false false (.num false q ((evenExp k x).2 / 2 - 32) (q * q != (evenExp k x).1 * 2 ^ 64)) := by
  rw [fpSqrt, h, ftzIn_false]
  simp only [hk, if_false, Bool.false_eq_true, hq]

end

/-- A positive operand, at an even exponent. -/
theorem decode_pos {a : Word} {x : ℚ} (hx : finQ (Fp.fp32.decode a.toNat) = some x) (h0 : 0 < x) :
    ∃ k e, Fp.fp32.decode a.toNat = .fin false k e ∧ k ≠ 0 ∧ (evenExp k e).2 % 2 = 0 ∧
      ((evenExp k e).1 : ℚ) * 2 ^ (evenExp k e).2 = x ∧ (evenExp k e).1 < 2 ^ 25 ∧ 0 < (evenExp k e).1 ∧
      -150 ≤ (evenExp k e).2 ∧ (evenExp k e).2 ≤ 104 := by
  obtain ⟨n, k, e, hd, hv, hn, hk, he, he'⟩ := decode_fin hx
  have hk0 : k ≠ 0 := fun h => h0.ne' (hv ▸ dyadic_eq_zero.2 h)
  obtain rfl : n = false := Bool.eq_false_iff.2 fun h => (h0.trans (hv ▸ (dyadic_neg_iff hk0).2 h)).false
  obtain ⟨heven, hval, hle, hle', hx1, hx2⟩ := evenExp_spec k e
  refine ⟨k, e, hd, hk0, heven, ?_, by omega, by omega, by omega, by omega⟩
  rw [hval, ← hv]
  simp [dyadic]

/-- A multiple of a power of two within powers of two. -/
theorem scaled_bounds {q b c : Nat} {g : Int} {v : ℚ} (hv : q * 2 ^ g ≤ v ∧ v < (q + 1) * 2 ^ g) (hq : 2 ^ b ≤ q) (hq' : q < 2 ^ c)
    (hlo : -126 < b + g) (hhi : c + g ≤ 127) : 2 ^ (-126 : Int) < v ∧ v < 2 ^ (127 : Int) := by
  have hp : (0 : ℚ) < 2 ^ g := by positivity
  constructor
  · calc (2 : ℚ) ^ (-126 : Int) < 2 ^ ((b : Int) + g) := zpow_lt_zpow_right₀ one_lt_two hlo
      _ = ((2 ^ b : Nat) : ℚ) * 2 ^ g := by rw [zpow_add₀ two_ne_zero, zpow_natCast]; push_cast; rfl
      _ ≤ q * 2 ^ g := by gcongr
      _ ≤ v := hv.1
  · calc v < (q + 1) * 2 ^ g := hv.2
      _ ≤ ((2 ^ c : Nat) : ℚ) * 2 ^ g := by gcongr; exact_mod_cast hq'
      _ = 2 ^ ((c : Int) + g) := by rw [zpow_add₀ two_ne_zero, zpow_natCast]; push_cast; rfl
      _ ≤ 2 ^ (127 : Int) := zpow_le_zpow_right₀ one_le_two hhi

section
variable {X : ℚ} {q b c : Nat} {g : Int} {st : Bool}

/-- One of the two values around a root. -/
theorem bracketed_root (fn : Nat) (a : Word) (hroot : IsRoot X q g st) (hb : 24 ≤ b) (hq : 2 ^ b ≤ q) (hq' : q < 2 ^ c)
    (hlo : -126 < b + g) (hhi : c + g ≤ 127) :
    ∃ y, finQ (Fp.fp32.decode (bracketed fn a false false q g st).1) = some y ∧ 0 < y ∧
      (∀ c z, finQ (Fp.fp32.decode c) = some z → 0 < z → ¬(y < z ∧ z ^ 2 < X) ∧ ¬(z < y ∧ X < z ^ 2) ∧ (z ^ 2 = X → y = z)) ∧
      ((bracketed fn a false false q g st).2.testBit 4 = true ↔ y ^ 2 ≠ X) := by
  obtain ⟨v, hv1, hv2, hst, hcut⟩ := root_standsFor hroot ((Nat.pow_le_pow_right two_pos hb).trans hq)
  obtain ⟨hvlo, hvhi⟩ := scaled_bounds ⟨hv1, hv2⟩ hq hq' hlo hhi
  have hv : 0 < v := lt_trans (by positivity) hvlo
  rcases bracketed_spec fn a hv.ne' hst (by simp [hv.le]) with ⟨htop, -⟩ | ⟨y, hy, hnb, hself, hix, -⟩
  · rw [abs_of_pos hv, topQ_fp32] at htop
    exact absurd (htop.trans hvhi) (by norm_num)
  · have hy0 : 0 < y := lt_of_lt_of_le (by positivity) (neighbour_in_range hvlo hvhi hnb).1
    exact ⟨y, hy, hy0, fun c z hz hz0 => brackets_root hcut hnb hself hz hz0, hix.trans (not_congr (hcut _ y hy hy0).2)⟩

/-- A root within the normal values, rounded: a value of the grid, with IX if it changed. -/
theorem roundTo_of_standsFor (m : Rm) {e : Ex} {v : ℚ} (hst : StandsFor .fp32 e v) (hvlo : 2 ^ (-126 : Int) < v)
    (hvhi : v < 2 ^ (127 : Int)) :
    finQ (Fp.fp32.decode (roundTo .fp32 m false false e).1) = some (onGrid .fp32 m v) ∧
      (roundTo .fp32 m false false e).2 = (if onGrid .fp32 m v = v then 0 else 16) ∧ 0 < onGrid .fp32 m v := by
  have hv : 0 < v := lt_trans (by positivity) hvlo
  obtain ⟨hylo, hyhi⟩ := neighbour_in_range hvlo hvhi (onGrid_neighbour .fp32 m hv.ne').1
  have hy0 : 0 < onGrid .fp32 m v := lt_of_lt_of_le (by positivity) hylo
  rcases isRound_plain (roundTo_isRound .fp32 m false false hst) with ⟨-, htop⟩ | ⟨-, hcode, hfl⟩
  · rw [abs_of_pos hy0, topQ_fp32] at htop
    exact absurd (htop.trans_le hyhi) (by norm_num)
  · have hbias : 1 - (Fp.fp32.bias : Int) = -126 := rfl
    rw [abs_of_pos hy0, hbias, if_neg (not_lt.2 hylo)] at hfl
    exact ⟨hcode, hfl, hy0⟩

/-- A root rounded to the nearest lies within half the way to every other value: all that stands for it does. -/
theorem roundTo_root_nearest (hroot : IsRoot X q g st) (hq : 2 ^ 24 ≤ q) {y z : ℚ}
    (hy : finQ (Fp.fp32.decode (roundTo .fp32 .rn false false (.num false q g st)).1) = some y) (hy0 : 0 < y)
    (hfl : (roundTo .fp32 .rn false false (.num false q g st)).2 ≠ 20) (hz : finQ (Fp.fp32.decode c) = some z) (hz0 : 0 < z) :
    (y < z → 4 * X ≤ (y + z) ^ 2) ∧ (z < y → (y + z) ^ 2 ≤ 4 * X) := by
  have hnear : ∀ u, StandsFor .fp32 (.num false q g st) u → 0 < u → |y - u| ≤ |z - u| := fun u hu hu0 => by
    have hyu : y = onGrid .fp32 .rn u := by
      rcases isRound_plain (roundTo_isRound .fp32 .rn false false hu) with ⟨h, -⟩ | ⟨-, hcode, -⟩
      · exact absurd h hfl
      · exact Option.some.inj (hy.symm.trans hcode)
    rw [hyu]
    exact ((onGrid_neighbour .fp32 .rn hu0.ne').2.2.2.2 rfl c z hz).1
  have hhalf : (y + z) ^ 2 = 4 * ((y + z) / 2) ^ 2 := by ring
  constructor
  · intro hlt
    have := root_le_of_forall hroot hq (b := (y + z) / 2) fun u hu hu0 => by
      by_contra hc
      refine (hnear u hu hu0).not_gt ?_
      rw [abs_of_neg (by linarith : y - u < 0), abs_lt]
      constructor <;> linarith
    linarith
  · intro hlt
    have := le_root_of_forall hroot hq (b := (y + z) / 2) (by positivity) fun u hu hu0 => by
      by_contra hc
      refine (hnear u hu hu0).not_gt ?_
      rw [abs_of_pos (by linarith : 0 < y - u), abs_lt]
      constructor <;> linarith
    linarith

/-- A root rounded under a mode (R119). -/
theorem roundTo_root (m : Rm) (hroot : IsRoot X q g st) (hb : 24 ≤ b) (hq : 2 ^ b ≤ q) (hq' : q < 2 ^ c) (hlo : -126 < b + g)
    (hhi : c + g ≤ 127) :
    let r := roundTo .fp32 m false false (.num false q g st)
    ∃ y, finQ (Fp.fp32.decode r.1) = some y ∧ 0 < y ∧
      (∀ c z, finQ (Fp.fp32.decode c) = some z → 0 < z → ¬(y < z ∧ z ^ 2 < X) ∧ ¬(z < y ∧ X < z ^ 2) ∧ (z ^ 2 = X → y = z)) ∧
      (m = .rz ∨ m = .rd → y ^ 2 ≤ X) ∧ (m = .ru → X ≤ y ^ 2) ∧
      (m = .rn → ∀ c z, finQ (Fp.fp32.decode c) = some z → 0 < z → (y < z → 4 * X ≤ (y + z) ^ 2) ∧ (z < y → (y + z) ^ 2 ≤ 4 * X)) ∧
      r.2 = if y ^ 2 = X then 0 else 16 := by
  intro r
  have hq24 : 2 ^ 24 ≤ q := (Nat.pow_le_pow_right two_pos hb).trans hq
  obtain ⟨v, hv1, hv2, hst, hcut⟩ := root_standsFor hroot hq24
  obtain ⟨hvlo, hvhi⟩ := scaled_bounds ⟨hv1, hv2⟩ hq hq' hlo hhi
  have hv : 0 < v := lt_trans (by positivity) hvlo
  obtain ⟨hnb, hrz, hru, hrd, -⟩ := onGrid_neighbour .fp32 m hv.ne'
  obtain ⟨hy, hfl, hy0⟩ := roundTo_of_standsFor m hst hvlo hvhi
  obtain ⟨hlt, heq⟩ := hcut _ _ hy hy0
  refine ⟨_, hy, hy0, fun c z hz hz0 => brackets_root hcut hnb (fun ⟨c, hc⟩ => onGrid_of_value m hv.ne' hc) hz hz0, ?_,
    fun hm => not_lt.1 fun h => (hlt.2 h).not_ge (hru hm), ?_, hfl.trans (if_congr heq rfl rfl)⟩
  · intro hm
    have hle : onGrid .fp32 m v ≤ v := hm.elim (fun h => by simpa [abs_of_pos hy0, abs_of_pos hv] using hrz h) hrd
    exact hle.lt_or_eq.elim (fun h => (hlt.1 h).le) fun h => (heq.1 h).le
  · rintro rfl c z hz hz0
    exact roundTo_root_nearest hroot hq24 hy hy0 (by rw [hfl]; split <;> decide) hz hz0

end

/-- FRSQ of a positive value (R119). -/
theorem fpRsq_spec {a : Word} {x : ℚ} (hx : finQ (Fp.fp32.decode a.toNat) = some x) (h0 : 0 < x) :
    ∃ y, finQ (Fp.fp32.decode (fpRsq false a.toNat).1) = some y ∧ 0 < y ∧
      (∀ c z, finQ (Fp.fp32.decode c) = some z → 0 < z →
        ¬(y < z ∧ z ^ 2 < x⁻¹) ∧ ¬(z < y ∧ x⁻¹ < z ^ 2) ∧ (z ^ 2 = x⁻¹ → y = z)) ∧
      ((fpRsq false a.toNat).2.testBit 4 = true ↔ y ^ 2 ≠ x⁻¹) := by
  obtain ⟨k, e, hd, hk, heven, hval, hm, hm0, he, he'⟩ := decode_pos hx h0
  obtain ⟨hroot, hq, hq'⟩ := isRoot_inv hm hm0 heven rfl
  rw [hval] at hroot
  rw [fpRsq_eq hd hk rfl]
  exact bracketed_root (b := 51) (c := 65) 1 a hroot (by norm_num) hq (by omega) (by omega) (by omega)

/-- FSQRT of a positive value (R119). -/
theorem fpSqrt_spec (m : Rm) {a : Word} {x : ℚ} (hx : finQ (Fp.fp32.decode a.toNat) = some x) (h0 : 0 < x) :
    ∃ y, finQ (Fp.fp32.decode (fpSqrt m false a.toNat).1) = some y ∧ 0 < y ∧
      (∀ c z, finQ (Fp.fp32.decode c) = some z → 0 < z → ¬(y < z ∧ z ^ 2 < x) ∧ ¬(z < y ∧ x < z ^ 2) ∧ (z ^ 2 = x → y = z)) ∧
      (m = .rz ∨ m = .rd → y ^ 2 ≤ x) ∧ (m = .ru → x ≤ y ^ 2) ∧
      (m = .rn → ∀ c z, finQ (Fp.fp32.decode c) = some z → 0 < z → (y < z → 4 * x ≤ (y + z) ^ 2) ∧ (z < y → (y + z) ^ 2 ≤ 4 * x)) ∧
      ((fpSqrt m false a.toNat).2 = if y ^ 2 = x then 0 else 16) := by
  obtain ⟨k, e, hd, hk, heven, hval, hm, hm0, he, he'⟩ := decode_pos hx h0
  obtain ⟨hroot, hq, hq'⟩ := isRoot_sqrt hm hm0 heven rfl
  rw [hval] at hroot
  rw [fpSqrt_eq m hd hk rfl]
  exact roundTo_root (b := 32) (c := 45) m hroot (by norm_num) hq hq' (by omega) (by omega)

end Sys2Proof.Machine

open Sys2Proof Sys2Proof.Machine Sys2Proof.Claims

/-- Settles O11: the quotient and the integer root stand for the exact value among the format's values. -/
theorem rootsBracketTheExactValue : Obligations.RootsBracketTheExactValue := by
  unfold Obligations.RootsBracketTheExactValue
  intro m a x hx values
  refine ⟨fun h0 hof => ?_, fun h0 hof => ?_, fun h0 => ⟨?_, ?_⟩⟩
  · rcases fpRcp_spec hx h0 with ⟨-, hr⟩ | ⟨y, hy, hnb, hself, hix, -⟩
    · rw [hr] at hof; exact absurd hof (show ¬Nat.testBit 20 2 = false by decide)
    · exact ⟨y, hy, fun z ⟨c, hc⟩ => hnb c z hc, hself,
        hix.trans (not_congr ⟨fun h => ⟨_, h ▸ hy⟩, hself⟩)⟩
  · rcases fpRcp_spec hx h0 with ⟨htop, hr⟩ | ⟨y, -, -, -, -, hof'⟩
    · exact ⟨fun z ⟨c, hc⟩ => (abs_value_le_topQ hc).trans_lt htop, hr⟩
    · rw [hof'] at hof; cases hof
  · obtain ⟨y, hy, hy0, hb, hix⟩ := fpRsq_spec hx h0
    -- squares are compared with the reciprocal
    have hlt : ∀ z : ℚ, z ^ 2 < x⁻¹ ↔ z ^ 2 * x < 1 := fun z => by rw [← one_div, lt_div_iff₀ h0]
    have hgt : ∀ z : ℚ, x⁻¹ < z ^ 2 ↔ 1 < z ^ 2 * x := fun z => by rw [← one_div, div_lt_iff₀ h0]
    have heq : ∀ z : ℚ, z ^ 2 = x⁻¹ ↔ z ^ 2 * x = 1 := fun z => ⟨fun h => by rw [h, inv_mul_cancel₀ h0.ne'], eq_inv_of_mul_eq_one_left⟩
    refine ⟨y, hy, hy0, fun z ⟨c, hc⟩ hz0 => ?_, hix.trans (not_congr (heq y))⟩
    rw [← hlt, ← hgt, ← heq]
    exact hb c z hc hz0
  · obtain ⟨y, hy, hy0, hb, hz, hu, hn, hfl⟩ := fpSqrt_spec m hx h0
    exact ⟨y, hy, hy0, fun z ⟨c, hc⟩ hz0 => hb c z hc hz0, hz, hu, fun hm z ⟨c, hc⟩ hz0 => hn hm c z hc hz0, hfl⟩
end

section
/-! Results within a bound of an approximation (R119). -/

namespace Sys2Proof.Machine

open Sys2Proof.Claims

/-! Rounding to the nearest. -/

theorem abs_roundQ_rn_sub (u : ℚ) : |(roundQ .rn u : ℚ) - u| ≤ 1 / 2 := by
  have h1 := Int.floor_le u
  have h2 := Int.lt_floor_add_one u
  rw [roundQ]
  split
  · next h => rw [abs_le]; constructor <;> rcases h with h | ⟨h, -⟩ <;> linarith
  · next h =>
    rw [not_or, not_lt] at h
    push_cast
    rw [abs_le]
    constructor <;> linarith [h.1]

/-- To the nearest a value moves by half a unit in the last place at most. -/
theorem abs_onGrid_rn_sub (f : Fp) (v : ℚ) : |onGrid f .rn v - v| ≤ 1 / 2 * 2 ^ gridExp f v := by
  have hg : (0 : ℚ) < 2 ^ gridExp f v := by positivity
  have hv : onGrid f .rn v - v = (roundQ .rn (v / 2 ^ gridExp f v) - v / 2 ^ gridExp f v) * 2 ^ gridExp f v := by
    rw [onGrid, sub_mul, div_mul_cancel₀ _ hg.ne']
  rw [hv, abs_mul, abs_of_pos hg]
  exact mul_le_mul_of_nonneg_right (abs_roundQ_rn_sub _) hg.le

/-- The unit in the last place of FP32 at a value, or more: 2^-23 of its magnitude, and 2^-149. -/
noncomputable def unitAt (v : ℝ) : ℝ := max (2 ^ (-23 : Int) * |v|) (2 ^ (-149 : Int))

/-- A bound among the rationals is one among the reals. -/
theorem abs_sub_le_cast {x y c : ℚ} (h : |x - y| ≤ c) : |(x : ℝ) - y| ≤ c := by exact_mod_cast h

theorem unitAt_pos (v : ℝ) : 0 < unitAt v := lt_max_of_lt_right (by positivity)

theorem two_zpow_gridExp_le {v : ℚ} (hv : v ≠ 0) : ((2 : ℝ) ^ gridExp .fp32 v) ≤ unitAt v := by
  have hlog : (2 : ℚ) ^ Int.log 2 |v| ≤ |v| := by
    have := Int.zpow_log_le_self (b := 2) Nat.one_lt_two (abs_pos.2 hv)
    rwa [Nat.cast_ofNat] at this
  have hlogR : (2 : ℝ) ^ Int.log 2 |v| ≤ |(v : ℝ)| := by
    have : (((2 : ℚ) ^ Int.log 2 |v| : ℚ) : ℝ) ≤ ((|v| : ℚ) : ℝ) := Rat.cast_le.2 hlog
    simpa using this
  rw [gridExp, unitAt]
  rcases le_total (Int.log 2 |v|) (1 - (Fp.fp32.bias : Int)) with h | h
  · rw [max_eq_right h]
    exact le_max_of_le_right le_rfl
  · rw [max_eq_left h, zpow_sub₀ two_ne_zero]
    refine le_max_of_le_left ?_
    have he : ((2 : ℝ) ^ (Fp.fp32.f : Int)) = 2 ^ (23 : Int) := rfl
    rw [he, div_eq_mul_inv, ← zpow_neg, mul_comm]
    gcongr

/-! Approximations. -/

/-- The value of an approximation. -/
def Approx.q (a : Approx) : ℚ := a.v * 2 ^ a.x

/-- A candidate within n units of 2^u is a value that near to the approximation. -/
theorem within_spec {c : Fv} {a : Approx} {n : Nat} {u : Int} (h : within c a n u = true) :
    ∃ y, finQ c = some y ∧ |y - a.q| ≤ n * 2 ^ u := by
  cases c with
  | nan s => cases h
  | inf s => cases h
  | fin neg m x =>
    refine ⟨_, rfl, ?_⟩
    simp only [within, decide_eq_true_eq] at h
    have hlo1 : min x (min a.x u) ≤ x := min_le_left _ _
    have hlo2 : min x (min a.x u) ≤ a.x := (min_le_right _ _).trans (min_le_left _ _)
    have hlo3 : min x (min a.x u) ≤ u := (min_le_right _ _).trans (min_le_right _ _)
    generalize min x (min a.x u) = lo at *
    have hscale : ∀ e : Int, lo ≤ e → (2 : ℚ) ^ e = 2 ^ (e - lo).toNat * 2 ^ lo := fun e he => by
      rw [← zpow_natCast, ← zpow_add₀ two_ne_zero, Int.toNat_of_nonneg (sub_nonneg.2 he), sub_add_cancel]
    have hp : (0 : ℚ) < 2 ^ lo := by positivity
    have hdiff : dyadic neg m x - a.q =
        (((if neg then -1 else 1) * (m * 2 ^ (x - lo).toNat : Nat) - a.v * 2 ^ (a.x - lo).toNat : Int) : ℚ) * 2 ^ lo := by
      rw [dyadic, Approx.q, hscale x hlo1, hscale a.x hlo2]
      push_cast
      ring
    rw [hdiff, abs_mul, abs_of_pos hp, hscale u hlo3, ← mul_assoc]
    refine mul_le_mul_of_nonneg_right ?_ hp.le
    rw [← Int.cast_abs, Int.abs_eq_natAbs]
    exact_mod_cast h

/-- The unit in the last place at an approximation that is not 0. -/
theorem two_zpow_ulpAt_le {a : Approx} (h : a.v ≠ 0) : ((2 : ℝ) ^ ulpAt a) ≤ unitAt a.q := by
  rw [ulpAt, unitAt]
  have hlog : (2 : ℝ) ^ Nat.log2 a.v.natAbs ≤ |(a.v : ℝ)| := by
    rw [← Int.cast_abs, Int.abs_eq_natAbs]
    exact_mod_cast Nat.log2_self_le (by omega)
  split
  · exact le_max_right _ _
  · refine le_max_of_le_left ?_
    have hq : |((a.q : ℚ) : ℝ)| = |(a.v : ℝ)| * 2 ^ a.x := by
      rw [Approx.q]; push_cast; rw [abs_mul, abs_of_pos (a := (2 : ℝ) ^ a.x) (by positivity)]
    have hx : a.x + (Nat.log2 a.v.natAbs : Int) - 23 = -23 + (Nat.log2 a.v.natAbs + a.x) := by ring
    rw [hq, hx, zpow_add₀ two_ne_zero, zpow_add₀ two_ne_zero, zpow_natCast]
    gcongr

/-- What `bounded` rounds: half-way between the approximation and its successor in magnitude. -/
def Approx.mid (a : Approx) : ℚ := dyadic (decide (a.v < 0)) ((2 * a.v.natAbs + 1) * 2) (a.x - 2)

theorem abs_mid (a : Approx) : |a.mid| = (a.v.natAbs + 1 / 2) * 2 ^ a.x := by
  rw [Approx.mid, abs_dyadic, zpow_sub₀ two_ne_zero]
  push_cast
  norm_num
  ring

theorem mid_ne_zero (a : Approx) : a.mid ≠ 0 := fun h => by
  have := abs_mid a
  rw [h, abs_zero] at this
  have : (0 : ℚ) < (a.v.natAbs + 1 / 2) * 2 ^ a.x := by positivity
  linarith

theorem mid_neg_iff (a : Approx) : a.mid < 0 ↔ a.v < 0 := (dyadic_neg_iff (by omega)).trans decide_eq_true_iff

theorem abs_mid_sub (a : Approx) : |a.mid - a.q| = 1 / 2 * 2 ^ a.x := by
  have hp : (0 : ℚ) < 2 ^ a.x := by positivity
  have hm : a.mid = (if a.v < 0 then -1 else 1) * ((a.v.natAbs + 1 / 2) * 2 ^ a.x) := by
    rw [← abs_mid]
    split
    · next h => rw [abs_of_neg ((mid_neg_iff a).2 h)]; ring
    · next h => rw [abs_of_nonneg (not_lt.1 (mt (mid_neg_iff a).1 h))]; ring
  have hv : (a.v : ℚ) = (if a.v < 0 then -1 else 1) * (a.v.natAbs : ℚ) := by
    have : (a.v.natAbs : ℚ) = |(a.v : ℚ)| := by rw [← Int.cast_abs, Int.abs_eq_natAbs]; rfl
    rw [this]
    split
    · next h => rw [abs_of_neg (by exact_mod_cast h)]; ring
    · next h => rw [abs_of_nonneg (by exact_mod_cast not_lt.1 h)]; ring
  have hd : a.mid - a.q = (if a.v < 0 then -1 else 1) * (1 / 2 * 2 ^ a.x) := by
    rw [hm, Approx.q, hv]
    split <;> simp <;> ring
  rw [hd, abs_mul, abs_of_pos (a := (1 / 2 * 2 ^ a.x : ℚ)) (by positivity)]
  split <;> simp

/-- The approximation is finer than the grid. -/
def Approx.Fine (a : Approx) : Prop := a.x < -149 ∨ 2 ^ 24 ≤ a.v.natAbs

theorem mid_standsFor {a : Approx} (h : a.Fine) :
    StandsFor .fp32 (.num (decide (a.v < 0)) a.v.natAbs a.x true) a.mid := by
  have hp : (0 : ℚ) < 2 ^ a.x := by positivity
  have hn : decide (a.v < 0) = decide (a.mid < 0) := by rw [decide_eq_decide]; exact (mid_neg_iff a).symm
  have hlo : (a.v.natAbs : ℚ) * 2 ^ a.x < |a.mid| := by rw [abs_mid]; linarith
  have hhi : |a.mid| < (a.v.natAbs + 1) * 2 ^ a.x := by rw [abs_mid]; linarith
  rcases h with h | h
  · exact ⟨hn, hlo, hhi, lt_of_lt_of_le h (le_gridExp .fp32 _)⟩
  · exact standsFor_sticky h hn hlo hhi

/-- What `bounded` gives: an infinity where what it rounds overflows, else what it rounds to the nearest or a candidate that it
accepts; IX is always set. -/
theorem bounded_spec (fn : Nat) (w : Word) {a : Approx} (hf : a.Fine) (ok : Fv → Bool) :
    let r := bounded fn w false a ok
    r.2.testBit 4 = true ∧
      ((r = (Fp.fp32.inf (decide (a.v < 0)), 20) ∧ topQ .fp32 < |a.mid|) ∨
        (r.2.testBit 2 = false ∧ |onGrid .fp32 .rn a.mid| ≤ topQ .fp32 ∧
          (finQ (Fp.fp32.decode r.1) = some (onGrid .fp32 .rn a.mid) ∨ ok (Fp.fp32.decode r.1) = true))) := by
  intro r
  have hst := mid_standsFor hf
  have hround := roundTo_isRound .fp32 .rn false false hst
  have hr : r = if settled false (roundTo .fp32 .rn false false (.num (decide (a.v < 0)) a.v.natAbs a.x true)) then _ else _ := rfl
  rcases isRound_plain hround with ⟨hfl, htop⟩ | ⟨hle, hcode, hfl⟩
  · rw [hr, if_pos (by rw [settled, hfl]; rfl)]
    refine ⟨by rw [hfl]; rfl, .inl ⟨?_, topQ_lt_of_overflow (mid_ne_zero a) htop⟩⟩
    rw [IsRound, if_pos htop, overflowOf_rn] at hround
    rw [hround, decide_eq_decide.2 (mid_neg_iff a)]
  · rw [if_neg (onGrid_ne_of_sticky hst .rn)] at hfl
    have hflags : settled false (roundTo .fp32 .rn false false (.num (decide (a.v < 0)) a.v.natAbs a.x true)) = false ∧
        (roundTo .fp32 .rn false false (.num (decide (a.v < 0)) a.v.natAbs a.x true)).2.testBit 4 = true ∧
        (roundTo .fp32 .rn false false (.num (decide (a.v < 0)) a.v.natAbs a.x true)).2.testBit 2 = false := by
      rw [settled, hfl]
      split <;> decide
    rw [hr, if_neg (by rw [hflags.1]; decide)]
    split
    · next hok => exact ⟨hflags.2.1, .inr ⟨hflags.2.2, hle, .inr (Bool.and_eq_true_iff.1 hok).1⟩⟩
    · exact ⟨hflags.2.1, .inr ⟨hflags.2.2, hle, .inl hcode⟩⟩

/-! Near the exact value. -/

/-- Two units in the last place of FP32 at `v`, widened by a hundredth (R119). -/
def Near (r : Nat × Nat) (v : ℝ) : Prop := ∃ y, finQ (Fp.fp32.decode r.1) = some y ∧ |(y : ℝ) - v| ≤ 201 / 100 * unitAt v

theorem unitAt_le_add (a v : ℝ) : unitAt a ≤ unitAt v + 2 ^ (-23 : Int) * |a - v| := by
  have h1 : |a| ≤ |v| + |a - v| := by
    have := abs_add_le v (a - v)
    rwa [add_sub_cancel] at this
  have h0 : (0 : ℝ) ≤ 2 ^ (-23 : Int) * |a - v| := by positivity
  rw [unitAt, unitAt]
  refine max_le ?_ ?_
  · calc (2 : ℝ) ^ (-23 : Int) * |a| ≤ 2 ^ (-23 : Int) * |v| + 2 ^ (-23 : Int) * |a - v| := by rw [← mul_add]; gcongr
      _ ≤ _ := by gcongr; exact le_max_left _ _
  · exact (le_max_right _ _).trans (le_add_of_nonneg_right h0)

/-- What rounds to the nearest a value within a hundredth of a unit of `v` is near it. -/
theorem near_of_rounded {r : Nat × Nat} {w : ℚ} {v : ℝ} (hw : w ≠ 0) (hr : finQ (Fp.fp32.decode r.1) = some (onGrid .fp32 .rn w))
    (hv : |(w : ℝ) - v| ≤ unitAt v) : Near r v := by
  refine ⟨_, hr, ?_⟩
  have h1 : |((onGrid .fp32 .rn w : ℚ) : ℝ) - w| ≤ 1 / 2 * 2 ^ gridExp .fp32 w := by
    simpa using abs_sub_le_cast (abs_onGrid_rn_sub .fp32 w)
  have h2 := two_zpow_gridExp_le hw
  have h3 := unitAt_le_add w v
  have h4 := abs_sub_le ((onGrid .fp32 .rn w : ℚ) : ℝ) w v
  have h5 : (2 : ℝ) ^ (-23 : Int) * |(w : ℝ) - v| ≤ 2 ^ (-23 : Int) * unitAt v := by gcongr
  have h6 : (2 : ℝ) ^ (-23 : Int) * unitAt v ≤ 1 / 200 * unitAt v := by have := unitAt_pos v; gcongr; norm_num
  have h7 := unitAt_pos v
  generalize unitAt v = U at *
  generalize (2 : ℝ) ^ (-23 : Int) = E at *
  linarith

/-- So is a candidate within two units of a close approximation. -/
theorem near_of_within {r : Nat × Nat} {a : Approx} {u : Int} {v : ℝ} (hr : within (Fp.fp32.decode r.1) a 2 u = true)
    (hu : (2 : ℝ) ^ u ≤ unitAt a.q) (hv : |((a.q : ℚ) : ℝ) - v| ≤ 1 / 200 * unitAt v) : Near r v := by
  obtain ⟨y, hy, hd⟩ := within_spec hr
  refine ⟨y, hy, ?_⟩
  have h1 : |(y : ℝ) - (a.q : ℚ)| ≤ 2 * 2 ^ u := by simpa using abs_sub_le_cast hd
  have h3 := unitAt_le_add (a.q : ℚ) v
  have h4 := abs_sub_le (y : ℝ) (a.q : ℚ) v
  have h5 : (2 : ℝ) ^ (-23 : Int) * |((a.q : ℚ) : ℝ) - v| ≤ 2 ^ (-23 : Int) * (1 / 200 * unitAt v) := by gcongr
  have h6 : (2 : ℝ) ^ (-23 : Int) * unitAt v ≤ 1 / 200 * unitAt v := by have := unitAt_pos v; gcongr; norm_num
  have h7 := unitAt_pos v
  generalize unitAt v = U at *
  generalize (2 : ℝ) ^ (-23 : Int) = E at *
  linarith

/-- What `bounded` gives, when it does not overflow, is near a value that its approximation is close to. -/
theorem near_of_bounded (fn : Nat) (w : Word) {a : Approx} (hf : a.Fine) {u : Int} {v : ℝ} (hu : (2 : ℝ) ^ u ≤ unitAt a.q)
    (hx : (2 : ℝ) ^ a.x ≤ unitAt v) (hv : |((a.q : ℚ) : ℝ) - v| ≤ 1 / 200 * unitAt v) :
    let r := bounded fn w false a fun c => within c a 2 u
    r.2.testBit 2 = false → Near r v := by
  intro r hof
  obtain ⟨-, ⟨hr, -⟩ | ⟨-, -, hr | hr⟩⟩ := bounded_spec fn w hf fun c => within c a 2 u
  · rw [show r = _ from hr] at hof
    exact absurd hof (show ¬Nat.testBit 20 2 = false by decide)
  · refine near_of_rounded (mid_ne_zero a) hr ?_
    have h1 : |((a.mid : ℚ) : ℝ) - (a.q : ℚ)| ≤ 1 / 2 * 2 ^ a.x := by
      simpa using abs_sub_le_cast (abs_mid_sub a).le
    have h2 := abs_sub_le ((a.mid : ℚ) : ℝ) (a.q : ℚ) v
    linarith [unitAt_pos v]
  · exact near_of_within hr hu hv

/-- An approximation in range does not overflow. -/
theorem bounded_no_overflow (fn : Nat) (w : Word) {a : Approx} (hf : a.Fine) (ok : Fv → Bool) (h : |a.mid| ≤ 2 ^ (127 : Int)) :
    (bounded fn w false a ok).2.testBit 2 = false := by
  obtain ⟨-, ⟨-, htop⟩ | ⟨h2, -⟩⟩ := bounded_spec fn w hf ok
  · rw [topQ_fp32] at htop
    exact absurd (htop.trans_le h) (by norm_num)
  · exact h2

end Sys2Proof.Machine
end

section
/-! Fixed point: the series of the exponential, of the logarithm and of the sine and cosine, and what they are short of. -/

namespace Sys2Proof.Machine

open Sys2Proof.Claims Finset

/-! Arithmetic in fixed point, in units of 1/2^280. -/

/-- One, as a real. -/
noncomputable def fxUnit : ℝ := 2 ^ 280

theorem cast_fxOne : ((fxOne : Int) : ℝ) = fxUnit := by
  simp only [fxOne, fxBits, fxUnit, Int.cast_pow, Int.cast_ofNat]

theorem fxUnit_pos : 0 < fxUnit := by rw [fxUnit]; positivity

/-- Errors of a thousand units are far below the bound kept here. -/
theorem thousand_le : (1000 : ℝ) ≤ fxUnit / 2 ^ 200 := by
  have h : fxUnit = 2 ^ 80 * 2 ^ 200 := by rw [fxUnit, ← pow_add]
  rw [h, mul_div_cancel_right₀ _ (by positivity)]
  norm_num

theorem fxOne_pos : 0 < fxOne := by
  have : (0 : ℝ) < (fxOne : Int) := cast_fxOne ▸ fxUnit_pos
  exact_mod_cast this

/-- A floored quotient is short of the quotient by less than 1. -/
theorem fdiv_bounds (a : Int) {b : Int} (hb : 0 < b) : ((a.fdiv b : Int) : ℝ) ≤ a / b ∧ (a : ℝ) / b < (a.fdiv b : Int) + 1 := by
  have hb' : (0 : ℝ) < b := by exact_mod_cast hb
  rw [Int.fdiv_eq_ediv_of_nonneg a hb.le, le_div_iff₀ hb', div_lt_iff₀ hb']
  exact ⟨by exact_mod_cast Int.ediv_mul_le a hb.ne', by exact_mod_cast Int.lt_ediv_add_one_mul_self a hb⟩

theorem abs_fdiv_sub (a : Int) {b : Int} (hb : 0 < b) : |((a.fdiv b : Int) : ℝ) - a / b| ≤ 1 := by
  obtain ⟨h1, h2⟩ := fdiv_bounds a hb
  rw [abs_le]; constructor <;> linarith

theorem fdiv_nonneg_of {a b : Int} (ha : 0 ≤ a) (hb : 0 ≤ b) : 0 ≤ a.fdiv b := by
  rw [Int.fdiv_eq_ediv_of_nonneg a hb]; exact Int.ediv_nonneg ha hb

theorem fxMul_bounds (a b : Int) : ((fxMul a b : Int) : ℝ) ≤ a * b / fxUnit ∧ (a * b : ℝ) / fxUnit < (fxMul a b : Int) + 1 := by
  have := fdiv_bounds (a * b) fxOne_pos
  rw [cast_fxOne] at this
  push_cast at this
  exact this

theorem abs_fxMul_sub (a b : Int) : |((fxMul a b : Int) : ℝ) - a * b / fxUnit| ≤ 1 := by
  obtain ⟨h1, h2⟩ := fxMul_bounds a b
  rw [abs_le]; constructor <;> linarith

theorem fxMul_nonneg {a b : Int} (ha : 0 ≤ a) (hb : 0 ≤ b) : 0 ≤ fxMul a b := fdiv_nonneg_of (Int.mul_nonneg ha hb) fxOne_pos.le

/-- Errors of a product's floored quotient: that of the product, and 1. -/
theorem abs_fdiv_fxMul_sub (t y : Int) {d : Nat} (hd : 0 < d) :
    |(((fxMul t y).fdiv d : Int) : ℝ) - t * (y / fxUnit) / d| ≤ 1 / d + 1 := by
  have hd' : (0 : ℝ) < d := by exact_mod_cast hd
  have h1 := abs_fdiv_sub (fxMul t y) (b := d) (by exact_mod_cast hd)
  have h2 : |((fxMul t y : Int) : ℝ) / (d : Int) - t * (y / fxUnit) / d| ≤ 1 / d := by
    push_cast
    rw [← sub_div, abs_div, abs_of_pos hd', ← mul_div_assoc]
    gcongr
    exact abs_fxMul_sub t y
  have := abs_sub_le (((fxMul t y).fdiv d : Int) : ℝ) (((fxMul t y : Int) : ℝ) / (d : Int)) (t * (y / fxUnit) / d)
  linarith

/-! The exponential. -/

/-- The terms of the series of e^Y, added in fixed point. -/
theorem expSeries_near {y : Int} {Y : ℝ} (hY : (y : ℝ) / fxUnit = Y) (h0 : 0 ≤ Y) (h1 : Y ≤ 7 / 10) (n k : Nat) (t : Int)
    (ht : |(t : ℝ) - fxUnit * (Y ^ k / k.factorial)| ≤ 7) :
    |((expSeries y n k t : Int) : ℝ) - fxUnit * ∑ j ∈ range (n + 1), Y ^ (k + j) / (k + j).factorial| ≤ 7 * (n + 1) := by
  induction n generalizing k t with
  | zero => simpa [expSeries] using ht
  | succ n ih =>
    have hk : (0 : ℝ) < ((k + 1 : Nat) : ℝ) := by positivity
    have hk1 : 1 / ((k + 1 : Nat) : ℝ) ≤ 1 := (div_le_one hk).2 (by exact_mod_cast Nat.le_add_left 1 k)
    have hnext : |(((fxMul t y).fdiv (k + 1 : Nat) : Int) : ℝ) - fxUnit * (Y ^ (k + 1) / (k + 1).factorial)| ≤ 7 := by
      have h2 := abs_fdiv_fxMul_sub t y (d := k + 1) (Nat.succ_pos k)
      have h3 : |(t : ℝ) * (y / fxUnit) / (k + 1 : Nat) - fxUnit * (Y ^ (k + 1) / (k + 1).factorial)| ≤ 7 * (7 / 10) := by
        have he : (t : ℝ) * (y / fxUnit) / (k + 1 : Nat) - fxUnit * (Y ^ (k + 1) / (k + 1).factorial) =
            (t - fxUnit * (Y ^ k / k.factorial)) * (Y * (1 / (k + 1 : Nat))) := by
          rw [hY, Nat.factorial_succ, pow_succ]
          push_cast
          field_simp
        rw [he, abs_mul, abs_of_nonneg (a := Y * (1 / ((k + 1 : Nat) : ℝ))) (by positivity)]
        have : Y * (1 / ((k + 1 : Nat) : ℝ)) ≤ 7 / 10 * 1 := by gcongr
        have h7 : Y * (1 / ((k + 1 : Nat) : ℝ)) ≤ 7 / 10 := by linarith
        gcongr
      have := abs_sub_le (((fxMul t y).fdiv (k + 1 : Nat) : Int) : ℝ) ((t : ℝ) * (y / fxUnit) / (k + 1 : Nat))
        (fxUnit * (Y ^ (k + 1) / (k + 1).factorial))
      linarith
    have hrec := ih (k + 1) _ hnext
    have hsum : ∑ j ∈ range (n + 1 + 1), Y ^ (k + j) / (k + j).factorial =
        (∑ j ∈ range (n + 1), Y ^ (k + 1 + j) / (k + 1 + j).factorial) + Y ^ k / k.factorial := by
      rw [Finset.sum_range_succ']
      simp only [add_zero]
      congr 1
      exact Finset.sum_congr rfl fun j _ => by rw [show k + (j + 1) = k + 1 + j by omega]
    have hs : expSeries y (n + 1) k t = t + expSeries y n (k + 1) ((fxMul t y).fdiv (k + 1 : Nat)) := by
      rw [expSeries]; push_cast; rfl
    rw [hs, hsum]
    push_cast at hrec ⊢
    rw [mul_add]
    calc _ = |(((expSeries y n (k + 1) ((fxMul t y).fdiv (k + 1)) : Int) : ℝ) -
            fxUnit * ∑ j ∈ range (n + 1), Y ^ (k + 1 + j) / (k + 1 + j).factorial) +
            (t - fxUnit * (Y ^ k / k.factorial))| := by congr 1; ring
      _ ≤ _ := abs_add_le _ _
      _ ≤ 7 * (n + 1) + 7 := add_le_add hrec ht
      _ = 7 * (n + 1 + 1) := by ring

/-- e^Y in fixed point. -/
theorem expSeries_exp {y : Int} {Y : ℝ} (hY : (y : ℝ) / fxUnit = Y) (h0 : 0 ≤ Y) (h1 : Y ≤ 7 / 10) :
    |((expSeries y 60 0 fxOne : Int) : ℝ) - fxUnit * Real.exp Y| ≤ 2 * (fxUnit / 2 ^ 200) := by
  have hs := expSeries_near hY h0 h1 60 0 fxOne (by rw [cast_fxOne]; simp)
  simp only [zero_add] at hs
  have ht := Real.exp_bound (x := Y) (by rw [abs_of_nonneg h0]; linarith) (n := 61) (by norm_num)
  have ht' : |fxUnit * (∑ m ∈ range 61, Y ^ m / m.factorial) - fxUnit * Real.exp Y| ≤ fxUnit / 2 ^ 200 := by
    rw [div_eq_mul_one_div]
    rw [← mul_sub, abs_mul, abs_of_pos fxUnit_pos, abs_sub_comm]
    refine mul_le_mul_of_nonneg_left (ht.trans ?_) fxUnit_pos.le
    have hpow : |Y| ^ 61 ≤ 1 := pow_le_one₀ (abs_nonneg _) (by rw [abs_of_nonneg h0]; linarith)
    refine (mul_le_mul_of_nonneg_right hpow (by positivity)).trans ?_
    norm_num [Nat.factorial]
  have := abs_sub_le ((expSeries y 60 0 fxOne : Int) : ℝ) (fxUnit * ∑ m ∈ range 61, Y ^ m / m.factorial) (fxUnit * Real.exp Y)
  have hbig := thousand_le
  push_cast at hs
  linarith

theorem le_expSeries {y : Int} (hy : 0 ≤ y) (n k : Nat) {t : Int} (ht : 0 ≤ t) : t ≤ expSeries y n k t := by
  induction n generalizing k t with
  | zero => exact le_rfl
  | succ n ih =>
    have h := fdiv_nonneg_of (fxMul_nonneg ht hy) (show (0 : Int) ≤ (k + 1) by positivity)
    rw [expSeries]
    linarith [ih (k + 1) h]

/-! The logarithm. -/

/-- The terms of the series of atanh Z, added in fixed point; `W` is the square of Z as computed. -/
theorem atanhSeries_near {z2 : Int} {Z W : ℝ} (hW : (z2 : ℝ) / fxUnit = W) (hW0 : 0 ≤ W) (hZ0 : 0 ≤ Z) (hZ : Z ≤ 1 / 3)
    (hWZ : |W - Z ^ 2| ≤ 1 / fxUnit) (hW1 : W ≤ 1 / 9) (n k : Nat) (p : Int) (hp : |(p : ℝ) - fxUnit * Z ^ (2 * k + 1)| ≤ 2) :
    |((atanhSeries z2 n k p : Int) : ℝ) - fxUnit * ∑ j ∈ range n, Z ^ (2 * (k + j) + 1) / (2 * ((k + j : Nat) : ℝ) + 1)| ≤ 3 * n := by
  induction n generalizing k p with
  | zero => simp [atanhSeries]
  | succ n ih =>
    have hU := fxUnit_pos
    have hnext : |((fxMul p z2 : Int) : ℝ) - fxUnit * Z ^ (2 * (k + 1) + 1)| ≤ 2 := by
      have h2 := abs_fxMul_sub p z2
      have he : (p : ℝ) * z2 / fxUnit - fxUnit * Z ^ (2 * (k + 1) + 1) =
          (p - fxUnit * Z ^ (2 * k + 1)) * W + fxUnit * Z ^ (2 * k + 1) * (W - Z ^ 2) := by
        rw [← hW]; field_simp; ring
      have h3 : |(p - fxUnit * Z ^ (2 * k + 1)) * W| ≤ 2 * (1 / 9) := by
        rw [abs_mul, abs_of_nonneg hW0]; gcongr
      have h4 : |fxUnit * Z ^ (2 * k + 1) * (W - Z ^ 2)| ≤ 1 / 3 := by
        have hpow : Z ^ (2 * k + 1) ≤ 1 / 3 := by
          rw [pow_succ]
          exact (mul_le_of_le_one_left hZ0 (pow_le_one₀ hZ0 (by linarith))).trans hZ
        rw [abs_mul, abs_of_nonneg (mul_nonneg hU.le (pow_nonneg hZ0 _))]
        calc fxUnit * Z ^ (2 * k + 1) * |W - Z ^ 2| ≤ fxUnit * (1 / 3) * (1 / fxUnit) := by gcongr
          _ = 1 / 3 := by field_simp
      have h5 := abs_add_le ((p - fxUnit * Z ^ (2 * k + 1)) * W) (fxUnit * Z ^ (2 * k + 1) * (W - Z ^ 2))
      have h6 := abs_sub_le ((fxMul p z2 : Int) : ℝ) ((p : ℝ) * z2 / fxUnit) (fxUnit * Z ^ (2 * (k + 1) + 1))
      rw [← he] at h5
      linarith
    have hrec := ih (k + 1) _ hnext
    have hd1 : (1 : ℝ) ≤ 2 * (k : ℝ) + 1 := by linarith [Nat.cast_nonneg (α := ℝ) k]
    have hterm : |((p.fdiv (2 * k + 1) : Int) : ℝ) - fxUnit * (Z ^ (2 * k + 1) / (2 * (k : ℝ) + 1))| ≤ 3 := by
      have h2 := abs_fdiv_sub p (b := 2 * k + 1) (by positivity)
      have he : (p : ℝ) / (2 * (k : ℝ) + 1) - fxUnit * (Z ^ (2 * k + 1) / (2 * (k : ℝ) + 1)) =
          (p - fxUnit * Z ^ (2 * k + 1)) / (2 * (k : ℝ) + 1) := by ring
      have h3 : |(p : ℝ) / (2 * (k : ℝ) + 1) - fxUnit * (Z ^ (2 * k + 1) / (2 * (k : ℝ) + 1))| ≤ 2 := by
        rw [he, abs_div, abs_of_pos (by linarith : (0 : ℝ) < 2 * (k : ℝ) + 1)]
        exact (div_le_self (abs_nonneg _) hd1).trans hp
      push_cast at h2
      have := abs_sub_le ((p.fdiv (2 * k + 1) : Int) : ℝ) ((p : ℝ) / (2 * (k : ℝ) + 1))
        (fxUnit * (Z ^ (2 * k + 1) / (2 * (k : ℝ) + 1)))
      linarith
    have hsum : ∑ j ∈ range (n + 1), Z ^ (2 * (k + j) + 1) / (2 * ((k + j : Nat) : ℝ) + 1) =
        (∑ j ∈ range n, Z ^ (2 * (k + 1 + j) + 1) / (2 * ((k + 1 + j : Nat) : ℝ) + 1)) + Z ^ (2 * k + 1) / (2 * (k : ℝ) + 1) := by
      rw [Finset.sum_range_succ']
      simp only [add_zero]
      congr 1
      exact Finset.sum_congr rfl fun j _ => by rw [show k + (j + 1) = k + 1 + j by omega]
    rw [atanhSeries, hsum, mul_add]
    push_cast at hrec ⊢
    calc _ = |(((atanhSeries z2 n (k + 1) (fxMul p z2) : Int) : ℝ) -
            fxUnit * ∑ j ∈ range n, Z ^ (2 * (k + 1 + j) + 1) / (2 * ((k : ℝ) + 1 + j) + 1)) +
            (((p.fdiv (2 * k + 1) : Int) : ℝ) - fxUnit * (Z ^ (2 * k + 1) / (2 * (k : ℝ) + 1)))| := by congr 1; ring
      _ ≤ _ := abs_add_le _ _
      _ ≤ 3 * n + 3 := add_le_add hrec hterm
      _ = 3 * (n + 1) := by ring

/-- The logarithm of (1 + Z) / (1 - Z) in fixed point. -/
theorem atanhSeries_log {z : Int} {Z : ℝ} (hz : (z : ℝ) / fxUnit = Z) (hZ0 : 0 ≤ Z) (hZ : Z ≤ 1 / 3) :
    |((2 * atanhSeries (fxMul z z) 110 0 z : Int) : ℝ) - fxUnit * Real.log ((1 + Z) / (1 - Z))| ≤ 4 * (fxUnit / 2 ^ 200) := by
  have hU := fxUnit_pos
  have hzZ : (z : ℝ) = Z * fxUnit := by rw [← hz, div_mul_cancel₀ _ hU.ne']
  have hzz : (z : ℝ) * z / fxUnit / fxUnit = Z ^ 2 := by rw [hzZ]; field_simp
  obtain ⟨hm1, hm2⟩ := fxMul_bounds z z
  have hW1 : ((fxMul z z : Int) : ℝ) / fxUnit ≤ Z ^ 2 := by rw [← hzz]; gcongr
  have hz0 : 0 ≤ z := by
    have : (0 : ℝ) ≤ z := by rw [hzZ]; positivity
    exact_mod_cast this
  have hW0 : (0 : ℝ) ≤ ((fxMul z z : Int) : ℝ) / fxUnit := div_nonneg (by exact_mod_cast fxMul_nonneg hz0 hz0) hU.le
  have hWZ : |((fxMul z z : Int) : ℝ) / fxUnit - Z ^ 2| ≤ 1 / fxUnit := by
    rw [← hzz, ← sub_div, abs_div, abs_of_pos hU]
    gcongr
    exact abs_fxMul_sub z z
  have hZ2 : Z ^ 2 ≤ 1 / 9 := by nlinarith
  have hs := atanhSeries_near rfl hW0 hZ0 hZ hWZ (hW1.trans hZ2) 110 0 z (by rw [hzZ]; simp [mul_comm])
  simp only [zero_add] at hs
  have hlo := Real.sum_range_le_log_div hZ0 (by linarith) 110
  have hhi := Real.log_div_le_sum_range_add hZ0 (by linarith) 110
  have htail : Z ^ (2 * 110 + 1) / (1 - Z ^ 2) ≤ 1 / 2 ^ 200 := by
    have h1 : Z ^ (2 * 110 + 1) ≤ (1 / 3) ^ (2 * 110 + 1) := by gcongr
    have h2 : (0 : ℝ) < 8 / 9 := by norm_num
    calc Z ^ (2 * 110 + 1) / (1 - Z ^ 2) ≤ (1 / 3) ^ (2 * 110 + 1) / (8 / 9) := by gcongr; linarith
      _ ≤ 1 / 2 ^ 200 := by norm_num
  have hbig := thousand_le
  have ht : |fxUnit * (∑ i ∈ range 110, Z ^ (2 * i + 1) / (2 * (i : ℝ) + 1)) -
      fxUnit * (1 / 2 * Real.log ((1 + Z) / (1 - Z)))| ≤ fxUnit / 2 ^ 200 := by
    rw [← mul_sub, abs_mul, abs_of_pos hU, abs_of_nonpos (by linarith)]
    rw [div_eq_mul_one_div fxUnit]
    gcongr
    linarith
  have := abs_sub_le ((atanhSeries (fxMul z z) 110 0 z : Int) : ℝ)
    (fxUnit * ∑ i ∈ range 110, Z ^ (2 * i + 1) / (2 * (i : ℝ) + 1)) (fxUnit * (1 / 2 * Real.log ((1 + Z) / (1 - Z))))
  push_cast at hs ⊢
  calc _ = |2 * (((atanhSeries (fxMul z z) 110 0 z : Int) : ℝ) - fxUnit * (1 / 2 * Real.log ((1 + Z) / (1 - Z))))| := by congr 1; ring
    _ = 2 * |((atanhSeries (fxMul z z) 110 0 z : Int) : ℝ) - fxUnit * (1 / 2 * Real.log ((1 + Z) / (1 - Z)))| := by
      rw [abs_mul, abs_two]
    _ ≤ 4 * (fxUnit / 2 ^ 200) := by linarith

/-- ln 2, as a real. -/
noncomputable def fxLog : ℝ := (fxLn2 : Int) / fxUnit

/-- The constant ln 2 is that of the machine to 100 bits and more. -/
theorem abs_fxLog_sub : |fxLog - Real.log 2| ≤ 1 / 2 ^ 100 := by
  have h3 : ((1 : ℝ) + 1 / 3) / (1 - 1 / 3) = 2 := by norm_num
  have hlo := Real.sum_range_le_log_div (x := 1 / 3) (by norm_num) (by norm_num) 32
  have hhi := Real.log_div_le_sum_range_add (x := 1 / 3) (by norm_num) (by norm_num) 32
  rw [h3] at hlo hhi
  have hv : fxLog = 1013035739299659071135698605846798551586536899366 / 2 ^ 160 := by
    rw [fxLog, fxLn2, ln2Bits, fxUnit, show (2 : ℝ) ^ 280 = 2 ^ 160 * 2 ^ 120 by rw [← pow_add], Int.cast_mul,
      Int.cast_pow, Int.cast_ofNat, Int.cast_ofNat, mul_div_mul_right _ _ (by positivity)]
  rw [hv, abs_le]
  norm_num [Finset.sum_range_succ] at hlo hhi ⊢
  constructor <;> linarith

theorem fxLog_bounds : 69 / 100 < fxLog ∧ fxLog < 7 / 10 := by
  obtain ⟨h1, h2⟩ := abs_le.1 abs_fxLog_sub
  have := Real.log_two_gt_d9
  have := Real.log_two_lt_d9
  norm_num at h1 h2
  constructor <;> linarith

/-! The sine and the cosine. -/

/-- The terms of the alternating series from R^d / d! on, added in fixed point; `W` is the square of R as computed. The first
term of the cosine is exact. -/
theorem trigSeries_near {y2 : Int} {R W : ℝ} (hW : (y2 : ℝ) / fxUnit = W) (hW0 : 0 ≤ W) (hR0 : 0 ≤ R) (hR : R ≤ 8 / 5)
    (hWR : |W - R ^ 2| ≤ 1 / fxUnit) (hW1 : W ≤ R ^ 2) (n d : Nat) (s : ℝ) (hs : |s| = 1) (t : Int)
    (ht : |(t : ℝ) - fxUnit * (s * (R ^ d / d.factorial))| ≤ 4) (h0 : d = 0 → (t : ℝ) = fxUnit * (s * (R ^ d / d.factorial))) :
    |((trigSeries y2 n d t : Int) : ℝ) - fxUnit * ∑ j ∈ range n, s * (-1) ^ j * (R ^ (d + 2 * j) / (d + 2 * j).factorial)| ≤
      4 * n := by
  induction n generalizing d s t with
  | zero => simp [trigSeries]
  | succ n ih =>
    have hU := fxUnit_pos
    set T : ℝ := s * (R ^ d / d.factorial) with hT
    have hTabs : |T| ≤ 5 := by
      have h1 : R ^ d / d.factorial ≤ Real.exp R := Real.pow_div_factorial_le_exp R hR0 d
      have h2 : Real.exp R ≤ 5 := by
        have : Real.exp R ≤ Real.exp 1 ^ 2 * (Real.exp (2 / 5))⁻¹ := by
          rw [← Real.exp_neg, ← Real.exp_nat_mul, ← Real.exp_add]
          exact Real.exp_le_exp.2 (by push_cast; linarith)
        have he := Real.exp_one_lt_d9
        have he0 := Real.exp_pos 1
        have h25 : (1 + 2 / 5 + 2 / 25 : ℝ) ≤ Real.exp (2 / 5) := by
          have := Real.quadratic_le_exp_of_nonneg (x := 2 / 5) (by norm_num)
          norm_num at this ⊢
          linarith
        refine this.trans ?_
        rw [← div_eq_mul_inv, div_le_iff₀ (Real.exp_pos _)]
        nlinarith
      rw [hT, abs_mul, hs, one_mul, abs_of_nonneg (by positivity)]
      exact h1.trans h2
    -- the next term
    have hD : (0 : ℝ) < (((d + 1) * (d + 2) : Nat) : ℝ) := by positivity
    have hT' : -s * (R ^ (d + 2) / (d + 2).factorial) = -(T * R ^ 2 / ((d + 1) * (d + 2) : Nat)) := by
      rw [hT, show d + 2 = d + 1 + 1 from rfl, Nat.factorial_succ, Nat.factorial_succ, pow_succ, pow_succ]
      push_cast
      field_simp
    have hprod : |(t : ℝ) * W - fxUnit * T * R ^ 2| ≤ |(t : ℝ) - fxUnit * T| * (64 / 25) + 5 := by
      have he : (t : ℝ) * W - fxUnit * T * R ^ 2 = (t - fxUnit * T) * W + fxUnit * T * (W - R ^ 2) := by ring
      have hW2 : W ≤ 64 / 25 := by nlinarith
      have h3 : |fxUnit * T * (W - R ^ 2)| ≤ 5 := by
        rw [abs_mul, abs_mul, abs_of_pos hU]
        calc fxUnit * |T| * |W - R ^ 2| ≤ fxUnit * 5 * (1 / fxUnit) := by gcongr
          _ = 5 := by field_simp
      rw [he]
      refine (abs_add_le _ _).trans (add_le_add ?_ h3)
      rw [abs_mul, abs_of_nonneg hW0]
      gcongr
    have hnext : |((-((fxMul t y2).fdiv ((d + 1) * (d + 2) : Nat)) : Int) : ℝ) -
        fxUnit * (-s * (R ^ (d + 2) / (d + 2).factorial))| ≤ 4 := by
      have h2 := abs_fdiv_fxMul_sub t y2 (d := (d + 1) * (d + 2)) (by positivity)
      rw [hW] at h2
      have h3 : |(t : ℝ) * W / ((d + 1) * (d + 2) : Nat) - fxUnit * T * R ^ 2 / ((d + 1) * (d + 2) : Nat)| ≤
          (|(t : ℝ) - fxUnit * T| * (64 / 25) + 5) / ((d + 1) * (d + 2) : Nat) := by
        rw [← sub_div, abs_div, abs_of_pos hD]
        gcongr
      have h4 : 1 / (((d + 1) * (d + 2) : Nat) : ℝ) + 1 + (|(t : ℝ) - fxUnit * T| * (64 / 25) + 5) / ((d + 1) * (d + 2) : Nat) ≤ 4 := by
        rw [add_right_comm, ← add_div]
        rcases Nat.eq_zero_or_pos d with rfl | hpos
        · rw [h0 rfl]; norm_num
        · have h6 : (6 : ℝ) ≤ ((d + 1) * (d + 2) : Nat) := by
            have : 2 * 3 ≤ (d + 1) * (d + 2) := Nat.mul_le_mul (by omega) (by omega)
            exact_mod_cast this
          have : (1 + (|(t : ℝ) - fxUnit * T| * (64 / 25) + 5)) / ((d + 1) * (d + 2) : Nat) ≤ 3 := by
            rw [div_le_iff₀ hD]; linarith
          linarith
      have h5 := abs_sub_le (((fxMul t y2).fdiv ((d + 1) * (d + 2) : Nat) : Int) : ℝ) ((t : ℝ) * W / ((d + 1) * (d + 2) : Nat))
        (fxUnit * T * R ^ 2 / ((d + 1) * (d + 2) : Nat))
      rw [hT', Int.cast_neg, mul_neg, ← neg_sub', abs_neg, ← mul_div_assoc, ← mul_assoc]
      linarith
    have hrec := ih (d + 2) (-s) (by rw [abs_neg, hs]) _ hnext (fun h => absurd h (by omega))
    have hsum : ∑ j ∈ range (n + 1), s * (-1) ^ j * (R ^ (d + 2 * j) / (d + 2 * j).factorial) =
        (∑ j ∈ range n, -s * (-1) ^ j * (R ^ (d + 2 + 2 * j) / (d + 2 + 2 * j).factorial)) + T := by
      rw [Finset.sum_range_succ']
      simp only [mul_zero, add_zero, pow_zero, mul_one, hT]
      congr 1
      exact Finset.sum_congr rfl fun j _ => by rw [show d + 2 * (j + 1) = d + 2 + 2 * j by ring, pow_succ]; ring
    have hser : trigSeries y2 (n + 1) d t = t + trigSeries y2 n (d + 2) (-((fxMul t y2).fdiv ((d + 1) * (d + 2) : Nat))) := by
      rw [trigSeries]; push_cast; rfl
    rw [hser, hsum, mul_add, Int.cast_add]
    calc _ = |(((trigSeries y2 n (d + 2) (-((fxMul t y2).fdiv ((d + 1) * (d + 2) : Nat))) : Int) : ℝ) -
            fxUnit * ∑ j ∈ range n, -s * (-1) ^ j * (R ^ (d + 2 + 2 * j) / (d + 2 + 2 * j).factorial)) +
            (t - fxUnit * T)| := by congr 1; ring_nf
      _ ≤ _ := abs_add_le _ _
      _ ≤ 4 * n + 4 := add_le_add hrec ht
      _ = 4 * (n + 1 : Nat) := by push_cast; ring

/-- The first 2n terms of e^(iR): those of the cosine and of the sine. -/
theorem sum_exp_mul_I (R : ℝ) (n : Nat) :
    ∑ m ∈ range (2 * n), ((R : ℂ) * Complex.I) ^ m / m.factorial =
      ((∑ j ∈ range n, (-1) ^ j * (R ^ (2 * j) / (2 * j).factorial) : ℝ) : ℂ) +
        ((∑ j ∈ range n, (-1) ^ j * (R ^ (1 + 2 * j) / (1 + 2 * j).factorial) : ℝ) : ℂ) * Complex.I := by
  induction n with
  | zero => simp
  | succ n ih =>
    have hI : Complex.I ^ (2 * n) = (-1) ^ n := by rw [pow_mul, Complex.I_sq]
    rw [show 2 * (n + 1) = 2 * n + 1 + 1 by ring, Finset.sum_range_succ, Finset.sum_range_succ, ih, Finset.sum_range_succ,
      Finset.sum_range_succ, add_comm 1 (2 * n)]
    push_cast
    rw [mul_pow, mul_pow, pow_succ Complex.I, hI]
    ring

/-- The partial sums of cosine and sine. -/
theorem abs_trig_sum_sub {R : ℝ} (hR0 : 0 ≤ R) (hR : R ≤ 8 / 5) :
    |(∑ j ∈ range 50, (-1) ^ j * (R ^ (2 * j) / (2 * j).factorial)) - Real.cos R| ≤ 1 / 2 ^ 200 ∧
      |(∑ j ∈ range 50, (-1) ^ j * (R ^ (1 + 2 * j) / (1 + 2 * j).factorial)) - Real.sin R| ≤ 1 / 2 ^ 200 := by
  have hnorm : ‖(R : ℂ) * Complex.I‖ = R := by rw [norm_mul, Complex.norm_I, mul_one, Complex.norm_real, Real.norm_of_nonneg hR0]
  have hb := Complex.exp_bound' (x := (R : ℂ) * Complex.I) (n := 2 * 50) (by
    rw [hnorm, div_le_iff₀ (by positivity)]
    push_cast
    linarith)
  rw [sum_exp_mul_I, Complex.exp_mul_I, hnorm] at hb
  have hsmall : R ^ (2 * 50) / (2 * 50 : Nat).factorial * 2 ≤ 1 / 2 ^ 200 := by
    have h1 : R ^ (2 * 50) ≤ (8 / 5) ^ (2 * 50) := by gcongr
    refine (mul_le_mul_of_nonneg_right (div_le_div_of_nonneg_right h1 (by positivity)) zero_le_two).trans ?_
    norm_num [Nat.factorial]
  have hb := hb.trans hsmall
  generalize (∑ j ∈ range 50, (-1) ^ j * (R ^ (2 * j) / (2 * j).factorial) : ℝ) = c at hb ⊢
  generalize (∑ j ∈ range 50, (-1) ^ j * (R ^ (1 + 2 * j) / (1 + 2 * j).factorial) : ℝ) = s at hb ⊢
  have hd : Complex.cos R + Complex.sin R * Complex.I - (c + s * Complex.I) =
      ((Real.cos R - c : ℝ) : ℂ) + ((Real.sin R - s : ℝ) : ℂ) * Complex.I := by push_cast; ring
  rw [hd] at hb
  have hre := (Complex.abs_re_le_norm _).trans hb
  have him := (Complex.abs_im_le_norm _).trans hb
  simp only [Complex.add_re, Complex.add_im, Complex.mul_re, Complex.mul_im, Complex.ofReal_re, Complex.ofReal_im, Complex.I_re,
    Complex.I_im, mul_zero, mul_one, sub_zero, add_zero, zero_add] at hre him
  rw [abs_sub_comm c, abs_sub_comm s]
  exact ⟨hre, him⟩

end Sys2Proof.Machine
end

section
/-! What the approximations of the transcendental forms are short of the exact values. -/

namespace Sys2Proof.Machine

open Sys2Proof.Claims

theorem two_pow_200_le : (2 : ℝ) ^ 200 ≤ fxUnit := by
  have h := thousand_le
  rw [le_div_iff₀ (by positivity)] at h
  have : (0 : ℝ) < 2 ^ 200 := by positivity
  linarith

theorem cast_fxOf (m : Nat) {x : Int} (hx : -280 ≤ x) : ((fxOf m x : Int) : ℝ) = m * 2 ^ x * fxUnit := by
  obtain ⟨d, hd⟩ := Int.eq_ofNat_of_zero_le (show 0 ≤ x + 280 by omega)
  have hf : fxOf m x = m * 2 ^ d := by
    have h0 : x + (fxBits : Int) = d := hd
    rw [fxOf, if_pos (by rw [h0]; positivity), h0, Int.toNat_natCast]
  have hp : (2 : ℝ) ^ x * fxUnit = 2 ^ d := by
    rw [fxUnit, ← zpow_natCast, ← zpow_add₀ two_ne_zero, ← zpow_natCast]
    congr 1
  rw [hf, mul_assoc, hp]
  push_cast
  rfl

theorem approx_q_cast (a : Approx) : ((a.q : ℚ) : ℝ) = a.v * 2 ^ a.x := by rw [Approx.q]; push_cast; rfl

theorem two_zpow_sub_280 (n : Int) : (2 : ℝ) ^ (n - 280) = 2 ^ n / fxUnit := by
  rw [zpow_sub₀ two_ne_zero, fxUnit]; rfl

/-- What `fxBits` fraction bits make of a value that they know up to a share of a unit. -/
theorem abs_approx_q_sub {a : Approx} (hx : a.x = -280) {v c : ℝ} (h : |(a.v : ℝ) - fxUnit * v| ≤ fxUnit * c) :
    |((a.q : ℚ) : ℝ) - v| ≤ c := by
  have hU := fxUnit_pos
  have hz := two_zpow_sub_280 0
  rw [zero_sub, zpow_zero] at hz
  have he : (a.v : ℝ) * (1 / fxUnit) - v = (a.v - fxUnit * v) / fxUnit := by field_simp
  rw [approx_q_cast, hx, hz, he, abs_div, abs_of_pos hU, div_le_iff₀ hU, mul_comm c]
  exact h

/-! The power of two. -/

/-- 2 to a fraction, in fixed point. -/
theorem expSeries_two_rpow {f : Int} (h0 : 0 ≤ f) (h1 : f < fxOne) :
    |((expSeries (fxMul f fxLn2) 60 0 fxOne : Int) : ℝ) - fxUnit * (2 : ℝ) ^ ((f : ℝ) / fxUnit)| ≤ fxUnit / 2 ^ 60 := by
  have hU := fxUnit_pos
  have hF0 : (0 : ℝ) ≤ f / fxUnit := div_nonneg (by exact_mod_cast h0) hU.le
  have hF1 : (f : ℝ) / fxUnit ≤ 1 := by rw [div_le_one hU, ← cast_fxOne]; exact_mod_cast h1.le
  generalize hF : (f : ℝ) / fxUnit = F at *
  obtain ⟨hm1, hm2⟩ := fxMul_bounds f fxLn2
  have hprod : (f : ℝ) * (fxLn2 : Int) / fxUnit = F * fxLog * fxUnit := by rw [← hF, fxLog]; field_simp
  rw [hprod] at hm1 hm2
  obtain ⟨hl0, hl1⟩ := fxLog_bounds
  have hln : (0 : Int) ≤ fxLn2 := by decide
  generalize hY : ((fxMul f fxLn2 : Int) : ℝ) / fxUnit = Y
  have hYU : ((fxMul f fxLn2 : Int) : ℝ) = Y * fxUnit := by rw [← hY, div_mul_cancel₀ _ hU.ne']
  have hY0 : 0 ≤ Y := by rw [← hY]; exact div_nonneg (by exact_mod_cast fxMul_nonneg h0 hln) hU.le
  rw [hYU] at hm1 hm2
  have hYF : Y ≤ F * fxLog := le_of_mul_le_mul_right hm1 hU
  have hY1 : Y ≤ 7 / 10 := by nlinarith
  -- the exponent is short by little
  have hone : 1 / fxUnit ≤ 1 / 2 ^ 200 := one_div_le_one_div_of_le (by positivity) two_pow_200_le
  have hYF' : F * fxLog - Y ≤ 1 / 2 ^ 200 := by
    refine le_trans ?_ hone
    rw [le_div_iff₀ hU]; linarith
  have hlog : |F * fxLog - F * Real.log 2| ≤ 1 / 2 ^ 100 := by
    rw [← mul_sub, abs_mul, abs_of_nonneg hF0]
    exact (mul_le_of_le_one_left (abs_nonneg _) hF1).trans abs_fxLog_sub
  obtain ⟨hg1, hg2⟩ := abs_le.1 hlog
  have hdiff : |Y - Real.log 2 * F| ≤ 1 / 2 ^ 99 := by
    rw [abs_le]
    norm_num at hg1 hg2 hYF' ⊢
    constructor <;> linarith
  have hexp := Real.abs_exp_sub_one_le (x := Y - Real.log 2 * F) (hdiff.trans (by norm_num))
  have hpow : (2 : ℝ) ^ F = Real.exp (Real.log 2 * F) := Real.rpow_def_of_pos two_pos F
  have hpow2 : (2 : ℝ) ^ F ≤ 2 := by
    calc (2 : ℝ) ^ F ≤ 2 ^ (1 : ℝ) := Real.rpow_le_rpow_of_exponent_le one_le_two hF1
      _ = 2 := Real.rpow_one 2
  have hE : |fxUnit * Real.exp Y - fxUnit * (2 : ℝ) ^ F| ≤ fxUnit * (2 * (2 * (1 / 2 ^ 99))) := by
    have he : fxUnit * Real.exp Y - fxUnit * (2 : ℝ) ^ F = fxUnit * ((2 : ℝ) ^ F * (Real.exp (Y - Real.log 2 * F) - 1)) := by
      rw [mul_sub ((2 : ℝ) ^ F), hpow, ← Real.exp_add, add_sub_cancel]; ring
    rw [he, abs_mul, abs_mul, abs_of_pos hU, abs_of_pos (Real.rpow_pos_of_pos two_pos F)]
    gcongr
    exact hexp.trans (by gcongr)
  have hS := expSeries_exp hY hY0 hY1
  have := abs_sub_le ((expSeries (fxMul f fxLn2) 60 0 fxOne : Int) : ℝ) (fxUnit * Real.exp Y) (fxUnit * (2 : ℝ) ^ F)
  have hend : 2 * (fxUnit / 2 ^ 200) + fxUnit * (2 * (2 * (1 / 2 ^ 99))) ≤ fxUnit / 2 ^ 60 := by
    have he : 2 * (fxUnit / 2 ^ 200) + fxUnit * (2 * (2 * (1 / 2 ^ 99))) = fxUnit * (2 / 2 ^ 200 + 4 / 2 ^ 99) := by ring
    rw [he, div_eq_mul_one_div fxUnit]
    gcongr
    norm_num
  linarith

/-- 2^X: a fraction at the exponent of its integer part. -/
theorem approxExp2_spec (neg : Bool) (m : Nat) {x : Int} (hx : -280 ≤ x) :
    ∃ (n : Int) (F : ℝ), ((dyadic neg m x : ℚ) : ℝ) = n + F ∧ 0 ≤ F ∧ F < 1 ∧ (approxExp2 neg m x).x = n - 280 ∧
      fxOne ≤ (approxExp2 neg m x).v ∧ |((approxExp2 neg m x).v : ℝ) - fxUnit * (2 : ℝ) ^ F| ≤ fxUnit / 2 ^ 60 := by
  have hU := fxUnit_pos
  have hA : (((if neg then -(fxOf m x) else fxOf m x : Int) : Int) : ℝ) = ((dyadic neg m x : ℚ) : ℝ) * fxUnit := by
    rw [dyadic]
    cases neg <;> push_cast [cast_fxOf m hx] <;> simp
  generalize ha : (if neg then -(fxOf m x) else fxOf m x) = A at hA
  have hn : A.fdiv fxOne = A / fxOne := Int.fdiv_eq_ediv_of_nonneg A fxOne_pos.le
  have hf : A - A.fdiv fxOne * fxOne = A % fxOne := by rw [hn]; linarith [Int.ediv_mul_add_emod A fxOne]
  have hap : approxExp2 neg m x = ⟨expSeries (fxMul (A % fxOne) fxLn2) 60 0 fxOne, A.fdiv fxOne - 280⟩ := by
    rw [← hf, ← ha]; rfl
  have h0 : 0 ≤ A % fxOne := Int.emod_nonneg A fxOne_pos.ne'
  have h1 : A % fxOne < fxOne := Int.emod_lt_of_pos A fxOne_pos
  refine ⟨A.fdiv fxOne, ((A % fxOne : Int) : ℝ) / fxUnit, ?_, div_nonneg (by exact_mod_cast h0) hU.le, ?_, by rw [hap], ?_, ?_⟩
  · have : (A : ℝ) = (A.fdiv fxOne : Int) * fxUnit + (A % fxOne : Int) := by
      rw [← cast_fxOne, ← hf]; push_cast; ring
    rw [hA] at this
    field_simp
    linarith
  · rw [div_lt_one hU, ← cast_fxOne]; exact_mod_cast h1
  · rw [hap]; exact le_expSeries (fxMul_nonneg h0 (by decide)) 60 0 fxOne_pos.le
  · rw [hap]; exact expSeries_two_rpow h0 h1

theorem approxExp2_fine (neg : Bool) (m : Nat) {x : Int} (hx : -280 ≤ x) : (approxExp2 neg m x).Fine := by
  obtain ⟨n, F, -, -, -, -, hv, -⟩ := approxExp2_spec neg m hx
  refine .inr ?_
  have h : (2 : ℝ) ^ 24 ≤ (approxExp2 neg m x).v := by
    calc (2 : ℝ) ^ 24 ≤ 2 ^ 200 := pow_le_pow_right₀ one_le_two (by norm_num)
      _ ≤ fxUnit := two_pow_200_le
      _ ≤ (approxExp2 neg m x).v := by rw [← cast_fxOne]; exact_mod_cast hv
  have : (2 : Int) ^ 24 ≤ (approxExp2 neg m x).v := by exact_mod_cast h
  omega

/-- The approximation is close to 2^X, and its unit far below. -/
theorem approxExp2_close (neg : Bool) (m : Nat) {x : Int} (hx : -280 ≤ x) :
    |(((approxExp2 neg m x).q : ℚ) : ℝ) - (2 : ℝ) ^ ((dyadic neg m x : ℚ) : ℝ)| ≤
        1 / 200 * unitAt ((2 : ℝ) ^ ((dyadic neg m x : ℚ) : ℝ)) ∧
      (2 : ℝ) ^ (approxExp2 neg m x).x ≤ unitAt ((2 : ℝ) ^ ((dyadic neg m x : ℚ) : ℝ)) := by
  have hU := fxUnit_pos
  obtain ⟨n, F, hX, hF0, -, hax, -, hv⟩ := approxExp2_spec neg m hx
  have hpow : (2 : ℝ) ^ ((dyadic neg m x : ℚ) : ℝ) = 2 ^ n * 2 ^ F := by
    rw [hX, Real.rpow_add two_pos, Real.rpow_intCast]
  have hF : (1 : ℝ) ≤ 2 ^ F := Real.one_le_rpow one_le_two hF0
  have hn : (0 : ℝ) < 2 ^ n := by positivity
  have hunit : 2 ^ (-23 : Int) * ((2 : ℝ) ^ n * 2 ^ F) ≤ unitAt (2 ^ n * 2 ^ F) := by
    rw [unitAt, abs_of_pos (by positivity)]; exact le_max_left _ _
  have hle : (2 : ℝ) ^ n ≤ 2 ^ n * 2 ^ F := le_mul_of_one_le_right hn.le hF
  rw [hpow, hax, two_zpow_sub_280]
  constructor
  · have he : ((approxExp2 neg m x).v : ℝ) * (2 ^ n / fxUnit) - 2 ^ n * 2 ^ F =
        ((approxExp2 neg m x).v - fxUnit * 2 ^ F) * (2 ^ n / fxUnit) := by field_simp
    rw [approx_q_cast, hax, two_zpow_sub_280, he, abs_mul, abs_of_pos (a := (2 : ℝ) ^ n / fxUnit) (by positivity)]
    calc _ ≤ fxUnit / 2 ^ 60 * (2 ^ n / fxUnit) := by gcongr
      _ = 2 ^ n / 2 ^ 60 := by field_simp
      _ ≤ 1 / 200 * (2 ^ (-23 : Int) * (2 ^ n * 2 ^ F)) := by norm_num; linarith
      _ ≤ _ := by gcongr
  · refine le_trans ?_ hunit
    calc (2 : ℝ) ^ n / fxUnit ≤ 2 ^ n / 2 ^ 200 := by gcongr; exact two_pow_200_le
      _ ≤ 2 ^ (-23 : Int) * (2 ^ n * 2 ^ F) := by norm_num; linarith

/-! The logarithm. -/

/-- A significand within [1, 2). -/
theorem significand_bounds {m : Nat} (hm : m ≠ 0) : (1 : ℝ) ≤ m * 2 ^ (-(Nat.log2 m : Int)) ∧ (m : ℝ) * 2 ^ (-(Nat.log2 m : Int)) < 2 := by
  have h1 : ((2 : ℝ) ^ Nat.log2 m) ≤ m := by exact_mod_cast Nat.log2_self_le hm
  have h2 : (m : ℝ) < 2 ^ (Nat.log2 m + 1) := by exact_mod_cast Nat.lt_log2_self
  rw [zpow_neg, zpow_natCast, ← div_eq_mul_inv, le_div_iff₀ (by positivity), div_lt_iff₀ (by positivity), one_mul, ← pow_succ']
  exact ⟨h1, h2⟩

/-- Z is short of Z0 by less than a unit: so little is log ((1 + Z) / (1 - Z)) short. -/
theorem abs_log_ratio_sub {Z Z0 c : ℝ} (h0 : 0 ≤ Z) (hle : Z ≤ Z0) (h1 : Z0 ≤ 1 / 3) (hc : Z0 - Z ≤ c) :
    |Real.log ((1 + Z) / (1 - Z)) - Real.log ((1 + Z0) / (1 - Z0))| ≤ 5 * c := by
  have hZ : 0 < 1 - Z := by linarith
  have hZ0 : 0 < 1 - Z0 := by linarith
  have hmono : (1 + Z) / (1 - Z) ≤ (1 + Z0) / (1 - Z0) := by
    rw [div_le_div_iff₀ hZ hZ0]; nlinarith
  have hpos : 0 < (1 + Z) / (1 - Z) := by positivity
  have hlog := Real.log_le_log hpos hmono
  rw [abs_sub_comm, abs_of_nonneg (by linarith), ← Real.log_div (hpos.trans_le hmono).ne' hpos.ne']
  refine (Real.log_le_sub_one_of_pos (div_pos (hpos.trans_le hmono) hpos)).trans ?_
  have he : (1 + Z0) / (1 - Z0) / ((1 + Z) / (1 - Z)) - 1 = 2 * (Z0 - Z) / ((1 - Z0) * (1 + Z)) := by field_simp; ring
  have hden : 2 / 3 ≤ (1 - Z0) * (1 + Z) := by nlinarith
  have hc0 : 0 ≤ c := by linarith
  rw [he, div_le_iff₀ (by linarith)]
  nlinarith

/-- The logarithm of a significand, in fixed point. -/
theorem abs_ln_sub {y : Int} {Y : ℝ} (hy : (y : ℝ) = Y * fxUnit) (h1 : 1 ≤ Y) (h2 : Y < 2) :
    let z := Int.fdiv ((y - fxOne) * fxOne) (y + fxOne)
    |((2 * atanhSeries (fxMul z z) 110 0 z : Int) : ℝ) - fxUnit * Real.log Y| ≤ 5 * (fxUnit / 2 ^ 200) := by
  intro z
  have hU := fxUnit_pos
  have hden : 0 < y + fxOne := by
    have : (0 : ℝ) < ((y + fxOne : Int) : ℝ) := by push_cast; rw [cast_fxOne, hy]; positivity
    exact_mod_cast this
  have hY1 : 0 < Y + 1 := by linarith
  obtain ⟨hz1, hz2⟩ := fdiv_bounds ((y - fxOne) * fxOne) hden
  have hZ0 : (((y - fxOne) * fxOne : Int) : ℝ) / ((y + fxOne : Int) : ℝ) = (Y - 1) / (Y + 1) * fxUnit := by
    push_cast
    rw [cast_fxOne, hy]
    field_simp
  rw [hZ0] at hz1 hz2
  have hzc : (z : ℝ) = (z : ℝ) / fxUnit * fxUnit := (div_mul_cancel₀ _ hU.ne').symm
  generalize hZ : (z : ℝ) / fxUnit = Z at hzc
  rw [show ((((y - fxOne) * fxOne).fdiv (y + fxOne) : Int) : ℝ) = (z : ℝ) from rfl, hzc] at hz1 hz2
  have hle : Z ≤ (Y - 1) / (Y + 1) := le_of_mul_le_mul_right hz1 hU
  have hgap : (Y - 1) / (Y + 1) - Z ≤ 1 / fxUnit := by rw [le_div_iff₀ hU]; linarith
  have hthird : (Y - 1) / (Y + 1) ≤ 1 / 3 := by rw [div_le_div_iff₀ hY1 three_pos]; linarith
  have hz0 : 0 ≤ z := by
    refine fdiv_nonneg_of (Int.mul_nonneg ?_ fxOne_pos.le) hden.le
    have : (0 : ℝ) ≤ ((y - fxOne : Int) : ℝ) := by push_cast; rw [cast_fxOne, hy]; nlinarith
    exact_mod_cast this
  have hZnn : 0 ≤ Z := by rw [← hZ]; exact div_nonneg (by exact_mod_cast hz0) hU.le
  have hser := atanhSeries_log hZ hZnn (hle.trans hthird)
  have hlog := abs_log_ratio_sub hZnn hle hthird hgap
  have hratio : (1 + (Y - 1) / (Y + 1)) / (1 - (Y - 1) / (Y + 1)) = Y := by field_simp; ring
  rw [hratio] at hlog
  have hlogU : |fxUnit * Real.log ((1 + Z) / (1 - Z)) - fxUnit * Real.log Y| ≤ 5 := by
    rw [← mul_sub, abs_mul, abs_of_pos hU]
    calc _ ≤ fxUnit * (5 * (1 / fxUnit)) := by gcongr
      _ = 5 := by field_simp
  have := abs_sub_le ((2 * atanhSeries (fxMul z z) 110 0 z : Int) : ℝ) (fxUnit * Real.log ((1 + Z) / (1 - Z))) (fxUnit * Real.log Y)
  linarith [thousand_le]

theorem approxLog2_x (m : Nat) (x : Int) : (approxLog2 m x).x = -280 := rfl

theorem logb_two_zpow (n : Int) : Real.logb 2 ((2 : ℝ) ^ n) = n := by
  rw [← Real.rpow_intCast, Real.logb_rpow two_pos (by norm_num)]

/-- log2 of a value: its exponent and that of its significand. -/
theorem logb_scaled {m : Nat} (hm : m ≠ 0) (x : Int) :
    Real.logb 2 (m * 2 ^ x) = (x + Nat.log2 m : Int) + Real.log (m * 2 ^ (-(Nat.log2 m : Int))) / Real.log 2 := by
  have hmx : (m : ℝ) * 2 ^ x = 2 ^ (x + Nat.log2 m : Int) * (m * 2 ^ (-(Nat.log2 m : Int))) := by
    rw [mul_left_comm, ← zpow_add₀ two_ne_zero, add_neg_cancel_right]
  rw [hmx, Real.logb_mul (by positivity) (by positivity), logb_two_zpow, Real.logb]

/-- A logarithm below log 2 is divided by the fixed-point log 2 in place of log 2. -/
theorem abs_div_fxLog_sub {l : ℝ} (h0 : 0 ≤ l) (h1 : l ≤ Real.log 2) :
    |fxUnit * l / fxLog - fxUnit * (l / Real.log 2)| ≤ fxUnit * (2 * (1 / 2 ^ 100)) := by
  have hU := fxUnit_pos
  have hlog2 := Real.log_pos one_lt_two
  obtain ⟨hL0, hL1⟩ := fxLog_bounds
  have hL : fxLog ≠ 0 := by linarith
  have he : fxUnit * l / fxLog - fxUnit * (l / Real.log 2) = fxUnit * (l / Real.log 2 * ((Real.log 2 - fxLog) / fxLog)) := by field_simp
  have hq : l / Real.log 2 ≤ 1 := (div_le_one hlog2).2 h1
  have hq0 : 0 ≤ l / Real.log 2 := by positivity
  have hr : |(Real.log 2 - fxLog) / fxLog| ≤ 2 * (1 / 2 ^ 100) := by
    rw [abs_div, abs_of_pos (by linarith : 0 < fxLog), div_le_iff₀ (by linarith), abs_sub_comm]
    refine abs_fxLog_sub.trans ?_
    have : (0 : ℝ) < 1 / 2 ^ 100 := by positivity
    nlinarith
  rw [he, abs_mul, abs_mul, abs_of_pos hU, abs_of_nonneg hq0]
  exact mul_le_mul_of_nonneg_left ((mul_le_of_le_one_left (abs_nonneg _) hq).trans hr) hU.le

/-- An approximate logarithm, divided in fixed point by log 2. -/
theorem abs_fdiv_fxLn2_sub {ln : Int} {l : ℝ} (h0 : 0 ≤ l) (h1 : l ≤ Real.log 2) (hln : |(ln : ℝ) - fxUnit * l| ≤ 5 * (fxUnit / 2 ^ 200)) :
    |(((ln * fxOne).fdiv fxLn2 : Int) : ℝ) - fxUnit * (l / Real.log 2)| ≤ fxUnit * (1 / 2 ^ 90) := by
  have hU := fxUnit_pos
  obtain ⟨hL0, hL1⟩ := fxLog_bounds
  have hlnL : |(((ln * fxOne).fdiv fxLn2 : Int) : ℝ) - ln / fxLog| ≤ 1 := by
    have h := abs_fdiv_sub (ln * fxOne) (show 0 < fxLn2 by decide)
    have hL : ((fxLn2 : Int) : ℝ) = fxLog * fxUnit := by rw [fxLog, div_mul_cancel₀ _ hU.ne']
    rw [hL, Int.cast_mul, cast_fxOne, mul_div_mul_right _ _ hU.ne'] at h
    exact h
  have hd : |(ln : ℝ) / fxLog - fxUnit * l / fxLog| ≤ 10 * (fxUnit / 2 ^ 200) := by
    rw [← sub_div, abs_div, abs_of_pos (by linarith : 0 < fxLog), div_le_iff₀ (by linarith)]
    have : (0 : ℝ) < fxUnit / 2 ^ 200 := by positivity
    nlinarith
  refine ((abs_sub_le _ _ _).trans (add_le_add hlnL ((abs_sub_le _ _ _).trans (add_le_add hd (abs_div_fxLog_sub h0 h1))))).trans ?_
  have he : 10 * (fxUnit / 2 ^ 200) + fxUnit * (2 * (1 / 2 ^ 100)) = fxUnit * (10 / 2 ^ 200 + 2 / 2 ^ 100) := by ring
  have hone : (1 : ℝ) ≤ fxUnit * (1 / 2 ^ 200) := by have := thousand_le; rw [div_eq_mul_one_div] at this; linarith
  calc _ ≤ fxUnit * (1 / 2 ^ 200) + fxUnit * (10 / 2 ^ 200 + 2 / 2 ^ 100) := by rw [he]; gcongr
    _ = fxUnit * (1 / 2 ^ 200 + (10 / 2 ^ 200 + 2 / 2 ^ 100)) := by ring
    _ ≤ fxUnit * (1 / 2 ^ 90) := by gcongr; norm_num

/-- log2 of m × 2^x, in fixed point. -/
theorem approxLog2_spec {m : Nat} (hm : m ≠ 0) (hm' : m < 2 ^ 24) (x : Int) :
    |((approxLog2 m x).v : ℝ) - fxUnit * Real.logb 2 (m * 2 ^ x)| ≤ fxUnit * (1 / 2 ^ 90) := by
  have hl : Nat.log2 m < 24 := (Nat.log2_lt hm).2 hm'
  have hy := cast_fxOf m (x := -(Nat.log2 m : Int)) (by omega)
  have hval := logb_scaled hm x
  obtain ⟨hY1, hY2⟩ := significand_bounds hm
  generalize (m : ℝ) * 2 ^ (-(Nat.log2 m : Int)) = Y at hy hval hY1 hY2
  have hln := abs_ln_sub hy hY1 hY2
  dsimp only at hln
  generalize hlnv : 2 * atanhSeries (fxMul _ _) 110 0 (Int.fdiv ((fxOf m (-(Nat.log2 m : Int)) - fxOne) * fxOne)
    (fxOf m (-(Nat.log2 m : Int)) + fxOne)) = ln at hln
  have hap : (approxLog2 m x).v = (x + Nat.log2 m) * fxOne + Int.fdiv (ln * fxOne) fxLn2 := by rw [← hlnv]; rfl
  have hquot := abs_fdiv_fxLn2_sub (Real.log_nonneg hY1) (Real.log_le_log (by linarith) hY2.le) hln
  have he : ((approxLog2 m x).v : ℝ) - fxUnit * Real.logb 2 (m * 2 ^ x) =
      ((Int.fdiv (ln * fxOne) fxLn2 : Int) : ℝ) - fxUnit * (Real.log Y / Real.log 2) := by
    rw [hap, hval]
    push_cast
    rw [cast_fxOne]
    ring
  rw [he]
  exact hquot

/-- A value of 24 bits is 1, or not too close to it. -/
theorem abs_sub_one_ge {k : Nat} (hk : k < 2 ^ 24) {x : Int} (h : (k : ℝ) * 2 ^ x ≠ 1) : (1 : ℝ) / 2 ^ 24 ≤ |(k : ℝ) * 2 ^ x - 1| := by
  rcases le_or_gt (-24) x with hx | hx
  · obtain ⟨d, hd⟩ := Int.eq_ofNat_of_zero_le (show 0 ≤ x + 24 by omega)
    have hp : (2 : ℝ) ^ x = 2 ^ d / 2 ^ 24 := by
      rw [show x = (d : Int) - 24 by omega, zpow_sub₀ two_ne_zero, zpow_natCast]; rfl
    have he : (k : ℝ) * 2 ^ x - 1 = ((k * 2 ^ d - 2 ^ 24 : Int) : ℝ) / 2 ^ 24 := by rw [hp]; push_cast; ring
    have hne : (k * 2 ^ d - 2 ^ 24 : Int) ≠ 0 := fun h0 => h (by
      rw [h0] at he
      have := sub_eq_zero.1 (he.trans (by simp))
      exact this)
    rw [he, abs_div, abs_of_pos (a := (2 : ℝ) ^ 24) (by positivity)]
    gcongr
    exact_mod_cast Int.one_le_abs hne
  · have h1 : (k : ℝ) * 2 ^ x ≤ 2 ^ 24 * 2 ^ (-25 : Int) := by
      gcongr
      · exact_mod_cast hk.le
      · norm_num
      · omega
    have h2 : (2 : ℝ) ^ 24 * 2 ^ (-25 : Int) = 1 / 2 := by norm_num
    replace h1 := h1.trans h2.le
    rw [abs_of_nonpos (by linarith)]
    norm_num
    linarith

/-- Its logarithm is not too small. -/
theorem abs_logb_ge {v : ℝ} (h0 : 0 < v) (h : (1 : ℝ) / 2 ^ 24 ≤ |v - 1|) : (1 : ℝ) / 2 ^ 25 ≤ |Real.logb 2 v| := by
  have hlog : (1 : ℝ) / 2 ^ 25 ≤ |Real.log v| := by
    rcases le_total v 1 with h1 | h1
    · rw [abs_of_nonpos (by linarith)] at h
      have := Real.log_le_sub_one_of_pos h0
      rw [abs_of_nonpos (by linarith)]
      norm_num at h ⊢
      linarith
    · rw [abs_of_nonneg (by linarith)] at h
      refine le_trans ?_ ((Real.one_sub_inv_le_log_of_pos h0).trans (le_abs_self _))
      rw [← one_div, one_sub_div h0.ne', div_le_div_iff₀ (by positivity) h0]
      norm_num at h ⊢
      linarith
  have h2 := Real.log_two_lt_d9
  have h2' := Real.log_pos one_lt_two
  rw [Real.logb, abs_div, abs_of_pos h2', le_div_iff₀ h2']
  refine le_trans ?_ hlog
  exact mul_le_of_le_one_right (by positivity) (by linarith)

/-! The sine and the cosine. -/

/-- The series that `approxTrig` takes of the remainder r: the cosine's in an odd quarter turn. -/
def trigCore (odd : Bool) (r : Int) : Int :=
  if odd then below (trigSeries (fxMul r r) 50 0 fxOne) fxOne else below (trigSeries (fxMul r r) 50 1 r) r

theorem below_near (v t : Int) : |((below v t : Int) : ℝ) - v| ≤ 1 := by
  rw [below]
  split
  · next h => rw [h]; push_cast; norm_num
  · simp

theorem trigCore_near {r : Int} {R : ℝ} (hr : (r : ℝ) / fxUnit = R) (hR0 : 0 ≤ R) (hR : R ≤ 8 / 5) (odd : Bool) :
    |((trigCore odd r : Int) : ℝ) - fxUnit * (if odd then Real.cos R else Real.sin R)| ≤ fxUnit * (2 / 2 ^ 200) := by
  have hU := fxUnit_pos
  have hrU : (r : ℝ) = R * fxUnit := by rw [← hr, div_mul_cancel₀ _ hU.ne']
  have hrr : (r : ℝ) * r / fxUnit / fxUnit = R ^ 2 := by rw [hrU]; field_simp
  have hr0 : 0 ≤ r := by
    have : (0 : ℝ) ≤ r := by rw [hrU]; positivity
    exact_mod_cast this
  have hW0 : (0 : ℝ) ≤ ((fxMul r r : Int) : ℝ) / fxUnit := div_nonneg (by exact_mod_cast fxMul_nonneg hr0 hr0) hU.le
  have hW1 : ((fxMul r r : Int) : ℝ) / fxUnit ≤ R ^ 2 := by
    rw [← hrr]; have := (fxMul_bounds r r).1; gcongr
  have hWR : |((fxMul r r : Int) : ℝ) / fxUnit - R ^ 2| ≤ 1 / fxUnit := by
    rw [← hrr, ← sub_div, abs_div, abs_of_pos hU]
    gcongr
    exact abs_fxMul_sub r r
  obtain ⟨hcos, hsin⟩ := abs_trig_sum_sub hR0 hR
  have hbig := thousand_le
  have hend : 1 + (4 * 50 + fxUnit * (1 / 2 ^ 200)) ≤ fxUnit * (2 / 2 ^ 200) := by
    have he : fxUnit * (2 / 2 ^ 200) = 2 * (fxUnit / 2 ^ 200) := by ring
    have he' : fxUnit * (1 / 2 ^ 200) = fxUnit / 2 ^ 200 := by ring
    rw [he, he']
    linarith
  cases odd with
  | false =>
    have hs := trigSeries_near rfl hW0 hR0 hR hWR hW1 50 1 1 abs_one r (by rw [hrU]; simp [mul_comm]) (by simp)
    simp only [one_mul] at hs
    have ht : |fxUnit * (∑ j ∈ Finset.range 50, (-1) ^ j * (R ^ (1 + 2 * j) / (1 + 2 * j).factorial)) - fxUnit * Real.sin R| ≤
        fxUnit * (1 / 2 ^ 200) := by
      rw [← mul_sub, abs_mul, abs_of_pos hU]; gcongr
    refine ((abs_sub_le _ _ _).trans (add_le_add (below_near _ r) ((abs_sub_le _ _ _).trans (add_le_add hs ht)))).trans ?_
    exact_mod_cast hend
  | true =>
    have hs := trigSeries_near rfl hW0 hR0 hR hWR hW1 50 0 1 abs_one fxOne (by rw [cast_fxOne]; simp) (by rw [cast_fxOne]; simp)
    simp only [one_mul, zero_add] at hs
    have ht : |fxUnit * (∑ j ∈ Finset.range 50, (-1) ^ j * (R ^ (2 * j) / (2 * j).factorial)) - fxUnit * Real.cos R| ≤
        fxUnit * (1 / 2 ^ 200) := by
      rw [← mul_sub, abs_mul, abs_of_pos hU]; gcongr
    refine ((abs_sub_le _ _ _).trans (add_le_add (below_near _ fxOne) ((abs_sub_le _ _ _).trans (add_le_add hs ht)))).trans ?_
    exact_mod_cast hend

theorem approxTrig_x (co neg : Bool) (m : Nat) (x : Int) : (approxTrig co neg m x).x = -280 := rfl

/-- A quarter turn, in units of 2^-300. -/
def quarter : Int := Int.fdiv piBits 2

/-- `approxTrig` takes the series of a remainder below a quarter turn, with a sign. -/
theorem approxTrig_eq (co neg : Bool) {m : Nat} {x : Int} (hx : -300 ≤ x) {A n r : Int} (hA : A = m * 2 ^ (x + 300).toNat)
    (hn : n = A.fdiv quarter) (hr : r = (A - n * quarter).fdiv (2 ^ 20)) :
    (approxTrig co neg m x).v =
      (let k := (n % 4).toNat + if co then 1 else 0
       let v := trigCore (decide (k % 2 = 1)) r
       let v := if k % 4 ≥ 2 then -v else v
       if neg && !co then -v else v) := by
  have hpos : x + 300 ≥ 0 := by omega
  have hodd : ∀ k : Nat, (if k % 2 = 0 then below (trigSeries (fxMul r r) 50 1 r) r else below (trigSeries (fxMul r r) 50 0 fxOne) fxOne) =
      trigCore (decide (k % 2 = 1)) r := fun k => by
    rw [trigCore]
    by_cases h : k % 2 = 0
    · simp [h]
    · simp [Nat.mod_two_ne_zero.1 h]
  simp only [approxTrig, if_pos hpos, ← hA]
  rw [← quarter, ← hn, ← hr, hodd]

theorem quarter_bounds : 0 < quarter ∧ 3 * (2 ^ 149 * 2 ^ 150) < quarter ∧ 5 * quarter ≤ 8 * (2 ^ 150 * 2 ^ 150) := by decide

end Sys2Proof.Machine
end

section
/-! FSIN and FCOS stay near the exact values (R119). -/

namespace Sys2Proof.Machine

open Sys2Proof.Claims

theorem cast_dyadic (n : Bool) (k : Nat) (x : Int) : ((dyadic n k x : ℚ) : ℝ) = (if n then -1 else 1) * (k * 2 ^ x) := by
  rw [dyadic_eq]; cases n <;> simp

/-- What is left of a quarter turn. -/
theorem remainder_bounds (A : Int) :
    0 ≤ (A - A.fdiv quarter * quarter).fdiv (2 ^ 20) ∧ (((A - A.fdiv quarter * quarter).fdiv (2 ^ 20) : Int) : ℝ) / fxUnit ≤ 8 / 5 := by
  obtain ⟨hq, -, hq5⟩ := quarter_bounds
  rw [Int.fdiv_eq_ediv_of_nonneg A hq.le, show A - A / quarter * quarter = A % quarter by linarith [Int.ediv_mul_add_emod A quarter],
    Int.fdiv_eq_ediv_of_nonneg _ (by norm_num)]
  have h0 := Int.emod_nonneg A hq.ne'
  have h1 := Int.emod_lt_of_pos A hq
  refine ⟨Int.ediv_nonneg h0 (by norm_num), ?_⟩
  have h2 : 5 * (A % quarter / 2 ^ 20 * 2 ^ 20) ≤ 8 * (2 ^ 150 * 2 ^ 150) := by
    have := Int.ediv_mul_le (A % quarter) (show (2 : Int) ^ 20 ≠ 0 by norm_num)
    omega
  have h3 : 5 * (((A % quarter / 2 ^ 20 : Int) : ℝ) * 2 ^ 20) ≤ 8 * (2 ^ 150 * 2 ^ 150) := by exact_mod_cast h2
  have h4 : (2 : ℝ) ^ 150 * 2 ^ 150 = 2 ^ 20 * fxUnit := by rw [fxUnit, ← pow_add, ← pow_add]
  rw [h4] at h3
  rw [div_le_iff₀ fxUnit_pos]
  linarith

theorem abs_ite_neg (c : Prop) [Decidable c] (v : Int) : |((if c then -v else v : Int) : ℝ)| = |(v : ℝ)| := by split <;> simp

theorem abs_approxTrig_le (co neg : Bool) (m : Nat) {x : Int} (hx : -300 ≤ x) :
    |((approxTrig co neg m x).v : ℝ)| ≤ fxUnit * (1 + 2 / 2 ^ 200) := by
  have hU := fxUnit_pos
  obtain ⟨hr0, hr1⟩ := remainder_bounds (m * 2 ^ (x + 300).toNat)
  generalize hr : (_ : Int).fdiv (2 ^ 20) = r at hr0 hr1
  have hcore : ∀ odd, |((trigCore odd r : Int) : ℝ)| ≤ fxUnit * (1 + 2 / 2 ^ 200) := fun odd => by
    have hn := trigCore_near rfl (div_nonneg (by exact_mod_cast hr0) hU.le) hr1 odd
    have h1 : |if odd then Real.cos ((r : ℝ) / fxUnit) else Real.sin ((r : ℝ) / fxUnit)| ≤ 1 := by
      split
      · exact Real.abs_cos_le_one _
      · exact Real.abs_sin_le_one _
    have h2 := abs_sub_le ((trigCore odd r : Int) : ℝ) (fxUnit * (if odd then Real.cos (r / fxUnit) else Real.sin (r / fxUnit))) 0
    rw [sub_zero, sub_zero, abs_mul, abs_of_pos hU] at h2
    calc _ ≤ _ := h2
      _ ≤ fxUnit * (2 / 2 ^ 200) + fxUnit * 1 := by gcongr
      _ = _ := by ring
  rw [approxTrig_eq co neg hx rfl rfl hr.symm]
  dsimp only
  rw [abs_ite_neg, abs_ite_neg]
  exact hcore _

/-- Below 3/2 the remainder is the operand's magnitude. -/
theorem remainder_small {m : Nat} {x : Int} (hx : -280 ≤ x) (h : (m : ℝ) * 2 ^ x ≤ 3 / 2) {A : Int} (hA : A = m * 2 ^ (x + 300).toNat) :
    A.fdiv quarter = 0 ∧ (A.fdiv (2 ^ 20) : ℝ) / fxUnit = m * 2 ^ x := by
  obtain ⟨d, hd⟩ := Int.eq_ofNat_of_zero_le (show 0 ≤ x + 280 by omega)
  have hd' : (x + 300).toNat = d + 20 := by omega
  have hA' : A = m * 2 ^ d * 2 ^ 20 := by rw [hA, hd', pow_add, mul_assoc]
  have hm : ((m * 2 ^ d : Int) : ℝ) = m * 2 ^ x * fxUnit := by
    have := cast_fxOf m hx
    rw [← this, fxOf, if_pos (by rw [show x + (fxBits : Int) = d from hd]; positivity), show x + (fxBits : Int) = d from hd, Int.toNat_natCast]
  obtain ⟨hq, hq3, -⟩ := quarter_bounds
  have hlt : A < quarter := by
    refine lt_of_le_of_lt ?_ hq3
    have h4 : (2 : ℝ) ^ 149 * 2 ^ 150 * 2 = 2 ^ 20 * fxUnit := by rw [fxUnit, ← pow_add, ← pow_add, ← pow_succ]
    have : (A : ℝ) ≤ ((3 * (2 ^ 149 * 2 ^ 150) : Int) : ℝ) := by
      rw [hA', Int.cast_mul, hm]
      push_cast
      nlinarith [fxUnit_pos]
    exact_mod_cast this
  have hA0 : 0 ≤ A := by rw [hA']; positivity
  constructor
  · rw [Int.fdiv_eq_ediv_of_nonneg A hq.le, Int.ediv_eq_zero_of_lt hA0 hlt]
  · rw [Int.fdiv_eq_ediv_of_nonneg A (by norm_num), hA', Int.mul_ediv_cancel _ (by norm_num), hm, mul_div_cancel_right₀ _ fxUnit_pos.ne']

theorem approxTrig_near (co neg : Bool) {m : Nat} {x : Int} (hx : -280 ≤ x) (h : (m : ℝ) * 2 ^ x ≤ 3 / 2) {X : ℝ}
    (hX : X = (if neg then -1 else 1) * (m * 2 ^ x)) :
    |((approxTrig co neg m x).v : ℝ) - fxUnit * (if co then Real.cos X else Real.sin X)| ≤ fxUnit * (2 / 2 ^ 200) := by
  generalize hA : (m : Int) * 2 ^ (x + 300).toNat = A
  obtain ⟨hn, hr⟩ := remainder_small hx h hA.symm
  have hcore := trigCore_near hr (by positivity) (h.trans (by norm_num)) co
  rw [approxTrig_eq co neg (by omega) hA.symm hn.symm (r := A.fdiv (2 ^ 20)) (by rw [zero_mul, sub_zero]), hX]
  cases co with
  | true => cases neg <;> simpa using hcore
  | false =>
    cases neg with
    | false => simpa using hcore
    | true =>
      rw [abs_sub_comm] at hcore
      convert hcore using 2
      simp
      ring

/-- Neither the sine nor the cosine of a small operand is near 0. -/
theorem abs_trig_ge (co : Bool) {X : ℝ} (h1 : (1 : ℝ) / 2 ^ 149 ≤ |X|) (h2 : |X| ≤ 3 / 2) :
    (1 : ℝ) / 2 ^ 150 ≤ |if co then Real.cos X else Real.sin X| := by
  have hpi := Real.pi_gt_d2
  have hpi4 := Real.pi_le_four
  have hsin : ∀ Y : ℝ, 0 ≤ Y → Y ≤ Real.pi / 2 → Y / 2 ≤ Real.sin Y := fun Y h0 hY => by
    refine le_trans ?_ (Real.mul_le_sin h0 hY)
    rw [div_eq_mul_one_div, mul_comm]
    have : 1 / 2 ≤ 2 / Real.pi := by rw [div_le_div_iff₀ two_pos (by linarith)]; linarith
    gcongr
  cases co with
  | false =>
    have hs : |Real.sin X| = Real.sin |X| := by
      rcases abs_cases X with ⟨h, h0⟩ | ⟨h, h0⟩
      · rw [h, abs_of_nonneg (Real.sin_nonneg_of_nonneg_of_le_pi h0 (by linarith))]
      · rw [h, Real.sin_neg, abs_of_nonpos (by
          have := Real.sin_nonneg_of_nonneg_of_le_pi (x := -X) (by linarith) (by linarith)
          rw [Real.sin_neg] at this; linarith)]
    have := hsin |X| (abs_nonneg _) (by linarith)
    simp only [Bool.false_eq_true, if_false, hs]
    norm_num at h1 ⊢
    linarith
  | true =>
    have := hsin (Real.pi / 2 - |X|) (by linarith) (by linarith [abs_nonneg X])
    rw [Real.sin_pi_div_two_sub, Real.cos_abs] at this
    simp only [if_true]
    refine le_trans ?_ (le_abs_self _)
    norm_num at h1 ⊢
    linarith

/-- A rounding of what is at most little more than 1 is at most 1. -/
theorem abs_onGrid_le_one {w : ℚ} (hw : w ≠ 0) (h : |w| ≤ 1 + 1 / 2 ^ 30) : |onGrid .fp32 .rn w| ≤ 1 := by
  have hg : (0 : ℚ) < 2 ^ gridExp .fp32 w := by positivity
  have hlo := le_gridExp .fp32 w
  have hlo' : -149 ≤ gridExp .fp32 w := hlo
  have hstep : ∀ N : Nat, |roundQ .rn (w / 2 ^ gridExp .fp32 w)| ≤ N → |onGrid .fp32 .rn w| ≤ N * 2 ^ gridExp .fp32 w := fun N hN => by
    rw [onGrid, abs_mul, abs_of_pos hg]
    gcongr
    exact_mod_cast hN
  rcases le_or_gt |w| 1 with h1 | h1
  · have hg0 : gridExp .fp32 w ≤ -23 := by
      have : Int.log 2 |w| < 1 := (Int.lt_zpow_iff_log_lt Nat.one_lt_two (abs_pos.2 hw)).1 (h1.trans_lt (by norm_num))
      rw [gridExp, show ((Fp.fp32.bias : Nat) : Int) = 127 from rfl, show ((Fp.fp32.f : Nat) : Int) = 23 from rfl]
      omega
    obtain ⟨d, hd⟩ := Int.eq_ofNat_of_zero_le (show 0 ≤ -gridExp .fp32 w by omega)
    have hone : ((2 ^ d : Nat) : ℚ) * 2 ^ gridExp .fp32 w = 1 := by
      rw [Nat.cast_pow, Nat.cast_ofNat, ← zpow_natCast, ← zpow_add₀ two_ne_zero, show (d : Int) + gridExp .fp32 w = 0 by omega, zpow_zero]
    refine (hstep (2 ^ d) ((abs_roundQ .rn _ (2 ^ d)).1 ?_)).trans hone.le
    rw [abs_div, abs_of_pos hg, div_le_iff₀ hg, hone]
    exact h1
  · have hlog : Int.log 2 |w| = 0 := by
      have := log_of_between (k := 1) (x := 0) one_ne_zero (a := |w|) (by simpa using h1.le) (by norm_num at h ⊢; linarith)
      rw [this, zero_add]; rfl
    have hg0 : gridExp .fp32 w = -23 := by rw [gridExp, hlog]; rfl
    have hr := abs_roundQ_rn_sub (w / 2 ^ gridExp .fp32 w)
    have hd : |w / 2 ^ gridExp .fp32 w| ≤ 2 ^ 23 + 1 / 4 := by
      rw [abs_div, abs_of_pos hg, hg0, div_le_iff₀ (by positivity)]
      norm_num at h ⊢; linarith
    have hlt : |((roundQ .rn (w / 2 ^ gridExp .fp32 w) : Int) : ℚ)| < ((2 ^ 23 + 1 : Int) : ℚ) := by
      have := abs_add_le ((roundQ .rn (w / 2 ^ gridExp .fp32 w) : ℚ) - w / 2 ^ gridExp .fp32 w) (w / 2 ^ gridExp .fp32 w)
      rw [sub_add_cancel] at this
      norm_num at this hd hr ⊢
      linarith
    have hlt' : |roundQ .rn (w / 2 ^ gridExp .fp32 w)| ≤ ((2 ^ 23 : Nat) : Int) := by
      have : |roundQ .rn (w / 2 ^ gridExp .fp32 w)| < 2 ^ 23 + 1 := by exact_mod_cast hlt
      push_cast
      omega
    refine (hstep _ hlt').trans ?_
    rw [hg0]
    norm_num

section
variable {a : Word} {n co : Bool} {k : Nat} {e : Int}

theorem fpTrig_eq (h : Fp.fp32.decode a.toNat = .fin n k e) (hk : k ≠ 0) :
    fpTrig co false a.toNat = if fvLt (.fin false 1 20) (.fin false k e) then
        bounded (if co then 6 else 5) a false (approxTrig co n k e) fun c => within c (approxTrig co n k e) 1 (-20) && !fvLt (.fin false 1 0) c.abs
      else bounded (if co then 6 else 5) a false (approxTrig co n k e) fun c =>
        within c (approxTrig co n k e) 2 (ulpAt (approxTrig co n k e)) := by
  rw [fpTrig, h, ftzIn_false]
  simp only [hk, if_false, BitVec.ofNat_toNat, BitVec.setWidth_eq]

theorem approxTrig_fine : (approxTrig co n k e).Fine := .inl (by rw [approxTrig_x]; norm_num)

theorem abs_mid_approxTrig (he : -149 ≤ e) : |(approxTrig co n k e).mid| ≤ 1 + 1 / 2 ^ 30 := by
  have hU := fxUnit_pos
  have hz := two_zpow_sub_280 0
  rw [zero_sub, zpow_zero] at hz
  have h := abs_approxTrig_le co n k (x := e) (by omega)
  have hR : ((|(approxTrig co n k e).mid| : ℚ) : ℝ) ≤ ((1 + 1 / 2 ^ 30 : ℚ) : ℝ) := by
    rw [abs_mid, approxTrig_x]
    simp only [Rat.cast_mul, Rat.cast_add, Rat.cast_div, Rat.cast_zpow, Rat.cast_pow, Rat.cast_natCast, Rat.cast_ofNat, Rat.cast_one]
    rw [hz, Nat.cast_natAbs, Int.cast_abs, mul_one_div, div_le_iff₀ hU]
    have := thousand_le
    rw [div_eq_mul_one_div] at this
    norm_num at h this ⊢
    linarith
  exact_mod_cast hR

theorem bounded_trig_no_overflow (he : -149 ≤ e) (fn : Nat) (w : Word) (ok : Fv → Bool) :
    (bounded fn w false (approxTrig co n k e) ok).2.testBit 2 = false :=
  bounded_no_overflow fn w approxTrig_fine ok ((abs_mid_approxTrig he).trans (by norm_num))

theorem fpTrig_inexact (h : Fp.fp32.decode a.toNat = .fin n k e) (hk : k ≠ 0) : (fpTrig co false a.toNat).2.testBit 4 = true := by
  rw [fpTrig_eq h hk]
  split
  · exact (bounded_spec _ a approxTrig_fine _).1
  · exact (bounded_spec _ a approxTrig_fine _).1

theorem fpTrig_near (h : Fp.fp32.decode a.toNat = .fin n k e) (hk : k ≠ 0) (he : -149 ≤ e) (hx : |dyadic n k e| ≤ 3 / 2) :
    Near (fpTrig co false a.toNat) (if co then Real.cos ((dyadic n k e : ℚ) : ℝ) else Real.sin ((dyadic n k e : ℚ) : ℝ)) := by
  have habs := abs_dyadic n k e
  have hsmall : fvLt (.fin false 1 20) (.fin false k e) = false := by
    rw [Bool.eq_false_iff, Ne, fvLt_fin, not_lt, dyadic_eq, dyadic_eq]
    rw [habs] at hx
    norm_num
    linarith
  have hxR : (k : ℝ) * 2 ^ e ≤ 3 / 2 := by
    rw [habs] at hx
    have : ((k * 2 ^ e : ℚ) : ℝ) ≤ ((3 / 2 : ℚ) : ℝ) := Rat.cast_le.2 hx
    push_cast at this
    exact this
  have hX := cast_dyadic n k e
  generalize ((dyadic n k e : ℚ) : ℝ) = X at hX
  have hXabs : |X| = k * 2 ^ e := by
    rw [hX, abs_mul, abs_of_nonneg (a := (k : ℝ) * 2 ^ e) (by positivity)]
    cases n <;> simp
  have hXlo : (1 : ℝ) / 2 ^ 149 ≤ |X| := by
    rw [hXabs]
    have hk1 : (1 : ℝ) ≤ k := by exact_mod_cast Nat.one_le_iff_ne_zero.2 hk
    calc (1 : ℝ) / 2 ^ 149 = 1 * 2 ^ (-149 : Int) := by norm_num
      _ ≤ k * 2 ^ e := by gcongr; norm_num
  have hnear := abs_approx_q_sub (approxTrig_x co n k e) (approxTrig_near co n (by omega) hxR hX)
  have hge := abs_trig_ge co hXlo (hXabs ▸ hxR)
  generalize (if co then Real.cos X else Real.sin X) = v at hnear hge
  have hunit : (2 : ℝ) ^ (-149 : Int) ≤ unitAt v := le_max_right _ _
  have hv0 : (approxTrig co n k e).v ≠ 0 := fun h0 => by
    rw [approx_q_cast, h0, Int.cast_zero, zero_mul, zero_sub, abs_neg] at hnear
    have := hge.trans hnear
    norm_num at this
  rw [fpTrig_eq h hk, hsmall, if_neg Bool.false_ne_true]
  refine near_of_bounded _ a approxTrig_fine (two_zpow_ulpAt_le hv0) ?_ (hnear.trans ?_) (bounded_trig_no_overflow he _ a _)
  · rw [approxTrig_x]
    exact (zpow_le_zpow_right₀ one_le_two (by norm_num)).trans hunit
  · refine le_trans ?_ (mul_le_mul_of_nonneg_left hunit (by norm_num))
    norm_num

theorem fpTrig_large (h : Fp.fp32.decode a.toNat = .fin n k e) (hk : k ≠ 0) (he : -149 ≤ e) (hx : 2 ^ 20 < |dyadic n k e|) :
    ∃ y, finQ (Fp.fp32.decode (fpTrig co false a.toNat).1) = some y ∧ |y| ≤ 1 := by
  have hlarge : fvLt (.fin false 1 20) (.fin false k e) = true := by
    rw [abs_dyadic] at hx
    rw [fvLt_fin, dyadic_eq, dyadic_eq]
    norm_num
    exact hx
  rw [fpTrig_eq h hk, hlarge, if_pos rfl]
  have hof := bounded_trig_no_overflow (co := co) (n := n) (k := k) he (if co then 6 else 5) a fun c =>
    within c (approxTrig co n k e) 1 (-20) && !fvLt (.fin false 1 0) c.abs
  obtain ⟨-, ⟨hr, -⟩ | ⟨-, -, hr | hr⟩⟩ := bounded_spec (if co then 6 else 5) a (approxTrig_fine (co := co) (n := n) (k := k) (e := e))
    fun c => within c (approxTrig co n k e) 1 (-20) && !fvLt (.fin false 1 0) c.abs
  · rw [hr] at hof
    exact absurd hof (show ¬Nat.testBit 20 2 = false by decide)
  · exact ⟨_, hr, abs_onGrid_le_one (mid_ne_zero _) (abs_mid_approxTrig he)⟩
  · generalize Fp.fp32.decode _ = c at hr
    rw [Bool.and_eq_true, Bool.not_eq_true'] at hr
    obtain ⟨hw, hle⟩ := hr
    obtain ⟨y, hy, -⟩ := within_spec hw
    refine ⟨y, hy, ?_⟩
    obtain ⟨n', k', e', rfl, rfl⟩ := finQ_eq_some.1 hy
    rw [Fv.abs, Bool.eq_false_iff, Ne, fvLt_fin, not_lt, dyadic_eq, dyadic_eq] at hle
    rw [abs_dyadic]
    norm_num at hle
    exact hle

end

end Sys2Proof.Machine
end

section
/-! FEXP2 and FLOG2 (R119), and the bounds of all four forms. -/

namespace Sys2Proof.Machine

open Sys2Proof.Claims

/-- A significand at an exponent of the format is given as it is. -/
theorem roundTo_sig {n : Bool} {k : Nat} {x : Int} (hk0 : k ≠ 0) (hk : k < 2 ^ 24) (hx : -149 ≤ x) (htop : |dyadic n k x| ≤ topQ .fp32) :
    finQ (Fp.fp32.decode (roundTo .fp32 .rn false false (.num n k x false)).1) = some (dyadic n k x) ∧
      (roundTo .fp32 .rn false false (.num n k x false)).2 = 0 := by
  obtain ⟨⟨hfin, -⟩, hfl⟩ := roundTo_exact (m := .rn) (f := .fp32) (e := .num n k x false) ⟨hk0, rfl⟩ (onGrid_of_sig .rn n hk hx) htop
  exact ⟨hfin, hfl⟩

/-- The number 2^n. -/
theorem dyadic_one (n : Int) : dyadic false 1 n = 2 ^ n := by simp [dyadic_eq]

/-- Values of 2^128 and more round to more than the largest value. -/
theorem topQ_lt_onGrid {w : ℚ} (h : 2 ^ (128 : Int) ≤ |w|) : topQ .fp32 < |onGrid .fp32 .rn w| := by
  have hw : w ≠ 0 := fun h0 => by rw [h0, abs_zero] at h; norm_num at h
  have hg : (0 : ℚ) < 2 ^ gridExp .fp32 w := by positivity
  have hlog : 128 ≤ Int.log 2 |w| := (Int.zpow_le_iff_le_log Nat.one_lt_two (abs_pos.2 hw)).1 (by exact_mod_cast h)
  have hge : 105 ≤ gridExp .fp32 w := by
    rw [gridExp, show ((Fp.fp32.f : Nat) : Int) = 23 from rfl]
    omega
  obtain ⟨-, hmin | hsteps⟩ := abs_div_grid .fp32 hw
  · rw [hmin] at hge
    exact absurd hge (by decide)
  · have hr := (abs_roundQ .rn _ (2 ^ 23)).2 (by exact_mod_cast hsteps)
    rw [topQ_fp32, onGrid, abs_mul, abs_of_pos hg]
    calc ((2 : ℚ) ^ 24 - 1) * 2 ^ (104 : Int) < 2 ^ 23 * 2 ^ (105 : Int) := by norm_num
      _ ≤ |((roundQ .rn (w / 2 ^ gridExp .fp32 w) : Int) : ℚ)| * 2 ^ gridExp .fp32 w := by
        gcongr
        · exact_mod_cast hr
        · norm_num

/-! The power of two. -/

theorem le_roundQ_rz {X : ℚ} {i : Int} (hi : 0 < i) : i ≤ roundQ .rz X ↔ (i : ℚ) ≤ X := by
  rw [roundQ]
  split
  · exact Int.le_floor
  · next h =>
    have hi' : (0 : ℚ) < i := by exact_mod_cast hi
    have : ⌈X⌉ ≤ 0 := Int.ceil_le.2 (by push_cast; linarith)
    exact iff_of_false (by omega) (by linarith)

theorem roundQ_rz_le {X : ℚ} {i : Int} (hi : i < 0) : roundQ .rz X ≤ i ↔ X ≤ i := by
  rw [roundQ]
  split
  · next h =>
    have hi' : (i : ℚ) < 0 := by exact_mod_cast hi
    have : 0 ≤ ⌊X⌋ := Int.floor_nonneg.2 h
    exact iff_of_false (by omega) (by linarith)
  · exact Int.ceil_le

/-- What FEXP2 takes for 2 to operands of -200 and less: below every value but 0. -/
def tiny : Approx := ⟨1, -200⟩

theorem tiny_q : tiny.q = 2 ^ (-200 : Int) := by rw [tiny, Approx.q, Int.cast_one, one_mul]

section
variable {a : Word} {n : Bool} {k : Nat} {e : Int} {X : ℚ}

theorem fpExp2_eq (h : Fp.fp32.decode a.toNat = .fin n k e) (hk : k ≠ 0) (hX : dyadic n k e = X) :
    fpExp2 false a.toNat =
      if 130 ≤ X then (0x7F800000, 20)
      else if X ≤ -200 then bounded 3 a false tiny fun c => within c tiny 2 (-149)
      else if (roundQ .rz X : ℚ) = X then roundTo .fp32 .rn false false (.num false 1 (roundQ .rz X) false)
      else bounded 3 a false (approxExp2 n k e) fun c => within c (approxExp2 n k e) 2 (ulpAt (approxExp2 n k e)) := by
  obtain ⟨hv, hf⟩ := roundInt_eq .rz n k e
  rw [hX] at hv hf
  have h130 : roundQ .rz X ≥ 130 ↔ 130 ≤ X := by simpa using le_roundQ_rz (X := X) (i := 130) (by norm_num)
  have h200 : roundQ .rz X ≤ -200 ↔ X ≤ -200 := by simpa using roundQ_rz_le (X := X) (i := -200) (by norm_num)
  have hfrac : (!(roundInt .rz n k e).2) = true ↔ (roundQ .rz X : ℚ) = X := by rw [Bool.not_eq_true', hf]
  rw [fpExp2, h, ftzIn_false]
  simp only [hk, if_false, BitVec.ofNat_toNat, BitVec.setWidth_eq, hv, h130, h200, hfrac]
  rfl

theorem le_abs_mid_approxExp2 (he : -149 ≤ e) (hX : dyadic n k e = X) (h128 : 128 ≤ X) :
    (2 : ℚ) ^ (128 : Int) ≤ |(approxExp2 n k e).mid| := by
  have hU := fxUnit_pos
  obtain ⟨i, F, hXF, -, hF1, hx, hv, -⟩ := approxExp2_spec n k (x := e) (by omega)
  have hi : 128 ≤ i := by
    have : (128 : ℝ) ≤ ((dyadic n k e : ℚ) : ℝ) := by rw [hX]; exact_mod_cast h128
    have : (127 : ℝ) < i := by linarith
    have : 127 < i := by exact_mod_cast this
    omega
  have hvR : fxUnit ≤ ((approxExp2 n k e).v.natAbs : ℝ) := by
    rw [Nat.cast_natAbs, Int.cast_abs, ← cast_fxOne]
    exact le_trans (by exact_mod_cast hv) (le_abs_self _)
  have hmid : (2 : ℝ) ^ (128 : Int) ≤ ((|(approxExp2 n k e).mid| : ℚ) : ℝ) := by
    rw [abs_mid, hx]
    simp only [Rat.cast_mul, Rat.cast_add, Rat.cast_div, Rat.cast_zpow, Rat.cast_natCast, Rat.cast_ofNat, Rat.cast_one]
    rw [two_zpow_sub_280]
    calc (2 : ℝ) ^ (128 : Int) ≤ 2 ^ i := zpow_le_zpow_right₀ one_le_two hi
      _ = fxUnit * (2 ^ i / fxUnit) := by field_simp
      _ ≤ _ := by gcongr; linarith
  exact_mod_cast hmid

theorem fpExp2_overflow (h : Fp.fp32.decode a.toNat = .fin n k e) (hk : k ≠ 0) (he : -149 ≤ e) (hX : dyadic n k e = X) (h128 : 128 ≤ X) :
    fpExp2 false a.toNat = (0x7F800000, 20) := by
  rw [fpExp2_eq h hk hX]
  split
  · rfl
  · rw [if_neg (by linarith)]
    split
    · next hT =>
      have hp : (2 : ℚ) ^ (128 : Int) ≤ 2 ^ roundQ .rz X :=
        zpow_le_zpow_right₀ one_le_two (by rw [← hT] at h128; exact_mod_cast h128)
      have hr := roundTo_isRound .fp32 .rn false false (e := .num false 1 (roundQ .rz X) false) (v := 2 ^ roundQ .rz X)
        ⟨one_ne_zero, (dyadic_one _).symm⟩
      have hpos : (0 : ℚ) < 2 ^ roundQ .rz X := by positivity
      rw [IsRound, if_pos (topQ_lt_onGrid (hp.trans (le_abs_self _))), decide_eq_false hpos.not_gt] at hr
      exact hr
    · obtain ⟨-, -, -, -, -, -, hv, -⟩ := approxExp2_spec n k (x := e) (by omega)
      have hvpos : 0 < (approxExp2 n k e).v := fxOne_pos.trans_le hv
      obtain ⟨-, ⟨hr, -⟩ | ⟨-, hle, -⟩⟩ := bounded_spec 3 a (approxExp2_fine n k (x := e) (by omega)) fun c =>
        within c (approxExp2 n k e) 2 (ulpAt (approxExp2 n k e))
      · rw [hr, decide_eq_false hvpos.not_gt]; rfl
      · exact absurd hle (topQ_lt_onGrid (le_abs_mid_approxExp2 he hX h128)).not_ge

theorem fpExp2_exact (h : Fp.fp32.decode a.toNat = .fin n k e) (hk : k ≠ 0) {i : Int} (hX : dyadic n k e = i) (h0 : -149 ≤ i)
    (h1 : i < 128) : finQ (Fp.fp32.decode (fpExp2 false a.toNat).1) = some (2 ^ i) ∧ (fpExp2 false a.toNat).2 = 0 := by
  have h130 : ¬(130 : ℚ) ≤ i := by rw [not_le]; exact_mod_cast (show i < 130 by omega)
  have h200 : ¬(i : ℚ) ≤ -200 := by rw [not_le]; exact_mod_cast (show -200 < i by omega)
  rw [fpExp2_eq h hk hX, if_neg h130, if_neg h200, roundQ_intCast, if_pos rfl, ← dyadic_one]
  refine roundTo_sig one_ne_zero (by norm_num) h0 ?_
  rw [dyadic_one, abs_of_pos (by positivity), topQ_fp32]
  calc (2 : ℚ) ^ i ≤ 2 ^ (127 : Int) := zpow_le_zpow_right₀ one_le_two (by omega)
    _ ≤ _ := by norm_num

theorem fpExp2_near (h : Fp.fp32.decode a.toNat = .fin n k e) (hk : k ≠ 0) (he : -149 ≤ e) (hX : dyadic n k e = X) (h128 : X < 128)
    (hof : (fpExp2 false a.toNat).2.testBit 2 = false) : Near (fpExp2 false a.toNat) ((2 : ℝ) ^ (X : ℝ)) := by
  have hunit : (2 : ℝ) ^ (-149 : Int) ≤ unitAt (2 ^ (X : ℝ)) := le_max_right _ _
  rw [fpExp2_eq h hk hX, if_neg (by linarith)] at hof ⊢
  split at hof
  · next h200 =>
    rw [if_pos h200]
    have hsmall : (2 : ℝ) ^ (X : ℝ) ≤ 2 ^ (-200 : Int) := by
      rw [← Real.rpow_intCast]
      exact Real.rpow_le_rpow_of_exponent_le one_le_two (by exact_mod_cast h200)
    have hpos := Real.rpow_pos_of_pos (two_pos (α := ℝ)) (X : ℝ)
    refine near_of_bounded 3 a (.inl (by rw [tiny]; norm_num)) (le_max_right _ _)
      ((zpow_le_zpow_right₀ one_le_two (by rw [tiny]; norm_num)).trans hunit) ?_ hof
    rw [tiny_q, Rat.cast_zpow, Rat.cast_ofNat, abs_of_nonneg (by linarith)]
    calc (2 : ℝ) ^ (-200 : Int) - 2 ^ (X : ℝ) ≤ 2 ^ (-200 : Int) := by linarith
      _ ≤ 1 / 200 * 2 ^ (-149 : Int) := by norm_num
      _ ≤ _ := by gcongr
  · next h200 =>
    rw [if_neg h200]
    split at hof
    · next hT =>
      rw [if_pos hT]
      have hr := roundTo_isRound .fp32 .rn false false (e := .num false 1 (roundQ .rz X) false) (v := 2 ^ roundQ .rz X)
        ⟨one_ne_zero, (dyadic_one _).symm⟩
      rcases isRound_plain hr with ⟨h20, -⟩ | ⟨-, hfin, -⟩
      · rw [h20] at hof
        exact absurd hof (show ¬Nat.testBit 20 2 = false by decide)
      · refine near_of_rounded (by positivity) hfin ?_
        have hv : (2 : ℝ) ^ (X : ℝ) = 2 ^ roundQ .rz X := by
          rw [← Real.rpow_intCast]
          congr 1
          exact_mod_cast hT.symm
        rw [hv, Rat.cast_zpow, Rat.cast_ofNat, sub_self, abs_zero]
        exact (unitAt_pos _).le
    · next hT =>
      rw [if_neg hT]
      obtain ⟨-, -, -, -, -, -, hv, -⟩ := approxExp2_spec n k (x := e) (by omega)
      obtain ⟨hclose, hx⟩ := approxExp2_close n k (x := e) (by omega)
      rw [hX] at hclose hx
      exact near_of_bounded 3 a (approxExp2_fine n k (by omega)) (two_zpow_ulpAt_le (fxOne_pos.trans_le hv).ne') hx hclose hof

theorem fpExp2_inexact (h : Fp.fp32.decode a.toNat = .fin n k e) (hk : k ≠ 0) (he : -149 ≤ e) (hX : dyadic n k e = X)
    (hfrac : ∀ i : Int, X ≠ i) : (fpExp2 false a.toNat).2.testBit 4 = true := by
  rw [fpExp2_eq h hk hX, if_neg (c := (roundQ .rz X : ℚ) = X) fun hT => hfrac _ hT.symm]
  split
  · rfl
  · split
    · exact (bounded_spec 3 a (a := tiny) (.inl (by rw [tiny]; norm_num)) _).1
    · exact (bounded_spec 3 a (approxExp2_fine n k (by omega)) _).1

end

/-! The logarithm. -/

section
variable {a : Word} {k : Nat} {e : Int}

/-- A value is a power of two when its significand is. -/
theorem eq_two_pow_of_dyadic (hk : k ≠ 0) {i : Int} (h : dyadic false k e = 2 ^ i) : k = 2 ^ Nat.log2 k ∧ i = e + Nat.log2 k := by
  have hlog := log_dyadic false hk (x := e)
  have h2 : Int.log 2 |(2 : ℚ) ^ i| = i := by
    rw [abs_of_pos (by positivity)]
    exact_mod_cast Int.log_zpow (R := ℚ) Nat.one_lt_two i
  have hi : i = e + Nat.log2 k := by rw [← hlog, h, h2]
  refine ⟨?_, hi⟩
  rw [hi, zpow_add₀ two_ne_zero, mul_comm, zpow_natCast] at h
  have : (k : ℚ) * 2 ^ e = 2 ^ Nat.log2 k * 2 ^ e := by rw [← h, dyadic_eq]; simp
  exact_mod_cast mul_right_cancel₀ (by positivity) this

theorem fpLog2_eq (h : Fp.fp32.decode a.toNat = .fin false k e) (hk : k ≠ 0) {j : Int} (hj : e + Nat.log2 k = j) :
    fpLog2 false a.toNat = if k = 2 ^ Nat.log2 k then
        roundTo .fp32 .rn false false (if j = 0 then .zero false else .num (decide (j < 0)) j.natAbs 0 false)
      else bounded 4 a false (approxLog2 k e) fun c => within c (approxLog2 k e) 2 (ulpAt (approxLog2 k e)) := by
  rw [fpLog2, h, ftzIn_false]
  simp only [hk, if_false, Bool.false_eq_true, BitVec.ofNat_toNat, BitVec.setWidth_eq, hj]

/-- A small integer is given as it is. -/
theorem roundTo_int {j : Int} (hj : j.natAbs < 2 ^ 24) :
    let r := roundTo .fp32 .rn false false (if j = 0 then .zero false else .num (decide (j < 0)) j.natAbs 0 false)
    finQ (Fp.fp32.decode r.1) = some (j : ℚ) ∧ r.2 = 0 := by
  dsimp only
  split
  · next h0 =>
    rw [h0, Int.cast_zero]
    exact ⟨(codes_zero .fp32 false).1, rfl⟩
  · next h0 =>
    have hdy : dyadic (decide (j < 0)) j.natAbs 0 = j := by rw [dyadic_int, zpow_zero, mul_one]
    rw [← hdy]
    refine roundTo_sig (by omega) hj (by norm_num) ?_
    rw [abs_dyadic, topQ_fp32, zpow_zero, mul_one]
    have : (j.natAbs : ℚ) ≤ 2 ^ 24 := by exact_mod_cast hj.le
    refine this.trans ?_
    norm_num

theorem fpLog2_pow (h : Fp.fp32.decode a.toNat = .fin false k e) (hk : k ≠ 0) (hk' : k < 2 ^ 24) (he : -149 ≤ e) (he' : e ≤ 104)
    (hpow : k = 2 ^ Nat.log2 k) : finQ (Fp.fp32.decode (fpLog2 false a.toNat).1) = some ((e + Nat.log2 k : Int) : ℚ) ∧
      (fpLog2 false a.toNat).2 = 0 := by
  have hl : Nat.log2 k < 24 := (Nat.log2_lt hk).2 hk'
  rw [fpLog2_eq h hk rfl, if_pos hpow]
  exact roundTo_int (by omega)

theorem approxLog2_fine : (approxLog2 k e).Fine := .inl (by rw [approxLog2_x]; norm_num)

/-- The logarithm of a value that is no power of two: near 0 at most as near as the least value above 1. -/
theorem logb_bounds (hk : k ≠ 0) (hk' : k < 2 ^ 24) (he : -149 ≤ e) (he' : e ≤ 104) (hpow : k ≠ 2 ^ Nat.log2 k) :
    1 / 2 ^ 25 ≤ |Real.logb 2 (k * 2 ^ e)| ∧ |Real.logb 2 (k * 2 ^ e)| ≤ 149 := by
  have hpos : (0 : ℝ) < k * 2 ^ e := by positivity
  constructor
  · refine abs_logb_ge hpos (abs_sub_one_ge hk' fun h1 => hpow ?_)
    have hQ : dyadic false k e = 2 ^ (0 : Int) := by
      have hR : ((dyadic false k e : ℚ) : ℝ) = ((1 : ℚ) : ℝ) := by rw [cast_dyadic]; simpa using h1
      rw [zpow_zero]
      exact Rat.cast_injective hR
    exact (eq_two_pow_of_dyadic hk hQ).1
  · have hlo : (2 : ℝ) ^ (-149 : Int) ≤ k * 2 ^ e := by
      have hk1 : (1 : ℝ) ≤ k := by exact_mod_cast Nat.one_le_iff_ne_zero.2 hk
      calc (2 : ℝ) ^ (-149 : Int) = 1 * 2 ^ (-149 : Int) := (one_mul _).symm
        _ ≤ k * 2 ^ e := by gcongr; norm_num
    have hhi : (k : ℝ) * 2 ^ e ≤ 2 ^ (128 : Int) := by
      have hk1 : (k : ℝ) ≤ 2 ^ 24 := by exact_mod_cast hk'.le
      calc (k : ℝ) * 2 ^ e ≤ 2 ^ 24 * 2 ^ (104 : Int) := by gcongr; norm_num
        _ = 2 ^ (128 : Int) := by norm_num
    have h1 := Real.logb_le_logb_of_le one_lt_two (by positivity) hlo
    have h2 := Real.logb_le_logb_of_le one_lt_two hpos hhi
    rw [logb_two_zpow] at h1 h2
    push_cast at h1 h2
    exact abs_le.2 ⟨by linarith, by linarith⟩

theorem fpLog2_near (h : Fp.fp32.decode a.toNat = .fin false k e) (hk : k ≠ 0) (hk' : k < 2 ^ 24) (he : -149 ≤ e) (he' : e ≤ 104)
    (hpow : k ≠ 2 ^ Nat.log2 k) : Near (fpLog2 false a.toNat) (Real.logb 2 (k * 2 ^ e)) := by
  obtain ⟨hge, hle⟩ := logb_bounds hk hk' he he' hpow
  have hclose := abs_approx_q_sub (approxLog2_x k e) (approxLog2_spec hk hk' e)
  generalize Real.logb 2 (k * 2 ^ e) = v at *
  have hunit : (1 : ℝ) / 2 ^ 48 ≤ unitAt v := by
    refine le_trans ?_ (le_max_left _ _)
    calc (1 : ℝ) / 2 ^ 48 = 2 ^ (-23 : Int) * (1 / 2 ^ 25) := by norm_num
      _ ≤ _ := by gcongr
  have hv0 : (approxLog2 k e).v ≠ 0 := fun h0 => by
    rw [approx_q_cast, h0, Int.cast_zero, zero_mul, zero_sub, abs_neg] at hclose
    have := hge.trans hclose
    norm_num at this
  have hmid : |(approxLog2 k e).mid| ≤ 2 ^ (127 : Int) := by
    have hq : |(((approxLog2 k e).q : ℚ) : ℝ)| ≤ 150 := by
      have := abs_sub_le (((approxLog2 k e).q : ℚ) : ℝ) v 0
      rw [sub_zero, sub_zero] at this
      norm_num at hclose
      linarith
    have hqQ : |(approxLog2 k e).q| ≤ 150 := by exact_mod_cast hq
    have hm := abs_mid_sub (approxLog2 k e)
    have hx : (2 : ℚ) ^ (approxLog2 k e).x ≤ 1 := zpow_le_one_of_nonpos₀ one_le_two (by rw [approxLog2_x]; norm_num)
    have := abs_sub_abs_le_abs_sub (approxLog2 k e).mid (approxLog2 k e).q
    norm_num
    linarith
  rw [fpLog2_eq h hk rfl, if_neg hpow]
  refine near_of_bounded 4 a approxLog2_fine (two_zpow_ulpAt_le hv0) ?_ (hclose.trans ?_) (bounded_no_overflow 4 a approxLog2_fine _ hmid)
  · rw [approxLog2_x]
    exact le_trans ((zpow_le_zpow_right₀ one_le_two (show (-280 : Int) ≤ -48 by norm_num)).trans (by norm_num)) hunit
  · refine le_trans ?_ (mul_le_mul_of_nonneg_left hunit (by norm_num))
    norm_num

theorem fpLog2_inexact (h : Fp.fp32.decode a.toNat = .fin false k e) (hk : k ≠ 0) (hpow : k ≠ 2 ^ Nat.log2 k) :
    (fpLog2 false a.toNat).2.testBit 4 = true := by
  rw [fpLog2_eq h hk rfl, if_neg hpow]
  exact (bounded_spec 4 a approxLog2_fine _).1

/-- FLOG2 of a positive value. -/
theorem fpLog2_spec {x : ℚ} (hx : finQ (Fp.fp32.decode a.toNat) = some x) (h0 : 0 < x) :
    (∀ i : Int, x = 2 ^ i → finQ (Fp.fp32.decode (fpLog2 false a.toNat).1) = some (i : ℚ) ∧ (fpLog2 false a.toNat).2 = 0) ∧
      Near (fpLog2 false a.toNat) (Real.logb 2 x) ∧
      ((∀ i : Int, x ≠ 2 ^ i) → (fpLog2 false a.toNat).2.testBit 4 = true) := by
  obtain ⟨n, k, e, hd, rfl, -, hk', he, he'⟩ := decode_fin hx
  have hk : k ≠ 0 := fun hk => h0.ne' (dyadic_eq_zero.2 hk)
  obtain rfl : n = false := by
    have := (dyadic_neg_iff (n := n) (x := e) hk).not.1 h0.not_gt
    simpa using this
  have hval : ((dyadic false k e : ℚ) : ℝ) = k * 2 ^ e := by rw [cast_dyadic]; simp
  by_cases hpow : k = 2 ^ Nat.log2 k
  · obtain ⟨hfin, hfl⟩ := fpLog2_pow hd hk hk' he he' hpow
    have hX : dyadic false k e = 2 ^ (e + Nat.log2 k : Int) := by
      have hkQ : (k : ℚ) = 2 ^ Nat.log2 k := by exact_mod_cast hpow
      rw [zpow_add₀ two_ne_zero, zpow_natCast, ← hkQ, mul_comm, dyadic_eq]; simp
    refine ⟨fun i hi => ?_, ⟨_, hfin, ?_⟩, fun hno => absurd hX (hno _)⟩
    · rw [(eq_two_pow_of_dyadic hk hi).2]
      exact ⟨hfin, hfl⟩
    · rw [hX, Rat.cast_zpow, Rat.cast_ofNat, logb_two_zpow, Rat.cast_intCast, sub_self, abs_zero]
      have := unitAt_pos ((e + Nat.log2 k : Int) : ℝ)
      positivity
  · refine ⟨fun i hi => absurd (eq_two_pow_of_dyadic hk hi).1 hpow, ?_, fun _ => fpLog2_inexact hd hk hpow⟩
    rw [hval]
    exact fpLog2_near hd hk hk' he he' hpow

end

end Sys2Proof.Machine

open Sys2Proof Sys2Proof.Machine Sys2Proof.Claims

/-- Settles O12: each form gives the rounding of a fixed-point approximation of its series, or a value within two units in the last
place of it, and the approximation errs by less than a hundredth of a unit. -/
theorem transcendentalBounds : Obligations.TranscendentalBounds := by
  unfold Obligations.TranscendentalBounds
  intro a x hx h0
  obtain ⟨n, k, e, hd, hX, -, -, he, -⟩ := decode_fin hx
  have hk : k ≠ 0 := fun hk => h0 (hX ▸ dyadic_eq_zero.2 hk)
  refine ⟨⟨fpExp2_overflow hd hk he hX, fun i hi => fpExp2_exact hd hk (hX.trans hi), fpExp2_near hd hk he hX,
    fpExp2_inexact hd hk he hX⟩, fpLog2_spec hx, fun co => ⟨fpTrig_inexact hd hk, fun h => ?_, fun h => ?_⟩⟩
  · rw [← hX] at h ⊢
    exact fpTrig_near hd hk he h
  · rw [← hX] at h
    exact fpTrig_large hd hk he h
end

section
/-! The age order of a lane: YIELD, the switch marker and 256 grants (R165, R166, R187). -/

namespace Sys2Proof.Machine

open Sys2Proof.Claims

/-- Reading the warp that has been changed, and another one. -/
theorem warp?_modWarp {s : State} {u : Nat} {w : Warp} {f : Warp → Warp} (h : s.warp? u = some w) (hf : ∀ x, (f x).uid = x.uid) :
    (s.modWarp u f).warp? u = some (f w) := by
  simp only [State.warp?, State.modWarp] at *
  rw [find?_map_uid _ _ (fun x => by by_cases hx : x.uid = u <;> simp [hx, hf]), h]
  have : w.uid = u := by simpa using List.find?_some h
  simp [this]

theorem warp?_modWarp_ne (s : State) {u v : Nat} (f : Warp → Warp) (hf : ∀ x, (f x).uid = x.uid) (hv : v ≠ u) :
    (s.modWarp u f).warp? v = s.warp? v := by
  simp only [State.warp?, State.modWarp]
  rw [find?_map_uid _ _ (fun x => by by_cases hx : x.uid = u <;> simp [hx, hf])]
  cases h : s.warps.find? fun x => x.uid == v with
  | none => rfl
  | some x =>
    have : x.uid = v := by simpa using List.find?_some h
    simp [this, hv]

/-- Warp `w` of `s` stands in `t` as `w'`, the youngest of its lane, its count restarted and perhaps its parking changed;
nothing else differs. -/
def Aged (s t : State) (w w' : Warp) : Prop :=
  t = { s with cores := t.cores, warps := t.warps } ∧ t.warp? w.uid = some w' ∧
    w' = { w with grants := 0, park := w'.park } ∧ (∀ v, v ≠ w.uid → t.warp? v = s.warp? v) ∧
    (∀ k, k ≠ w.core → t.core k = s.core k) ∧
    t.core w.core = { s.core w.core with lanes := (t.core w.core).lanes } ∧
    look w.lane (t.core w.core).lanes =
      some ((((look w.lane (s.core w.core).lanes).getD []).filter (· ≠ w.uid)) ++ [w.uid]) ∧
    ∀ k, k ≠ w.lane → look k (t.core w.core).lanes = look k (s.core w.core).lanes

/-- The warp's lane names it last. -/
theorem youngest_core {s : State} {w : Warp} (h : s.warp? w.uid = some w) :
    (s.youngest w.uid).core w.core = { s.core w.core with
      lanes := put w.lane ((((look w.lane (s.core w.core).lanes).getD []).filter (· ≠ w.uid)) ++ [w.uid]) (s.core w.core).lanes } := by
  have hne : (fun x : Nat => x != w.uid) = fun x => decide (x ≠ w.uid) := by funext x; simp [bne, Bool.beq_eq_decide_eq]
  simp only [State.youngest, h, hne]
  exact setCore_core s w.core _

theorem youngest_eq {s : State} {w : Warp} (h : s.warp? w.uid = some w) :
    ∃ x, s.youngest w.uid = (s.setCore w.core x).modWarp w.uid fun (w : Warp) => { w with grants := 0 } :=
  ⟨_, by rw [State.youngest, h]⟩

theorem youngest_aged {s : State} {u : Nat} {w : Warp} (h : s.warp? u = some w) :
    Aged s (s.youngest u) w { w with grants := 0 } := by
  obtain rfl : w.uid = u := warp?_uid h
  obtain ⟨x, hy⟩ := youngest_eq h
  refine ⟨by rw [hy]; rfl, by rw [hy]; exact warp?_modWarp h fun _ => rfl, rfl,
    fun v hv => by rw [hy]; exact warp?_modWarp_ne _ _ (fun _ => rfl) hv,
    fun k hk => by rw [hy]; exact setCore_core_ne s hk x, ?_, ?_, fun k hk => ?_⟩
  all_goals rw [youngest_core h]
  · exact look_put_self ..
  · exact look_put_ne hk ..

/-- What a step does to its warp's parking before it makes the warp the youngest shows in the warp only. -/
theorem aged_of_setWarp {s t : State} {w w1 w' : Warp} (hw : w1 = { w with park := w1.park })
    (h : Aged (s.setWarp w1) t w1 w') : Aged s t w w' := by
  obtain ⟨ht, hg, hf, ho, hk, hc, hl, hr⟩ := h
  have hu : w1.uid = w.uid := by rw [hw]
  have hcore : w1.core = w.core := by rw [hw]
  have hlane : w1.lane = w.lane := by rw [hw]
  rw [hu] at hg ho hl
  rw [hcore] at hk hc hl hr
  rw [hlane] at hl hr
  refine ⟨ht, hg, hf.trans (by rw [hw]), fun v hv => (ho v hv).trans (warp?_setWarp_ne s (by rw [hu]; exact hv.symm)),
    hk, hc, hl, hr⟩

theorem yield_eq {s : State} {c : Issue} {w : Warp} {h : Hdr} {d a b : BitVec 7} (I : Issuing s c w h.c) :
    exec (.yield h d a b) s =
      .next (if parts c w h = 0 then s.endWord h .no else (s.endWord h .no).youngest c.uid) := by
  simp only [exec_yield, execYield, cur_eq I.issue I.warp, beq_iff_eq, parts_eq]

/-- With participants YIELD ends its word, and then makes its warp the youngest. -/
theorem yield_ages {s : State} {c : Issue} {w : Warp} {h : Hdr} {d a b : BitVec 7} (I : Issuing s c w h.c)
    (hp : parts c w h ≠ 0) :
    ∃ t1 t w1 w', exec (.yield h d a b) s = .next t ∧ Ran s t1 c w w1 h.c (fun _ => 0) ∧ w'.park = w1.park ∧
      Aged t1 t w1 w' := by
  obtain ⟨w1, hR⟩ := endWord_ran (fl := fun _ => 0) (onlyWarp_refl s _) I.issue I.warp I.sized I.calm I.sound rfl
    (fun t _ => (Nat.or_zero _).symm) .no
  exact ⟨_, _, w1, { w1 with grants := 0 }, by rw [yield_eq I, if_neg hp], hR, rfl, youngest_aged hR.warp⟩

/-- Does a store-queue entry give no result (R22)? -/
def SqEntry.silent (e : SqEntry) : Prop :=
  e.kind = .store ∨ (∃ q l, e.kind = .push q l) ∨ ∃ o n sc, e.kind = .atom o n sc none

/-- A switch marker is released once no result is outstanding (R24, R165). -/
theorem switchMarkerRelease_ages {s : State} {u : Nat} {w : Warp} (h : s.warp? u = some w) (hm : w.park.marker = true)
    (ha : ∀ a ∈ w.accs, a.dst = [] ∧ a.pdst = []) (hq : ∀ e ∈ w.sq, e.silent) :
    ∃ t w', exec (.switchMarkerRelease u) s = .next t ∧ w'.park = { w.park with marker := false } ∧ Aged s t w w' := by
  let w1 : Warp := { w with park := { w.park with marker := false } }
  have hw1 : (s.setWarp w1).warp? u = some w1 := warp?_setWarp h (show w.uid = u from warp?_uid h)
  refine ⟨(s.setWarp w1).youngest u, _, ?_, rfl, aged_of_setWarp rfl (youngest_aged hw1)⟩
  rw [exec_switchMarkerRelease, execSwitchMarkerRelease, h]
  simp only [hm, Bool.true_and]
  refine if_pos ?_
  rw [Bool.not_eq_true', Bool.or_eq_false_iff, List.any_eq_false, List.any_eq_false]
  refine ⟨fun a hmem => by simp [ha a hmem], fun e hmem => ?_⟩
  rcases hq e hmem with he | ⟨q, l, he⟩ | ⟨o, n, sc, he⟩ <;> simp [he]

/-- 256 grants make the warp the youngest (R166). -/
theorem grantCountRotation_ages {s : State} {u : Nat} {w : Warp} (h : s.warp? u = some w) (hg : 256 ≤ w.grants) :
    ∃ t w', exec (.grantCountRotation u) s = .next t ∧ w'.park = w.park ∧ Aged s t w w' :=
  ⟨_, { w with grants := 0 }, by rw [exec_grantCountRotation, execGrantCountRotation, h]; exact if_pos hg, rfl, youngest_aged h⟩

end Sys2Proof.Machine

open Sys2Proof Sys2Proof.Machine Sys2Proof.Claims

/-- Settles O24: each of the three steps ends in the one operation that makes a warp the youngest of its lane. -/
theorem ageOrder : Obligations.AgeOrder := by
  unfold Obligations.AgeOrder
  exact ⟨fun h d a b => does_stay .no fun s c w I hp => by rw [yield_eq I, if_pos hp],
    fun h d a b s c w I hp => yield_ages I hp, fun s u w h hm ha hq => switchMarkerRelease_ages h hm ha hq,
    fun s u w h hg => grantCountRotation_ages h hg⟩
end

section
/-! Rejoin registers: the completion test, and where a released group goes (R150, R151). -/

namespace Sys2Proof.Machine

/-! The completion test. -/

/-- The completion test on rejoin register `k` (R150). -/
def Warp.testRejoin (w : Warp) (k : Nat) : Warp :=
  if (w.rjk k).complete then { w.releaseGroup ((w.rjk k).rp, (w.rjk k).ar) with rj := w.rj.set k Rejoin.none } else w

theorem testRejoins_eq (w : Warp) : w.testRejoins = (List.range 8).foldl Warp.testRejoin w := rfl

theorem testRejoin_foldl_incomplete {w : Warp} {l : List Nat} (h : ∀ k ∈ l, (w.rjk k).complete = false) :
    l.foldl Warp.testRejoin w = w := by
  induction l with
  | nil => rfl
  | cons k ks ih =>
    have hk : w.testRejoin k = w := by simp [Warp.testRejoin, h k List.mem_cons_self]
    rw [List.foldl_cons, hk, ih fun j hj => h j (List.mem_cons_of_mem k hj)]

/-- The register `a` names, after it has been written, and another one. -/
theorem getD_set_self (l : List Rejoin) {a : Nat} (ha : a < l.length) (r : Rejoin) : (l.set a r).getD a Rejoin.none = r := by
  simp [ha]

theorem getD_set_ne (l : List Rejoin) {a j : Nat} (h : j ≠ a) (r : Rejoin) :
    (l.set a r).getD j Rejoin.none = l.getD j Rejoin.none := by
  simp [List.getD_eq_getElem?_getD, List.getElem?_set_ne (Ne.symm h)]

theorem rejoin_none_complete : Rejoin.none.complete = false := rfl

/-- A write of a register that is not complete completes none. -/
theorem getD_set_incomplete {l : List Rejoin} {a j : Nat} {r : Rejoin} (hr : r.complete = false)
    (hl : j ≠ a → (l.getD j Rejoin.none).complete = false) : ((l.set a r).getD j Rejoin.none).complete = false := by
  by_cases h : j = a
  · subst h
    by_cases hj : j < l.length
    · rwa [getD_set_self l hj]
    · simp [hj, rejoin_none_complete]
  · rw [getD_set_ne l h]; exact hl h

theorem incomplete_iff (w : Warp) : (∀ r ∈ w.rj, r.complete = false) ↔ ∀ j, (w.rjk j).complete = false := by
  constructor
  · intro h j
    by_cases hj : j < w.rj.length
    · rw [Warp.rjk, List.getD_eq_getElem _ _ hj]; exact h _ (List.getElem_mem hj)
    · rw [Warp.rjk, List.getD_eq_default _ _ (by omega)]; exact rejoin_none_complete
  · intro h r hr
    obtain ⟨j, hj, rfl⟩ := List.getElem_of_mem hr
    rw [← List.getD_eq_getElem w.rj Rejoin.none hj]; exact h j

theorem incomplete_of_calm {w : Warp} {k : Nat} (h : w.calm k = true) (j : Nat) : (w.rjk j).complete = false :=
  (incomplete_iff w).1 (calm_iff.1 h).2.2.2.2.1 j

/-- Where one register is complete, its group is released and it is cleared. -/
theorem testRejoins_one {w : Warp} {a : Nat} (ha : a < 8) (hr : (w.rjk a).complete = true)
    (ho : ∀ j, j ≠ a → (w.rjk j).complete = false) :
    w.testRejoins = { w.releaseGroup ((w.rjk a).rp, (w.rjk a).ar) with rj := w.rj.set a Rejoin.none } := by
  obtain ⟨l, l', hl⟩ := List.append_of_mem (List.mem_range.2 ha)
  have hnot : a ∉ l := fun hmem => by
    have hd := List.nodup_range (n := 8)
    rw [hl, List.nodup_append] at hd
    exact hd.2.2 a hmem a List.mem_cons_self rfl
  rw [testRejoins_eq, hl, List.foldl_append,
    testRejoin_foldl_incomplete fun j hj => ho j fun h => hnot (h ▸ hj), List.foldl_cons]
  have hstep : w.testRejoin a =
      { w.releaseGroup ((w.rjk a).rp, (w.rjk a).ar) with rj := w.rj.set a Rejoin.none } := by
    rw [Warp.testRejoin, if_pos hr]
  rw [hstep]
  exact testRejoin_foldl_incomplete fun j _ => getD_set_incomplete rejoin_none_complete fun hj => ho j hj

/-- Writing a rejoin register so that it is not complete leaves the warp calm. -/
theorem calm_setRejoin {w : Warp} {k : Nat} (h : w.calm k = true) (a : Nat) {r : Rejoin} (hr : r.complete = false) :
    ({ w with rj := w.rj.set a r } : Warp).calm k = true := by
  have hi := incomplete_of_calm h
  obtain ⟨hl, hm, hp, hst, -, hh⟩ := calm_iff.1 h
  exact calm_iff.2 ⟨hl, hm, hp, hst,
    (incomplete_iff _).2 fun j => getD_set_incomplete hr fun _ => hi j, hh⟩

theorem setRejoin_sized {w : Warp} (h : w.sized = true) (a : Nat) (r : Rejoin) :
    ({ w with rj := w.rj.set a r } : Warp).sized = true := by
  rw [sized_iff] at h ⊢
  simpa using h

/-! Where a released group goes. -/

/-- The warp whose rejoin register `a` has released its group into slot `k`. -/
def Warp.released (w : Warp) (a k : Nat) : Warp :=
  { w.place k ((w.rjk a).rp, (w.rjk a).ar) with rj := w.rj.set a Rejoin.none }

/-- Slot `k` takes a released group: the lower slot that may (R151). -/
def Warp.takes (w : Warp) (k : Nat) : Prop := w.slotFree k = true ∧ (k = 0 ∨ k = 1 ∧ w.slotFree 0 = false)

theorem releaseGroup_eq {w : Warp} {k : Nat} (h : w.takes k) (g : DWord × Mask) : w.releaseGroup g = w.place k g := by
  obtain ⟨hf, rfl | ⟨rfl, h0⟩⟩ := h
  · rw [Warp.releaseGroup, if_pos hf]
  · rw [Warp.releaseGroup, if_neg (by simp [h0]), if_pos hf]

theorem testRejoins_released {w : Warp} {a k : Nat} (ha : a < 8) (hr : (w.rjk a).complete = true)
    (ho : ∀ j, j ≠ a → (w.rjk j).complete = false) (hk : w.takes k) : w.testRejoins = w.released a k := by
  rw [testRejoins_one ha hr ho, releaseGroup_eq hk]; rfl

theorem SameWarp.slotFree {w w' : Warp} (h : SameWarp w w') (j : Nat) : w'.slotFree j = w.slotFree j := by
  have hh : w'.handler = w.handler := by rw [h.frame]
  simp only [Warp.slotFree, Warp.frozen, h.mask, h.wait, hh]

theorem SameWarp.released {w w' : Warp} (h : SameWarp w w') (a : Nat) {k : Nat} (hk : k < w.slots.length) :
    SameWarp (w.released a k) (w'.released a k) := by
  have hr : w'.rj = w.rj := by rw [h.frame]
  have hrk : w'.rjk a = w.rjk a := by rw [Warp.rjk, hr]; rfl
  have hs := place_slot hk ((w.rjk a).rp, (w.rjk a).ar)
  have hs' := place_slot (h.length ▸ hk) ((w.rjk a).rp, (w.rjk a).ar)
  have key : ∀ {α : Type} (f : Slot → α) (_ : ∀ j, f (w'.slot j) = f (w.slot j))
      (_ : ∀ x y : Slot, f x = f y → f { x with pc := (w.rjk a).rp, mask := (w.rjk a).ar, epc := (w.rjk a).rp, emask := (w.rjk a).ar } =
        f { y with pc := (w.rjk a).rp, mask := (w.rjk a).ar, epc := (w.rjk a).rp, emask := (w.rjk a).ar }) (j : Nat),
      f ((w'.released a k).slot j) = f ((w.released a k).slot j) := fun f hf hg j => by
    rw [Warp.released, Warp.released, hrk]
    refine (congrArg f (hs' j)).trans (Eq.trans ?_ (congrArg f (hs j)).symm)
    by_cases hj : j = k
    · rw [if_pos hj, if_pos hj]; exact hg _ _ (hf k)
    · rw [if_neg hj, if_neg hj]; exact hf j
  refine ⟨?_, ?_, key Slot.mask h.mask fun _ _ _ => rfl, key Slot.pc h.pc fun _ _ _ => rfl,
    key Slot.wait h.wait fun _ _ e => e, key Slot.trap h.trap fun _ _ e => e, h.queue⟩
  · rw [Warp.released, hrk, hr]
    rw [h.frame]; rfl
  · simp [Warp.released, Warp.place, h.length]

end Sys2Proof.Machine
end

section
/-! Retiring where the threads move to slots, park or are released (R17, R147, R151). -/

namespace Sys2Proof.Machine

/-- The threads of a word or chain without a trap move to groups, boundaries follow, and the completion test; nothing more is
due if the warp is then calm. -/
theorem retire_moves {s : State} {c : Issue} {w0 w : Warp} (hi : s.issue = some c) (hw : s.warp? c.uid = some w0)
    (hu : w.uid = c.uid) (ht : c.trap = none) (bnd : Bnd) (gs : List (DWord × Mask)) :
    ∃ w', SameWarp ((w.retiring c).placeGroups c.slot gs) w' ∧ ∀ k < 2, w'.testRejoins.calm k = true →
      w'.uid = c.uid → w'.testRejoins.uid = c.uid →
      (s.setWarp w).retire bnd (some gs) = { s.setWarp w'.testRejoins with issue := none } := by
  let first := gs.headD (c.npc, 0)
  let split := gs.length != 1 || gs.foldl (fun m g => m ||| g.2) 0 != (w.slot c.slot).mask
  let w3 := (w.retiring c).placeGroups c.slot gs
  let w4 : Warp := if split then w3.boundary (w.seq + 1) c.slot first.1 first.2
    else if c.marker || c.bound || bnd == .after || bnd == .self then w3.boundary (w.seq + 1) c.slot first.1 first.2
    else w3
  have h4 : SameWarp w3 w4 := by
    by_cases h : split = true
    · simp only [w4, h, if_true]; exact .boundary _ _ _ _ _
    · by_cases hb : (c.marker || c.bound || bnd == .after || bnd == .self) = true
      · simp only [w4, h, hb, if_true]; exact .boundary _ _ _ _ _
      · simp only [w4, h, hb]; exact .rfl' _
  refine ⟨w4, h4, fun k hk hcalm hu4 hu5 => ?_⟩
  have hi' : (s.setWarp w).issue = some c := hi
  have hgo : (s.setWarp w).retire bnd (some gs) =
      (({ s.setWarp w with issue := none }.setWarp w4).modWarp c.uid Warp.testRejoins).settle c.uid := by
    unfold State.retire
    simp only [cur_eq hi' (warp?_setWarp hw hu), ht, marked_eq]
    rfl
  have hmod : ({ s.setWarp w with issue := none }.setWarp w4).modWarp c.uid Warp.testRejoins =
      ({ s with issue := none } : State).setWarp w4.testRejoins := by
    rw [modWarp_setWarp _ _ hu4, ← hu5]
    exact congrArg (fun t : State => { t with issue := none }) (setWarp_setWarp s (hu.trans hu5.symm))
  rw [hgo, hmod, ← hu5]
  exact settle_calm (w0 := w0) (hu5 ▸ hw) hcalm hk

/-- A word that moves no thread moves all of its slot's threads to the next instruction. -/
theorem retire_none {s : State} {c : Issue} {w : Warp} (hi : s.issue = some c) (hw : s.warp? c.uid = some w) (bnd : Bnd) :
    s.retire bnd none = s.retire bnd (some [(c.npc, (w.slot c.slot).mask)]) := by
  unfold State.retire
  simp only [cur_eq hi hw]
  rfl

/-- The state in which warp `w` has retired as `W`, but for regions and released entries, is one that a transfer leaves. -/
theorem took_of_same {s : State} {c : Issue} {w0 w W w' : Warp} {here : DWord × Mask} {there : Option (DWord × Mask)}
    (hw : s.warp? c.uid = some w0) (hu : w.uid = c.uid) (hz : w.sized = true) (hS : SameWarp W w')
    (hf : W = { w.retiring c with slots := W.slots })
    (hwt : ∀ j, (W.slot j).wait = (w.slot j).wait ∧ (W.slot j).trap = (w.slot j).trap)
    (hh : (W.slot c.slot).mask = here.2 ∧ (here.2 ≠ 0 → (W.slot c.slot).pc = here.1)) (hth : w.holdsThere W (1 - c.slot) there) :
    Took s { s.setWarp w' with issue := none } c w w' here there := by
  have hf' : w' = { w.retiring c with slots := w'.slots, sq := w'.sq, bnds := w'.bnds } := by rw [hS.frame, hf]
  have hu' : w'.uid = c.uid := by rw [hf']; exact hu
  have hl : w.fsr.length = 32 := (sized_iff.1 hz).2.2.2.2.1
  refine
    { others := onlyWarp_setWarp s w' none hu', issue := rfl, warp := warp?_setWarp hw hu', frame := by rw [hf']; rfl,
      flags := fun t ht => by rw [hf']; exact nth_orFlags w c.flags (by omega), queue := ?_, park := by rw [hf']; rfl,
      waits := fun j => ⟨(hS.wait j).trans (hwt j).1, (hS.trap j).trans (hwt j).2⟩,
      here := ⟨(hS.mask _).trans hh.1, fun h => (hS.pc _).trans (hh.2 h)⟩, there := ?_ }
  · have hq := hS.queue
    rw [Warp.sameQueue, hf] at hq
    exact hq
  · cases there with
    | none => exact ⟨(hS.mask _).trans hth.1, (hS.pc _).trans hth.2⟩
    | some g => exact ⟨(hS.mask _).trans hth.1, (hS.pc _).trans hth.2⟩

/-- A transfer does not tell which threads it parked. -/
theorem Took.of_lastIns {s t : State} {c : Issue} {w w' : Warp} {l : LastIns} {here : DWord × Mask} {there : Option (DWord × Mask)}
    (h : Took s t c { w with lastIns := l } w' here there) : Took s t c w w' here there :=
  ⟨h.others, h.issue, h.warp, h.frame, h.flags, h.queue, h.park, h.waits, h.here, h.there⟩

end Sys2Proof.Machine
end

section
/-! RJENR, RJPARK and RJSTRK (R150, R151, R174). -/

namespace Sys2Proof.Machine

open Sys2Proof.Claims

/-! Tests on one register. -/

theorem complete_iff {r : Rejoin} : r.complete = true ↔ r.ar ≠ 0 ∧ r.en &&& ~~~r.ar = 0 := by
  simp only [Rejoin.complete, Bool.and_eq_true, bne_iff_ne, beq_iff_eq]

theorem complete_eq_false {r : Rejoin} : r.complete = false ↔ r.ar = 0 ∨ r.en &&& ~~~r.ar ≠ 0 := by
  rw [← Bool.not_eq_true, complete_iff, not_and_or, not_not]

/-- Enrolling threads completes no register. -/
theorem enrol_incomplete {r : Rejoin} (h : r.complete = false) (m : Mask) : ({ r with en := r.en ||| m } : Rejoin).complete = false := by
  rw [complete_eq_false] at h ⊢
  refine h.imp_right fun hn h0 => hn (mask_ext fun t ht => ?_)
  have h1 := congrArg (has · t) h0
  simp only [has_and, has_or] at h1 ⊢
  cases he : has r.en t <;> simp_all

/-! Words that change a register and go on. -/

/-- The warp after RJENR has enrolled its participants in register `a`. -/
def Warp.enrolled (w : Warp) (a : Nat) (m : Mask) : Warp :=
  let r := w.rjk a
  { w with rj := w.rj.set a { r with en := r.en ||| m } }

theorem rjenr_does (h : Hdr) (d a b : BitVec 7) : Does (.rjenr h d a b) h always fun _ c w =>
    w.enrolled a.toNat (parts c w h) := by
  intro s c w I _
  obtain ⟨w', hR⟩ := endWord_setWarp_ran I (w1 := w.enrolled a.toNat (parts c w h)) rfl (setRejoin_sized I.sized _ _)
    (fun k hc => calm_setRejoin hc _ (enrol_incomplete (incomplete_of_calm hc _) _)) .after
  exact ⟨_, w', by rw [exec_rjenr, execRjenr, cur_eq I.issue I.warp]; rfl, hR⟩

/-- The warp after RJSTRK has struck its participants from register `a`. -/
def Warp.struck (w : Warp) (a : Nat) (m : Mask) : Warp := { w with rj := w.rj.set a ((w.rjk a).strike m) }

theorem rjstrk_eq {s : State} {c : Issue} {w : Warp} {h : Hdr} {d a b : BitVec 7} (I : Issuing s c w h.c) :
    exec (.rjstrk h d a b) s = .next ((s.setWarp (w.struck a.toNat (parts c w h))).endWord h .after) := by
  rw [exec_rjstrk, execRjstrk, cur_eq I.issue I.warp]; rfl

theorem rjstrk_does (h : Hdr) (d a b : BitVec 7) : Does (.rjstrk h d a b) h
    (fun _ c w => ((w.rjk a.toNat).strike (parts c w h)).complete = false) fun _ c w => w.struck a.toNat (parts c w h) := by
  intro s c w I hp
  obtain ⟨w', hR⟩ := endWord_setWarp_ran I (w1 := w.struck a.toNat (parts c w h)) rfl (setRejoin_sized I.sized _ _)
    (fun k hc => calm_setRejoin hc _ hp) .after
  exact ⟨_, w', rjstrk_eq I, hR⟩

/-! Parking. -/

/-- The register after `p` of its threads have arrived at the packet before `rp` (R150). -/
def Rejoin.arrive (r : Rejoin) (p : Mask) (rp : DWord) : Rejoin :=
  { r with ar := r.ar ||| p, rp := if r.ar = 0 ∧ p ≠ 0 then rp else r.rp }

/-- The warp whose threads `p` have parked on register `a`. -/
def Warp.parked (w : Warp) (a : Nat) (p : Mask) (rp : DWord) : Warp :=
  { w with rj := w.rj.set a ((w.rjk a).arrive p rp), lastIns := { w.lastIns with parked := p } }

theorem rjpark_eq {s : State} {c : Issue} {w : Warp} {h : Hdr} {d a b : BitVec 7} (I : Issuing s c w false) :
    let p := parts c w h &&& (w.rjk a.toNat).en
    let rest := (w.slot c.slot).mask &&& ~~~p
    exec (.rjpark h d a b) s = .next ((s.setWarp (w.parked a.toNat p (c.pkt + 12))).retire .after
      (some (if rest = 0 then [] else [(c.npc, rest)]))) := by
  intro p rest
  have hstay : parts c w h &&& (w.rjk a.toNat).en &&& ~~~(0 : Mask) = p := by
    rw [show ~~~(0 : Mask) = BitVec.allOnes 32 from rfl, BitVec.and_allOnes]
  rw [exec_rjpark, execRjpark, cur_eq I.issue I.warp]
  simp only [I.sound, Option.isSome_none, Bool.false_eq_true, if_false, parts_eq, hstay, beq_iff_eq, Bool.and_eq_true, bne_iff_ne]
  rfl

/-- Slot `c.slot` is left empty. -/
theorem placeGroups_none_slot {w : Warp} {c : Issue} (hl : c.slot < w.slots.length) (j : Nat) :
    ((w.retiring c).placeGroups c.slot []).slot j =
      if j = c.slot then { (w.retiring c).slot c.slot with mask := 0 } else w.slot j := by
  rw [show (w.retiring c).placeGroups c.slot [] = (w.retiring c).setSlot c.slot { (w.retiring c).slot c.slot with mask := 0 } from rfl,
    slot_setSlot _ _ (by rwa [retiring_length])]
  by_cases hj : j = c.slot
  · rw [if_pos hj, if_pos hj]
  · rw [if_neg hj, if_neg hj, retiring_slot w c hl, if_neg hj]

/-- One group stays in slot `c.slot`. -/
theorem placeGroups_one_slot {w : Warp} {c : Issue} (hl : c.slot < w.slots.length) (g : DWord × Mask) (j : Nat) :
    ((w.retiring c).placeGroups c.slot [g]).slot j =
      if j = c.slot then { (w.retiring c).slot c.slot with pc := g.1, mask := g.2 } else w.slot j := by
  rw [placeGroups_one, slot_setSlot _ _ (by rwa [retiring_length])]
  by_cases hj : j = c.slot
  · rw [if_pos hj, if_pos hj]
  · rw [if_neg hj, if_neg hj, retiring_slot w c hl, if_neg hj]

theorem placeGroups_none_length (w : Warp) (c : Issue) :
    ((w.retiring c).placeGroups c.slot []).slots.length = w.slots.length :=
  (setSlot_length ..).trans (retiring_length w c)

theorem placeGroups_one_length (w : Warp) (c : Issue) (g : DWord × Mask) :
    ((w.retiring c).placeGroups c.slot [g]).slots.length = w.slots.length :=
  (setSlot_length ..).trans (retiring_length w c)

/-- All the slot's threads park while the other slot holds threads and nothing is on the stack: the slot is left empty. -/
theorem took_of_emptied {s : State} {c : Issue} {w0 w : Warp} (hi : s.issue = some c) (hw : s.warp? c.uid = some w0)
    (hu : w.uid = c.uid) (hz : w.sized = true) (ht : c.trap = none) (hc : w.calm c.slot = true) (hh : w.handler = none)
    (hd : w.depth = 0) (ho : (w.slot (1 - c.slot)).mask ≠ 0) (bnd : Bnd) :
    ∃ t w', (s.setWarp w).retire bnd (some []) = t ∧ Took s t c w w' (c.npc, 0) none := by
  obtain ⟨hl, -, hp, -, hrj, -⟩ := calm_iff.1 hc
  have hlen : w.slots.length = 2 := (sized_iff.1 hz).2.2.2.2.2.1
  have hne : 1 - c.slot ≠ c.slot := by omega
  have hs := placeGroups_none_slot hl
  obtain ⟨w', hS, hret⟩ := retire_moves hi hw hu ht bnd []
  generalize hW : (w.retiring c).placeGroups c.slot [] = W at hs hS
  have hf : W = { w.retiring c with slots := W.slots } := by rw [← hW]; rfl
  have hWlen : W.slots.length = w.slots.length := by rw [← hW, placeGroups_none_length]
  have hcalmW : W.calm (1 - c.slot) = true := calm_iff.2
    ⟨by omega, by rw [hs, if_neg hne]; exact ho, by rw [hf]; exact hp, .inl (by rw [hf]; exact hd.trans_le (Nat.zero_le _)),
      by rw [hf]; exact hrj, fun h he => by rw [hf] at he; exact absurd (hh.symm.trans he) nofun⟩
  have hcalm : w'.calm (1 - c.slot) = true := calm_of hcalmW hS.length hS.mask hS.wait (by rw [hS.frame]) (by rw [hS.frame])
    (by rw [hS.frame]) (by rw [hS.frame])
  have hu' : w'.uid = c.uid := by rw [hS.frame, hf]; exact hu
  rw [testRejoins_calm hcalm] at hret
  refine ⟨_, w', hret (1 - c.slot) (by omega) hcalm hu' hu', ?_⟩
  refine took_of_same hw hu hz hS hf (fun j => ?_) ⟨?_, fun h => absurd rfl h⟩ ⟨?_, ?_⟩
  · by_cases hj : j = c.slot
    · rw [hs, if_pos hj, retiring_slot w c hl, if_pos rfl, hj]; exact ⟨rfl, rfl⟩
    · rw [hs, if_neg hj]; exact ⟨rfl, rfl⟩
  · rw [hs, if_pos rfl]
  · rw [hs, if_neg hne]
  · rw [hs, if_neg hne]

/-! Releases. -/

/-- Register `a` of a warp is the only one that is complete. -/
def Warp.completeAt (w : Warp) (a : Nat) : Prop := (w.rjk a).complete = true ∧ ∀ j, j ≠ a → (w.rjk j).complete = false

/-- `W` is the retiring warp whose groups have been placed, and slot `k` takes the group of register `a`: slot `c.slot` then
holds `here`, the other slot `there`, and the warp is calm. -/
structure ReleasePlaced (c : Issue) (w W : Warp) (a k : Nat) (here : DWord × Mask) (there : Option (DWord × Mask)) : Prop where
  frame : W = { w.retiring c with slots := W.slots }
  room : k < W.slots.length
  takes : W.takes k
  waits : ∀ j, ((W.released a k).slot j).wait = (w.slot j).wait ∧ ((W.released a k).slot j).trap = (w.slot j).trap
  here : ((W.released a k).slot c.slot).mask = here.2 ∧ ((W.released a k).slot c.slot).pc = here.1
  there : w.holdsThere (W.released a k) (1 - c.slot) there
  calm : (W.released a k).calm c.slot = true

theorem took_of_release {s : State} {c : Issue} {w0 w : Warp} {gs : List (DWord × Mask)} {a k : Nat} {here : DWord × Mask}
    {there : Option (DWord × Mask)} (hi : s.issue = some c) (hw : s.warp? c.uid = some w0) (hu : w.uid = c.uid)
    (hz : w.sized = true) (ht : c.trap = none) (h2 : c.slot < 2) (ha : a < 8) (hr : w.completeAt a)
    (hP : ReleasePlaced c w ((w.retiring c).placeGroups c.slot gs) a k here there) (bnd : Bnd) :
    ∃ t w', (s.setWarp w).retire bnd (some gs) = t ∧ Took s t c { w with rj := w.rj.set a Rejoin.none } w' here there := by
  obtain ⟨w', hS, hret⟩ := retire_moves hi hw hu ht bnd gs
  have hrj : ∀ j, w'.rjk j = w.rjk j := fun j => by rw [hS.frame, hP.frame]; rfl
  have htakes : w'.takes k := by
    have := hP.takes
    rwa [Warp.takes, ← hS.slotFree, ← hS.slotFree] at this
  have htest : w'.testRejoins = w'.released a k :=
    testRejoins_released ha (by rw [hrj]; exact hr.1) (fun j hj => by rw [hrj]; exact hr.2 j hj) htakes
  have hSr := hS.released a hP.room
  have hcalm : (w'.released a k).calm c.slot = true := calm_of hP.calm hSr.length hSr.mask hSr.wait (by rw [hSr.frame])
    (by rw [hSr.frame]) (by rw [hSr.frame]) (by rw [hSr.frame])
  have hu' : w'.uid = c.uid := by rw [hS.frame, hP.frame]; exact hu
  refine ⟨_, w'.released a k, hret c.slot h2 (by rwa [htest]) hu' (by rw [htest]; exact hu'), ?_⟩
  rw [htest]
  refine took_of_same hw hu (setRejoin_sized hz a _) hSr ?_ hP.waits ⟨hP.here.1, fun _ => hP.here.2⟩ ?_
  · rw [Warp.released, hP.frame]; rfl
  · cases there with
    | none => exact hP.there
    | some g => exact hP.there

theorem released_slot {w : Warp} {k : Nat} (a : Nat) (hk : k < w.slots.length) (j : Nat) :
    (w.released a k).slot j = if j = k then { w.slot k with
      pc := (w.rjk a).rp, mask := (w.rjk a).ar, epc := (w.rjk a).rp, emask := (w.rjk a).ar } else w.slot j :=
  place_slot hk _ j

theorem released_incomplete {w : Warp} {a : Nat} (h : w.completeAt a) (k : Nat) :
    ∀ r ∈ (w.released a k).rj, r.complete = false :=
  (incomplete_iff _).2 fun j => getD_set_incomplete rejoin_none_complete fun hj => h.2 j hj

/-- The threads of the slot go on, and the group of register `a` goes to the other slot. -/
theorem releasePlaced_there {c : Issue} {w W : Warp} {a : Nat} (h2 : c.slot < 2) (hl : c.slot < w.slots.length)
    (hm : (w.slot c.slot).mask ≠ 0) (hp : w.pend = []) (hh : ∀ h, w.handler = some h → (w.slot h.slot).mask ≠ 0)
    (hlen : W.slots.length = 2) (hr : w.completeAt a) (hfree : w.slotFree (1 - c.slot) = true)
    (hf : W = { w.retiring c with slots := W.slots })
    (hs : ∀ j, W.slot j =
      if j = c.slot then { (w.retiring c).slot c.slot with pc := c.npc, mask := (w.slot c.slot).mask } else w.slot j) :
    ReleasePlaced c w W a (1 - c.slot) (c.npc, (w.slot c.slot).mask) (some ((w.rjk a).rp, (w.rjk a).ar)) := by
  have hne : 1 - c.slot ≠ c.slot := by omega
  have har : (w.rjk a).ar ≠ 0 := (complete_iff.1 hr.1).1
  have hrj : ∀ j, W.rjk j = w.rjk j := fun j => by rw [hf]; rfl
  have hsc := retiring_slot w c hl c.slot
  rw [if_pos rfl] at hsc
  have hsr : ∀ j, (W.released a (1 - c.slot)).slot j = if j = 1 - c.slot then { w.slot (1 - c.slot) with
      pc := (w.rjk a).rp, mask := (w.rjk a).ar, epc := (w.rjk a).rp, emask := (w.rjk a).ar } else W.slot j := fun j => by
    rw [released_slot a (by omega), hrj, hs (1 - c.slot), if_neg hne]
  have hfreeW : ∀ j, j ≠ c.slot → W.slotFree j = w.slotFree j := fun j hj => by
    rw [Warp.slotFree, hs, if_neg hj, Warp.frozen, hf]; rfl
  have hbusy : W.slotFree c.slot = false := by
    simp [Warp.slotFree, hs, hsc, show ¬(w.slot c.slot).mask = 0#32 from hm]
  have hmask : ∀ j, j < 2 → ((W.released a (1 - c.slot)).slot j).mask ≠ 0 := fun j hj => by
    rw [hsr]
    by_cases h1 : j = 1 - c.slot
    · rw [if_pos h1]; exact har
    · obtain rfl : j = c.slot := by omega
      rw [if_neg h1, hs, if_pos rfl, hsc]; exact hm
  have hnot : ∀ j, j < 2 → (W.released a (1 - c.slot)).slotFree j = false := fun j hj => by
    simp [Warp.slotFree, show ¬_ = 0#32 from hmask j hj]
  refine ⟨hf, by omega, ⟨by rw [hfreeW _ hne]; exact hfree, ?_⟩, fun j => ?_, ?_, ?_, calm_iff.2
    ⟨?_, hmask _ h2, by rw [Warp.released, hf]; exact hp, .inr ⟨hnot 0 (by omega), hnot 1 (by omega)⟩,
      released_incomplete ⟨by rw [hrj]; exact hr.1, fun j hj => by rw [hrj]; exact hr.2 j hj⟩ _, fun h he => ?_⟩⟩
  · rcases (show c.slot = 0 ∨ c.slot = 1 by omega) with h0 | h1
    · exact .inr ⟨by omega, by rw [← h0]; exact hbusy⟩
    · exact .inl (by omega)
  · rw [hsr]
    by_cases h1 : j = 1 - c.slot
    · rw [if_pos h1, h1]; exact ⟨rfl, rfl⟩
    · rw [if_neg h1, hs]
      by_cases h3 : j = c.slot
      · rw [if_pos h3, hsc, h3]; exact ⟨rfl, rfl⟩
      · rw [if_neg h3]; exact ⟨rfl, rfl⟩
  · rw [hsr, if_neg hne.symm, hs, if_pos rfl, hsc]; exact ⟨rfl, rfl⟩
  · rw [Warp.holdsThere, hsr, if_pos rfl]; exact ⟨rfl, rfl⟩
  · simp only [Warp.released, Warp.place, setSlot_length]; omega
  · have he' : w.handler = some h := by rw [← he, Warp.released, hf]; rfl
    by_cases hj : h.slot < 2
    · exact hmask _ hj
    · rw [hsr, if_neg (by omega), hs, if_neg (by omega)]; exact hh h he'

/-- All the slot's threads have parked, and the group of register `a` takes their slot. -/
theorem releasePlaced_here {c : Issue} {w W : Warp} {a : Nat} (h2 : c.slot < 2) (hl : c.slot < w.slots.length)
    (hp : w.pend = []) (hh : w.handler = none) (hd : w.depth = 0) (hlen : W.slots.length = 2) (hr : w.completeAt a)
    (hwait : (w.slot c.slot).wait = none) (ho : (w.slot (1 - c.slot)).mask ≠ 0 ∨ c.slot = 0)
    (hf : W = { w.retiring c with slots := W.slots })
    (hs : ∀ j, W.slot j = if j = c.slot then { (w.retiring c).slot c.slot with mask := 0 } else w.slot j) :
    ReleasePlaced c w W a c.slot ((w.rjk a).rp, (w.rjk a).ar) none := by
  have hne : 1 - c.slot ≠ c.slot := by omega
  have hrj : ∀ j, W.rjk j = w.rjk j := fun j => by rw [hf]; rfl
  have hsc := retiring_slot w c hl c.slot
  rw [if_pos rfl] at hsc
  have hsr : ∀ j, (W.released a c.slot).slot j = if j = c.slot then { w.slot c.slot with
      last := w.seq + 1, prev := (w.slot c.slot).pc,
      pc := (w.rjk a).rp, mask := (w.rjk a).ar, epc := (w.rjk a).rp, emask := (w.rjk a).ar } else w.slot j := fun j => by
    rw [released_slot a (by omega), hrj, hs c.slot, if_pos rfl, hsc]
    by_cases hj : j = c.slot
    · rw [if_pos hj, if_pos hj]
    · rw [if_neg hj, if_neg hj, hs, if_neg hj]
  have hhW : W.handler = none := by rw [hf]; exact hh
  have hfree : W.slotFree c.slot = true := by simp [Warp.slotFree, Warp.frozen, hhW, hs, hsc, hwait]
  refine ⟨hf, by omega, ⟨hfree, ?_⟩, fun j => ?_, ?_, ?_, calm_iff.2
    ⟨?_, by rw [hsr, if_pos rfl]; exact (complete_iff.1 hr.1).1, by rw [Warp.released, hf]; exact hp,
      .inl (by rw [Warp.released, hf]; exact hd.trans_le (Nat.zero_le _)),
      released_incomplete ⟨by rw [hrj]; exact hr.1, fun j hj => by rw [hrj]; exact hr.2 j hj⟩ _,
      fun h he => absurd (hhW.symm.trans he) nofun⟩⟩
  · by_cases h0 : c.slot = 0
    · exact .inl h0
    · have h1 : 1 - c.slot = 0 := by omega
      have hm : ¬(w.slot 0).mask = 0#32 := by rw [h1] at ho; exact ho.resolve_right h0
      exact .inr ⟨by omega, by simp [Warp.slotFree, hs, Ne.symm h0, hm]⟩
  · rw [hsr]
    by_cases hj : j = c.slot
    · rw [if_pos hj, hj]; exact ⟨rfl, rfl⟩
    · rw [if_neg hj]; exact ⟨rfl, rfl⟩
  · rw [hsr, if_pos rfl]; exact ⟨rfl, rfl⟩
  · rw [Warp.holdsThere, hsr, if_neg hne]; exact ⟨rfl, rfl⟩
  · simp only [Warp.released, Warp.place, setSlot_length]; omega

/-! The forms. -/

theorem completeAt_set {w : Warp} {k a : Nat} (h : w.calm k = true) (ha : a < w.rj.length) {r : Rejoin} (hr : r.complete = true) :
    ({ w with rj := w.rj.set a r } : Warp).completeAt a :=
  ⟨(congrArg Rejoin.complete (getD_set_self w.rj ha r)).trans hr, fun j hj =>
    (congrArg Rejoin.complete (getD_set_ne w.rj hj r)).trans (incomplete_of_calm h j)⟩

theorem rjk_set {w : Warp} {a : Nat} (ha : a < w.rj.length) (r : Rejoin) : ({ w with rj := w.rj.set a r } : Warp).rjk a = r :=
  getD_set_self w.rj ha r

/-- RJPARK of threads that complete no register. -/
theorem rjpark_parks {s : State} {c : Issue} {w : Warp} {h : Hdr} {d a b : BitVec 7} (I : Issuing s c w false) {p : Mask}
    (hp : p = parts c w h &&& (w.rjk a.toNat).en) (hr : ((w.rjk a.toNat).arrive p (c.pkt + 12)).complete = false) :
    let w1 : Warp := { w with rj := w.rj.set a.toNat ((w.rjk a.toNat).arrive p (c.pkt + 12)) }
    let rest := (w.slot c.slot).mask &&& ~~~p
    (rest ≠ 0 → ∃ t w', exec (.rjpark h d a b) s = .next t ∧ Took s t c w1 w' (c.npc, rest) none) ∧
    (rest = 0 → w.handler = none → w.depth = 0 → (w.slot (1 - c.slot)).mask ≠ 0 →
      ∃ t w', exec (.rjpark h d a b) s = .next t ∧ Took s t c w1 w' (c.npc, 0) none) := by
  intro w1 rest
  subst hp
  have hcalm : w.calm c.slot = true := I.calm.resolve_left (by simp)
  let wp := w.parked a.toNat (parts c w h &&& (w.rjk a.toNat).en) (c.pkt + 12)
  have hu : wp.uid = c.uid := (show w.uid = c.uid from warp?_uid I.warp)
  have hz : wp.sized = true := setRejoin_sized I.sized _ _
  have hc : wp.calm c.slot = true := calm_setRejoin hcalm _ hr
  refine ⟨fun hrest => ?_, fun hrest hh hd ho => ?_⟩
  · obtain ⟨t, w', he, hT⟩ := took_of_placed I.issue I.warp hu hz I.sound I.slot_lt (placed_one hc I.slot_lt c.npc hrest) .after
    exact ⟨t, w', by rw [rjpark_eq I, if_neg hrest, he], hT.of_lastIns⟩
  · obtain ⟨t, w', he, hT⟩ := took_of_emptied I.issue I.warp hu hz I.sound hc hh hd ho .after
    exact ⟨t, w', by rw [rjpark_eq I, if_pos hrest, he], hT.of_lastIns⟩

/-- RJPARK of the last threads to come, which leave their slot empty. -/
theorem rjpark_releases {s : State} {c : Issue} {w : Warp} {h : Hdr} {d a b : BitVec 7} (I : Issuing s c w false) (ha : a.toNat < 8)
    {p : Mask} (hp : p = parts c w h &&& (w.rjk a.toNat).en) (hrest : (w.slot c.slot).mask &&& ~~~p = 0)
    (hr : ((w.rjk a.toNat).arrive p (c.pkt + 12)).complete = true) (hh : w.handler = none) (hd : w.depth = 0)
    (hwait : (w.slot c.slot).wait = none) (ho : (w.slot (1 - c.slot)).mask ≠ 0 ∨ c.slot = 0) :
    ∃ t w', exec (.rjpark h d a b) s = .next t ∧ Took s t c { w with rj := w.rj.set a.toNat Rejoin.none } w'
      (((w.rjk a.toNat).arrive p (c.pkt + 12)).rp, ((w.rjk a.toNat).arrive p (c.pkt + 12)).ar) none := by
  subst hp
  have hcalm : w.calm c.slot = true := I.calm.resolve_left (by simp)
  obtain ⟨hl, -, hpend, -⟩ := calm_iff.1 hcalm
  have hlen := (sized_iff.1 I.sized).2.2.2.2.2.1
  have harj : a.toNat < w.rj.length := by rw [(sized_iff.1 I.sized).2.2.2.2.2.2]; exact ha
  let wp := w.parked a.toNat (parts c w h &&& (w.rjk a.toNat).en) (c.pkt + 12)
  have hu : wp.uid = c.uid := (show w.uid = c.uid from warp?_uid I.warp)
  have hz : wp.sized = true := setRejoin_sized I.sized _ _
  have hrp : wp.completeAt a.toNat := completeAt_set hcalm harj hr
  have hR := releasePlaced_here (w := wp) I.slot_lt hl hpend hh hd ((placeGroups_none_length wp c).trans hlen) hrp hwait ho rfl
    (placeGroups_none_slot (w := wp) hl)
  obtain ⟨t, w', he, hT⟩ := took_of_release I.issue I.warp hu hz I.sound I.slot_lt ha hrp hR .after
  rw [show wp.rjk a.toNat = _ from rjk_set harj _] at hT
  refine ⟨t, w', by rw [rjpark_eq I, if_pos hrest, he], ?_⟩
  have hclear : wp.rj.set a.toNat Rejoin.none = w.rj.set a.toNat Rejoin.none := List.set_set ..
  rw [hclear] at hT
  exact hT.of_lastIns

/-- RJSTRK of the last threads that the others waited for. -/
theorem rjstrk_releases {s : State} {c : Issue} {w : Warp} {h : Hdr} {d a b : BitVec 7} (I : Issuing s c w false) (ha : a.toNat < 8)
    (hch : h.c = false) (hr : ((w.rjk a.toNat).strike (parts c w h)).complete = true) (hfree : w.slotFree (1 - c.slot) = true) :
    ∃ t w', exec (.rjstrk h d a b) s = .next t ∧ Took s t c { w with rj := w.rj.set a.toNat Rejoin.none } w'
      (c.npc, (w.slot c.slot).mask)
      (some (((w.rjk a.toNat).strike (parts c w h)).rp, ((w.rjk a.toNat).strike (parts c w h)).ar)) := by
  have hcalm : w.calm c.slot = true := I.calm.resolve_left (by simp)
  obtain ⟨hl, hm, hpend, -, -, hh⟩ := calm_iff.1 hcalm
  have hlen := (sized_iff.1 I.sized).2.2.2.2.2.1
  have harj : a.toNat < w.rj.length := by rw [(sized_iff.1 I.sized).2.2.2.2.2.2]; exact ha
  let ws := w.struck a.toNat (parts c w h)
  have hu : ws.uid = c.uid := (show w.uid = c.uid from warp?_uid I.warp)
  have hrs : ws.completeAt a.toNat := completeAt_set hcalm harj hr
  have hR := releasePlaced_there (w := ws) I.slot_lt hl hm hpend hh ((placeGroups_one_length ws c _).trans hlen) hrs hfree rfl
    (placeGroups_one_slot (w := ws) hl (c.npc, (w.slot c.slot).mask))
  obtain ⟨t, w', he, hT⟩ := took_of_release I.issue I.warp hu (setRejoin_sized I.sized _ _) I.sound I.slot_lt ha hrs hR .after
  rw [show ws.rjk a.toNat = _ from rjk_set harj _] at hT
  have hclear : ws.rj.set a.toNat Rejoin.none = w.rj.set a.toNat Rejoin.none := List.set_set ..
  rw [hclear] at hT
  refine ⟨t, w', ?_, hT⟩
  rw [rjstrk_eq (h := h) (hch ▸ I), State.endWord, if_neg (by simp [hch]),
    retire_none (s := s.setWarp ws) I.issue (warp?_setWarp I.warp hu), ← he]
  rfl

end Sys2Proof.Machine

open Sys2Proof Sys2Proof.Machine Sys2Proof.Claims

/-- Settles O17: a word that completes no register leaves the warp calm; the completion test of one that does places the group
in the slot that takes it, which leaves the warp calm. -/
theorem rejoinRegisters : Obligations.RejoinRegisters := by
  unfold Obligations.RejoinRegisters
  refine ⟨fun h d a b => ⟨rjenr_does h d a b, fun s c w I hp => rjstrk_does h d a b s c w I (complete_eq_false.2 hp),
    fun s c w I hr => rjpark_parks I rfl (complete_eq_false.2 hr)⟩, fun h d a b s c w I ha => ⟨?_, ?_⟩⟩
  · exact fun hch har hen hfree => rjstrk_releases I ha hch (complete_iff.2 ⟨har, hen⟩) hfree
  · intro p ar hrest hp hen hh hd hwait ho
    have har : ar ≠ 0 := by
      obtain ⟨t, ht⟩ := lowest_isSome hp
      exact ne_zero_of_has (t := t) (by rw [has_or, lowest_has ht, Bool.or_true])
    obtain ⟨t, w', he, hT⟩ := rjpark_releases I ha (p := p) rfl hrest (complete_iff.2 ⟨har, hen⟩) hh hd hwait ho
    have hrp : ((w.rjk a.toNat).arrive p (c.pkt + 12)).rp = if (w.rjk a.toNat).ar = 0 then c.pkt + 12 else (w.rjk a.toNat).rp := by
      simp only [Rejoin.arrive, hp, ne_eq, not_false_eq_true, and_true]
    rw [hrp] at hT
    exact ⟨t, w', he, hT⟩
end

section
/-! Launch queues: head records and wait signals (R200 to R206). -/

namespace Sys2Proof.Machine

open Sys2Proof.Claims

theorem queue_count_ne_zero {x : Queue} (h : x.head % 2 ^ 32 ≠ x.tail % 2 ^ 32) (hh : x.head < 2 ^ 32) : x.count ≠ 0 := by
  unfold Queue.count
  omega

/-- An access of the dispatcher that finds no place. -/
def WalkRes.fails (r : WalkRes) : Prop := ∀ p w e b z, r ≠ .ok p w e b z

/-! Head records. -/

/-- A queue that runs and holds a record. -/
theorem headRecordRead_eq {s : State} {q : Nat} (hr : s.regs.rdyHost = true) (he : (s.queue q).en = true)
    (hs : (s.queue q).stopped = false) (hc : (s.queue q).count ≠ 0) (hq : q < 64) :
    exec (.headRecordRead q) s = .next (
      if s.regs.ctxcnt ≤ (s.queue q).ctx then s.setQueue q { s.queue q with rflt := true }
      else if (s.queue q).cur.isSome then s else s.readHead q (s.queue q)) := by
  have hq' : ¬64 ≤ q := by omega
  simp only [exec_headRecordRead, execHeadRecordRead, hr, he, hs, hc, hq', Bool.not_true, Bool.or_self, decide_false, Bool.false_eq_true,
    if_false]
  split
  · rfl
  · split <;> rfl

section

variable {s s1 s2 : State} {q : Nat} {x : Queue} {p : Phys} {w e : Bool} {b z : Nat}

/-- What reading the record at the head of queue `x` finds. -/
def State.headAccess (s : State) (x : Queue) : WalkRes × State :=
  (s.readCtx x.ctx).2.dispAccess x.ctx ((x.rbase + 64 * (x.head % 2 ^ x.rlog2)) % 2 ^ 64) .load

theorem readHead_fault {r : WalkRes} (ha : s.headAccess x = (r, s1)) (hr : r.fails) :
    s.readHead q x = s1.setQueue q { x.pop with ids := x.ids.drop 1, rflt := true } := by
  simp only [State.headAccess] at ha
  cases r with
  | ok p w e b z => exact absurd rfl (hr p w e b z)
  | _ => simp only [State.readHead, Queue.slotVa, ha]; rfl

theorem readHead_lost (ha : s.headAccess x = (.ok p w e b z, s1)) (hp : s1.reaches p 0 = false) :
    s.readHead q x = s1.ctxFatal x.ctx 0 0 0x84 p.pa := by
  simp only [State.headAccess] at ha
  simp only [State.readHead, Queue.slotVa, ha, hp]; rfl

theorem readHead_waits (ha : s.headAccess x = (.ok p w e b z, s1)) (hp : s1.reaches p 0 = true)
    (hh : s1.hostCame x.ctx [p] = (false, s2)) : s.readHead q x = s2 := by
  simp only [State.headAccess] at ha
  simp only [State.readHead, Queue.slotVa, ha, hp, hh]; rfl

theorem readHead_illegal (ha : s.headAccess x = (.ok p w e b z, s1)) (hp : s1.reaches p 0 = true)
    (hh : s1.hostCame x.ctx [p] = (true, s2)) (hg : (lrecOf (s2.homeRead p 64)).good (s.readCtx x.ctx).1 = false) :
    s.readHead q x = (s2.fillAt p 64).setQueue q { x.pop with ids := x.ids.drop 1, ill := true } := by
  simp only [State.headAccess] at ha
  simp only [State.readHead, Queue.slotVa, ha, hp, hh, hg]; rfl

theorem readHead_legal (ha : s.headAccess x = (.ok p w e b z, s1)) (hp : s1.reaches p 0 = true)
    (hh : s1.hostCame x.ctx [p] = (true, s2)) (hg : (lrecOf (s2.homeRead p 64)).good (s.readCtx x.ctx).1 = true) :
    let r := lrecOf (s2.homeRead p 64)
    let t := s2.fillAt p 64
    let l : Launch := { id := x.ids.headD 0, queue := q, ctx := x.ctx, count := x.head, lrec := r, placed := 0, ended := 0, cores := [],
                        abandoned := false }
    let headed := { t with disp := { t.disp with launches := t.disp.launches ++ [l] } }.setQueue q
      { x with cur := some l.id, met := [], ready := none, ids := x.ids.drop 1 }
    s.readHead q x = if r.conds = [] then headed.makeReady q else headed := by
  simp only [State.headAccess] at ha
  by_cases hc : (lrecOf (s2.homeRead p 64)).conds = []
  · have hc' : (lrecOf (s2.homeRead p 64)).conds.isEmpty = true := List.isEmpty_iff.2 hc
    simp only [State.readHead, Queue.slotVa, ha, hp, hh, hg, hc']
    exact (if_pos hc).symm
  · have hc' : (lrecOf (s2.homeRead p 64)).conds.isEmpty = false := by simpa using hc
    simp only [State.readHead, Queue.slotVa, ha, hp, hh, hg, hc']
    exact (if_neg hc).symm

end

/-! Wait signals. -/

section

variable {s s1 s2 : State} {q id : Nat} {l : Launch}

/-- The places of the signals that launch `l` at the head of queue `x` still waits for. -/
def State.openPlaces (s : State) (x : Queue) (l : Launch) : Option (List (Nat × Nat × Phys)) × State :=
  (s.readCtx x.ctx).2.signalPlaces x.ctx (s.readCtx x.ctx).1.sigbase (l.lrec.conds.filter fun w => !x.met.contains w.1)

/-- A queue that runs and whose head launch waits for signals. -/
structure AwaitsSignals (s : State) (q id : Nat) (l : Launch) : Prop where
  host : s.regs.rdyHost = true
  en : (s.queue q).en = true
  runs : (s.queue q).stopped = false
  cur : (s.queue q).cur = some id
  waits : (s.queue q).ready = none
  launch : s.launch? id = some l
  ctx : (s.queue q).ctx < s.regs.ctxcnt

theorem waitSignalRead_fault (h : AwaitsSignals s q id l) (hp : s.openPlaces (s.queue q) l = (none, s1)) :
    exec (.waitSignalRead q) s = .next (s1.setQueue q { s.queue q with sflt := true }) := by
  have hctx : ¬s.regs.ctxcnt ≤ (s.queue q).ctx := by have := h.ctx; omega
  simp only [State.openPlaces] at hp
  simp only [exec_waitSignalRead, execWaitSignalRead, h.cur, h.launch, h.host, h.runs, h.en, h.waits, hctx, hp]; rfl

theorem waitSignalRead_lost {ps : List (Nat × Nat × Phys)} {p : Nat × Nat × Phys} (h : AwaitsSignals s q id l)
    (hp : s.openPlaces (s.queue q) l = (some ps, s1)) (hf : ps.find? (fun p => !s1.reaches p.2.2 0) = some p) :
    exec (.waitSignalRead q) s = .next (s1.ctxFatal (s.queue q).ctx 0 0 0x84 p.2.2.pa) := by
  have hctx : ¬s.regs.ctxcnt ≤ (s.queue q).ctx := by have := h.ctx; omega
  simp only [State.openPlaces] at hp
  simp only [exec_waitSignalRead, execWaitSignalRead, h.cur, h.launch, h.host, h.runs, h.en, h.waits, hctx, hp, hf]; rfl

/-- The signals are read; the launch is ready once all its conditions have been met. -/
theorem waitSignalRead_reads {ps : List (Nat × Nat × Phys)} {ks : List Nat} (h : AwaitsSignals s q id l)
    (hp : s.openPlaces (s.queue q) l = (some ps, s1)) (hf : ∀ p ∈ ps, s1.reaches p.2.2 0 = true)
    (hk : s1.readSignals (s.queue q).ctx ps = (ks, s2)) :
    let t := s2.setQueue q { s.queue q with met := (s.queue q).met ++ ks }
    exec (.waitSignalRead q) s =
      .next (if ∀ w ∈ l.lrec.conds, w.1 ∈ (s.queue q).met ++ ks then t.makeReady q else t) := by
  have hctx : ¬s.regs.ctxcnt ≤ (s.queue q).ctx := by have := h.ctx; omega
  have hnone : ps.find? (fun p => !s1.reaches p.2.2 0) = none := List.find?_eq_none.2 fun p hm => by simp [hf p hm]
  simp only [State.openPlaces] at hp
  simp only [exec_waitSignalRead, execWaitSignalRead, h.cur, h.launch, h.host, h.runs, h.en, h.waits, hctx, hp, hnone, hk,
    List.all_eq_true, List.contains_iff_mem]
  exact (apply_ite Host.Outcome.next _ _ _).symm

/-- Signals are read one after another. -/
theorem readSignals_cons {ctx k v : Nat} {p : Phys} {rest : List (Nat × Nat × Phys)} {here : Bool} {ks : List Nat}
    (hh : s.hostCame ctx [p] = (here, s1)) (hk : (s1.fillAt p 8).readSignals ctx rest = (ks, s2)) :
    s.readSignals ctx ((k, v, p) :: rest) = (if here = true ∧ v ≤ leNat (s1.homeRead p 8) then k :: ks else ks, s2) := by
  simp only [State.readSignals, hh, hk, Bool.and_eq_true, decide_eq_true_eq]

end

end Sys2Proof.Machine
end

section
/-! Candidates, and the place of a gang (R207 to R211). -/

namespace Sys2Proof.Machine

/-! Candidates. -/

/-- The candidate of queue `q`, whose block is `y`. -/
def State.candOf (s : State) (y : Queue) (q : Nat) : Option Cand :=
  if !y.en || y.stopped then none
  else match y.cur, y.ready with
    | some id, some t => match s.launch? id with
      | some l =>
        if l.placed < l.lrec.ngang && !s.heldCtx l.ctx && y.ctx < s.regs.ctxcnt then
          some { q, l, ready := t, place := s.findPlace l.ctx l.lrec }
        else none
      | none => none
    | _, _ => none

theorem candidates_eq (s : State) : s.candidates = s.disp.queues.zipIdx.filterMap fun y => s.candOf y.1 y.2 := rfl

theorem candOf_eq_some_iff {s : State} {y : Queue} {q : Nat} {x : Cand} : s.candOf y q = some x ↔
    q = x.q ∧ y.en = true ∧ y.stopped = false ∧ y.ready = some x.ready ∧ (∃ id, y.cur = some id ∧ s.launch? id = some x.l) ∧
      x.l.placed < x.l.lrec.ngang ∧ s.heldCtx x.l.ctx = false ∧ y.ctx < s.regs.ctxcnt ∧ x.place = s.findPlace x.l.ctx x.l.lrec := by
  constructor
  · intro h
    unfold State.candOf at h
    split at h
    · cases h
    next hrun =>
    split at h
    next id t hcur hready =>
      split at h
      next l hl =>
        split at h
        next hok =>
          cases h
          simp only [Bool.or_eq_true, Bool.not_eq_true', not_or, Bool.not_eq_false, Bool.not_eq_true] at hrun
          simp only [Bool.and_eq_true, decide_eq_true_eq, Bool.not_eq_true'] at hok
          exact ⟨rfl, hrun.1, hrun.2, hready, ⟨id, hcur, hl⟩, hok.1.1, hok.1.2, hok.2, rfl⟩
        · cases h
      · cases h
    · cases h
  · rintro ⟨rfl, he, hs, hr, ⟨id, hc, hl⟩, hn, hh, hx, hp⟩
    simp [State.candOf, he, hs, hr, hc, hl, hn, hh, hx, ← hp]

theorem mem_candidates {s : State} {x : Cand} : x ∈ s.candidates ↔ ∃ y, s.disp.queues[x.q]? = some y ∧ y.en = true ∧
    y.stopped = false ∧ y.ready = some x.ready ∧ (∃ id, y.cur = some id ∧ s.launch? id = some x.l) ∧
    x.l.placed < x.l.lrec.ngang ∧ s.heldCtx x.l.ctx = false ∧ y.ctx < s.regs.ctxcnt ∧ x.place = s.findPlace x.l.ctx x.l.lrec := by
  simp only [candidates_eq, List.mem_filterMap, Prod.exists, List.mem_zipIdx_iff_getElem?, candOf_eq_some_iff]
  exact ⟨fun ⟨y, q, hy, hq, h⟩ => ⟨y, hq ▸ hy, h⟩, fun ⟨y, hy, h⟩ => ⟨y, x.q, hy, rfl, h⟩⟩

/-! The one that a decision chooses. -/

/-- A strict order in which what is not better than another is not better than what that is not better than. -/
structure Ranks {β : Type} (better : β → β → Bool) : Prop where
  asymm : ∀ a b, better a b = true → better b a = false
  trans : ∀ a b c, better a b = false → better b c = false → better a c = false

theorem bestBy_eq_none {β : Type} {better : β → β → Bool} {l : List β} : bestBy better l = none ↔ l = [] := by
  cases l with
  | nil => simp [bestBy]
  | cons x r =>
    simp only [bestBy, reduceCtorEq, iff_false]
    split
    · exact Option.some_ne_none x
    next y _ => cases better y x <;> exact Option.some_ne_none _

/-- The best of a list is one of it, and none is better. -/
theorem bestBy_spec {β : Type} {better : β → β → Bool} (hb : Ranks better) {l : List β} {x : β} (h : bestBy better l = some x) :
    x ∈ l ∧ ∀ y ∈ l, better y x = false := by
  have irrefl : ∀ a, better a a = false := fun a => by
    cases ha : better a a
    · rfl
    · exact absurd (hb.asymm a a ha) (by simp [ha])
  induction l generalizing x with
  | nil => cases h
  | cons z r ih =>
    rw [bestBy] at h
    cases hr : bestBy better r with
    | none =>
      have hnil : r = [] := bestBy_eq_none.1 hr
      rw [hr] at h
      cases h
      simp [hnil, irrefl]
    | some y =>
      obtain ⟨hy, hbest⟩ := ih hr
      simp only [hr] at h
      split at h
      next hyz =>
        cases h
        exact ⟨List.mem_cons_of_mem z hy, List.forall_mem_cons.2 ⟨hb.asymm _ _ hyz, hbest⟩⟩
      next hyz =>
        cases h
        exact ⟨List.mem_cons_self, List.forall_mem_cons.2
          ⟨irrefl _, fun u hu => hb.trans u y _ (hbest u hu) (by simpa using hyz)⟩⟩

/-- The longest ready goes first (R208). -/
theorem ranks_ready : Ranks fun (a b : Cand) => decide (a.ready < b.ready) :=
  ⟨fun a b h => by simp at h ⊢; omega, fun a b c h h' => by simp at h h' ⊢; omega⟩

/-- Does `a` go before `b` by priority, and among equals by when its queue was served (R208)? -/
def State.goesBefore (s : State) (a b : Cand) : Bool :=
  s.launchPrio b.l < s.launchPrio a.l ||
    (s.launchPrio a.l == s.launchPrio b.l && servedBefore (s.queue a.q).served (s.queue b.q).served)

/-- A queue that was never served comes before every other one. -/
theorem servedBefore_eq (a b : Option Nat) : servedBefore a b = decide (a.elim 0 (· + 1) < b.elim 0 (· + 1)) := by
  rcases a with _ | x <;> rcases b with _ | y <;> simp [servedBefore]

theorem servedBefore_asymm {a b : Option Nat} (h : servedBefore a b = true) : servedBefore b a = false := by
  rw [servedBefore_eq, decide_eq_true_eq] at h
  rw [servedBefore_eq, decide_eq_false_iff_not]
  omega

theorem servedBefore_trans {a b c : Option Nat} (h : servedBefore a b = false) (h' : servedBefore b c = false) :
    servedBefore a c = false := by
  rw [servedBefore_eq, decide_eq_false_iff_not] at h h' ⊢
  omega

theorem ranks_goesBefore (s : State) : Ranks s.goesBefore := by
  constructor
  · intro a b h
    simp only [State.goesBefore, Bool.or_eq_true, decide_eq_true_eq, Bool.and_eq_true, beq_iff_eq, Bool.or_eq_false_iff,
      decide_eq_false_iff_not, Bool.and_eq_false_iff, beq_eq_false_iff_ne] at h ⊢
    rcases h with h | ⟨h, hs⟩
    · exact ⟨by omega, .inl (by omega)⟩
    · exact ⟨by omega, .inr (servedBefore_asymm hs)⟩
  · intro a b c h h'
    simp only [State.goesBefore, Bool.or_eq_false_iff, decide_eq_false_iff_not, Bool.and_eq_false_iff, beq_eq_false_iff_ne] at h h' ⊢
    refine ⟨by omega, ?_⟩
    by_cases he : s.launchPrio a.l = s.launchPrio c.l
    · have h1 : s.launchPrio a.l = s.launchPrio b.l := by omega
      exact .inr (servedBefore_trans (h.2.resolve_left (by omega)) (h'.2.resolve_left (by omega)))
    · exact .inl he

theorem goesBefore_eq_false_iff {s : State} {a b : Cand} : s.goesBefore a b = false ↔ s.launchPrio a.l ≤ s.launchPrio b.l ∧
    (s.launchPrio a.l = s.launchPrio b.l → servedBefore (s.queue a.q).served (s.queue b.q).served = false) := by
  simp [State.goesBefore, imp_iff_not_or]

/-- A queue's candidate is aged once it has been passed over 64 times (R208). -/
def State.aged (s : State) (y : Cand) : Prop := 64 ≤ (s.queue y.q).skip

/-- The aged candidates, the longest ready among them, and the best of the others (R208). -/
theorem chooseCand_spec {s : State} {cs : List Cand} {x : Cand} (h : s.chooseCand cs = some x) :
    x ∈ cs ∧ x.place ≠ none ∧ ((∃ y ∈ cs, s.aged y) → s.aged x ∧ ∀ y ∈ cs, s.aged y → x.ready ≤ y.ready) ∧
      ((∀ y ∈ cs, ¬s.aged y) → ∀ y ∈ cs, y.place ≠ none → s.goesBefore y x = false) := by
  have hmem : ∀ y, y ∈ cs.filter (fun c => decide (64 ≤ (s.queue c.q).skip)) ↔ y ∈ cs ∧ s.aged y := fun y => by
    simp [State.aged]
  unfold State.chooseCand at h
  cases hb : bestBy (fun (a b : Cand) => decide (a.ready < b.ready)) (cs.filter fun c => decide (64 ≤ (s.queue c.q).skip)) with
  | some a =>
    obtain ⟨ha, hbest⟩ := bestBy_spec ranks_ready hb
    obtain ⟨hac, haa⟩ := (hmem a).1 ha
    have hax : a = x ∧ a.place.isSome = true := by
      simp only [hb] at h
      cases hr : s.restoring with
      | none =>
        simp only [hr, Option.ite_none_right_eq_some, Option.some.injEq] at h
        exact ⟨h.2, h.1⟩
      | some t =>
        simp only [hr, Option.ite_none_right_eq_some, Option.some.injEq, Bool.and_eq_true] at h
        exact ⟨h.2, h.1.2⟩
    obtain ⟨rfl, hp⟩ := hax
    refine ⟨hac, Option.isSome_iff_ne_none.1 hp, fun _ => ⟨haa, fun y hy hya => ?_⟩, fun hno => absurd haa (hno a hac)⟩
    simpa using hbest y ((hmem y).2 ⟨hy, hya⟩)
  | none =>
    have hno : ∀ y ∈ cs, ¬s.aged y := fun y hy hya => by
      have := (hmem y).2 ⟨hy, hya⟩
      rw [bestBy_eq_none.1 hb] at this
      cases this
    simp only [hb] at h
    cases hr : s.restoring with
    | some t => simp [hr] at h
    | none =>
      simp only [hr] at h
      obtain ⟨hx, hbest⟩ := bestBy_spec (ranks_goesBefore s) h
      simp only [List.mem_filter] at hx hbest
      exact ⟨hx.1, Option.isSome_iff_ne_none.1 hx.2, fun ⟨y, hy, hya⟩ => absurd hya (hno y hy),
        fun _ y hy hp => hbest y ⟨hy, Option.isSome_iff_ne_none.2 hp⟩⟩

/-! The place of a gang. -/

theorem firstSome_eq_none {α β : Type} {f : α → Option β} {l : List α} (h : firstSome f l = none) : ∀ x ∈ l, f x = none := by
  induction l with
  | nil => simp
  | cons x xs ih =>
    rw [firstSome] at h
    split at h
    · cases h
    next hx => exact List.forall_mem_cons.2 ⟨hx, ih h⟩

/-- The first that `f` answers is preceded by none that it answers. -/
theorem firstSome_first {α β : Type} {f : α → Option β} {g : Nat → α} {n : Nat} {y : β}
    (h : firstSome f ((List.range n).map g) = some y) : ∃ k < n, f (g k) = some y ∧ ∀ k' < k, f (g k') = none := by
  have key : ∀ (m : Nat) (a : Nat), firstSome f ((List.range' a m).map g) = some y →
      ∃ k, a ≤ k ∧ k < a + m ∧ f (g k) = some y ∧ ∀ k', a ≤ k' → k' < k → f (g k') = none := by
    intro m
    induction m with
    | zero => intro a h; cases h
    | succ m ih =>
      intro a h
      rw [List.range'_succ, List.map_cons, firstSome] at h
      split at h
      next z hz =>
        cases h
        exact ⟨a, le_rfl, by omega, hz, fun k' h1 h2 => by omega⟩
      next hz =>
        obtain ⟨k, h1, h2, h3, h4⟩ := ih (a + 1) h
        refine ⟨k, by omega, by omega, h3, fun k' h5 h6 => ?_⟩
        by_cases hk : k' = a
        · rw [hk]; exact hz
        · exact h4 k' (by omega) h6
  rw [List.range_eq_range'] at h
  obtain ⟨k, -, h2, h3, h4⟩ := key n 0 h
  exact ⟨k, by omega, h3, fun k' hk => h4 k' (Nat.zero_le _) hk⟩

/-- The search of a place (R210): the first cluster in search order that fits, with a switch of mode only where none fits without. -/
theorem findPlace_spec {s : State} {ctx i : Nat} {r : LRec} {cores : List Nat} {sw : Bool}
    (h : s.findPlace ctx r = some (i, cores, sw)) :
    s.clusterFits (searchCluster i) ctx r sw = some cores ∧
    (∃ k < 288, i = (s.disp.search + k) % 288 ∧
      ∀ k' < k, s.clusterFits (searchCluster ((s.disp.search + k') % 288)) ctx r sw = none) ∧
    (sw = true → ∀ j < 288, s.clusterFits (searchCluster j) ctx r false = none) := by
  have found : ∀ sw', firstSome (fun i => (s.clusterFits (searchCluster i) ctx r sw').map fun ks => (i, ks, sw'))
        ((List.range 288).map fun k => (s.disp.search + k) % 288) = some (i, cores, sw) →
      sw' = sw ∧ s.clusterFits (searchCluster i) ctx r sw = some cores ∧ ∃ k < 288, i = (s.disp.search + k) % 288 ∧
        ∀ k' < k, s.clusterFits (searchCluster ((s.disp.search + k') % 288)) ctx r sw = none := by
    intro sw' hf
    obtain ⟨k, hk, hk1, hk2⟩ := firstSome_first hf
    obtain ⟨ks, hks, he⟩ := Option.map_eq_some_iff.1 hk1
    cases he
    exact ⟨rfl, hks, k, hk, rfl, fun k' h' => Option.map_eq_none_iff.1 (hk2 k' h')⟩
  unfold State.findPlace at h
  simp only at h
  split at h
  next y hy =>
    cases h
    obtain ⟨rfl, h1, h2⟩ := found false hy
    exact ⟨h1, h2, nofun⟩
  next hno =>
    obtain ⟨rfl, h1, h2⟩ := found true h
    refine ⟨h1, h2, fun _ j hj => ?_⟩
    have := firstSome_eq_none hno j (List.mem_map.2 ⟨(j + 288 - s.disp.search % 288) % 288, by simp; omega, by omega⟩)
    simpa using this

/-! One cluster. -/

/-- What a core that fits has room for (R157, R209, R299). -/
theorem coreFits_iff {s : State} {k ctx : Nat} {r : LRec} : s.coreFits k ctx r = true ↔
    (∀ w ∈ s.warps, w.core = k → w.ctx = ctx) ∧ r.stiles ≤ (s.core k).freeTiles.length ∧ r.copyq + s.copyHeld k ≤ 64 ∧
      ∀ i < min r.nwarp 16, r.onLane i ≤ (s.freeSlots8 k i).length ∧ s.admits k i r.floor (r.onLane i) = true := by
  simp [State.coreFits, State.warpsOn, and_assoc, imp_iff_not_or]

theorem clusterFits_spec {s : State} {cl ctx : Nat} {r : LRec} {sw : Bool} {cores : List Nat}
    (h : s.clusterFits cl ctx r sw = some cores) :
    cores.length = r.nwg ∧ bit (s.die (clusterDie cl)).clready (cl % 32) = true ∧ bit s.regs.rdyDie (clusterDie cl) = true ∧
    r.atiles ≤ (s.freeAcc cl).length ∧ (sw = false → (s.cluster cl).fused = r.fuse) ∧ (sw = true → s.gangsOn cl = []) ∧
    ∀ k ∈ cores, k / 4 = cl ∧ s.coreFits k ctx r = true := by
  unfold State.clusterFits at h
  simp only [Option.ite_none_right_eq_some, Option.some.injEq, Bool.and_eq_true, decide_eq_true_eq, beq_iff_eq] at h
  obtain ⟨⟨⟨⟨⟨⟨hcl, hdie⟩, hmode⟩, -⟩, hacc⟩, hlen⟩, rfl⟩ := h
  refine ⟨hlen, hcl, hdie, hacc, fun hs => by simpa [hs] using hmode, fun hs => ?_, fun k hk => ?_⟩
  · simp only [hs, if_true, Bool.and_eq_true, List.isEmpty_iff] at hmode
    exact hmode.2
  · obtain ⟨hk, hfit⟩ := List.mem_filter.1 (List.mem_of_mem_take hk)
    obtain ⟨j, hj, rfl⟩ := List.mem_map.1 hk
    have := List.mem_range.1 hj
    exact ⟨by omega, hfit⟩

end Sys2Proof.Machine
end

section
/-! A gang's placement, and a launch's completion (R208, R211, R213). -/

namespace Sys2Proof.Machine

/-! Placement. -/

section

variable {s s1 : State} {x : Cand} {i : Nat} {cores : List Nat} {sw : Bool}

/-- The decision places a gang of candidate `x` there. -/
structure Decides (s : State) (x : Cand) (i : Nat) (cores : List Nat) (sw : Bool) : Prop where
  sound : s.regs.deviceFatal = false
  host : s.regs.rdyHost = true
  chosen : s.chooseCand s.candidates = some x
  place : x.place = some (i, cores, sw)

theorem placementDecision_illegal (h : Decides s x i cores sw) (hc : (s.readCtx x.l.ctx).1.clear = false) :
    exec .placementDecision s =
      .next ((s.readCtx x.l.ctx).2.ctxFatal x.l.ctx 0 0 0x85 (s.regs.ctxtab + 128 * x.l.ctx)) := by
  simp only [exec_placementDecision, execPlacementDecision, h.sound, h.host, h.chosen, h.place, hc]; rfl

theorem placementDecision_places (h : Decides s x i cores sw) (hc : (s.readCtx x.l.ctx).1.clear = true)
    (hp : (s.readCtx x.l.ctx).2.prepare (searchCluster i) x.l.ctx cores x.l.lrec.fuse sw = some s1)
    (hl : (s1.launch? x.l.id).isSome = true) :
    let t := s1.countSkips s.candidates x
    let t := { t with disp := { t.disp with clock := t.disp.clock + 1, search := (i + 1) % 288 } }
    exec .placementDecision s =
      .next ((t.placeGang x.l (s.readCtx x.l.ctx).1 (searchCluster i) cores).afterPlace x.q x.l.id) := by
  have hl' : (s1.launch? x.l.id).isNone = false := by simpa using hl
  simp only [exec_placementDecision, execPlacementDecision, h.sound, h.host, h.chosen, h.place, hc, hp, hl']; rfl

end

/-! Lines written back. -/

/-- A write-back, or a store that writes through, is under way at a core's L1. -/
def Core.writes (c : Core) : Prop := ∃ t ∈ c.tags, t.use = .wback ∨ ∃ u e ctx va, t.use = .stored u e ctx va

/-- Is a tag a write's? -/
def TagUse.writes (u : TagUse) : Bool := match u with | .wback => true | .stored _ _ _ _ => true | _ => false

theorem tagUse_writes_iff (u : TagUse) : u.writes = true ↔ u = .wback ∨ ∃ w e ctx va, u = .stored w e ctx va := by
  cases u <;> simp [TagUse.writes]

theorem any_writes_iff (s : State) (ks : List Nat) :
    (ks.any fun k => (s.core k).tags.any fun t => t.use.writes) = true ↔ ∃ k ∈ ks, (s.core k).writes := by
  simp [Core.writes, tagUse_writes_iff]

theorem flushLine_clean {s : State} {core : Nat} {l : L1Line} (h : l.dirty = 0) : s.flushLine core l = s := by
  rw [State.flushLine, if_pos h]

theorem flushLine_held {s : State} {core : Nat} {l : L1Line} (h : l.dirty ≠ 0) (hh : l.held = true) :
    s.flushLine core l = s.ctxFatal l.ctx (coreDie core) (core % 128) 0x82 l.va := by
  rw [State.flushLine, if_neg h, if_pos hh]; rfl

theorem flushLine_placeless {s s1 : State} {core : Nat} {l : L1Line} (h : l.dirty ≠ 0) (hh : l.held = false)
    (hp : s.wbPlace core l.ctx l.va = (none, s1)) :
    s.flushLine core l = s1.ctxFatal l.ctx (coreDie core) (core % 128) 0x82 l.va := by
  rw [State.flushLine, if_neg h, if_neg (by simp [hh]), hp]; rfl

theorem flushLine_placed {s s1 : State} {core : Nat} {l : L1Line} {p : Phys} (h : l.dirty ≠ 0) (hh : l.held = false)
    (hp : s.wbPlace core l.ctx l.va = (some p, s1)) :
    s.flushLine core l = if s1.reaches p 1 then s1.homeWriteLine p.tgt (p.pa / 128) (sectorBytes l.data l.dirty) false
      else s1.ctxFatal l.ctx 0 0 0x84 p.pa := by
  rw [State.flushLine, if_neg h, if_neg (by simp [hh]), hp]; rfl

/-! Completion. -/

section

variable {s : State} {n : Nat} {l : Launch}

/-- The cores whose L1s the launch's gangs have used (R213). -/
def State.usedL1s (s : State) (l : Launch) : List Nat :=
  (l.cores.flatMap fun k => if s.fusedAt k then coresOf (coreCluster k) else [k]).eraseDups

/-- The state with those L1s written back. -/
def State.flushed (s : State) (l : Launch) : State :=
  (s.usedL1s l).foldl (fun s k => s.flushL1 k (some l.ctx) false) s

theorem launchComplete_eq (hl : s.launch? n = some l) (ha : l.abandoned = false) (he : l.lrec.ngang ≤ l.ended) :
    exec (.launchComplete n) s =
      if (s.usedL1s l).any fun k => (s.core k).tags.any fun t => t.use.writes then .next s
      else .next (if ((s.flushed l).launch? n).isNone then s.flushed l else (s.flushed l).launchRelease l) := by
  have he' : ¬l.ended < l.lrec.ngang := by omega
  simp only [exec_launchComplete, execLaunchComplete, hl, ha, he', Bool.false_or, decide_false, Bool.false_eq_true, if_false]
  exact if_congr Iff.rfl rfl (apply_ite Host.Outcome.next _ _ _).symm

theorem launchComplete_waits (hl : s.launch? n = some l) (ha : l.abandoned = false) (he : l.lrec.ngang ≤ l.ended)
    (hb : ∃ k ∈ s.usedL1s l, (s.core k).writes) : exec (.launchComplete n) s = .next s := by
  rw [launchComplete_eq hl ha he, if_pos ((any_writes_iff s _).2 hb)]

theorem launchComplete_flushes (hl : s.launch? n = some l) (ha : l.abandoned = false) (he : l.lrec.ngang ≤ l.ended)
    (hb : ¬∃ k ∈ s.usedL1s l, (s.core k).writes) :
    exec (.launchComplete n) s =
      .next (if (s.flushed l).launch? n = none then s.flushed l else (s.flushed l).launchRelease l) := by
  rw [launchComplete_eq hl ha he, if_neg fun h => hb ((any_writes_iff s _).1 h)]
  simp only [Option.isNone_iff_eq_none]

/-- The launch waits for its zero-length read, or for a write to a peer. -/
theorem launchRelease_waits (h : l.zlr = 1 ∨ l.zlr ≠ 0 ∧ ∃ x ∈ s.env.posted, x.tgt = 2) : s.launchRelease l = s := by
  have h0 : l.zlr ≠ 0 := by rcases h with h | h <;> omega
  rw [State.launchRelease, if_neg h0, if_pos]
  rcases h with h | ⟨-, x, hx, ht⟩
  · simp [h]
  · have : (s.env.posted.any fun x => x.tgt == 2) = true := List.any_eq_true.2 ⟨x, hx, by simp [ht]⟩
    simp [this]

theorem launchRelease_signals (h0 : l.zlr ≠ 0) (h1 : l.zlr ≠ 1) (hp : ∀ x ∈ s.env.posted, x.tgt ≠ 2) :
    s.launchRelease l = s.signal l := by
  have : (s.env.posted.any fun x => x.tgt == 2) = false := List.any_eq_false.2 fun x hx => by simpa using hp x hx
  rw [State.launchRelease, if_neg h0, if_neg (by simp [h1, this])]

theorem signal_none (h : l.lrec.csig = 0xFFFF) : s.signal l = s.dropLaunch l.id := by
  rw [State.signal]
  exact if_pos h

/-- The access to the completion signal of a launch. -/
def State.signalAccess (s : State) (l : Launch) : WalkRes × State :=
  (s.readCtx l.ctx).2.dispAccess l.ctx (((s.readCtx l.ctx).1.sigbase + 8 * l.lrec.csig) % 2 ^ 64) .atomic

variable {s1 : State}

theorem signal_fault (h : l.lrec.csig ≠ 0xFFFF) {r : WalkRes} (ha : (s.dropLaunch l.id).signalAccess l = (r, s1)) (hr : r.fails) :
    s.signal l = s1.setQueue l.queue { s1.queue l.queue with sflt := true } := by
  simp only [State.signalAccess] at ha
  cases r with
  | ok p w e b z => exact absurd rfl (hr p w e b z)
  | _ => simp only [State.signal, h, ha]; rfl

variable {p : Phys} {w e : Bool} {b z : Nat}

theorem signal_lost (h : l.lrec.csig ≠ 0xFFFF) (ha : (s.dropLaunch l.id).signalAccess l = (.ok p w e b z, s1))
    (hp : s1.reaches p 2 = false) : s.signal l = s1.ctxFatal l.ctx 0 0 0x84 p.pa := by
  simp only [State.signalAccess] at ha
  simp only [State.signal, h, ha, hp]; rfl

theorem signal_adds (h : l.lrec.csig ≠ 0xFFFF) (ha : (s.dropLaunch l.id).signalAccess l = (.ok p w e b z, s1))
    (hp : s1.reaches p 2 = true) :
    let t := (s1.fillAt p 8).homeWrite p (leBytes 8 (leNat (s1.homeRead p 8) + 1))
    s.signal l = if (t.queue l.queue).irq then t.raise l.queue else t := by
  simp only [State.signalAccess] at ha
  simp only [State.signal, h, ha, hp]; rfl

end

end Sys2Proof.Machine
end

section
/-! The queue registers, and LNCH's submissions (R188, R199 to R204, R452). -/

namespace Sys2Proof.Machine

open Sys2Proof.Claims

/-! Host writes. -/

theorem takeFirst_eq_none_iff {β : Type} {p : β → Bool} {l : List β} : takeFirst p l = none ↔ ∀ x ∈ l, p x = false := by
  induction l with
  | nil => simp [takeFirst]
  | cons x r ih =>
    rw [takeFirst, List.forall_mem_cons, ← ih]
    cases hx : p x
    · cases hr : takeFirst p r <;> simp
    · simp

/-- A step that stands for a host write is one (R452, R461). -/
theorem hostWrites_of_eq {s : State} {i : Instr} {off size v : Nat} {taken : State} (h : exec i s = s.hostWrite off size v taken) :
    HostWrites s i off size v taken := by
  have hnow : ((blockOf off).1.early || (s.blockReady (blockOf off).1 && s.readyHeld.isNone)) = true ↔
      ((blockOf off).1.early = true ∨ s.blockReady (blockOf off).1 = true ∧
        ∀ x ∈ s.regs.heldW, s.blockReady (blockOf x.1).1 = false) := by
    rw [Bool.or_eq_true, Bool.and_eq_true, Option.isNone_iff_eq_none, State.readyHeld, takeFirst_eq_none_iff]
  unfold HostWrites
  simp only [← hnow, h, State.hostWrite, bne_iff_ne]
  refine ⟨fun hp => if_pos hp, fun hp hn => ?_, fun hp hn hl => ?_, fun hp hn hl => ?_⟩
  all_goals rw [if_neg (not_not_intro hp)]
  · exact if_pos hn
  · rw [if_neg hn, if_pos hl]
  · rw [if_neg hn, if_neg (by omega)]

section

variable {s : State} {q v bits : Nat}

theorem writeTail_refused (h : (s.queue q).src = true ∨ s.regs.deviceFatal = true) : s.writeTail q v = s := by
  rw [State.writeTail]
  rcases h with h | h <;> simp [h]

theorem acceptTail_eq (s : State) (q : Nat) (x : Queue) (v : Nat) : s.acceptTail q x v = tailMoves s q x v := rfl

theorem writeTail_eq (hs : (s.queue q).src = false) (hd : s.regs.deviceFatal = false) (hq : q < 64) (hv : v < 2 ^ 32) :
    s.writeTail q v = if (s.queue q).count ≤ (v + 2 ^ 32 - (s.queue q).head) % 2 ^ 32 ∧
        (v + 2 ^ 32 - (s.queue q).head) % 2 ^ 32 ≤ 2 ^ (s.queue q).rlog2
      then tailMoves s q (s.queue q) v else s.setQueue q { s.queue q with tbad := true } := by
  have hq' : ¬64 ≤ q := by omega
  simp only [State.writeTail, hs, hd, hq', Nat.mod_eq_of_lt hv, decide_false, Bool.or_self, Bool.false_eq_true, if_false,
    Bool.and_eq_true, decide_eq_true_eq, acceptTail_eq]

/-- Is the queue's ring one that EN may be set on (R200)? -/
def Queue.legal (x : Queue) : Prop := 1 ≤ x.rlog2 ∧ x.rlog2 ≤ 16 ∧ x.rbase % 64 = 0

theorem queue_legal_iff (x : Queue) : (1 ≤ x.rlog2 && x.rlog2 ≤ 16 && x.rbase % 64 == 0) = true ↔ x.legal := by
  simp [Queue.legal, and_assoc]

theorem enableQueue_legal (h : (s.queue q).legal) : s.enableQueue q = s.setQueue q { s.queue q with en := true } :=
  if_pos ((queue_legal_iff _).2 h)

theorem enableQueue_illegal (h : ¬(s.queue q).legal) : s.enableQueue q = s.setQueue q { s.queue q with cfg := true } :=
  if_neg (mt (queue_legal_iff _).1 h)

/-! LNCH. -/

/-- A queue that LNCH of a context may add to (R204). -/
def OpenToLnch (s : State) (ctx q : Nat) : Prop :=
  q < 64 ∧ (s.queue q).ctx = ctx ∧ (s.queue q).src = true ∧ (s.queue q).en = true ∧ (s.queue q).stopped = false ∧
    s.regs.deviceFatal = false

end

section

variable {s : State} {ctx q : Nat} {p : Phys}

/-- Is the queue closed to LNCH, as its check puts it? -/
def State.closed (s : State) (ctx q : Nat) : Bool :=
  64 ≤ q || (s.queue q).ctx != ctx || !(s.queue q).src || !(s.queue q).en || (s.queue q).stopped || s.regs.deviceFatal

theorem closed_eq_false_iff : s.closed ctx q = false ↔ OpenToLnch s ctx q := by
  simp only [State.closed, Bool.or_eq_false_iff, decide_eq_false_iff_not, not_le, bne_eq_false_iff_eq, Bool.not_eq_false',
    OpenToLnch, and_assoc]

theorem submit_closed (h : ¬OpenToLnch s ctx q) : s.submit ctx q p = (2, s) := by
  have hc : s.closed ctx q = true := by simpa using mt closed_eq_false_iff.1 h
  rw [State.closed] at hc
  rw [State.submit, if_pos hc]

theorem submit_illegal (h : OpenToLnch s ctx q) (hg : ¬(lrecOf ((s.readCtx ctx).2.homeRead p 64)).good (s.readCtx ctx).1 = true) :
    s.submit ctx q p = (3, (s.readCtx ctx).2.fillAt p 64) := by
  have hc := closed_eq_false_iff.2 h
  simp only [State.closed] at hc
  simp only [State.submit, hc, hg, Bool.not_false, Bool.false_eq_true, if_false, if_true]

theorem submit_full (h : OpenToLnch s ctx q) (hg : (lrecOf ((s.readCtx ctx).2.homeRead p 64)).good (s.readCtx ctx).1 = true)
    (hf : 2 ^ (s.queue q).rlog2 ≤ ((s.queue q).tail + 2 ^ 32 - (s.queue q).head) % 2 ^ 32) :
    s.submit ctx q p = (1, (s.readCtx ctx).2.fillAt p 64) := by
  have hc := closed_eq_false_iff.2 h
  simp only [State.closed] at hc
  simp only [State.submit, Queue.count, hc, hg, hf, Bool.not_true, Bool.false_eq_true, if_false, if_true]

theorem submit_accepted {dst : Phys} {w e : Bool} {b z : Nat} {s3 : State} (h : OpenToLnch s ctx q)
    (hg : (lrecOf ((s.readCtx ctx).2.homeRead p 64)).good (s.readCtx ctx).1 = true)
    (hf : ¬2 ^ (s.queue q).rlog2 ≤ ((s.queue q).tail + 2 ^ 32 - (s.queue q).head) % 2 ^ 32)
    (ha : ((s.readCtx ctx).2.fillAt p 64).dispAccess ctx
      (((s.queue q).rbase + 64 * ((s.queue q).tail % 2 ^ (s.queue q).rlog2)) % 2 ^ 64) .store = (.ok dst w e b z, s3)) :
    s.submit ctx q p = (0, tailMoves (s3.homeWrite dst ((s.readCtx ctx).2.homeRead p 64)) q (s.queue q)
      (((s.queue q).tail + 1) % 2 ^ 32)) := by
  have hc := closed_eq_false_iff.2 h
  simp only [State.closed] at hc
  simp only [State.submit, Queue.count, Queue.slotVa, hc, hg, hf, ha, acceptTail_eq, Bool.not_true, Bool.false_eq_true, if_false]

end

theorem submitAll_cons {s s1 s2 : State} {ctx t adr q st : Nat} {p : Phys} {rest : List (Nat × Nat × Nat × Phys)}
    {r : List (Nat × Word)} (hs : s.submit ctx q p = (st, s1)) (hr : s1.submitAll ctx rest = (r, s2)) :
    s.submitAll ctx ((t, adr, q, p) :: rest) = ((t, BitVec.ofNat 32 st) :: r, s2) := by
  simp only [State.submitAll, hs, hr]

/-- A warp that waits in LNCH, with its fence and its access. -/
structure Submits (s : State) (u d : Nat) (sc : Bool) (w : Warp) (f : FenceRec) (a : Access) (qs : List (Nat × Nat × Nat)) : Prop where
  warp : s.warp? u = some w
  fence : w.fences.find? (fun f => f.what == 4) = some f
  access : w.accs.find? (fun a => some a.id == f.acc) = some a
  kind : a.kind = .lnch d sc qs

section

variable {s s1 s2 : State} {u d : Nat} {sc : Bool} {w : Warp} {f : FenceRec} {a : Access} {qs : List (Nat × Nat × Nat)}

/-- LNCH's records: thread, address, queue and place. -/
def Access.records (a : Access) (qs : List (Nat × Nat × Nat)) : List (Nat × Nat × Nat × Phys) :=
  (qs.zip a.spans).map fun x => (x.1.1, x.1.2.1, x.1.2.2, x.2.phys.getD ⟨0, 0⟩)

/-- Before its records are read, LNCH releases the warp's earlier stores and waits for its addresses. -/
theorem lnchRecordRead_early (h : Submits s u d sc w f a qs) (he : f.relDone = false ∨ a.walked = false) :
    exec (.lnchRecordRead u) s =
      .next (if f.relDone = false ∧ w.storesOpen f.seq = false then s.release w f else s) := by
  simp only [exec_lnchRecordRead, execLnchRecordRead, h.warp, h.fence, h.access]
  cases hr : f.relDone
  · cases ho : w.storesOpen f.seq <;> rfl
  · rw [he.resolve_left (by simp [hr])]; rfl

theorem lnchRecordRead_lost (h : Submits s u d sc w f a qs) (hr : f.relDone = true) (hw : a.walked = true)
    {p : Nat × Nat × Nat × Phys} (hp : (a.records qs).find? (fun p => !s.reaches p.2.2.2 0) = some p) :
    exec (.lnchRecordRead u) s = .next (s.ctxFatal w.ctx w.die (w.core % 128) 0x84 p.2.2.2.pa) := by
  simp only [Access.records] at hp
  simp only [exec_lnchRecordRead, execLnchRecordRead, h.warp, h.fence, h.access, h.kind, hr, hw, hp]; rfl

theorem lnchRecordRead_waits (h : Submits s u d sc w f a qs) (hr : f.relDone = true) (hw : a.walked = true)
    (hp : ∀ p ∈ a.records qs, s.reaches p.2.2.2 0 = true)
    (hh : s.hostCame w.ctx ((a.records qs).map fun p => p.2.2.2) = (false, s1)) : exec (.lnchRecordRead u) s = .next s1 := by
  have hnone : (a.records qs).find? (fun p => !s.reaches p.2.2.2 0) = none := List.find?_eq_none.2 fun p hm => by simp [hp p hm]
  simp only [Access.records] at hnone hh
  simp only [exec_lnchRecordRead, execLnchRecordRead, h.warp, h.fence, h.access, h.kind, hr, hw, hnone, hh]; rfl

theorem lnchRecordRead_submits (h : Submits s u d sc w f a qs) (hr : f.relDone = true) (hw : a.walked = true)
    (hp : ∀ p ∈ a.records qs, s.reaches p.2.2.2 0 = true)
    (hh : s.hostCame w.ctx ((a.records qs).map fun p => p.2.2.2) = (true, s1)) {r : List (Nat × Word)}
    (hs : s1.submitAll w.ctx (a.records qs) = (r, s2)) :
    exec (.lnchRecordRead u) s = .next (resulted
      (s2.modWarp u fun (w : Warp) => { w with fences := w.fences.filter fun x => x.id != f.id }) u a.id
      (if sc then r.map fun x => .s (d - 64) x.2 else [.v d r])) := by
  have hnone : (a.records qs).find? (fun p => !s.reaches p.2.2.2 0) = none := List.find?_eq_none.2 fun p hm => by simp [hp p hm]
  simp only [Access.records] at hnone hh hs
  simp only [exec_lnchRecordRead, execLnchRecordRead, h.warp, h.fence, h.access, h.kind, hr, hw, hnone, hh, hs]; rfl

end

end Sys2Proof.Machine
end

section
/-! A lane's pool, and the end of a warp (R142, R158, R159). -/

namespace Sys2Proof.Machine

/-! The pool. -/

theorem allocationRelease_eq {s : State} {lane : Nat} {w : Warp}
    (h : (s.laneWarps (lane / 16) (lane % 16)).find? (fun w => w.park.alloc != 0 && !w.park.restore) = some w) :
    exec (.allocationRelease lane) s =
      .next (if s.poolHolds w w.park.alloc = true then s.setWarp { w with park := { w.park with alloc := 0 } } else s) := by
  simp only [exec_allocationRelease, execAllocationRelease, h]
  exact (apply_ite Host.Outcome.next _ _ _).symm

theorem laneSpill_spills {s s1 : State} {lane : Nat} {o w : Warp} {rest : List Warp}
    (hl : s.laneWarps (lane / 16) (lane % 16) = o :: rest) (hall : ∀ x ∈ o :: rest, x.park.alloc ≠ 0)
    (ho : s.poolHolds o o.park.alloc = false)
    (hw : rest.reverse.find? (fun w => !w.toSpill.isEmpty && w.park.faults.isEmpty) = some w)
    (hd : s.laneWrite w (w.control + 480) (leBytes 4 w.depth) = (true, s1)) :
    exec (.laneSpill lane) s =
      .next ((s1.modWarp w.uid fun (w : Warp) => { w with park := { w.park with restore := true } }).spillAll w.uid w.toSpill) := by
  have hall' : ((o :: rest).all fun w => w.park.alloc != 0) = true := List.all_eq_true.2 fun x hx => by simpa using hall x hx
  simp only [exec_laneSpill, execLaneSpill, hl, hall', ho, hw, hd]; rfl

/-- Runs of bytes written one after another are `laneWrites`; after a fault no more is written. -/
theorem laneWrite_foldl {β : Type} (w : Warp) (f : β → Nat × List Byte) (l : List β) (s : State) :
    l.foldl (fun (x : Bool × State) p => if x.1 then x.2.laneWrite w (f p).1 (f p).2 else x) (true, s) =
      s.laneWrites w (l.map f) := by
  have stays : ∀ (l : List β) (t : State),
      l.foldl (fun (x : Bool × State) p => if x.1 then x.2.laneWrite w (f p).1 (f p).2 else x) (false, t) = (false, t) :=
    fun l t => by
      induction l with
      | nil => rfl
      | cons p ps ih => exact ih
  induction l generalizing s with
  | nil => rfl
  | cons p ps ih =>
    rw [List.foldl_cons, List.map_cons, State.laneWrites, if_pos rfl]
    rcases s.laneWrite w (f p).1 (f p).2 with ⟨_ | _, t⟩
    · exact stays ps t
    · exact ih t

section

variable {s s1 : State} {u : Nat} {w : Warp} {rs : List (Nat × VReg)}

/-- The registers that a warp holds once those it has spilled are back. -/
def Warp.claimsWith (w : Warp) (rs : List (Nat × VReg)) : Nat := rs.foldl (fun n p => n + p.2.cost) w.claims

theorem spillRestore_waits (h : s.warp? u = some w) (hr : w.park.restore = true) (hf : w.park.faults = [])
    (hs : s.spilledRegs w w.spilled = (.inr rs, s1)) (hp : s1.poolHolds w (w.claimsWith rs) = false) :
    exec (.spillRestore u) s = .next s1 := by
  rw [Warp.claimsWith] at hp
  simp only [exec_spillRestore, execSpillRestore, h, hr, hf, hs, hp]; rfl

theorem spillRestore_restores {s2 : State} (h : s.warp? u = some w) (hr : w.park.restore = true) (hf : w.park.faults = [])
    (hs : s.spilledRegs w w.spilled = (.inr rs, s1)) (hp : s1.poolHolds w (w.claimsWith rs) = true)
    (hw : s1.laneWrites w (rs.map fun p => (w.control + 8704 + p.1, [0])) = (true, s2)) :
    exec (.spillRestore u) s = .next (s2.modWarp u fun (x : Warp) =>
      { x with v := rs.foldl (fun v p => v.set p.1 p.2) x.v, spilled := [], park := { x.park with restore := false } }) := by
  rw [Warp.claimsWith] at hp
  rw [← laneWrite_foldl] at hw
  simp only [exec_spillRestore, execSpillRestore, h, hr, hf, hs, hp, hw]; rfl

end

/-! The end of a warp. -/

section

variable {s t : State} {u : Nat} {w : Warp} {g : Gang}

theorem warpEnd_waits (h : s.warp? u = some w) (ho : s.warpOver w = false) : exec (.warpEnd u) s = .next s := by
  simp only [exec_warpEnd, execWarpEnd, h, ho]; rfl

theorem endWg_warps (s : State) (g : Gang) (n : Nat) : (s.endWg g n).warps = s.warps := rfl

/-- The warp's workgroup ends with its last warp, and its gang with the last of all. -/
theorem warpEnd_eq (h : s.warp? u = some w) (ho : s.warpOver w = true) (ht : (s.unpair u).removeWarp w = t)
    (hg : t.gang? w.gang = some g) :
    let t1 := if t.warps.any fun x => x.gang == g.uid && x.wgid == w.wgid then t else t.endWg g w.wgid
    exec (.warpEnd u) s = .next (if t1.warps.any fun x => x.gang == g.uid then t1 else (t1.endGang g).settleChans) := by
  subst ht
  simp only [exec_warpEnd, execWarpEnd, h, ho, hg, Bool.not_true, Bool.false_eq_true, if_false]
  exact (apply_ite Host.Outcome.next _ _ _).symm

theorem any_gang_iff (l : List Warp) (g : Gang) : (l.any fun x => x.gang == g.uid) = true ↔ ∃ x ∈ l, x.gang = g.uid := by
  simp

theorem any_wg_iff (l : List Warp) (g : Gang) (n : Nat) :
    (l.any fun x => x.gang == g.uid && x.wgid == n) = true ↔ ∃ x ∈ l, x.gang = g.uid ∧ x.wgid = n := by
  simp

theorem warpEnd_of_wg (h : s.warp? u = some w) (ho : s.warpOver w = true) (ht : (s.unpair u).removeWarp w = t)
    (hg : t.gang? w.gang = some g) (hx : ∃ x ∈ t.warps, x.gang = g.uid ∧ x.wgid = w.wgid) :
    exec (.warpEnd u) s = .next t := by
  have hgang : ∃ x ∈ t.warps, x.gang = g.uid := hx.imp fun x hx => ⟨hx.1, hx.2.1⟩
  rw [warpEnd_eq h ho ht hg, if_pos ((any_wg_iff t.warps g _).2 hx), if_pos ((any_gang_iff t.warps g).2 hgang)]

theorem warpEnd_of_gang (h : s.warp? u = some w) (ho : s.warpOver w = true) (ht : (s.unpair u).removeWarp w = t)
    (hg : t.gang? w.gang = some g) (hx : ∃ x ∈ t.warps, x.gang = g.uid)
    (hno : ∀ x ∈ t.warps, x.gang = g.uid → x.wgid ≠ w.wgid) :
    exec (.warpEnd u) s = .next (t.endWg g w.wgid) := by
  have hwg : ¬∃ x ∈ t.warps, x.gang = g.uid ∧ x.wgid = w.wgid := fun ⟨x, hm, h1, h2⟩ => hno x hm h1 h2
  rw [warpEnd_eq h ho ht hg, if_neg (mt (any_wg_iff t.warps g _).1 hwg), endWg_warps, if_pos ((any_gang_iff t.warps g).2 hx)]

theorem warpEnd_last (h : s.warp? u = some w) (ho : s.warpOver w = true) (ht : (s.unpair u).removeWarp w = t)
    (hg : t.gang? w.gang = some g) (hno : ∀ x ∈ t.warps, x.gang ≠ g.uid) :
    exec (.warpEnd u) s = .next ((t.endWg g w.wgid).endGang g).settleChans := by
  have hgang : ¬∃ x ∈ t.warps, x.gang = g.uid := fun ⟨x, hm, h1⟩ => hno x hm h1
  have hwg : ¬∃ x ∈ t.warps, x.gang = g.uid ∧ x.wgid = w.wgid := fun ⟨x, hm, h1, _⟩ => hno x hm h1
  rw [warpEnd_eq h ho ht hg, if_neg (mt (any_wg_iff t.warps g _).1 hwg), endWg_warps, if_neg (mt (any_gang_iff t.warps g).1 hgang)]

end

end Sys2Proof.Machine
end

section
open Sys2Proof Sys2Proof.Machine Sys2Proof.Claims

/-- Settles O57: each step answers as the lemma for the case at hand says. -/
theorem dispatchSteps : Obligations.DispatchSteps := by
  unfold Obligations.DispatchSteps
  refine ⟨?head, ?wait, ?signals, ?cands, ?choose, ?place, ?fits, ?decision, ?complete, ?flush, ?regs, ?lnch, ?submit, ?submitAll,
    ?alloc, ?spill, ?restore, ?ending⟩
  case head =>
    intro s q hr he hs hne hh hq x does
    have hrun := headRecordRead_eq hr he hs (queue_count_ne_zero hne hh) hq
    refine ⟨fun hc => ?_, fun hc hcur => ?_, fun hc hcur => ⟨fun r s1 ha hf => ?_, fun p w e b z s1 ha =>
      ⟨fun hp => ?_, fun hp s2 hw => ?_, fun hp s2 hw => ⟨fun hg => ?_, fun hg => ?_⟩⟩⟩⟩
    · exact hrun.trans (congrArg _ (if_pos hc))
    · exact hrun.trans (congrArg _ ((if_neg hc.not_ge).trans (if_pos (Option.isSome_iff_ne_none.2 hcur))))
    all_goals
      refine (hrun.trans (congrArg _ ((if_neg hc.not_ge).trans (if_neg (Option.isSome_iff_ne_none.not_left.2 hcur))))).trans
        (congrArg Host.Outcome.next ?_)
    · exact readHead_fault ha hf
    · exact readHead_lost ha hp
    · exact readHead_waits ha hp hw
    · exact readHead_illegal ha hp hw hg
    · exact readHead_legal ha hp hw hg
  case wait =>
    intro s q id l hr he hs hcur hready hl hc x c does places
    have h : AwaitsSignals s q id l := ⟨hr, he, hs, hcur, hready, hl, hc⟩
    refine ⟨fun s1 hp => waitSignalRead_fault h hp, fun ps s1 hp => ⟨fun p hf => waitSignalRead_lost h hp hf,
      fun hf ks s2 hk => ⟨fun hm => ?_, fun hm => ?_⟩⟩⟩
    · obtain ⟨w, hw, hn⟩ := hm
      exact (waitSignalRead_reads h hp hf hk).trans (congrArg _ (if_neg fun hall => hn (hall w hw)))
    · exact (waitSignalRead_reads h hp hf hk).trans (congrArg _ (if_pos hm))
  case signals => exact fun s s1 s2 ctx k v p rest here ks hh hk => readSignals_cons hh hk
  case cands => exact fun s x => mem_candidates
  case choose =>
    intro s cs x hx aged
    obtain ⟨hmem, hp, hage, hrest⟩ := chooseCand_spec hx
    exact ⟨hmem, hp, hage, fun hno y hy hyp => goesBefore_eq_false_iff.1 (hrest hno y hy hyp)⟩
  case place => exact fun s ctx i r cores sw h => findPlace_spec h
  case fits =>
    intro s cl ctx r sw cores h
    obtain ⟨h1, h2, h3, h4, h5, h6, h7⟩ := clusterFits_spec h
    exact ⟨h1, h2, h3, h4, h5, h6, fun k hk => ⟨(h7 k hk).1, coreFits_iff.1 (h7 k hk).2⟩⟩
  case decision =>
    intro s x i cores sw hd hr hx hp c
    exact ⟨placementDecision_illegal ⟨hd, hr, hx, hp⟩, fun hc s1 h1 hl => placementDecision_places ⟨hd, hr, hx, hp⟩ hc h1 hl⟩
  case complete =>
    intro s n l hl ha he does ks busy
    refine ⟨launchComplete_waits hl ha he, fun hb => ?_⟩
    have hrun := launchComplete_flushes hl ha he hb
    refine ⟨fun hn => hrun.trans (congrArg _ (if_pos hn)), fun hn => ?_⟩
    have hrel := hrun.trans (congrArg _ (if_neg hn))
    refine ⟨fun h0 => ?_, fun hw => ?_, fun h0 h1 hp => ⟨fun hs => ?_, fun hs => ⟨fun r s1 hg hf => ?_, fun p w e b z s1 hg =>
      ⟨fun hr => ?_, fun hr => ?_⟩⟩⟩⟩
    all_goals refine hrel.trans (congrArg Host.Outcome.next ?_)
    · exact if_pos h0
    · exact launchRelease_waits hw
    all_goals refine (launchRelease_signals h0 h1 hp).trans ?_
    · exact signal_none hs
    · exact signal_fault hs hg hf
    · exact signal_lost hs hg hr
    · exact signal_adds hs hg hr
  case flush =>
    intro s core l
    refine ⟨flushLine_clean, flushLine_held, fun hd hh s1 => ⟨flushLine_placeless hd hh, fun p hp =>
      ⟨fun hr => ?_, fun hr => ?_⟩⟩⟩
    all_goals rw [flushLine_placed hd hh hp, hr]; rfl
  case regs =>
    intro s q v bits hq x ahead legal within_
    refine ⟨fun hv => ⟨s.writeTail q v, hostWrites_of_eq (exec_queueTailWrite q v s), writeTail_refused, fun hs hd hw => ?_,
      fun hs hd hw => ?_⟩, fun hl => ?_, fun hl => ?_, hostWrites_of_eq (exec_queueDisable q s),
      hostWrites_of_eq (exec_queueErrorClear q bits s)⟩
    · exact (writeTail_eq hs hd hq hv).trans (if_neg hw)
    · exact (writeTail_eq hs hd hq hv).trans (if_pos hw)
    · exact hostWrites_of_eq (by rw [exec_queueEnable, execQueueEnable, enableQueue_legal hl]; rfl)
    · exact hostWrites_of_eq (by rw [exec_queueEnable, execQueueEnable, enableQueue_illegal hl]; rfl)
  case lnch =>
    intro s u d sc w f a qs hw hf ha hk does
    have h : Submits s u d sc w f a qs := ⟨hw, hf, ha, hk⟩
    refine ⟨fun hr ho => ?_, fun hr ho => ?_, fun hr hwk => ?_, fun hr hwk => ⟨fun p hp => lnchRecordRead_lost h hr hwk hp,
      fun hp s1 hh => lnchRecordRead_waits h hr hwk hp hh, fun hp s1 r s2 hh hs => lnchRecordRead_submits h hr hwk hp hh hs⟩⟩
    · exact (lnchRecordRead_early h (.inl hr)).trans (congrArg _ (if_neg (by simp [ho])))
    · exact (lnchRecordRead_early h (.inl hr)).trans (congrArg _ (if_pos ⟨hr, ho⟩))
    · exact (lnchRecordRead_early h (.inr hwk)).trans (congrArg _ (if_neg (by simp [hr])))
  case submit =>
    intro s ctx q p x s1 bs s2 open_ good full
    exact ⟨submit_closed, submit_illegal, submit_full, fun dst w e b z s3 h hg hf ha => submit_accepted h hg hf ha⟩
  case submitAll => exact fun s s1 s2 ctx t adr q st p rest r hs hr => submitAll_cons hs hr
  case alloc =>
    exact fun s lane w h => ⟨fun hp => (allocationRelease_eq h).trans (congrArg _ (if_pos hp)),
      fun hp => (allocationRelease_eq h).trans (congrArg _ (if_neg (Bool.eq_false_iff.1 hp)))⟩
  case spill => exact fun s s1 lane o w rest hl hall ho hw hd => laneSpill_spills hl hall ho hw hd
  case restore =>
    exact fun s s1 u w rs h hr hf hs => ⟨spillRestore_waits h hr hf hs, fun s2 hp hw => spillRestore_restores h hr hf hs hp hw⟩
  case ending =>
    exact fun s u w h => ⟨warpEnd_waits h, fun g ho hg =>
      ⟨warpEnd_of_wg h ho rfl hg, warpEnd_of_gang h ho rfl hg, warpEnd_last h ho rfl hg⟩⟩
end
